-- ==== Sys2Proof/Word.lean ====
section
/-! DEFINITION. The bit vectors the manual names: bytes, instruction words, register values (R5, R108, R147). -/

namespace Sys2Proof

/-- One byte of memory (R5). -/
abbrev Byte := BitVec 8

/-- One 32-bit instruction or frame word (R93, R108). -/
abbrev Word := BitVec 32

/-- One 64-bit register value or token payload (R147). -/
abbrev Dword := BitVec 64

end Sys2Proof
end

