-- ==== Sys2Proof/Syntax.lean ====
section
/-! DEFINITION. The instructions and device steps of spec/opcode_table.json: one constructor of `Instr` per row, and the
operands, types and engine names they carry (R108 to R115, spec/95_what_each_step_holds.md). -/

namespace Sys2Proof

/-- The four marker tokens of R47. -/
inductive Marker where
  | seg | row | ten | drn
  deriving DecidableEq, Repr

/-- The instruction forms of R108: 32-bit register, 32-bit immediate, 64-bit and 96-bit. -/
inductive Form where
  | s | i | l | w
  deriving DecidableEq, Repr

/-- The operand constants zero, one and mone (R69, R110). -/
inductive Const where
  | zero | one | mone
  deriving DecidableEq, Repr

/-- What a 6-bit operand code names (R110). `alt n` is output port on when it is the destination D and the
non-consuming peek pkn when it is a source; `cur n` is fbn or smn. -/
inductive Opd where
  | reg (n : BitVec 5)
  | inp (n : BitVec 3)
  | alt (n : BitVec 3)
  | cur (n : BitVec 3)
  | con (c : Const)
  | mrk (m : Marker)
  | absent
  deriving DecidableEq, Repr

/-- The element types of R121. -/
inductive Ty where
  | f64 | f32 | f16 | bf16 | x8e4 | x8e5 | x4e2 | i8 | i16 | i32 | i64 | n8 | n16 | n32 | n64 | tern
  deriving DecidableEq, Repr

/-- The fields of one instruction word group (R108). A field that the form does not have holds its neutral value
(`absent` or zero); `t` and `rm` keep the codes of R112 and R113. -/
structure Ops where
  form  : Form
  f     : BitVec 4 := 0
  d     : Opd := .absent
  a     : Opd := .absent
  b     : Opd := .absent
  c     : Opd := .absent
  imm10 : BitVec 10 := 0
  imm12 : BitVec 12 := 0
  x     : BitVec 4 := 0
  sat   : Bool := false
  rm    : BitVec 3 := 0
  t     : BitVec 6 := 0
  lit   : Word := 0
  deriving DecidableEq, Repr

/-- The coordinates of a task slot, die, tile, PE and slot, as %slot and %place hold them (R136, R156). -/
structure Coord where
  die  : BitVec 2
  tile : BitVec 9
  pe   : BitVec 6
  slot : BitVec 2
  deriving DecidableEq, Repr

/-- One end of a link (R42, R98): a task port, an island channel (0 cmd, 1 feed, 2 draw; R338), a stream port of an MT
(R20, R100), the queue, dealing and collecting channels of an elastic stage (R51, R100), or a channel of an edge unit (R46,
R98). Units, islands and edge units are the package numbers of R17 and R418; L2 slice n of die d is 864 + 32·d + n. -/
inductive End where
  | task (place : Coord) (port : BitVec 3)
  | island (isl ch : Nat)
  | stream (u port : Nat)
  | queue (u stg : Nat)
  | deal (u stg rep : Nat)
  | coll (u stg rep : Nat)
  | leave (u stg : Nat)
  | edge (e ch : Nat)
  deriving DecidableEq, Repr

/-- An engine that passes DRN on its output channels (R56): a matrix island, a streamer node, an elastic stage, or an edge unit
(a syntax engine by its unit number of R418, an L2 slice after them). -/
inductive Engine where
  | island (isl : Nat)
  | stream (u port : Nat)
  | stage (u stg : Nat)
  | edge (e : Nat)
  deriving DecidableEq, Repr

/-- A cache that holds lines: the L1 of a compute unit, or the L2 slices of the package (R206). -/
inductive CacheId where
  | l1 (u : Nat)
  | l2
  deriving DecidableEq, Repr

/-- A coded-video stream as an event names it: its context and its handle (R309). -/
structure StrmName where
  ctx    : Nat
  handle : Dword
  deriving DecidableEq, Repr

/-- An access between packages (R420): the answer to an access that an instruction or an engine of this package sent, or an
access that another package sent here, performed in context `ctx` at virtual address `va`. A load or a store names the kind of
page it is for (`once`: LDP or STO), a store the package and context it comes from; an atomic of R239 and the double atomics of
R243 are named by their opcodes. -/
inductive RemoteAccess where
  | reply (place : Coord) (values : List Dword)
  | faulted (place : Coord) (code : Nat) (addr info : Dword)
  | engReply (ctx : Nat) (va : Dword) (write : Bool) (bytes : List Byte)
  | engFault (ctx : Nat) (va : Dword) (write : Bool) (code : Nat) (addr info : Dword)
  | load (ctx : Nat) (va : Dword) (width : Nat) (once : Bool)
  | ptest (ctx : Nat) (va : Dword)
  | store (pkg src ctx : Nat) (va : Dword) (data : List Byte) (once : Bool)
  | atomic (ctx : Nat) (va : Dword) (op : BitVec 8) (t : BitVec 6) (sat : Bool) (b c : Dword)
  | double (ctx : Nat) (p q : Dword) (op : BitVec 8) (t : BitVec 6) (cs : List Dword)
  | engRead (ctx : Nat) (va : Dword) (n : Nat)
  | engWrite (pkg src ctx : Nat) (va : Dword) (data : List Byte)
  deriving DecidableEq, Repr

/-- An access between packages with the Holvor link that it comes on (R419). -/
structure LinkAccess where
  link   : Nat
  access : RemoteAccess
  deriving DecidableEq, Repr

/-- A contribution to a reduction window with the Holvor link that it comes on (R419, R421): its bytes, none when it tells that the
source's function was reset. -/
structure Contribution where
  link : Nat
  data : List Byte
  deriving DecidableEq, Repr

/-- What time sync tells over a link (R423): the TEPOCH of its peer, the lowest HVSYNC.PKG of the packages connected over it, and the
offset to an external source, when one reaches the management controller. -/
structure TimePeer where
  epoch    : Nat
  lowest   : BitVec 16
  external : Option (BitVec 16)
  deriving DecidableEq, Repr

/-- The parameter set of a signature (R425): XMSS-SHAKE256_20_256, or another, which is not accepted. -/
inductive SigSet where
  | xmssShake256h20
  | other (oid : Nat)
  deriving DecidableEq, Repr

/-- What the boot stages of R424 find: whether the SRAM test passes; the parameter set, public key and signature of the firmware
image, and whether the signature verifies under that key (R425); whether the training succeeds; the security version of the
firmware, the units found absent, and the images loaded at stage 4 (R426). -/
structure BootFinding where
  romOk      : Bool
  sigSet     : SigSet
  key        : List Byte
  signature  : List Byte
  verifies   : Bool
  trainingOk : Bool
  svn        : Word
  absent     : List Nat
  images     : List (List Byte)
  deriving DecidableEq, Repr

/-- Every row of spec/opcode_table.json: task instructions carry the fields of their words, device steps carry what
the environment decides about them. -/
inductive Instr where
  /-- NOP (R167). -/
  | nop (o : Ops)
  /-- HALT (R164). -/
  | halt (o : Ops)
  /-- WAIT (R165). -/
  | wait (o : Ops)
  /-- BR (R159). -/
  | br (o : Ops)
  /-- BZ (R160). -/
  | bz (o : Ops)
  /-- BNZ (R160). -/
  | bnz (o : Ops)
  /-- BLT (R160). -/
  | blt (o : Ops)
  /-- BGE (R160). -/
  | bge (o : Ops)
  /-- BMK (R160). -/
  | bmk (o : Ops)
  /-- CALL (R161). -/
  | call (o : Ops)
  /-- RET (R161). -/
  | ret (o : Ops)
  /-- LOOPI (R162). -/
  | loopi (o : Ops)
  /-- LOOPR (R162). -/
  | loopr (o : Ops)
  /-- TRAP (R166). -/
  | trap (o : Ops)
  /-- ADD (R169). -/
  | add (o : Ops)
  /-- ADD_LONG (R169). -/
  | addLong (o : Ops)
  /-- ADDI (R169). -/
  | addi (o : Ops)
  /-- ADDI_LONG (R169). -/
  | addiLong (o : Ops)
  /-- SUB (R169). -/
  | sub (o : Ops)
  /-- SUB_LONG (R169). -/
  | subLong (o : Ops)
  /-- MUL (R169). -/
  | mul (o : Ops)
  /-- MUL_LONG (R169). -/
  | mulLong (o : Ops)
  /-- MULH (R169). -/
  | mulh (o : Ops)
  /-- MULH_LONG (R169). -/
  | mulhLong (o : Ops)
  /-- DIV (R170). -/
  | div (o : Ops)
  /-- DIV_LONG (R170). -/
  | divLong (o : Ops)
  /-- REM (R170). -/
  | rem (o : Ops)
  /-- REM_LONG (R170). -/
  | remLong (o : Ops)
  /-- AND (R169). -/
  | and (o : Ops)
  /-- AND_LONG (R169). -/
  | andLong (o : Ops)
  /-- OR (R169). -/
  | or (o : Ops)
  /-- OR_LONG (R169). -/
  | orLong (o : Ops)
  /-- XOR (R169). -/
  | xor (o : Ops)
  /-- XOR_LONG (R169). -/
  | xorLong (o : Ops)
  /-- XORI (R169). -/
  | xori (o : Ops)
  /-- XORI_LONG (R169). -/
  | xoriLong (o : Ops)
  /-- SHL (R171). -/
  | shl (o : Ops)
  /-- SHL_LONG (R171). -/
  | shlLong (o : Ops)
  /-- SHR (R171). -/
  | shr (o : Ops)
  /-- SHR_LONG (R171). -/
  | shrLong (o : Ops)
  /-- SAR (R171). -/
  | sar (o : Ops)
  /-- SAR_LONG (R171). -/
  | sarLong (o : Ops)
  /-- ROT (R171). -/
  | rot (o : Ops)
  /-- ROT_LONG (R171). -/
  | rotLong (o : Ops)
  /-- CLZ (R171). -/
  | clz (o : Ops)
  /-- CLZ_LONG (R171). -/
  | clzLong (o : Ops)
  /-- POPC (R171). -/
  | popc (o : Ops)
  /-- POPC_LONG (R171). -/
  | popcLong (o : Ops)
  /-- MIN (R169). -/
  | min (o : Ops)
  /-- MIN_LONG (R169). -/
  | minLong (o : Ops)
  /-- MAX (R169). -/
  | max (o : Ops)
  /-- MAX_LONG (R169). -/
  | maxLong (o : Ops)
  /-- ABS (R169). -/
  | abs (o : Ops)
  /-- ABS_LONG (R169). -/
  | absLong (o : Ops)
  /-- NEG (R169). -/
  | neg (o : Ops)
  /-- NEG_LONG (R169). -/
  | negLong (o : Ops)
  /-- CMP (R172). -/
  | cmp (o : Ops)
  /-- CMP_LONG (R172). -/
  | cmpLong (o : Ops)
  /-- MOVI (R173). -/
  | movi (o : Ops)
  /-- MOVI_LONG (R173). -/
  | moviLong (o : Ops)
  /-- MOVL (R173). -/
  | movl (o : Ops)
  /-- MOVL_HI (R173). -/
  | movlHi (o : Ops)
  /-- LEA (R174). -/
  | lea (o : Ops)
  /-- BFX (R174). -/
  | bfx (o : Ops)
  /-- BFI (R174). -/
  | bfi (o : Ops)
  /-- FADD (R176). -/
  | fadd (o : Ops)
  /-- FADD_LONG (R176). -/
  | faddLong (o : Ops)
  /-- FSUB (R176). -/
  | fsub (o : Ops)
  /-- FSUB_LONG (R176). -/
  | fsubLong (o : Ops)
  /-- FMUL (R176). -/
  | fmul (o : Ops)
  /-- FMUL_LONG (R176). -/
  | fmulLong (o : Ops)
  /-- FMA (R176). -/
  | fma (o : Ops)
  /-- FMIN (R177). -/
  | fmin (o : Ops)
  /-- FMIN_LONG (R177). -/
  | fminLong (o : Ops)
  /-- FMAX (R177). -/
  | fmax (o : Ops)
  /-- FMAX_LONG (R177). -/
  | fmaxLong (o : Ops)
  /-- FABS (R177). -/
  | fabs (o : Ops)
  /-- FABS_LONG (R177). -/
  | fabsLong (o : Ops)
  /-- FNEG (R177). -/
  | fneg (o : Ops)
  /-- FNEG_LONG (R177). -/
  | fnegLong (o : Ops)
  /-- FCMP (R178). -/
  | fcmp (o : Ops)
  /-- FCMP_LONG (R178). -/
  | fcmpLong (o : Ops)
  /-- FCLASS (R178). -/
  | fclass (o : Ops)
  /-- FCLASS_LONG (R178). -/
  | fclassLong (o : Ops)
  /-- FCVT (R179). -/
  | fcvt (o : Ops)
  /-- FCVT_LONG (R179). -/
  | fcvtLong (o : Ops)
  /-- ICVT (R179). -/
  | icvt (o : Ops)
  /-- ICVT_LONG (R179). -/
  | icvtLong (o : Ops)
  /-- FRCP (R180). -/
  | frcp (o : Ops)
  /-- FRCP_LONG (R180). -/
  | frcpLong (o : Ops)
  /-- FRSQ (R180). -/
  | frsq (o : Ops)
  /-- FRSQ_LONG (R180). -/
  | frsqLong (o : Ops)
  /-- FSQRT (R180). -/
  | fsqrt (o : Ops)
  /-- FSQRT_LONG (R180). -/
  | fsqrtLong (o : Ops)
  /-- FEX2 (R180). -/
  | fex2 (o : Ops)
  /-- FEX2_LONG (R180). -/
  | fex2Long (o : Ops)
  /-- FLG2 (R180). -/
  | flg2 (o : Ops)
  /-- FLG2_LONG (R180). -/
  | flg2Long (o : Ops)
  /-- FSINP (R180). -/
  | fsinp (o : Ops)
  /-- FSINP_LONG (R180). -/
  | fsinpLong (o : Ops)
  /-- FCOSP (R180). -/
  | fcosp (o : Ops)
  /-- FCOSP_LONG (R180). -/
  | fcospLong (o : Ops)
  /-- FTNH (R180). -/
  | ftnh (o : Ops)
  /-- FTNH_LONG (R180). -/
  | ftnhLong (o : Ops)
  /-- PEEK (R183). -/
  | peek (o : Ops)
  /-- DROP (R184). -/
  | drop (o : Ops)
  /-- FWD (R185). -/
  | fwd (o : Ops)
  /-- MKR (R186). -/
  | mkr (o : Ops)
  /-- MKT (R187). -/
  | mkt (o : Ops)
  /-- STEER (R188). -/
  | steer (o : Ops)
  /-- STEER_LONG (R188). -/
  | steerLong (o : Ops)
  /-- MERGE (R189). -/
  | merge (o : Ops)
  /-- RACC (R190). -/
  | racc (o : Ops)
  /-- RACC_LONG (R190). -/
  | raccLong (o : Ops)
  /-- SEGR (R191). -/
  | segr (o : Ops)
  /-- SEGR_LONG (R191). -/
  | segrLong (o : Ops)
  /-- RWSET (R192). -/
  | rwset (o : Ops)
  /-- VRHINT (R193). -/
  | vrhint (o : Ops)
  /-- SYSRD (R195). -/
  | sysrd (o : Ops)
  /-- SYSWR (R195). -/
  | syswr (o : Ops)
  /-- TIME (R196). -/
  | time (o : Ops)
  /-- ENRD (R197). -/
  | enrd (o : Ops)
  /-- LD (R229). -/
  | ld (o : Ops)
  /-- LD_IMM (R229). -/
  | ldImm (o : Ops)
  /-- LD_LONG (R229). -/
  | ldLong (o : Ops)
  /-- ST (R229). -/
  | st (o : Ops)
  /-- ST_LONG (R229). -/
  | stLong (o : Ops)
  /-- LDW (R231). -/
  | ldw (o : Ops)
  /-- LDW_LONG (R231). -/
  | ldwLong (o : Ops)
  /-- LDC (R231). -/
  | ldc (o : Ops)
  /-- LDC_LONG (R231). -/
  | ldcLong (o : Ops)
  /-- STE (R231). -/
  | ste (o : Ops)
  /-- STE_LONG (R231). -/
  | steLong (o : Ops)
  /-- FESET (R231). -/
  | feset (o : Ops)
  /-- FESET_LONG (R231). -/
  | fesetLong (o : Ops)
  /-- FETEST (R231). -/
  | fetest (o : Ops)
  /-- FETEST_LONG (R231). -/
  | fetestLong (o : Ops)
  /-- LDP (R233). -/
  | ldp (o : Ops)
  /-- LDP_IMM (R233). -/
  | ldpImm (o : Ops)
  /-- LDP_LONG (R233). -/
  | ldpLong (o : Ops)
  /-- STO (R233). -/
  | sto (o : Ops)
  /-- STO_LONG (R233). -/
  | stoLong (o : Ops)
  /-- PTEST (R233). -/
  | ptest (o : Ops)
  /-- PTEST_IMM (R233). -/
  | ptestImm (o : Ops)
  /-- PTEST_LONG (R233). -/
  | ptestLong (o : Ops)
  /-- PCLR (R234). -/
  | pclr (o : Ops)
  /-- PFT (R236). -/
  | pft (o : Ops)
  /-- PFT_IMM (R236). -/
  | pftImm (o : Ops)
  /-- PFT_LONG (R236). -/
  | pftLong (o : Ops)
  /-- CLWB (R237). -/
  | clwb (o : Ops)
  /-- CLWB_IMM (R237). -/
  | clwbImm (o : Ops)
  /-- CLWB_LONG (R237). -/
  | clwbLong (o : Ops)
  /-- CLINV (R237). -/
  | clinv (o : Ops)
  /-- CLINV_IMM (R237). -/
  | clinvImm (o : Ops)
  /-- CLINV_LONG (R237). -/
  | clinvLong (o : Ops)
  /-- FENCE (R238). -/
  | fence (o : Ops)
  /-- AADD (R240). -/
  | aadd (o : Ops)
  /-- AADD_LONG (R240). -/
  | aaddLong (o : Ops)
  /-- AAND (R240). -/
  | aand (o : Ops)
  /-- AAND_LONG (R240). -/
  | aandLong (o : Ops)
  /-- AOR (R240). -/
  | aor (o : Ops)
  /-- AOR_LONG (R240). -/
  | aorLong (o : Ops)
  /-- AXOR (R240). -/
  | axor (o : Ops)
  /-- AXOR_LONG (R240). -/
  | axorLong (o : Ops)
  /-- AMIN (R240). -/
  | amin (o : Ops)
  /-- AMIN_LONG (R240). -/
  | aminLong (o : Ops)
  /-- AMAX (R240). -/
  | amax (o : Ops)
  /-- AMAX_LONG (R240). -/
  | amaxLong (o : Ops)
  /-- AXCHG (R240). -/
  | axchg (o : Ops)
  /-- AXCHG_LONG (R240). -/
  | axchgLong (o : Ops)
  /-- ACAS (R241). -/
  | acas (o : Ops)
  /-- AFADD (R242). -/
  | afadd (o : Ops)
  /-- AFADD_LONG (R242). -/
  | afaddLong (o : Ops)
  /-- DCAS (R243). -/
  | dcas (o : Ops)
  /-- AMOV2 (R243). -/
  | amov2 (o : Ops)
  /-- CBINC (R246). -/
  | cbinc (o : Ops)
  /-- CBINC_LONG (R246). -/
  | cbincLong (o : Ops)
  /-- CBSNAP (R247). -/
  | cbsnap (o : Ops)
  /-- CPY (R249). -/
  | cpy (o : Ops)
  /-- RSACQ (R254). -/
  | rsacq (o : Ops)
  /-- RSPUB (R254). -/
  | rspub (o : Ops)
  /-- RSTAKE (R254). -/
  | rstake (o : Ops)
  /-- RSREL (R254). -/
  | rsrel (o : Ops)
  /-- FBOPN (R288). -/
  | fbopn (o : Ops)
  /-- SMOPN (R288). -/
  | smopn (o : Ops)
  /-- FBADV (R288). -/
  | fbadv (o : Ops)
  /-- SMADV (R288). -/
  | smadv (o : Ops)
  /-- FBEND (R288). -/
  | fbend (o : Ops)
  /-- SMEND (R288). -/
  | smend (o : Ops)
  /-- FBCLS (R288). -/
  | fbcls (o : Ops)
  /-- SMCLS (R288). -/
  | smcls (o : Ops)
  /-- FBPOS (R288). -/
  | fbpos (o : Ops)
  /-- FBVAL (R288). -/
  | fbval (o : Ops)
  /-- FBSEK (R288). -/
  | fbsek (o : Ops)
  /-- FBISX (R288). -/
  | fbisx (o : Ops)
  /-- NZSCAN (R293). -/
  | nzscan (o : Ops)
  /-- PDEC (R292). -/
  | pdec (o : Ops)
  /-- PENC (R292). -/
  | penc (o : Ops)
  /-- GATH (R295). -/
  | gath (o : Ops)
  /-- SCAT (R295). -/
  | scat (o : Ops)
  /-- SCATA (R295). -/
  | scata (o : Ops)
  /-- PGSEL (R303). -/
  | pgsel (o : Ops)
  /-- KVAPP (R304). -/
  | kvapp (o : Ops)
  /-- KVLD (R305). -/
  | kvld (o : Ops)
  /-- PERM (R298). -/
  | perm (o : Ops)
  /-- SXCFG (R322). -/
  | sxcfg (o : Ops)
  /-- SXSTAT (R325). -/
  | sxstat (o : Ops)
  /-- SXFEED (R323). -/
  | sxfeed (o : Ops)
  /-- SXFRM (R324). -/
  | sxfrm (o : Ops)
  /-- BLKOPN (R326). -/
  | blkopn (o : Ops)
  /-- MVCLP (R327). -/
  | mvclp (o : Ops)
  /-- FWARP (R330). -/
  | fwarp (o : Ops)
  /-- DRIFT (R332). -/
  | drift (o : Ops)
  /-- DRCHK (R333). -/
  | drchk (o : Ops)
  /-- RFMARK (R334). -/
  | rfmark (o : Ops)
  /-- CHUCK (R339). -/
  | chuck (o : Ops)
  /-- MSWAP (R339). -/
  | mswap (o : Ops)
  /-- MFEED (R339). -/
  | mfeed (o : Ops)
  /-- MDRAW (R339). -/
  | mdraw (o : Ops)
  /-- MZERO (R344). -/
  | mzero (o : Ops)
  /-- TCHUCK (R354). -/
  | tchuck (o : Ops)
  /-- TFEED (R355). -/
  | tfeed (o : Ops)
  /-- TFEED_LONG (R355). -/
  | tfeedLong (o : Ops)
  /-- TDRAW (R356). -/
  | tdraw (o : Ops)
  /-- DQPUT (R373). -/
  | dqput (o : Ops)
  /-- DQGET (R374). -/
  | dqget (o : Ops)
  /-- DQCON (R375). -/
  | dqcon (o : Ops)
  /-- DQFRN (R375). -/
  | dqfrn (o : Ops)
  /-- DQQSC (R375). -/
  | dqqsc (o : Ops)
  /-- IXGET (R377). -/
  | ixget (o : Ops)
  /-- IXUPD (R376). -/
  | ixupd (o : Ops)
  /-- IXITR (R378). -/
  | ixitr (o : Ops)
  /-- IXCLR (R379). -/
  | ixclr (o : Ops)
  /-- IXSPL (R380). -/
  | ixspl (o : Ops)
  /-- LAUNCH (R392). -/
  | launch (o : Ops)
  /-- GSARM (R393). -/
  | gsarm (o : Ops)
  /-- RQRAT (R396). -/
  | rqrat (o : Ops)
  /-- RDRAT (R401). -/
  | rdrat (o : Ops)
  /-- EVTAKE (R402). -/
  | evtake (o : Ops)
  /-- DRQ (R395). -/
  | drq (o : Ops)
  /-- QPRI (R394). -/
  | qpri (o : Ops)
  /-- ISLAND_CHUCK (R343). -/
  | islandChuck (isl : Nat)
  /-- ISLAND_MSWAP (R343). -/
  | islandMswap (isl : Nat)
  /-- ISLAND_MFEED (R345). -/
  | islandMfeed (isl : Nat)
  /-- ISLAND_MFEED_TRANSPOSED (R345). -/
  | islandMfeedTransposed (isl : Nat)
  /-- ISLAND_MDRAW (R346). -/
  | islandMdraw (isl : Nat)
  /-- ISLAND_MZERO (R344). -/
  | islandMzero (isl : Nat)
  /-- ISLAND_ARMED_TILE (R348). -/
  | islandArmedTile (isl : Nat)
  /-- RECORD_READ (R54). -/
  | recordRead (p : Nat)
  /-- DEPENDENCE_GRANULES_PRESENT (R54). -/
  | dependenceGranulesPresent (p : Nat)
  /-- IMAGE_FETCH (R118). -/
  | imageFetch (p : Nat)
  /-- START_TOKEN (R57). -/
  | startToken (p : Nat)
  /-- TASK_FIRE (R38). -/
  | taskFire (place : Coord)
  /-- REGISTER_FILL (R36). -/
  | registerFill (place : Coord) (v : Nat)
  /-- LINK_TOKEN_ARRIVAL (R42). -/
  | linkTokenArrival (src : End)
  /-- SLOT_FREE_VISIBLE (R43). -/
  | slotFreeVisible (src : End)
  /-- ELASTIC_SAMPLE (R50). -/
  | elasticSample (u stg : Nat)
  /-- REPLICA_PARK (R50). -/
  | replicaPark (u stg rep : Nat)
  /-- ELASTIC_DEAL (R51). -/
  | elasticDeal (u stg : Nat)
  /-- ELASTIC_COLLECT (R51). -/
  | elasticCollect (u stg : Nat)
  /-- SECTION_COUNT_EXPIRY (R55). -/
  | sectionCountExpiry (p sect : Nat)
  /-- TASK_DRAIN (R56). -/
  | taskDrain (place : Coord)
  /-- ENGINE_DRAIN (R56). -/
  | engineDrain (e : Engine)
  /-- BRIDGE_DRAIN (R56). -/
  | bridgeDrain (src : End)
  /-- TILE_DRAINED (R57). -/
  | tileDrained (p u : Nat)
  /-- DRAIN_REPORT (R57). -/
  | drainReport (p u : Nat)
  /-- PREEMPT_REQUEST (R59). -/
  | preemptRequest (p : Nat)
  /-- DRAIN_LIMIT_EXPIRY (R60). -/
  | drainLimitExpiry (p : Nat)
  /-- CONTEXT_RESTORE (R275). -/
  | contextRestore (p : Nat)
  /-- MEMORY_ACCESS_COMPLETE (R207). -/
  | memoryAccessComplete (place : Coord)
  /-- DEFERRAL_RETRY (R204). -/
  | deferralRetry (place : Coord)
  /-- L1_EVICTION (R206). -/
  | l1Eviction (c : CacheId) (line : Nat) (bad : Bool)
  /-- ENGINE_COMMAND_COMPLETE (R210). -/
  | engineCommandComplete (cmd : Nat)
  /-- PAGE_WALK (R261). -/
  | pageWalk (u ctx : Nat) (va : Dword)
  /-- TLBINV_WRITE (R263). -/
  | tlbinvWrite (v : Dword)
  /-- TLB_INVALIDATE_COMPLETE (R263). -/
  | tlbInvalidateComplete
  /-- FRBASE_WRITE (R267). -/
  | frbaseWrite (p : Nat) (v : Dword)
  /-- FRTAIL_WRITE (R267). -/
  | frtailWrite (p : Nat) (v : Dword)
  /-- FRESUME_WRITE (R268). -/
  | fresumeWrite (p : Nat) (v : Dword)
  /-- VF_RESET (R280). -/
  | vfReset (f : Nat)
  /-- UNIT_ERROR (R278). -/
  | unitError (u : Nat) (words : List Nat)
  /-- UNFENCE_WRITE (R429). -/
  | unfenceWrite (v : Dword)
  /-- FRAME_PARSE (R324). -/
  | frameParse (st : StrmName)
  /-- PACKET_PUBLISH (R311). -/
  | packetPublish (st : StrmName)
  /-- LQRESV_READ (R384). -/
  | lqresvRead (f q width : Nat)
  /-- HOST_BAR2_WRITE (R415). -/
  | hostBar2Write (f off : Nat) (data : List Byte)
  /-- HOST_BAR2_READ (R415). -/
  | hostBar2Read (f off n : Nat)
  /-- ARBITER_GRANT (R388). -/
  | arbiterGrant (p : Nat)
  /-- IMPOSITION_COMPLETE (R386). -/
  | impositionComplete (p : Nat)
  /-- SLICE_EXPIRY (R389). -/
  | sliceExpiry (p : Nat)
  /-- GRANT_RECOMPUTE (R400). -/
  | grantRecompute (p : Nat)
  /-- PCAP_WRITE (R399). -/
  | pcapWrite (v : Dword)
  /-- STATIC_ENERGY_TICK (R406). -/
  | staticEnergyTick
  /-- TIMER_SATURATE (R32). -/
  | timerSaturate
  /-- TIMESET_WRITE (R408). -/
  | timesetWrite (v : Dword)
  /-- TEPOCH_WRITE (R408). -/
  | tepochWrite (v : Dword) (tai : Option Nat)
  /-- REGISTER_WRITE (R412). -/
  | registerWrite (f off width : Nat) (v : Dword)
  /-- CTXFN_WRITE (R417). -/
  | ctxfnWrite (c : Nat) (v : Dword)
  /-- PRTUNIT_WRITE (R417). -/
  | prtunitWrite (p j : Nat) (v : Dword)
  /-- DLTAIL_WRITE (R428). -/
  | dltailWrite (v : Dword)
  /-- HOLVOR_REMOTE_ACCESS (R420). -/
  | holvorRemoteAccess (a : LinkAccess)
  /-- REDUCTION_CONTRIBUTION (R421). -/
  | reductionContribution (w pkg ctx off : Nat) (sent : Contribution)
  /-- HOLVOR_LINK_STATE (R419). -/
  | holvorLinkState (n : Nat) (up train : Bool)
  /-- TIME_SYNC_LOCK (R423). -/
  | timeSyncLock (n : Nat) (ofs : BitVec 16) (steady : Bool) (peer : TimePeer)
  /-- BOOT (R424). -/
  | boot (found : BootFinding)
  /-- ATTESTATION_QUOTE (R426). -/
  | attestationQuote (nonce : List Byte)
  /-- THERMAL_TICK (R427). -/
  | thermalTick (temps : List Nat) (tenth : Bool)
  /-- THERMAL_TRIP (R427). -/
  | thermalTrip
  /-- DLBASE_WRITE (R428). -/
  | dlbaseWrite (v : Dword)
  deriving DecidableEq, Repr

end Sys2Proof
end

