-- ==== Sys2Proof/Machine/Entries.lean ====
section
/-! DEFINITION. The entries of the opcode map (R109 to R116): for each task instruction its opcode, its forms, the
operand codes, types and fields it admits, its class and its marker class, and the one check of R118 codes 0x10 to 0x16
that every instruction word takes. -/

namespace Sys2Proof.Machine

open Sys2Proof

/-- The marker classes of R154. -/
inductive MkClass where
  | p | o | z
  deriving DecidableEq, Repr

/-- The task classes an entry is available to (R116). -/
inductive ClassRule where
  | both | data | control
  deriving DecidableEq, Repr

/-- What an operand field of an entry admits (R110). `reg m` is a register code of at most `m`. -/
inductive Pos where
  | no | dest | destOr | port | portOr | src | srcOr | reg (m : Nat) | regOr (m : Nat)
  | inp | peek | mk3 | mk4 | cur | curOr
  deriving DecidableEq, Repr

/-- Whether an operand stands in a position (R110). -/
def Pos.admits : Pos → Opd → Bool
  | .no, .absent => true
  | .dest, .reg _ => true
  | .dest, .alt _ => true
  | .destOr, .reg _ => true
  | .destOr, .alt _ => true
  | .destOr, .absent => true
  | .port, .alt _ => true
  | .portOr, .alt _ => true
  | .portOr, .absent => true
  | .src, .reg _ => true
  | .src, .inp _ => true
  | .src, .alt _ => true
  | .src, .con _ => true
  | .srcOr, .reg _ => true
  | .srcOr, .inp _ => true
  | .srcOr, .alt _ => true
  | .srcOr, .con _ => true
  | .srcOr, .absent => true
  | .reg m, .reg n => n.toNat ≤ m
  | .regOr m, .reg n => n.toNat ≤ m
  | .regOr _, .absent => true
  | .inp, .inp _ => true
  | .peek, .alt _ => true
  | .mk3, .mrk m => m != .drn
  | .mk4, .mrk _ => true
  | .cur, .cur _ => true
  | .curOr, .cur _ => true
  | .curOr, .absent => true
  | _, _ => false

/-- The rule of an entry's 12-bit field outside form W (R109, R153, R223). -/
inductive Imm where
  | zero | any | bImm | only (p : BitVec 12 → Bool) (code : Nat)

/-- One entry of the opcode map (R109): what its words may hold. `bi` marks B immediate (R153); `countW` is the LOOPI
rule that form W takes the count from LIT; `x0` marks an entry that states X zero, `lit0` one that states LIT zero. -/
structure Entry where
  op     : BitVec 8
  forms  : List Form
  fsel   : BitVec 4 → Bool := fun _ => true
  f      : BitVec 4 → Bool := (· == 0)
  d      : Pos := .no
  a      : Pos := .no
  b      : Pos := .no
  c      : Pos := .no
  bi     : Bool := false
  countW : Bool := false
  types  : BitVec 6 → Bool := fun _ => false
  t0     : Bool := true
  rm     : Bool := false
  sat    : Bool := false
  x0     : Bool := false
  lit0   : Bool := false
  imm    : Imm := .zero
  imm10  : BitVec 10 → Bool := fun _ => true
  extra  : Ops → List Nat := fun _ => []
  cls    : ClassRule := .both
  mkc    : MkClass := .z

/-- The integer type codes 8 to 15 (R168). -/
def tInt (t : BitVec 6) : Bool := 8 ≤ t.toNat && t.toNat ≤ 15
/-- The float type codes 1 to 7 (R175). -/
def tFlt (t : BitVec 6) : Bool := 1 ≤ t.toNat && t.toNat ≤ 7
/-- Every type code 1 to 15. -/
def tAll (t : BitVec 6) : Bool := 1 ≤ t.toNat && t.toNat ≤ 15
/-- The memory types of R224: all but x4e2 and tern. -/
def tMem (t : BitVec 6) : Bool := tAll t && t != 7
/-- The full/empty types of R230. -/
def tFe (t : BitVec 6) : Bool := t == 1 || t == 2 || t == 10 || t == 11 || t == 14 || t == 15
/-- The integer atomic types of R239. -/
def tAt (t : BitVec 6) : Bool := t == 10 || t == 11 || t == 14 || t == 15
/-- The AFADD types of R239. -/
def tAf (t : BitVec 6) : Bool := 1 ≤ t.toNat && t.toNat ≤ 4
/-- The SCATA lane types of R294. -/
def tSca (t : BitVec 6) : Bool := tAf t || tAt t

/-- The bytes of type t (R224); x4e2 and tern count one. -/
def tBytes (t : BitVec 6) : Nat :=
  match t.toNat with
  | 1 => 8 | 11 => 8 | 15 => 8
  | 2 => 4 | 10 => 4 | 14 => 4
  | 3 => 2 | 4 => 2 | 9 => 2 | 13 => 2
  | _ => 1

/-- Whether a code is one of the register codes 0 to 31. -/
def opdIsReg : Opd → Bool
  | .reg _ => true
  | _ => false

/-- X of a control instruction (R111): a bank in X[2:0], its scope in X[3]; a non-zero X needs a register operand in the
scope it selects. -/
def xFits (o : Ops) : Bool :=
  o.x == 0 ||
  (if o.x.getLsbD 3 then o.x.toNat % 8 != 0 && opdIsReg o.d
   else opdIsReg o.d || opdIsReg o.a || opdIsReg o.b || opdIsReg o.c)

/-- Whether a form W word holds a LIT that its entry leaves unused (R109, R168): one with a real B beside B immediate, or an entry that
states LIT zero. -/
def Entry.strayLit (e : Entry) (o : Ops) : Bool := o.lit != 0 && (e.lit0 || (e.bi && o.b != .absent))

/-- Whether the fields imm12 and LIT are ones the entry allows in its form (R109, R153, R168, R223). -/
def Entry.immCodes (e : Entry) (o : Ops) : List Nat :=
  match o.form with
  | .s => []
  | .i => []
  | .w => if (e.countW || o.imm12 == 0) && !e.strayLit o then [] else [0x14]
  | .l =>
    match e.imm with
    | .zero => if o.imm12 == 0 then [] else [0x14]
    | .any => []
    | .bImm => if o.b == .absent || o.imm12 == 0 then [] else [0x14]
    | .only p code => if p o.imm12 then [] else [code]

/-- The operand codes of a word against its entry (R110, code 0x12). -/
def Entry.opdCodes (e : Entry) (o : Ops) : List Nat :=
  let aPos := if e.countW && o.form == .w then Pos.no else e.a
  let bOk := match o.form with
    | .s => e.b.admits o.b
    | .i => o.b == .absent
    | _ => (e.bi && o.b == .absent) || e.b.admits o.b
  let cOk := match o.form with
    | .s => o.c == .absent
    | .i => o.c == .absent
    | _ => e.c.admits o.c
  if e.d.admits o.d && aPos.admits o.a && bOk && cOk then [] else [0x12]

/-- The word-1 fields of a word against its entry (R109, R111 to R113, code 0x14); an X that fits neither class fails also where no
task reaches the word (the model's choice, log entry 15). -/
def Entry.wordCodes (e : Entry) (o : Ops) : List Nat :=
  let tOk := (o.t == 0 && e.t0) || e.types o.t
  let rmOk := o.rm == 0 || (e.rm && o.rm != 7)
  let satOk := !o.sat || e.sat
  let xOk := o.x == 0 || (!e.x0 && e.cls != .data && xFits o)
  match o.form with
  | .s => []
  | .i => []
  | _ => if tOk && rmOk && satOk && xOk then [] else [0x14]

/-- The checks of R118 that an instruction word takes whatever task reaches it: the codes of those that fail. -/
def Entry.codes (e : Entry) (o : Ops) : List Nat :=
  (if e.forms.contains o.form then [] else [0x15]) ++
  (if o.form == .i || e.f o.f then [] else [0x11]) ++
  e.opdCodes o ++
  (if o.form == .i && !e.imm10 o.imm10 then [0x12] else []) ++
  e.wordCodes o ++ e.immCodes o ++ e.extra o

/-- The fields that the form of an instruction does not have hold their neutral values (R108). -/
def opsShaped (o : Ops) : Bool :=
  match o.form with
  | .s => o.c == .absent && o.imm10 == 0 && o.imm12 == 0 && o.x == 0 && !o.sat && o.rm == 0 && o.t == 0 && o.lit == 0
  | .i => o.b == .absent && o.c == .absent && o.f == 0 && o.imm12 == 0 && o.x == 0 && !o.sat && o.rm == 0 && o.t == 0
      && o.lit == 0
  | .l => o.imm10 == 0 && o.lit == 0
  | .w => o.imm10 == 0

/-- A word group that the loader accepts for some task (R118, codes 0x10 to 0x15). -/
def Entry.ok (e : Entry) (o : Ops) : Bool := opsShaped o && e.codes o == []

/-! ### The class of the task (R110, R111, R116) -/

/-- The checks of R118 that depend on the task that reaches the word: bound ports (0x13), X (0x14) and class (0x16). -/
def Entry.taskCodes (e : Entry) (o : Ops) (ctl : Bool) (inBound outBound : Nat → Bool) : List Nat :=
  let srcBound : Opd → Bool
    | .inp n => inBound n.toNat
    | .alt n => inBound n.toNat
    | _ => true
  let dstBound : Opd → Bool
    | .alt n => outBound n.toNat
    | _ => true
  (if dstBound o.d && srcBound o.a && srcBound o.b && srcBound o.c then [] else [0x13]) ++
  (if o.x == 0 || (ctl && xFits o) then [] else [0x14]) ++
  (match e.cls with
   | .both => []
   | .data => if ctl then [0x16] else []
   | .control => if ctl then [] else [0x16])

/-! ### Chapter "Task instructions" (R158 to R194) -/

def eNop : Entry := { op := 0x00, forms := [.s], mkc := .o }
def eHalt : Entry := { op := 0x01, forms := [.s], mkc := .o }
def eWait : Entry := { op := 0x02, forms := [.s], f := fun f => f.toNat ≤ 2, mkc := .o }
def eBr : Entry := { op := 0x03, forms := [.i], mkc := .o }
def eBz : Entry := { op := 0x04, forms := [.i], a := .src }
def eBnz : Entry := { op := 0x05, forms := [.i], a := .src }
def eBlt : Entry := { op := 0x06, forms := [.l], a := .src, b := .src, types := tInt, imm := .any }
def eBge : Entry := { op := 0x07, forms := [.l], a := .src, b := .src, types := tInt, imm := .any }
def eBmk : Entry := { op := 0x08, forms := [.l], a := .peek, b := .mk4, imm := .any, mkc := .o }
def eCall : Entry := { op := 0x09, forms := [.i], mkc := .o }
def eRet : Entry := { op := 0x0A, forms := [.s], mkc := .o }
def eLoopi : Entry := { op := 0x0B, forms := [.l, .w], a := .src, countW := true, imm := .any }
def eLoopr : Entry :=
  { op := 0x0C, forms := [.l, .w], f := (· != 0), a := .src, countW := true, imm := .any, cls := .data }
def eTrap : Entry := { op := 0x0D, forms := [.i], a := .srcOr }

/-- An integer entry of two sources whose B may be immediate (R168). -/
def intBin (op : BitVec 8) (sat : Bool) (f : BitVec 4 → Bool := (· == 0)) : Entry :=
  { op := op, forms := [.s, .l, .w], f := f, d := .dest, a := .src, b := .src, bi := true, types := tInt, sat := sat,
    imm := .bImm, mkc := .p }
/-- An integer entry whose B is always immediate (R168). -/
def intImm (op : BitVec 8) (sat : Bool) : Entry :=
  { op := op, forms := [.i, .l, .w], d := .dest, a := .src, types := tInt, sat := sat, imm := .any, mkc := .p }
/-- An integer entry of one source (R168). -/
def intUn (op : BitVec 8) (sat : Bool) : Entry :=
  { op := op, forms := [.s, .l], d := .dest, a := .src, types := tInt, sat := sat, lit0 := true, mkc := .p }

def eAdd : Entry := intBin 0x10 true
def eAddi : Entry := intImm 0x11 true
def eSub : Entry := intBin 0x12 true
def eMul : Entry := intBin 0x13 true
def eMulh : Entry := intBin 0x14 false
def eDiv : Entry := intBin 0x15 false
def eRem : Entry := intBin 0x16 false
def eAnd : Entry := intBin 0x17 false
def eOr : Entry := intBin 0x18 false
def eXor : Entry := intBin 0x19 false
def eXori : Entry := intImm 0x1A false
def eShl : Entry := intBin 0x1B false
def eShr : Entry := intBin 0x1C false
def eSar : Entry := intBin 0x1D false
def eRot : Entry := intBin 0x1E false
def eClz : Entry := intUn 0x1F false
def ePopc : Entry := intUn 0x20 false
def eMin : Entry := intBin 0x21 false
def eMax : Entry := intBin 0x22 false
def eAbs : Entry := intUn 0x23 true
def eNeg : Entry := intUn 0x24 true
def eCmp : Entry := intBin 0x25 false (fun f => f.toNat ≤ 5)
def eMovi : Entry := { op := 0x26, forms := [.i, .l, .w], d := .dest, types := tInt, imm := .any, mkc := .o }
def eMovl : Entry := { op := 0x27, forms := [.w], fsel := (· != 1), d := .dest, mkc := .o }
def eMovlHi : Entry := { op := 0x27, forms := [.w], fsel := (· == 1), f := (· == 1), d := .reg 31, mkc := .o }
def eLea : Entry :=
  { op := 0x28, forms := [.l], f := fun _ => true, d := .dest, a := .src, b := .src, imm := .any, mkc := .p }
/-- R174: pos + len at most 64. -/
def bitFieldFits (i : BitVec 12) : Bool := i.toNat % 64 + i.toNat / 64 + 1 ≤ 64
def eBfx : Entry :=
  { op := 0x29, forms := [.l], f := fun f => f.toNat ≤ 1, d := .dest, a := .src, imm := .only bitFieldFits 0x14, mkc := .p }
def eBfi : Entry :=
  { op := 0x2A, forms := [.l], d := .reg 31, a := .src, imm := .only bitFieldFits 0x14, mkc := .p }

/-- A floating-point entry of two sources with rounding and saturation (R175). -/
def fltBin (op : BitVec 8) : Entry :=
  { op := op, forms := [.s, .l], d := .dest, a := .src, b := .src, types := tFlt, rm := true, sat := true, mkc := .p }
/-- A floating-point entry of two sources that is exact (R175). -/
def fltExact (op : BitVec 8) (f : BitVec 4 → Bool := (· == 0)) : Entry :=
  { op := op, forms := [.s, .l], f := f, d := .dest, a := .src, b := .src, types := tFlt, mkc := .p }
/-- A floating-point entry of one source (R175). -/
def fltUn (op : BitVec 8) (rm : Bool) : Entry :=
  { op := op, forms := [.s, .l], d := .dest, a := .src, types := tFlt, rm := rm, sat := rm, mkc := .p }

def eFadd : Entry := fltBin 0x40
def eFsub : Entry := fltBin 0x41
def eFmul : Entry := fltBin 0x42
def eFma : Entry := { fltBin 0x43 with forms := [.l], c := .src }
def eFmin : Entry := fltExact 0x44
def eFmax : Entry := fltExact 0x45
def eFabs : Entry := fltUn 0x46 false
def eFneg : Entry := fltUn 0x47 false
def eFcmp : Entry := fltExact 0x48 (fun f => f.toNat ≤ 7)
def eFclass : Entry := fltUn 0x49 false
/-- R179: the source type in imm12[4:0], 0 to 15. -/
def srcTypeOk (i : BitVec 12) : Bool := i.toNat ≤ 15
def eFcvt : Entry := { fltUn 0x4A true with f := fun f => f.toNat ≤ 1, imm := .only srcTypeOk 0x14 }
def eIcvt : Entry := { fltUn 0x4B true with f := fun f => f.toNat ≤ 1, types := tInt, imm := .only srcTypeOk 0x14 }
def eFrcp : Entry := fltUn 0x50 true
def eFrsq : Entry := fltUn 0x51 true
def eFsqrt : Entry := fltUn 0x52 true
def eFex2 : Entry := fltUn 0x53 true
def eFlg2 : Entry := fltUn 0x54 true
def eFsinp : Entry := fltUn 0x55 true
def eFcosp : Entry := fltUn 0x56 true
def eFtnh : Entry := fltUn 0x57 true

def ePeek : Entry := { op := 0x70, forms := [.i], d := .dest, a := .peek, imm10 := fun n => n.toNat ≤ 14, mkc := .o }
def eDrop : Entry :=
  { op := 0x71, forms := [.i], a := .inp, imm10 := fun n => 1 ≤ n.toNat && n.toNat ≤ 15, mkc := .o }
def eFwd : Entry := { op := 0x72, forms := [.s], d := .dest, a := .src, mkc := .o }
def eMkr : Entry := { op := 0x73, forms := [.s], d := .port, a := .mk3, mkc := .o }
def eMkt : Entry := { op := 0x74, forms := [.s], d := .dest, a := .peek, b := .mk4, mkc := .o }
/-- R182: imm12[3] = 1, imm12[2:0] the false port, the rest zero. -/
def falsePortOk (i : BitVec 12) : Bool := i.toNat / 8 == 1
def eSteer : Entry :=
  { op := 0x75, forms := [.s, .l], d := .port, a := .src, b := .src, imm := .only falsePortOk 0x12, mkc := .o }
def eMerge : Entry := { op := 0x76, forms := [.l], d := .dest, a := .inp, b := .inp, c := .src, mkc := .o }
/-- R190: count with a float type, and min or max with SAT, are rejected. -/
def raccExtra (o : Ops) : List Nat :=
  if o.form == .l && ((o.f.toNat % 4 == 3 && tFlt o.t) || ((o.f.toNat % 4 == 1 || o.f.toNat % 4 == 2) && o.sat))
  then [0x14] else []
def eRacc : Entry :=
  { op := 0x77, forms := [.s, .l], f := fun f => 4 ≤ f.toNat, d := .dest, a := .inp, b := .reg 31, types := tAll, rm := true,
    sat := true, extra := raccExtra, mkc := .o }
def eSegr : Entry := { op := 0x78, forms := [.s, .l], f := fun f => f.toNat ≤ 3, d := .reg 31, types := tAll, mkc := .o }
def eRwset : Entry := { op := 0x7C, forms := [.i], a := .srcOr, cls := .data }
/-- R182: the count 1 to 32 of VRHINT. -/
def vrCountOk (i : BitVec 12) : Bool := 1 ≤ i.toNat && i.toNat ≤ 32
/-- The control register a source code c names (R111): v(32k + c) with X[3] = 0, v(c) with X[3] = 1. -/
def vSrc (o : Ops) (c : BitVec 5) : Nat := if o.x.getLsbD 3 then c.toNat else 32 * (o.x.toNat % 8) + c.toNat
/-- The control register a destination code c names (R111): v(32k + c). -/
def vDst (o : Ops) (c : BitVec 5) : Nat := 32 * (o.x.toNat % 8) + c.toNat
/-- R193: a range that runs past v255 is rejected. -/
def vrExtra (o : Ops) : List Nat :=
  match o.a with
  | .reg c => if vSrc o c + o.imm12.toNat ≤ 256 then [] else [0x14]
  | _ => []
def eVrhint : Entry :=
  { op := 0x7D, forms := [.l], f := fun f => f.toNat ≤ 1, a := .reg 31, imm := .only vrCountOk 0x12, extra := vrExtra,
    cls := .control, mkc := .o }
/-- R157: special registers 0 to 15. -/
def sysNumOk (n : BitVec 10) : Bool := n.toNat ≤ 15
/-- R156: the special registers SYSWR may write: 4 to 9. -/
def sysWrOk (n : BitVec 10) : Bool := 4 ≤ n.toNat && n.toNat ≤ 9
def eSysrd : Entry := { op := 0x80, forms := [.i], d := .dest, imm10 := sysNumOk }
def eSyswr : Entry := { op := 0x81, forms := [.i], a := .src, imm10 := sysWrOk }
def eTime : Entry := { op := 0x82, forms := [.s], d := .dest }
def eEnrd : Entry := { op := 0x83, forms := [.s], d := .dest }

/-! ### Chapter "Memory, tag, atomic and ring instructions" (R222 to R256) -/

/-- An entry that loads from `[a + disp]` (R223). -/
def memLd (op : BitVec 8) (forms : List Form) (types : BitVec 6 → Bool) (f : BitVec 4 → Bool := (· == 0)) : Entry :=
  { op := op, forms := forms, f := f, d := .dest, a := .reg 31, types := types, imm := .any }
/-- An entry that stores B to `[a + disp]` (R223). -/
def memSt (op : BitVec 8) (types : BitVec 6 → Bool) (f : BitVec 4 → Bool := (· == 0)) : Entry :=
  { op := op, forms := [.s, .l, .w], f := f, a := .reg 31, b := .src, types := types, imm := .any }
/-- An entry that only names `[a + disp]` (R223). -/
def memAddr (op : BitVec 8) (forms : List Form) (f : BitVec 4 → Bool := (· == 0)) : Entry :=
  { op := op, forms := forms, f := f, a := .reg 31, imm := .any }
/-- F is 0 or 1. -/
def f01 (f : BitVec 4) : Bool := f.toNat ≤ 1

def eLd : Entry := memLd 0x90 [.s, .i, .l, .w] tMem f01
def eSt : Entry := memSt 0x91 tMem f01
def eLdw : Entry := memLd 0x92 [.s, .l, .w] tFe
def eLdc : Entry := memLd 0x93 [.s, .l, .w] tFe
def eSte : Entry := memSt 0x94 tFe
def eFeset : Entry := memAddr 0x95 [.s, .l, .w] f01
def eFetest : Entry := memLd 0x96 [.s, .l, .w] (fun _ => false)
def eLdp : Entry := memLd 0x98 [.s, .i, .l, .w] tMem
def eSto : Entry := memSt 0x99 tMem
def ePtest : Entry := memLd 0x9A [.s, .i, .l, .w] (fun _ => false)
def ePclr : Entry := { op := 0x9B, forms := [.s], a := .src, b := .src }
def ePft : Entry := memAddr 0x9C [.s, .i, .l, .w] f01
def eClwb : Entry := memAddr 0x9D [.s, .i, .l, .w]
def eClinv : Entry := memAddr 0x9E [.s, .i, .l, .w]
def eFence : Entry := { op := 0x9F, forms := [.s], f := fun f => f.toNat ≤ 4 }

/-- An atomic (R239). -/
def atom (op : BitVec 8) (types : BitVec 6 → Bool) (sat : Bool) : Entry :=
  { op := op, forms := [.s, .l, .w], f := f01, d := .destOr, a := .reg 31, b := .src, types := types, sat := sat, imm := .any }

def eAadd : Entry := atom 0xA0 tAt true
def eAand : Entry := atom 0xA1 tAt false
def eAor : Entry := atom 0xA2 tAt false
def eAxor : Entry := atom 0xA3 tAt false
def eAmin : Entry := atom 0xA4 tAt false
def eAmax : Entry := atom 0xA5 tAt false
def eAxchg : Entry := atom 0xA6 tFe false
def eAcas : Entry := { atom 0xA7 tFe false with forms := [.l, .w], c := .src }
def eAfadd : Entry := atom 0xA8 tAf false
def eDcas : Entry :=
  { op := 0xA9, forms := [.l], d := .regOr 30, a := .src, b := .src, c := .reg 28, types := tFe }
def eAmov2 : Entry :=
  { op := 0xAA, forms := [.l], d := .regOr 30, a := .src, b := .src, c := .reg 30, types := tFe }

def eCbinc : Entry :=
  { op := 0xB0, forms := [.s, .l], a := .reg 31, b := .src, sat := true, imm := .any }
/-- R245: CBSNAP's n, 1 to 256. -/
def snapOk (i : BitVec 12) : Bool := 1 ≤ i.toNat && i.toNat ≤ 256
def eCbsnap : Entry := { op := 0xB1, forms := [.l], a := .reg 31, b := .src, imm := .only snapOk 0x14 }
/-- R248: `.pub` or `.full` needs `.dsp`. -/
def cpyF (f : BitVec 4) : Bool := f.toNat ≤ 3 || f.getLsbD 0
def eCpy : Entry := { op := 0xB4, forms := [.l], f := cpyF, d := .portOr, a := .src, b := .src, c := .src }
def eRsacq : Entry := { op := 0xB8, forms := [.s], d := .dest, a := .reg 31 }
def eRspub : Entry := { op := 0xB9, forms := [.s], a := .reg 31, b := .src }
def eRstake : Entry := { op := 0xBA, forms := [.s], f := fun f => f.toNat ≤ 3, d := .dest, a := .reg 31 }
def eRsrel : Entry := { op := 0xBB, forms := [.s], f := fun f => f.toNat ≤ 3, a := .reg 31 }

/-! ### Chapter "Fibres, pattern numbers, gather, pages and sample order" (R287 to R302) -/

/-- F[3] clear. -/
def fFb (f : BitVec 4) : Bool := !f.getLsbD 3
/-- F[3] set. -/
def fSm (f : BitVec 4) : Bool := f.getLsbD 3
/-- F is 0 or 8: only the bank bit. -/
def fBank (f : BitVec 4) : Bool := f == 0 || f == 8

def eFbopn : Entry := { op := 0xC0, forms := [.s], fsel := fFb, d := .cur, a := .reg 31 }
def eSmopn : Entry := { op := 0xC0, forms := [.s], fsel := fSm, f := (· == 8), d := .cur, a := .reg 31 }
def eFbadv : Entry := { op := 0xC1, forms := [.s], fsel := fFb, d := .cur }
def eSmadv : Entry := { op := 0xC1, forms := [.s], fsel := fSm, f := (· == 8), d := .cur }
def eFbend : Entry := { op := 0xC2, forms := [.s], fsel := fFb, d := .dest, a := .cur }
def eSmend : Entry := { op := 0xC2, forms := [.s], fsel := fSm, f := (· == 8), d := .dest, a := .cur }
def eFbcls : Entry := { op := 0xC3, forms := [.s], fsel := fFb, d := .cur }
def eSmcls : Entry := { op := 0xC3, forms := [.s], fsel := fSm, f := (· == 8), d := .cur }
def eFbpos : Entry := { op := 0xC4, forms := [.s], f := fBank, d := .dest, a := .cur }
def eFbval : Entry := { op := 0xC5, forms := [.s], f := fBank, d := .dest, a := .cur }
def eFbsek : Entry := { op := 0xC6, forms := [.s], f := fBank, d := .dest, a := .cur, b := .src }
def eFbisx : Entry :=
  { op := 0xC7, forms := [.s], f := fun f => f.toNat % 4 == 0, d := .dest, a := .cur, b := .cur }
def eNzscan : Entry :=
  { op := 0xC8, forms := [.l], d := .cur, a := .reg 31, b := .src, c := .reg 31, types := tMem }
def ePdec : Entry := { op := 0xC9, forms := [.s], f := fun f => f.toNat ≤ 2, d := .dest, a := .src, mkc := .p }
def ePenc : Entry := { op := 0xCA, forms := [.s], f := fun f => f.toNat ≤ 2, d := .dest, a := .src, mkc := .p }
/-- R294: imm12[2:0] = s, imm12[11:3] zero. -/
def elemSizeOk (i : BitVec 12) : Bool := i.toNat ≤ 7
/-- R294: the NaN fill needs a float lane type. -/
def gathExtra (o : Ops) : List Nat := if o.f.getLsbD 2 && !tFlt o.t then [0x14] else []
/-- R294: F[2] on a scatter is rejected with code 0x14. -/
def scatExtra (o : Ops) : List Nat := if o.f.getLsbD 2 then [0x14] else []
/-- R294: a SCATA lane at most as wide as its element, and F[2] clear. -/
def scataExtra (o : Ops) : List Nat :=
  if o.f.getLsbD 2 || !(tBytes o.t ≤ 2 ^ (o.imm12.toNat % 8)) then [0x14] else []
/-- F[1:0] selects the mnemonic of opcode 0xCB (R115). -/
def fLow (n : Nat) (f : BitVec 4) : Bool := f.toNat % 4 == n
def eGath : Entry :=
  { op := 0xCB, forms := [.l], fsel := fLow 0, f := fLow 0, d := .curOr, a := .cur, b := .reg 31, c := .reg 31,
    types := tAll, imm := .only elemSizeOk 0x14, extra := gathExtra }
def eScat : Entry :=
  { op := 0xCB, forms := [.l], fsel := fLow 1, f := fLow 1, d := .curOr, a := .cur, b := .reg 31, c := .reg 31,
    types := tAll, imm := .only elemSizeOk 0x14, extra := scatExtra }
def eScata : Entry :=
  { op := 0xCB, forms := [.l], fsel := fLow 2, f := fLow 2, d := .curOr, a := .cur, b := .reg 31, c := .reg 31,
    types := tSca, t0 := false, imm := .only elemSizeOk 0x14, extra := scataExtra }
def ePgsel : Entry := { op := 0xCC, forms := [.s], d := .cur, a := .reg 31 }
def eKvapp : Entry :=
  { op := 0xCD, forms := [.l], d := .portOr, a := .reg 31, b := .reg 31, c := .reg 31, x0 := true }
def eKvld : Entry :=
  { op := 0xCE, forms := [.l], f := fun f => f.toNat ≤ 3, d := .portOr, a := .reg 31, b := .reg 31, x0 := true }
def ePerm : Entry :=
  { op := 0xCF, forms := [.l, .w], d := .dest, a := .src, b := .src, c := .src, imm := .any }

/-! ### Chapter "Matrix islands and ternary arrays" (R342, R352) -/

/-- An island instruction (R342). -/
def islandE (op : BitVec 8) (a : Pos) (f : BitVec 4 → Bool := (· == 0)) : Entry :=
  { op := op, forms := [.s], f := f, d := .port, a := a, x0 := true }
def eChuck : Entry := islandE 0xD8 (.reg 31)
def eMswap : Entry := islandE 0xD9 .no
def eMfeed : Entry := islandE 0xDA (.reg 31) f01
def eMdraw : Entry := islandE 0xDB (.reg 31)
def eMzero : Entry := islandE 0xDC (.reg 31)
def eTchuck : Entry := { op := 0xE0, forms := [.s], d := .portOr, a := .reg 31, x0 := true }
/-- R352: SAT in a form other than L. -/
def satExtra (o : Ops) : List Nat := if o.form == .w && o.sat then [0x14] else []
def eTfeed : Entry :=
  { op := 0xE1, forms := [.s, .l], d := .portOr, a := .reg 31, b := .reg 31, sat := true, x0 := true, extra := satExtra }
def eTdraw : Entry := { op := 0xE2, forms := [.s], d := .portOr, a := .reg 31, b := .reg 31, x0 := true }

/-! ### Chapter "Coded video" (R320) -/

def eSxcfg : Entry :=
  { op := 0xD0, forms := [.s], fsel := fun f => !f.getLsbD 0, d := .dest, a := .reg 31, x0 := true, cls := .control }
def eSxstat : Entry :=
  { op := 0xD0, forms := [.s], fsel := fun f => f.getLsbD 0, f := (· == 1), d := .dest, a := .src, x0 := true }
def eSxfeed : Entry :=
  { op := 0xD1, forms := [.l], f := f01, d := .portOr, a := .src, b := .reg 31, c := .src, x0 := true }
def eSxfrm : Entry := { op := 0xD2, forms := [.s], d := .portOr, a := .src, x0 := true }
def eBlkopn : Entry := { op := 0xD3, forms := [.s], d := .cur, a := .reg 31, x0 := true }
def eMvclp : Entry :=
  { op := 0xD4, forms := [.l], d := .dest, a := .src, b := .src, c := .src, x0 := true, mkc := .p }
def eFwarp : Entry := { op := 0xD5, forms := [.s], d := .portOr, a := .reg 31, x0 := true }
def eDrift : Entry :=
  { op := 0xD6, forms := [.l], fsel := fun f => !f.getLsbD 0, d := .dest, a := .src, b := .src, c := .src, x0 := true,
    mkc := .p }
def eDrchk : Entry :=
  { op := 0xD6, forms := [.s], fsel := fun f => f.getLsbD 0, f := (· == 1), d := .dest, a := .src, b := .src, x0 := true,
    mkc := .p }
def eRfmark : Entry := { op := 0xD7, forms := [.s], d := .portOr, a := .reg 31, x0 := true }

/-! ### Chapter "Incremental queues and indexed stage state" (R372) -/

def eDqput : Entry := { op := 0xE8, forms := [.s], f := fun f => f.toNat ≤ 3, a := .reg 28, b := .reg 31 }
def eDqget : Entry := { op := 0xE9, forms := [.s], f := f01, d := .reg 28, a := .reg 31 }
def eDqcon : Entry := { op := 0xEA, forms := [.s], d := .dest, a := .reg 31 }
def eDqfrn : Entry := { op := 0xEB, forms := [.s], f := fun f => f.toNat ≤ 3, a := .reg 31, b := .src }
def eDqqsc : Entry := { op := 0xEC, forms := [.s], d := .dest, a := .reg 31, b := .src }
def eIxget : Entry := { op := 0xEE, forms := [.s], d := .dest, a := .reg 31, b := .src }
def eIxupd : Entry :=
  { op := 0xEF, forms := [.s], f := fun f => f.toNat ≤ 3, d := .regOr 28, a := .reg 31, b := .reg 31 }
def eIxitr : Entry := { op := 0xF0, forms := [.s], d := .reg 29, a := .reg 31, b := .src }
def eIxclr : Entry := { op := 0xF1, forms := [.s], a := .reg 31 }
def eIxspl : Entry := { op := 0xF2, forms := [.s], d := .destOr, a := .reg 31 }

/-! ### Chapter "Launch, scheduling, clock ratios and power" (R391) -/

def eLaunch : Entry :=
  { op := 0xF4, forms := [.l], d := .dest, a := .src, b := .src, c := .src, x0 := true, cls := .control }
def eGsarm : Entry := { op := 0xF5, forms := [.s], d := .dest, a := .src, b := .src, cls := .control }
def eRqrat : Entry := { op := 0xF6, forms := [.s], d := .dest, a := .src, cls := .control }
def eRdrat : Entry := { op := 0xF7, forms := [.s], d := .dest }
def eEvtake : Entry := { op := 0xF8, forms := [.s], f := f01, d := .dest }
def eDrq : Entry := { op := 0xF9, forms := [.s], cls := .control }
def eQpri : Entry := { op := 0xFA, forms := [.s], d := .dest, a := .src, b := .src, cls := .control }

/-! ### Rows: entries with the constructor of their words -/

/-- One row of the opcode map: an entry, the forms whose words the constructor stands for, and the constructor. -/
structure Row where
  e     : Entry
  forms : List Form
  ctor  : Ops → Instr

/-- The rows of opcodes 0x00 to 0x0F (R114). -/
def rows0 : Nat → List Row
  | 0 => [⟨eNop, eNop.forms, .nop⟩]
  | 1 => [⟨eHalt, eHalt.forms, .halt⟩]
  | 2 => [⟨eWait, eWait.forms, .wait⟩]
  | 3 => [⟨eBr, eBr.forms, .br⟩]
  | 4 => [⟨eBz, eBz.forms, .bz⟩]
  | 5 => [⟨eBnz, eBnz.forms, .bnz⟩]
  | 6 => [⟨eBlt, eBlt.forms, .blt⟩]
  | 7 => [⟨eBge, eBge.forms, .bge⟩]
  | 8 => [⟨eBmk, eBmk.forms, .bmk⟩]
  | 9 => [⟨eCall, eCall.forms, .call⟩]
  | 10 => [⟨eRet, eRet.forms, .ret⟩]
  | 11 => [⟨eLoopi, eLoopi.forms, .loopi⟩]
  | 12 => [⟨eLoopr, eLoopr.forms, .loopr⟩]
  | 13 => [⟨eTrap, eTrap.forms, .trap⟩]
  | _ => []

/-- The rows of opcodes 0x10 to 0x1F (R114). -/
def rows1 : Nat → List Row
  | 0 => [⟨eAdd, [.s], .add⟩, ⟨eAdd, [.l, .w], .addLong⟩]
  | 1 => [⟨eAddi, [.i], .addi⟩, ⟨eAddi, [.l, .w], .addiLong⟩]
  | 2 => [⟨eSub, [.s], .sub⟩, ⟨eSub, [.l, .w], .subLong⟩]
  | 3 => [⟨eMul, [.s], .mul⟩, ⟨eMul, [.l, .w], .mulLong⟩]
  | 4 => [⟨eMulh, [.s], .mulh⟩, ⟨eMulh, [.l, .w], .mulhLong⟩]
  | 5 => [⟨eDiv, [.s], .div⟩, ⟨eDiv, [.l, .w], .divLong⟩]
  | 6 => [⟨eRem, [.s], .rem⟩, ⟨eRem, [.l, .w], .remLong⟩]
  | 7 => [⟨eAnd, [.s], .and⟩, ⟨eAnd, [.l, .w], .andLong⟩]
  | 8 => [⟨eOr, [.s], .or⟩, ⟨eOr, [.l, .w], .orLong⟩]
  | 9 => [⟨eXor, [.s], .xor⟩, ⟨eXor, [.l, .w], .xorLong⟩]
  | 10 => [⟨eXori, [.i], .xori⟩, ⟨eXori, [.l, .w], .xoriLong⟩]
  | 11 => [⟨eShl, [.s], .shl⟩, ⟨eShl, [.l, .w], .shlLong⟩]
  | 12 => [⟨eShr, [.s], .shr⟩, ⟨eShr, [.l, .w], .shrLong⟩]
  | 13 => [⟨eSar, [.s], .sar⟩, ⟨eSar, [.l, .w], .sarLong⟩]
  | 14 => [⟨eRot, [.s], .rot⟩, ⟨eRot, [.l, .w], .rotLong⟩]
  | 15 => [⟨eClz, [.s], .clz⟩, ⟨eClz, [.l, .w], .clzLong⟩]
  | _ => []

/-- The rows of opcodes 0x20 to 0x2F (R114). -/
def rows2 : Nat → List Row
  | 0 => [⟨ePopc, [.s], .popc⟩, ⟨ePopc, [.l, .w], .popcLong⟩]
  | 1 => [⟨eMin, [.s], .min⟩, ⟨eMin, [.l, .w], .minLong⟩]
  | 2 => [⟨eMax, [.s], .max⟩, ⟨eMax, [.l, .w], .maxLong⟩]
  | 3 => [⟨eAbs, [.s], .abs⟩, ⟨eAbs, [.l, .w], .absLong⟩]
  | 4 => [⟨eNeg, [.s], .neg⟩, ⟨eNeg, [.l, .w], .negLong⟩]
  | 5 => [⟨eCmp, [.s], .cmp⟩, ⟨eCmp, [.l, .w], .cmpLong⟩]
  | 6 => [⟨eMovi, [.i], .movi⟩, ⟨eMovi, [.l, .w], .moviLong⟩]
  | 7 => [⟨eMovl, eMovl.forms, .movl⟩, ⟨eMovlHi, eMovlHi.forms, .movlHi⟩]
  | 8 => [⟨eLea, eLea.forms, .lea⟩]
  | 9 => [⟨eBfx, eBfx.forms, .bfx⟩]
  | 10 => [⟨eBfi, eBfi.forms, .bfi⟩]
  | _ => []

/-- The rows of opcodes 0x30 to 0x3F (R114). -/
def rows3 : Nat → List Row
  | _ => []

/-- The rows of opcodes 0x40 to 0x4F (R114). -/
def rows4 : Nat → List Row
  | 0 => [⟨eFadd, [.s], .fadd⟩, ⟨eFadd, [.l, .w], .faddLong⟩]
  | 1 => [⟨eFsub, [.s], .fsub⟩, ⟨eFsub, [.l, .w], .fsubLong⟩]
  | 2 => [⟨eFmul, [.s], .fmul⟩, ⟨eFmul, [.l, .w], .fmulLong⟩]
  | 3 => [⟨eFma, eFma.forms, .fma⟩]
  | 4 => [⟨eFmin, [.s], .fmin⟩, ⟨eFmin, [.l, .w], .fminLong⟩]
  | 5 => [⟨eFmax, [.s], .fmax⟩, ⟨eFmax, [.l, .w], .fmaxLong⟩]
  | 6 => [⟨eFabs, [.s], .fabs⟩, ⟨eFabs, [.l, .w], .fabsLong⟩]
  | 7 => [⟨eFneg, [.s], .fneg⟩, ⟨eFneg, [.l, .w], .fnegLong⟩]
  | 8 => [⟨eFcmp, [.s], .fcmp⟩, ⟨eFcmp, [.l, .w], .fcmpLong⟩]
  | 9 => [⟨eFclass, [.s], .fclass⟩, ⟨eFclass, [.l, .w], .fclassLong⟩]
  | 10 => [⟨eFcvt, [.s], .fcvt⟩, ⟨eFcvt, [.l, .w], .fcvtLong⟩]
  | 11 => [⟨eIcvt, [.s], .icvt⟩, ⟨eIcvt, [.l, .w], .icvtLong⟩]
  | _ => []

/-- The rows of opcodes 0x50 to 0x5F (R114). -/
def rows5 : Nat → List Row
  | 0 => [⟨eFrcp, [.s], .frcp⟩, ⟨eFrcp, [.l, .w], .frcpLong⟩]
  | 1 => [⟨eFrsq, [.s], .frsq⟩, ⟨eFrsq, [.l, .w], .frsqLong⟩]
  | 2 => [⟨eFsqrt, [.s], .fsqrt⟩, ⟨eFsqrt, [.l, .w], .fsqrtLong⟩]
  | 3 => [⟨eFex2, [.s], .fex2⟩, ⟨eFex2, [.l, .w], .fex2Long⟩]
  | 4 => [⟨eFlg2, [.s], .flg2⟩, ⟨eFlg2, [.l, .w], .flg2Long⟩]
  | 5 => [⟨eFsinp, [.s], .fsinp⟩, ⟨eFsinp, [.l, .w], .fsinpLong⟩]
  | 6 => [⟨eFcosp, [.s], .fcosp⟩, ⟨eFcosp, [.l, .w], .fcospLong⟩]
  | 7 => [⟨eFtnh, [.s], .ftnh⟩, ⟨eFtnh, [.l, .w], .ftnhLong⟩]
  | _ => []

/-- The rows of opcodes 0x60 to 0x6F (R114). -/
def rows6 : Nat → List Row
  | _ => []

/-- The rows of opcodes 0x70 to 0x7F (R114). -/
def rows7 : Nat → List Row
  | 0 => [⟨ePeek, ePeek.forms, .peek⟩]
  | 1 => [⟨eDrop, eDrop.forms, .drop⟩]
  | 2 => [⟨eFwd, eFwd.forms, .fwd⟩]
  | 3 => [⟨eMkr, eMkr.forms, .mkr⟩]
  | 4 => [⟨eMkt, eMkt.forms, .mkt⟩]
  | 5 => [⟨eSteer, [.s], .steer⟩, ⟨eSteer, [.l, .w], .steerLong⟩]
  | 6 => [⟨eMerge, eMerge.forms, .merge⟩]
  | 7 => [⟨eRacc, [.s], .racc⟩, ⟨eRacc, [.l, .w], .raccLong⟩]
  | 8 => [⟨eSegr, [.s], .segr⟩, ⟨eSegr, [.l, .w], .segrLong⟩]
  | 12 => [⟨eRwset, eRwset.forms, .rwset⟩]
  | 13 => [⟨eVrhint, eVrhint.forms, .vrhint⟩]
  | _ => []

/-- The rows of opcodes 0x80 to 0x8F (R114). -/
def rows8 : Nat → List Row
  | 0 => [⟨eSysrd, eSysrd.forms, .sysrd⟩]
  | 1 => [⟨eSyswr, eSyswr.forms, .syswr⟩]
  | 2 => [⟨eTime, eTime.forms, .time⟩]
  | 3 => [⟨eEnrd, eEnrd.forms, .enrd⟩]
  | _ => []

/-- The rows of opcodes 0x90 to 0x9F (R114). -/
def rows9 : Nat → List Row
  | 0 => [⟨eLd, [.s], .ld⟩, ⟨eLd, [.i], .ldImm⟩, ⟨eLd, [.l, .w], .ldLong⟩]
  | 1 => [⟨eSt, [.s], .st⟩, ⟨eSt, [.l, .w], .stLong⟩]
  | 2 => [⟨eLdw, [.s], .ldw⟩, ⟨eLdw, [.l, .w], .ldwLong⟩]
  | 3 => [⟨eLdc, [.s], .ldc⟩, ⟨eLdc, [.l, .w], .ldcLong⟩]
  | 4 => [⟨eSte, [.s], .ste⟩, ⟨eSte, [.l, .w], .steLong⟩]
  | 5 => [⟨eFeset, [.s], .feset⟩, ⟨eFeset, [.l, .w], .fesetLong⟩]
  | 6 => [⟨eFetest, [.s], .fetest⟩, ⟨eFetest, [.l, .w], .fetestLong⟩]
  | 8 => [⟨eLdp, [.s], .ldp⟩, ⟨eLdp, [.i], .ldpImm⟩, ⟨eLdp, [.l, .w], .ldpLong⟩]
  | 9 => [⟨eSto, [.s], .sto⟩, ⟨eSto, [.l, .w], .stoLong⟩]
  | 10 => [⟨ePtest, [.s], .ptest⟩, ⟨ePtest, [.i], .ptestImm⟩, ⟨ePtest, [.l, .w], .ptestLong⟩]
  | 11 => [⟨ePclr, ePclr.forms, .pclr⟩]
  | 12 => [⟨ePft, [.s], .pft⟩, ⟨ePft, [.i], .pftImm⟩, ⟨ePft, [.l, .w], .pftLong⟩]
  | 13 => [⟨eClwb, [.s], .clwb⟩, ⟨eClwb, [.i], .clwbImm⟩, ⟨eClwb, [.l, .w], .clwbLong⟩]
  | 14 => [⟨eClinv, [.s], .clinv⟩, ⟨eClinv, [.i], .clinvImm⟩, ⟨eClinv, [.l, .w], .clinvLong⟩]
  | 15 => [⟨eFence, eFence.forms, .fence⟩]
  | _ => []

/-- The rows of opcodes 0xA0 to 0xAF (R114). -/
def rowsA : Nat → List Row
  | 0 => [⟨eAadd, [.s], .aadd⟩, ⟨eAadd, [.l, .w], .aaddLong⟩]
  | 1 => [⟨eAand, [.s], .aand⟩, ⟨eAand, [.l, .w], .aandLong⟩]
  | 2 => [⟨eAor, [.s], .aor⟩, ⟨eAor, [.l, .w], .aorLong⟩]
  | 3 => [⟨eAxor, [.s], .axor⟩, ⟨eAxor, [.l, .w], .axorLong⟩]
  | 4 => [⟨eAmin, [.s], .amin⟩, ⟨eAmin, [.l, .w], .aminLong⟩]
  | 5 => [⟨eAmax, [.s], .amax⟩, ⟨eAmax, [.l, .w], .amaxLong⟩]
  | 6 => [⟨eAxchg, [.s], .axchg⟩, ⟨eAxchg, [.l, .w], .axchgLong⟩]
  | 7 => [⟨eAcas, eAcas.forms, .acas⟩]
  | 8 => [⟨eAfadd, [.s], .afadd⟩, ⟨eAfadd, [.l, .w], .afaddLong⟩]
  | 9 => [⟨eDcas, eDcas.forms, .dcas⟩]
  | 10 => [⟨eAmov2, eAmov2.forms, .amov2⟩]
  | _ => []

/-- The rows of opcodes 0xB0 to 0xBF (R114). -/
def rowsB : Nat → List Row
  | 0 => [⟨eCbinc, [.s], .cbinc⟩, ⟨eCbinc, [.l, .w], .cbincLong⟩]
  | 1 => [⟨eCbsnap, eCbsnap.forms, .cbsnap⟩]
  | 4 => [⟨eCpy, eCpy.forms, .cpy⟩]
  | 8 => [⟨eRsacq, eRsacq.forms, .rsacq⟩]
  | 9 => [⟨eRspub, eRspub.forms, .rspub⟩]
  | 10 => [⟨eRstake, eRstake.forms, .rstake⟩]
  | 11 => [⟨eRsrel, eRsrel.forms, .rsrel⟩]
  | _ => []

/-- The rows of opcodes 0xC0 to 0xCF (R114). -/
def rowsC : Nat → List Row
  | 0 => [⟨eFbopn, eFbopn.forms, .fbopn⟩, ⟨eSmopn, eSmopn.forms, .smopn⟩]
  | 1 => [⟨eFbadv, eFbadv.forms, .fbadv⟩, ⟨eSmadv, eSmadv.forms, .smadv⟩]
  | 2 => [⟨eFbend, eFbend.forms, .fbend⟩, ⟨eSmend, eSmend.forms, .smend⟩]
  | 3 => [⟨eFbcls, eFbcls.forms, .fbcls⟩, ⟨eSmcls, eSmcls.forms, .smcls⟩]
  | 4 => [⟨eFbpos, eFbpos.forms, .fbpos⟩]
  | 5 => [⟨eFbval, eFbval.forms, .fbval⟩]
  | 6 => [⟨eFbsek, eFbsek.forms, .fbsek⟩]
  | 7 => [⟨eFbisx, eFbisx.forms, .fbisx⟩]
  | 8 => [⟨eNzscan, eNzscan.forms, .nzscan⟩]
  | 9 => [⟨ePdec, ePdec.forms, .pdec⟩]
  | 10 => [⟨ePenc, ePenc.forms, .penc⟩]
  | 11 => [⟨eGath, eGath.forms, .gath⟩, ⟨eScat, eScat.forms, .scat⟩, ⟨eScata, eScata.forms, .scata⟩]
  | 12 => [⟨ePgsel, ePgsel.forms, .pgsel⟩]
  | 13 => [⟨eKvapp, eKvapp.forms, .kvapp⟩]
  | 14 => [⟨eKvld, eKvld.forms, .kvld⟩]
  | 15 => [⟨ePerm, ePerm.forms, .perm⟩]
  | _ => []

/-- The rows of opcodes 0xD0 to 0xDF (R114). -/
def rowsD : Nat → List Row
  | 0 => [⟨eSxcfg, eSxcfg.forms, .sxcfg⟩, ⟨eSxstat, eSxstat.forms, .sxstat⟩]
  | 1 => [⟨eSxfeed, eSxfeed.forms, .sxfeed⟩]
  | 2 => [⟨eSxfrm, eSxfrm.forms, .sxfrm⟩]
  | 3 => [⟨eBlkopn, eBlkopn.forms, .blkopn⟩]
  | 4 => [⟨eMvclp, eMvclp.forms, .mvclp⟩]
  | 5 => [⟨eFwarp, eFwarp.forms, .fwarp⟩]
  | 6 => [⟨eDrift, eDrift.forms, .drift⟩, ⟨eDrchk, eDrchk.forms, .drchk⟩]
  | 7 => [⟨eRfmark, eRfmark.forms, .rfmark⟩]
  | 8 => [⟨eChuck, eChuck.forms, .chuck⟩]
  | 9 => [⟨eMswap, eMswap.forms, .mswap⟩]
  | 10 => [⟨eMfeed, eMfeed.forms, .mfeed⟩]
  | 11 => [⟨eMdraw, eMdraw.forms, .mdraw⟩]
  | 12 => [⟨eMzero, eMzero.forms, .mzero⟩]
  | _ => []

/-- The rows of opcodes 0xE0 to 0xEF (R114). -/
def rowsE : Nat → List Row
  | 0 => [⟨eTchuck, eTchuck.forms, .tchuck⟩]
  | 1 => [⟨eTfeed, [.s], .tfeed⟩, ⟨eTfeed, [.l, .w], .tfeedLong⟩]
  | 2 => [⟨eTdraw, eTdraw.forms, .tdraw⟩]
  | 8 => [⟨eDqput, eDqput.forms, .dqput⟩]
  | 9 => [⟨eDqget, eDqget.forms, .dqget⟩]
  | 10 => [⟨eDqcon, eDqcon.forms, .dqcon⟩]
  | 11 => [⟨eDqfrn, eDqfrn.forms, .dqfrn⟩]
  | 12 => [⟨eDqqsc, eDqqsc.forms, .dqqsc⟩]
  | 14 => [⟨eIxget, eIxget.forms, .ixget⟩]
  | 15 => [⟨eIxupd, eIxupd.forms, .ixupd⟩]
  | _ => []

/-- The rows of opcodes 0xF0 to 0xFF (R114). -/
def rowsF : Nat → List Row
  | 0 => [⟨eIxitr, eIxitr.forms, .ixitr⟩]
  | 1 => [⟨eIxclr, eIxclr.forms, .ixclr⟩]
  | 2 => [⟨eIxspl, eIxspl.forms, .ixspl⟩]
  | 4 => [⟨eLaunch, eLaunch.forms, .launch⟩]
  | 5 => [⟨eGsarm, eGsarm.forms, .gsarm⟩]
  | 6 => [⟨eRqrat, eRqrat.forms, .rqrat⟩]
  | 7 => [⟨eRdrat, eRdrat.forms, .rdrat⟩]
  | 8 => [⟨eEvtake, eEvtake.forms, .evtake⟩]
  | 9 => [⟨eDrq, eDrq.forms, .drq⟩]
  | 10 => [⟨eQpri, eQpri.forms, .qpri⟩]
  | _ => []

/-- The rows of one opcode (R114, R115). -/
def rowsOf (op : BitVec 8) : List Row :=
  let lo := op.toNat % 16
  match op.toNat / 16 with
  | 0 => rows0 lo
  | 1 => rows1 lo
  | 2 => rows2 lo
  | 3 => rows3 lo
  | 4 => rows4 lo
  | 5 => rows5 lo
  | 6 => rows6 lo
  | 7 => rows7 lo
  | 8 => rows8 lo
  | 9 => rows9 lo
  | 10 => rowsA lo
  | 11 => rowsB lo
  | 12 => rowsC lo
  | 13 => rowsD lo
  | 14 => rowsE lo
  | 15 => rowsF lo
  | _ => []

/-- The row and the fields of a task instruction; a device step has none. -/
def fieldsOf : Instr → Option (Row × Ops)
  | .nop o => some (⟨eNop, eNop.forms, .nop⟩, o)
  | .halt o => some (⟨eHalt, eHalt.forms, .halt⟩, o)
  | .wait o => some (⟨eWait, eWait.forms, .wait⟩, o)
  | .br o => some (⟨eBr, eBr.forms, .br⟩, o)
  | .bz o => some (⟨eBz, eBz.forms, .bz⟩, o)
  | .bnz o => some (⟨eBnz, eBnz.forms, .bnz⟩, o)
  | .blt o => some (⟨eBlt, eBlt.forms, .blt⟩, o)
  | .bge o => some (⟨eBge, eBge.forms, .bge⟩, o)
  | .bmk o => some (⟨eBmk, eBmk.forms, .bmk⟩, o)
  | .call o => some (⟨eCall, eCall.forms, .call⟩, o)
  | .ret o => some (⟨eRet, eRet.forms, .ret⟩, o)
  | .loopi o => some (⟨eLoopi, eLoopi.forms, .loopi⟩, o)
  | .loopr o => some (⟨eLoopr, eLoopr.forms, .loopr⟩, o)
  | .trap o => some (⟨eTrap, eTrap.forms, .trap⟩, o)
  | .add o => some (⟨eAdd, [.s], .add⟩, o)
  | .addLong o => some (⟨eAdd, [.l, .w], .addLong⟩, o)
  | .addi o => some (⟨eAddi, [.i], .addi⟩, o)
  | .addiLong o => some (⟨eAddi, [.l, .w], .addiLong⟩, o)
  | .sub o => some (⟨eSub, [.s], .sub⟩, o)
  | .subLong o => some (⟨eSub, [.l, .w], .subLong⟩, o)
  | .mul o => some (⟨eMul, [.s], .mul⟩, o)
  | .mulLong o => some (⟨eMul, [.l, .w], .mulLong⟩, o)
  | .mulh o => some (⟨eMulh, [.s], .mulh⟩, o)
  | .mulhLong o => some (⟨eMulh, [.l, .w], .mulhLong⟩, o)
  | .div o => some (⟨eDiv, [.s], .div⟩, o)
  | .divLong o => some (⟨eDiv, [.l, .w], .divLong⟩, o)
  | .rem o => some (⟨eRem, [.s], .rem⟩, o)
  | .remLong o => some (⟨eRem, [.l, .w], .remLong⟩, o)
  | .and o => some (⟨eAnd, [.s], .and⟩, o)
  | .andLong o => some (⟨eAnd, [.l, .w], .andLong⟩, o)
  | .or o => some (⟨eOr, [.s], .or⟩, o)
  | .orLong o => some (⟨eOr, [.l, .w], .orLong⟩, o)
  | .xor o => some (⟨eXor, [.s], .xor⟩, o)
  | .xorLong o => some (⟨eXor, [.l, .w], .xorLong⟩, o)
  | .xori o => some (⟨eXori, [.i], .xori⟩, o)
  | .xoriLong o => some (⟨eXori, [.l, .w], .xoriLong⟩, o)
  | .shl o => some (⟨eShl, [.s], .shl⟩, o)
  | .shlLong o => some (⟨eShl, [.l, .w], .shlLong⟩, o)
  | .shr o => some (⟨eShr, [.s], .shr⟩, o)
  | .shrLong o => some (⟨eShr, [.l, .w], .shrLong⟩, o)
  | .sar o => some (⟨eSar, [.s], .sar⟩, o)
  | .sarLong o => some (⟨eSar, [.l, .w], .sarLong⟩, o)
  | .rot o => some (⟨eRot, [.s], .rot⟩, o)
  | .rotLong o => some (⟨eRot, [.l, .w], .rotLong⟩, o)
  | .clz o => some (⟨eClz, [.s], .clz⟩, o)
  | .clzLong o => some (⟨eClz, [.l, .w], .clzLong⟩, o)
  | .popc o => some (⟨ePopc, [.s], .popc⟩, o)
  | .popcLong o => some (⟨ePopc, [.l, .w], .popcLong⟩, o)
  | .min o => some (⟨eMin, [.s], .min⟩, o)
  | .minLong o => some (⟨eMin, [.l, .w], .minLong⟩, o)
  | .max o => some (⟨eMax, [.s], .max⟩, o)
  | .maxLong o => some (⟨eMax, [.l, .w], .maxLong⟩, o)
  | .abs o => some (⟨eAbs, [.s], .abs⟩, o)
  | .absLong o => some (⟨eAbs, [.l, .w], .absLong⟩, o)
  | .neg o => some (⟨eNeg, [.s], .neg⟩, o)
  | .negLong o => some (⟨eNeg, [.l, .w], .negLong⟩, o)
  | .cmp o => some (⟨eCmp, [.s], .cmp⟩, o)
  | .cmpLong o => some (⟨eCmp, [.l, .w], .cmpLong⟩, o)
  | .movi o => some (⟨eMovi, [.i], .movi⟩, o)
  | .moviLong o => some (⟨eMovi, [.l, .w], .moviLong⟩, o)
  | .movl o => some (⟨eMovl, eMovl.forms, .movl⟩, o)
  | .movlHi o => some (⟨eMovlHi, eMovlHi.forms, .movlHi⟩, o)
  | .lea o => some (⟨eLea, eLea.forms, .lea⟩, o)
  | .bfx o => some (⟨eBfx, eBfx.forms, .bfx⟩, o)
  | .bfi o => some (⟨eBfi, eBfi.forms, .bfi⟩, o)
  | .fadd o => some (⟨eFadd, [.s], .fadd⟩, o)
  | .faddLong o => some (⟨eFadd, [.l, .w], .faddLong⟩, o)
  | .fsub o => some (⟨eFsub, [.s], .fsub⟩, o)
  | .fsubLong o => some (⟨eFsub, [.l, .w], .fsubLong⟩, o)
  | .fmul o => some (⟨eFmul, [.s], .fmul⟩, o)
  | .fmulLong o => some (⟨eFmul, [.l, .w], .fmulLong⟩, o)
  | .fma o => some (⟨eFma, eFma.forms, .fma⟩, o)
  | .fmin o => some (⟨eFmin, [.s], .fmin⟩, o)
  | .fminLong o => some (⟨eFmin, [.l, .w], .fminLong⟩, o)
  | .fmax o => some (⟨eFmax, [.s], .fmax⟩, o)
  | .fmaxLong o => some (⟨eFmax, [.l, .w], .fmaxLong⟩, o)
  | .fabs o => some (⟨eFabs, [.s], .fabs⟩, o)
  | .fabsLong o => some (⟨eFabs, [.l, .w], .fabsLong⟩, o)
  | .fneg o => some (⟨eFneg, [.s], .fneg⟩, o)
  | .fnegLong o => some (⟨eFneg, [.l, .w], .fnegLong⟩, o)
  | .fcmp o => some (⟨eFcmp, [.s], .fcmp⟩, o)
  | .fcmpLong o => some (⟨eFcmp, [.l, .w], .fcmpLong⟩, o)
  | .fclass o => some (⟨eFclass, [.s], .fclass⟩, o)
  | .fclassLong o => some (⟨eFclass, [.l, .w], .fclassLong⟩, o)
  | .fcvt o => some (⟨eFcvt, [.s], .fcvt⟩, o)
  | .fcvtLong o => some (⟨eFcvt, [.l, .w], .fcvtLong⟩, o)
  | .icvt o => some (⟨eIcvt, [.s], .icvt⟩, o)
  | .icvtLong o => some (⟨eIcvt, [.l, .w], .icvtLong⟩, o)
  | .frcp o => some (⟨eFrcp, [.s], .frcp⟩, o)
  | .frcpLong o => some (⟨eFrcp, [.l, .w], .frcpLong⟩, o)
  | .frsq o => some (⟨eFrsq, [.s], .frsq⟩, o)
  | .frsqLong o => some (⟨eFrsq, [.l, .w], .frsqLong⟩, o)
  | .fsqrt o => some (⟨eFsqrt, [.s], .fsqrt⟩, o)
  | .fsqrtLong o => some (⟨eFsqrt, [.l, .w], .fsqrtLong⟩, o)
  | .fex2 o => some (⟨eFex2, [.s], .fex2⟩, o)
  | .fex2Long o => some (⟨eFex2, [.l, .w], .fex2Long⟩, o)
  | .flg2 o => some (⟨eFlg2, [.s], .flg2⟩, o)
  | .flg2Long o => some (⟨eFlg2, [.l, .w], .flg2Long⟩, o)
  | .fsinp o => some (⟨eFsinp, [.s], .fsinp⟩, o)
  | .fsinpLong o => some (⟨eFsinp, [.l, .w], .fsinpLong⟩, o)
  | .fcosp o => some (⟨eFcosp, [.s], .fcosp⟩, o)
  | .fcospLong o => some (⟨eFcosp, [.l, .w], .fcospLong⟩, o)
  | .ftnh o => some (⟨eFtnh, [.s], .ftnh⟩, o)
  | .ftnhLong o => some (⟨eFtnh, [.l, .w], .ftnhLong⟩, o)
  | .peek o => some (⟨ePeek, ePeek.forms, .peek⟩, o)
  | .drop o => some (⟨eDrop, eDrop.forms, .drop⟩, o)
  | .fwd o => some (⟨eFwd, eFwd.forms, .fwd⟩, o)
  | .mkr o => some (⟨eMkr, eMkr.forms, .mkr⟩, o)
  | .mkt o => some (⟨eMkt, eMkt.forms, .mkt⟩, o)
  | .steer o => some (⟨eSteer, [.s], .steer⟩, o)
  | .steerLong o => some (⟨eSteer, [.l, .w], .steerLong⟩, o)
  | .merge o => some (⟨eMerge, eMerge.forms, .merge⟩, o)
  | .racc o => some (⟨eRacc, [.s], .racc⟩, o)
  | .raccLong o => some (⟨eRacc, [.l, .w], .raccLong⟩, o)
  | .segr o => some (⟨eSegr, [.s], .segr⟩, o)
  | .segrLong o => some (⟨eSegr, [.l, .w], .segrLong⟩, o)
  | .rwset o => some (⟨eRwset, eRwset.forms, .rwset⟩, o)
  | .vrhint o => some (⟨eVrhint, eVrhint.forms, .vrhint⟩, o)
  | .sysrd o => some (⟨eSysrd, eSysrd.forms, .sysrd⟩, o)
  | .syswr o => some (⟨eSyswr, eSyswr.forms, .syswr⟩, o)
  | .time o => some (⟨eTime, eTime.forms, .time⟩, o)
  | .enrd o => some (⟨eEnrd, eEnrd.forms, .enrd⟩, o)
  | .ld o => some (⟨eLd, [.s], .ld⟩, o)
  | .ldImm o => some (⟨eLd, [.i], .ldImm⟩, o)
  | .ldLong o => some (⟨eLd, [.l, .w], .ldLong⟩, o)
  | .st o => some (⟨eSt, [.s], .st⟩, o)
  | .stLong o => some (⟨eSt, [.l, .w], .stLong⟩, o)
  | .ldw o => some (⟨eLdw, [.s], .ldw⟩, o)
  | .ldwLong o => some (⟨eLdw, [.l, .w], .ldwLong⟩, o)
  | .ldc o => some (⟨eLdc, [.s], .ldc⟩, o)
  | .ldcLong o => some (⟨eLdc, [.l, .w], .ldcLong⟩, o)
  | .ste o => some (⟨eSte, [.s], .ste⟩, o)
  | .steLong o => some (⟨eSte, [.l, .w], .steLong⟩, o)
  | .feset o => some (⟨eFeset, [.s], .feset⟩, o)
  | .fesetLong o => some (⟨eFeset, [.l, .w], .fesetLong⟩, o)
  | .fetest o => some (⟨eFetest, [.s], .fetest⟩, o)
  | .fetestLong o => some (⟨eFetest, [.l, .w], .fetestLong⟩, o)
  | .ldp o => some (⟨eLdp, [.s], .ldp⟩, o)
  | .ldpImm o => some (⟨eLdp, [.i], .ldpImm⟩, o)
  | .ldpLong o => some (⟨eLdp, [.l, .w], .ldpLong⟩, o)
  | .sto o => some (⟨eSto, [.s], .sto⟩, o)
  | .stoLong o => some (⟨eSto, [.l, .w], .stoLong⟩, o)
  | .ptest o => some (⟨ePtest, [.s], .ptest⟩, o)
  | .ptestImm o => some (⟨ePtest, [.i], .ptestImm⟩, o)
  | .ptestLong o => some (⟨ePtest, [.l, .w], .ptestLong⟩, o)
  | .pclr o => some (⟨ePclr, ePclr.forms, .pclr⟩, o)
  | .pft o => some (⟨ePft, [.s], .pft⟩, o)
  | .pftImm o => some (⟨ePft, [.i], .pftImm⟩, o)
  | .pftLong o => some (⟨ePft, [.l, .w], .pftLong⟩, o)
  | .clwb o => some (⟨eClwb, [.s], .clwb⟩, o)
  | .clwbImm o => some (⟨eClwb, [.i], .clwbImm⟩, o)
  | .clwbLong o => some (⟨eClwb, [.l, .w], .clwbLong⟩, o)
  | .clinv o => some (⟨eClinv, [.s], .clinv⟩, o)
  | .clinvImm o => some (⟨eClinv, [.i], .clinvImm⟩, o)
  | .clinvLong o => some (⟨eClinv, [.l, .w], .clinvLong⟩, o)
  | .fence o => some (⟨eFence, eFence.forms, .fence⟩, o)
  | .aadd o => some (⟨eAadd, [.s], .aadd⟩, o)
  | .aaddLong o => some (⟨eAadd, [.l, .w], .aaddLong⟩, o)
  | .aand o => some (⟨eAand, [.s], .aand⟩, o)
  | .aandLong o => some (⟨eAand, [.l, .w], .aandLong⟩, o)
  | .aor o => some (⟨eAor, [.s], .aor⟩, o)
  | .aorLong o => some (⟨eAor, [.l, .w], .aorLong⟩, o)
  | .axor o => some (⟨eAxor, [.s], .axor⟩, o)
  | .axorLong o => some (⟨eAxor, [.l, .w], .axorLong⟩, o)
  | .amin o => some (⟨eAmin, [.s], .amin⟩, o)
  | .aminLong o => some (⟨eAmin, [.l, .w], .aminLong⟩, o)
  | .amax o => some (⟨eAmax, [.s], .amax⟩, o)
  | .amaxLong o => some (⟨eAmax, [.l, .w], .amaxLong⟩, o)
  | .axchg o => some (⟨eAxchg, [.s], .axchg⟩, o)
  | .axchgLong o => some (⟨eAxchg, [.l, .w], .axchgLong⟩, o)
  | .acas o => some (⟨eAcas, eAcas.forms, .acas⟩, o)
  | .afadd o => some (⟨eAfadd, [.s], .afadd⟩, o)
  | .afaddLong o => some (⟨eAfadd, [.l, .w], .afaddLong⟩, o)
  | .dcas o => some (⟨eDcas, eDcas.forms, .dcas⟩, o)
  | .amov2 o => some (⟨eAmov2, eAmov2.forms, .amov2⟩, o)
  | .cbinc o => some (⟨eCbinc, [.s], .cbinc⟩, o)
  | .cbincLong o => some (⟨eCbinc, [.l, .w], .cbincLong⟩, o)
  | .cbsnap o => some (⟨eCbsnap, eCbsnap.forms, .cbsnap⟩, o)
  | .cpy o => some (⟨eCpy, eCpy.forms, .cpy⟩, o)
  | .rsacq o => some (⟨eRsacq, eRsacq.forms, .rsacq⟩, o)
  | .rspub o => some (⟨eRspub, eRspub.forms, .rspub⟩, o)
  | .rstake o => some (⟨eRstake, eRstake.forms, .rstake⟩, o)
  | .rsrel o => some (⟨eRsrel, eRsrel.forms, .rsrel⟩, o)
  | .fbopn o => some (⟨eFbopn, eFbopn.forms, .fbopn⟩, o)
  | .smopn o => some (⟨eSmopn, eSmopn.forms, .smopn⟩, o)
  | .fbadv o => some (⟨eFbadv, eFbadv.forms, .fbadv⟩, o)
  | .smadv o => some (⟨eSmadv, eSmadv.forms, .smadv⟩, o)
  | .fbend o => some (⟨eFbend, eFbend.forms, .fbend⟩, o)
  | .smend o => some (⟨eSmend, eSmend.forms, .smend⟩, o)
  | .fbcls o => some (⟨eFbcls, eFbcls.forms, .fbcls⟩, o)
  | .smcls o => some (⟨eSmcls, eSmcls.forms, .smcls⟩, o)
  | .fbpos o => some (⟨eFbpos, eFbpos.forms, .fbpos⟩, o)
  | .fbval o => some (⟨eFbval, eFbval.forms, .fbval⟩, o)
  | .fbsek o => some (⟨eFbsek, eFbsek.forms, .fbsek⟩, o)
  | .fbisx o => some (⟨eFbisx, eFbisx.forms, .fbisx⟩, o)
  | .nzscan o => some (⟨eNzscan, eNzscan.forms, .nzscan⟩, o)
  | .pdec o => some (⟨ePdec, ePdec.forms, .pdec⟩, o)
  | .penc o => some (⟨ePenc, ePenc.forms, .penc⟩, o)
  | .gath o => some (⟨eGath, eGath.forms, .gath⟩, o)
  | .scat o => some (⟨eScat, eScat.forms, .scat⟩, o)
  | .scata o => some (⟨eScata, eScata.forms, .scata⟩, o)
  | .pgsel o => some (⟨ePgsel, ePgsel.forms, .pgsel⟩, o)
  | .kvapp o => some (⟨eKvapp, eKvapp.forms, .kvapp⟩, o)
  | .kvld o => some (⟨eKvld, eKvld.forms, .kvld⟩, o)
  | .perm o => some (⟨ePerm, ePerm.forms, .perm⟩, o)
  | .sxcfg o => some (⟨eSxcfg, eSxcfg.forms, .sxcfg⟩, o)
  | .sxstat o => some (⟨eSxstat, eSxstat.forms, .sxstat⟩, o)
  | .sxfeed o => some (⟨eSxfeed, eSxfeed.forms, .sxfeed⟩, o)
  | .sxfrm o => some (⟨eSxfrm, eSxfrm.forms, .sxfrm⟩, o)
  | .blkopn o => some (⟨eBlkopn, eBlkopn.forms, .blkopn⟩, o)
  | .mvclp o => some (⟨eMvclp, eMvclp.forms, .mvclp⟩, o)
  | .fwarp o => some (⟨eFwarp, eFwarp.forms, .fwarp⟩, o)
  | .drift o => some (⟨eDrift, eDrift.forms, .drift⟩, o)
  | .drchk o => some (⟨eDrchk, eDrchk.forms, .drchk⟩, o)
  | .rfmark o => some (⟨eRfmark, eRfmark.forms, .rfmark⟩, o)
  | .chuck o => some (⟨eChuck, eChuck.forms, .chuck⟩, o)
  | .mswap o => some (⟨eMswap, eMswap.forms, .mswap⟩, o)
  | .mfeed o => some (⟨eMfeed, eMfeed.forms, .mfeed⟩, o)
  | .mdraw o => some (⟨eMdraw, eMdraw.forms, .mdraw⟩, o)
  | .mzero o => some (⟨eMzero, eMzero.forms, .mzero⟩, o)
  | .islandChuck _ => none
  | .islandMswap _ => none
  | .islandMfeed _ => none
  | .islandMfeedTransposed _ => none
  | .islandMdraw _ => none
  | .islandMzero _ => none
  | .islandArmedTile _ => none
  | .tchuck o => some (⟨eTchuck, eTchuck.forms, .tchuck⟩, o)
  | .tfeed o => some (⟨eTfeed, [.s], .tfeed⟩, o)
  | .tfeedLong o => some (⟨eTfeed, [.l, .w], .tfeedLong⟩, o)
  | .tdraw o => some (⟨eTdraw, eTdraw.forms, .tdraw⟩, o)
  | .dqput o => some (⟨eDqput, eDqput.forms, .dqput⟩, o)
  | .dqget o => some (⟨eDqget, eDqget.forms, .dqget⟩, o)
  | .dqcon o => some (⟨eDqcon, eDqcon.forms, .dqcon⟩, o)
  | .dqfrn o => some (⟨eDqfrn, eDqfrn.forms, .dqfrn⟩, o)
  | .dqqsc o => some (⟨eDqqsc, eDqqsc.forms, .dqqsc⟩, o)
  | .ixget o => some (⟨eIxget, eIxget.forms, .ixget⟩, o)
  | .ixupd o => some (⟨eIxupd, eIxupd.forms, .ixupd⟩, o)
  | .ixitr o => some (⟨eIxitr, eIxitr.forms, .ixitr⟩, o)
  | .ixclr o => some (⟨eIxclr, eIxclr.forms, .ixclr⟩, o)
  | .ixspl o => some (⟨eIxspl, eIxspl.forms, .ixspl⟩, o)
  | .launch o => some (⟨eLaunch, eLaunch.forms, .launch⟩, o)
  | .gsarm o => some (⟨eGsarm, eGsarm.forms, .gsarm⟩, o)
  | .rqrat o => some (⟨eRqrat, eRqrat.forms, .rqrat⟩, o)
  | .rdrat o => some (⟨eRdrat, eRdrat.forms, .rdrat⟩, o)
  | .evtake o => some (⟨eEvtake, eEvtake.forms, .evtake⟩, o)
  | .drq o => some (⟨eDrq, eDrq.forms, .drq⟩, o)
  | .qpri o => some (⟨eQpri, eQpri.forms, .qpri⟩, o)
  | .recordRead _ => none
  | .dependenceGranulesPresent _ => none
  | .imageFetch _ => none
  | .startToken _ => none
  | .taskFire _ => none
  | .registerFill _ _ => none
  | .linkTokenArrival _ => none
  | .slotFreeVisible _ => none
  | .elasticSample _ _ => none
  | .replicaPark _ _ _ => none
  | .elasticDeal _ _ => none
  | .elasticCollect _ _ => none
  | .sectionCountExpiry _ _ => none
  | .taskDrain _ => none
  | .engineDrain _ => none
  | .bridgeDrain _ => none
  | .tileDrained _ _ => none
  | .drainReport _ _ => none
  | .preemptRequest _ => none
  | .drainLimitExpiry _ => none
  | .contextRestore _ => none
  | .memoryAccessComplete _ => none
  | .deferralRetry _ => none
  | .l1Eviction _ _ _ => none
  | .engineCommandComplete _ => none
  | .pageWalk _ _ _ => none
  | .tlbinvWrite _ => none
  | .tlbInvalidateComplete => none
  | .frbaseWrite _ _ => none
  | .frtailWrite _ _ => none
  | .fresumeWrite _ _ => none
  | .vfReset _ => none
  | .unitError _ _ => none
  | .unfenceWrite _ => none
  | .frameParse _ => none
  | .packetPublish _ => none
  | .lqresvRead _ _ _ => none
  | .hostBar2Write _ _ _ => none
  | .hostBar2Read _ _ _ => none
  | .arbiterGrant _ => none
  | .impositionComplete _ => none
  | .sliceExpiry _ => none
  | .grantRecompute _ => none
  | .pcapWrite _ => none
  | .staticEnergyTick => none
  | .timerSaturate => none
  | .timesetWrite _ => none
  | .tepochWrite _ _ => none
  | .registerWrite _ _ _ _ => none
  | .ctxfnWrite _ _ => none
  | .prtunitWrite _ _ _ => none
  | .dltailWrite _ => none
  | .holvorRemoteAccess _ => none
  | .reductionContribution _ _ _ _ _ => none
  | .holvorLinkState _ _ _ => none
  | .timeSyncLock _ _ _ _ => none
  | .boot _ => none
  | .attestationQuote _ => none
  | .thermalTick _ _ => none
  | .thermalTrip => none
  | .dlbaseWrite _ => none

end Sys2Proof.Machine
end

