-- ==== Sys2Proof/Config.lean ====
section
/-! DEFINITION. The values that the manual leaves to a package or to a device, and the free values: constants without a body,
so that nothing can be proved of what they are (log entries 2, 5, 11 to 13). -/

namespace Sys2Proof.Config

open Sys2Proof

/-! ### What the standards give of a frame (R306 to R316) -/

/-- A profile that a bitstream names (R306). -/
inductive Profile where
  | h264ConstrainedBaseline | h264Main | h264High | h265Main | h265Main10 | av1Main
  | other (n : Nat)
  deriving DecidableEq, Repr, Inhabited

/-- A sample that the standard's prediction reads, with its weight num / den (R316): a sample of a component plane of the
picture with a decode-order number, or of the current one. -/
structure PredTap where
  num   : Int
  den   : Nat
  frame : Option Nat
  comp  : Nat
  x     : Int
  y     : Int
  deriving DecidableEq, Repr, Inhabited

/-- A 4 × 4 cell of a component plane (R316): for each sample, row by row, the taps of its prediction, the constant part of the
prediction as a fraction, and the residual. -/
structure CellSyntax where
  comp : Nat
  cx   : Nat
  cy   : Nat
  taps : List (List PredTap)
  base : List (Int × Nat)
  res  : List Int
  deriving DecidableEq, Repr, Inhabited

/-- A transform block (R315): its size, and its levels and dequantised coefficients in raster order, as the standard gives them
before it clamps. -/
structure TransformBlock where
  w      : Nat
  h      : Nat
  levels : List Int
  deq    : List Int
  deriving DecidableEq, Repr, Inhabited

/-- The mode of a block (R313). -/
inductive BlockMode where
  | intra | inter | interNoResidual | intraCopy | palette
  deriving DecidableEq, Repr, Inhabited

/-- The region of a component in one prediction block and one transform block (R313): `refs` are its list indices (for AV1 its
ref_frame values), `mvs` its vectors in the standard's unit, `tb` the number of its transform block. -/
structure BlockSyntax where
  comp  : Nat
  x     : Nat
  y     : Nat
  w     : Nat
  h     : Nat
  mode  : BlockMode
  qp    : Nat
  imode : Nat
  part  : Nat
  refs  : List (Option Nat)
  mvs   : List (Int × Int)
  tb    : Option Nat
  tw    : Nat
  th    : Nat
  deriving DecidableEq, Repr, Inhabited

/-- A frame as its standard parses it (R306, R307, R312 to R318): whether it obeys the syntax, the tools it uses, its size, its
place in display order, its references by decode-order number, the pictures that leave the decoded picture buffer before and
after it, and its blocks and cells in decode order. `level` is ten times the level. -/
structure FrameSyntax where
  wellFormed : Bool
  profile    : Profile
  level      : Nat
  bitDepth   : Nat
  chroma420  : Bool
  extensions : Bool
  superRes   : Bool
  fieldCoded : Bool
  width      : Nat
  height     : Nat
  order      : Int
  lists      : Nat
  isRef      : Bool
  shows      : Option Nat
  refs0      : List Nat
  refs1      : List Nat
  before     : List Nat
  after      : List Nat
  tbs        : List TransformBlock
  blocks     : List BlockSyntax
  cells      : List CellSyntax
  bins       : Nat
  deriving DecidableEq, Repr, Inhabited

/-! ### Constants -/

/-- IDLEF.MW, the idle floor of this package in mW (R31, R409; log entry 5). -/
opaque idlef : BitVec 32

/-- PSTAT.STATMW, the static draw of this package in mW (R409; log entry 5). -/
opaque statmw : BitVec 19

/-- The device value of ENWTn.PJ (R405, R409; log entry 5). -/
opaque enwt : Nat → BitVec 16

/-- PCOEF of a domain (0 matrix, 1 vector, 2 memory) that the device computes from a placement, given as the units of
the partition (R397; log entry 5). -/
opaque pcoef : Nat → List Nat → BitVec 16

/-- The n-th free value (log entry 2). -/
opaque freeDword : Nat → Dword

/-- Bytes of a layout that is private to the device, by a free-value number and an offset (R309, R350; log entry 12). -/
opaque privateByte : Nat → Nat → Byte

/-- What a syntax engine finds at the head of the accepted bytes of a stream (R306, R324; log entry 11): the number of
bytes that the next frame takes, 0 while they do not hold the whole frame, by codec and bytes. -/
opaque frameLength : Nat → List Byte → Nat

/-- What the standard of its codec makes of the bytes of a frame (R306; log entry 11): by codec, free-value number (the parse
state that earlier bytes left) and bytes. -/
opaque parseFrame : Nat → Nat → List Byte → FrameSyntax

/-- The public key of the firmware whose digest is fused in the hub (R424, R425; log entry 13). -/
opaque imageKey : Vector Byte 68

/-- The least security version that is fused in the hub (R424; log entry 13). -/
opaque fusedSvn : Word

/-- The XMSS signature of a quote with an index (R425, R426; log entry 13). -/
opaque xmssByte : Nat → List Byte → Nat → Byte

/-- The choice among the values written to %seed in one forme (R142; log entry 2): an index below the given count. -/
opaque pick : Nat → Nat → Nat

end Sys2Proof.Config
end

