-- ==== Sys2Proof/Machine/State.lean ====
section
/-! DEFINITION. The state of the package as plain data: task slots, processing elements, memory, caches, engines, sequencers,
queues and registers (INVENTORY.md lists every field with its rule), the reasons a step can stop, and the state after reset. -/

namespace Sys2Proof.Machine

open Sys2Proof

/-- A sparse table: entries in strictly rising order of key, none equal to what an unlisted key reads as. -/
abbrev Tbl (α : Type) := List (Nat × α)

/-! ### Tokens, ports and cursors -/

/-- The kind of a token (R147): an element or a marker. -/
inductive Kind where
  | elem
  | mrk (m : Marker)
  deriving DecidableEq, Repr

/-- A token: a 64-bit payload and a kind (R147). -/
structure Tok where
  val  : Dword := 0
  kind : Kind := .elem
  deriving DecidableEq, Repr

/-- An input port, or the input channel of an engine (R37, R42, R43): its buffered tokens in order, those consumed in
this firing, the slots freed that the producer does not see yet, whether its link has no slot, and whether the next instruction
of its task takes a token there and waits for nothing else (R40, R42). -/
structure InPort where
  bound : Bool := false
  zero  : Bool := false
  want  : Bool := false
  rate  : Nat := 0
  vc    : BitVec 6 := 0
  queue : List Tok := []
  taken : Nat := 0
  freed : Nat := 0
  deriving DecidableEq, Repr

/-- An output port, or the output channel of an engine (R37, R38, R42): its rate or bound, its marker key, the link's slot
count, the free slots visible, the slots reserved and still unused, the tokens produced in this firing, those sent and
not yet delivered, the completion tokens promised to engines, the hops of its route (R405, class 13) and the bridge directions
it crosses, as (from die, to die) (R56), and on a collecting path the token counts of the firings that the collector has still to take (R51). On a link without slots `credit` is 1 while a
taker is seen, and `offer` tells that the next instruction of the port's task sends a token there once it has a taker. -/
structure OutPort where
  bound    : Bool := false
  rate     : Nat := 0
  mkey     : BitVec 2 := 0
  vc       : BitVec 6 := 0
  dst      : Option End := none
  cap      : Nat := 0
  credit   : Nat := 0
  reserved : Nat := 0
  sent     : Nat := 0
  flight   : List Tok := []
  promised : Nat := 0
  hops     : Nat := 0
  bridges  : List (Nat × Nat) := []
  counts   : List Nat := []
  offer    : Bool := false
  deriving DecidableEq, Repr

/-- A fibre descriptor (R284). -/
structure Desc where
  vbase : Dword := 0
  pbase : Dword := 0
  n     : Nat := 0
  ext   : Nat := 0
  vt    : BitVec 6 := 0
  gk    : Nat := 0
  fmt   : Nat := 0
  deriving DecidableEq, Repr

/-- A fibre or stream register (R282 to R286, R297): closed, open at an entry and a position, or pending on a command. -/
inductive Cursor where
  | closed
  | opened (d : Desc) (e : Nat) (p : Nat)
  | pending (cmd : Nat)
  deriving DecidableEq, Repr

/-! ### Task slots -/

/-- An entry of the loop stack (R162). -/
structure Loop where
  start : BitVec 9
  stop  : BitVec 9
  rem   : Word
  rot   : BitVec 4
  deriving DecidableEq, Repr

/-- The status of a slot (R271): no task, idle, in a firing, suspended, retired by DRN. -/
inductive SlotSt where
  | noTask | idle | firing | suspended | retired
  deriving DecidableEq, Repr

/-- An entry of the register cache of a control slot (R36). -/
structure VEntry where
  reg   : Nat
  val   : Dword
  dirty : Bool
  deriving DecidableEq, Repr

/-- A task slot (R36, R37, R136 to R143, R147, R156, R161, R162, R271). The call and loop stacks hold their top first;
`vsaved` marks the control registers written back to the save area in this forme; `busy` holds while a request of the slot
waits; `owed` counts, for each class of R405, the units this slot has not yet been charged for (R197); `sysFence` holds once
the slot has performed a FENCE of system scope in this forme (R221). -/
structure Slot where
  st        : SlotSt := .noTask
  id        : Coord := ⟨0, 0, 0, 0⟩
  place     : Coord := ⟨0, 0, 0, 0⟩
  prt       : Nat := 0
  ctl       : Bool := false
  entry     : BitVec 9 := 0
  pc        : BitVec 9 := 0
  calls     : List (BitVec 9) := []
  loops     : List Loop := []
  phys      : Vector Dword 64 := Vector.replicate 64 0
  wbase     : BitVec 6 := 0
  vcache    : List VEntry := []
  vsaved    : BitVec 256 := 0
  rmode     : BitVec 3 := 1
  fsticky   : BitVec 4 := 0
  amax      : BitVec 33 := 0
  rng       : Dword := 1
  fires     : Dword := 0
  mkSeg     : Nat := 0
  mkRow     : Nat := 0
  mkTen     : Nat := 0
  ins       : Vector InPort 8 := Vector.replicate 8 {}
  outs      : Vector OutPort 8 := Vector.replicate 8 {}
  fbs       : Vector Cursor 8 := Vector.replicate 8 .closed
  sms       : Vector Cursor 8 := Vector.replicate 8 .closed
  busy      : Bool := false
  owed      : Tbl Nat := []
  sysFence  : Bool := false
  faultSeq  : Option Word := none
  resume    : Bool := false
  deriving DecidableEq, Repr

/-- A processing element (R19, R40, R117): the words its store holds and the slot it last issued from. -/
structure Pe where
  place : Coord
  words : List Word
  last  : BitVec 2
  deriving DecidableEq, Repr

/-! ### Memory -/

/-- A line of an L1 or of the L2 slices (R206, R209): the unit that holds it (0 for L2), its context, its physical
address over 128, its bytes, its dirty mask, and, for an L1, the 32-bit words that hold an uncorrectable error (R277). -/
structure Line where
  unit  : Nat
  ctx   : Nat
  line  : Nat
  data  : BitVec 1024
  dirty : BitVec 128
  bad   : BitVec 32
  deriving DecidableEq, Repr

/-- What the caches have still to report at the end of a step: units of an energy class of R405 charged to a context, and a
poisoned write-back charged to the context of its tag, with the requester's context (R209, R277). -/
inductive MemNote where
  | energy (ctx cls n : Nat)
  | poisoned (line ctx req : Nat)
  deriving DecidableEq, Repr

/-- The page kinds of R202 and R260. -/
inductive PageKind where
  | mu | wo | far
  deriving DecidableEq, Repr

/-- A translation held in a TLB (R262). -/
structure Tlbe where
  ctx  : Nat
  base : Nat
  bits : Nat
  pa   : Nat
  kind : PageKind
  r    : Bool
  w    : Bool
  pte  : Dword
  deriving DecidableEq, Repr

/-- What a waiting request waits for (R204, R208, R254, R371, R419, R420): one sent to another package names the package, the
context there, and whether it writes. -/
inductive WaitKind where
  | ldw | ldc | ste | ldp
  | rsacq | rstake (k : Nat)
  | dqput (lane : Nat) | dqget | ixupd
  | remote (store : Bool) (pkg ctx : Nat)
  deriving DecidableEq, Repr

/-- A request that waits, in arrival order: its slot and instruction, the place it waits at (a unit, a granule), its address
and width, the values it carries, its effective address, the tokens its instruction consumed at each input port when it
issued (R225), the backoff of a refused one, what a performed one brings to its slot, and whether it met an uncorrectable
error (R231, R233). -/
structure Waiter where
  place   : Coord
  op      : Ops
  what    : WaitKind
  unit    : Nat
  addr    : Nat
  width   : Nat
  data    : List Dword
  ea      : Dword
  took    : List (List Tok)
  refused : Option Nat
  done    : Option (List Dword)
  err     : Bool
  deriving DecidableEq, Repr

/-- Memory (R22, R24, R198 to R209, R277): HBM bytes, scratchpad bytes (unit times 2^21 plus offset), presence bits of HBM
granules, full/empty bits of scratchpad words, poisoned HBM lines and scratchpad words, the caches, the die TLBs, the
waiting requests, the granules whose presence clears at the forme boundary (partition, first granule, count), the launch
queue plus 1 whose slot wrote a granule after a FENCE of system scope (R221), and what the caches have still to report. -/
structure Mem where
  hbm      : List Host.Cell := []
  sram     : List Host.Cell := []
  present  : Tbl Bool := []
  full     : Tbl Bool := []
  badLine  : Tbl Bool := []
  badWord  : Tbl Bool := []
  l1       : List Line := []
  l2       : List Line := []
  dieTlb   : Tbl (List Tlbe) := []
  mtTlb    : Tbl (List Tlbe) := []
  waits    : List Waiter := []
  clears   : List (Nat × Nat × Nat) := []
  fenced   : Tbl Nat := []
  notes    : List MemNote := []
  deriving DecidableEq, Repr

/-! ### Memory tiles -/

/-- The state of a ring slot in the side array (R252). -/
inductive RingSt where
  | empty | filling | full | draining
  deriving DecidableEq, Repr

/-- An entry of the ring side array (R252). -/
structure SideLine where
  st   : RingSt := .empty
  ring : Nat := 0
  seq  : Word := 0
  deriving DecidableEq, Repr

/-- A ring control (R252): NEXT, the cursors, the taken bits and the handle latched at the ring's first use. -/
structure RingCtl where
  next   : Word := 0
  cur    : Vector Word 4 := Vector.replicate 4 0
  taken  : Vector Bool 4 := Vector.replicate 4 false
  handle : Option Dword := none
  deriving DecidableEq, Repr

/-- An address-generator window (R101, R259), with its direct mark and latched base. -/
structure Window where
  base   : Dword := 0
  ext    : Vector Nat 3 := Vector.replicate 3 0
  str    : Vector Int 3 := Vector.replicate 3 0
  ndim   : Nat := 0
  direct : Option Nat := none
  deriving DecidableEq, Repr

/-- A stream port (R20, R55, R100): its windows, its channel, the section it is a node of, its window, the elements it has
still to send, the element it stands at, and whether it has sent DRN. -/
structure StreamPort where
  wins : Tbl Window := []
  out  : OutPort := {}
  node : Bool := false
  sect : Nat := 0
  win  : Nat := 0
  todo : Nat := 0
  pos  : Nat := 0
  drn  : Bool := false
  deriving DecidableEq, Repr

/-- A replica of an elastic stage (R49 to R51, R100): its dealing and collecting channels, whether it is active, and whether
it is marked for parking. -/
structure Replica where
  deal   : OutPort := {}
  need   : Nat := 1
  recv   : Option Coord := none
  coll   : Option InPort := none
  leaver : Option Coord := none
  active : Bool := false
  park   : Bool := false
  deriving DecidableEq, Repr

/-- An elastic stage (R49 to R51): its input queue, its leaving channel, its replicas, the deal and collect pointers, the
last sample's occupancy and whether an output was full then, and the firings dealt and not yet collected. -/
structure Stage where
  queue   : InPort := {}
  cap     : Nat := 1
  leave   : Option OutPort := none
  reps    : List Replica := []
  deal    : Nat := 0
  collect : Nat := 0
  last    : Option (Nat × Bool) := none
  dealt   : List Nat := []
  floor   : Nat := 1
  drn     : Bool := false
  deriving DecidableEq, Repr

/-- A declared region: a delta queue or a hash index, its spill base and spill size in units of 128 bytes (R103, R357). -/
structure Region where
  idx    : Bool
  lcap   : Nat
  sbase  : Nat
  spillA : Nat
  spillN : Nat
  deriving DecidableEq, Repr

/-- The drift registers of a memory tile (R331). -/
structure Drift where
  alpha : Word := 0
  beta  : Word := 0
  gamma : Word := 0
  dmax  : Word := 0x7F800000
  lmax  : BitVec 16 := 0x20
  deriving DecidableEq, Repr

/-- A memory tile (R199, R201, R245, R252, R331). `split` and `drift` are the values in force, latched at a forme start;
`mtcfg` and `driftReg` the registers. -/
structure Mt where
  mtcfg    : Nat := 8
  split    : Nat := 8
  driftReg : Drift := {}
  drift    : Drift := {}
  lastCtx  : Option Nat := none
  counters : Tbl Word := []
  side     : Tbl SideLine := []
  rings    : Tbl RingCtl := []
  ports    : Tbl StreamPort := []
  stages   : Tbl Stage := []
  regions  : Tbl Region := []
  deriving DecidableEq, Repr

/-! ### Arrays and engines -/

/-- A matrix island (R337 to R349): its binding, its planes by 64·k + n, scales by 2·k + b, accumulators by 64·r + j, the
command in service with its block, the feed tokens it has taken, the tokens it has still to draw, the tiles remaining of
an armed section, and its channels. -/
structure Island where
  bound   : Bool := false
  prt     : Nat := 0
  img     : Nat := 0
  ty      : BitVec 6 := 0
  sect    : Nat := 0
  cmd     : InPort := {}
  feed    : InPort := {}
  draw    : OutPort := {}
  drawLnk : Bool := false
  plane   : Tbl Dword := []
  scale   : Tbl Byte := []
  shadow  : Tbl Dword := []
  sscale  : Tbl Byte := []
  acc     : Tbl Dword := []
  cur     : Option (Dword × Nat) := none
  taken   : List Tok := []
  pend    : List Tok := []
  todo    : Nat := 0
  drn     : Bool := false
  deriving DecidableEq, Repr

/-- A ternary array (R351): trits by 32·k + n (0 for 0, 1 for 1, 2 for −1, as R129) and accumulators by 32·r + n. -/
structure Ternary where
  trits : Tbl Nat := []
  acc   : Tbl Word := []
  deriving DecidableEq, Repr

/-- An edge unit's channels in a forme (R46, R98): the input and output channels that paths reach, and whether it has passed
DRN (R56). -/
structure Edge where
  prt  : Nat := 0
  ins  : Tbl InPort := []
  outs : Tbl OutPort := []
  drn  : Bool := false
  deriving DecidableEq, Repr

/-- A picture that holds a slot (R316, R318): its frame number, its slot, and its size. -/
structure Pic where
  frame  : Nat
  slot   : Nat
  width  : Nat
  height : Nat
  deriving DecidableEq, Repr

/-- A coded-video stream (R308 to R325). `engine` names the partition whose forme uses it and the engine; `pics` the pictures
that hold a slot, and `freed` the released slots with the frame during whose parse that was (R318); `packets`
the parsed packets of the current frame that are not yet published, `reqs` the outstanding SXFRM commands. -/
structure Strm where
  ctx      : Nat
  handle   : Dword
  ring     : Dword
  stbase   : Dword
  codec    : Nat
  levels   : Bool
  lag      : Nat
  nst      : Nat
  maxw     : Nat
  maxh     : Nat
  engine   : Option (Nat × Nat)
  queue    : List (Nat × Nat)
  fed      : Nat
  consumed : Nat
  eosFed   : Bool
  eos      : Bool
  sat      : Bool
  err      : Nat
  frame    : Nat
  pics     : List Pic
  freed    : List (Nat × Nat)
  reqs     : List Nat
  packets  : List (List Byte)
  status   : Option Nat
  deriving DecidableEq, Repr

/-- An engine command accepted and not complete (R210, R234, R249, R295, R302, R320, R351). -/
inductive CmdKind where
  | cpy (dst src : Dword) (n : Nat) (dsp ssp pub full : Bool)
  | pclr (start n : Nat)
  | gath (nan : Bool) (ty : BitVec 6) (s : Nat) (b c : Dword) (xs : List Nat) (bank : Option (Nat × Bool))
  | scat (add : Bool) (ty : BitVec 6) (s : Nat) (b c : Dword) (xs : List Nat) (bank : Option (Nat × Bool))
  | pgsel (blk : Dword) (fb : Nat)
  | kvapp (page key value : Dword)
  | kvld (page dst : Dword) (vals f32 : Bool)
  | sxfeed (handle : Dword) (va n : Nat) (eos : Bool)
  | sxfrm (handle : Dword)
  | fwarp (blk : Dword)
  | rfmark (blk : Dword)
  | tchuck (a : Dword)
  | tfeed (a : Dword) (row0 cnt : Nat) (sat : Bool)
  | tdraw (a : Dword) (row0 cnt : Nat) (clr : Bool)
  deriving DecidableEq, Repr

/-- An engine command with its number, its issuing slot, its partition and compute unit, the completion port, its instruction's
address, the block read when it issued, and, once it is performed, the token it has to send after those promised before. -/
structure Cmd where
  id    : Nat
  place : Coord
  prt   : Nat
  unit  : Nat
  port  : Option (BitVec 3)
  pc    : BitVec 9
  kind  : CmdKind
  block : List Dword
  done  : Option Dword := none
  deriving DecidableEq, Repr

/-! ### Faults, contexts, partitions, queues -/

/-- A fault record (R266): CODE, CLASS, SUB, CTX, the instruction words, PC, IMGC, PLACE, SRC, RIDX, TAG, ADDR, INFO, TIME. -/
structure FRec where
  code  : Nat
  cls   : Nat
  sub   : Nat
  ctx   : Nat
  iw0   : Word
  iw1   : Word
  pc    : BitVec 9
  imgc  : Nat
  place : Nat
  src   : Nat
  ridx  : Nat
  tag   : Word
  addr  : Dword
  info  : Dword
  time  : Dword
  deriving DecidableEq, Repr

/-- A ring of fault records (R267, R428): base, log2 size, head, tail, next sequence number, the held records, and the
loss counters. -/
structure FRing where
  base : Nat := 0
  n    : Nat := 6
  head : Word := 0
  tail : Word := 0
  held : List (Word × FRec) := []
  lost : Word := 0
  ovf  : Bool := false
  deriving DecidableEq, Repr

/-- A Holvor window of a context (R418, R420), its four registers. -/
structure HvWin where
  base : Dword := 0
  size : Dword := 0
  tgt  : Dword := 0
  rva  : Dword := 0
  deriving DecidableEq, Repr

/-- A context (R142, R281, R405, R407, R418). `seedNew` holds the values written to
%seed in this forme, in order, each with the launch queue (plus 1) and the task that wrote it. -/
structure Ctx where
  root    : Nat := 0
  hbase   : Nat := 0
  hlim    : Nat := 0
  hoff    : Dword := 0
  hperm   : BitVec 2 := 0
  hwign   : Bool := false
  stop    : Bool := false
  en      : Bool := false
  fn      : Nat := 0
  nj      : Nat := 0
  sat     : Bool := false
  pj      : Nat := 0
  seed    : Dword := 0
  seedNew : List ((Nat × Coord) × Dword) := []
  hvwins  : Tbl HvWin := []
  deriving DecidableEq, Repr

/-- Steps of the matrix, vector and memory domains (R28, R396). -/
structure Steps where
  mx : Nat
  vc : Nat
  mm : Nat
  deriving DecidableEq, Repr

/-- A section of the resident forme (R55): whether it was armed, the tile count held, whether it has expired, whether it
has sent DRN. -/
structure Sect where
  armed   : Bool := false
  rem     : Nat := 0
  expired : Bool := false
  drn     : Bool := false
  deriving DecidableEq, Repr

/-- The phase of a graph sequencer (R52 to R62). -/
inductive Phase where
  | idle | read | deps | fetch | loaded | run | ended
  deriving DecidableEq, Repr

/-- The launch that a partition holds (R383, R386): queue, slot words, records whose formes have drained. -/
structure Launch where
  fn      : Nat
  q       : Nat
  reca    : Nat
  cmpl    : Nat
  evmask  : BitVec 4
  drained : Nat
  deriving DecidableEq, Repr

/-- A unit's part of a forced save (R61, R272 to R274, R350): the state that goes with one compute unit. -/
structure UnitSave where
  img   : Nat
  slots : List Slot
  mt    : Mt
  sram  : List (Nat × Byte)
  full  : List Nat
  bad   : List Nat
  tern  : Ternary
  deriving DecidableEq, Repr

/-- What a forced save keeps (R61, R272): units, islands and edge units by image number, the number of engine blocks, engine
commands, streams, sections, and the presence bits still to be cleared. -/
structure Snap where
  units   : List UnitSave
  islands : List (Nat × Island)
  edges   : List (Nat × Edge)
  engines : Nat
  cmds    : List Cmd
  strms   : List Strm
  sects   : Vector Sect 4
  clears  : List (Nat × Nat)
  record  : BitVec 512
  deriving DecidableEq, Repr

/-- What a pre-empted launch keeps until it is granted again (R59, R389, R402): the index of its next record, its
event queue, its request, and the saved forme. -/
structure Kept where
  ridx    : Nat
  drained : Nat
  evq     : List Dword
  evLost  : Bool
  req     : Steps
  snap    : Option Snap
  deriving DecidableEq, Repr

/-- A partition (R35, R52 to R62, R267, R281, R388 to R402, R409, R417, R418). `formeCus` names the compute units that the
resident forme's image names, `owed` the units of it that have not drained, `toReport` those drained whose report the sequencer has not collected; `grantAt` and `preAt` are the
timer values of the grant and of the pre-emption request. -/
structure Part where
  en        : Bool := false
  fn        : Nat := 0
  ctx       : Nat := 0
  map       : Vector Dword 14 := Vector.replicate 14 0
  place     : Vector Dword 16 := Vector.replicate 16 0
  ring      : FRing := {}
  frmbase   : Nat := 0
  savebase  : Nat := 0
  xsavebase : Nat := 0
  rsabase   : Nat := 0
  drlim     : Nat := 1000
  pslice    : Nat := 0
  floor     : Steps := ⟨4, 4, 4⟩
  weight    : Nat := 1
  grseq     : Word := 0
  req       : Steps := ⟨16, 16, 16⟩
  grant     : Steps := ⟨4, 4, 4⟩
  phase     : Phase := .idle
  launch    : Option Launch := none
  ridx      : Nat := 0
  record    : BitVec 512 := 0
  cand      : Vector (Option Nat) 4 := Vector.replicate 4 none
  sects     : Vector Sect 4 := Vector.replicate 4 {}
  formeCus  : List Nat := []
  owed      : List Nat := []
  toReport  : List Nat := []
  preempt   : Bool := false
  grantAt   : Dword := 0
  preAt     : Dword := 0
  stopCode  : Bool := false
  restore   : Option Snap := none
  evq       : List Dword := []
  evLost    : Bool := false
  divs      : Tbl Nat := []
  deriving DecidableEq, Repr

/-- A launch queue (R383, R384, R388, R409). `recent` orders grants: 0 when never granted. -/
structure Lq where
  base   : Nat := 0
  en     : Bool := false
  prt    : Nat := 0
  log2   : Nat := 4
  prio   : Nat := 7
  prod   : Word := 0
  head   : Word := 0
  recent : Nat := 0
  kept   : Option Kept := none
  deriving DecidableEq, Repr

/-! ### Package -/

/-- A reduction window of the home package (R418, R421, R422): registers, the round, the contributions held for each
granule as (granule, package, context, value), the granules merged in this round, and the sources seen. -/
structure RedWin where
  base   : Dword := 0
  size   : Dword := 0
  cfg    : Dword := 0
  cva    : Dword := 0
  round  : Word := 0
  held   : List (Nat × Nat × Nat × Dword) := []
  merged : List Nat := []
  peers  : List (Nat × Nat) := []
  deriving DecidableEq, Repr

/-- A Holvor link (R418, R419, R423): its status bits, and, as last heard, the TEPOCH of its peer and the lowest HVSYNC.PKG of the
packages connected over it, 0xFFFF before one is heard (log entry 3). -/
structure HvLink where
  up    : Bool := false
  train : Bool := false
  lock  : Bool := false
  peer  : Nat := 0
  low   : BitVec 16 := 0xFFFF
  deriving DecidableEq, Repr

/-- The state of a unit's reliability (R278, R418): fenced, present, and the times of its recent errors. -/
structure UnitSt where
  fenced  : Bool := false
  absent  : Bool := false
  errors  : List Nat := []
  deriving DecidableEq, Repr

/-- What this package has answered to an access of another package (R420): a fault code or 0 with its ADDR and INFO, the values
or the bytes read. -/
structure HvAnswer where
  code   : Nat := 0
  addr   : Dword := 0
  info   : Dword := 0
  values : List Dword := []
  bytes  : List Byte := []
  deriving DecidableEq, Repr

/-- Package, die and function registers (R263, R399, R404 to R409, R418 to R428), the dies held in reset (R427), the next XMSS
index (R426), and the last answer of each kind to the outside: a host register read (function, value), a BAR2 read (function,
bytes, none for a completer abort), a quote (index, bytes, none when the
indices are spent), an access from another package. `cool` counts the milliseconds, up to ten, since a junction was last not
below TTHR.LO (R427); `digests` holds the SHAKE256 digests of the images loaded at stage 4 (R426). -/
structure Sys where
  pcap     : Nat := 2200
  tsat     : Bool := false
  tsign    : Bool := false
  breach   : Bool := false
  unreach  : Bool := false
  weights  : Tbl Nat := []
  pidle    : Nat := 0
  tepoch   : Nat := 0
  hot      : Tbl Dword := []
  tlbBusy  : Option Dword := none
  tlbHeld  : List Dword := []
  pfwin    : Tbl Dword := []
  vfwin    : Tbl Dword := []
  rsts     : Tbl Bool := []
  links    : Tbl HvLink := []
  hvofs    : BitVec 16 := 0
  hvpkg    : BitVec 16 := 0
  rwins    : Tbl RedWin := []
  dlog     : FRing := {}
  units    : Tbl UnitSt := []
  stage    : Nat := 0
  bootErr  : Nat := 0
  svn      : Word := 0
  tempC    : Nat := 0
  tempDie  : Nat := 0
  tcap     : Nat := 2200
  tthr     : BitVec 16 := 0x5F64
  cool     : Nat := 0
  digests  : List (List Byte) := []
  held     : Bool := false
  xmss     : Nat := 0
  reply    : Option (Nat × Dword) := none
  barRead  : Option (Nat × Option (List Byte)) := none
  quote    : Option (Nat × Option (List Byte)) := none
  answer   : Option HvAnswer := none
  grants   : Nat := 0
  deriving DecidableEq, Repr

/-- What acts next (log entry 1): a PE takes its next cycle, an event of the table comes about, or time passes. -/
inductive Action where
  | issue (pe : Coord)
  | event (i : Instr)
  | elapse (n : Nat)
  deriving DecidableEq, Repr

/-- What another package has answered to an access that an engine of this package sent there (R419, R420): the context and
address it was sent with, whether it writes, a fault code or 0 with ADDR and INFO, and the bytes read. -/
structure HvReply where
  ctx   : Nat
  va    : Nat
  write : Bool
  code  : Nat
  addr  : Dword
  info  : Dword
  bytes : List Byte
  deriving DecidableEq, Repr

/-- The state of the package. `slot` is the task slot in focus, `others` every other slot; `agenda`, `stall` and
`freeCount` are the model's own (log entries 1 and 2): what acts next, whether the last issue found its slot not
ready, and the number of free values used. -/
structure State where
  slot      : Slot := {}
  others    : List Slot := []
  pes       : List Pe := []
  mem       : Mem := {}
  mts       : Tbl Mt := []
  islands   : Tbl Island := []
  terns     : Tbl Ternary := []
  edges     : Tbl Edge := []
  strms     : List Strm := []
  cmds      : List Cmd := []
  nextCmd   : Nat := 0
  ctxs      : Tbl Ctx := []
  parts     : Tbl Part := []
  lqs       : Tbl Lq := []
  sys       : Sys := {}
  hvReplies : List HvReply := []
  timer     : Dword := 0
  agenda    : List Action := []
  stall     : Bool := false
  freeCount : Nat := 0
  deriving DecidableEq, Repr

/-- The reasons a step stops with a fault of the model. -/
inductive Fault where
  /-- Raised by the step when a slot's pc lies outside the words its PE loaded, or on words that decode to no
  instruction; R117 rules both out for a loaded forme. Safe: the hardware has no such state. -/
  | fetchOutsideStore
  deriving DecidableEq, Repr

/-- The reasons a step has no meaning. -/
inductive Refusal where
  /-- Raised by an arm of `exec` whose instruction has no meaning in the model. Safe: nothing is claimed of it. -/
  | notModelled (mnemonic : String)
  deriving DecidableEq, Repr

/-- The machine right after reset (INVENTORY.md, '## State'): no forme is loaded and every register holds its reset
value. -/
def State.reset : State := {}

end Sys2Proof.Machine
end

