-- ==== Sys2Proof/Machine/Tables.lean ====
section
/-! DEFINITION. Sparse tables, byte strings in little-endian order (R5), the numbering of units and tiles (R14 to R18), and
the lookups of slots, tiles, contexts, partitions and queues in the state. -/

namespace Sys2Proof.Machine

open Sys2Proof

/-! ### Sparse tables -/

/-- The value at a key; an unlisted key reads as the default. -/
def tget {α : Type} (d : α) : Tbl α → Nat → α
  | [], _ => d
  | (k', v) :: t, k => if k = k' then v else tget d t k

/-- The table with a value at a key, kept in rising order and without default entries. -/
def tput {α : Type} [DecidableEq α] (d : α) : Tbl α → Nat → α → Tbl α
  | [], k, v => if v = d then [] else [(k, v)]
  | (k', v') :: t, k, v =>
    if k < k' then (if v = d then (k', v') :: t else (k, v) :: (k', v') :: t)
    else if k = k' then (if v = d then t else (k, v) :: t)
    else (k', v') :: tput d t k v

/-- Every key of the table is above a bound and the canonical form holds from there. -/
def twfFrom {α : Type} [DecidableEq α] (d : α) (lo : Nat) : Tbl α → Bool
  | [] => true
  | (k, v) :: t => lo ≤ k && v != d && twfFrom d (k + 1) t

/-- The canonical form of a table: keys strictly rising, no default entry. -/
def twf {α : Type} [DecidableEq α] (d : α) (t : Tbl α) : Bool := twfFrom d 0 t

/-- The table without its keys from `lo` up to `hi`. -/
def tdrop {α : Type} (t : Tbl α) (lo hi : Nat) : Tbl α := t.filter (fun p => !(lo ≤ p.1 && p.1 < hi))

/-- The entries of a table with keys from `lo` up to `hi`. -/
def trange {α : Type} (t : Tbl α) (lo hi : Nat) : Tbl α := t.filter (fun p => lo ≤ p.1 && p.1 < hi)

/-! ### Bytes -/

/-- `n` bytes of a byte table from an address on. -/
def readBytes (t : Tbl Byte) (a : Nat) : Nat → List Byte
  | 0 => []
  | n + 1 => tget 0 t a :: readBytes t (a + 1) n

/-- The byte table with a string of bytes stored from an address on. -/
def writeBytes (t : Tbl Byte) (a : Nat) : List Byte → Tbl Byte
  | [] => t
  | b :: bs => writeBytes (tput 0 t a b) (a + 1) bs

/-- The number a little-endian byte string holds (R5). -/
def bytesToNat : List Byte → Nat
  | [] => 0
  | b :: bs => b.toNat + 256 * bytesToNat bs

/-- The `n` low bytes of a number in little-endian order (R5). -/
def natToBytes : Nat → Nat → List Byte
  | 0, _ => []
  | n + 1, v => BitVec.ofNat 8 v :: natToBytes n (v / 256)

/-- Bits `hi` down to `lo` of a number. -/
def bits (v hi lo : Nat) : Nat := v / 2 ^ lo % 2 ^ (hi + 1 - lo)

/-- Bit `i` of a number. -/
def bit (v i : Nat) : Bool := v / 2 ^ i % 2 == 1

/-- The two's-complement value of the low `w` bits of a number. -/
def signed (w v : Nat) : Int := if bit v (w - 1) then (v % 2 ^ w : Int) - 2 ^ w else (v % 2 ^ w : Int)

/-- 1 or 0. -/
def b2n (b : Bool) : Nat := if b then 1 else 0

/-- 1 or 0 as a register value. -/
def b2d (b : Bool) : Dword := if b then 1 else 0

/-! ### Units and tiles (R14 to R18) -/

/-- The package number of the compute unit of a tile on a die (R17). -/
def unitOf (die tile : Nat) : Nat := 192 * die + 12 * (tile / 24) + tile % 24 / 2

/-- Whether a tile number is that of a memory tile (R15). -/
def isMt (tile : Nat) : Bool := (tile / 24 + tile % 24) % 2 == 1

/-- The tile number of a compute unit's CT (R15, R17). -/
def ctTile (u : Nat) : Nat :=
  let y := u % 192 / 12
  24 * y + 2 * (u % 12) + y % 2

/-- The tile number of a compute unit's home MT (R16, R17). -/
def mtTile (u : Nat) : Nat :=
  let y := u % 192 / 12
  24 * y + 2 * (u % 12) + (y + 1) % 2

/-- The die of a compute unit (R17). -/
def dieOf (u : Nat) : Nat := u / 192

/-- The compute unit of a slot's placed coordinates. -/
def coordUnit (c : Coord) : Nat := unitOf c.die.toNat c.tile.toNat

/-- Coordinates as the 19-bit number of %slot and %place (R136, R156). -/
def coordNum (c : Coord) : Nat := (c.die ++ c.tile ++ c.pe ++ c.slot).toNat

/-- The coordinates of the slot numbered `n` of the PE that coordinates name. -/
def peSlot (c : Coord) (n : Nat) : Coord := { c with slot := BitVec.ofNat 2 n }

/-! ### Lookups in the state -/

/-- The memory tile of a compute unit. -/
def State.mt (s : State) (u : Nat) : Mt := tget {} s.mts u
/-- The state with the memory tile of a compute unit replaced. -/
def State.setMt (s : State) (u : Nat) (m : Mt) : State := { s with mts := tput {} s.mts u m }
/-- A partition. -/
def State.part (s : State) (p : Nat) : Part := tget {} s.parts p
/-- The state with a partition replaced. -/
def State.setPart (s : State) (p : Nat) (q : Part) : State := { s with parts := tput {} s.parts p q }
/-- A context. -/
def State.ctx (s : State) (c : Nat) : Ctx := tget {} s.ctxs c
/-- The state with a context replaced. -/
def State.setCtx (s : State) (c : Nat) (x : Ctx) : State := { s with ctxs := tput {} s.ctxs c x }
/-- A launch queue of a function. -/
def State.lq (s : State) (f q : Nat) : Lq := tget {} s.lqs (8 * f + q)
/-- The state with a launch queue replaced. -/
def State.setLq (s : State) (f q : Nat) (x : Lq) : State := { s with lqs := tput {} s.lqs (8 * f + q) x }
/-- An island by its package number. -/
def State.isl (s : State) (n : Nat) : Island := tget {} s.islands n
/-- The state with an island replaced. -/
def State.setIsl (s : State) (n : Nat) (x : Island) : State := { s with islands := tput {} s.islands n x }
/-- An edge unit by its number. -/
def State.edge (s : State) (e : Nat) : Edge := tget {} s.edges e
/-- The state with an edge unit replaced. -/
def State.setEdge (s : State) (e : Nat) (x : Edge) : State := { s with edges := tput {} s.edges e x }
/-- The number of an edge unit of a die: a syntax engine as R418 numbers it, an L2 slice after them all. -/
def edgeNum (die code : Nat) : Nat := if code < 768 then 832 + 8 * die + (code - 640) else 864 + 32 * die + (code - 768)
/-- The die of an edge unit. -/
def edgeDie (e : Nat) : Nat := if e < 864 then (e - 832) / 8 else (e - 864) / 32
/-- The TILE code of an edge unit. -/
def edgeCode (e : Nat) : Nat := if e < 864 then 640 + (e - 832) % 8 else 768 + (e - 864) % 32
/-- The ternary array of a compute unit. -/
def State.tern (s : State) (u : Nat) : Ternary := tget {} s.terns u
/-- The state with a ternary array replaced. -/
def State.setTern (s : State) (u : Nat) (x : Ternary) : State := { s with terns := tput {} s.terns u x }

/-- Whether a slot stands at placed coordinates and holds a task. -/
def Slot.at (x : Slot) (c : Coord) : Bool := x.st != .noTask && x.place == c

/-- The slot at placed coordinates, when it holds a task. -/
def State.slotAt (s : State) (c : Coord) : Option Slot :=
  if s.slot.at c then some s.slot else s.others.find? (fun x => x.at c)

/-- The state with one slot changed. -/
def State.updSlot (s : State) (c : Coord) (f : Slot → Slot) : State :=
  if s.slot.at c then { s with slot := f s.slot }
  else { s with others := s.others.map (fun x => if x.at c then f x else x) }

/-- Every slot that holds a task. -/
def State.slots (s : State) : List Slot := (s.slot :: s.others).filter (fun x => x.st != .noTask)

/-- The state with every slot changed. -/
def State.mapSlots (s : State) (f : Slot → Slot) : State :=
  { s with slot := f s.slot, others := s.others.map f }

/-- The state with the slot at placed coordinates in focus; nothing changes when no task stands there. -/
def State.focus (s : State) (c : Coord) : State :=
  if s.slot.at c then s
  else match s.others.find? (fun x => x.at c) with
    | none => s
    | some x => { s with slot := x, others := s.slot :: s.others.filter (fun y => !y.at c) }

/-- The processing element of placed coordinates; one that nothing was loaded into holds no word. -/
def State.pe (s : State) (c : Coord) : Pe :=
  (s.pes.find? (fun x => x.place == peSlot c 0)).getD ⟨peSlot c 0, [], 3⟩

/-- The state with a processing element replaced. -/
def State.setPe (s : State) (x : Pe) : State :=
  { s with pes := if s.pes.any (fun y => y.place == x.place) then s.pes.map (fun y => if y.place == x.place then x else y)
                  else s.pes ++ [x] }

/-- Whether a unit number of R418 belongs to a partition. -/
def Part.has (p : Part) (u : Nat) : Bool := if h : u / 64 < 14 then (p.map[u / 64]).getLsbD (u % 64) else false

/-- The compute units of a partition in ascending order. -/
def Part.cus (p : Part) : List Nat := (List.range 768).filter p.has

/-! ### Placement (R106, R418) -/

/-- The candidate k of image die i in a partition's placement table. -/
def Part.placeReg (p : Part) (i k : Nat) : Dword := if h : 4 * i + k < 16 then p.place[4 * i + k] else 0

/-- The physical die and tile to which a candidate register maps an image tile (R106), when it exists. -/
def mapTile (reg : Dword) (tile : Nat) : Option (Nat × Nat) :=
  let v := reg.toNat
  let y : Int := (tile / 24 : Nat) + signed 5 (bits v 20 16)
  let x : Int := (tile % 24 : Nat) + signed 6 (bits v 5 0)
  if 0 ≤ y ∧ y < 16 ∧ 0 ≤ x ∧ x < 24 then some (bits v 49 48, 24 * y.toNat + x.toNat) else none

/-- The physical die and island to which a candidate maps an image island (R106), when it stays in its edge group. -/
def mapIsland (reg : Dword) (n : Nat) : Option (Nat × Nat) :=
  let v := reg.toNat
  let k : Int := (n % 8 : Nat) + signed 5 (bits v 20 16) / 2
  if 0 ≤ k ∧ k < 8 then some (bits v 49 48, 8 * (n / 8) + k.toNat) else none

/-- The physical die and syntax engine to which a candidate maps an image engine (R106). -/
def mapEngine (reg : Dword) (n : Nat) : Option (Nat × Nat) :=
  let v := reg.toNat
  let dx := signed 6 (bits v 5 0)
  let k : Int := (n : Int) + dx / 3
  if dx % 6 = 0 ∧ 0 ≤ k ∧ k < 8 then some (bits v 49 48, k.toNat) else none

/-- The register of the candidate in force for an image die (R107). -/
def Part.candReg (p : Part) (die : Nat) : Option Dword :=
  if h : die < 4 then (p.cand[die]).map (fun k => p.placeReg die k) else none

/-- The placed die and tile of an image tile of the resident forme (R107). -/
def Part.placed (p : Part) (die tile : Nat) : Option (Nat × Nat) := (p.candReg die).bind (fun r => mapTile r tile)

/-- The image die and tile that the resident forme's placement maps to a placed die and tile. -/
def Part.imageOf (p : Part) (die tile : Nat) : Option (Nat × Nat) :=
  (List.range 4).findSome? (fun d =>
    (p.candReg d).bind (fun r =>
      ((List.range 384).find? (fun t => mapTile r t == some (die, tile))).map (fun t => (d, t))))

end Sys2Proof.Machine
end

