-- ==== Sys2Proof/Machine/Numbers.lean ====
section
/-! DEFINITION. Number formats and arithmetic (R121 to R146): float codes and their exact values, rounding, saturation,
conversions, the stochastic generator, exact sums and products, and the special functions as exact expansions. -/

namespace Sys2Proof.Machine

open Sys2Proof

/-! ### Integer types (R121, R126, R152) -/

/-- The width in bits of a type code (R121). -/
def tWidth (t : Nat) : Nat :=
  match t with
  | 1 => 64 | 2 => 32 | 3 => 16 | 4 => 16 | 5 => 8 | 6 => 8 | 7 => 4
  | 8 => 8 | 9 => 16 | 10 => 32 | 11 => 64 | 12 => 8 | 13 => 16 | 14 => 32 | _ => 64

/-- The types that are two's complement (R121). -/
def tSigned (t : Nat) : Bool := 8 ≤ t && t ≤ 11
/-- The float types (R121). -/
def tIsFlt (t : Nat) : Bool := 1 ≤ t && t ≤ 7

/-- The integer that a 64-bit value holds in type t (R152). -/
def valI (t : Nat) (x : Dword) : Int :=
  if tSigned t then signed (tWidth t) x.toNat else (x.toNat % 2 ^ tWidth t : Nat)

/-- The 64-bit value written for the low w bits of a type: sign-copied for the in types, else zero-extended (R152). -/
def putBits (t : Nat) (v : Nat) : Dword :=
  if tSigned t then BitVec.ofInt 64 (signed (tWidth t) v) else BitVec.ofNat 64 (v % 2 ^ tWidth t)

/-- The 64-bit value written for an integer of type t, wrapping (R152, R126). -/
def putI (t : Nat) (y : Int) : Dword := putBits t (y % 2 ^ tWidth t).toNat

/-- The least value of an integer type (R126). -/
def minI (t : Nat) : Int := if tSigned t then -(2 ^ (tWidth t - 1)) else 0
/-- The greatest value of an integer type (R126). -/
def maxI (t : Nat) : Int := if tSigned t then 2 ^ (tWidth t - 1) - 1 else 2 ^ tWidth t - 1

/-! ### Flags and the generator (R136, R137, R140) -/

/-- What an instruction's arithmetic reads and changes of its slot (R143): the generator state and the sticky flags
NV, OF, UF, NX in bits 3 to 0. -/
structure Ar where
  rng    : Dword
  sticky : BitVec 4
  deriving DecidableEq, Repr

/-- The flag bits of %fsticky (R140). -/
def fNX : BitVec 4 := 1
def fUF : BitVec 4 := 2
def fOF : BitVec 4 := 4
def fNV : BitVec 4 := 8

/-- `set_sticky` (R140). -/
def Ar.set (a : Ar) (f : BitVec 4) : Ar := { a with sticky := a.sticky ||| f }
/-- `set_sticky` under a condition. -/
def Ar.setIf (a : Ar) (c : Bool) (f : BitVec 4) : Ar := if c then a.set f else a

/-- One advance of the generator (R137). -/
def rngStep (g : Dword) : Dword :=
  let g := g ^^^ (g >>> 12)
  let g := g ^^^ (g <<< 25)
  g ^^^ (g >>> 27)

/-- The 16-bit word drawn from an advanced generator (R137). -/
def rngWord (g : Dword) : Nat := ((g * 0x2545F4914F6CDD1D) >>> 48).toNat

/-- `draw16()` (R137). -/
def Ar.draw (a : Ar) : Nat × Ar :=
  let g := rngStep a.rng
  (rngWord g, { a with rng := g })

/-! ### Float formats (R122, R123) -/

/-- The exact operand of R131: NaN, an infinity, or (−1)^neg · m · 2^e. -/
inductive FV where
  | nan
  | inf (neg : Bool)
  | fin (neg : Bool) (m : Nat) (e : Int)
  deriving DecidableEq, Repr

/-- The mantissa bits M of a float type (R122). -/
def fM (t : Nat) : Nat :=
  match t with
  | 1 => 52 | 2 => 23 | 3 => 10 | 4 => 7 | 5 => 3 | 6 => 2 | _ => 1
/-- The exponent bits of a float type (R122). -/
def fE (t : Nat) : Nat :=
  match t with
  | 1 => 11 | 2 => 8 | 3 => 5 | 4 => 8 | 5 => 4 | 6 => 5 | _ => 2
/-- The bias of a float type (R122). -/
def fBias (t : Nat) : Int :=
  match t with
  | 1 => 1023 | 2 => 127 | 3 => 15 | 4 => 127 | 5 => 8 | 6 => 16 | _ => 2
/-- The narrow formats (R122, R123). -/
def fNarrow (t : Nat) : Bool := 5 ≤ t && t ≤ 7

/-- The canonical NaN of a float type (R122). -/
def qnan (t : Nat) : Nat :=
  match t with
  | 1 => 0x7FF8000000000000 | 2 => 0x7FC00000 | 3 => 0x7E00 | 4 => 0x7FC0 | 5 => 0x80 | 6 => 0x80 | _ => 8

/-- The exponent field of the largest finite value (R122, R123). -/
def fEmax (t : Nat) : Nat := if fNarrow t then 2 ^ fE t - 1 else 2 ^ fE t - 2

/-- The largest finite value maxf as m · 2^e (R122). -/
def maxfM (t : Nat) : Nat := 2 ^ (fM t + 1) - 1
def maxfE (t : Nat) : Int := (fEmax t : Int) - fBias t - fM t

/-- The value of a float code (R123); a code that is a NaN reads as NaN. -/
def decF (t : Nat) (x : Nat) : FV :=
  let w := tWidth t
  let x := x % 2 ^ w
  let neg := bit x (w - 1)
  let e := bits x (w - 2) (fM t)
  let m := x % 2 ^ fM t
  if fNarrow t then
    if x = qnan t then .nan
    else if e = 0 then .fin neg m (1 - fBias t - fM t)
    else .fin neg (2 ^ fM t + m) ((e : Int) - fBias t - fM t)
  else if e = 2 ^ fE t - 1 then (if m = 0 then .inf neg else .nan)
  else if e = 0 then .fin neg m (1 - fBias t - fM t)
  else .fin neg (2 ^ fM t + m) ((e : Int) - fBias t - fM t)

/-- m · 2^e in units of 2^u, for a value that is a whole number of them. -/
def inUnits (m : Nat) (e u : Int) : Nat := if u ≤ e then m * 2 ^ (e - u).toNat else m / 2 ^ (u - e).toNat

/-- The code of a value that the format holds exactly (R122, R123). -/
def encF (t : Nat) (v : FV) : Nat :=
  let s (neg : Bool) := if neg then 2 ^ (tWidth t - 1) else 0
  match v with
  | .nan => qnan t
  | .inf neg => s neg + (2 ^ fE t - 1) * 2 ^ fM t
  | .fin neg m e =>
    if m = 0 then (if fNarrow t then 0 else s neg)
    else
      let l : Int := (Nat.log2 m : Int) + e
      if l < 1 - fBias t then s neg + inUnits m e (1 - fBias t - fM t)
      else s neg + (l + fBias t).toNat * 2 ^ fM t + (inUnits m e (l - fM t) - 2 ^ fM t)

/-- Whether m · 2^e < m' · 2^e'. -/
def magLt (m : Nat) (e : Int) (m' : Nat) (e' : Int) : Bool :=
  if e' ≤ e then m * 2 ^ (e - e').toNat < m' else m < m' * 2 ^ (e' - e).toNat

/-- The sign of a value. -/
def FV.neg? : FV → Bool
  | .nan => false
  | .inf n => n
  | .fin n _ _ => n

/-- Whether a value is zero. -/
def FV.isZero : FV → Bool
  | .fin _ m _ => m == 0
  | _ => false

/-- The negation of a value. -/
def FV.negate : FV → FV
  | .nan => .nan
  | .inf n => .inf (!n)
  | .fin n m e => .fin (!n) m e

/-- The magnitude of a value. -/
def FV.abs : FV → FV
  | .nan => .nan
  | .inf _ => .inf false
  | .fin _ m e => .fin false m e

/-- The exact value of an integer. -/
def FV.ofInt (i : Int) : FV := .fin (i < 0) i.natAbs 0

/-! ### Rounding (R130 to R134) -/

/-- What rounding leaves: the whole ulps, the discarded part r of 2^k. -/
structure Cut where
  lo : Nat
  r  : Nat
  k  : Nat

/-- m · 2^e in ulps of 2^u (R131). -/
def cut (m : Nat) (e u : Int) : Cut :=
  if u ≤ e then ⟨m * 2 ^ (e - u).toNat, 0, 0⟩
  else
    let k := (u - e).toNat
    ⟨m / 2 ^ k, m % 2 ^ k, k⟩

/-- The rounding decision of R131, with the draw `dw` of mode 6. -/
def roundUp (rm : Nat) (neg : Bool) (c : Cut) (dw : Nat) : Bool :=
  if c.r = 0 then false
  else match rm with
    | 1 => 2 ^ c.k < 2 * c.r || (2 * c.r == 2 ^ c.k && c.lo % 2 == 1)
    | 5 => 2 ^ c.k ≤ 2 * c.r
    | 2 => false
    | 3 => neg
    | 4 => !neg
    | _ => 2 ^ 16 ≤ c.r * 2 ^ 16 / 2 ^ c.k + dw

/-- The draw that mode 6 takes for a finite non-zero operand (R131). -/
def Ar.drawIf (a : Ar) (rm : Nat) : Nat × Ar := if rm = 6 then a.draw else (0, a)

/-- ±maxf of a float type. -/
def maxfV (t : Nat) (neg : Bool) : FV := .fin neg (maxfM t) (maxfE t)

/-- `ovf` (R132): OF and NX are set. -/
def ovfV (t rm : Nat) (neg : Bool) : FV :=
  if fNarrow t then maxfV t neg
  else match rm with
    | 2 => maxfV t neg
    | 3 => if neg then .inf true else maxfV t false
    | 4 => if neg then maxfV t true else .inf false
    | _ => .inf neg

/-- `sat` in a float type (R134). -/
def satF (t : Nat) (v : FV) (a : Ar) : FV × Ar :=
  match v with
  | .nan => (.nan, a)
  | .inf n => (maxfV t n, a.set fOF)
  | .fin n m e => if magLt (maxfM t) (maxfE t) m e then (maxfV t n, a.set fOF) else (.fin n m e, a)

/-- `rnd` into a float type (R131 to R133). -/
def rndF (t rm : Nat) (v : FV) (a : Ar) : FV × Ar :=
  match v with
  | .nan => (.nan, a)
  | .inf n => if fNarrow t then satF t (.inf n) a else (.inf n, a)
  | .fin n m e =>
    if m = 0 then (if fNarrow t then .fin false 0 0 else .fin n 0 0, a)
    else
      let l : Int := (Nat.log2 m : Int) + e
      let u : Int := max l (1 - fBias t) - fM t
      let (dw, a) := a.drawIf rm
      let c := cut m e u
      let q := c.lo + b2n (roundUp rm n c dw)
      let a := a.setIf (c.r != 0) fNX
      let a := a.setIf (c.r != 0 && magLt q u 1 (1 - fBias t)) fUF
      if magLt (maxfM t) (maxfE t) q u then (ovfV t rm n, (a.set fOF).set fNX)
      else if q = 0 && fNarrow t then (.fin false 0 0, a)
      else (.fin n q u, a)

/-- `sat` of an exact integer in an integer type (R134). -/
def satI (t : Nat) (y : Int) (a : Ar) : Int × Ar :=
  if y < minI t then (minI t, a.set fOF) else if maxI t < y then (maxI t, a.set fOF) else (y, a)

/-- `rnd` into an integer type (R131, R134). -/
def rndI (t rm : Nat) (v : FV) (a : Ar) : Int × Ar :=
  match v with
  | .nan => (0, a.set fNV)
  | .inf n => (if n then minI t else maxI t, a.set fOF)
  | .fin n m e =>
    let (dw, a) := if m = 0 then (0, a) else a.drawIf rm
    let c := cut m e 0
    let q := c.lo + b2n (roundUp rm n c dw)
    let a := a.setIf (c.r != 0) fNX
    satI t (if n then -(q : Int) else q) a

/-- `rnd` to nearest even where no flag is kept (R144, R145). -/
def rneF (t : Nat) (v : FV) : FV := (rndF t 1 v ⟨1, 0⟩).1

/-! ### Exact sums and products (R176, R177) -/

/-- The exact sum of two values that are not NaN; none when it is ∞ − ∞ (R176). Mode `rm` signs an exact zero. -/
def addV (rm : Nat) (x y : FV) : Option FV :=
  match x, y with
  | .nan, _ => some .nan
  | _, .nan => some .nan
  | .inf a, .inf b => if a = b then some (.inf a) else none
  | .inf a, _ => some (.inf a)
  | _, .inf b => some (.inf b)
  | .fin a m e, .fin b m' e' =>
    if m = 0 && m' = 0 && a = b then some (.fin a 0 0)
    else
      let u := min e e'
      let sx : Int := (m * 2 ^ (e - u).toNat : Nat)
      let sy : Int := (m' * 2 ^ (e' - u).toNat : Nat)
      let z := (if a then -sx else sx) + (if b then -sy else sy)
      if z = 0 then some (.fin (rm == 3) 0 0) else some (.fin (z < 0) z.natAbs u)

/-- The exact product of two values that are not NaN; none when it is 0 · ∞ (R176). -/
def mulV (x y : FV) : Option FV :=
  match x, y with
  | .nan, _ => some .nan
  | _, .nan => some .nan
  | .inf a, .inf b => some (.inf (a != b))
  | .inf a, .fin b m _ => if m = 0 then none else some (.inf (a != b))
  | .fin a m _, .inf b => if m = 0 then none else some (.inf (a != b))
  | .fin a m e, .fin b m' e' => some (.fin (a != b) (m * m') (e + e'))

/-- Whether x < y, for values that are not NaN; −0 equals +0. -/
def ltV (x y : FV) : Bool :=
  match x, y with
  | .nan, _ => false
  | _, .nan => false
  | .inf a, .inf b => a && !b
  | .inf a, _ => a
  | _, .inf b => !b
  | .fin a m e, .fin b m' e' =>
    if m = 0 && m' = 0 then false
    else match a && m != 0, b && m' != 0 with
      | false, false => magLt m e m' e'
      | true, false => true
      | false, true => false
      | true, true => magLt m' e' m e

/-- The lesser of two values as FMIN takes it: −0 below +0, the other operand beside a NaN (R177). -/
def minV (x y : FV) : FV :=
  match x, y with
  | .nan, y => y
  | x, .nan => x
  | x, y => if ltV x y then x else if ltV y x then y else if x.neg? then x else y

/-- The greater of two values as FMAX takes it (R177). -/
def maxV (x y : FV) : FV :=
  match x, y with
  | .nan, y => y
  | x, .nan => x
  | x, y => if ltV x y then y else if ltV y x then x else if x.neg? then y else x

/-- One addition of an accumulation in a float type, to nearest even, without flags (R144, R345): NaN, 0 · ∞ and ∞ − ∞ give NaN. -/
def accV (t : Nat) (c : FV) (p : Option FV) : FV :=
  match p with
  | none => .nan
  | some .nan => .nan
  | some v => match addV 1 c v with
    | none => .nan
    | some z => rneF t z

/-- A block scale applied to a value (R127): 0xFF gives NaN. -/
def scaleV (s : Nat) (v : FV) : FV :=
  if s = 255 then .nan
  else match v with
    | .fin n m e => .fin n m (e + s - 127)
    | w => w

/-! ### Square roots and fixed-point intervals -/

/-- The digit recursion of the integer square root. -/
def isqrtAux (x : Nat) : Nat → Nat → Nat
  | 0, r => r
  | b + 1, r => if (r + 2 ^ b) * (r + 2 ^ b) ≤ x then isqrtAux x b (r + 2 ^ b) else isqrtAux x b r

/-- The integer square root: the largest r with r² ≤ x. -/
def isqrt (x : Nat) : Nat := isqrtAux x (Nat.log2 x / 2 + 1) 0

/-- An exact expansion cut to `n` units of 2^u: itself when nothing is left over, else the midpoint that stands between
the same two multiples (R133, R180). -/
def standIn (neg : Bool) (n : Nat) (u : Int) (exact : Bool) : FV :=
  if exact then .fin neg n u else .fin neg (2 * n + 1) (u - 1)

/-- An interval of numbers in units of 2^-p. -/
structure Iv where
  lo : Nat
  hi : Nat

/-- The product of two intervals. -/
def Iv.mul (p : Nat) (x y : Iv) : Iv := ⟨x.lo * y.lo / 2 ^ p, x.hi * y.hi / 2 ^ p + 1⟩
/-- An interval divided by a number. -/
def Iv.div (x : Iv) (n : Nat) : Iv := ⟨x.lo / n, x.hi / n + 1⟩
/-- The quotient of two intervals. -/
def Iv.quot (p : Nat) (x y : Iv) : Iv := ⟨x.lo * 2 ^ p / y.hi, x.hi * 2 ^ p / y.lo + 1⟩
/-- One minus an interval. -/
def Iv.compl (p : Nat) (x : Iv) : Iv := ⟨2 ^ p - x.hi, 2 ^ p - x.lo⟩
/-- One plus an interval. -/
def Iv.succ (p : Nat) (x : Iv) : Iv := ⟨2 ^ p + x.lo, 2 ^ p + x.hi⟩

/-- The sum Σ (±1)^k / ((2k+1) q^(2k+1)) in units of 2^-p, to `n` terms: atanh(1/q), or atan(1/q) when it alternates. -/
def invSeries (p q : Nat) (alt : Bool) : Nat → Nat → Nat → Int → Int
  | 0, _, _, acc => acc
  | n + 1, k, pw, acc =>
    let term : Int := (pw / (2 * k + 1) : Nat)
    invSeries p q alt n (k + 1) (pw / (q * q)) (acc + if alt && k % 2 == 1 then -term else term)

/-- An interval that holds a constant computed with 32 guard bits and an error below 2^20 of their units. -/
def guarded (x : Int) : Iv := ⟨((x - 2 ^ 20) / 2 ^ 32).toNat, ((x + 2 ^ 20) / 2 ^ 32 + 1).toNat⟩

/-- π in units of 2^-p (Machin's formula). -/
def piIv (p : Nat) : Iv :=
  let g := p + 32
  guarded (16 * invSeries g 5 true (g / 4 + 2) 0 (2 ^ g / 5) 0 - 4 * invSeries g 239 true (g / 15 + 2) 0 (2 ^ g / 239) 0)

/-- The natural logarithm of 2 in units of 2^-p. -/
def ln2Iv (p : Nat) : Iv :=
  let g := p + 32
  guarded (2 * invSeries g 3 false (g / 3 + 2) 0 (2 ^ g / 3) 0)

/-- exp x by its series, for x below 0.7, with `n` terms left. -/
def expIv (p : Nat) (x : Iv) : Nat → Nat → Iv
  | 0, _ => ⟨2 ^ p, 2 ^ (p + 1)⟩
  | n + 1, k => Iv.succ p ((x.mul p (expIv p x n (k + 1))).div k)

/-- sin x / x (c = 1) or cos x (c = 0) from y = x², by its alternating series, for x below 0.8. -/
def trigIv (p c : Nat) (y : Iv) : Nat → Nat → Iv
  | 0, _ => ⟨2 ^ p / 2, 2 ^ p⟩
  | n + 1, k => Iv.compl p ((y.mul p (trigIv p c y n (k + 1))).div ((2 * k + c) * (2 * k + c - 1)))

/-- atanh z / z from y = z², for z at most 1/3. -/
def atanhIv (p : Nat) (y : Iv) : Nat → Nat → Iv
  | 0, k => ⟨2 ^ p / (2 * k + 1), 2 ^ (p + 1) / (2 * k + 1) + 2⟩
  | n + 1, k =>
    let r := y.mul p (atanhIv p y n (k + 1))
    ⟨2 ^ p / (2 * k + 1) + r.lo, 2 ^ p / (2 * k + 1) + 1 + r.hi⟩

/-- An interval squared `n` times. -/
def Iv.squares (p : Nat) (x : Iv) : Nat → Iv
  | 0 => x
  | n + 1 => Iv.squares p (x.mul p x) n

/-- The floor of a real in units of 2^-s, from ever finer intervals that hold it (log entry 14). -/
def zivFloor (s : Nat) (f : Nat → Iv) : List Nat → Nat
  | [] => 0
  | g :: gs =>
    let v := f (s + g)
    let lo := v.lo / 2 ^ g
    if lo = v.hi / 2 ^ g then lo else if gs.isEmpty then lo else zivFloor s f gs

/-- The guard bits tried in turn. -/
def guards : List Nat := [40, 160, 640, 2560]

/-- The value m · 2^e, below 2^p units of 2^-p apart, as an interval. -/
def pointIv (p : Nat) (m : Nat) (e : Int) : Iv :=
  let x := cut m e (-(p : Int))
  ⟨x.lo, x.lo + b2n (x.r != 0)⟩

/-! ### Special functions (R180, R181): the exact expansion of f(a) for a finite operand that needs one -/

/-- 1/(m · 2^e), m ≠ 0. -/
def rcpV (t : Nat) (neg : Bool) (m : Nat) (e : Int) : FV :=
  let k := Nat.log2 m + fM t + 22
  standIn neg (2 ^ k / m) (-e - k) (2 ^ k % m == 0)

/-- √(m · 2^e), m ≠ 0. -/
def sqrtV (t : Nat) (m : Nat) (e : Int) : FV :=
  let k := 2 * (fM t + 22) + (e % 2).toNat
  let x := m * 2 ^ k
  let r := isqrt x
  standIn false r ((e - k) / 2) (r * r == x)

/-- 1/√(m · 2^e), m ≠ 0. -/
def rsqV (t : Nat) (m : Nat) (e : Int) : FV :=
  let k0 := 2 * (fM t + 22) + Nat.log2 m + 1
  let k := k0 + ((e + k0) % 2).toNat
  let r := isqrt (2 ^ k / m)
  standIn false r (-((e + k) / 2)) (m * r * r == 2 ^ k)

/-- 2^(±m · 2^e) (R181: exact for an integer). -/
def ex2V (t : Nat) (neg : Bool) (m : Nat) (e : Int) : FV :=
  let s := fM t + 22
  if (Nat.log2 m : Int) + e < -(s + 2 : Int) && m != 0 then
    standIn false (if neg then 2 ^ s - 1 else 2 ^ s) (-(s : Int)) false
  else if 12 < (Nat.log2 m : Int) + e then (if neg then .fin false 1 (-8192) else .fin false 1 8192)
  else
    let z := (cut m e (-1200)).lo
    let i : Int := if neg then -((z + 2 ^ 1200 - 1) / 2 ^ 1200 : Nat) else (z / 2 ^ 1200 : Nat)
    let f := if neg then (i.natAbs * 2 ^ 1200 - z) else z % 2 ^ 1200
    if f = 0 then .fin false 1 i
    else
      let n := zivFloor s (fun p => expIv p ((pointIv p f (-1200)).mul p (ln2Iv p)) (p / 3 + 4) 1) guards
      standIn false n (i - s) false

/-- log2(m · 2^e), m ≠ 0 (R181: exact for a power of two). -/
def lg2V (t : Nat) (m : Nat) (e : Int) : FV :=
  let l := Nat.log2 m
  let i : Int := (l : Int) + e
  if m = 2 ^ l then FV.ofInt i
  else
    let s := fM t + 80
    let frac (p : Nat) : Iv :=
      let z := Iv.quot p (pointIv p (m - 2 ^ l) 0) (pointIv p (m + 2 ^ l) 0)
      let r := (z.mul p (atanhIv p (z.mul p z) (p / 3 + 2) 0))
      (Iv.quot p ⟨2 * r.lo, 2 * r.hi⟩ (ln2Iv p))
    if 0 ≤ i then
      let n := zivFloor s (fun p => let x := frac p; ⟨i.toNat * 2 ^ p + x.lo, i.toNat * 2 ^ p + x.hi⟩) guards
      standIn false n (-(s : Int)) false
    else
      let n := zivFloor s (fun p => let x := frac p; ⟨i.natAbs * 2 ^ p - x.hi, i.natAbs * 2 ^ p - x.lo⟩) guards
      standIn true n (-(s : Int)) false

/-- sin(π · x) or cos(π · x) for 0 < x ≤ 1/4, x = m · 2^e, to a relative precision that suffices for rounding. -/
def quarterV (t : Nat) (cosine neg : Bool) (m : Nat) (e : Int) : FV :=
  if cosine then
    let s := fM t + 22
    if (Nat.log2 m : Int) + e < -(s + 4 : Int) then standIn neg (2 ^ s - 1) (-(s : Int)) false
    else
      let n := zivFloor s (fun p =>
        let x := (pointIv p m e).mul p (piIv p)
        trigIv p 0 (x.mul p x) (p / 6 + 4) 1) guards
      standIn neg n (-(s : Int)) false
  else
    let s := ((fM t + 22 : Nat) - ((Nat.log2 m : Int) + e)).toNat
    let n := zivFloor s (fun p =>
      let x := (pointIv p m e).mul p (piIv p)
      x.mul p (trigIv p 1 (x.mul p x) (p / 6 + 4) 1)) guards
    standIn neg n (-(s : Int)) false

/-- sin(π · m · 2^e) of a positive operand: the operand modulo 2, reduced to an eighth turn (R181). -/
def sinPiV (t : Nat) (neg : Bool) (m : Nat) (e : Int) : FV :=
  if 0 ≤ e then .fin false 0 0
  else
    let k := e.natAbs
    let r := m % 2 ^ (k + 1)
    let neg := neg != decide (2 ^ k ≤ r)
    let r := r % 2 ^ k
    if r = 0 then .fin false 0 0
    else
      let r := if 2 ^ k < 2 * r then 2 ^ k - r else r
      if 2 * r = 2 ^ k then .fin neg 1 0
      else if 4 * r ≤ 2 ^ k then quarterV t false neg r e
      else quarterV t true neg (2 ^ k - 2 * r) (e - 1)

/-- cos(π · m · 2^e) (R181). -/
def cosPiV (t : Nat) (m : Nat) (e : Int) : FV :=
  if 0 < e then .fin false 1 0
  else
    let k := e.natAbs
    let r := m % 2 ^ (k + 1)
    let r := if 2 ^ k < r then 2 ^ (k + 1) - r else r
    let neg := decide (2 ^ k < 2 * r)
    let r := if neg then 2 ^ k - r else r
    if r = 0 then .fin neg 1 0
    else if 2 * r = 2 ^ k then .fin false 0 0
    else if 4 * r ≤ 2 ^ k then quarterV t true neg r e
    else quarterV t false neg (2 ^ k - 2 * r) (e - 1)

/-- tanh(±m · 2^e), m ≠ 0. -/
def tanhV (t : Nat) (neg : Bool) (m : Nat) (e : Int) : FV :=
  let b := fM t + 22
  let l : Int := (Nat.log2 m : Int) + e
  if 2 * l < -(b + 2 : Int) then
    let n := inUnits m e (l - b)
    standIn neg (n - 1) (l - b) false
  else if 7 ≤ l then standIn neg (2 ^ b - 1) (-(b : Int)) false
  else
    let s := b + (if l < 0 then l.natAbs else 0)
    let n := zivFloor s (fun p =>
      let p' := p + 240
      let x := pointIv p' (2 * m) (e - 9)
      let ex := (expIv p' x (p' / 3 + 4) 1).squares p' 9
      let q := Iv.quot p' ⟨ex.lo - 2 ^ p', ex.hi - 2 ^ p'⟩ (Iv.succ p' ex)
      ⟨q.lo / 2 ^ 240, q.hi / 2 ^ 240 + 1⟩) guards
    standIn neg n (-(s : Int)) false

end Sys2Proof.Machine
end

