-- ==== Sys2Proof/Machine/Memory.lean ====
section
/-! DEFINITION. Memory below the instructions: home slices and L2, L1 lines, presence, full/empty tags and their waiters,
scratchpad addresses, translation and the radix walk, and the accesses of engines (R198 to R211, R222, R258 to R262). -/

namespace Sys2Proof.Machine

open Sys2Proof

/-- A fault that an access or an instruction meets (R264): code, ADDR, INFO, SUB. -/
structure Flt where
  code : Nat
  addr : Dword := 0
  info : Dword := 0
  sub  : Nat := 0
  deriving DecidableEq, Repr

/-- Why an instruction does not retire: its slot is not ready (R40), or it meets a fault (R151). -/
inductive Stop where
  | wait
  | flt (f : Flt)
  deriving DecidableEq, Repr

/-- A result, or the reason there is none with the state it leaves. -/
abbrev Res (α : Type) := Except (Stop × State) α

/-- A fault of an engine's access, or the absence of a granule that a read waits for (R146). -/
inductive EErr where
  | absent
  | flt (f : Flt)
  deriving DecidableEq, Repr

/-- The canonical form of memory's sparse tables: keys strictly rising, and no entry equal to what an unlisted key reads as. -/
def Mem.wf (m : Mem) : Bool :=
  twf 0 m.hbm && twf 0 m.sram && twf false m.present && twf false m.full && twf false m.badLine && twf false m.badWord

/-! ### Lines and the home of MU memory (R206, R209) -/

/-- The 128 bytes of an HBM line as one number. -/
def hbmLine (m : Mem) (line : Nat) : BitVec 1024 := BitVec.ofNat 1024 (bytesToNat (readBytes m.hbm (128 * line) 128))

/-- Byte `i` of a line. -/
def lineByte (d : BitVec 1024) (i : Nat) : Byte := d.extractLsb' (8 * i) 8

/-- A line with byte `i` replaced. -/
def setLineByte (d : BitVec 1024) (i : Nat) (b : Byte) : BitVec 1024 :=
  (d &&& ~~~(BitVec.ofNat 1024 255 <<< (8 * i))) ||| (b.setWidth 1024 <<< (8 * i))

/-- `n` bytes of a line from byte `i` on, as a number. -/
def lineGet (d : BitVec 1024) (i n : Nat) : Nat := (d.toNat / 2 ^ (8 * i)) % 2 ^ (8 * n)

/-- A line with a byte string laid over it. -/
def linePut (d : BitVec 1024) (i : Nat) : List Byte → BitVec 1024
  | [] => d
  | b :: bs => linePut (setLineByte d i b) (i + 1) bs

/-- The dirty mask of `n` bytes from byte `i` on. -/
def maskOf (i n : Nat) : BitVec 128 := BitVec.ofNat 128 ((2 ^ n - 1) * 2 ^ i)

/-- The bytes of a mask of a line written into a byte table. -/
def putMasked (t : Tbl Byte) (base : Nat) (d : BitVec 1024) (mask : BitVec 128) : Tbl Byte :=
  (List.range 128).foldl (fun t i => if mask.getLsbD i then tput 0 t (base + i) (lineByte d i) else t) t

/-- The L2 copy of a line. -/
def Mem.l2At (m : Mem) (line : Nat) : Option Line := m.l2.find? (fun l => l.line == line)

/-- Something for the caches to report at the end of the step (R209, R277, R405). -/
def Mem.note (m : Mem) (x : MemNote) : Mem := { m with notes := m.notes ++ [x] }

/-- A line marked poisoned at its home (R277), or no longer. -/
def Mem.setBad (m : Mem) (line : Nat) (bad : Bool) : Mem := { m with badLine := tput false m.badLine line bad }

/-- An L2 line written to HBM and dropped: the dirty bytes, as one line of class 7 (R405). -/
def Mem.l2Flush (m : Mem) (line : Nat) : Mem :=
  match m.l2At line with
  | none => m
  | some l =>
    let m := { m with hbm := putMasked m.hbm (128 * line) l.data l.dirty, l2 := m.l2.filter (fun x => x.line != line) }
    if l.dirty = 0 then m else m.note (.energy l.ctx 7 1)

/-- An L2 line evicted (R209, R277): a dirty one that holds an uncorrectable error (`bad` where it is found now) goes to HBM
poisoned, and a record is charged to the context of its tag. -/
def Mem.l2Evict (m : Mem) (line : Nat) (bad : Bool) (req : Nat) : Mem :=
  match m.l2At line with
  | none => m
  | some l =>
    let m := m.l2Flush line
    if l.dirty ≠ 0 && (bad || tget false m.badLine line) then (m.setBad line true).note (.poisoned line l.ctx req) else m

/-- A lookup of a line under a context: a copy under another identifier is written back first (R209). -/
def Mem.l2Sync (m : Mem) (ctx line : Nat) : Mem :=
  match m.l2At line with
  | some l => if l.ctx = ctx then m else m.l2Evict line false ctx
  | none => m

/-- The ways that a line may take (R22): the stack PA[38:36], and the slice and set PA[21:7]. -/
def l2Set (line : Nat) : Nat × Nat := (line / 2 ^ 29, line % 2 ^ 15)

/-- A way made free in the set of a line (R22: 16 ways): the oldest line leaves a full set (log entry 22). -/
def Mem.l2Room (m : Mem) (line req : Nat) : Mem :=
  match m.l2.filter (fun l => l2Set l.line == l2Set line) with
  | [] => m
  | l :: ls => if ls.length + 1 < 16 then m else m.l2Evict l.line false req

/-- A line looked up under a context and brought into its L2 slice when it is not there (R23, R209, R405). -/
def Mem.l2Fill (m : Mem) (ctx line : Nat) : Mem :=
  let m := m.l2Sync ctx line
  if (m.l2At line).isSome then m
  else
    let m := m.l2Room line ctx
    Mem.note { m with l2 := m.l2 ++ [⟨0, ctx, line, hbmLine m line, 0, 0⟩] } (.energy ctx 7 1)

/-- A read at the home slice under a context: the line is looked up, brought in when it is not there, and charged as one access of
the L2 slice (R206, R209, R405). -/
def Mem.homeLook (m : Mem) (ctx line : Nat) : Mem := (m.l2Fill ctx line).note (.energy ctx 6 1)

/-- A byte as its home holds it (R206). -/
def Mem.homeByte (m : Mem) (pa : Nat) : Byte :=
  match m.l2At (pa / 128) with
  | some l => lineByte l.data (pa % 128)
  | none => tget 0 m.hbm pa

/-- `n` bytes as their home holds them. -/
def Mem.homeBytes (m : Mem) (pa : Nat) : Nat → List Byte
  | 0 => []
  | n + 1 => m.homeByte pa :: m.homeBytes (pa + 1) n

/-- A whole line as its home holds it. -/
def Mem.homeLine (m : Mem) (line : Nat) : BitVec 1024 :=
  match m.l2At line with
  | some l => l.data
  | none => hbmLine m line

/-- Whether a line is poisoned at its home (R277). -/
def Mem.homeBad (m : Mem) (pa : Nat) : Bool := tget false m.badLine (pa / 128)

/-- A write at the home slice under a context, within one line (R206): the line is allocated and its bytes made dirty; a
line rewritten whole carries fresh check bits. -/
def Mem.homePut (m : Mem) (ctx pa : Nat) (bs : List Byte) : Mem :=
  let line := pa / 128
  let m := m.l2Fill ctx line
  let upd (l : Line) : Line :=
    { l with data := linePut l.data (pa % 128) bs, dirty := l.dirty ||| maskOf (pa % 128) bs.length }
  { m with l2 := m.l2.map (fun l => if l.line == line then upd l else l),
           badLine := if bs.length = 128 then tput false m.badLine line false else m.badLine }

/-- Bytes written straight to memory, in HBM and in any L2 copy: the single writes of WO memory and the device's own
physical writes (R203, R267). A physical address from 2^39 on, which only a base that software wrote can give, is stored as
if HBM went on (log entry 22). -/
def Mem.physPut (m : Mem) (pa : Nat) (bs : List Byte) : Mem :=
  { m with hbm := writeBytes m.hbm pa bs,
           l2 := m.l2.map (fun l => (List.range bs.length).foldl (fun l i =>
             if (pa + i) / 128 = l.line then { l with data := setLineByte l.data ((pa + i) % 128) (bs.getD i 0) } else l) l) }

/-! ### L1 lines (R206) -/

/-- The L1 copy that a unit holds of a line. -/
def Mem.l1At (m : Mem) (u line : Nat) : Option Line := m.l1.find? (fun l => l.unit == u && l.line == line)

/-- The bytes of a mask of a line written at its home, byte by byte. -/
def homeMasked (m : Mem) (ctx line : Nat) (d : BitVec 1024) (mask : BitVec 128) : Mem :=
  if mask = 0 then m
  else
    let m := m.l2Fill ctx line
    let merge (old : BitVec 1024) : BitVec 1024 :=
      (List.range 128).foldl (fun x i => if mask.getLsbD i then setLineByte x i (lineByte d i) else x) old
    { m with l2 := m.l2.map (fun l => if l.line == line then { l with data := merge l.data, dirty := l.dirty ||| mask } else l),
             badLine := if mask = BitVec.allOnes 128 then tput false m.badLine line false else m.badLine }

/-- The dirty bytes of an L1 line written at its home, for a requester (R206, R405); a dirty line that holds an uncorrectable
error goes to HBM poisoned, and a record is charged to the context of its tag (R277). -/
def Mem.l1WriteBack (m : Mem) (l : Line) (req : Nat) : Mem :=
  if l.dirty = 0 then m
  else
    let m := (homeMasked m l.ctx l.line l.data l.dirty).note (.energy l.ctx 6 1)
    if l.bad = 0 then m else ((m.l2Flush l.line).setBad l.line true).note (.poisoned l.line l.ctx req)

/-- The dirty bytes of a unit's copy of a line written back; the copy is kept clean (R237). -/
def Mem.l1Clean (m : Mem) (u line req : Nat) : Mem :=
  match m.l1At u line with
  | none => m
  | some l =>
    let m := m.l1WriteBack l req
    { m with l1 := m.l1.map (fun x => if x.unit == u && x.line == line then { x with dirty := 0 } else x) }

/-- A unit's copy of a line written back and dropped (R237, R240). -/
def Mem.l1Drop (m : Mem) (u line req : Nat) : Mem :=
  let m := m.l1Clean u line req
  { m with l1 := m.l1.filter (fun x => !(x.unit == u && x.line == line)) }

/-- The lines of a unit written back and dropped, those a test selects (R57, R211). -/
def Mem.l1DropAll (m : Mem) (u : Nat) (sel : Line → Bool) (req : Nat) : Mem :=
  (m.l1.filter (fun l => l.unit == u && sel l)).foldl (fun m l => m.l1Drop u l.line req) m

/-- The lines of several units written back and dropped, those a test selects. -/
def Mem.l1DropUnits (m : Mem) (us : List Nat) (sel : Line → Bool) (req : Nat) : Mem := us.foldl (fun m u => m.l1DropAll u sel req) m

/-- The lines of a unit beyond what its L1 holds written back and dropped, the oldest first (R20, R199: `cap` lines; log
entry 22). -/
def Mem.l1Trim (m : Mem) (u cap req : Nat) : Mem :=
  let ls := m.l1.filter (fun l => l.unit == u)
  (ls.take (ls.length - cap)).foldl (fun m l => m.l1Drop u l.line req) m

/-- A line fetched from its home into a unit's L1 under a context (R206, R405); a poisoned one carries its error in every
word. -/
def Mem.l1Fetch (m : Mem) (u ctx line : Nat) : Mem :=
  let m := m.l2Fill ctx line
  let bad : BitVec 32 := if tget false m.badLine line then BitVec.allOnes 32 else 0
  Mem.note { m with l1 := m.l1 ++ [⟨u, ctx, line, m.homeLine line, 0, bad⟩] } (.energy ctx 6 1)

/-- A unit's copy of a line under a context: filled from the home when it holds none, and refilled when it holds one of
another context (R206, R209). -/
def Mem.l1Fill (m : Mem) (u ctx line : Nat) : Mem :=
  match m.l1At u line with
  | some l => if l.ctx = ctx then m else (m.l1Drop u line ctx).l1Fetch u ctx line
  | none => m.l1Fetch u ctx line

/-- The words of a line that `n` bytes from byte `i` on touch. -/
def wordsHit (i n : Nat) : BitVec 32 := BitVec.ofNat 32 ((2 ^ ((i % 4 + n + 3) / 4) - 1) * 2 ^ (i / 4))

/-- The words of a line that `n` bytes from byte `i` on cover whole. -/
def wordsWhole (i n : Nat) : BitVec 32 :=
  BitVec.ofNat 32 (((List.range 32).filter (fun k => i ≤ 4 * k && 4 * k + 4 ≤ i + n)).foldl (fun a k => a + 2 ^ k) 0)

/-- A read through a unit's L1, within one line: the value, and whether a word read holds an uncorrectable error. -/
def Mem.l1Read (m : Mem) (u ctx pa n : Nat) : Mem × Nat × Bool :=
  let m := m.l1Fill u ctx (pa / 128)
  match m.l1At u (pa / 128) with
  | some l => (m, lineGet l.data (pa % 128) n, l.bad &&& wordsHit (pa % 128) n != 0)
  | none => (m, 0, false)

/-- A write through a unit's L1, within one line: the bytes become dirty (R206), and a word covered whole carries fresh check
bits (R229, R277). -/
def Mem.l1Write (m : Mem) (u ctx pa : Nat) (bs : List Byte) : Mem :=
  let line := pa / 128
  let m := m.l1Fill u ctx line
  { m with l1 := m.l1.map (fun l => if l.unit == u && l.line == line then
      { l with data := linePut l.data (pa % 128) bs, dirty := l.dirty ||| maskOf (pa % 128) bs.length,
               bad := l.bad &&& ~~~wordsWhole (pa % 128) bs.length } else l) }

/-! ### Scratchpad (R200, R222) -/

/-- The byte address in the scratchpad array of a unit's offset. -/
def spAddr (u off : Nat) : Nat := u * 2 ^ 21 + off

/-- The `n` bytes of a unit's scratchpad from an offset, as a number. -/
def Mem.spGet (m : Mem) (u off n : Nat) : Nat := bytesToNat (readBytes m.sram (spAddr u off) n)

/-- Whether any 32-bit word that the bytes touch is poisoned (R277). -/
def Mem.spBad (m : Mem) (u off n : Nat) : Bool :=
  (List.range ((off % 4 + n + 3) / 4)).any (fun i => tget false m.badWord ((spAddr u off) / 4 + i))

/-- Bytes written to a unit's scratchpad; words covered whole carry fresh check bits (R229). -/
def Mem.spPut (m : Mem) (u off : Nat) (bs : List Byte) : Mem :=
  let a := spAddr u off
  let whole := (List.range ((bs.length + 3) / 4 + 1)).filter (fun i =>
    a ≤ 4 * (a / 4 + i) && 4 * (a / 4 + i) + 4 ≤ a + bs.length)
  { m with sram := writeBytes m.sram a bs,
           badWord := whole.foldl (fun t i => tput false t (a / 4 + i) false) m.badWord }

/-- The words (global index) that `n` bytes at an offset cover. -/
def spWords (u off n : Nat) : List Nat := (List.range ((n + 3) / 4)).map (fun i => spAddr u off / 4 + i)

/-- The compute unit and offset that a scratchpad address names for a task of unit `home` in partition `p`, which must be
an MT of the forme's placement (R200, R222): any MT of the partition that a placement offset reaches, whether or not the image
names it (log entry 28). -/
def spResolve (s : State) (p : Nat) (home : Nat) (a : Nat) : Option (Nat × Nat) :=
  if a / 2 ^ 33 ≠ 0 then none
  else if bit a 32 then some (home, a % 2 ^ 21)
  else
    let tile := bits a 29 21
    if !(isMt tile && tile < 384) then none
    else match (s.part p).placed (bits a 31 30) tile with
      | none => none
      | some (d, t) => if (s.part p).has (unitOf d t) then some (unitOf d t, a % 2 ^ 21) else none

/-- The scratchpad size of a unit in bytes (R199). -/
def spSize (s : State) (u : Nat) : Nat := (s.mt u).split * 2 ^ 17

/-- A scratchpad range of `n` bytes: its unit and offset, or a scratchpad-range fault (R200, R222, R226). -/
def spRange (s : State) (p home : Nat) (a : Dword) (n : Nat) : Except Flt (Nat × Nat) :=
  match spResolve s p home a.toNat with
  | none => .error { code := 0x21, addr := a }
  | some (u, off) => if off + n ≤ spSize s u && n ≤ 2 ^ 21 then .ok (u, off) else .error { code := 0x21, addr := a }

/-! ### Translation (R258 to R262) -/

/-- A translated access: physical address, page kind, permissions, the leaf PTE (0 for a heap translation). -/
structure Tr where
  pa   : Nat
  kind : PageKind
  r    : Bool
  w    : Bool
  pte  : Dword
  deriving DecidableEq, Repr

/-- The page size of a leaf at a level, as a power of two (R260). -/
def pageBits (level : Nat) : Nat := 16 + 9 * level

/-- The checks of R261 on a PTE with V = 1 at a level: whether it raises a page-table fault. -/
def pteBad (level : Nat) (pte : Nat) : Bool :=
  let leaf := bit pte 6
  let kind := bits pte 3 2
  let addr := bits pte 51 12 * 2 ^ 12
  bits pte 59 52 != 0 || bits pte 11 8 != 0 || bit pte 1 || kind == 3 ||
  (level == 0 && !leaf) || (level == 3 && leaf) ||
  (!leaf && (bit pte 7 || bit pte 5 || bit pte 4 || kind != 0)) ||
  (leaf && kind != 2 && (addr % 2 ^ pageBits level != 0 || 2 ^ 39 < addr + 2 ^ pageBits level)) ||
  (!leaf && 2 ^ 39 ≤ addr)

/-- The page kind of a leaf PTE (R260). -/
def pteKind (pte : Nat) : PageKind :=
  match bits pte 3 2 with
  | 0 => .mu
  | 1 => .wo
  | _ => .far

/-- The radix walk from the table at `table` down from level `n − 1` (R260, R261): a TLB entry, with A set in its leaf, or
the fault at which the walk stops. -/
def walk (m : Mem) (ctx va : Nat) : Nat → Nat → Except Flt (Mem × Tlbe)
  | 0, _ => .error { code := 0x29, addr := BitVec.ofNat 64 va }
  | level + 1, table =>
    let a := table + 8 * (va / 2 ^ pageBits level % 512)
    let m := m.homeLook ctx (a / 128)
    let pte := bytesToNat (m.homeBytes a 8)
    if m.homeBad a then .error { code := 0x25, addr := BitVec.ofNat 64 va }
    else if !bit pte 0 then .error { code := 0x01, addr := BitVec.ofNat 64 va, info := BitVec.ofNat 64 level }
    else if pteBad level pte then .error { code := 0x29, addr := BitVec.ofNat 64 va, info := BitVec.ofNat 64 pte }
    else if bit pte 6 then
      if pteKind pte = .far then .error { code := 0x02, addr := BitVec.ofNat 64 va, info := BitVec.ofNat 64 pte }
      else
        let pte' := if bit pte 7 then pte else pte + 2 ^ 7
        let m := if bit pte 7 then m else m.homePut ctx a (natToBytes 8 pte')
        let b := pageBits level
        .ok (m, { ctx := ctx, base := va / 2 ^ b * 2 ^ b, bits := b, pa := bits pte 51 12 * 2 ^ 12, kind := pteKind pte,
                  r := bit pte 4, w := bit pte 5, pte := BitVec.ofNat 64 pte' })
    else walk m ctx va level (bits pte 51 12 * 2 ^ 12)

/-- Whether a TLB entry translates an address of a context (R262). -/
def Tlbe.hits (e : Tlbe) (ctx va : Nat) : Bool := e.ctx == ctx && e.base ≤ va && va < e.base + 2 ^ e.bits

/-- A TLB with an entry added, the oldest leaving when it is full (R262). -/
def tlbAdd (cap : Nat) (t : List Tlbe) (e : Tlbe) : List Tlbe :=
  (if t.length < cap then t else t.drop 1) ++ [e]

/-- The access an entry gives (R262). -/
def Tlbe.tr (e : Tlbe) (va : Nat) : Tr := ⟨e.pa + (va - e.base), e.kind, e.r, e.w, e.pte⟩

/-- The heap translation of a context (R258, step 1), of an address within 52 bits (R223). -/
def heapTr (c : Ctx) (va : Nat) : Option Nat :=
  if va < 2 ^ 52 && c.hlim ≠ 0 && c.hbase * 2 ^ 16 ≤ va && va < (c.hbase + c.hlim) * 2 ^ 16
  then some ((va + c.hoff.toNat) % 2 ^ 64) else none

/-- The translation of an address by a context's tables (R258, step 3): the TLBs, then the walk. -/
def translateTables (s : State) (u ctx va : Nat) : Except Flt (State × Tr) :=
  if 2 ^ 52 ≤ va then .error { code := 0x01, addr := BitVec.ofNat 64 va, info := 3 }
  else match (tget [] s.mem.mtTlb u).find? (fun e => e.hits ctx va) with
    | some e => .ok (s, e.tr va)
    | none =>
      let addMt (m : Mem) (e : Tlbe) : Mem := { m with mtTlb := tput [] m.mtTlb u (tlbAdd 64 (tget [] m.mtTlb u) e) }
      match (tget [] s.mem.dieTlb (dieOf u)).find? (fun e => e.hits ctx va) with
      | some e => .ok ({ s with mem := addMt s.mem e }, e.tr va)
      | none =>
        match walk s.mem ctx va 4 (s.ctx ctx).root with
        | .error f => .error f
        | .ok (m, e) =>
          let m := { m with dieTlb := tput [] m.dieTlb (dieOf u) (tlbAdd 4096 (tget [] m.dieTlb (dieOf u)) e) }
          .ok ({ s with mem := addMt m e }, e.tr va)

/-- The translation of an address of a context for a compute unit (R258): the heap, then the tables. -/
def translate (s : State) (u ctx va : Nat) : Except Flt (State × Tr) :=
  match heapTr (s.ctx ctx) va with
  | some pa =>
    if 2 ^ 39 ≤ pa then .error { code := 0x29, addr := BitVec.ofNat 64 va }
    else .ok (s, ⟨pa, .mu, (s.ctx ctx).hperm.getLsbD 0, (s.ctx ctx).hperm.getLsbD 1, 0⟩)
  | none => translateTables s u ctx va

/-- The Holvor window of a context that an address within 52 bits lies in (R223, R420): the target package, remote context and
remote address. -/
def hvTarget (c : Ctx) (va : Nat) : Option (Nat × Nat × Nat) :=
  if 2 ^ 52 ≤ va then none else (List.range 16).findSome? (fun k =>
    let w := tget {} c.hvwins k
    let base := bits w.base.toNat 51 16 * 2 ^ 16
    let size := bits w.size.toNat 35 0 * 2 ^ 16
    let rva := bits w.rva.toNat 51 16 * 2 ^ 16
    if size ≠ 0 && rva + size ≤ 2 ^ 52 && base ≤ va && va < base + size
    then some (bits w.tgt.toNat 47 32, bits w.tgt.toNat 11 0, rva + (va - base)) else none)

/-- The kind and permission checks after translation (R202, R261, R265): page kind before permission. -/
def permitPage (t : Tr) (va : Nat) (kind : PageKind) (r w : Bool) : Except Flt Unit :=
  if t.kind ≠ kind then .error { code := 0x22, addr := BitVec.ofNat 64 va, info := t.pte }
  else if (r && !t.r) || (w && !t.w) then .error { code := 0x23, addr := BitVec.ofNat 64 va, info := t.pte }
  else .ok ()

/-! ### Full/empty tags and their waiters (R201, R208, R231) -/

/-- Whether a scratchpad word is full. -/
def Mem.tag (m : Mem) (w : Nat) : Bool := tget false m.full w
/-- The tags of several words set. -/
def Mem.setTags (m : Mem) (ws : List Nat) (v : Bool) : Mem :=
  { m with full := ws.foldl (fun t w => tput false t w v) m.full }

/-- Whether a waiting full/empty request is satisfied by the tags (R231). -/
def Waiter.tagsOk (m : Mem) (x : Waiter) : Bool :=
  let ws := spWords x.unit x.addr x.width
  match x.what with
  | .ldw => ws.all m.tag
  | .ldc => ws.all m.tag
  | .ste => ws.all (fun w => !m.tag w)
  | _ => false

/-- A satisfied full/empty request performed at its bank (R231): the memory and what it brings to its slot. -/
def Waiter.tagStep (m : Mem) (t : Nat) (x : Waiter) : Mem × List Dword :=
  let ws := spWords x.unit x.addr x.width
  let v := putBits t (m.spGet x.unit x.addr x.width)
  match x.what with
  | .ldc => (m.setTags ws false, [v])
  | .ste => ((m.spPut x.unit x.addr (natToBytes x.width (x.data.getD 0 0).toNat)).setTags ws true, [])
  | _ => (m, [v])

/-- Whether a full/empty read meets an uncorrectable error (R231, R277). -/
def Waiter.poisoned (m : Mem) (x : Waiter) : Bool := (x.what == .ldw || x.what == .ldc) && m.spBad x.unit x.addr x.width

/-- The first waiting full/empty request that the tags satisfy, performed, in arrival order (R208); a read that meets an
uncorrectable error changes nothing and takes its fault (R231). -/
def serveFirst (tyOf : Waiter → Nat) (m : Mem) (done : List Waiter) : List Waiter → Option Mem
  | [] => none
  | x :: xs =>
    if x.refused = none && x.done = none && x.tagsOk m then
      if x.poisoned m then some { m with waits := done ++ ({ x with done := some [], err := true } :: xs) }
      else
        let (m', v) := x.tagStep m (tyOf x)
        some { m' with waits := done ++ ({ x with done := some v } :: xs) }
    else serveFirst tyOf m (done ++ [x]) xs

/-- The type a full/empty instruction names, n32 by default (R230). -/
def feType (o : Ops) : Nat := if o.t = 0 then 14 else o.t.toNat

/-- The bank serves its satisfied waiters in arrival order, as long as there are any (R208). -/
def Mem.serveTags (m : Mem) : Nat → Mem
  | 0 => m
  | n + 1 =>
    match serveFirst (fun x => feType x.op) m [] m.waits with
    | none => m
    | some m' => m'.serveTags n

/-- The tags of words set, and the waiters served (R231). -/
def Mem.tagChange (m : Mem) (ws : List Nat) (v : Bool) : Mem :=
  let m := m.setTags ws v
  m.serveTags m.waits.length

/-! ### Write-once granules (R203, R204, R233) -/

/-- Whether a granule (physical address over 8) is present. -/
def Mem.isPresent (m : Mem) (g : Nat) : Bool := tget false m.present g

/-- The value an LDP of type t and width w brings from a granule (R233). -/
def ldpValue (t w off : Nat) (g : Nat) : Dword := putBits t (g / 2 ^ (8 * off) % 2 ^ (8 * w))

/-- The type an LDP names, n64 by default (R232). -/
def ldpType (o : Ops) : Nat := if o.t = 0 then 15 else o.t.toNat

/-- A held read of a granule completed with its value, or with the uncorrectable error of its line (R204, R233). -/
def Waiter.ldpDone (m : Mem) (x : Waiter) (v : Nat) : Waiter :=
  if m.homeBad x.addr then { x with done := some [], err := true }
  else { x with done := some [ldpValue (ldpType x.op) x.width (x.addr % 8) v] }

/-- The single write of a granule: its bytes, its presence bit, and every held read of it completed (R203, R204). -/
def Mem.woPut (m : Mem) (g : Nat) (v : Nat) : Mem :=
  let m := m.physPut (8 * g) (natToBytes 8 v)
  { m with present := tput false m.present g true, fenced := tput 0 m.fenced g 0,
           waits := m.waits.map (fun x =>
             if x.what = .ldp && x.done = none && x.refused = none && x.addr / 8 = g then x.ldpDone m v else x) }

/-! ### Accesses of engines (R202, R210) -/

/-- A byte range cut at multiples of `w`: addresses and lengths, with fuel. -/
def cuts (w : Nat) : Nat → Nat → Nat → List (Nat × Nat)
  | 0, _, _ => []
  | f + 1, a, n =>
    if n = 0 then [] else
      let k := min n (w - a % w)
      (a, k) :: cuts w f (a + k) (n - k)

/-- A byte range cut at 8-byte granules. -/
def pieces (f a n : Nat) : List (Nat × Nat) := cuts 8 f a n

/-- The granules (physical address over 8) that a range touches. -/
def granules (pa n : Nat) : List Nat := (pieces n pa n).map (fun p => p.1 / 8)

/-- The launch queue of a partition's launch, plus 1; 0 when it holds none. -/
def Part.queueTag (q : Part) : Nat :=
  match q.launch with
  | none => 0
  | some l => 8 * l.fn + l.q + 1

/-- A granule read by a launch (R221): when another launch queue wrote it after a FENCE of system scope, the reading launch finds
every write made before that FENCE, so the older copies of its context in the L1s of its partition are written back and
dropped. -/
def State.crossPart (s : State) (q : Part) (pa : Nat) : State :=
  let w := tget 0 s.mem.fenced (pa / 8)
  if w = 0 || w = q.queueTag then s
  else { s with mem := s.mem.l1DropUnits q.cus (fun l => l.ctx == q.ctx) q.ctx }

/-- The partition of a context that holds a compute unit: the one an engine of that unit works for. -/
def State.engPart (s : State) (u ctx : Nat) : Option Nat :=
  (s.parts.find? (fun q => q.2.has u && q.2.ctx == ctx)).map (fun q => q.1)

/-- A granule read by an engine of a unit for a context (R221). -/
def State.crossEng (s : State) (u ctx pa : Nat) : State :=
  match s.engPart u ctx with
  | none => s
  | some p => s.crossPart (s.part p) pa

/-- What a translated read of an engine finds of other launches: the granules of a WO page that it covers (R221). -/
def State.crossRead (s : State) (u ctx : Nat) (t : Tr) (n : Nat) : State :=
  if t.kind = .wo then (granules t.pa n).foldl (fun s g => s.crossEng u ctx (8 * g)) s else s

/-- The note that an engine leaves on a granule it writes once (R221): the launch queue of its launch, once a task of it has
performed a FENCE of system scope (log entry 22). -/
def State.fenceTag (s : State) (u ctx : Nat) : Nat :=
  match s.engPart u ctx with
  | none => 0
  | some p => if s.slots.any (fun x => x.prt == p && x.sysFence) then (s.part p).queueTag else 0

/-- A granule noted with the launch queue that wrote it after a FENCE of system scope, 0 for none (R221). -/
def Mem.tagFence (m : Mem) (g tag : Nat) : Mem := { m with fenced := tput 0 m.fenced g tag }

/-- The answer of another package to an engine's access, taken from those that have arrived (R419, R420): an access with no
answer yet waits, and a fault found there is raised here with INFO[63] set. -/
def State.hvTake (s : State) (ctx va : Nat) (write : Bool) : Except EErr (State × List Byte) :=
  let mine (r : HvReply) : Bool := r.ctx == ctx && r.va == va && r.write == write
  match s.hvReplies.find? mine with
  | none => .error .absent
  | some r =>
    if r.code ≠ 0 then .error (.flt { code := r.code, addr := r.addr, info := r.info ||| (1#64 <<< 63) })
    else .ok ({ s with hvReplies := s.hvReplies.eraseP mine }, r.bytes)

/-- The answers of a list of granule accesses taken. -/
def hvTakes (ctx : Nat) (write : Bool) : State → List (Nat × Nat) → Except EErr (State × List Byte)
  | s, [] => .ok (s, [])
  | s, (a, n) :: ps =>
    match s.hvTake ctx a write with
    | .error e => .error e
    | .ok (s, bs) =>
      match hvTakes ctx write s ps with
      | .error e => .error e
      | .ok (s, bs') => .ok (s, (bs ++ List.replicate n 0).take n ++ bs')

/-- The answers to an access that ended dropped: the first that stands for each of its granules. -/
def State.hvDrop (s : State) (ctx va n : Nat) (write : Bool) : State :=
  { s with hvReplies := (pieces n va n).foldl (fun rs p => rs.eraseP (fun r => r.ctx == ctx && r.va == p.1 && r.write == write)) s.hvReplies }

/-- One read of an engine, the host or another package within a line of this package: at the home slice on MU pages, through
`wo_read` on WO pages (R202), an access of the L2 slice (R405). -/
def homeGet (s : State) (u ctx : Nat) (va n : Nat) : Except EErr (State × List Byte × Bool) :=
  match translate s u ctx va with
  | .error f => .error (.flt f)
  | .ok (s, t) =>
    if !t.r then .error (.flt { code := 0x23, addr := BitVec.ofNat 64 va, info := t.pte })
    else if t.kind = .wo && !(granules t.pa n).all s.mem.isPresent then .error .absent
    else
      let s := s.crossRead u ctx t n
      let s := { s with mem := s.mem.homeLook ctx (t.pa / 128) }
      .ok (s, s.mem.homeBytes t.pa n, s.mem.homeBad t.pa)

/-- One write of an engine, the host or another package in this package: within a line at the home slice on MU pages, one granule,
once, on WO pages (R202, R203); an access of the L2 slice (R405). The line of poisoned bytes is left poisoned (R250). -/
def homeSet (s : State) (u ctx : Nat) (va : Nat) (bs : List Byte) (bad : Bool) : Except EErr State :=
  match translate s u ctx va with
  | .error f => .error (.flt f)
  | .ok (s, t) =>
    if t.kind = .wo && (va % 8 ≠ 0 || bs.length ≠ 8) then .error (.flt { code := 0x20, addr := BitVec.ofNat 64 va })
    else if !t.w then .error (.flt { code := 0x23, addr := BitVec.ofNat 64 va, info := t.pte })
    else if t.kind = .wo then
      if s.mem.isPresent (t.pa / 8) then .error (.flt { code := 0x24, addr := BitVec.ofNat 64 va })
      else
        let m := if bad then s.mem.setBad (t.pa / 128) true else s.mem
        .ok { s with mem := ((m.woPut (t.pa / 8) (bytesToNat bs)).tagFence (t.pa / 8) (s.fenceTag u ctx)).note (.energy ctx 6 1) }
    else
      let m := (s.mem.homePut ctx t.pa bs).note (.energy ctx 6 1)
      .ok { s with mem := if bad then m.setBad (t.pa / 128) true else m }

/-- One engine read within a line (R202); a read through a Holvor window brings what the other package answers, granule by
granule (R420). -/
def engGet (s : State) (u ctx : Nat) (va n : Nat) : Except EErr (State × List Byte × Bool) :=
  match hvTarget (s.ctx ctx) va with
  | some _ =>
    match hvTakes ctx false s (pieces n va n) with
    | .error e => .error e
    | .ok (s, bs) => .ok (s, bs, false)
  | none => homeGet s u ctx va n

/-- One engine write, a line at most on an MU page and a granule elsewhere (R202, R203); a write through a Holvor window is
performed when the other package has answered (R420). -/
def engPut (s : State) (u ctx : Nat) (va : Nat) (bs : List Byte) (bad : Bool) : Except EErr State :=
  match hvTarget (s.ctx ctx) va with
  | some _ =>
    match s.hvTake ctx va true with
    | .error e => .error e
    | .ok (s, _) => .ok s
  | none => homeSet s u ctx va bs bad

/-- An engine read of several lines. -/
def engGets (s : State) (u ctx : Nat) : List (Nat × Nat) → Except EErr (State × List Byte × List Bool)
  | [] => .ok (s, [], [])
  | (a, n) :: ps =>
    match engGet s u ctx a n with
    | .error e => .error e
    | .ok (s, bs, bad) =>
      match engGets s u ctx ps with
      | .error e => .error e
      | .ok (s, bs', bad') => .ok (s, bs ++ bs', List.replicate n bad ++ bad')

/-- An engine read of `n` bytes from a virtual address: the bytes, and for each whether it is poisoned. -/
def engRead (s : State) (u ctx va n : Nat) : Except EErr (State × List Byte × List Bool) :=
  engGets s u ctx (cuts 128 n va n)

/-- An engine read that an uncorrectable error stops (R277). -/
def engReadOk (s : State) (u ctx va n : Nat) : Except EErr (State × List Byte) :=
  match engRead s u ctx va n with
  | .error e => .error e
  | .ok (s, bs, bad) =>
    if bad.any id then .error (.flt { code := 0x25, addr := BitVec.ofNat 64 va }) else .ok (s, bs)

/-- An engine write of several granules, in ascending order: the state after the granules written, and the error at which
the rest is abandoned; `bad` tells the bytes that are poisoned (R250). -/
def engPuts (s : State) (u ctx : Nat) : List (Nat × Nat) → List Byte → List Bool → State × Option EErr
  | [], _, _ => (s, none)
  | (a, n) :: ps, bs, bad =>
    match engPut s u ctx a (bs.take n) ((bad.take n).any id) with
    | .error e => (s, some e)
    | .ok s => engPuts s u ctx ps (bs.drop n) (bad.drop n)

/-- Whether the bytes of a line at an address are written in one access: on an MU page of this package. -/
def oneAccess (s : State) (u ctx va : Nat) : Bool :=
  (hvTarget (s.ctx ctx) va).isNone && (match translate s u ctx va with
    | .ok (_, t) => t.kind == .mu
    | .error _ => false)

/-- An engine write of several lines, in ascending order. -/
def engLines (s : State) (u ctx : Nat) : List (Nat × Nat) → List Byte → List Bool → State × Option EErr
  | [], _, _ => (s, none)
  | (a, n) :: ps, bs, bad =>
    match engPuts s u ctx (if oneAccess s u ctx a then [(a, n)] else pieces n a n) (bs.take n) (bad.take n) with
    | (s, some e) => (s, some e)
    | (s, none) => engLines s u ctx ps (bs.drop n) (bad.drop n)

/-- An engine write of bytes, of which `bad` tells the poisoned ones (R250), from a virtual address. -/
def engWriteBad (s : State) (u ctx va : Nat) (bs : List Byte) (bad : List Bool) : State × Option EErr :=
  engLines s u ctx (cuts 128 bs.length va bs.length) bs bad

/-- An engine write of bytes from a virtual address. -/
def engWrite (s : State) (u ctx va : Nat) (bs : List Byte) : State × Option EErr := engWriteBad s u ctx va bs []

/-- The pages of 64 KiB that a range touches, by their first address within the range. -/
def pagesOf (va n : Nat) : List Nat :=
  if n = 0 then [] else
    (List.range ((va + n - 1) / 2 ^ 16 - va / 2 ^ 16 + 1)).map (fun i =>
      if i = 0 then va else (va / 2 ^ 16 + i) * 2 ^ 16)

/-- Every page of a list translated (R249, R295): the first fault met, else the state the walks leave and the translations
with their addresses; an address in a Holvor window is not translated here (R420). -/
def translateAll (s : State) (u ctx : Nat) : List Nat → Except (Flt × State) (State × List (Nat × Tr))
  | [] => .ok (s, [])
  | va :: vas =>
    match hvTarget (s.ctx ctx) va with
    | some _ => translateAll s u ctx vas
    | none =>
      match translate s u ctx va with
      | .error f => .error (f, s)
      | .ok (s, t) =>
        match translateAll s u ctx vas with
        | .error e => .error e
        | .ok (s, ts) => .ok (s, (va, t) :: ts)

/-- The first translation of a list that lacks a permission (R226). -/
def permAll (r w : Bool) : List (Nat × Tr) → Except Flt Unit
  | [] => .ok ()
  | (va, t) :: ts =>
    if (r && !t.r) || (w && !t.w) then .error { code := 0x23, addr := BitVec.ofNat 64 va, info := t.pte } else permAll r w ts

/-- The first translation of a list whose page kind is another (R202, R226). -/
def kindAll (k : PageKind) : List (Nat × Tr) → Except Flt Unit
  | [] => .ok ()
  | (va, t) :: ts =>
    if t.kind ≠ k then .error { code := 0x22, addr := BitVec.ofNat 64 va, info := t.pte } else kindAll k ts

end Sys2Proof.Machine
end

