-- ==== Sys2Proof/Machine/Ops.lean ====
section
/-! DEFINITION. The named operations over the state: energy charges and events (R402, R405 to R407), fault records and rings
(R266, R267), taking a fault (R264, R269 to R271, R279) and the return from one (R268), register fills and spills (R36). -/

namespace Sys2Proof.Machine

open Sys2Proof

/-! ### Events and energy (R402, R405 to R407) -/

/-- Steps in the layout of %ratio (R156). -/
def Steps.word (g : Steps) : Nat := g.mx * 2 ^ 16 + g.vc * 2 ^ 8 + g.mm

/-- An event of a kind queued for the launch of a partition, when its EVMASK bit is set (R402). -/
def Part.event (p : Part) (kind : Nat) : Part :=
  match p.launch with
  | none => p
  | some l =>
    if !l.evmask.getLsbD (kind - 1) then p
    else if 16 ≤ p.evq.length then { p with evLost := true }
    else
      let w := kind * 2 ^ 28 + b2n p.evLost * 2 ^ 27 + p.grant.word + p.grseq.toNat * 2 ^ 32
      { p with evq := p.evq ++ [BitVec.ofNat 64 w], evLost := false }

/-- ENWTn.PJ in force: the value system software wrote, else the device value (R405, R409). -/
def Sys.weight (y : Sys) (n : Nat) : Nat :=
  match tget 0 y.weights n with
  | 0 => (Config.enwt n).toNat
  | k + 1 => k

/-- nanojoules added to a context's counter, saturating (R407): the context and whether it saturated now. -/
def Ctx.addNj (c : Ctx) (n : Nat) : Ctx × Bool :=
  if 2 ^ 48 - 1 < c.nj + n then ({ c with nj := 2 ^ 48 - 1, sat := true }, !c.sat) else ({ c with nj := c.nj + n }, false)

/-- nanojoules charged to a context, with the event of a saturation (R407). -/
def State.chargeNj (s : State) (c n : Nat) : State :=
  let (x, sat) := (s.ctx c).addNj n
  let s := s.setCtx c x
  if sat then { s with parts := s.parts.map (fun kp => if kp.2.ctx == c then (kp.1, kp.2.event 4) else kp) } else s

/-- `n` units of a class of R405 charged to a context. -/
def State.charge (s : State) (c cls n : Nat) : State :=
  let pj := (s.ctx c).pj + n * s.sys.weight cls
  let s := s.setCtx c { s.ctx c with pj := pj % 1000 }
  if pj / 1000 = 0 then s else s.chargeNj c (pj / 1000)

/-- `n` units of a class owed by a slot, posted at the next microsecond (R197, R405). -/
def Slot.owe (x : Slot) (cls n : Nat) : Slot := { x with owed := tput 0 x.owed cls (tget 0 x.owed cls + n) }

/-- The charges a slot owes posted to its context. -/
def State.postSlot (s : State) (x : Slot) : State :=
  x.owed.foldl (fun s e => s.charge (s.part x.prt).ctx e.1 e.2) s

/-- Every owed charge posted (R197). -/
def State.postAll (s : State) : State :=
  (s.slots.foldl (fun s x => s.postSlot x) s).mapSlots (fun x => { x with owed := [] })

/-! ### Fault records and rings (R264 to R267) -/

/-- The class of a fault code (R264): 0 suspend-and-save, 1 record-and-continue, 2 fatal, 3 notice. -/
def fltClass (code : Nat) : Nat :=
  match code with
  | 0x01 => 0 | 0x02 => 0 | 0x03 => 0
  | 0x10 => 1 | 0x11 => 1 | 0x12 => 1 | 0x4B => 1
  | 0x13 => 3 | 0x14 => 3
  | _ => 2

/-- The 64 bytes of a fault record with a sequence number (R266). -/
def FRec.bytes (r : FRec) (seq : Word) : List Byte :=
  let w := r.code + r.cls * 2 ^ 8 + r.sub * 2 ^ 10 + r.ctx * 2 ^ 20 + seq.toNat * 2 ^ 32 + r.iw0.toNat * 2 ^ 64 +
    r.iw1.toNat * 2 ^ 96 + r.pc.toNat * 2 ^ 128 + r.imgc * 2 ^ 146 + r.place * 2 ^ 165 + r.src * 2 ^ 184 +
    r.ridx % 2 ^ 32 * 2 ^ 192 + r.tag.toNat * 2 ^ 224 + r.addr.toNat * 2 ^ 256 + r.info.toNat * 2 ^ 320 + r.time.toNat * 2 ^ 384
  natToBytes 64 w

/-- The physical address of a ring slot (R267). -/
def FRing.slotPa (r : FRing) (seq : Word) : Nat := r.base + 64 * (seq.toNat % 2 ^ r.n)

/-- Whether the ring slot of a sequence number is still present (R267). -/
def FRing.blocked (r : FRing) (m : Mem) (seq : Word) : Bool := m.isPresent (r.slotPa seq / 8)

/-- A record written to its slot as eight single writes of granules (R267). -/
def FRing.write (r : FRing) (m : Mem) (seq : Word) (x : FRec) : Mem × FRing :=
  let bs := x.bytes seq
  let m := (List.range 8).foldl (fun m i => m.woPut (r.slotPa seq / 8 + i) (bytesToNat ((bs.drop (8 * i)).take 8))) m
  (m, { r with head := seq + 1 })

/-- The sequence number the next record takes (R267). -/
def FRing.nextSeq (r : FRing) : Word := r.head + BitVec.ofNat 32 r.held.length

/-- A record taken by a ring (R267): written, held while its slot is present, or dropped and counted when 64 are held and
its class allows that. -/
def FRing.take (r : FRing) (m : Mem) (x : FRec) : Mem × FRing :=
  if r.held.isEmpty && !r.blocked m r.head then r.write m r.head x
  else if 64 ≤ r.held.length && (x.cls == 1 || x.cls == 3) then (m, { r with lost := r.lost + 1, ovf := true })
  else (m, { r with held := r.held ++ [(r.nextSeq, x)], ovf := true })

/-- The held records written as their slots come free (R267). -/
def FRing.flush (r : FRing) (m : Mem) : List (Word × FRec) → Mem × FRing
  | [] => (m, { r with held := [] })
  | (q, x) :: xs =>
    if r.blocked m q then (m, { r with held := (q, x) :: xs })
    else
      let (m, r) := r.write m q x
      r.flush m xs

/-- The presence of the records from one index up to another cleared, and the held records written (R267). -/
def FRing.reclaim (r : FRing) (m : Mem) (tail : Word) : Mem × FRing :=
  if (r.head - r.tail).toNat < (tail - r.tail).toNat then (m, r)
  else
    let n := min (tail - r.tail).toNat (2 ^ r.n)
    let m := (List.range n).foldl (fun m i =>
      { m with present := tdrop m.present (r.slotPa (r.tail + BitVec.ofNat 32 i) / 8) (r.slotPa (r.tail + BitVec.ofNat 32 i) / 8 + 8) }) m
    let r := { r with tail := tail }
    r.flush m r.held

/-- A record sent to a partition's fault ring (R267). -/
def State.emit (s : State) (p : Nat) (x : FRec) : State :=
  let q := s.part p
  let (m, r) := q.ring.take s.mem x
  { s with mem := m }.setPart p { q with ring := r }

/-- A record sent to the device log (R428). -/
def State.emitDev (s : State) (x : FRec) : State :=
  let (m, r) := s.sys.dlog.take s.mem x
  { s with mem := m, sys := { s.sys with dlog := r } }

/-- TAG of the record in hand (R53). -/
def Part.tag (p : Part) : Word := p.record.extractLsb' 448 32

/-- A record whose source is not a task (R266, R430): `src` 1 with `imgc` naming the engine, or 2 or 3 with zero. -/
def State.recOf (s : State) (p src imgc : Nat) (f : Flt) (cls : Nat) : FRec :=
  let q := s.part p
  { code := f.code, cls := cls, sub := f.sub, ctx := q.ctx, iw0 := 0, iw1 := 0, pc := 0, imgc := imgc, place := 0, src := src,
    ridx := q.ridx, tag := q.tag, addr := f.addr, info := f.info, time := s.timer }

/-- IMGC of an engine (R430): image die, TILE code, sub-unit. -/
def engImgc (die tile sub : Nat) : Nat := die * 2 ^ 17 + tile * 2 ^ 7 + sub

/-- IMGC of an engine that stands with the home MT of a compute unit (R430). -/
def State.mtImgc (s : State) (p u sub : Nat) : Nat :=
  match (s.part p).imageOf (dieOf u) (mtTile u) with
  | some (d, t) => engImgc d t sub
  | none => 0

/-- IMGC of the ternary array of a compute unit's CT (R430). -/
def State.ctImgc (s : State) (p u sub : Nat) : Nat :=
  match (s.part p).imageOf (dieOf u) (ctTile u) with
  | some (d, t) => engImgc d t sub
  | none => 0

/-- A word of the store of the slot's PE; 0 beyond the words loaded. -/
def State.storeWord (s : State) (a : Nat) : Word := (s.pe s.slot.place).words.getD a 0

/-- The instruction words at the slot's pc, 0 beyond its length (R270). -/
def State.iword (s : State) (k : Nat) : Word :=
  let w0 := s.storeWord s.slot.pc.toNat
  let len := (w0.extractLsb' 0 2).toNat
  if k = 0 then w0 else if (k = 1 && 2 ≤ len) || (k = 2 && len = 3) then s.storeWord (s.slot.pc.toNat + k) else 0

/-- The record of a fault of the slot in focus (R266). -/
def State.slotRec (s : State) (f : Flt) : FRec :=
  let q := s.part s.slot.prt
  { code := f.code, cls := fltClass f.code, sub := f.sub, ctx := q.ctx, iw0 := s.iword 0, iw1 := s.iword 1, pc := s.slot.pc,
    imgc := coordNum s.slot.id, place := coordNum s.slot.place, src := 0, ridx := q.ridx, tag := q.tag, addr := f.addr,
    info := f.info, time := s.timer }

/-! ### Register fills and spills of control tasks (R36, R281) -/

/-- The virtual address of the save word of control register n (R281). -/
def State.saveVa (s : State) (n : Nat) : Nat :=
  (s.part s.slot.prt).rsabase + 2048 * coordNum s.slot.id + 8 * n

/-- The context of the slot in focus. -/
def State.slotCtx (s : State) : Nat := (s.part s.slot.prt).ctx

/-- The compute unit of the slot in focus. -/
def State.slotUnit (s : State) : Nat := coordUnit s.slot.place

/-- The lines of a unit beyond the capacity that the split leaves its L1 written back and dropped (R20, R199): each step of
128 KiB holds 1,024 lines, and a unit whose whole SRAM is scratchpad keeps no line. -/
def State.l1Settle (s : State) (u req : Nat) : State :=
  { s with mem := s.mem.l1Trim u ((16 - (s.mt u).split) * 1024) req }

/-- A control register marked as written back to its save word (R148). -/
def Slot.markSaved (x : Slot) (n : Nat) : Slot := { x with vsaved := x.vsaved ||| (1 <<< n) }

/-- A register written back to its save word through the unit's L1 (R36), or through a Holvor window (R420); none when the word
cannot be reached. -/
def State.spill (s : State) (n : Nat) (v : Dword) : Except EErr State :=
  let va := s.saveVa n
  match hvTarget (s.ctx s.slotCtx) va with
  | some _ => (s.hvTake s.slotCtx va true).map (fun r => { r.1 with slot := r.1.slot.markSaved n })
  | none =>
    match translate s s.slotUnit s.slotCtx va with
    | .error f => .error (.flt f)
    | .ok (s, t) =>
      match permitPage t va .mu false true with
      | .error f => .error (.flt f)
      | .ok _ =>
        let s : State := { s with mem := s.mem.l1Write s.slotUnit s.slotCtx t.pa (natToBytes 8 v.toNat), slot := s.slot.markSaved n }
        .ok (s.l1Settle s.slotUnit s.slotCtx)

/-- The save word of a control register read through the unit's L1 (R36), or through a Holvor window (R420); a word that cannot be
reached gives a register-fill fault. -/
def State.savedWord (s : State) (n : Nat) : Except EErr (State × Dword) :=
  let va := s.saveVa n
  let bad : Flt := { code := 0x03, addr := BitVec.ofNat 64 va, info := BitVec.ofNat 64 n }
  match hvTarget (s.ctx s.slotCtx) va with
  | some _ =>
    match s.hvTake s.slotCtx va false with
    | .error .absent => .error .absent
    | .error (.flt _) => .error (.flt bad)
    | .ok (s, bs) => .ok (s, BitVec.ofNat 64 (bytesToNat bs))
  | none =>
    match translate s s.slotUnit s.slotCtx va with
    | .error _ => .error (.flt bad)
    | .ok (s, t) =>
      match permitPage t va .mu true false with
      | .error _ => .error (.flt bad)
      | .ok _ =>
        let (m, v, err) := s.mem.l1Read s.slotUnit s.slotCtx t.pa 8
        let t : State := { s with mem := m }
        if err then .error (.flt bad) else .ok (t.l1Settle s.slotUnit s.slotCtx, BitVec.ofNat 64 v)

/-- Every dirty register-cache entry written back; one that cannot be reached stays dirty (R269). -/
def State.spillAll (s : State) : List VEntry → State
  | [] => s
  | e :: es =>
    let s :=
      if e.dirty then
        match s.spill e.reg e.val with
        | .ok s => { s with slot := { s.slot with vcache := s.slot.vcache.map (fun x =>
                       if x.reg == e.reg then { x with dirty := false } else x) } }
        | .error _ => s
      else s
    s.spillAll es

/-- An entry of the register cache made free (R36): the oldest leaves a full cache, a dirty one written back first; a save word that
cannot be reached gives a register-fill fault. -/
def State.cacheRoom (s : State) : Except EErr State :=
  if s.slot.vcache.length < 32 then .ok s
  else match s.slot.vcache with
    | [] => .ok s
    | e :: es =>
      if !e.dirty then .ok { s with slot := { s.slot with vcache := es } }
      else match s.spill e.reg e.val with
        | .ok s => .ok { s with slot := { s.slot with vcache := es } }
        | .error .absent => .error .absent
        | .error (.flt _) => .error (.flt { code := 0x03, addr := BitVec.ofNat 64 (s.saveVa e.reg), info := BitVec.ofNat 64 e.reg })

/-- A register put into the cache with a value. -/
def State.cachePut (s : State) (n : Nat) (v : Dword) : State :=
  { s with slot := { s.slot with vcache := s.slot.vcache ++ [⟨n, v, false⟩] } }

/-- A control register brought into the cache (R36): 0 when it was never written back in this forme (R148), else its save
word. -/
def State.fill (s : State) (n : Nat) : Except EErr State :=
  if s.slot.vcache.any (fun e => e.reg == n) then .ok s
  else match s.cacheRoom with
    | .error e => .error e
    | .ok s =>
      if !s.slot.vsaved.getLsbD n then .ok (s.cachePut n 0)
      else (s.savedWord n).map (fun r => r.1.cachePut n r.2)

/-! ### Slot states and task frames (R270, R271) -/

/-- The code of a slot status (R271). -/
def SlotSt.code : SlotSt → Nat
  | .noTask => 0
  | .idle => 1
  | .firing => 2
  | .suspended => 3
  | .retired => 4

/-- The nesting value of %nest (R156). -/
def Slot.nest (x : Slot) : Nat := x.loops.length * 16 + x.calls.length

/-- The 96 bytes of a slot's state (R271). -/
def Slot.stateBytes (x : Slot) : List Byte :=
  let calls := x.calls.reverse
  let loops := x.loops.reverse
  let loopNum (l : Loop) : Nat := l.start.toNat + l.stop.toNat * 2 ^ 16 + l.rot.toNat * 2 ^ 28 + l.rem.toNat * 2 ^ 32
  let portNum (taken reserved : Nat) : Nat := taken % 16 + reserved % 16 * 16
  natToBytes 1 x.st.code ++ natToBytes 1 x.wbase.toNat ++ natToBytes 1 x.nest ++ natToBytes 1 (b2n x.resume + 2 * b2n x.ctl) ++
  natToBytes 4 x.pc.toNat ++
  (List.range 4).flatMap (fun i => natToBytes 2 (calls.getD i 0).toNat) ++
  (List.range 2).flatMap (fun i => natToBytes 8 ((loops.map loopNum).getD i 0)) ++
  x.ins.toList.flatMap (fun p => natToBytes 2 (portNum p.taken 0)) ++
  x.outs.toList.flatMap (fun p => natToBytes 2 (portNum p.sent p.reserved)) ++
  natToBytes 1 x.mkSeg ++ natToBytes 1 x.mkRow ++ natToBytes 1 x.mkTen ++ natToBytes 1 0 ++
  natToBytes 1 x.rmode.toNat ++ natToBytes 1 x.fsticky.toNat ++ natToBytes 2 0 ++
  natToBytes 8 x.amax.toNat ++ natToBytes 8 x.rng.toNat ++ natToBytes 8 x.fires.toNat

/-- Data register an through the window (R36). -/
def Slot.areg (x : Slot) (n : Nat) : Dword := x.phys[(x.wbase.toNat + n) % 64]'(Nat.mod_lt _ (by decide))

/-- The 512 bytes of a task frame (R270). -/
def State.frameBytes (s : State) (seq : Word) (f : Flt) : List Byte :=
  let x := s.slot
  natToBytes 4 seq.toNat ++ natToBytes 4 f.code ++ natToBytes 4 (coordNum x.id) ++
  natToBytes 4 (s.iword 0).toNat ++ natToBytes 4 (s.iword 1).toNat ++ natToBytes 4 (s.iword 2).toNat ++
  natToBytes 8 f.addr.toNat ++ natToBytes 8 f.info.toNat ++ List.replicate 24 0 ++
  x.stateBytes ++ List.replicate 96 0 ++
  (List.range 32).flatMap (fun n => natToBytes 8 (if x.ctl then 0 else (x.areg n).toNat))

/-! ### Register writes of the host (R424, R427) -/

/-- Whether no register but BOOTST answers: a boot has failed (R424), or the dies are held in reset (R427). -/
def State.deaf (s : State) : Bool := s.sys.bootErr != 0 || s.sys.held

/-- What a write of the host, or a reset that it asks for, leaves: nothing changes where the functions are not presented. -/
def State.hosted (s t : State) : State := if s.deaf then s else t

/-! ### Taking a fault, and the return from one (R264, R268, R269, R279) -/

/-- The tokens that an instruction consumed at an input port given back, at the head, also where the slots that they freed are filled
again (R151, R257; the model's choice, log entry 18). -/
def InPort.untake (p : InPort) (ts : List Tok) : InPort :=
  { p with queue := ts ++ p.queue, taken := p.taken - ts.length, freed := p.freed - ts.length }

/-- The tokens that a waiting instruction consumed when it issued given back: it has not retired (R151, R257). -/
def Slot.untake (x : Slot) (took : List (List Tok)) : Slot :=
  { x with ins := Vector.ofFn (fun k : Fin 8 => x.ins[k].untake (took.getD k.val [])) }

/-- Every request that a slot holds at a bank, ring or base die withdrawn (R257, R269): no effect of it is left. -/
def State.withdraw (s : State) (c : Coord) : State :=
  let t := (s.mem.waits.filter (fun w => w.place == c)).foldl (fun (s : State) w => s.updSlot c (fun x => x.untake w.took)) s
  { t with mem := { t.mem with waits := t.mem.waits.filter (fun w => w.place != c) } }

/-- Suspend-and-save (R269): requests withdrawn, dirty registers written back, the task frame written, then the record; the
slot leaves the issue choice. -/
def State.suspend (s : State) (f : Flt) : State :=
  let s := s.withdraw s.slot.place
  let s := if s.slot.ctl then s.spillAll s.slot.vcache else s
  let p := s.part s.slot.prt
  let seq := p.ring.nextSeq
  let r := s.slotRec f
  let s := { s with slot := { s.slot with st := .suspended, busy := false, faultSeq := some seq } }
  let s := { s with mem := s.mem.physPut (p.frmbase + 512 * coordNum s.slot.id) (s.frameBytes seq f) }
  s.emit s.slot.prt r

/-- The units of a partition stop holding the parts of its resident forme: slots, links, engine commands, islands, stream
ports, stages, cursors and requests (R279, R386). -/
def State.dropForme (s : State) (p : Nat) : State :=
  let gone := s.slots.filter (fun x => x.prt == p)
  let s := gone.foldl (fun s x => s.postSlot x) s
  let q := s.part p
  { s with slot := if s.slot.prt == p && s.slot.st != .noTask then {} else s.slot,
           others := s.others.filter (fun x => x.prt != p || x.st == .noTask),
           pes := s.pes.filter (fun x => !gone.any (fun y => peSlot y.place 0 == x.place)),
           cmds := s.cmds.filter (fun x => x.prt != p),
           islands := s.islands.filter (fun x => x.2.prt != p || !x.2.bound),
           mts := s.mts.map (fun kt => if q.has kt.1 then (kt.1, { kt.2 with ports := [], stages := [], regions := [] }) else kt),
           strms := s.strms.map (fun x => if x.engine.any (fun e => e.1 == p) then { x with engine := none, reqs := [], packets := [], status := none } else x),
           edges := s.edges.filter (fun x => x.2.prt != p),
           hvReplies := s.hvReplies.filter (fun r => r.ctx != q.ctx),
           mem := { s.mem with waits := s.mem.waits.filter (fun w => !gone.any (fun y => y.place == w.place)) } }

/-- The stop of a partition by a fatal fault (R279): the forme is discarded and CTXST.STOP set; what its units hold in their
L1s is written back and dropped, so that no later forme finds an old copy there (R214, R221). -/
def State.stopPart (s : State) (p : Nat) : State :=
  let s : State := { s with mem := s.mem.l1DropUnits (s.part p).cus (fun _ => true) (s.part p).ctx }
  let s := s.dropForme p
  let s := { s with mem := { s.mem with clears := s.mem.clears.filter (fun c => c.1 != p) } }
  let q := s.part p
  let s := s.setPart p { q with phase := .ended, stopCode := true, sects := Vector.replicate 4 {}, formeCus := [], owed := [], toReport := [],
                                preempt := false, evq := [], evLost := false, restore := none }
  s.setCtx q.ctx { s.ctx q.ctx with stop := true }

/-- The answers of other packages that an access of a context ended by a fault leaves standing dropped (R420): every fault and every
read, whose access is sent again when it is made again; a write performed there keeps its acknowledgement. -/
def State.hvFresh (s : State) (ctx : Nat) : State :=
  { s with hvReplies := s.hvReplies.filter (fun r => r.ctx != ctx || (r.write && r.code == 0)) }

/-- A fault of the slot in focus taken (R264): suspend-and-save, or its record and the fatal stop. -/
def State.raise (s : State) (f : Flt) : State :=
  let s := s.hvFresh s.slotCtx
  if fltClass f.code = 0 then s.suspend f
  else if fltClass f.code = 2 then (s.emit s.slot.prt (s.slotRec f)).stopPart s.slot.prt
  else s.emit s.slot.prt (s.slotRec f)

/-- A fault of an engine (R430) taken: its record, and for a fatal one the stop of its partition. -/
def State.raiseEngine (s : State) (p imgc : Nat) (f : Flt) : State :=
  let s := s.hvFresh (s.part p).ctx
  let s := s.emit p (s.recOf p 1 imgc f (fltClass f.code))
  if fltClass f.code = 2 then s.stopPart p else s

/-- A fault of the sequencer, loader or arbiter (SRC 2) taken: its record and the fatal stop. -/
def State.raiseSeq (s : State) (p : Nat) (f : Flt) : State :=
  (s.emit p (s.recOf p 2 0 f 2)).stopPart p

/-- The return from a suspend-and-save fault (R268, R276): the task suspended by a record's SEQ issues its instruction
again; a number that names no suspended task of the partition, or whose record is not yet written, is ignored. -/
def State.resumeTask (s : State) (p : Nat) (seq : Word) : State :=
  let held := (s.part p).ring.held.any (fun h => h.1 == seq)
  if held then s
  else s.mapSlots (fun x =>
    if x.prt == p && x.st == .suspended && x.faultSeq == some seq
    then { x with st := .firing, faultSeq := none, resume := false } else x)

/-- What a stop of an instruction leaves (R40, R151): a slot that is not ready stalls, a fault is taken. -/
def State.stopBy (e : Stop × State) : State :=
  match e with
  | (.wait, s) => { s with stall := true }
  | (.flt f, s) => s.raise f

/-- The outcome of an instruction: its next state, or that of its stop. -/
def finish (r : Res State) : Host.Outcome State Fault Refusal :=
  match r with
  | .ok s => .next s
  | .error e => .next (State.stopBy e)

end Sys2Proof.Machine
end

