-- ==== Sys2Proof/Machine/Operands.lean ====
section
/-! DEFINITION. Operands (R110, R111, R147 to R155): registers of both classes, reads of ports, immediates, writes of results,
retirement, loops and branches, and the shared shape of an instruction that reaches no memory. -/

namespace Sys2Proof.Machine

open Sys2Proof

/-! ### Registers (R36, R111) -/

/-- A control register as the register cache holds it. -/
def Slot.vreg? (x : Slot) (n : Nat) : Option Dword := (x.vcache.find? (fun e => e.reg == n)).map (fun e => e.val)

/-- A source register of an instruction (R36, R111): through the window in a data task, banked in a control task. -/
def Slot.srcReg (x : Slot) (o : Ops) (c : BitVec 5) : Dword :=
  if x.ctl then (x.vreg? (vSrc o c)).getD 0 else x.areg c.toNat

/-- The register a destination code names, as it stands. -/
def Slot.dstReg (x : Slot) (o : Ops) (c : BitVec 5) : Dword :=
  if x.ctl then (x.vreg? (vDst o c)).getD 0 else x.areg c.toNat

/-- A destination register written (R36, R111). -/
def Slot.setReg (x : Slot) (o : Ops) (c : BitVec 5) (v : Dword) : Slot :=
  if x.ctl then
    let n := vDst o c
    { x with vcache := if x.vcache.any (fun e => e.reg == n)
               then x.vcache.map (fun e => if e.reg == n then ⟨n, v, true⟩ else e)
               else x.vcache ++ [⟨n, v, true⟩] }
  else { x with phys := x.phys.set ((x.wbase.toNat + c.toNat) % 64) v (Nat.mod_lt _ (by decide)) }

/-- The register code `k` above another. -/
def regUp (c : BitVec 5) (k : Nat) : BitVec 5 := c + BitVec.ofNat 5 k

/-- Whether a source register of a control task is in the cache. -/
def Slot.srcHeld (x : Slot) (o : Ops) (c : BitVec 5) : Bool := (x.vreg? (vSrc o c)).isSome

/-- Whether the register an operand names is in the cache (R36); other operands need no fill. -/
def Slot.opdHeld (x : Slot) (o : Ops) : Opd → Bool
  | .reg c => x.srcHeld o c
  | _ => true

/-- Whether a destination register can be written: held, or room for it in the cache. -/
def Slot.dstHeld (x : Slot) (o : Ops) : Opd → Bool
  | .reg c => (x.vreg? (vDst o c)).isSome || x.vcache.length < 32
  | _ => true

/-- Whether every register that an instruction names is where it must be (R36, R40). -/
def Slot.regsHeld (x : Slot) (o : Ops) : Bool :=
  !x.ctl || (x.opdHeld o o.a && x.opdHeld o o.b && x.opdHeld o o.c && x.dstHeld o o.d)

/-- Whether a group of registers from a code on is held (R243, R362). -/
def Slot.groupHeld (x : Slot) (o : Ops) (src : Bool) (c : BitVec 5) (n : Nat) : Bool :=
  !x.ctl || (List.range n).all (fun k =>
    if src then x.srcHeld o (regUp c k) else (x.vreg? (vDst o (regUp c k))).isSome)

/-- A group of source registers (R243, R362). -/
def Slot.srcGroup (x : Slot) (o : Ops) (c : BitVec 5) (n : Nat) : List Dword :=
  (List.range n).map (fun k => x.srcReg o (regUp c k))

/-- A group of destination registers written from a code on. -/
def Slot.setGroup (x : Slot) (o : Ops) (c : BitVec 5) : List Dword → Slot
  | [] => x
  | v :: vs => Slot.setGroup (x.setReg o c v) o (c + 1) vs

/-! ### Ports (R37 to R40, R149, R150) -/

/-- What reading an operand finds: a token, none yet, or a read beyond the declared count of a port. -/
inductive Rd where
  | got (t : Tok)
  | lack
  | over (port : Nat)
  deriving DecidableEq, Repr

/-- A marker counted as consumed (R39). -/
def Slot.countMark (x : Slot) : Kind → Slot
  | .mrk .seg => { x with mkSeg := x.mkSeg + 1 }
  | .mrk .row => { x with mkRow := x.mkRow + 1 }
  | .mrk .ten => { x with mkTen := x.mkTen + 1 }
  | _ => x

/-- A consuming read of a port (R39, R149). -/
def Slot.take (x : Slot) (k : BitVec 3) : Rd × Slot :=
  let p := x.ins[k.toNat]'k.isLt
  let bump (q : List Tok) (f : Nat) : Slot := { x with ins := x.ins.set k.toNat { p with taken := p.taken + 1, queue := q, freed := f } k.isLt }
  if p.rate ≤ p.taken then (.over k.toNat, bump p.queue p.freed)
  else match p.queue with
    | [] => (.lack, bump p.queue p.freed)
    | t :: q =>
      if t.kind = .mrk .drn then (.lack, bump p.queue p.freed)
      else (.got t, (bump q (p.freed + 1)).countMark t.kind)

/-- A non-consuming read of a port at a position (R149, R150). -/
def Slot.peekAt (x : Slot) (k : BitVec 3) (n : Nat) : Rd :=
  let p := x.ins[k.toNat]'k.isLt
  if p.rate - p.taken ≤ n then .over k.toNat
  else match p.queue[n]? with
    | none => .lack
    | some t => if t.kind = .mrk .drn then .lack else .got t

/-- The head token of a port, whatever its kind and count (R150: MKT and BMK). -/
def Slot.headTok (x : Slot) (k : BitVec 3) : Option Tok := (x.ins[k.toNat]'k.isLt).queue.head?

/-- The kind of the head token of the port that a peek operand names; none while the port is empty. -/
def Slot.headKind (x : Slot) : Opd → Option Kind
  | .alt k => (x.headTok k).map (fun t => t.kind)
  | _ => none

/-- Whether a token kind is the marker an operand names. -/
def kindIs (k : Kind) : Opd → Bool
  | .mrk m => k == .mrk m
  | _ => false

/-- The value of an operand constant (R152). -/
def constVal : Const → Dword
  | .zero => 0
  | .one => 1
  | .mone => -1

/-- A source operand read (R149): the sources that are not ports read as elements. -/
def Slot.readSrc (x : Slot) (o : Ops) : Opd → Rd × Slot
  | .reg c => (.got ⟨x.srcReg o c, .elem⟩, x)
  | .inp k => x.take k
  | .alt k => (x.peekAt k 0, x)
  | .con c => (.got ⟨constVal c, .elem⟩, x)
  | .cur _ => (.got ⟨0, .elem⟩, x)
  | .mrk _ => (.got ⟨0, .elem⟩, x)
  | .absent => (.got ⟨0, .elem⟩, x)

/-- Whether an operand is a port (R48, R154). -/
def isPort : Opd → Bool
  | .inp _ => true
  | .alt _ => true
  | _ => false

/-- What a port write finds (R39, R40, R225): room, no taker or a promised token before it, or a write beyond the
reservation. -/
inductive Wr where
  | room | lack | over (port : Nat)
  deriving DecidableEq, Repr

/-- A write of one token on an output port (R39, R40). -/
def Slot.outCheck (x : Slot) (k : BitVec 3) : Wr :=
  let p := x.outs[k.toNat]'k.isLt
  if p.rate ≤ p.sent then .over (8 + k.toNat)
  else if p.promised ≠ 0 then .lack
  else if p.cap = 0 && p.credit = 0 then .lack
  else .room

/-- The completion port of an engine command (R39, R40, R225): a token promised before it does not hold it back. -/
def Slot.cmdCheck (x : Slot) : Opd → Wr
  | .alt k =>
    let p := x.outs[k.toNat]'k.isLt
    if p.rate ≤ p.sent then .over (8 + k.toNat) else if p.cap = 0 && p.credit = 0 then .lack else .room
  | _ => .room

/-- What writing the destination of an instruction finds. -/
def Slot.dstCheck (x : Slot) : Opd → Wr
  | .alt k => x.outCheck k
  | _ => .room

/-- A token sent on an output port (R38, R151): it uses a reserved slot, or the taker of a zero-slot link. -/
def Slot.send (x : Slot) (k : BitVec 3) (t : Tok) : Slot :=
  let p := x.outs[k.toNat]'k.isLt
  let q : OutPort := { p with sent := p.sent + 1, reserved := p.reserved - 1,
                              credit := if p.cap = 0 then p.credit - 1 else p.credit, flight := p.flight ++ [t] }
  { x with outs := x.outs.set k.toNat q k.isLt }

/-- A token counted as produced and promised for later (R248): its reserved slot holds until it is sent. -/
def Slot.promise (x : Slot) (k : BitVec 3) : Slot :=
  let p := x.outs[k.toNat]'k.isLt
  let q : OutPort := { p with sent := p.sent + 1, reserved := p.reserved - 1,
                              credit := if p.cap = 0 then p.credit - 1 else p.credit, promised := p.promised + 1 }
  { x with outs := x.outs.set k.toNat q k.isLt }

/-- A promised token sent (R210, R248). -/
def Slot.keepPromise (x : Slot) (k : BitVec 3) (t : Tok) : Slot :=
  let p := x.outs[k.toNat]'k.isLt
  let q : OutPort := { p with promised := p.promised - 1, flight := p.flight ++ [t] }
  { x with outs := x.outs.set k.toNat q k.isLt }

/-- A result written to the destination (R48, R151, R183): an element to a register or a port; a marker to a port only. -/
def Slot.writeTok (x : Slot) (o : Ops) (t : Tok) : Slot :=
  match o.d with
  | .reg c => if t.kind = .elem then x.setReg o c t.val else x
  | .alt k => x.send k t
  | _ => x

/-- An element written to the destination. -/
def Slot.writeD (x : Slot) (o : Ops) (v : Dword) : Slot := x.writeTok o ⟨v, .elem⟩

/-! ### The operands of an instruction -/

/-- The operands an instruction has read; `pass` is the marker that every port operand held (R48). -/
structure Got where
  a    : Tok
  b    : Tok
  c    : Tok
  pass : Option Marker
  deriving DecidableEq, Repr

/-- The immediate of a form, sign-extended to 64 bits (R153, R223). -/
def immVal (o : Ops) : Dword :=
  match o.form with
  | .s => 0
  | .i => o.imm10.signExtend 64
  | .l => o.imm12.signExtend 64
  | .w => o.lit.signExtend 64

/-- B as the instruction word gives it when its field holds 63 (R153). -/
def bTok (o : Ops) (t : Tok) : Tok := if o.b = .absent then ⟨immVal o, .elem⟩ else t

/-- The tokens that the port operands read. -/
def portToks (o : Ops) (a b c : Tok) : List Tok :=
  (if isPort o.a then [a] else []) ++ (if isPort o.b then [b] else []) ++ (if isPort o.c then [c] else [])

/-- The markers of a list of tokens against R48 and R154: all of one kind pass in class P; any other presence of a marker is a
marker skew, in class O the entry decides. -/
def markRule (cls : MkClass) (ts : List Tok) : Except Stop (Option Marker) :=
  match cls with
  | .o => .ok none
  | .z => if ts.all (fun t => t.kind == .elem) then .ok none else .error (.flt { code := 0x31 })
  | .p =>
    match ts with
    | [] => .ok none
    | t :: _ =>
      if ts.all (fun t => t.kind == .elem) then .ok none
      else match t.kind with
        | .mrk m => if ts.all (fun u => u.kind == .mrk m) then .ok (some m) else .error (.flt { code := 0x31 })
        | .elem => .error (.flt { code := 0x31 })

/-- The rate violation of a port (R39, R264). -/
def rateFlt (port : Nat) : Stop := .flt { code := 0x30, info := BitVec.ofNat 64 port }

/-- The first operand read beyond its count. -/
def firstOver : List Rd → Option Nat
  | [] => none
  | .over p :: _ => some p
  | _ :: rs => firstOver rs

/-- The token of a read that found one. -/
def Rd.tok : Rd → Tok
  | .got t => t
  | _ => ⟨0, .elem⟩

/-- The operands of an instruction read in the order A, B, C, with the checks that come before the register fills (R40,
R265): tokens and room (`wr` is what its destination finds), rates, markers. -/
def Slot.readsWith (x : Slot) (o : Ops) (cls : MkClass) (wr : Wr) : Except Stop (Got × Slot) :=
  let ra := x.readSrc o o.a
  let rb := ra.2.readSrc o o.b
  let rc := rb.2.readSrc o o.c
  if ra.1 = .lack || rb.1 = .lack || rc.1 = .lack || wr = .lack then .error .wait
  else match firstOver [ra.1, rb.1, rc.1] with
    | some p => .error (rateFlt p)
    | none =>
      match wr with
      | .over p => .error (rateFlt p)
      | _ =>
        match markRule cls (portToks o ra.1.tok rb.1.tok rc.1.tok) with
        | .error e => .error e
        | .ok pass => .ok (⟨ra.1.tok, bTok o rb.1.tok, rc.1.tok, pass⟩, rc.2)

/-- The operands of an instruction that writes its destination when it retires. -/
def Slot.reads (x : Slot) (o : Ops) (cls : MkClass) : Except Stop (Got × Slot) := x.readsWith o cls (x.dstCheck o.d)

/-- The operands read, once every register the instruction names is where it must be; a control task waits for its register
fills (R36, R265). -/
def Slot.fetchWith (x : Slot) (o : Ops) (cls : MkClass) (wr : Wr) : Except Stop (Got × Slot) :=
  match x.readsWith o cls wr with
  | .error e => .error e
  | .ok r => if x.regsHeld o then .ok r else .error .wait

/-- The operands of an instruction that writes its destination when it retires, with its registers. -/
def Slot.fetch (x : Slot) (o : Ops) (cls : MkClass) : Except Stop (Got × Slot) := x.fetchWith o cls (x.dstCheck o.d)

/-- Whether the destination register of an instruction that also reads it is held (R173, R174). -/
def Slot.dstRead (x : Slot) (o : Ops) : Bool :=
  match o.d with
  | .reg c => !x.ctl || (x.vreg? (vDst o c)).isSome
  | _ => true

/-- The register that a source code names, written (R190). -/
def Slot.setSrcReg (x : Slot) (o : Ops) (c : BitVec 5) (v : Dword) : Slot :=
  if x.ctl then
    let n := vSrc o c
    { x with vcache := x.vcache.map (fun e => if e.reg == n then ⟨n, v, true⟩ else e) }
  else x.setReg o c v

/-! ### Retirement, loops and branches (R159, R162, R163) -/

/-- The loop test of R163 at address e, on the loop stack from its top. -/
def loopTest (e : BitVec 9) : List Loop → BitVec 9 → BitVec 6 → List Loop × BitVec 9 × BitVec 6
  | [], pc, wb => ([], pc, wb)
  | l :: ls, pc, wb =>
    if l.stop ≠ e then (l :: ls, pc, wb)
    else
      let wb := wb - l.rot.setWidth 6
      if l.rem - 1 ≠ 0 then ({ l with rem := l.rem - 1 } :: ls, l.start, wb)
      else loopTest e ls pc wb

/-- The words of a form as a step of the pc. -/
def formStep (o : Ops) : BitVec 9 :=
  match o.form with
  | .s => 1
  | .i => 1
  | .l => 2
  | .w => 3

/-- An instruction retired at the slot's pc: the next instruction, and the loop test (R163). -/
def Slot.retire (x : Slot) (o : Ops) : Slot :=
  let r := loopTest x.pc x.loops (x.pc + formStep o) x.wbase
  { x with loops := r.1, pc := r.2.1, wbase := r.2.2 }

/-- Whether an address lies within a loop's range (R163). -/
def Loop.within (l : Loop) (a : BitVec 9) : Bool := l.start ≤ a && a ≤ l.stop

/-- A branch taken to a target: loop entries whose range it leaves are popped, but none inside a called routine (R163). -/
def Slot.jump (x : Slot) (target : BitVec 9) : Slot :=
  { x with pc := target, loops := if x.calls.isEmpty then x.loops.dropWhile (fun l => !l.within target) else x.loops }

/-- The target of a branch with a signed offset (R159). -/
def Slot.target10 (x : Slot) (o : Ops) : BitVec 9 := x.pc + o.imm10.setWidth 9
def Slot.target12 (x : Slot) (o : Ops) : BitVec 9 := x.pc + o.imm12.setWidth 9

/-! ### The shared shape of an instruction -/

/-- Whether the slot in focus may issue (R40): in a firing, with no request waiting. -/
def State.canIssue (s : State) : Bool := s.slot.st == .firing && !s.slot.busy

/-- An instruction of the slot in focus that reaches no memory; it owes one unit of its energy class when it retires (R405). -/
def State.runSlot (s : State) (cls : Nat) (f : Slot → Except Stop Slot) : Host.Outcome State Fault Refusal :=
  if s.canIssue then
    match f s.slot with
    | .ok x => .next { s with slot := x.owe cls 1 }
    | .error e => .next (State.stopBy (e, s))
  else .next { s with stall := true }

/-- An instruction of the slot in focus that reads or changes more than its slot. -/
def State.run (s : State) (f : State → Res State) : Host.Outcome State Fault Refusal :=
  if s.canIssue then finish (f s) else .next { s with stall := true }

/-- A marker-passing arithmetic instruction (R48, R154 class P): the result of its operands, or the marker passed on. -/
def Slot.arith (o : Ops) (f : Got → Slot → Dword × Slot) (x : Slot) : Except Stop Slot :=
  match x.fetch o .p with
  | .error e => .error e
  | .ok (g, y) =>
    match g.pass with
    | some m => .ok ((y.writeTok o ⟨0, .mrk m⟩).retire o)
    | none =>
      let r := f g y
      .ok ((r.2.writeD o r.1).retire o)

/-- An arithmetic instruction issued: one unit of its energy class (R405). -/
def State.alu (s : State) (o : Ops) (cls : Nat) (f : Got → Slot → Dword × Slot) : Host.Outcome State Fault Refusal :=
  s.runSlot cls (Slot.arith o f)

/-- An instruction whose sources refuse markers (class Z) and which reaches no memory. -/
def Slot.plain (o : Ops) (f : Got → Slot → Except Stop Slot) (x : Slot) : Except Stop Slot :=
  match x.fetch o .z with
  | .error e => .error e
  | .ok (g, y) => f g y

/-- The operands of an instruction that reaches memory (class Z), with the state behind them. -/
def State.operandsWith (s : State) (o : Ops) (wr : Wr) : Res (Got × State) :=
  match s.slot.fetchWith o .z wr with
  | .error e => .error (e, s)
  | .ok (g, x) => .ok (g, { s with slot := x })

/-- The operands of an instruction that writes its destination when it retires, with the state behind them. -/
def State.operands (s : State) (o : Ops) : Res (Got × State) := s.operandsWith o (s.slot.dstCheck o.d)

/-- A fault met by an instruction after its operands: the state goes back to the one it issued in (R151), but for what the
translation of its access left in the TLBs, the page tables and the caches, what the caches have to report, and the answers of other
packages that stand. -/
def faultAt (s s' : State) (f : Flt) : Stop × State :=
  (.flt f, { s with hvReplies := s'.hvReplies,
                    mem := { s.mem with mtTlb := s'.mem.mtTlb, dieTlb := s'.mem.dieTlb, l1 := s'.mem.l1, l2 := s'.mem.l2, hbm := s'.mem.hbm,
                                        badLine := s'.mem.badLine, notes := s'.mem.notes } })

/-- The slot in focus writes its destination and retires, with `n` units of an energy class (R151, R405). -/
def State.done (s : State) (o : Ops) (v : Option Dword) (cls n : Nat) : State :=
  let x := match v with
    | some v => s.slot.writeD o v
    | none => s.slot
  { s with slot := (x.retire o).owe cls n }

end Sys2Proof.Machine
end

