-- ==== Sys2Proof/Machine/Flags.lean ====
section
/-! DEFINITION. The arithmetic registers of a slot (R136 to R143): rounding mode, sticky flags, %amax and the generator, and
the results that set them: integer, floating-point and converted values with their saturation (R134, R135, R169, R176). -/

namespace Sys2Proof.Machine

open Sys2Proof

/-! ### The registers of R139 to R141 -/

/-- The rounding mode of an instruction (R113, R130). -/
def Slot.rm (x : Slot) (o : Ops) : Nat := if o.rm = 0 then x.rmode.toNat else o.rm.toNat

/-- What arithmetic reads and changes of a slot (R143). -/
def Slot.ar (x : Slot) : Ar := ⟨x.rng, x.fsticky⟩

/-- The generator and the sticky flags that arithmetic leaves (R143). -/
def Slot.setAr (x : Slot) (a : Ar) : Slot := { x with rng := a.rng, fsticky := a.sticky }

/-- `amax_upd` (R141): NANSEEN in bit 32, the binary32 maximum of |x|, rounded up, in bits 31 to 0. -/
def amaxUpd (m : BitVec 33) (v : FV) : BitVec 33 :=
  match v with
  | .nan => m ||| 0x100000000
  | v =>
    let n := encF 2 (rndF 2 4 v.abs ⟨1, 0⟩).1
    if (m.extractLsb' 0 32).toNat < n then (m &&& 0x100000000) ||| BitVec.ofNat 33 n else m

/-- %amax updated by an operand when F[0] asks for it (R141, R179). -/
def Slot.amaxIf (x : Slot) (o : Ops) (v : FV) : Slot :=
  if o.f.getLsbD 0 then { x with amax := amaxUpd x.amax v } else x

/-! ### Integer results (R168, R169) -/

/-- The integer type of an instruction, i64 by default (R168). -/
def intT (o : Ops) : Nat := if o.t = 0 then 11 else o.t.toNat

/-- The result y of the integer mould (R169): clamped with SAT, else wrapped. -/
def Slot.intRes (x : Slot) (o : Ops) (y : Int) : Dword × Slot :=
  if o.sat then
    let r := satI (intT o) y x.ar
    (putI (intT o) r.1, x.setAr r.2)
  else (putI (intT o) y, x)

/-- An integer instruction of the two operands A and B (R169). -/
def intOp (o : Ops) (f : Int → Int → Int) (g : Got) (x : Slot) : Dword × Slot :=
  x.intRes o (f (valI (intT o) g.a.val) (valI (intT o) g.b.val))

/-- The low w bits of a value as a number (R169: bitwise operations and shifts). -/
def low (t : Nat) (v : Dword) : Nat := v.toNat % 2 ^ tWidth t

/-- An integer instruction formed on the w-bit patterns of A and B (R169, R171). -/
def patOp (o : Ops) (f : Nat → Nat → Nat) (g : Got) (x : Slot) : Dword × Slot :=
  (putBits (intT o) (f (low (intT o) g.a.val) (low (intT o) g.b.val)), x)

/-- A shift (R171): the pattern of A and the count B[6:0]. -/
def shiftOp (o : Ops) (f : Nat → Nat → Nat) (g : Got) (x : Slot) : Dword × Slot :=
  (putBits (intT o) (f (low (intT o) g.a.val) (g.b.val.toNat % 128)), x)

/-- The condition F selects, for values that are not NaN (R172, R178). -/
def condHolds (f : BitVec 4) (lt eq : Bool) : Bool :=
  match f.toNat with
  | 0 => eq
  | 1 => !eq
  | 2 => lt
  | 3 => lt || eq
  | 4 => !lt && !eq
  | 5 => !lt
  | 7 => true
  | _ => false

/-! ### Floating-point results (R175, R176) -/

/-- The float type of an instruction, f32 by default (R175). -/
def fltT (o : Ops) : Nat := if o.t = 0 then 2 else o.t.toNat

/-- The energy class of a floating-point instruction (R405). -/
def fltCls (o : Ops) : Nat := if fltT o = 1 then 2 else 1

/-- An exact result rounded, and saturated with SAT, into a float type (R176); none is an invalid one. -/
def Slot.fltRes (x : Slot) (o : Ops) (t : Nat) (v : Option FV) : Dword × Slot :=
  let (v, a) := match v with
    | none => (.nan, x.ar.set fNV)
    | some v => rndF t (x.rm o) v x.ar
  let (v, a) := if o.sat then satF t v a else (v, a)
  (putBits t (encF t v), x.setAr a)

/-- A value written in a float type without a flag (R177). -/
def fltExactRes (t : Nat) (v : FV) : Dword := putBits t (encF t v)

/-- The value an operand holds in the instruction's float type. -/
def fltVal (o : Ops) (t : Tok) : FV := decF (fltT o) t.val.toNat

/-- A floating-point instruction of A and B (R176). -/
def fltOp (o : Ops) (f : Nat → FV → FV → Option FV) (g : Got) (x : Slot) : Dword × Slot :=
  x.fltRes o (fltT o) (f (x.rm o) (fltVal o g.a) (fltVal o g.b))

/-! ### Conversions (R135, R179) -/

/-- The source type of a conversion, f32 by default (R179). -/
def srcT (o : Ops) : Nat := if o.imm12.toNat % 32 = 0 then 2 else o.imm12.toNat % 32

/-- The value that a type code and a 64-bit value hold, exactly (R152). -/
def anyVal (t : Nat) (v : Dword) : FV := if tIsFlt t then decF t v.toNat else FV.ofInt (valI t v)

/-- Whether R135 calls a conversion between float types exact: to the same type, to a wider IEEE format, or from a narrow float
to an IEEE format or bf16. One to a narrow format is rounded whatever its source, so that it draws under rst. -/
def widens (s t : Nat) : Bool := tIsFlt s && t < 5 && (s == t || 5 ≤ s || tWidth s < tWidth t)

/-- A conversion to a float type (R135). -/
def Slot.toFlt (x : Slot) (o : Ops) (t : Nat) (v : Dword) : Dword × Slot :=
  if widens (srcT o) t then (fltExactRes t (decF (srcT o) v.toNat), x)
  else x.fltRes o t (some (anyVal (srcT o) v))

/-- A conversion to an integer type (R135). -/
def Slot.toInt (x : Slot) (o : Ops) (t : Nat) (v : Dword) : Dword × Slot :=
  let s := srcT o
  if s = t then (putI t (valI t v), x)
  else if tIsFlt s then
    let r := rndI t (x.rm o) (decF s v.toNat) x.ar
    (putI t r.1, x.setAr r.2)
  else if tWidth s < tWidth t || !o.sat then (putI t (valI s v), x)
  else
    let r := satI t (valI s v) x.ar
    (putI t r.1, x.setAr r.2)

/-! ### Special functions (R180, R181) -/

/-- A special function of an operand that is not NaN: none for an invalid operand. -/
abbrev SpecialFn := Nat → FV → Option FV

/-- 1/a (R181). -/
def fnRcp (t : Nat) : FV → Option FV
  | .nan => some .nan
  | .inf n => some (.fin n 0 0)
  | .fin n m e => some (if m = 0 then .inf n else rcpV t n m e)

/-- 1/√a (R181). -/
def fnRsq (t : Nat) : FV → Option FV
  | .nan => some .nan
  | .inf n => if n then none else some (.fin false 0 0)
  | .fin n m e => if m = 0 then some (.inf n) else if n then none else some (rsqV t m e)

/-- √a (R181). -/
def fnSqrt (t : Nat) : FV → Option FV
  | .nan => some .nan
  | .inf n => if n then none else some (.inf false)
  | .fin n m e => if m = 0 then some (.fin n 0 0) else if n then none else some (sqrtV t m e)

/-- 2^a (R181). -/
def fnEx2 (t : Nat) : FV → Option FV
  | .nan => some .nan
  | .inf n => some (if n then .fin false 0 0 else .inf false)
  | .fin n m e => some (if m = 0 then .fin false 1 0 else ex2V t n m e)

/-- log2 a (R181). -/
def fnLg2 (t : Nat) : FV → Option FV
  | .nan => some .nan
  | .inf n => if n then none else some (.inf false)
  | .fin n m e => if m = 0 then some (.inf true) else if n then none else some (lg2V t m e)

/-- sin(π·a) (R181). -/
def fnSinp (t : Nat) : FV → Option FV
  | .nan => some .nan
  | .inf _ => none
  | .fin n m e => some (if m = 0 then .fin n 0 0 else sinPiV t n m e)

/-- cos(π·a) (R181). -/
def fnCosp (t : Nat) : FV → Option FV
  | .nan => some .nan
  | .inf _ => none
  | .fin _ m e => some (if m = 0 then .fin false 1 0 else cosPiV t m e)

/-- tanh a (R181). -/
def fnTnh (t : Nat) : FV → Option FV
  | .nan => some .nan
  | .inf n => some (.fin n 1 0)
  | .fin n m e => some (if m = 0 then .fin n 0 0 else tanhV t n m e)

/-- A special function issued on A (R176, R180). -/
def specialOp (o : Ops) (f : SpecialFn) (g : Got) (x : Slot) : Dword × Slot :=
  x.fltRes o (fltT o) (f (fltT o) (fltVal o g.a))

end Sys2Proof.Machine
end

