-- ==== Sys2Proof/Machine/Access.lean ====
section
/-! DEFINITION. The shared shape of the memory instructions (R222 to R227, R265): effective addresses, the checks of an access
in their order, requests that wait (R204, R208, R257), and reads and writes at the place that serves them (R207). -/

namespace Sys2Proof.Machine

open Sys2Proof

/-- A fault with the state behind it (what its translations left). -/
abbrev Acc (α : Type) := Except (Flt × State) α

/-- The effective address (R223): the base and the displacement of the form. -/
def eaOf (o : Ops) (g : Got) : Dword := g.a.val + immVal o

/-- The type an instruction names, or its default (R224). -/
def memT (o : Ops) (dflt : Nat) : Nat := if o.t = 0 then dflt else o.t.toNat

/-- The bytes of a type (R224). -/
def wBytes (t : Nat) : Nat := tWidth t / 8

/-- Whether an instruction addresses scratchpad (R223). -/
def isSp (o : Ops) : Bool := o.f.getLsbD 0

/-- Where an access goes: a byte of a unit's scratchpad, a physical address, or another package (R200, R258, R420). -/
inductive Loc where
  | sp (u off : Nat)
  | mem (pa : Nat)
  | remote (pkg ctx rva : Nat)
  deriving DecidableEq, Repr

/-- The alignment test (R224). -/
def aligned (s : State) (ea : Dword) (w : Nat) : Acc Unit :=
  if w ≠ 0 && ea.toNat % w ≠ 0 then .error ({ code := 0x20, addr := ea }, s) else .ok ()

/-- A scratchpad access of the slot in focus (R200, R222). -/
def State.locateSp (s : State) (ea : Dword) (w : Nat) : Acc (Nat × Nat) :=
  match spRange s s.slot.prt s.slotUnit ea w with
  | .error f => .error (f, s)
  | .ok r => .ok r

/-- The translation of a virtual address of the slot in focus, with the page-kind and permission tests (R202, R226, R261,
R420). -/
def State.locateVa (s : State) (ea : Dword) (kind : PageKind) (r w : Bool) : Acc (State × Loc) :=
  match hvTarget (s.ctx s.slotCtx) ea.toNat with
  | some (p, c, a) => .ok (s, .remote p c a)
  | none =>
    match translate s s.slotUnit s.slotCtx ea.toNat with
    | .error f => .error (f, s)
    | .ok (s', t) =>
      match permitPage t ea.toNat kind r w with
      | .error f => .error (f, s')
      | .ok _ => .ok (s', .mem t.pa)

/-- An access of `w` bytes located, its checks made in the order of R265. -/
def State.locate (s : State) (o : Ops) (ea : Dword) (w : Nat) (kind : PageKind) (r wr : Bool) : Acc (State × Loc) :=
  match aligned s ea w with
  | .error e => .error e
  | .ok _ =>
    if isSp o then
      match s.locateSp ea w with
      | .error e => .error e
      | .ok (u, off) => .ok (s, .sp u off)
    else s.locateVa ea kind r wr

/-- A memory-error fault (R229, R231, R233, R244). -/
def memError (ea : Dword) (s : State) : Flt × State := ({ code := 0x25, addr := ea }, s)

/-- An instruction that reaches memory: its operands, then its effect; a fault leaves the state it issued in (R151). -/
def State.memoryWith (s : State) (o : Ops) (wr : Wr) (f : Got → State → Acc State) : Res State :=
  match s.operandsWith o wr with
  | .error e => .error e
  | .ok (g, t) =>
    match f g t with
    | .error (flt, t') => .error (faultAt s t' flt)
    | .ok t' => .ok t'

/-- An instruction that reaches memory and writes its destination when it retires. -/
def State.memory (s : State) (o : Ops) (f : Got → State → Acc State) : Res State := s.memoryWith o (s.slot.dstCheck o.d) f

/-! ### Requests that wait (R204, R208, R257) -/

/-- The bank of a request: its unit and bits [7:3] of its offset (R200). -/
def Waiter.bank (x : Waiter) : Nat × Nat := (x.unit, x.addr / 8 % 32)

/-- Whether two requests wait at one place with a list of its own: a scratchpad bank, or the base die of a stack. A ring request is on
no such list, so that any number may wait (the model's choice, log entry 21). -/
def Waiter.sameList (x y : Waiter) : Bool :=
  match x.what, y.what with
  | .ldp, .ldp => x.addr / 2 ^ 36 == y.addr / 2 ^ 36
  | .ldw, .ldw => x.bank == y.bank
  | .ldw, .ldc => x.bank == y.bank
  | .ldw, .ste => x.bank == y.bank
  | .ldc, .ldw => x.bank == y.bank
  | .ldc, .ldc => x.bank == y.bank
  | .ldc, .ste => x.bank == y.bank
  | .ste, .ldw => x.bank == y.bank
  | .ste, .ldc => x.bank == y.bank
  | .ste, .ste => x.bank == y.bank
  | _, _ => false

/-- The requests a place may hold: 64 at a bank (R208), 8,192 at a base die (R204). -/
def Waiter.limit (x : Waiter) : Nat := if x.what = .ldp then 8192 else 64

/-- Whether the place of a request has room for it. -/
def Mem.hasRoom (m : Mem) (x : Waiter) : Bool :=
  (m.waits.filter (fun y => y.sameList x && y.refused == none && y.done == none)).length < x.limit

/-- The tokens that an instruction consumed at each input port, between the state it issued in and the slot behind its
operands. -/
def Slot.tookFrom (x y : Slot) : List (List Tok) :=
  List.ofFn (fun k : Fin 8 => x.ins[k].queue.take (y.ins[k].taken - x.ins[k].taken))

/-- A request of the slot of state `s` held at its place, or refused with the first backoff of R204; the slot is not ready
while it waits, and nothing of its instruction has happened but that its data sources are consumed (R225, R257). -/
def State.await (s t : State) (o : Ops) (what : WaitKind) (u addr w : Nat) (ea : Dword) (data : List Dword) : State :=
  let x : Waiter := { place := s.slot.place, op := o, what := what, unit := u, addr := addr, width := w, data := data, ea := ea,
                      took := s.slot.tookFrom t.slot, refused := none, done := none, err := false }
  let x := if t.mem.hasRoom x then x else { x with refused := some 64 }
  { t with slot := { t.slot with busy := true }, mem := { t.mem with waits := t.mem.waits ++ [x] } }

/-- An access sent to a context of another package (R420): `n` values come back, read in the type code `ty`, 0 for whole
values. -/
def State.awaitRemote (s t : State) (o : Ops) (n pkg ctx a : Nat) (ty : Nat) (ea : Dword) (data : List Dword) : State :=
  s.await t o (.remote (n == 0) pkg ctx) 0 a n ea (BitVec.ofNat 64 ty :: data)

/-! ### Reads and writes at the place that serves them (R206, R207, R229) -/

/-- The value of type t in `n` bytes as a destination receives it (R152). -/
def loaded (t : Nat) (v : Nat) : Dword := putBits t v

/-- A scratchpad read: the raw value, or a memory-error fault. -/
def State.spRead (s : State) (u off w : Nat) (ea : Dword) : Acc Nat :=
  if s.mem.spBad u off w then .error (memError ea s) else .ok (s.mem.spGet u off w)

/-- A virtual read of MU memory through the issuing unit's L1. -/
def State.muRead (s : State) (pa w : Nat) (ea : Dword) : Acc (State × Nat) :=
  let r := s.mem.l1Read s.slotUnit s.slotCtx pa w
  let t : State := { s with mem := r.1 }
  if r.2.2 then .error (memError ea t) else .ok (t.l1Settle s.slotUnit s.slotCtx, r.2.1)

/-- A virtual write of MU memory through the issuing unit's L1. -/
def State.muWrite (s : State) (pa : Nat) (bs : List Byte) : State :=
  let t : State := { s with mem := s.mem.l1Write s.slotUnit s.slotCtx pa bs }
  t.l1Settle s.slotUnit s.slotCtx

/-- A scratchpad write: part of a poisoned word cannot be written (R229). -/
def State.spWrite (s : State) (u off : Nat) (bs : List Byte) (ea : Dword) : Acc State :=
  if bs.length % 4 ≠ 0 && s.mem.spBad u off bs.length then .error (memError ea s)
  else .ok { s with mem := s.mem.spPut u off bs }

/-- The next free value (log entry 2). -/
def State.free (s : State) : Dword × State := (Config.freeDword s.freeCount, { s with freeCount := s.freeCount + 1 })

/-! ### The end of a waiting request (R207, R227) -/

/-- A granule read by the slot in focus (R221). -/
def State.crossEdge (s : State) (pa : Nat) : State := s.crossPart (s.part s.slot.prt) pa

/-- A performed request brought to its slot: the destination is written, and the instruction retires; its data sources were
consumed when it issued (R225). -/
def State.finishWait (s : State) (x : Waiter) (vs : List Dword) (cls : Nat) : State :=
  let s := s.focus x.place
  let s := { s with mem := { s.mem with waits := s.mem.waits.filter (fun y => y.place != x.place) },
                    slot := { s.slot with busy := false } }
  let t := if x.what = .ldp then s.crossEdge x.addr else s
  match vs with
  | [] => t.done x.op none cls 1
  | [v] => t.done x.op (some v) cls 1
  | v :: vs => { t with slot := ((match x.op.d with
      | .reg c => t.slot.setGroup x.op c (v :: vs)
      | _ => t.slot.writeD x.op v).retire x.op).owe cls 1 }

end Sys2Proof.Machine
end

