-- ==== Sys2Proof/Machine/Rings.lean ====
section
/-! DEFINITION. Ring slots (R251 to R255): handles, the side array and the ring controls of a memory tile, and RSACQ, RSPUB,
RSTAKE and RSREL with their waiting requests. -/

namespace Sys2Proof.Machine

open Sys2Proof

/-! ### Handles (R251) -/

/-- The slots of a ring. -/
def hNslot (h : Dword) : Nat := bits h.toNat 47 40
/-- The lines of a slot. -/
def hLines (h : Dword) : Nat := 2 ^ bits h.toNat 39 37
/-- The consumers of a ring. -/
def hConsumers (h : Dword) : Nat := bits h.toNat 36 35 + 1
/-- The first line of slot 0. -/
def hBase (h : Dword) : Nat := bits h.toNat 20 7
/-- The ring number. -/
def hRing (h : Dword) : Nat := bits h.toNat 6 4
/-- The first line of slot i. -/
def hLine (h : Dword) (i : Nat) : Nat := hBase h + i * hLines h
/-- The geometry that a ring latches: the handle without the bits that name its MT. -/
def hGeometry (h : Dword) : Dword := h &&& ~~~(0x1FFE00000 : Dword)

/-- The scratchpad address of the first byte of a ring's slot 0 as its handle names it. -/
def hAddr (h : Dword) : Dword := BitVec.ofNat 64 (bits h.toNat 32 21 * 2 ^ 21 + 128 * hBase h)

/-- A ring-descriptor fault (R255). -/
def ringBad (h : Dword) (s : State) : Flt × State := ({ code := 0x26, info := h }, s)
/-- A ring-protocol fault (R255). -/
def ringProt (b h : Dword) (s : State) : Flt × State := ({ code := 0x27, addr := b, info := h }, s)

/-- Whether a handle's fields are of a legal form (R251). -/
def hLegal (h : Dword) : Bool := bits h.toNat 63 48 == 0 && bits h.toNat 34 33 == 0 && bits h.toNat 3 0 == 0 && hNslot h != 0

/-- Whether two rings share a line (R255). -/
def hOverlap (h h' : Dword) : Bool :=
  hBase h < hBase h' + hNslot h' * hLines h' && hBase h' < hBase h + hNslot h * hLines h

/-- Whether a handle fits the geometries that an MT has latched (R255). -/
def Mt.ringFits (m : Mt) (h : Dword) : Bool :=
  m.rings.all (fun r => match r.2.handle with
    | none => true
    | some h' => if r.1 == hRing h then hGeometry h == hGeometry h' else !hOverlap h h')

/-- The unit of a ring that a handle names for a task of unit `home`, with every test of R255 on the handle. -/
def ringUnit (s : State) (p home : Nat) (h : Dword) : Acc Nat :=
  if !hLegal h then .error (ringBad h s)
  else match spResolve s p home (hAddr h).toNat with
    | none => .error ({ code := 0x21, addr := hAddr h }, s)
    | some (u, off) =>
      if spSize s u < off + 128 * (hNslot h * hLines h) then .error ({ code := 0x21, addr := hAddr h }, s)
      else if !(s.mt u).ringFits h then .error (ringBad h s)
      else .ok u

/-- The handle latched at the ring's first use in the forme (R252). -/
def Mt.latch (m : Mt) (h : Dword) : Mt :=
  let r := tget {} m.rings (hRing h)
  { m with rings := tput {} m.rings (hRing h) { r with handle := some (r.handle.getD h) } }

/-- The address of slot i as RSACQ and RSTAKE return it (R251): HOME = 0 and the image die and tile of the MT. -/
def slotAddr (s : State) (p u : Nat) (h : Dword) (i : Nat) : Dword :=
  let mt := if bit h.toNat 32
    then match (s.part p).imageOf (dieOf u) (mtTile u) with
      | some (d, t) => d * 512 + t
      | none => 0
    else bits h.toNat 31 21
  BitVec.ofNat 64 (mt * 2 ^ 21 + 128 * hLine h i)

/-! ### The steps of R254 -/

/-- The control of a ring. -/
def Mt.ring (m : Mt) (h : Dword) : RingCtl := tget {} m.rings (hRing h)
/-- The side entry of slot i of a ring. -/
def Mt.sideOf (m : Mt) (h : Dword) (i : Nat) : SideLine := tget {} m.side (hLine h i)

/-- Whether an RSACQ is satisfied. -/
def Mt.canAcquire (m : Mt) (h : Dword) : Bool := (m.sideOf h ((m.ring h).next.toNat % hNslot h)).st == .empty

/-- RSACQ performed: the MT and the slot acquired. -/
def Mt.acquire (m : Mt) (h : Dword) : Mt × Nat :=
  let r := m.ring h
  let i := r.next.toNat % hNslot h
  ({ m with side := tput {} m.side (hLine h i) ⟨.filling, hRing h, r.next⟩,
            rings := tput {} m.rings (hRing h) { r with next := r.next + 1 } }, i)

/-- Cursor k of a ring. -/
def RingCtl.curAt (r : RingCtl) (k : Nat) : Word := if h : k < 4 then r.cur[k] else 0
/-- The taken bit of consumer k. -/
def RingCtl.takenAt (r : RingCtl) (k : Nat) : Bool := if h : k < 4 then r.taken[k] else false

/-- Whether an RSTAKE of consumer k is satisfied. -/
def Mt.canTake (m : Mt) (h : Dword) (k : Nat) : Bool :=
  let c := (m.ring h).curAt k
  let x := m.sideOf h (c.toNat % hNslot h)
  x.seq == c && (x.st == .full || x.st == .draining)

/-- RSTAKE performed. -/
def Mt.takeSlot (m : Mt) (h : Dword) (k : Nat) : Mt × Nat :=
  let r := m.ring h
  let i := (r.curAt k).toNat % hNslot h
  let x := m.sideOf h i
  ({ m with side := tput {} m.side (hLine h i) { x with st := .draining },
            rings := tput {} m.rings (hRing h) { r with taken := if hk : k < 4 then r.taken.set k true hk else r.taken } }, i)

/-- Whether a cursor has passed a sequence number (R252). -/
def passed (cur s : Word) : Bool := let d := (cur - s).toNat; 1 ≤ d && d ≤ 2 ^ 31

/-- RSREL performed. -/
def Mt.release (m : Mt) (h : Dword) (k : Nat) : Mt :=
  let r := m.ring h
  let q := r.curAt k
  let r := { r with taken := if hk : k < 4 then r.taken.set k false hk else r.taken,
                    cur := if hk : k < 4 then r.cur.set k (q + 1) hk else r.cur }
  let i := q.toNat % hNslot h
  let side := if (List.range (hConsumers h)).all (fun j => passed (r.curAt j) q)
    then tput {} m.side (hLine h i) { m.sideOf h i with st := .empty } else m.side
  { m with side := side, rings := tput {} m.rings (hRing h) r }

/-- The slot of a ring whose first byte stands at an offset and which is being filled (R255, R256). -/
def Mt.fillingAt (m : Mt) (h : Dword) (off : Nat) : Option Nat :=
  (List.range (hNslot h)).find? (fun i => 128 * hLine h i == off && (m.sideOf h i).st == .filling)

/-- RSPUB performed on slot i. -/
def Mt.publish (m : Mt) (h : Dword) (i : Nat) : Mt :=
  { m with side := tput {} m.side (hLine h i) { m.sideOf h i with st := .full } }

/-! ### Waiting ring requests (R208, R254) -/

/-- A waiting ring request of unit u performed when it is satisfied. -/
def ringStep (s : State) (x : Waiter) : Option (State × Dword) :=
  let h := x.data.getD 0 0
  let m := s.mt x.unit
  match x.what with
  | .rsacq =>
    if m.canAcquire h then
      let (m, i) := m.acquire h
      some (s.setMt x.unit m, slotAddr s x.addr x.unit h i)
    else none
  | .rstake k =>
    if m.canTake h k && !(m.ring h).takenAt k then
      let (m, i) := m.takeSlot h k
      some (s.setMt x.unit m, slotAddr s x.addr x.unit h i)
    else none
  | _ => none

/-- The first satisfied ring request in arrival order, performed. -/
def serveRing (s : State) (done : List Waiter) : List Waiter → Option State
  | [] => none
  | x :: xs =>
    match (if x.done = none && x.refused = none then ringStep s x else none) with
    | some (s', a) => some { s' with mem := { s'.mem with waits := done ++ ({ x with done := some [a] } :: xs) } }
    | none => serveRing s (done ++ [x]) xs

/-- The ring requests served as long as any is satisfied (R208). -/
def State.serveRings (s : State) : Nat → State
  | 0 => s
  | n + 1 =>
    match serveRing s [] s.mem.waits with
    | none => s
    | some s' => s'.serveRings n

/-- An MT replaced after a ring step, and its waiters served. -/
def State.ringSet (s : State) (u : Nat) (m : Mt) : State := (s.setMt u m).serveRings s.mem.waits.length

/-! ### The instructions (R253, R254) -/

/-- The consumer an instruction names. -/
def consumerOf (o : Ops) : Nat := o.f.toNat % 4

/-- RSACQ of R254. -/
def rsacqOp (o : Ops) (s : State) : Res State :=
  s.memory o (fun g t =>
    let h := g.a.val
    match ringUnit t t.slot.prt t.slotUnit h with
    | .error e => .error e
    | .ok u =>
      let m := (t.mt u).latch h
      if m.canAcquire h then
        let r := m.acquire h
        .ok ((t.setMt u r.1).done o (some (slotAddr t t.slot.prt u h r.2)) 4 1)
      else .ok (s.await (t.setMt u m) o .rsacq u t.slot.prt 0 0 [h]))

/-- RSPUB of R254. -/
def rspubOp (o : Ops) (s : State) : Res State :=
  s.memory o (fun g t =>
    let h := g.a.val
    match ringUnit t t.slot.prt t.slotUnit h with
    | .error e => .error e
    | .ok u =>
      let m := (t.mt u).latch h
      match spResolve t t.slot.prt t.slotUnit g.b.val.toNat with
      | none => .error (ringProt g.b.val h t)
      | some (v, off) =>
        match (if v = u then m.fillingAt h off else none) with
        | none => .error (ringProt g.b.val h t)
        | some i => .ok ((t.ringSet u (m.publish h i)).done o none 4 1))

/-- RSTAKE of R254. -/
def rstakeOp (o : Ops) (s : State) : Res State :=
  s.memory o (fun g t =>
    let h := g.a.val
    let k := consumerOf o
    match ringUnit t t.slot.prt t.slotUnit h with
    | .error e => .error e
    | .ok u =>
      let m := (t.mt u).latch h
      if hConsumers h ≤ k || (m.ring h).takenAt k then .error (ringProt 0 h t)
      else if m.canTake h k then
        let r := m.takeSlot h k
        .ok ((t.setMt u r.1).done o (some (slotAddr t t.slot.prt u h r.2)) 4 1)
      else .ok (s.await (t.setMt u m) o (.rstake k) u t.slot.prt 0 0 [h]))

/-- RSREL of R254. -/
def rsrelOp (o : Ops) (s : State) : Res State :=
  s.memory o (fun g t =>
    let h := g.a.val
    let k := consumerOf o
    match ringUnit t t.slot.prt t.slotUnit h with
    | .error e => .error e
    | .ok u =>
      let m := (t.mt u).latch h
      if hConsumers h ≤ k || !(m.ring h).takenAt k then .error (ringProt 0 h t)
      else .ok ((t.ringSet u (m.release h k)).done o none 4 1))

/-- RSACQ (R254). -/
def execRsacq (o : Ops) (s : State) : Host.Outcome State Fault Refusal := s.run (rsacqOp o)
/-- RSPUB (R254). -/
def execRspub (o : Ops) (s : State) : Host.Outcome State Fault Refusal := s.run (rspubOp o)
/-- RSTAKE (R254). -/
def execRstake (o : Ops) (s : State) : Host.Outcome State Fault Refusal := s.run (rstakeOp o)
/-- RSREL (R254). -/
def execRsrel (o : Ops) (s : State) : Host.Outcome State Fault Refusal := s.run (rsrelOp o)

end Sys2Proof.Machine
end

