-- ==== Sys2Proof/Machine/Commands.lean ====
section
/-! DEFINITION. Engine commands (R210, R225, R248): how an instruction hands one over, and how one completes. -/

namespace Sys2Proof.Machine

open Sys2Proof

/-- The completion port that D names. -/
def portOf : Opd → Option (BitVec 3)
  | .alt k => some k
  | _ => none

/-- An engine command handed over by the slot in focus (R248): its completion token counts as produced and is promised, and
the instruction retires. -/
def State.command (s : State) (o : Ops) (kind : CmdKind) (block : List Dword) : State :=
  let c : Cmd := { id := s.nextCmd, place := s.slot.place, prt := s.slot.prt, unit := s.slotUnit, port := portOf o.d,
                   pc := s.slot.pc, kind := kind, block := block }
  let x := match portOf o.d with
    | some k => s.slot.promise k
    | none => s.slot
  { s with cmds := s.cmds ++ [c], nextCmd := s.nextCmd + 1, slot := (x.retire o).owe 0 1 }

/-- Whether a command owes its token to a port of a slot. -/
def Cmd.owes (c : Cmd) (place : Coord) (k : BitVec 3) : Bool := c.place == place && c.port == some k

/-- The tokens of performed commands sent on a port in the order of issue, up to a command not yet performed (R225); a command
whose token is sent leaves the list. -/
def State.sendDone (s : State) (place : Coord) (k : BitVec 3) : Nat → State
  | 0 => s
  | n + 1 =>
    match s.cmds.find? (fun c => c.owes place k) with
    | none => s
    | some c =>
      match c.done with
      | none => s
      | some v =>
        let t : State := { s with cmds := s.cmds.filter (fun x => x.id != c.id) }
        (t.updSlot place (fun x => x.keepPromise k ⟨v, .elem⟩)).sendDone place k n

/-- A command completed (R210): its completion token is sent, after those promised before it, and it leaves the list. -/
def State.complete (s : State) (c : Cmd) (v : Dword) : State :=
  match c.port with
  | none => { s with cmds := s.cmds.filter (fun x => x.id != c.id) }
  | some k =>
    let t : State := { s with cmds := s.cmds.map (fun x => if x.id == c.id then { x with done := some v } else x) }
    t.sendDone c.place k t.cmds.length

/-- A command that completes when it issues: nothing is left for its engine, and its token leaves after those promised
before. -/
def State.commandNow (s : State) (o : Ops) (kind : CmdKind) (v : Dword) : State :=
  match portOf o.d with
  | none => { s with slot := (s.slot.retire o).owe 0 1 }
  | some _ =>
    let t := s.command o kind []
    match t.cmds.find? (fun c => c.id == s.nextCmd) with
    | none => t
    | some c => t.complete c v

/-- The context of a command. -/
def State.cmdCtx (s : State) (c : Cmd) : Nat := (s.part c.prt).ctx

/-- A completed command charged `n` units of a class of R405. -/
def State.chargeCmd (s : State) (c : Cmd) (cls n : Nat) : State := s.charge (s.cmdCtx c) cls n

/-- A range of the scratchpad of a command (R222), resolved again when the engine performs it. -/
def State.cmdSp (s : State) (c : Cmd) (a : Dword) (n : Nat) : Except EErr (Nat × Nat) :=
  match spRange s c.prt c.unit a n with
  | .error f => .error (.flt f)
  | .ok r => .ok r

/-- Bytes of a scratchpad range with their poison (R277). -/
def Mem.spBytes (m : Mem) (u off n : Nat) : List Byte × List Bool :=
  (readBytes m.sram (spAddr u off) n, (List.range n).map (fun i => tget false m.badWord ((spAddr u off + i) / 4)))

/-- A record-and-continue record of an engine (R264, R266). -/
def State.emitEngine (s : State) (p imgc : Nat) (f : Flt) : State := s.emit p (s.recOf p 1 imgc f 1)

/-- A fault that an engine command meets when it is performed: the command is abandoned, and the fault taken (R250, R264). -/
def State.failCmd (s : State) (c : Cmd) (imgc : Nat) (f : Flt) : State :=
  ({ s with cmds := s.cmds.filter (fun x => x.id != c.id) }).raiseEngine c.prt imgc f

end Sys2Proof.Machine
end

