-- ==== Sys2Proof/Machine/Copy.lean ====
section
/-! DEFINITION. The copy engine (R248 to R250, R256). -/

namespace Sys2Proof.Machine

open Sys2Proof

/-- The ring slot that begins at a byte of a unit's scratchpad and is being filled (R256), with its ring's handle. -/
def Mt.fillingSlot (m : Mt) (off : Nat) : Option (Dword × Nat) :=
  m.rings.findSome? (fun r => match r.2.handle with
    | some h => (m.fillingAt h off).map (fun i => (h, i))
    | none => none)

/-- What CPY asks of its destination and source, by F (R248). -/
structure CpyForm where
  dsp : Bool
  ssp : Bool
  pub : Bool
  full : Bool

/-- The form of a CPY (R248). -/
def cpyForm (o : Ops) : CpyForm := ⟨o.f.getLsbD 0, o.f.getLsbD 1, o.f.getLsbD 2, o.f.getLsbD 3⟩

/-- Whether a WO page of a destination stands with an end off a granule (R249). -/
def woMisaligned (ts : List (Nat × Tr)) (a : Dword) (n : Nat) : Bool :=
  ts.any (fun t => t.2.kind == .wo) && (a.toNat % 8 != 0 || n % 8 != 0)

/-- The scratchpad ranges of a CPY tested (R226). -/
def cpyRanges (s : State) (x : CpyForm) (a b : Dword) (n : Nat) : Acc Unit :=
  match (if x.dsp then s.locateSp a n else .ok (0, 0)), (if x.ssp then s.locateSp b n else .ok (0, 0)) with
  | .error e, _ => .error e
  | _, .error e => .error e
  | .ok _, .ok _ => .ok ()

/-- The pages of a CPY translated and tested at issue (R249, R265). -/
def cpyPages (s : State) (x : CpyForm) (a b : Dword) (n : Nat) : Acc State :=
  match translateAll s s.slotUnit s.slotCtx (if x.dsp then [] else pagesOf a.toNat n) with
  | .error e => .error e
  | .ok (s, ds) =>
    match translateAll s s.slotUnit s.slotCtx (if x.ssp then [] else pagesOf b.toNat n) with
    | .error e => .error e
    | .ok (s, ss) =>
      if woMisaligned ds a n then .error ({ code := 0x20, addr := a }, s)
      else match permAll false true ds, permAll true false ss with
        | .error f, _ => .error (f, s)
        | _, .error f => .error (f, s)
        | .ok _, .ok _ => .ok s

/-- The slot that a CPY.pub publishes (R256): its handle and number, or a ring-protocol fault, with the handle in INFO where only the
count is too large, else 0 (the model's choice, log entry 19). -/
def cpySlot (s : State) (x : CpyForm) (a b : Dword) (n : Nat) : Acc (Option (Nat × Dword × Nat)) :=
  if !x.pub then .ok none
  else match spResolve s s.slot.prt s.slotUnit a.toNat with
    | none => .error (ringProt b 0 s)
    | some (u, off) =>
      match (s.mt u).fillingSlot off with
      | none => .error (ringProt b 0 s)
      | some (h, i) => if n ≤ 128 * hLines h then .ok (some (u, h, i)) else .error (ringProt b h s)

/-- CPY at issue (R249). -/
def cpyOp (o : Ops) (s : State) : Res State :=
  s.memoryWith o (s.slot.cmdCheck o.d) (fun g t =>
    let x := cpyForm o
    let a := g.a.val
    let b := g.b.val
    let n := g.c.val.toNat
    if 2 ^ 24 < n then .error ({ code := 0x28, info := g.c.val }, t)
    else if x.full && (a.toNat % 4 ≠ 0 || n % 4 ≠ 0) then .error ({ code := 0x20, addr := a }, t)
    else match cpyRanges t x a b n with
      | .error e => .error e
      | .ok _ =>
        match cpyPages t x a b n with
        | .error e => .error e
        | .ok t =>
          match cpySlot t x a b n with
          | .error e => .error e
          | .ok p =>
            if n = 0 then
              let t := match p with
                | some (u, h, i) => t.ringSet u ((t.mt u).publish h i)
                | none => t
              .ok (t.commandNow o (.cpy a b n x.dsp x.ssp x.pub x.full) 0)
            else .ok (t.command o (.cpy a b n x.dsp x.ssp x.pub x.full) []))

/-- CPY (R249). -/
def execCpy (o : Ops) (s : State) : Host.Outcome State Fault Refusal := s.run (cpyOp o)

/-! ### The engine -/

/-- The source bytes of a copy with their poison (R249). -/
def cpyRead (s : State) (c : Cmd) (src : Dword) (n : Nat) (ssp : Bool) : Except EErr (State × List Byte × List Bool) :=
  if ssp then
    match s.cmdSp c src n with
    | .error e => .error e
    | .ok (u, off) => .ok (s, s.mem.spBytes u off n)
  else engRead s c.unit (s.cmdCtx c) src.toNat n

/-- The words of a written scratchpad range poisoned where a source byte was (R250). -/
def Mem.poisonWords (m : Mem) (u off : Nat) (bad : List Bool) : Mem :=
  { m with badWord := (List.range bad.length).foldl (fun t i =>
      if bad.getD i false then tput false t ((spAddr u off + i) / 4) true else t) m.badWord }

/-- The destination bytes of a copy written; with `full` every word is left full (R249). -/
def cpyWrite (s : State) (c : Cmd) (dst : Dword) (dsp full : Bool) (bs : List Byte) (bad : List Bool) : State × Option EErr :=
  if dsp then
    match s.cmdSp c dst bs.length with
    | .error e => (s, some e)
    | .ok (u, off) =>
      let m := (s.mem.spPut u off bs).poisonWords u off bad
      ({ s with mem := if full then m.tagChange (spWords u off bs.length) true else m }, none)
  else
    engWriteBad s c.unit (s.cmdCtx c) dst.toNat bs bad

/-- The slot published with the completion token (R256). -/
def cpyPublish (s : State) (c : Cmd) (dst : Dword) : State :=
  match s.cmdSp c dst 0 with
  | .error _ => s
  | .ok (u, off) =>
    match (s.mt u).fillingSlot off with
    | some (h, i) => s.ringSet u ((s.mt u).publish h i)
    | none => s

/-- A copy performed (R249, R250, R256). A slot is published at the last write, also while its token waits behind an earlier one of its
port (R225; the model's choice, log entry 9). -/
def doCpy (s : State) (c : Cmd) (dst src : Dword) (n : Nat) (dsp ssp pub full : Bool) : Except EErr State :=
  match cpyRead s c src n ssp with
  | .error e => .error e
  | .ok (s, bs, bad) =>
    match cpyWrite s c dst dsp full bs bad with
    | (s, some (.flt f)) => .ok (s.failCmd c (s.mtImgc c.prt c.unit 0) f)
    | (_, some .absent) => .error .absent
    | (s, none) =>
      let s := match (List.range n).find? (fun i => bad.getD i false) with
        | some i => s.emitEngine c.prt (s.mtImgc c.prt c.unit 0) { code := 0x11, addr := src + BitVec.ofNat 64 i, info := dst }
        | none => s
      let s := if pub then cpyPublish s c dst else s
      .ok ((s.complete c (BitVec.ofNat 64 n)).chargeCmd c 12 ((n + 127) / 128))

end Sys2Proof.Machine
end

