-- ==== Sys2Proof/Machine/Fibres.lean ====
section
/-! DEFINITION. Fibre and stream registers (R282 to R288), pattern numbers (R289 to R292), the live-index scan (R293) and the
keyed permutation (R298). -/

namespace Sys2Proof.Machine

open Sys2Proof

/-- A fault with no address (R264). -/
def fault (code : Nat) (s : State) : Stop × State := (.flt { code := code }, s)

/-- An instruction whose reads may wait or fault: whatever stops it, its slot stays as it issued (R151). -/
def State.guardedWith (s : State) (o : Ops) (wr : Wr) (f : Got → State → Res State) : Res State :=
  match s.operandsWith o wr with
  | .error e => .error e
  | .ok (g, t) =>
    match f g t with
    | .error (.flt x, t') => .error (faultAt s t' x)
    | .error (.wait, _) => .error (.wait, s)
    | .ok t' => .ok t'

/-- An instruction whose reads may wait or fault and which writes its destination when it retires. -/
def State.guarded (s : State) (o : Ops) (f : Got → State → Res State) : Res State := s.guardedWith o (s.slot.dstCheck o.d) f

/-! ### Pattern numbers (R289 to R292) -/

/-- G and k of a GK code (R289). -/
def gkOf (gk : Nat) : Nat × Nat := if gk = 0 then (8, 2) else if gk = 1 then (8, 4) else (16, 4)
/-- The width of a stored pattern number (R289). -/
def gkWidth (gk : Nat) : Nat := if gk = 0 then 5 else if gk = 1 then 7 else 11

/-- The binomial coefficient C(n, k). -/
def choose : Nat → Nat → Nat
  | _, 0 => 1
  | 0, _ + 1 => 0
  | n + 1, k + 1 => choose n k + choose n (k + 1)

/-- The number of patterns C(G, k). -/
def patterns (gk : Nat) : Nat := choose (gkOf gk).1 (gkOf gk).2

/-- The largest p below a bound with C(p, i) ≤ n. -/
def largestP (n i : Nat) : Nat → Nat
  | 0 => 0
  | b + 1 => if choose b i ≤ n then b else largestP n i b

/-- `decode` of R292: the positions p_(k−1) down to p_0. -/
def decodePat (g n : Nat) : Nat → List Nat
  | 0 => []
  | i + 1 =>
    let p := largestP n (i + 1) (g + 1)
    p :: decodePat g (n - choose p (i + 1)) i

/-- Position i of a pattern number (R285). -/
def patPos (gk n i : Nat) : Nat := (decodePat (gkOf gk).1 n (gkOf gk).2).reverse.getD i 0

/-- The mask of a pattern number (R291). -/
def patMask (gk n : Nat) : Nat := (decodePat (gkOf gk).1 n (gkOf gk).2).foldl (fun a p => a + 2 ^ p) 0

/-- The pattern number of a mask: Σ C(p_i, i + 1) over its set bits from bit 0 up (R289, R292). -/
def maskPat (g m : Nat) : Nat :=
  ((List.range g).foldl (fun (a : Nat × Nat) p => if bit m p then (a.1 + choose p (a.2 + 1), a.2 + 1) else a) (0, 0)).1

/-- The set bits of a mask. -/
def maskCount (g m : Nat) : Nat := ((List.range g).filter (fun p => bit m p)).length

/-- A pattern instruction: its result, or a pattern fault (R292). -/
def Slot.pattern (o : Ops) (f : Nat → Option Nat) (x : Slot) : Except Stop Slot :=
  match x.fetch o .p with
  | .error e => .error e
  | .ok (g, y) =>
    match g.pass with
    | some m => .ok ((y.writeTok o ⟨0, .mrk m⟩).retire o)
    | none =>
      match f g.a.val.toNat with
      | none => .error (.flt { code := 0x43 })
      | some v => .ok ((y.writeD o (BitVec.ofNat 64 v)).retire o)

/-- PDEC (R292). -/
def execPdec (o : Ops) (s : State) : Host.Outcome State Fault Refusal :=
  s.runSlot 0 (Slot.pattern o (fun n => if patterns o.f.toNat ≤ n then none else some (patMask o.f.toNat n)))

/-- PENC (R292). -/
def execPenc (o : Ops) (s : State) : Host.Outcome State Fault Refusal :=
  s.runSlot 0 (Slot.pattern o (fun m =>
    let gk := gkOf o.f.toNat
    if 2 ^ gk.1 ≤ m || maskCount gk.1 m ≠ gk.2 then none else some (maskPat gk.1 m)))

/-! ### Levels (R284 to R286) -/

/-- The fields of a 256-bit descriptor (R284). -/
def Desc.ofNat (v : Nat) : Desc :=
  { vbase := BitVec.ofNat 64 (v / 2 ^ 192), pbase := BitVec.ofNat 64 (v / 2 ^ 128), n := bits v 127 96, ext := bits v 95 64,
    vt := BitVec.ofNat 6 (bits v 20 16), gk := bits v 9 8, fmt := bits v 2 0 }

/-- The width in bytes of a value array's elements, 1 for the packed x4e2 (R284). -/
def Desc.valueW (d : Desc) : Nat := if d.vt = 7 then 1 else wBytes d.vt.toNat

/-- The checks of R284 on a descriptor read as a number. -/
def Desc.legal (v : Nat) : Bool :=
  let d := Desc.ofNat v
  bits v 63 21 == 0 && bits v 15 10 == 0 && bits v 7 3 == 0 && d.fmt ≤ 4 && 1 ≤ d.vt.toNat && d.vt.toNat ≤ 15 &&
  (d.fmt != 3 || d.vt == 15) && (if d.fmt = 2 then d.gk != 3 else d.gk == 0) &&
  d.pbase.toNat % 8 == 0 && d.vbase.toNat % d.valueW == 0

/-- M, the stored entries of a level (R285). -/
def Desc.entries (d : Desc) : Nat := if d.fmt = 2 then d.n * (gkOf d.gk).2 else d.n

/-- `n` bytes of a level read (R286): a scratchpad read of the slot, or a read at the home of a virtual location. -/
def lvlRead (sm : Bool) (s : State) (a : Dword) (n : Nat) : Res (State × Nat) :=
  if sm then
    match engReadOk s s.slotUnit s.slotCtx a.toNat n with
    | .error .absent => .error (.wait, s)
    | .error (.flt f) => .error (.flt f, s)
    | .ok (s, bs) => .ok (s, bytesToNat bs)
  else
    match spRange s s.slot.prt s.slotUnit a n with
    | .error f => .error (.flt f, s)
    | .ok (u, off) =>
      if s.mem.spBad u off n then .error (.flt { code := 0x25, addr := a }, s) else .ok (s, s.mem.spGet u off n)

/-- pos(e) for an entry e below M (R285). -/
def posOf (sm : Bool) (s : State) (d : Desc) (e : Nat) : Res (State × Nat) :=
  match d.fmt with
  | 0 => .ok (s, e)
  | 3 => .ok (s, e)
  | 2 =>
    let k := (gkOf d.gk).2
    let w := gkWidth d.gk
    let b := e / k * w
    match lvlRead sm s (d.pbase + BitVec.ofNat 64 (b / 8)) ((b % 8 + w + 7) / 8) with
    | .error x => .error x
    | .ok (s, v) =>
      let n := v / 2 ^ (b % 8) % 2 ^ w
      if patterns d.gk ≤ n then .error (fault 0x43 s) else .ok (s, (gkOf d.gk).1 * (e / k) + patPos d.gk n (e % k))
  | _ => lvlRead sm s (d.pbase + BitVec.ofNat 64 (4 * e)) 4

/-- The position of a cursor at entry e: pos(e), or EXT at the end (R286). -/
def curPos (sm : Bool) (s : State) (d : Desc) (e : Nat) : Res (State × Nat) :=
  if e < d.entries then posOf sm s d e else .ok (s, d.ext)

/-- The value of entry e at position p, as it is written (R285, R288). -/
def valueOf (sm : Bool) (s : State) (d : Desc) (e p : Nat) : Res (State × Dword) :=
  if d.fmt = 3 then
    match lvlRead sm s (d.pbase + BitVec.ofNat 64 (32 * e)) 8 with
    | .error x => .error x
    | .ok (s, v) => .ok (s, loaded 15 v)
  else
    let i := if d.fmt = 4 then p else e
    let r := if d.vt = 7 then lvlRead sm s (d.vbase + BitVec.ofNat 64 (i / 2)) 1
      else lvlRead sm s (d.vbase + BitVec.ofNat 64 (d.valueW * i)) d.valueW
    match r with
    | .error x => .error x
    | .ok (s, v) => .ok (s, loaded d.vt.toNat (if d.vt = 7 then v / 2 ^ (4 * (i % 2)) else v))

/-! ### Cursors (R283, R286) -/

/-- A cursor register of the slot in focus. -/
def State.cursor (s : State) (sm : Bool) (k : BitVec 3) : Cursor :=
  if sm then s.slot.sms[k.toNat]'k.isLt else s.slot.fbs[k.toNat]'k.isLt

/-- A cursor register of a slot replaced. -/
def Slot.setCursor (x : Slot) (sm : Bool) (k : BitVec 3) (c : Cursor) : Slot :=
  if sm then { x with sms := x.sms.set k.toNat c k.isLt } else { x with fbs := x.fbs.set k.toNat c k.isLt }

/-- A cursor register of the slot in focus replaced. -/
def State.setCursor (s : State) (sm : Bool) (k : BitVec 3) (c : Cursor) : State := { s with slot := s.slot.setCursor sm k c }

/-- The entries of the cursor table that a slot takes. -/
def Slot.cursors (x : Slot) : Nat :=
  ((x.fbs.toList ++ x.sms.toList).filter (fun c => c != .closed)).length

/-- Whether a register can be opened: it is open already, or the table of the unit has a free entry (R283). -/
def State.cursorRoom (s : State) (sm : Bool) (k : BitVec 3) : Bool :=
  s.cursor sm k != .closed ||
  ((s.slots.filter (fun x => coordUnit x.place == s.slotUnit)).map Slot.cursors).sum < 32

/-- The register number that an operand names. -/
def curReg : Opd → BitVec 3
  | .cur k => k
  | _ => 0

/-- An open cursor: its descriptor, entry and position; a pending one holds the slot back, a closed one is a fibre-state
fault (R283, R297). -/
def State.openCursor (s : State) (sm : Bool) (k : BitVec 3) : Res (Desc × Nat × Nat) :=
  match s.cursor sm k with
  | .opened d e p => .ok (d, e, p)
  | .pending _ => .error (.wait, s)
  | .closed => .error (fault 0x42 s)

/-- A register to be opened: one that is pending holds its slot back (R297). -/
def State.notPending (s : State) (sm : Bool) (k : BitVec 3) : Res Unit :=
  match s.cursor sm k with
  | .pending _ => .error (.wait, s)
  | _ => .ok ()

/-- An entry of the cursor table taken for a register, or a cursor-full fault (R283). -/
def State.takeCursor (s : State) (sm : Bool) (k : BitVec 3) : Res Unit :=
  if s.cursorRoom sm k then .ok () else .error (fault 0x40 s)

/-- A register to be opened by an engine: not pending, and room for it in the table (R283). -/
def State.openable (s : State) (sm : Bool) (k : BitVec 3) : Res Unit :=
  match s.notPending sm k with
  | .error e => .error e
  | .ok _ => s.takeCursor sm k

/-- `adv` of R288. -/
def advance (sm : Bool) (s : State) (d : Desc) (e : Nat) : Res (State × Nat × Nat) :=
  let e' := if e < d.entries then e + 1 else e
  match curPos sm s d e' with
  | .error x => .error x
  | .ok (s, p) => .ok (s, e', p)

/-- The bank that F[3] names (R287). -/
def bankA (o : Ops) : Bool := o.f.getLsbD 3
/-- The bank of B that F[2] names for FBISX. -/
def bankB (o : Ops) : Bool := o.f.getLsbD 2

/-- The energy class of a cursor access (R405). -/
def curCls (sm : Bool) : Nat := if sm then 6 else 4

/-- FBOPN and SMOPN (R284, R288). -/
def fbopnOp (o : Ops) (s : State) : Res State :=
  s.guarded o (fun g t =>
    let sm := bankA o
    let k := curReg o.d
    match t.notPending sm k with
    | .error e => .error e
    | .ok _ =>
      if g.a.val.toNat % 32 ≠ 0 then .error (.flt { code := 0x20, addr := g.a.val }, t)
      else match lvlRead sm t g.a.val 32 with
        | .error e => .error e
        | .ok (t, v) =>
          if !Desc.legal v then .error (fault 0x41 t)
          else match t.takeCursor sm k with
            | .error e => .error e
            | .ok _ =>
              match curPos sm t (Desc.ofNat v) 0 with
              | .error e => .error e
              | .ok (t, p) => .ok ((t.setCursor sm k (.opened (Desc.ofNat v) 0 p)).done o none (curCls sm) 1))

/-- FBADV and SMADV (R288). -/
def fbadvOp (o : Ops) (s : State) : Res State :=
  s.guarded o (fun _ t =>
    let sm := bankA o
    match t.openCursor sm (curReg o.d) with
    | .error e => .error e
    | .ok (d, e, _) =>
      match advance sm t d e with
      | .error x => .error x
      | .ok (t, e, p) => .ok ((t.setCursor sm (curReg o.d) (.opened d e p)).done o none (curCls sm) 1))

/-- FBEND and SMEND (R288). -/
def fbendOp (o : Ops) (s : State) : Res State :=
  s.guarded o (fun _ t =>
    match t.openCursor (bankA o) (curReg o.a) with
    | .error e => .error e
    | .ok (d, e, _) => .ok (t.done o (some (b2d (e == d.entries))) (curCls (bankA o)) 1))

/-- FBCLS and SMCLS (R288). -/
def fbclsOp (o : Ops) (s : State) : Res State :=
  s.guarded o (fun _ t =>
    match t.openCursor (bankA o) (curReg o.d) with
    | .error e => .error e
    | .ok _ => .ok ((t.setCursor (bankA o) (curReg o.d) .closed).done o none (curCls (bankA o)) 1))

/-- FBPOS (R288). -/
def fbposOp (o : Ops) (s : State) : Res State :=
  s.guarded o (fun _ t =>
    match t.openCursor (bankA o) (curReg o.a) with
    | .error e => .error e
    | .ok (_, _, p) => .ok (t.done o (some (BitVec.ofNat 64 p)) (curCls (bankA o)) 1))

/-- FBVAL (R288). -/
def fbvalOp (o : Ops) (s : State) : Res State :=
  s.guarded o (fun _ t =>
    match t.openCursor (bankA o) (curReg o.a) with
    | .error e => .error e
    | .ok (d, e, p) =>
      if e < d.entries then
        match valueOf (bankA o) t d e p with
        | .error x => .error x
        | .ok (t, v) => .ok (t.done o (some v) (curCls (bankA o)) 1)
      else .ok (t.done o (some 0) (curCls (bankA o)) 1))

/-- The search of FBSEK (R288), with the entries left as fuel. -/
def seek (sm : Bool) (d : Desc) (target : Nat) : Nat → State → Nat → Nat → Res (State × Nat × Nat)
  | 0, s, e, p => .ok (s, e, p)
  | n + 1, s, e, p =>
    if e < d.entries && p < target then
      match advance sm s d e with
      | .error x => .error x
      | .ok (s, e, p) => seek sm d target n s e p
    else .ok (s, e, p)

/-- FBSEK (R288). -/
def fbsekOp (o : Ops) (s : State) : Res State :=
  s.guarded o (fun g t =>
    let sm := bankA o
    match t.openCursor sm (curReg o.a) with
    | .error e => .error e
    | .ok (d, e, p) =>
      match seek sm d g.b.val.toNat (d.entries - e) t e p with
      | .error x => .error x
      | .ok (t, e, p) =>
        .ok ((t.setCursor sm (curReg o.a) (.opened d e p)).done o (some (BitVec.ofNat 64 p)) (curCls sm) 1))

/-- A cursor under an intersection: its descriptor, entry and position. -/
structure Walk where
  d : Desc
  e : Nat
  p : Nat
  deriving DecidableEq, Repr

/-- The loop of FBISX (R288) for two registers, with the entries left of both as fuel. -/
def intersect (sa sb : Bool) : Nat → State → Walk → Walk → Res (State × Walk × Walk × Dword)
  | 0, s, a, b => .ok (s, a, b, BitVec.allOnes 64)
  | n + 1, s, a, b =>
    if a.e = a.d.entries || b.e = b.d.entries then .ok (s, a, b, BitVec.allOnes 64)
    else if a.p = b.p then .ok (s, a, b, BitVec.ofNat 64 a.p)
    else if a.p < b.p then
      match advance sa s a.d a.e with
      | .error x => .error x
      | .ok (s, e, p) => intersect sa sb n s { a with e := e, p := p } b
    else
      match advance sb s b.d b.e with
      | .error x => .error x
      | .ok (s, e, p) => intersect sa sb n s a { b with e := e, p := p }

/-- FBISX (R288). -/
def fbisxOp (o : Ops) (s : State) : Res State :=
  s.guarded o (fun _ t =>
    let sa := bankA o
    let sb := bankB o
    let ka := curReg o.a
    let kb := curReg o.b
    match t.openCursor sa ka with
    | .error e => .error e
    | .ok (da, ea, pa) =>
      match t.openCursor sb kb with
      | .error e => .error e
      | .ok (db, eb, pb) =>
        if sa = sb && ka = kb then
          .ok (t.done o (some (if ea = da.entries then BitVec.allOnes 64 else BitVec.ofNat 64 pa)) (curCls sa) 1)
        else match intersect sa sb (da.entries - ea + (db.entries - eb) + 1) t ⟨da, ea, pa⟩ ⟨db, eb, pb⟩ with
          | .error x => .error x
          | .ok (t, a, b, v) =>
            .ok (((t.setCursor sa ka (.opened a.d a.e a.p)).setCursor sb kb (.opened b.d b.e b.p)).done o (some v) (curCls sa) 1))

/-- FBOPN (R288). -/
def execFbopn (o : Ops) (s : State) : Host.Outcome State Fault Refusal := s.run (fbopnOp o)
/-- SMOPN (R288). -/
def execSmopn (o : Ops) (s : State) : Host.Outcome State Fault Refusal := s.run (fbopnOp o)
/-- FBADV (R288). -/
def execFbadv (o : Ops) (s : State) : Host.Outcome State Fault Refusal := s.run (fbadvOp o)
/-- SMADV (R288). -/
def execSmadv (o : Ops) (s : State) : Host.Outcome State Fault Refusal := s.run (fbadvOp o)
/-- FBEND (R288). -/
def execFbend (o : Ops) (s : State) : Host.Outcome State Fault Refusal := s.run (fbendOp o)
/-- SMEND (R288). -/
def execSmend (o : Ops) (s : State) : Host.Outcome State Fault Refusal := s.run (fbendOp o)
/-- FBCLS (R288). -/
def execFbcls (o : Ops) (s : State) : Host.Outcome State Fault Refusal := s.run (fbclsOp o)
/-- SMCLS (R288). -/
def execSmcls (o : Ops) (s : State) : Host.Outcome State Fault Refusal := s.run (fbclsOp o)
/-- FBPOS (R288). -/
def execFbpos (o : Ops) (s : State) : Host.Outcome State Fault Refusal := s.run (fbposOp o)
/-- FBVAL (R288). -/
def execFbval (o : Ops) (s : State) : Host.Outcome State Fault Refusal := s.run (fbvalOp o)
/-- FBSEK (R288). -/
def execFbsek (o : Ops) (s : State) : Host.Outcome State Fault Refusal := s.run (fbsekOp o)
/-- FBISX (R288). -/
def execFbisx (o : Ops) (s : State) : Host.Outcome State Fault Refusal := s.run (fbisxOp o)

/-! ### NZSCAN (R293) -/

/-- Whether a value of type t is live: a NaN, or not zero (R293). -/
def live (t : Nat) (v : Nat) : Bool :=
  if tIsFlt t then !(decF t v).isZero else v % 2 ^ tWidth t != 0

/-- The scan of R293 from element i on, with the live elements found so far: each element is read, and the index of a live one
written, before the next is read. The state left behind is that of the elements done. -/
def scanElems (ty w : Nat) (a c : Dword) : Nat → State → Nat → List Nat → Res (State × List Nat)
  | 0, s, _, xs => .ok (s, xs)
  | n + 1, s, i, xs =>
    match lvlRead false s (a + BitVec.ofNat 64 (w * i)) w with
    | .error e => .error e
    | .ok (s, v) =>
      if !live ty v then scanElems ty w a c n s (i + 1) xs
      else match spRange s s.slot.prt s.slotUnit (c + BitVec.ofNat 64 (4 * xs.length)) 4 with
        | .error f => .error (.flt f, s)
        | .ok (u, off) => scanElems ty w a c n { s with mem := s.mem.spPut u off (natToBytes 4 i) } (i + 1) (xs ++ [i])

/-- NZSCAN (R293). -/
def nzscanOp (o : Ops) (s : State) : Res State :=
  s.guarded o (fun g t =>
    let ty := memT o 2
    let w := wBytes ty
    let n := g.b.val.toNat
    let a := g.a.val
    let c := g.c.val
    match t.notPending false (curReg o.d) with
    | .error e => .error e
    | .ok _ =>
      if n = 0 || 65536 < n then .error (.flt { code := 0x21, addr := a }, t)
      else if a.toNat % w ≠ 0 then .error (.flt { code := 0x20, addr := a }, t)
      else if c.toNat % 4 ≠ 0 then .error (.flt { code := 0x20, addr := c }, t)
      else match scanElems ty w a c n t 0 [] with
        | .error e => .error e
        | .ok (t, xs) =>
          match t.takeCursor false (curReg o.d) with
          | .error e => .error e
          | .ok _ =>
            let d : Desc := { vbase := a, pbase := c, n := xs.length, ext := n, vt := BitVec.ofNat 6 ty, gk := 0, fmt := 4 }
            .ok ((t.setCursor false (curReg o.d) (.opened d 0 (xs.headD n))).done o none 4 ((w * n + 7) / 8)))

/-- NZSCAN (R293). -/
def execNzscan (o : Ops) (s : State) : Host.Outcome State Fault Refusal := s.run (nzscanOp o)

/-! ### PERM (R298) -/

/-- `fround` of R298. -/
def permRound (k : Dword) (e : Nat) (j v : Nat) : Dword :=
  let z := k ^^^ (BitVec.ofNat 64 e * 0x9E3779B97F4A7C15) ^^^ BitVec.ofNat 64 (j * 2 ^ 56) ^^^ BitVec.ofNat 64 v
  let z := (z ^^^ (z >>> 30)) * 0xBF58476D1CE4E5B9
  let z := (z ^^^ (z >>> 27)) * 0x94D049BB133111EB
  z ^^^ (z >>> 31)

/-- The four rounds of one walk step over 2h bits (R298). -/
def permStep (k : Dword) (e h x : Nat) : Nat :=
  let r := (List.range 4).foldl (fun (q : Nat × Nat) j => (q.2, q.1 ^^^ (permRound k e j q.2).toNat % 2 ^ h)) (x / 2 ^ h, x % 2 ^ h)
  r.1 * 2 ^ h + r.2

/-- The walk of R298 until it lands below n; it lands within 2^m steps, since each round is a bijection. -/
def permWalk (k : Dword) (e h n : Nat) : Nat → Nat → Nat
  | 0, x => x
  | f + 1, x =>
    let y := permStep k e h x
    if y < n then y else permWalk k e h n f y

/-- Half the bits of the domain of a permutation of n elements (R298). -/
def permHalf (n : Nat) : Nat :=
  let c := if n ≤ 1 then 0 else Nat.log2 (n - 1) + 1
  (max 2 c + 1) / 2

/-- PERM's result (R298). -/
def permVal (i n : Nat) (k : Dword) (e : Nat) : Dword :=
  if n = 0 || 2 ^ 40 < n || n ≤ i then BitVec.allOnes 64
  else BitVec.ofNat 64 (permWalk k e (permHalf n) n (2 ^ (2 * permHalf n)) i)

/-- The epoch of a PERM (R298). -/
def permEpoch (o : Ops) : Nat := if o.form = .w then o.lit.toNat else o.imm12.toNat

/-- PERM (R298). -/
def execPerm (o : Ops) (s : State) : Host.Outcome State Fault Refusal :=
  s.runSlot 0 (Slot.plain o (fun g y =>
    .ok ((y.writeD o (permVal g.a.val.toNat g.b.val.toNat g.c.val (permEpoch o))).retire o)))

end Sys2Proof.Machine
end

