-- ==== Sys2Proof/Machine/Gather.lean ====
section
/-! DEFINITION. Gather and scatter (R294 to R297). -/

namespace Sys2Proof.Machine

open Sys2Proof

/-! ### At issue (R295) -/

/-- The positions of entries e on, up to the end of the level (R295, step 2). -/
def positions (sm : Bool) (d : Desc) : Nat → State → Nat → Res (State × List Nat)
  | 0, s, _ => .ok (s, [])
  | n + 1, s, e =>
    match posOf sm s d e with
    | .error x => .error x
    | .ok (s, p) =>
      match positions sm d n s (e + 1) with
      | .error x => .error x
      | .ok (s, ps) => .ok (s, p :: ps)

/-- The address of element j (R295). -/
def elemAddr (b : Dword) (sz x : Nat) : Dword := b + BitVec.ofNat 64 (sz * x)

/-- Every element's page translated (R295, step 3): a fault names the element of the lowest j. -/
def elemPages (u ctx sz : Nat) (b : Dword) : State → List Nat → Res State
  | s, [] => .ok s
  | s, x :: xs =>
    let a := elemAddr b sz x
    match translateAll s u ctx (pagesOf a.toNat sz) with
    | .error (f, s) => .error (.flt { f with addr := a }, s)
    | .ok (s, _) => elemPages u ctx sz b s xs

/-- The status area of a command with M elements (R297). -/
def statusArea (c : Dword) (sz m : Nat) : Dword := BitVec.ofNat 64 ((c.toNat + sz * m + 7) / 8 * 8)

/-- The local areas of a command tested: the packed elements, and the status area when D names a register. -/
def gatherAreas (t : State) (o : Ops) (c : Dword) (sz m : Nat) : Except Flt Unit :=
  match spRange t t.slot.prt t.slotUnit c (sz * m) with
  | .error f => .error f
  | .ok _ =>
    if o.d = .absent then .ok ()
    else match spRange t t.slot.prt t.slotUnit (statusArea c sz m) (8 * m) with
      | .error f => .error f
      | .ok _ => .ok ()

/-- The compressed fibre over the failures of a command (R297). -/
def failFibre (c : Dword) (sz m n : Nat) : Desc :=
  { vbase := statusArea c sz m + BitVec.ofNat 64 (4 * m), pbase := statusArea c sz m, n := n, ext := m, vt := 14, gk := 0, fmt := 1 }

/-- The register of the status fibre, for the command that fills it. -/
def statusReg : Opd → Option (Nat × Bool)
  | .cur k => some (k.toNat, false)
  | _ => none

/-- The lane type of an instruction, n8 by default (R294). -/
def laneT (o : Ops) : BitVec 6 := if o.t = 0 then 12 else o.t

/-- The command of the instruction (R294): F[1:0] selects it. -/
def gatherKind (o : Ops) (b c : Dword) (xs : List Nat) : CmdKind :=
  let s := o.imm12.toNat % 8
  match o.f.toNat % 4 with
  | 0 => .gath (o.f.getLsbD 2) (laneT o) s b c xs (statusReg o.d)
  | 1 => .scat false (laneT o) s b c xs (statusReg o.d)
  | _ => .scat true (laneT o) s b c xs (statusReg o.d)

/-- The cause for which an element fails, 0 when it does not (R295, step 4): `wr` for a scatter, `add` for SCATA. -/
def elemCause (s : State) (u ctx sz : Nat) (a : Dword) (wr add : Bool) : Nat :=
  if a.toNat % min sz 8 ≠ 0 then 0x20
  else match translateAll s u ctx (pagesOf a.toNat sz) with
    | .error (f, _) => f.code
    | .ok (_, ts) =>
      if add && ts.any (fun t => t.2.kind == .wo) then 0x22
      else if ts.any (fun t => if wr then !t.2.w || (add && !t.2.r) else !t.2.r) then 0x23
      else if wr && (a.toNat % 8 ≠ 0 || sz % 8 ≠ 0) && ts.any (fun t => t.2.kind == .wo) then 0x20
      else 0

/-- The marks of the elements of a command (R295, step 4). -/
def elemMarks (o : Ops) (s : State) (sz : Nat) (b : Dword) (xs : List Nat) : List Dword :=
  let k := o.f.toNat % 4
  xs.map (fun x => BitVec.ofNat 64 (elemCause s s.slotUnit s.slotCtx sz (elemAddr b sz x) (k != 0) (k == 2)))

/-- GATH, SCAT and SCATA at issue (R295): the marks go with the command. -/
def gatherOp (o : Ops) (s : State) : Res State :=
  s.guarded o (fun g t =>
    let sz := 2 ^ (o.imm12.toNat % 8)
    match t.openCursor (bankA o) (curReg o.a) with
    | .error e => .error e
    | .ok (d, _, _) =>
      match (if o.d = .absent then .ok () else t.openable false (curReg o.d)) with
      | .error e => .error e
      | .ok _ =>
        let m := d.entries
        if g.c.val.toNat % sz ≠ 0 then .error (.flt { code := 0x20, addr := g.c.val }, t)
        else if 2 ^ 20 < m then .error (fault 0x44 t)
        else if m = 0 then
          let t := if o.d = .absent then t
            else t.setCursor false (curReg o.d) (.opened (failFibre g.c.val sz 0 0) 0 0)
          .ok (t.done o none 0 1)
        else match gatherAreas t o g.c.val sz m with
          | .error f => .error (.flt f, t)
          | .ok _ =>
            match positions (bankA o) d m t 0 with
            | .error e => .error e
            | .ok (t, xs) =>
              match elemPages t.slotUnit t.slotCtx sz g.b.val t xs with
              | .error e => .error e
              | .ok t =>
                let t := if o.d = .absent then t else t.setCursor false (curReg o.d) (.pending t.nextCmd)
                .ok (t.command { o with d := .absent } (gatherKind o g.b.val g.c.val xs) (elemMarks o t sz g.b.val xs)))

/-- GATH (R295). -/
def execGath (o : Ops) (s : State) : Host.Outcome State Fault Refusal := s.run (gatherOp o)
/-- SCAT (R295). -/
def execScat (o : Ops) (s : State) : Host.Outcome State Fault Refusal := s.run (gatherOp o)
/-- SCATA (R295). -/
def execScata (o : Ops) (s : State) : Host.Outcome State Fault Refusal := s.run (gatherOp o)

/-! ### The engine (R296) -/

/-- The mark that element j got at issue. -/
def Cmd.mark (c : Cmd) (j : Nat) : Nat := (c.block.getD j 0).toNat

/-- The bytes that fill the slot of a failed gather (R296). -/
def fillBytes (nan : Bool) (t sz : Nat) : List Byte :=
  if !nan then List.replicate sz 0
  else if t = 7 then List.replicate sz 0x88
  else (List.range (sz / wBytes t)).flatMap (fun _ => natToBytes (wBytes t) (qnan t)) ++ List.replicate (sz % wBytes t) 0

/-- The failures of a command so far: element number, cause, address. -/
abbrev Fails := List (Nat × Nat × Dword)

/-- The elements of a gather, from slot j on (R296). -/
def gathElems (c : Cmd) (ctx u off sz : Nat) (nan : Bool) (ty : Nat) (b : Dword) :
    State → Nat → List Nat → Fails → Except EErr (State × Fails)
  | s, _, [], fs => .ok (s, fs)
  | s, j, x :: xs, fs =>
    let a := elemAddr b sz x
    let put (s : State) (bs : List Byte) : State := { s with mem := s.mem.spPut u (off + sz * j) bs }
    let cause := c.mark j
    if cause ≠ 0 then gathElems c ctx u off sz nan ty b (put s (fillBytes nan ty sz)) (j + 1) xs (fs ++ [(j, cause, a)])
    else match engRead s c.unit ctx a.toNat sz with
      | .error .absent => .error .absent
      | .error (.flt f) =>
        gathElems c ctx u off sz nan ty b (put (s.hvDrop ctx a.toNat sz false) (fillBytes nan ty sz)) (j + 1) xs
          (fs ++ [(j, f.code, a)])
      | .ok (s, bs, bad) =>
        if bad.any id
        then gathElems c ctx u off sz nan ty b (put s (fillBytes nan ty sz)) (j + 1) xs (fs ++ [(j, 0x25, a)])
        else gathElems c ctx u off sz nan ty b (put s bs) (j + 1) xs fs

/-- One lane added at the home of an element (R296): integer lanes wrap, float lanes follow R145. -/
def laneAdd (t : Nat) (old v : Nat) : Nat :=
  if tIsFlt t then encF t (accV t (decF t old) (some (decF t v))) else (old + v) % 2 ^ tWidth t

/-- The lanes of an element with those of a slot added, lane by lane; `n` lanes are left. -/
def lanesAdd (t : Nat) : Nat → List Byte → List Byte → List Byte
  | 0, old, _ => old
  | n + 1, old, v =>
    let w := wBytes t
    natToBytes w (laneAdd t (bytesToNat (old.take w)) (bytesToNat (v.take w))) ++ lanesAdd t n (old.drop w) (v.drop w)

/-- The bytes that a scatter writes at an element's home: the slot's, or, where the addition is made here, the sums (R296). -/
def scatValue (s : State) (u ctx : Nat) (a : Dword) (sz : Nat) (add : Bool) (ty : Nat) (v : List Byte) : Except EErr (State × List Byte) :=
  if !add then .ok (s, v)
  else match engReadOk s u ctx a.toNat sz with
    | .error e => .error e
    | .ok (s, old) => .ok (s, lanesAdd ty (sz / wBytes ty) old v)

/-- The elements of a scatter, from slot j on: the state, the failures, and the write-twice that abandons the command (R296). An
element over a Holvor link is performed in its package; a command with such an element waits until it is answered (R420). -/
def scatElems (c : Cmd) (ctx u off sz : Nat) (add : Bool) (ty : Nat) (b : Dword) :
    State → Nat → List Nat → Fails → Except EErr (State × Fails × Option Flt)
  | s, _, [], fs => .ok (s, fs, none)
  | s, j, x :: xs, fs =>
    let a := elemAddr b sz x
    let cause := c.mark j
    let slot := s.mem.spBytes u (off + sz * j) sz
    if cause ≠ 0 then scatElems c ctx u off sz add ty b s (j + 1) xs (fs ++ [(j, cause, a)])
    else if slot.2.any id then scatElems c ctx u off sz add ty b s (j + 1) xs (fs ++ [(j, 0x25, a)])
    else match scatValue s c.unit ctx a sz (add && (hvTarget (s.ctx ctx) a.toNat).isNone) ty slot.1 with
      | .error .absent => .error .absent
      | .error (.flt f) => scatElems c ctx u off sz add ty b s (j + 1) xs (fs ++ [(j, f.code, a)])
      | .ok (s, new) =>
        match engWrite s c.unit ctx a.toNat new with
        | (s, none) => scatElems c ctx u off sz add ty b s (j + 1) xs fs
        | (_, some .absent) => .error .absent
        | (s, some (.flt f)) =>
          if f.code = 0x24 then .ok (s, fs, some f)
          else scatElems c ctx u off sz add ty b (s.hvDrop ctx a.toNat sz true) (j + 1) xs (fs ++ [(j, f.code, a)])

/-- The failure records (R296). -/
def failRecords (c : Cmd) (s : State) (fs : Fails) : State :=
  fs.foldl (fun s f => s.emitEngine c.prt (s.mtImgc c.prt c.unit 3)
    { code := 0x10, addr := f.2.2, info := BitVec.ofNat 64 (f.1 + f.2.1 * 2 ^ 32) }) s

/-- The status fibre written and opened on its register (R297). -/
def failOpen (c : Cmd) (s : State) (cc : Dword) (sz m : Nat) (reg : Option (Nat × Bool)) (fs : Fails) : State :=
  match reg with
  | none => s
  | some (k, _) =>
    let s := match s.cmdSp c (statusArea cc sz m) (8 * m) with
      | .error _ => s
      | .ok (u, off) =>
        let codes := fs.flatMap (fun (f : Nat × Nat × Dword) => natToBytes 4 f.2.1)
        { s with mem := (s.mem.spPut u off (fs.flatMap (fun (f : Nat × Nat × Dword) => natToBytes 4 f.1))).spPut u (off + 4 * m) codes }
    let d := failFibre cc sz m fs.length
    s.updSlot c.place (fun x => if x.st = .retired then x
      else x.setCursor false (BitVec.ofNat 3 k) (.opened d 0 ((fs.head?.map (fun (f : Nat × Nat × Dword) => f.1)).getD m)))

/-- A gather performed (R296, R297). -/
def doGath (s : State) (c : Cmd) (nan : Bool) (ty : BitVec 6) (e : Nat) (b cc : Dword) (xs : List Nat) (reg : Option (Nat × Bool)) :
    Except EErr State :=
  let sz := 2 ^ e
  match s.cmdSp c cc (sz * xs.length) with
  | .error x => .error x
  | .ok (u, off) =>
    match gathElems c (s.cmdCtx c) u off sz nan ty.toNat b s 0 xs [] with
    | .error x => .error x
    | .ok (s, fs) =>
      let s := failOpen c (failRecords c s fs) cc sz xs.length reg fs
      .ok ((s.complete c 0).chargeCmd c 12 ((sz * xs.length + 127) / 128))

/-- A scatter performed (R296, R297). -/
def doScat (s : State) (c : Cmd) (add : Bool) (ty : BitVec 6) (e : Nat) (b cc : Dword) (xs : List Nat) (reg : Option (Nat × Bool)) :
    Except EErr State :=
  let sz := 2 ^ e
  match s.cmdSp c cc (sz * xs.length) with
  | .error x => .error x
  | .ok (u, off) =>
    match scatElems c (s.cmdCtx c) u off sz add ty.toNat b s 0 xs [] with
    | .error x => .error x
    | .ok (s, fs, some f) => .ok ((failRecords c s fs).failCmd c (s.mtImgc c.prt c.unit 3) f)
    | .ok (s, fs, none) =>
      let s := failOpen c (failRecords c s fs) cc sz xs.length reg fs
      .ok ((s.complete c 0).chargeCmd c 12 ((sz * xs.length + 127) / 128))

end Sys2Proof.Machine
end

