-- ==== Sys2Proof/Machine/Streams.lean ====
section
/-! DEFINITION. The stream, marker and window instructions (R182 to R193). -/

namespace Sys2Proof.Machine

open Sys2Proof

/-! ### PEEK, DROP, FWD, MKR, MKT (R183 to R187) -/

/-- A token moved to the destination of an instruction that is not arithmetic (R183, R185): rates and room, then
registers. -/
def Slot.moveTok (x y : Slot) (o : Ops) (r : Rd) : Except Stop Slot :=
  let wr := x.dstCheck o.d
  if r = .lack || wr = .lack then .error .wait
  else match r, wr with
    | .over p, _ => .error (rateFlt p)
    | _, .over p => .error (rateFlt p)
    | r, _ => if x.regsHeld o then .ok ((y.writeTok o r.tok).retire o) else .error .wait

/-- PEEK on a slot (R183). -/
def Slot.peek (o : Ops) (x : Slot) : Except Stop Slot :=
  match o.a with
  | .alt k => x.moveTok x o (x.peekAt k o.imm10.toNat)
  | _ => x.moveTok x o (.got ⟨0, .elem⟩)

/-- PEEK (R183). -/
def execPeek (o : Ops) (s : State) : Host.Outcome State Fault Refusal := s.runSlot 0 (Slot.peek o)

/-- `n` tokens of a port consumed in turn (R184): the last reading decides. -/
def Slot.takeN (x : Slot) (k : BitVec 3) : Nat → Rd × Slot
  | 0 => (.got ⟨0, .elem⟩, x)
  | n + 1 =>
    match x.take k with
    | (.got _, y) => y.takeN k n
    | r => r

/-- DROP on a slot (R184). -/
def Slot.dropToks (o : Ops) (x : Slot) : Except Stop Slot :=
  match o.a with
  | .inp k =>
    match x.takeN k o.imm10.toNat with
    | (.got _, y) => .ok (y.retire o)
    | (.over p, _) => .error (rateFlt p)
    | (.lack, _) => .error .wait
  | _ => .ok (x.retire o)

/-- DROP (R184). -/
def execDrop (o : Ops) (s : State) : Host.Outcome State Fault Refusal := s.runSlot 0 (Slot.dropToks o)

/-- FWD on a slot (R185). -/
def Slot.fwd (o : Ops) (x : Slot) : Except Stop Slot :=
  match x.fetch o .o with
  | .error e => .error e
  | .ok (g, y) => .ok ((y.writeTok o g.a).retire o)

/-- FWD (R185). -/
def execFwd (o : Ops) (s : State) : Host.Outcome State Fault Refusal := s.runSlot 0 (Slot.fwd o)

/-- The token an operand constant stands for as a marker. -/
def markTok : Opd → Tok
  | .mrk m => ⟨0, .mrk m⟩
  | _ => ⟨0, .elem⟩

/-- MKR (R186). -/
def execMkr (o : Ops) (s : State) : Host.Outcome State Fault Refusal :=
  s.runSlot 0 (fun x => x.moveTok x o (.got (markTok o.a)))

/-- MKT on a slot (R187). -/
def Slot.mkt (o : Ops) (x : Slot) : Except Stop Slot :=
  match x.headKind o.a with
  | none => .error .wait
  | some k => x.moveTok x o (.got ⟨b2d (kindIs k o.b), .elem⟩)

/-- MKT (R187). -/
def execMkt (o : Ops) (s : State) : Host.Outcome State Fault Refusal := s.runSlot 0 (Slot.mkt o)

/-! ### STEER and MERGE (R188, R189) -/

/-- A slot reserved for a port that receives no token, released; the count goes up all the same (R188). -/
def Slot.sendNone (x : Slot) (k : BitVec 3) : Slot :=
  let p := x.outs[k.toNat]'k.isLt
  let q : OutPort := { p with sent := p.sent + 1, reserved := p.reserved - 1,
                              credit := if p.cap = 0 then p.credit else p.credit + 1 }
  { x with outs := x.outs.set k.toNat q k.isLt }

/-- The true port of a STEER. -/
def steerPort : Opd → BitVec 3
  | .alt k => k
  | _ => 0

/-- The false port of a STEER, when it names one (R182). -/
def falsePort (o : Ops) : Option (BitVec 3) := if o.form = .l then some (o.imm12.extractLsb' 0 3) else none

/-- Whether a port has its count used up. -/
def Slot.outOver (x : Slot) (k : BitVec 3) : Bool := (x.outs[k.toNat]'k.isLt).rate ≤ (x.outs[k.toNat]'k.isLt).sent

/-- What a STEER sends on a port: the token, or nothing. -/
def Slot.steerOne (x : Slot) (k : BitVec 3) (t : Option Tok) : Slot :=
  match t with
  | some t => x.send k t
  | none => x.sendNone k

/-- Where a STEER sends its tokens (R188): the token for the true port and for the false port. -/
def steerToks (a b : Tok) : Except Stop (Option Tok × Option Tok) :=
  match a.kind, b.kind with
  | .elem, .elem => .ok (if b.val != 0 then (some a, none) else (none, some a))
  | .mrk m, .mrk n => if m = n then .ok (some ⟨0, .mrk m⟩, some ⟨0, .mrk m⟩) else .error (.flt { code := 0x31 })
  | _, _ => .error (.flt { code := 0x31 })

/-- STEER on a slot (R188). -/
def Slot.steer (o : Ops) (x : Slot) : Except Stop Slot :=
  let d := steerPort o.d
  match x.reads { o with d := .absent } .o with
  | .error e => .error e
  | .ok (g, y) =>
    if x.outOver d then .error (rateFlt (8 + d.toNat))
    else match (falsePort o).filter (fun k => x.outOver k || (k == d && (y.steerOne d none).outOver k)) with
      | some k => .error (rateFlt (8 + k.toNat))
      | none =>
        match steerToks g.a g.b with
        | .error e => .error e
        | .ok (t, f) =>
          let lackD := t.isSome && x.outCheck d == .lack
          let lackF := f.isSome && (falsePort o).any (fun k => x.outCheck k == .lack)
          if lackD || lackF || !x.regsHeld { o with d := .absent } then .error .wait
          else
            let y := y.steerOne d t
            let y := match falsePort o with
              | some k => y.steerOne k f
              | none => y
            .ok (y.retire o)

/-- STEER (R188). -/
def execSteer (o : Ops) (s : State) : Host.Outcome State Fault Refusal := s.runSlot 0 (Slot.steer o)

/-- STEER with a false port (R188). -/
def execSteerLong (o : Ops) (s : State) : Host.Outcome State Fault Refusal := s.runSlot 0 (Slot.steer o)

/-- The token at place n of a data port of a MERGE (R189); none while it has not come or DRN stands there. -/
def Slot.mergeHead (x : Slot) (n : Nat) : Opd → Option Tok
  | .inp k => match (x.ins[k.toNat]'k.isLt).queue[n]? with
    | some t => if t.kind = .mrk .drn then none else some t
    | none => none
  | _ => none

/-- The head of a data port taken by a MERGE, which does not count (R189). -/
def Slot.mergeTake (x : Slot) : Opd → Slot
  | .inp k =>
    let p := x.ins[k.toNat]'k.isLt
    { x with ins := x.ins.set k.toNat { p with queue := p.queue.drop 1, freed := p.freed + 1 } k.isLt }
  | _ => x

/-- The operands of a MERGE but its control: they are taken by the MERGE itself. -/
def mergeOps (o : Ops) : Ops := { o with a := .absent, b := .absent }

/-- What a MERGE with its control read finds at its data ports (R189). With a marker control, B names the token after A's when both
name one port (R149), and a head of another kind is a skew at once, whether or not the other port's has come (log entry 21). -/
def Slot.mergeData (o : Ops) (c : Tok) (y : Slot) : Except Stop Slot :=
  match c.kind with
  | .mrk m =>
    match y.mergeHead 0 o.a, y.mergeHead (b2n (o.a == o.b)) o.b with
    | some s, some t =>
      if s.kind = .mrk m && t.kind = .mrk m
      then .ok ((((y.mergeTake o.a).mergeTake o.b).writeTok o ⟨0, .mrk m⟩).retire o)
      else .error (.flt { code := 0x31 })
    | some s, none => if s.kind = .mrk m then .error .wait else .error (.flt { code := 0x31 })
    | none, some t => if t.kind = .mrk m then .error .wait else .error (.flt { code := 0x31 })
    | none, none => .error .wait
  | .elem =>
    let port := if c.val != 0 then o.a else o.b
    match y.mergeHead 0 port with
    | none => .error .wait
    | some t =>
      if t.kind = .elem then .ok (((y.mergeTake port).writeTok o t).retire o)
      else .error (.flt { code := 0x31 })

/-- The destination of a MERGE: its count used up is no reason to wait, and is found once the slot is ready (R40, R189). -/
def Slot.mergeWr (x : Slot) (o : Ops) : Wr :=
  match x.dstCheck o.d with
  | .over _ => .room
  | w => w

/-- MERGE on a slot (R189): it waits for its tokens (R40); then a destination beyond its count is a rate violation, before any marker
skew (R265). -/
def Slot.merge (o : Ops) (x : Slot) : Except Stop Slot :=
  match x.readsWith (mergeOps o) .o (x.mergeWr o) with
  | .error e => .error e
  | .ok (g, y) =>
    if !x.regsHeld (mergeOps o) then .error .wait
    else match y.mergeData o g.c with
      | .error .wait => .error .wait
      | r => match x.dstCheck o.d with
        | .over p => .error (rateFlt p)
        | _ => r

/-- MERGE (R189). -/
def execMerge (o : Ops) (s : State) : Host.Outcome State Fault Refusal := s.runSlot 0 (Slot.merge o)

/-! ### RACC and SEGR (R190, R191) -/

/-- The type of an accumulation: f32, or n32 for a count (R190). -/
def accT (o : Ops) : Nat := if o.t = 0 then (if o.f.toNat % 4 = 3 then 14 else 2) else o.t.toNat

/-- `ident(op, t)` (R190) as the 64-bit value written. -/
def accIdent (o : Ops) : Dword :=
  let t := accT o
  match o.f.toNat % 4 with
  | 1 => if tIsFlt t then putBits t (qnan t) else putI t (maxI t)
  | 2 => if tIsFlt t then putBits t (qnan t) else putI t (minI t)
  | _ => 0

/-- The key marker of RACC (R190). -/
def accKey (o : Ops) : Marker :=
  match o.f.toNat / 4 with
  | 1 => .seg
  | 2 => .row
  | _ => .ten

/-- An integer accumulation bounded or wrapped (R190). -/
def Slot.accInt (x : Slot) (o : Ops) (y : Int) : Dword × Slot :=
  let t := accT o
  if o.sat then
    let r := satI t y x.ar
    (putI t r.1, x.setAr r.2)
  else (putI t y, x)

/-- The accumulator after one element (R190). -/
def accStep (o : Ops) (x : Slot) (acc v : Dword) : Dword × Slot :=
  let t := accT o
  if tIsFlt t then
    let a := decF t acc.toNat
    let b := decF t v.toNat
    match o.f.toNat % 4 with
    | 1 => (fltExactRes t (minV a b), x)
    | 2 => (fltExactRes t (maxV a b), x)
    | _ => x.fltRes o t (addV (x.rm o) a b)
  else
    let a := valI t acc
    let b := valI t v
    match o.f.toNat % 4 with
    | 0 => x.accInt o (a + b)
    | 1 => (putI t (min a b), x)
    | 2 => (putI t (max a b), x)
    | _ => x.accInt o (a + 1)

/-- The register that holds the accumulator of RACC. -/
def accReg : Opd → BitVec 5
  | .reg c => c
  | _ => 0

/-- RACC on a slot (R190). -/
def Slot.racc (o : Ops) (x : Slot) : Except Stop Slot :=
  match x.reads { o with d := .absent } .o with
  | .error e => .error e
  | .ok (g, y) =>
    match g.a.kind with
    | .elem =>
      if !x.regsHeld o then .error .wait
      else
        let r := accStep o y g.b.val g.a.val
        .ok ((r.2.setSrcReg o (accReg o.b) r.1).retire o)
    | .mrk m =>
      if m ≠ accKey o then .error (.flt { code := 0x31 })
      else match x.dstCheck o.d with
        | .over p => .error (rateFlt p)
        | .lack => .error .wait
        | .room =>
          if !x.regsHeld o then .error .wait
          else .ok (((y.writeD o g.b.val).setSrcReg o (accReg o.b) (accIdent o)).retire o)

/-- RACC (R190). -/
def execRacc (o : Ops) (s : State) : Host.Outcome State Fault Refusal :=
  s.runSlot (if accT o = 1 then 2 else if tIsFlt (accT o) then 1 else 0) (Slot.racc o)

/-- RACC with its type, rounding and saturation (R190). -/
def execRaccLong (o : Ops) (s : State) : Host.Outcome State Fault Refusal :=
  s.runSlot (if accT o = 1 then 2 else if tIsFlt (accT o) then 1 else 0) (Slot.racc o)

/-- SEGR (R191). -/
def execSegr (o : Ops) (s : State) : Host.Outcome State Fault Refusal := s.alu o 0 (fun _ x => (accIdent o, x))

/-- SEGR with its type (R191). -/
def execSegrLong (o : Ops) (s : State) : Host.Outcome State Fault Refusal := s.alu o 0 (fun _ x => (accIdent o, x))

/-! ### RWSET and VRHINT (R192, R193) -/

/-- RWSET on a slot (R192). -/
def Slot.rwset (o : Ops) : Slot → Except Stop Slot :=
  Slot.plain o (fun g y =>
    .ok ({ y with wbase := (if o.a = Opd.absent then 0#6 else g.a.val.setWidth 6) + o.imm10.signExtend 6 }.retire o))

/-- RWSET (R192). -/
def execRwset (o : Ops) (s : State) : Host.Outcome State Fault Refusal := s.runSlot 0 (Slot.rwset o)

/-- A register brought into the cache for a hint (R193): a fill that would fault is abandoned. -/
def State.hintFill (s : State) (n : Nat) : State :=
  match s.fill n with
  | .ok t => t
  | .error .absent => s
  | .error (.flt _) => s.hvFresh s.slotCtx

/-- A register written back and released for a hint (R193): one whose save word cannot be reached stays. -/
def State.hintDrop (s : State) (n : Nat) : State :=
  let release (t : State) : State := { t with slot := { t.slot with vcache := t.slot.vcache.filter (fun e => e.reg != n) } }
  match s.slot.vcache.find? (fun e => e.reg == n) with
  | none => s
  | some e =>
    if !e.dirty then release s
    else match s.spill n e.val with
      | .ok t => release t
      | .error .absent => s
      | .error (.flt _) => s.hvFresh s.slotCtx

/-- The registers of a hint filled, or written back and released (R193): no value changes and no fault is raised. -/
def State.vrhint (s : State) (o : Ops) : State :=
  match o.a with
  | .reg c => ((List.range o.imm12.toNat).map (fun k => vSrc o c + k)).foldl (if o.f = 0 then State.hintFill else State.hintDrop) s
  | _ => s

/-- VRHINT (R193). -/
def execVrhint (o : Ops) (s : State) : Host.Outcome State Fault Refusal :=
  s.run (fun s =>
    let t := if s.slot.ctl then s.vrhint o else s
    .ok { t with slot := (t.slot.retire o).owe 0 1 })

end Sys2Proof.Machine
end

