-- ==== Sys2Proof/Machine/Nodes.lean ====
section
/-! DEFINITION. The nodes of a section (R55): stream ports and islands, and the tiles that they have left (R393). -/

namespace Sys2Proof.Machine

open Sys2Proof

/-- The elements of dimension k of a window: 1 beyond its dimensions. -/
def Window.ext1 (w : Window) (k : Nat) : Nat := if h : k < 3 then w.ext[k] + 1 else 1
/-- The elements of a window: one tile of its stream port (log entry 10). -/
def Window.count (w : Window) : Nat := w.ext1 0 * w.ext1 1 * w.ext1 2

/-- The stream ports of a partition that are nodes of a section: unit and port. -/
def State.sectPorts (s : State) (p sect : Nat) : List (Nat × Nat) :=
  (s.part p).cus.flatMap (fun u => ((s.mt u).ports.filter (fun x => x.2.node && x.2.sect == sect)).map (fun x => (u, x.1)))

/-- Whether an island is a source node of its section (R55): none of its input channels is linked. -/
def Island.isSource (x : Island) : Bool := !(x.cmd.bound || x.feed.bound)

/-- The islands of a partition's forme that are nodes of a section. -/
def State.sectIslands (s : State) (p sect : Nat) : List Nat :=
  (s.islands.filter (fun x => x.2.bound && x.2.prt == p && x.2.sect == sect)).map (fun x => x.1)

/-- A stream port. -/
def State.port (s : State) (u k : Nat) : StreamPort := tget {} (s.mt u).ports k
/-- A stream port replaced. -/
def State.setPort (s : State) (u k : Nat) (x : StreamPort) : State :=
  s.setMt u { s.mt u with ports := tput {} (s.mt u).ports k x }

/-- The window that a stream port delivers through. -/
def StreamPort.window (x : StreamPort) : Window := tget {} x.wins x.win

/-- The tiles that a section has still to process (R273, R393), its count still held: the most that any of its nodes has. -/
def State.tilesLeft (s : State) (p sect : Nat) : Nat :=
  let ports := (s.sectPorts p sect).map (fun uk =>
    let x := s.port uk.1 uk.2
    (x.todo + x.window.count - 1) / x.window.count)
  let isls := (s.sectIslands p sect).map (fun n => (s.isl n).todo)
  (ports ++ isls).foldl max 0

end Sys2Proof.Machine
end

