-- ==== Sys2Proof/Machine/KvPages.lean ====
section
/-! DEFINITION. Compressed key-value pages (R300 to R305): PGSEL, KVAPP and KVLD. -/

namespace Sys2Proof.Machine

open Sys2Proof

/-! ### Exact helpers -/

/-- The bf16 value that two bytes hold. -/
def bf16At (bs : List Byte) (i : Nat) : FV := decF 4 (bytesToNat ((bs.drop (2 * i)).take 2))

/-- An f32 sum to nearest even (R303, R304). -/
def addF (x y : FV) : FV := accV 2 x (some y)

/-- An f32 sum with an exact product (R303). -/
def mulAddF (x a b : FV) : FV := accV 2 x (mulV a b)

/-- The square root rounded to f32 (R303). -/
def sqrtF (x : FV) : FV :=
  match fnSqrt 2 x with
  | none => .nan
  | some y => rneF 2 y

/-- An f32 value divided by a count, rounded to f32 (R304). -/
def divF (x : FV) (n : Nat) : FV :=
  match x with
  | .fin s m e =>
    let k := 64 + Nat.log2 (n + 1)
    rneF 2 (standIn s (m * 2 ^ k / n) (e - k) (m * 2 ^ k % n == 0))
  | v => v

/-! ### Headers (R301) -/

/-- The token count of a header. -/
def pgCount (h : Nat) : Nat := bits h 15 0
/-- The dimension of a header. -/
def pgDim (h : Nat) : Nat := bits h 31 24
/-- Whether a dimension is one of R301. -/
def dimOk (d : Nat) : Bool := d == 32 || d == 64 || d == 96
/-- Whether a header is of a legal form (R301). -/
def pgLegal (h : Nat) : Bool := bits h 23 16 == 1 && dimOk (pgDim h) && pgCount h ≤ 64 && h / 2 ^ 128 % 2 ^ 384 == 0

/-- A page-format fault (R301). -/
def pageFormat : Flt := { code := 0x45 }

/-! ### At issue (R302) -/

/-- Ranges translated, tested for the MU kind and their permissions (R302): the list gives address and length. -/
def kvPages (s : State) (rs : List (Nat × Nat)) (w : Bool) : Res State :=
  match translateAll s s.slotUnit s.slotCtx (rs.flatMap (fun r => pagesOf r.1 r.2)) with
  | .error (f, s) => .error (.flt f, s)
  | .ok (s, ts) =>
    match kindAll .mu ts with
    | .error f => .error (.flt f, s)
    | .ok _ =>
      match permAll true w ts with
      | .error f => .error (.flt f, s)
      | .ok _ => .ok s

/-- The fields of a PGSEL command block (R303). -/
structure PgBlock where
  out   : Dword
  dim   : Nat
  k     : Nat
  n     : Nat
  list  : Dword
  qaddr : Dword

/-- A command block read as a number (R303). -/
def PgBlock.ofNat (v : Nat) : PgBlock :=
  { out := BitVec.ofNat 64 (v / 2 ^ 192), dim := bits v 183 176, k := bits v 175 160, n := bits v 159 128,
    list := BitVec.ofNat 64 (v / 2 ^ 64), qaddr := BitVec.ofNat 64 v }

/-- Whether every field of a block lies in its range (R303). -/
def PgBlock.ok (v : Nat) : Bool :=
  let b := PgBlock.ofNat v
  bits v 191 184 == 0 && b.out.toNat % 4 == 0 && dimOk b.dim && 1 ≤ b.k && b.k ≤ 1024 && 1 ≤ b.n && b.n ≤ 65536

/-- The entries of a list of 64-bit numbers. -/
def words64 : Nat → List Byte → List Nat
  | 0, _ => []
  | n + 1, bs => bytesToNat (bs.take 8) :: words64 n (bs.drop 8)

/-- The scratchpad areas of a PGSEL tested at issue. -/
def pgAreas (s : State) (b : PgBlock) : Except Flt Unit :=
  match spRange s s.slot.prt s.slotUnit b.out (8 * b.k), spRange s s.slot.prt s.slotUnit b.qaddr (2 * b.dim) with
  | .error f, _ => .error f
  | _, .error f => .error f
  | .ok _, .ok _ => .ok ()

/-- PGSEL at issue (R302, R303). -/
def pgselOp (o : Ops) (s : State) : Res State :=
  s.guarded o (fun g t =>
    match t.openable false (curReg o.d) with
    | .error e => .error e
    | .ok _ =>
      match lvlRead false t g.a.val 32 with
      | .error e => .error e
      | .ok (t, v) =>
        let b := PgBlock.ofNat v
        if !PgBlock.ok v then .error (.flt pageFormat, t)
        else match pgAreas t b with
          | .error f => .error (.flt f, t)
          | .ok _ =>
            match kvPages t [(b.list.toNat, 8 * b.n)] false with
            | .error e => .error e
            | .ok t =>
              match engReadOk t t.slotUnit t.slotCtx b.list.toNat (8 * b.n) with
              | .error .absent => .error (.wait, t)
              | .error (.flt f) => .error (.flt f, t)
              | .ok (t, bs) =>
                let recs := words64 b.n bs
                match recs.find? (fun r => r % 64 != 0) with
                | some r => .error (.flt { code := 0x20, addr := BitVec.ofNat 64 r }, t)
                | none =>
                  match kvPages t (recs.map (fun r => (r, 0x140))) false with
                  | .error e => .error e
                  | .ok t =>
                    .ok ((t.setCursor false (curReg o.d) (.pending t.nextCmd)).command { o with d := .absent }
                      (.pgsel (BitVec.ofNat 64 0) (curReg o.d).toNat) (BitVec.ofNat 64 v :: BitVec.ofNat 64 (v / 2 ^ 64) ::
                        BitVec.ofNat 64 (v / 2 ^ 128) :: BitVec.ofNat 64 (v / 2 ^ 192) :: recs.map (BitVec.ofNat 64))))

/-- The bytes of a key or value vector of a page, as its header gives DIM; 0 when the header holds no dimension of R301. -/
def kvVecBytes (s : State) (page : Nat) : Nat :=
  match engReadOk s s.slotUnit s.slotCtx page 64 with
  | .error _ => 0
  | .ok (_, bs) => let d := pgDim (bytesToNat bs); if dimOk d then 2 * d else 0

/-- KVAPP at issue (R302, R304): the page, and the DIM elements of the key and the value vector in virtual memory. -/
def kvappOp (o : Ops) (s : State) : Res State :=
  s.guardedWith o (s.slot.cmdCheck o.d) (fun g t =>
    let page := g.a.val
    if page.toNat % 2 ^ 14 ≠ 0 then .error (.flt { code := 0x20, addr := page }, t)
    else match kvPages t [(page.toNat, 2 ^ 14)] true with
      | .error e => .error e
      | .ok t =>
        let n := kvVecBytes t page.toNat
        match kvPages t [(g.b.val.toNat, n), (g.c.val.toNat, n)] false with
        | .error e => .error e
        | .ok t => .ok (t.command o (.kvapp page g.b.val g.c.val) []))

/-- The element size of a KVLD (R305). -/
def kvSize (f32 : Bool) : Nat := if f32 then 4 else 2

/-- KVLD at issue (R302, R305). -/
def kvldOp (o : Ops) (s : State) : Res State :=
  s.guardedWith o (s.slot.cmdCheck o.d) (fun g t =>
    let page := g.a.val
    let f32 := o.f.getLsbD 1
    if page.toNat % 2 ^ 14 ≠ 0 then .error (.flt { code := 0x20, addr := page }, t)
    else if g.b.val.toNat % kvSize f32 ≠ 0 then .error (.flt { code := 0x20, addr := g.b.val }, t)
    else match kvPages t [(page.toNat, 2 ^ 14)] false with
      | .error e => .error e
      | .ok t => .ok (t.command o (.kvld page g.b.val (o.f.getLsbD 0) f32) []))

/-- PGSEL (R303). -/
def execPgsel (o : Ops) (s : State) : Host.Outcome State Fault Refusal := s.run (pgselOp o)
/-- KVAPP (R304). -/
def execKvapp (o : Ops) (s : State) : Host.Outcome State Fault Refusal := s.run (kvappOp o)
/-- KVLD (R305). -/
def execKvld (o : Ops) (s : State) : Host.Outcome State Fault Refusal := s.run (kvldOp o)

/-! ### The engine: PGSEL (R303) -/

/-- The bound b_i of a record, none when it is never selected: the query, its norm, and the bytes of the record. -/
def pgBound (q : List FV) (nq : FV) (rec : List Byte) : Option FV :=
  if pgCount (bytesToNat (rec.take 64)) = 0 then none
  else
    let c := rec.drop 64
    let dot := (List.range q.length).foldl (fun d j => mulAddF d (q.getD j .nan) (bf16At c j)) (.fin false 0 0)
    let r := decF 4 (bytesToNat ((rec.drop 256).take 2))
    let b := addF dot (mulAddF (.fin false 0 0) nq r)
    if b = .nan then none else some b

/-- The bounds of the records, read in order (R303); a bad header is a page-format fault. -/
def pgBounds (c : Cmd) (ctx dim : Nat) (q : List FV) (nq : FV) : State → List Nat → Except EErr (State × List (Option FV))
  | s, [] => .ok (s, [])
  | s, r :: rs =>
    match engReadOk s c.unit ctx r 0x140 with
    | .error e => .error e
    | .ok (s, bs) =>
      let h := bytesToNat (bs.take 64)
      if !pgLegal h || pgDim h ≠ dim then .error (.flt pageFormat)
      else match pgBounds c ctx dim q nq s rs with
        | .error e => .error e
        | .ok (s, xs) => .ok (s, pgBound q nq bs :: xs)

/-- Whether entry j is chosen before entry i: a greater bound, or an equal one at a lower number (R303). -/
def pgBefore (bi bj : FV) (i j : Nat) : Bool := ltV bi bj || (!ltV bj bi && j < i)

/-- The chosen entries in ascending order (R303). -/
def pgChoose (k : Nat) (bs : List (Option FV)) : List (Nat × FV) :=
  let xs : List (Nat × FV) := ((List.range bs.length).filterMap (fun i => (bs.getD i none).map (fun b => (i, b))))
  xs.filter (fun x => (xs.filter (fun y => pgBefore x.2 y.2 x.1 y.1)).length < k)

/-- A selection performed (R303). A result area at which the fibre's base would be misaligned is a fibre-descriptor fault of the
engine that builds the descriptor (R284), once the results are written. -/
def doPgsel (s : State) (c : Cmd) (fb : Nat) : Except EErr State :=
  let v := (c.block.take 4).foldr (fun w a => w.toNat + 2 ^ 64 * a) 0
  let b := PgBlock.ofNat v
  match s.cmdSp c b.qaddr (2 * b.dim), s.cmdSp c b.out (8 * b.k) with
  | .error e, _ => .error e
  | _, .error e => .error e
  | .ok (u, off), .ok (u', off') =>
    let qs := readBytes s.mem.sram (spAddr u off) (2 * b.dim)
    let q := (List.range b.dim).map (bf16At qs)
    let nq := sqrtF (q.foldl (fun a x => mulAddF a x x) (.fin false 0 0))
    match pgBounds c (s.cmdCtx c) b.dim q nq s ((c.block.drop 4).map BitVec.toNat) with
    | .error e => .error e
    | .ok (s, bs) =>
      let xs := pgChoose b.k bs
      let m := s.mem.spPut u' off' (xs.flatMap (fun x => natToBytes 4 x.1))
      let m := m.spPut u' (off' + 4 * b.k) (xs.flatMap (fun x => natToBytes 4 (encF 2 x.2)))
      let s : State := { s with mem := m }
      let d : Desc := { vbase := b.out + BitVec.ofNat 64 (4 * b.k), pbase := b.out, n := xs.length, ext := b.n, vt := 2, gk := 0,
                        fmt := 1 }
      if b.out.toNat % 8 ≠ 0 then .ok (s.failCmd c (s.mtImgc c.prt c.unit 4) { code := 0x41 })
      else
      let s := s.updSlot c.place (fun x => if x.st = .retired then x
        else x.setCursor false (BitVec.ofNat 3 fb) (.opened d 0 ((xs.head?.map (fun y => y.1)).getD b.n)))
      .ok ((s.complete c 0).chargeCmd c 12 ((0x140 * b.n + 127) / 128))

/-! ### The engine: KVAPP (R304) -/

/-- The greater magnitude of two values, an infinity above every finite one. -/
def maxMag (x y : FV) : FV := if ltV x.abs y.abs then y.abs else x.abs

/-- `scale of R128` over source values, for the emax of a format. -/
def blockScale (emax : Int) (xs : List FV) : Nat :=
  if xs.any (fun x => x == .nan) then 255
  else match xs.foldl maxMag (.fin false 0 0) with
    | .inf _ => 254
    | .fin _ m e => if m = 0 then 127 else (min 254 (max 0 ((Nat.log2 m : Int) + e - emax + 127))).toNat
    | .nan => 255

/-- A key's code: rnd(x · 2^(127−S), x8e4, 1), whatever the scale (R304). -/
def keyCode (sc : Nat) (x : FV) : Byte :=
  match x with
  | .fin s m e => BitVec.ofNat 8 (encF 5 (rneF 5 (.fin s m (e + 127 - sc))))
  | v => BitVec.ofNat 8 (encF 5 (rneF 5 v))

/-- A code of a block: that of its scaled element, the NaN code in a NaN block (R128). -/
def blockCode (sc : Nat) (x : FV) : Byte := if sc = 255 then 0x80 else keyCode sc x

/-- Element j of the key of token u in a page's bytes (R300). -/
def keyAt (page : List Byte) (u j : Nat) : FV :=
  scaleV (page.getD (0x140 + u) 0).toNat (decF 5 (page.getD (0x400 + 96 * u + j) 0).toNat)

/-- Element j of the value of token u (R300). -/
def valAt (page : List Byte) (u j : Nat) : FV :=
  scaleV (page.getD (0x180 + 3 * u + j / 32) 0).toNat (decF 5 (page.getD (0x1C00 + 96 * u + j) 0).toNat)

/-- A byte string laid over a page. -/
def overlay (page : List Byte) (off : Nat) (bs : List Byte) : List Byte := page.take off ++ bs ++ page.drop (off + bs.length)

/-- A page with one token appended and its summary rebuilt (R304). -/
def kvAppend (page : List Byte) (xs ys : List FV) : List Byte :=
  let h := bytesToNat (page.take 64)
  let t := pgCount h
  let dim := pgDim h
  let sc := blockScale 7 xs
  let page := overlay page (0x400 + 96 * t) (xs.map (keyCode sc))
  let page := overlay page (0x140 + t) [BitVec.ofNat 8 sc]
  let page := (List.range (dim / 32)).foldl (fun page b =>
    let ys := (ys.drop (32 * b)).take 32
    let sc := blockScale 7 ys
    overlay (overlay page (0x1C00 + 96 * t + 32 * b) (ys.map (blockCode sc))) (0x180 + 3 * t + b) [BitVec.ofNat 8 sc]) page
  let page := overlay page 0 (natToBytes 2 (t + 1))
  let cs := (List.range dim).map (fun j =>
    let sum := (List.range (t + 1)).foldl (fun a u => addF a (keyAt page u j)) (.fin false 0 0)
    rneF 4 (divF sum (t + 1)))
  let dist (u : Nat) : FV := sqrtF ((List.range dim).foldl (fun a j =>
    let dd := addF (keyAt page u j) (cs.getD j .nan).negate
    mulAddF a dd dd) (.fin false 0 0))
  let dmax := (List.range (t + 1)).foldl (fun a u => maxV a (dist u)) (.fin false 0 0)
  let r := (rndF 4 4 dmax ⟨1, 0⟩).1
  overlay (overlay page 0x40 (cs.flatMap (fun c => natToBytes 2 (encF 4 c)))) 0x100 (natToBytes 2 (encF 4 r))

/-- An append performed (R302, R304). -/
def doKvapp (s : State) (c : Cmd) (page key value : Dword) : Except EErr State :=
  let ctx := s.cmdCtx c
  match engReadOk s c.unit ctx page.toNat (2 ^ 14) with
  | .error e => .error e
  | .ok (s, bs) =>
    let h := bytesToNat (bs.take 64)
    if !pgLegal h || pgCount h = 64 then .error (.flt pageFormat)
    else match engReadOk s c.unit ctx key.toNat (2 * pgDim h) with
      | .error e => .error e
      | .ok (s, ks) =>
        match engReadOk s c.unit ctx value.toNat (2 * pgDim h) with
        | .error e => .error e
        | .ok (s, vs) =>
          let xs := (List.range (pgDim h)).map (bf16At ks)
          let ys := (List.range (pgDim h)).map (bf16At vs)
          match engWrite s c.unit ctx page.toNat (kvAppend bs xs ys) with
          | (_, some e) => .error e
          | (s, none) => .ok ((s.complete c (BitVec.ofNat 64 (pgCount h + 1))).chargeCmd c 12 128)

/-! ### The engine: KVLD (R305) -/

/-- A load of a page's keys or values performed (R305). -/
def doKvld (s : State) (c : Cmd) (page dst : Dword) (vals f32 : Bool) : Except EErr State :=
  match engReadOk s c.unit (s.cmdCtx c) page.toNat (2 ^ 14) with
  | .error e => .error e
  | .ok (s, bs) =>
    let h := bytesToNat (bs.take 64)
    if !pgLegal h then .error (.flt pageFormat)
    else
      let ty := if f32 then 2 else 4
      let e := kvSize f32
      let elem (i : Nat) : FV := if vals then valAt bs (i / pgDim h) (i % pgDim h) else keyAt bs (i / pgDim h) (i % pgDim h)
      let n := pgCount h * pgDim h
      match s.cmdSp c dst (e * n) with
      | .error x => .error x
      | .ok (u, off) =>
        let out := (List.range n).flatMap (fun i => natToBytes e (encF ty (rneF ty (elem i))))
        .ok ((({ s with mem := s.mem.spPut u off out } : State).complete c (BitVec.ofNat 64 (pgCount h))).chargeCmd c 12 128)

end Sys2Proof.Machine
end

