-- ==== Sys2Proof/Machine/Pictures.lean ====
section
/-! DEFINITION. Parsed frames (R306, R307, R311 to R319): the checks of a frame, the picture slots, the coefficient state of its
cells, and its packets. What the standards make of the bytes is left open as a whole (log entry 11). -/

namespace Sys2Proof.Machine

open Sys2Proof

/-- Byte `i` of a block read as a number. -/
def fieldAt (v off n : Nat) : Nat := v / 2 ^ (8 * off) % 2 ^ (8 * n)

/-! ### The coefficient state of a cell (R316) -/

/-- The rows of Q (R316). -/
def qRows : List (List Int) :=
  [[8192, 8192, 8192, 8192], [10703, 4433, -4433, -10703], [8192, -8192, -8192, 8192], [4433, -10703, 10703, -4433]]

/-- An element of Q. -/
def qAt (k n : Nat) : Int := (qRows.getD k []).getD n 0

/-- The sum of a double index below 4. -/
def sum44 (f : Nat → Nat → Rat) : Rat :=
  ((List.range 4).flatMap (fun i => (List.range 4).map (f i))).foldl (fun a b => a + b) 0

/-- sig of R316: sample (r, c) of the signal of a cell whose 16 stored values are given. -/
def sigAt (st : List Int) (r c : Nat) : Rat :=
  sum44 (fun k l => (qAt k r : Rat) * (st.getD (4 * k + l) 0 : Int) * (qAt l c : Int)) / (16 * 2 ^ 28)

/-- rna16 of R316: 16·v rounded to nearest, ties away from zero, and held within i32; with whether it was held. -/
def rna16 (v : Rat) : Int × Bool :=
  let w := 16 * v
  let n : Int := if w < 0 then -((-w + 1 / 2).floor) else (w + 1 / 2).floor
  if 2 ^ 31 - 1 < n then (2 ^ 31 - 1, true) else if n < -2 ^ 31 then (-2 ^ 31, true) else (n, false)

/-- fwd of R316: the 16 stored values of a signal, and whether one of them saturated. -/
def fwdCell (sig : Nat → Nat → Rat) : List Int × Bool :=
  let vs := (List.range 16).map (fun i => rna16 (sum44 (fun r c => (qAt (i / 4) r : Rat) * sig r c * (qAt (i % 4) c : Int)) / 2 ^ 28))
  (vs.map (fun v => v.1), vs.any (fun v => v.2))

/-! ### The layout of picture slots (R317) -/

/-- Cells of a row of a component plane. -/
def Strm.cellRow (x : Strm) (comp : Nat) : Nat := if comp = 0 then (x.maxw + 3) / 4 else (x.maxw + 7) / 8
/-- Cells of a component plane. -/
def Strm.cellCount (x : Strm) (comp : Nat) : Nat := x.cellRow comp * (if comp = 0 then (x.maxh + 3) / 4 else (x.maxh + 7) / 8)
/-- PSZ (R317). -/
def Strm.psz (x : Strm) : Nat := 64 * (x.cellCount 0 + 2 * x.cellCount 1)
/-- The address of picture slot p (R317). -/
def Strm.slotAt (x : Strm) (p : Nat) : Nat := x.stbase.toNat + p * x.psz
/-- The address of a cell within picture slot p (R317). -/
def Strm.cellAt (x : Strm) (p comp cx cy : Nat) : Nat :=
  let plane := match comp with
    | 0 => 0
    | 1 => x.cellCount 0
    | _ => x.cellCount 0 + x.cellCount 1
  x.slotAt p + 64 * plane + 64 * (cy * x.cellRow comp + cx)

/-! ### The checks of a frame (R306, R307, R319) -/

/-- Whether a codec takes the tools of a frame (R306). -/
def toolsOk (codec : Nat) (y : Config.FrameSyntax) : Bool :=
  match codec with
  | 1 => (y.profile == .h265Main && y.bitDepth == 8 || y.profile == .h265Main10 && y.bitDepth ≤ 10) && y.level ≤ 62 && y.chroma420 && !y.extensions
  | 2 => y.profile == .av1Main && (y.bitDepth == 8 || y.bitDepth == 10) && y.level ≤ 63 && y.chroma420 && !y.superRes
  | _ => (y.profile == .h264ConstrainedBaseline || y.profile == .h264Main || y.profile == .h264High) && y.bitDepth == 8 && y.chroma420

/-- Whether a picture's size lies within R307 and the stream's own limits. -/
def Strm.sizeOk (x : Strm) (y : Config.FrameSyntax) : Bool :=
  y.width ≤ 8192 && y.height ≤ 8192 && y.width * y.height ≤ 35651584 && y.width ≤ x.maxw && y.height ≤ x.maxh

/-- The largest side of a transform block of a codec (R311, R313). -/
def maxSide (codec : Nat) : Nat := if codec = 3 then 8 else if codec = 1 then 32 else 64

/-- Whether a block has the form that R313 can say: sides in multiples of 4, and a transform block of its codec. -/
def blockOk (codec : Nat) (y : Config.FrameSyntax) (b : Config.BlockSyntax) : Bool :=
  let side (n : Nat) : Bool := n % 4 == 0 && 4 ≤ n
  side b.w && side b.h && b.w ≤ 256 && b.h ≤ 256 && side b.tw && side b.th && b.tw ≤ maxSide codec && b.th ≤ maxSide codec && b.comp ≤ 2 &&
  b.refs.length ≤ 2 &&
  (match b.tb with
   | none => true
   | some k => (y.tbs[k]?).any (fun t => t.w == b.tw && t.h == b.th))

/-- The pictures that still hold a slot when a frame is decoded. -/
def Strm.heldFor (x : Strm) (y : Config.FrameSyntax) : List Pic := x.pics.filter (fun p => !y.before.contains p.frame)

/-- Whether a slot is free for the frame in hand (R318): no picture holds it, and, when it was released while frame f was
parsed, the SXFRM that requests frame f + LAG has issued. -/
def Strm.slotFree (x : Strm) (held : List Pic) (freed : List (Nat × Nat)) (p : Nat) : Bool :=
  held.all (fun h => h.slot != p) && freed.all (fun r => r.1 != p || r.2 + x.lag < x.frame + x.reqs.length)

/-- The released slots once some pictures leave (R318). -/
def Strm.release (x : Strm) (freed : List (Nat × Nat)) (gone : List Pic) : List (Nat × Nat) :=
  freed.filter (fun r => gone.all (fun g => g.slot != r.1)) ++ gone.map (fun g => (g.slot, x.frame))

/-- The released slots before the frame in hand takes one. -/
def Strm.freedFor (x : Strm) (y : Config.FrameSyntax) : List (Nat × Nat) :=
  x.release x.freed (x.pics.filter (fun p => y.before.contains p.frame))

/-- The slot of the frame in hand: the free one of lowest number (R318). -/
def Strm.newSlot (x : Strm) (y : Config.FrameSyntax) : Option Nat :=
  (List.range x.nst).find? (x.slotFree (x.heldFor y) (x.freedFor y))

/-- The pictures that a frame refers to, or shows again. -/
def refPics (y : Config.FrameSyntax) : List Nat :=
  match y.shows with
  | some k => [k]
  | none => y.refs0 ++ y.refs1 ++ y.cells.flatMap (fun c => c.taps.flatMap (fun ts => ts.filterMap (fun t => t.frame)))

/-- The stream error of a frame, 0 when it has none (R319); of several causes the lowest code (log entry 11). -/
def Strm.errorOf (x : Strm) (y : Config.FrameSyntax) : Nat :=
  if !y.wellFormed || !y.blocks.all (blockOk x.codec y) then 1
  else if !toolsOk x.codec y || 8 < y.refs0.length || 8 < y.refs1.length then 2
  else if x.codec = 3 && y.fieldCoded then 3
  else if !x.sizeOk y then 4
  else if y.shows.isNone && (x.newSlot y).isNone then 5
  else if !(refPics y).all (fun f => (x.heldFor y).any (fun h => h.frame == f)) then 6
  else 0

/-! ### The state of a picture (R316) -/

/-- The width or height of a component plane of a picture. -/
def planeDim (comp n : Nat) : Nat := if comp = 0 then n else (n + 1) / 2

/-- The 16 values of a stored cell. -/
def cellRead (s : State) (u ctx a : Nat) : Except EErr (State × List Int) :=
  match engReadOk s u ctx a 64 with
  | .error e => .error e
  | .ok (s, bs) => .ok (s, (List.range 16).map (fun i => signed 32 (bytesToNat ((bs.drop (4 * i)).take 4))))

/-- The 64 bytes of a cell's 16 values. -/
def cellBytes (vs : List Int) : List Byte := vs.flatMap (fun v => natToBytes 4 (v % 2 ^ 32).toNat)

/-- The picture that a tap reads: the one it names, or the picture in hand. -/
def tapPic (here : Pic) (pics : List Pic) (t : Config.PredTap) : Pic :=
  match t.frame with
  | none => here
  | some f => (pics.find? (fun q => q.frame == f)).getD here

/-- The sample that a tap reads, from the cell signals of its picture (R316): a position beyond that picture is that of its
nearest sample, as the three standards pad. -/
def tapSample (u : Nat) (x : Strm) (here : Pic) (pics : List Pic) (s : State) (t : Config.PredTap) : Except EErr (State × Rat) :=
  let p := tapPic here pics t
  let within (v : Int) (n : Nat) : Nat := (min (max v 0) ((planeDim t.comp n : Int) - 1)).toNat
  let px := within t.x p.width
  let py := within t.y p.height
  match cellRead s u x.ctx (x.cellAt p.slot t.comp (px / 4) (py / 4)) with
  | .error e => .error e
  | .ok (s, vs) => .ok (s, sigAt vs (py % 4) (px % 4) * ((t.num : Rat) / (t.den : Nat)))

/-- The sum of taps. -/
def tapSum (u : Nat) (x : Strm) (here : Pic) (pics : List Pic) : State → List Config.PredTap → Except EErr (State × Rat)
  | s, [] => .ok (s, 0)
  | s, t :: ts =>
    match tapSample u x here pics s t with
    | .error e => .error e
    | .ok (s, v) =>
      match tapSum u x here pics s ts with
      | .error e => .error e
      | .ok (s, w) => .ok (s, v + w)

/-- The samples of a cell from the i-th of a list on (R316): the prediction, its constant part and its taps, plus the residual. -/
def cellSamples (u : Nat) (x : Strm) (here : Pic) (pics : List Pic) (c : Config.CellSyntax) : State → List Nat → Except EErr (State × List Rat)
  | s, [] => .ok (s, [])
  | s, i :: is =>
    let b := c.base.getD i (0, 1)
    match tapSum u x here pics s (c.taps.getD i []) with
    | .error e => .error e
    | .ok (s, v) =>
      match cellSamples u x here pics c s is with
      | .error e => .error e
      | .ok (s, vs) => .ok (s, ((b.1 : Rat) / (b.2 : Nat) + v + (c.res.getD i 0 : Int)) :: vs)

/-- The stored values of a cell from its 16 samples (R316): S := fwd(pred + res), samples beyond the decoded area as copies of the
nearest inside it; with whether a value saturated. -/
def cellValues (here : Pic) (c : Config.CellSyntax) (vs : List Rat) : List Int × Bool :=
  let inx (n k o : Nat) : Nat := min k (planeDim c.comp n - 1 - 4 * o)
  fwdCell (fun r k => vs.getD (4 * inx here.height r c.cy + inx here.width k c.cx) 0)

/-- The cells of the picture in hand computed and stored, in decode order, with whether a value saturated; it stops at the first
access that another package has not answered, or that faults (R311). -/
def cellSteps (u : Nat) (x : Strm) (here : Pic) (pics : List Pic) : State → List Config.CellSyntax → Except EErr (State × Bool)
  | s, [] => .ok (s, false)
  | s, c :: cs =>
    match cellSamples u x here pics c s (List.range 16) with
    | .error e => .error e
    | .ok (s, vs) =>
      let f := cellValues here c vs
      match engWrite s u x.ctx (x.cellAt here.slot c.comp c.cx c.cy) (cellBytes f.1) with
      | (_, some e) => .error e
      | (s, none) =>
        match cellSteps u x here pics s cs with
        | .error e => .error e
        | .ok (s, sat) => .ok (s, f.2 || sat)

/-! ### Records and packets (R311 to R315) -/

/-- An integer clamped to i16, and whether it was. -/
def toI16 (v : Int) : Int × Bool := if 32767 < v then (32767, true) else if v < -32768 then (-32768, true) else (v, false)

/-- The coefficient entries of a transform block (R315), row 0 first; positions that the standard does not code hold 0. -/
def coeffsOf (levels : Bool) (t : Config.TransformBlock) : List Int :=
  (List.range (t.w * t.h)).map (fun i => (toI16 ((if levels then t.levels else t.deq).getD i 0)).1)

/-- Whether a level of a transform block saturates (R315). -/
def levelSat (t : Config.TransformBlock) : Bool := (List.range (t.w * t.h)).any (fun i => (toI16 (t.levels.getD i 0)).2)

/-- ENERGY of a transform block (R315). -/
def energyOf (t : Config.TransformBlock) : Nat :=
  min (((coeffsOf false t).map (fun v => (v * v).toNat)).foldl (fun a b => a + b) 0) (2 ^ 32 - 1)

/-- A motion-vector component in units of 1/16 sample of the plane (R314). -/
def mvScale (codec comp : Nat) (v : Int) : Int :=
  if codec = 2 then (if comp = 0 then v * 2 else v) else (if comp = 0 then v * 4 else v * 2)

/-- The motion-vector entries of a block (R314): one for each of its references. -/
def mvsOf (codec : Nat) (b : Config.BlockSyntax) : List (Int × Int) :=
  (b.mvs.take (b.refs.filter Option.isSome).length).map (fun v => (mvScale codec b.comp v.1, mvScale codec b.comp v.2))

/-- MODE (R313). -/
def modeCode : Config.BlockMode → Nat
  | .intra => 0
  | .inter => 1
  | .interNoResidual => 2
  | .intraCopy => 3
  | .palette => 4

/-- REF0 or REF1 (R313): a list index, or an AV1 reference less 1; 0xFF for none. -/
def refCode (codec : Nat) (r : Option Nat) : Nat :=
  match r with
  | none => 0xFF
  | some n => (if codec = 2 then n - 1 else n) % 256

/-- A record (R313) as a number: `mv` and `co` are its MVOFF and COFF. -/
def recordNum (codec mv co energy : Nat) (b : Config.BlockSyntax) : Nat :=
  b.x % 2 ^ 16 + b.y % 2 ^ 16 * 2 ^ 16 + (b.w / 4 - 1) % 64 * 2 ^ 32 + (b.h / 4 - 1) % 64 * 2 ^ 38 + b.comp % 4 * 2 ^ 44 +
  modeCode b.mode * 2 ^ 48 + b.qp % 256 * 2 ^ 56 + refCode codec (b.refs.getD 0 none) * 2 ^ 64 + refCode codec (b.refs.getD 1 none) * 2 ^ 72 +
  (match b.mode with
   | .inter => 0
   | .interNoResidual => 0
   | _ => b.imode % 256) * 2 ^ 80 + b.part % 256 * 2 ^ 88 + co * 2 ^ 96 + mv * 2 ^ 128 + energy * 2 ^ 160 +
  (b.tw / 4 - 1) % 64 * 2 ^ 212 + (b.th / 4 - 1) % 64 * 2 ^ 218

/-- The parts of a packet in the making: records, vectors, coefficients, and where each transform block's begin. -/
structure Parts where
  recs : List Nat := []
  mvs  : List (Int × Int) := []
  cos  : List Int := []
  tbs  : List (Nat × Nat) := []

/-- A record added to a packet; a transform block that the packet holds already is shared (R313). -/
def Parts.add (x : Strm) (y : Config.FrameSyntax) (a : Parts) (b : Config.BlockSyntax) : Parts :=
  let vs := mvsOf x.codec b
  let none32 := 2 ^ 32 - 1
  let mv := if vs.isEmpty then none32 else a.mvs.length
  match b.tb.bind (fun k => (y.tbs[k]?).map (fun t => (k, t))) with
  | none => { a with recs := a.recs ++ [recordNum x.codec mv none32 0 b], mvs := a.mvs ++ vs }
  | some (k, t) =>
    match a.tbs.find? (fun e => e.1 == k) with
    | some e => { a with recs := a.recs ++ [recordNum x.codec mv e.2 (energyOf t) b], mvs := a.mvs ++ vs }
    | none => { recs := a.recs ++ [recordNum x.codec mv a.cos.length (energyOf t) b], mvs := a.mvs ++ vs,
                cos := a.cos ++ coeffsOf x.levels t, tbs := a.tbs ++ [(k, a.cos.length)] }

/-- The bytes of a packet with these parts (R312). -/
def Parts.size (a : Parts) : Nat := 128 + 32 * a.recs.length + 4 * a.mvs.length + 2 * a.cos.length

/-- The records of a frame gathered into packets in decode order, each with as many whole records as a slot holds (R311; log
entry 11). -/
def gatherParts (x : Strm) (y : Config.FrameSyntax) (cap : Nat) (cur : Parts) : List Config.BlockSyntax → List Parts
  | [] => [cur]
  | b :: bs =>
    let a := cur.add x y b
    if cap < a.size && !cur.recs.isEmpty then cur :: gatherParts x y cap (({} : Parts).add x y b) bs else gatherParts x y cap a bs

/-- The eight frame numbers of a reference list (R312). -/
def refBytes (rs : List Nat) : List Byte := (List.range 8).flatMap (fun i => natToBytes 4 (rs.getD i (2 ^ 32 - 1)))

/-- The header of a packet (R312). -/
def headerBytes (x : Strm) (y : Config.FrameSyntax) (staddr idx : Nat) (last : Bool) (a : Parts) : List Byte :=
  let flags := b2n (idx == 0) + 2 * b2n last + 8 * b2n y.shows.isSome + 16 * b2n y.isRef
  natToBytes 4 x.frame ++ natToBytes 4 (y.order % 2 ^ 32).toNat ++ natToBytes 4 a.recs.length ++ natToBytes 4 a.mvs.length ++
  natToBytes 4 a.cos.length ++ natToBytes 2 flags ++ natToBytes 1 (min 2 y.lists) ++ natToBytes 1 0 ++ natToBytes 4 idx ++
  natToBytes 2 y.width ++ natToBytes 2 y.height ++ natToBytes 8 staddr ++ natToBytes 8 0 ++ refBytes y.refs0 ++ refBytes y.refs1 ++
  List.replicate 16 0

/-- The bytes of a packet (R312). -/
def packetBytes (x : Strm) (y : Config.FrameSyntax) (staddr idx : Nat) (last : Bool) (a : Parts) : List Byte :=
  headerBytes x y staddr idx last a ++ a.recs.flatMap (natToBytes 32) ++
  a.mvs.flatMap (fun v => natToBytes 2 (v.1 % 2 ^ 16).toNat ++ natToBytes 2 (v.2 % 2 ^ 16).toNat) ++
  a.cos.flatMap (fun v => natToBytes 2 (v % 2 ^ 16).toNat)

/-- The bytes of a ring slot. -/
def Strm.slotBytes (x : Strm) : Nat := 128 * hLines x.ring

/-- The packets of a frame, REPEAT for one that is shown again and holds no records (R311, R312). -/
def packetsOf (x : Strm) (y : Config.FrameSyntax) (staddr : Nat) : List (List Byte) :=
  let ps := gatherParts x y x.slotBytes {} (if y.shows.isSome then [] else y.blocks)
  (List.range ps.length).map (fun i => packetBytes x y staddr i (i + 1 == ps.length) (ps.getD i {}))

/-- The packet of a stream error (R319): no record, ERROR and LAST, no reference. -/
def errorPacket (x : Strm) : List Byte :=
  natToBytes 4 x.frame ++ List.replicate 16 0 ++ natToBytes 2 6 ++ List.replicate 26 0 ++ refBytes [] ++ refBytes [] ++ List.replicate 16 0

/-! ### A frame taken by the engine -/

/-- The stream with the pictures and slots that a frame leaves (R318): a picture that serves as no reference is released when
its parse ends. -/
def Strm.after (x : Strm) (y : Config.FrameSyntax) (here : Option Pic) : Strm :=
  let held := x.heldFor y ++ here.toList
  let leaves (p : Pic) : Bool := y.after.contains p.frame || (p.frame == x.frame && !y.isRef)
  { x with pics := held.filter (fun p => !leaves p), freed := x.release (x.freedFor y) (held.filter leaves) }

/-- A frame without error (R311 to R318): every write of its coefficient state acknowledged, and its packets ready to be
published. -/
def State.takeFrame (s : State) (u : Nat) (x : Strm) (y : Config.FrameSyntax) : Except EErr (State × Strm) :=
  match y.shows with
  | some k =>
    let p := ((x.pics.find? (fun q => q.frame == k)).map (fun q => q.slot)).getD 0
    .ok (s, { x.after y none with packets := packetsOf x y (x.slotAt p), status := some 0 })
  | none =>
    let here : Pic := { frame := x.frame, slot := (x.newSlot y).getD 0, width := y.width, height := y.height }
    match cellSteps u x here (x.heldFor y) s y.cells with
    | .error e => .error e
    | .ok (s, sat) =>
      .ok (s.charge x.ctx 10 y.bins,
        { x.after y (some here) with packets := packetsOf x y (x.slotAt here.slot), status := some 0,
                                     sat := x.sat || sat || (x.levels && y.tbs.any levelSat) })

end Sys2Proof.Machine
end

