-- ==== Sys2Proof/Machine/Video.lean ====
section
/-! DEFINITION. Coded video (R308 to R326): stream configuration, feeding, requests and status, the parsing of frames and the
publication of their packets. -/

namespace Sys2Proof.Machine

open Sys2Proof

/-! ### Configuration (R308, R309, R321, R322) -/

/-- The least LSZ of a ring that a codec writes (R311). -/
def codecLsz (codec : Nat) : Nat := if codec = 3 then 2 else if codec = 1 then 5 else 7

/-- The checks of R321 on the fields of a configuration block. -/
def sxFields (v : Nat) : Bool :=
  let f := fieldAt v
  fieldAt v 0x24 0x1C == 0 && f 0 8 % 2 ^ 12 == 0 && f 0 8 < 2 ^ 52 && f 0x10 8 % 128 == 0 && 1 ≤ f 0x18 1 && f 0x18 1 ≤ 3 &&
  f 0x19 1 ≤ 1 && 2 ≤ f 0x1A 1 && f 0x1A 1 ≤ 16 && 1 ≤ f 0x1B 1 && f 0x1B 1 ≤ 64 && f 0x1C 1 ≤ 7 && f 0x1D 1 ≤ 3 &&
  f 0x20 2 % 8 == 0 && f 0x20 2 ≤ 8192 && f 0x22 2 % 8 == 0 && f 0x22 2 ≤ 8192 &&
  codecLsz (f 0x18 1) ≤ bits (f 8 8) 39 37

/-- The placed syntax engine of an image engine (R106), as a unit number of R418; none outside the partition. -/
def State.engineUnit (s : State) (p die n : Nat) : Option Nat :=
  match ((s.part p).candReg die).bind (fun r => mapEngine r n) with
  | some (d, k) => if (s.part p).has (832 + 8 * d + k) then some (832 + 8 * d + k) else none
  | none => none

/-- The stream-config fault (R321). -/
def streamFlt (s : State) : Stop × State := fault 0x46 s

/-- The handle of a stream (R309). -/
def sxHandle (ctxva die eng : Nat) : Dword := BitVec.ofNat 64 (ctxva + 8 * die + eng)

/-- The context address that a handle names. -/
def handleVa (h : Dword) : Nat := h.toNat / 2 ^ 12 * 2 ^ 12

/-- The engine that a handle names: image die times 8 plus number. -/
def handleEng (h : Dword) : Nat := h.toNat % 32

/-- Whether a stream is the one of a context address. -/
def Strm.named (x : Strm) (ctx : Nat) (h : Dword) : Bool := x.ctx == ctx && handleVa x.handle == handleVa h

/-- The stream that a handle names for the slot in focus, when the handle is valid (R321). -/
def State.strmOf (s : State) (h : Dword) : Option Strm :=
  if bits h.toNat 63 52 ≠ 0 || bits h.toNat 11 5 ≠ 0 then none
  else match s.strms.find? (fun x => x.named s.slotCtx h) with
    | none => none
    | some x => if x.engine = none || x.engine = some (s.slot.prt, handleEng h) then some x else none

/-- A stream replaced. -/
def State.putStrm (s : State) (x : Strm) : State :=
  { s with strms := s.strms.map (fun (y : Strm) => if y.named x.ctx x.handle then x else y) }

/-- The free bytes of a private layout (log entry 12). -/
def State.privateBytes (s : State) (n : Nat) : List Byte × State :=
  ((List.range n).map (Config.privateByte s.freeCount), { s with freeCount := s.freeCount + 1 })

/-- A ring handle that names its MT by image die and tile, so that it reads the same for every unit (R251). -/
def hNormal (s : State) (p u : Nat) (h : Dword) : Dword := hGeometry h + (slotAddr s p u h 0 - BitVec.ofNat 64 (128 * hLine h 0))

/-- SXCFG (R321, R322). -/
def sxcfgOp (o : Ops) (s : State) : Res State :=
  s.guarded o (fun g t =>
    if g.a.val.toNat % 64 ≠ 0 then .error (.flt { code := 0x20, addr := g.a.val }, t)
    else match lvlRead false t g.a.val 64 with
      | .error e => .error e
      | .ok (t, v) =>
        let f := fieldAt v
        let ring := BitVec.ofNat 64 (f 8 8)
        let eng := t.engineUnit t.slot.prt (f 0x1D 1) (f 0x1C 1)
        if !sxFields v || eng = none then .error (streamFlt t)
        else match ringUnit t t.slot.prt t.slotUnit ring with
          | .error _ => .error (streamFlt t)
          | .ok u =>
            match translateAll t t.slotUnit t.slotCtx [f 0 8, f 0x10 8] with
            | .error (x, t) => .error (.flt x, t)
            | .ok (t, ts) =>
              match kindAll .mu ts, permAll true true ts with
              | .error x, _ => .error (.flt x, t)
              | _, .error x => .error (.flt x, t)
              | .ok _, .ok _ =>
                let (bs, t) := t.privateBytes 4096
                match engWrite t t.slotUnit t.slotCtx (f 0 8) bs with
                | (t, some (.flt x)) => .error (.flt x, t)
                | (t, _) =>
                  let h := sxHandle (f 0 8) (f 0x1D 1) (f 0x1C 1)
                  let x : Strm := { ctx := t.slotCtx, handle := h, ring := hNormal t t.slot.prt u ring, stbase := BitVec.ofNat 64 (f 0x10 8),
                                    codec := f 0x18 1, levels := f 0x19 1 == 1, lag := f 0x1A 1, nst := f 0x1B 1,
                                    maxw := f 0x20 2, maxh := f 0x22 2, engine := some (t.slot.prt, handleEng h), queue := [], fed := 0,
                                    consumed := 0, eosFed := false, eos := false, sat := false, err := 0, frame := 0,
                                    pics := [], freed := [], reqs := [], packets := [], status := none }
                  let t := t.setMt u ((t.mt u).latch ring)
                  .ok ({ t with strms := t.strms.filter (fun (y : Strm) => !y.named t.slotCtx h) ++ [x] }.done o (some h) 0 1))

/-- SXCFG (R322). -/
def execSxcfg (o : Ops) (s : State) : Host.Outcome State Fault Refusal := s.run (sxcfgOp o)

/-! ### Feeding, requests, status (R323 to R325) -/

/-- The stream a command names, taken by its engine for this forme (R310, R321). -/
def State.useStrm (s : State) (h : Dword) : Res (Strm × State) :=
  match s.strmOf h with
  | none => .error (streamFlt s)
  | some x => let x := { x with engine := some (s.slot.prt, handleEng h) }; .ok (x, s.putStrm x)

/-- SXFEED (R323): the range arrives at the engine in the order of issue; its token tells what was accepted. -/
def sxfeedOp (o : Ops) (s : State) : Res State :=
  s.guardedWith o (s.slot.cmdCheck o.d) (fun g t =>
    let n := g.c.val.toNat
    let eos := o.f.getLsbD 0
    match t.useStrm g.a.val with
    | .error e => .error e
    | .ok (x, t) =>
      if 2 ^ 24 < n || (n = 0 && !eos) then .error (.flt { code := 0x28, info := g.c.val }, t)
      else match translateAll t t.slotUnit t.slotCtx (pagesOf g.b.val.toNat n) with
        | .error (f, t) => .error (.flt f, t)
        | .ok (t, ts) =>
          match permAll true false ts with
          | .error f => .error (.flt f, t)
          | .ok _ =>
            if 8 ≤ x.queue.length then .ok (t.command o (.sxfeed g.a.val g.b.val.toNat 0 false) [])
            else
              let x := { x with queue := if n = 0 then x.queue else x.queue ++ [(g.b.val.toNat, n)], fed := x.fed + n,
                                eosFed := x.eosFed || eos }
              .ok ((t.putStrm x).command o (.sxfeed g.a.val g.b.val.toNat n eos) []))

/-- SXFEED (R323). -/
def execSxfeed (o : Ops) (s : State) : Host.Outcome State Fault Refusal := s.run (sxfeedOp o)

/-- SXFRM (R324): a request beyond the fourth is not taken. -/
def sxfrmOp (o : Ops) (s : State) : Res State :=
  s.guardedWith o (s.slot.cmdCheck o.d) (fun g t =>
    match t.useStrm g.a.val with
    | .error e => .error e
    | .ok (x, t) =>
      let t := if 4 ≤ x.reqs.length then t
        else t.putStrm { x with reqs := x.reqs ++ [t.nextCmd] }
      .ok (t.command o (.sxfrm g.a.val) []))

/-- SXFRM (R324). -/
def execSxfrm (o : Ops) (s : State) : Host.Outcome State Fault Refusal := s.run (sxfrmOp o)

/-- The status word of a stream (R325). -/
def Strm.word (x : Strm) : Dword :=
  BitVec.ofNat 64 (x.consumed % 2 ^ 48 + x.err * 2 ^ 48 + b2n x.eos * 2 ^ 55 + b2n x.sat * 2 ^ 56 + min 7 x.queue.length * 2 ^ 57)

/-- SXSTAT (R325). -/
def sxstatOp (o : Ops) (s : State) : Res State :=
  s.guarded o (fun g t =>
    match t.useStrm g.a.val with
    | .error e => .error e
    | .ok (x, t) => .ok (t.done o (some x.word) 0 1))

/-- SXSTAT (R325). -/
def execSxstat (o : Ops) (s : State) : Host.Outcome State Fault Refusal := s.run (sxstatOp o)

/-- BLKOPN (R326). -/
def blkopnOp (o : Ops) (s : State) : Res State :=
  s.guarded o (fun g t =>
    match t.openable false (curReg o.d) with
    | .error e => .error e
    | .ok _ =>
      if g.a.val.toNat % 128 ≠ 0 then .error (fault 0x41 t)
      else match lvlRead false t (g.a.val + 8) 4 with
        | .error e => .error e
        | .ok (t, n) =>
          let d : Desc := { vbase := 0, pbase := g.a.val + 0x80, n := n, ext := n, vt := 15, gk := 0, fmt := 3 }
          .ok ((t.setCursor false (curReg o.d) (.opened d 0 0)).done o none 4 1))

/-- BLKOPN (R326). -/
def execBlkopn (o : Ops) (s : State) : Host.Outcome State Fault Refusal := s.run (blkopnOp o)

/-! ### The engine (R310 to R319, R324) -/

/-- Whether a partition's forme has begun to drain (R56, R324): some task has retired, or a source has sent DRN. -/
def State.draining (s : State) (p : Nat) : Bool :=
  s.slots.any (fun x => x.prt == p && x.st == .retired) || (s.part p).sects.toList.any (fun x => x.drn)

/-- A SXFRM token: FRAME and a status (R324). -/
def frameToken (frame : Nat) (status : Nat) : Dword := BitVec.ofNat 64 (frame % 2 ^ 32 + status * 2 ^ 32)

/-- A request completed without a frame: bits [31:0] hold a free value (log entry 2). -/
def State.endRequest (s : State) (id status : Nat) : State :=
  match s.cmds.find? (fun c => c.id == id) with
  | none => s
  | some c =>
    let (v, s) := s.free
    s.complete c (frameToken v.toNat status)

/-- Requests completed without a frame. -/
def State.endRequests (s : State) (ids : List Nat) (status : Nat) : State := ids.foldl (fun s id => s.endRequest id status) s

/-- The completion of a SXFEED (R323). -/
def doSxfeed (s : State) (c : Cmd) (n : Nat) : Except EErr State := .ok (s.complete c (BitVec.ofNat 64 n))

/-- The bytes from the head of a queue that can be read (R323), up to the first granule that is absent or cannot be read, and
what stops there. -/
def queuePieces (u ctx : Nat) : State → List (Nat × Nat) → State × List Byte × Option EErr
  | s, [] => (s, [], none)
  | s, (a, n) :: ps =>
    match engReadOk s u ctx a n with
    | .error e => (s, [], some e)
    | .ok (s, bs) =>
      let r := queuePieces u ctx s ps
      (r.1, bs ++ r.2.1, r.2.2)

/-- The queued bytes of a stream as the engine finds them. -/
def State.queueBytes (s : State) (u : Nat) (x : Strm) : State × List Byte × Option EErr :=
  queuePieces u x.ctx s (x.queue.flatMap (fun q => pieces q.2 q.1 q.2))

/-- How many of the bytes found the next frame takes, 0 while they do not hold it whole (R324); at the end of the stream, all. -/
def Strm.frameBytes (x : Strm) (bs : List Byte) (stop : Option EErr) : Nat :=
  let k := min (Config.frameLength x.codec bs) bs.length
  if k = 0 && x.eosFed && stop.isNone then bs.length else k

/-- Whether the bytes of a stream's next frame are still incomplete (R324): the engine can neither parse it, nor meet the end of
the stream or bytes it cannot read. -/
def State.incomplete (s : State) (u : Nat) (x : Strm) : Bool :=
  let r := s.queueBytes u x
  x.frameBytes r.2.1 r.2.2 == 0 && !(r.2.1.isEmpty && x.queue.isEmpty && x.eosFed) && (match r.2.2 with
    | some (.flt _) => false
    | _ => true)

/-- A request that no frame will complete taken from its stream, and completed with a status. -/
def State.dropRequest (s : State) (x : Strm) (id status : Nat) : State :=
  (s.putStrm { x with reqs := x.reqs.filter (fun r => r != id) }).endRequest id status

/-- The completion of a SXFRM that no frame completes: a refused one (status 4), one after a stream error (status 2), and one
whose bytes are incomplete when the forme begins to drain (status 3). -/
def doSxfrm (s : State) (c : Cmd) (h : Dword) : Except EErr State :=
  match s.strms.find? (fun x => x.named (s.cmdCtx c) h) with
  | none => .ok (s.endRequest c.id 2)
  | some x =>
    if !x.reqs.contains c.id then .ok (s.endRequest c.id 4)
    else if x.status ≠ none then .error .absent
    else if x.err ≠ 0 then .ok (s.dropRequest x c.id 2)
    else if s.draining c.prt && s.incomplete c.unit x then .ok (s.dropRequest x c.id 3)
    else .error .absent

/-- A queue without its first `n` bytes. -/
def dropBytes : Nat → List (Nat × Nat) → List (Nat × Nat)
  | _, [] => []
  | n, (a, k) :: qs => if n = 0 then (a, k) :: qs else if k ≤ n then dropBytes (n - k) qs else (a + n, k - n) :: qs

/-- A stream error taken (R319): parsing stops, and the error packet stands ready. -/
def Strm.stop (x : Strm) (code : Nat) : Strm := { x with err := code, packets := [errorPacket x], status := some 2 }

/-- The oldest outstanding request of a stream. -/
def State.strmCmd (s : State) (x : Strm) : Option Cmd := x.reqs.head?.bind (fun id => s.cmds.find? (fun c => c.id == id))

/-- A fault that an engine meets in the coefficient state of a frame (R202, R316): the request that the frame would complete is
abandoned with it, as a command is whose access faults. -/
def State.failFrame (s : State) (x : Strm) (c : Cmd) (f : Flt) : State :=
  (s.putStrm { x with reqs := x.reqs.drop 1 }).failCmd c (engImgc (handleEng x.handle / 8) (640 + handleEng x.handle % 8) 0) f

/-- FRAME_PARSE (R324): the next requested frame parsed once the accepted bytes hold it, or the end of the stream met; it waits
while an access of its coefficient state is not acknowledged (R311). -/
def parseFrame (s : State) (x : Strm) (c : Cmd) : State :=
  let r := s.queueBytes c.unit x
  let k := x.frameBytes r.2.1 r.2.2
  if r.2.1.isEmpty && x.queue.isEmpty && x.eosFed then
    (s.putStrm { x with eos := true, reqs := x.reqs.drop 1 }).endRequests (x.reqs.take 1) 1
  else if k = 0 then
    match r.2.2 with
    | some (.flt _) => (s.hvFresh x.ctx).putStrm (x.stop 7)
    | _ => s
  else
    let t : State := { r.1 with freeCount := r.1.freeCount + 1 }
    let y := Config.parseFrame x.codec r.1.freeCount (r.2.1.take k)
    let z := { x with queue := dropBytes k x.queue, consumed := x.consumed + k }
    if z.errorOf y ≠ 0 then t.putStrm (z.stop (z.errorOf y))
    else match t.takeFrame c.unit z y with
      | .ok (t, z) => t.putStrm z
      | .error .absent => s
      | .error (.flt f) => s.failFrame x c f

/-- The stream of a context that an engine is serving under a handle. -/
def State.served (s : State) (ctx : Nat) (h : Dword) : Option Strm := s.strms.find? (fun x => x.ctx == ctx && x.handle == h && x.engine.isSome)

/-- FRAME_PARSE (R324). -/
def execFrameParse (st : StrmName) (s : State) : Host.Outcome State Fault Refusal :=
  .next (match s.served st.ctx st.handle with
    | none => s
    | some x =>
      match s.strmCmd x with
      | none => s
      | some c => if x.status != none || x.err != 0 then s else parseFrame s x c)

/-- What is left once the last packet of a frame or of an error stands published (R319, R324). -/
def State.endFrame (s : State) (x : Strm) : State :=
  let x' := { x with packets := [], status := none }
  if x.status = some 2 then (s.putStrm { x' with reqs := [] }).endRequests x.reqs 2
  else
    let s := s.putStrm { x' with reqs := x.reqs.drop 1, frame := x.frame + 1 }
    match s.strmCmd x with
    | none => s
    | some c => s.complete c (frameToken x.frame 0)

/-- PACKET_PUBLISH (R311): the next packet takes a ring slot as RSACQ does, is written to it, and the slot becomes full. -/
def publishPacket (s : State) (x : Strm) (c : Cmd) : State :=
  match x.packets, ringUnit s c.prt c.unit x.ring with
  | pk :: rest, .ok u =>
    let m := (s.mt u).latch x.ring
    if !m.canAcquire x.ring then s
    else
      let r := m.acquire x.ring
      let s := { s with mem := s.mem.spPut u (128 * hLine x.ring r.2) pk }
      let s := s.ringSet u (r.1.publish x.ring r.2)
      let x := { x with packets := rest }
      if rest.isEmpty then s.endFrame x else s.putStrm x
  | _, _ => s

/-- PACKET_PUBLISH (R311). -/
def execPacketPublish (st : StrmName) (s : State) : Host.Outcome State Fault Refusal :=
  .next (match s.served st.ctx st.handle with
    | none => s
    | some x =>
      match s.strmCmd x with
      | none => s
      | some c => publishPacket s x c)

/-- The stream contexts that the engines of a partition's forme hold written back to CTXVA at its drain (R310): their layout is
private to the device. -/
def State.writeStrms (s : State) (p : Nat) : State :=
  (s.strms.filter (fun x => x.engine.any (fun e => e.1 == p))).foldl (fun s x =>
    let r := s.privateBytes 4096
    (engWrite r.2 ((s.part p).cus.headD 0) x.ctx (handleVa x.handle) r.1).1) s

end Sys2Proof.Machine
end

