-- ==== Sys2Proof/Machine/Warp.lean ====
section
/-! DEFINITION. Motion vectors, feature warping, drift and refresh (R327 to R335). -/

namespace Sys2Proof.Machine

open Sys2Proof

/-! ### MVCLP (R327) -/

/-- A component clamped as R327 states: its offset, its origin, size and plane size. -/
def clampMv (d x w p : Int) : Int := min (max d (-16 * (x + w + 16))) (16 * (p + 16 - x))

/-- MVCLP's result (R327). -/
def mvclpVal (a b c : Dword) : Dword :=
  let dx := signed 16 (a.toNat)
  let dy := signed 16 (a.toNat / 2 ^ 16)
  let w := 4 * (bits b.toNat 37 32 + 1)
  let h := 4 * (bits b.toNat 43 38 + 1)
  let cx := clampMv dx (bits b.toNat 15 0) w (bits c.toNat 15 0)
  let cy := clampMv dy (bits b.toNat 31 16) h (bits c.toNat 31 16)
  let n := if cx ≠ dx || cy ≠ dy then w / 4 * (h / 4) else 0
  BitVec.ofNat 64 ((cx % 2 ^ 16).toNat + (cy % 2 ^ 16).toNat * 2 ^ 16 + n % 2 ^ 16 * 2 ^ 32)

/-- MVCLP (R327). -/
def execMvclp (o : Ops) (s : State) : Host.Outcome State Fault Refusal :=
  s.alu o 0 (fun g x => (mvclpVal g.a.val g.b.val g.c.val, x))

/-! ### DRIFT and DRCHK (R332, R333) -/

/-- The drift registers latched by the home MT of the slot in focus (R331). -/
def State.driftRegs (s : State) : Drift := (s.mt s.slotUnit).drift

/-- The exact product of two values, NaN where it is invalid. -/
def prodF (x y : FV) : FV :=
  match mulV x y with
  | none => .nan
  | some v => v

/-- DRIFT's result (R332). -/
def driftVal (r : Drift) (a b c : Dword) : Dword :=
  let dr := decF 2 a.toNat
  let t1 := rneF 2 (prodF (decF 2 r.alpha.toNat) (FV.ofInt (b.toNat % 2 ^ 32 : Nat)))
  let t2 := addF dr t1
  let t3 := mulAddF t2 (decF 2 r.beta.toNat) (FV.ofInt (bits c.toNat 32 32 : Nat))
  let t4 := rneF 2 (prodF (decF 2 r.gamma.toNat) (FV.ofInt (bits c.toNat 31 0 : Nat)))
  let d := addF t3 t4
  BitVec.ofNat 64 (encF 2 d + min (bits a.toNat 47 32 + 1) 65535 * 2 ^ 32)

/-- DRIFT (R332). -/
def execDrift (o : Ops) (s : State) : Host.Outcome State Fault Refusal :=
  s.alu o 1 (fun g x => (driftVal s.driftRegs g.a.val g.b.val g.c.val, x))

/-- DRCHK's decision (R333). -/
def drchkVal (r : Drift) (a b : Dword) : Bool :=
  let mode := bits b.toNat 50 48
  let d := decF 2 a.toNat
  mode == 0 || mode == 3 || mode == 4 || d == .nan || ltV (decF 2 r.dmax.toNat) d || r.lmax.toNat < bits a.toNat 47 32

/-- DRCHK (R333). -/
def execDrchk (o : Ops) (s : State) : Host.Outcome State Fault Refusal :=
  s.alu o 0 (fun g x => (b2d (drchkVal s.driftRegs g.a.val g.b.val), x))

/-! ### FWARP (R328 to R330) -/

/-- A warp command block (R329). -/
structure WarpBlock where
  dst : Dword
  src : Nat → Dword
  drf : Nat → Dword
  mv  : Nat → Nat
  gw  : Nat
  gh  : Nat
  ch  : Nat
  ty  : Nat
  bi  : Bool
  bx  : Nat
  by' : Nat
  bw  : Nat
  bh  : Nat

/-- A block read as a number (R329). -/
def WarpBlock.ofNat (v : Nat) : WarpBlock :=
  let f := fieldAt v
  let map := f 0x38 8
  let blk := f 0x40 8
  { dst := BitVec.ofNat 64 (f 0 8), src := fun r => BitVec.ofNat 64 (f (8 + 8 * r) 8), drf := fun r => BitVec.ofNat 64 (f (0x18 + 8 * r) 8),
    mv := fun r => f (0x28 + 8 * r) 8, gw := bits map 15 0, gh := bits map 31 16, ch := bits map 41 32 + 1, ty := bits map 45 42,
    bi := bit map 46, bx := bits blk 15 0, by' := bits blk 31 16, bw := bits blk 47 32, bh := bits blk 63 48 }

/-- The references of a warp. -/
def WarpBlock.refs (b : WarpBlock) : Nat := if b.bi then 2 else 1

/-- The conditions of R329 on a block. -/
def warpLegal (v : Nat) : Bool :=
  let b := WarpBlock.ofNat v
  let w := wBytes b.ty
  fieldAt v 0x58 0x28 == 0 && fieldAt v 0x38 8 / 2 ^ 47 == 0 && 2 ≤ b.ty && b.ty ≤ 4 && 1 ≤ b.bw && b.bw ≤ 32 && 1 ≤ b.bh &&
  b.bh ≤ 32 && b.bx + b.bw ≤ b.gw && b.by' + b.bh ≤ b.gh && b.dst.toNat % w == 0 &&
  (List.range 2).all (fun r => (b.src r).toNat % w == 0 && (b.drf r).toNat % 8 == 0)

/-- The address of a cell of a grid of records of `n` bytes. -/
def cellAddr (base : Dword) (gw n x y : Nat) : Nat := (base + BitVec.ofNat 64 ((y * gw + x) * n)).toNat

/-- The nearest number within a grid of n cells, and whether it was outside. -/
def clampCell (i : Int) (n : Nat) : Nat × Bool := if i < 0 then (0, true) else if (n : Int) ≤ i then (n - 1, true) else (i.toNat, false)

/-- A tap of a cell: reference, weight, source cell, and whether it was clamped (R330). -/
structure Tap where
  r   : Nat
  wt  : Nat
  x   : Nat
  y   : Nat
  out : Bool

/-- The taps of cell (u, v) on reference r (R330). -/
def tapsOf (b : WarpBlock) (u v r : Nat) : List Tap :=
  let mx := signed 16 (b.mv r)
  let my := signed 16 (b.mv r / 2 ^ 16)
  let ix := mx / 64
  let iy := my / 64
  let fx := (mx - 64 * ix).toNat
  let fy := (my - 64 * iy).toNat
  (List.range 2).flatMap (fun (a : Nat) => (List.range 2).filterMap (fun (c : Nat) =>
    let wt := (if a = 1 then fx else 64 - fx) * (if c = 1 then fy else 64 - fy)
    if wt = 0 then none
    else
      let sx := clampCell (u + ix + a) b.gw
      let sy := clampCell (v + iy + c) b.gh
      some ⟨r, wt, sx.1, sy.1, sx.2 || sy.2⟩))

/-- The taps of a cell in the order of R330. -/
def cellTaps (b : WarpBlock) (u v : Nat) : List Tap := (List.range b.refs).flatMap (tapsOf b u v)

/-- The cells of the block, row by row. -/
def blockCells (b : WarpBlock) : List (Nat × Nat) :=
  (List.range b.bh).flatMap (fun j => (List.range b.bw).map (fun i => (b.bx + i, b.by' + j)))

/-- The pages that a warp touches: reads and writes (R329). -/
def warpPages (b : WarpBlock) : List Nat × List Nat :=
  let n := b.ch * wBytes b.ty
  let cells := blockCells b
  let reads := cells.flatMap (fun c => (cellTaps b c.1 c.2).flatMap (fun t =>
    pagesOf (cellAddr (b.src t.r) b.gw n t.x t.y) n ++
    (if b.drf t.r = 0 then [] else pagesOf (cellAddr (b.drf t.r) b.gw 8 t.x t.y) 8)))
  (reads, cells.flatMap (fun c => pagesOf (cellAddr b.dst b.gw n c.1 c.2) n))

/-- The warp-descriptor fault (R329, R334). -/
def warpFlt (s : State) : Stop × State := fault 0x47 s

/-- A command block of `n` bytes at an 8-byte aligned scratchpad address (R329, R334). -/
def blockRead (s : State) (a : Dword) (n : Nat) : Res (State × Nat) :=
  if a.toNat % 8 ≠ 0 then .error (.flt { code := 0x20, addr := a }, s) else lvlRead false s a n

/-- Pages read and pages written translated at issue with their permissions (R295, R329). -/
def issuePages (s : State) (rs ws : List Nat) : Res State :=
  match translateAll s s.slotUnit s.slotCtx rs with
  | .error (f, s) => .error (.flt f, s)
  | .ok (s, ts) =>
    match translateAll s s.slotUnit s.slotCtx ws with
    | .error (f, s) => .error (.flt f, s)
    | .ok (s, us) =>
      match permAll true false ts, permAll false true us with
      | .error f, _ => .error (.flt f, s)
      | _, .error f => .error (.flt f, s)
      | .ok _, .ok _ => .ok s

/-- A block kept with its command: 64-bit words from the low end up. -/
def blockWords (n v : Nat) : List Dword := (List.range (n / 8)).map (fun i => BitVec.ofNat 64 (v / 2 ^ (64 * i)))

/-- The number that a kept block stands for. -/
def blockNat (ws : List Dword) : Nat := ws.foldr (fun w a => w.toNat + 2 ^ 64 * a) 0

/-- FWARP at issue (R329). -/
def fwarpOp (o : Ops) (s : State) : Res State :=
  s.guardedWith o (s.slot.cmdCheck o.d) (fun g t =>
    match blockRead t g.a.val 128 with
    | .error e => .error e
    | .ok (t, v) =>
      let kept := v % 2 ^ (8 * 0x48) + fieldAt v 0x58 0x28 * 2 ^ (8 * 0x58)
      if !warpLegal kept then .error (warpFlt t)
      else
        let pages := warpPages (WarpBlock.ofNat v)
        match issuePages t pages.1 pages.2 with
        | .error e => .error e
        | .ok t => .ok (t.command o (.fwarp g.a.val) (blockWords 128 v)))

/-- FWARP (R329). -/
def execFwarp (o : Ops) (s : State) : Host.Outcome State Fault Refusal := s.run (fwarpOp o)

/-- Reads of an engine at listed addresses, in order. -/
def readsAt (u ctx n : Nat) : State → List Nat → Except EErr (State × List (List Byte))
  | s, [] => .ok (s, [])
  | s, a :: as =>
    match engReadOk s u ctx a n with
    | .error e => .error e
    | .ok (s, bs) =>
      match readsAt u ctx n s as with
      | .error e => .error e
      | .ok (s, rs) => .ok (s, bs :: rs)

/-- Writes of an engine at listed addresses, in order. -/
def writesAt (u ctx : Nat) : State → List (Nat × List Byte) → State × Option EErr
  | s, [] => (s, none)
  | s, (a, bs) :: ws =>
    match engWrite s u ctx a bs with
    | (s, some e) => (s, some e)
    | (s, none) => writesAt u ctx s ws

/-- fmax of R330: NaN when either operand is. -/
def fmaxNan (x y : FV) : FV := if x = .nan || y = .nan then .nan else maxV x y

/-- An exact sum that ∞ − ∞ turns into NaN. -/
def sumF (x y : FV) : FV :=
  match addV 1 x y with
  | none => .nan
  | some v => v

/-- The value of channel c of one cell: its taps and what was read for each (R330). -/
def warpElem (b : WarpBlock) (ts : List Tap) (rs : List (List Byte)) (c : Nat) : Nat :=
  let w := wBytes b.ty
  let acc := (List.range ts.length).foldl (fun a i =>
    match ts[i]? with
    | none => a
    | some t => sumF a (prodF (FV.ofInt (t.wt : Nat)) (decF b.ty (bytesToNat (((rs.getD i []).drop (w * c)).take w))))) (.fin false 0 0)
  let v := match acc with
    | .fin s m e => .fin s m (e - if b.bi then 13 else 12)
    | v => v
  encF b.ty (rneF b.ty v)

/-- A warp performed (R330). -/
def doFwarp (s : State) (c : Cmd) (a : Dword) : Except EErr State :=
  let b := WarpBlock.ofNat (blockNat c.block)
  let ctx := s.cmdCtx c
  let n := b.ch * wBytes b.ty
  let cells := blockCells b
  let taps := cells.flatMap (fun x => cellTaps b x.1 x.2)
  let dtaps := taps.filter (fun t => b.drf t.r != 0)
  match readsAt c.unit ctx n s (taps.map (fun t => cellAddr (b.src t.r) b.gw n t.x t.y)) with
  | .error e => .error e
  | .ok (s, rs) =>
    match readsAt c.unit ctx 8 s (dtaps.map (fun t => cellAddr (b.drf t.r) b.gw 8 t.x t.y)) with
    | .error e => .error e
    | .ok (s, ds) =>
      let drifts := ds.map bytesToNat
      let dm := drifts.foldl (fun x d => fmaxNan x (decF 2 d)) (.fin false 0 0)
      let lm := drifts.foldl (fun x d => max x (bits d 47 32)) 0
      let clampN := (List.range b.refs).foldl (fun x r => x + bits (b.mv r) 47 32) 0
      let outN := (clampN + (taps.filter (fun t => t.out)).length) % 2 ^ 32
      let mis := (List.range b.refs).any (fun r => signed 16 (b.mv r) % 64 != 0 || signed 16 (b.mv r / 2 ^ 16) % 64 != 0)
      let each := (List.range cells.length).map (fun i =>
        let x := cells.getD i (0, 0)
        let k := ((cells.take i).map (fun y => (cellTaps b y.1 y.2).length)).sum
        let ts := cellTaps b x.1 x.2
        let rows := (rs.drop k).take ts.length
        (cellAddr b.dst b.gw n x.1 x.2, (List.range b.ch).flatMap (fun ch => natToBytes (wBytes b.ty) (warpElem b ts rows ch))))
      match writesAt c.unit ctx s each with
      | (s, some (.flt f)) => .ok (s.failCmd c (s.mtImgc c.prt c.unit 1) f)
      | (_, some .absent) => .error .absent
      | (s, none) =>
        let res0 := encF 2 dm + lm * 2 ^ 32
        let res1 := outN + b2n mis * 2 ^ 32
        match s.cmdSp c a 128 with
        | .error e => .error e
        | .ok (u, off) =>
          let s : State := { s with mem := s.mem.spPut u (off + 0x48) (natToBytes 8 res0 ++ natToBytes 8 res1) }
          .ok ((s.complete c (BitVec.ofNat 64 res1)).chargeCmd c 11 cells.length)

/-! ### RFMARK (R334) -/

/-- A refresh command block (R334). -/
structure MarkBlock where
  state : Dword
  drift : Dword
  dsp   : Dword
  gw    : Nat
  gh    : Nat
  mask  : Nat
  f32   : Bool
  bx    : Nat
  by'   : Nat
  bw    : Nat
  bh    : Nat

/-- A block read as a number (R334). -/
def MarkBlock.ofNat (v : Nat) : MarkBlock :=
  let f := fieldAt v
  let g := f 0x18 8
  let blk := f 0x20 8
  { state := BitVec.ofNat 64 (f 0 8), drift := BitVec.ofNat 64 (f 8 8), dsp := BitVec.ofNat 64 (f 0x10 8), gw := bits g 15 0,
    gh := bits g 31 16, mask := bits g 34 32, f32 := bit g 35, bx := bits blk 15 0, by' := bits blk 31 16, bw := bits blk 47 32,
    bh := bits blk 63 48 }

/-- The conditions of R334 on a block. -/
def markLegal (v : Nat) : Bool :=
  let b := MarkBlock.ofNat v
  fieldAt v 0x28 0x18 == 0 && fieldAt v 0x18 8 / 2 ^ 36 == 0 && 1 ≤ b.bw && b.bw ≤ 32 && 1 ≤ b.bh && b.bh ≤ 32 &&
  b.bx + b.bw ≤ b.gw && b.by' + b.bh ≤ b.gh && b.dsp.toNat % 4 == 0 && b.drift.toNat % 8 == 0

/-- The cells of a plane from (x0, y0) to (x1, y1), row by row. -/
def planeCells (x0 y0 x1 y1 : Nat) : List (Nat × Nat) :=
  (List.range (y1 + 1 - y0)).flatMap (fun j => (List.range (x1 + 1 - x0)).map (fun i => (x0 + i, y0 + j)))

/-- The addresses of the cells that a refresh copies, in order (R317, R334). -/
def markCells (b : MarkBlock) : List Nat :=
  let cw := (b.gw + 1) / 2
  let lc := b.gw * b.gh
  let cc := cw * ((b.gh + 1) / 2)
  let luma := planeCells b.bx b.by' (b.bx + b.bw - 1) (b.by' + b.bh - 1)
  let chroma := planeCells (b.bx / 2) (b.by' / 2) ((b.bx + b.bw - 1) / 2) ((b.by' + b.bh - 1) / 2)
  let at' (k gw : Nat) (c : Nat × Nat) : Nat := (b.state + BitVec.ofNat 64 (64 * k + 64 * (c.2 * gw + c.1))).toNat
  (if bit b.mask 0 then luma.map (at' 0 b.gw) else []) ++ (if bit b.mask 1 then chroma.map (at' lc cw) else []) ++
  (if bit b.mask 2 then chroma.map (at' (lc + cc) cw) else [])

/-- The drift words that a refresh clears (R334). -/
def markDrift (b : MarkBlock) : List Nat :=
  if b.drift = 0 then []
  else (planeCells b.bx b.by' (b.bx + b.bw - 1) (b.by' + b.bh - 1)).map (fun c => cellAddr b.drift b.gw 8 c.1 c.2)

/-- RFMARK at issue (R334). -/
def rfmarkOp (o : Ops) (s : State) : Res State :=
  s.guardedWith o (s.slot.cmdCheck o.d) (fun g t =>
    match blockRead t g.a.val 64 with
    | .error e => .error e
    | .ok (t, v) =>
      if !markLegal v then .error (warpFlt t)
      else
        let b := MarkBlock.ofNat v
        match spRange t t.slot.prt t.slotUnit b.dsp (64 * (markCells b).length) with
        | .error f => .error (.flt f, t)
        | .ok _ =>
          match issuePages t ((markCells b).flatMap (fun a => pagesOf a 64)) ((markDrift b).flatMap (fun a => pagesOf a 8)) with
          | .error e => .error e
          | .ok t => .ok (t.command o (.rfmark g.a.val) (blockWords 64 v)))

/-- RFMARK (R334). -/
def execRfmark (o : Ops) (s : State) : Host.Outcome State Fault Refusal := s.run (rfmarkOp o)

/-- One value of a cell as RFMARK writes it (R334). -/
def markValue (f32 : Bool) (bs : List Byte) : List Byte :=
  if f32 then
    let v := FV.ofInt (signed 32 (bytesToNat bs))
    natToBytes 4 (encF 2 (rneF 2 (match v with
      | .fin s m e => .fin s m (e - 4)
      | v => v)))
  else bs

/-- The values of a cell: 16 words of four bytes. -/
def markCell (f32 : Bool) (bs : List Byte) : List Byte := (List.range 16).flatMap (fun i => markValue f32 ((bs.drop (4 * i)).take 4))

/-- A refresh performed (R334). -/
def doRfmark (s : State) (c : Cmd) : Except EErr State :=
  let b := MarkBlock.ofNat (blockNat c.block)
  let ctx := s.cmdCtx c
  let cells := markCells b
  match readsAt c.unit ctx 64 s cells with
  | .error e => .error e
  | .ok (s, rs) =>
    match s.cmdSp c b.dsp (64 * cells.length) with
    | .error e => .error e
    | .ok (u, off) =>
      let s : State := { s with mem := s.mem.spPut u off (rs.flatMap (markCell b.f32)) }
      match writesAt c.unit ctx s ((markDrift b).map (fun a => (a, List.replicate 8 0))) with
      | (s, some (.flt f)) => .ok (s.failCmd c (s.mtImgc c.prt c.unit 1) f)
      | (_, some .absent) => .error .absent
      | (s, none) => .ok ((s.complete c (BitVec.ofNat 64 cells.length)).chargeCmd c 11 cells.length)

end Sys2Proof.Machine
end

