-- ==== Sys2Proof/Machine/Matrix.lean ====
section
/-! DEFINITION. Matrix islands (R337 to R349): the command tokens that a slot sends, and what an island does with them. -/

namespace Sys2Proof.Machine

open Sys2Proof

/-! ### Command tokens (R339, R342) -/

/-- The token payload of a command (R339). -/
def commandWord (kind arg : Nat) : Dword := BitVec.ofNat 64 (kind * 2 ^ 60 + arg)

/-- A block address with the home MT of the issuing unit written in (R339). -/
def State.blockArg (s : State) (a : Dword) : Nat :=
  if bit a.toNat 32 then
    match (s.part s.slot.prt).imageOf (dieOf s.slotUnit) (mtTile s.slotUnit) with
    | some (d, t) => d * 2 ^ 30 + t * 2 ^ 21 + a.toNat % 2 ^ 21
    | none => a.toNat % 2 ^ 21
  else a.toNat % 2 ^ 32

/-- The tests of a block address at issue (R339). -/
def blockAddrFlt (a : Dword) : Option Flt :=
  if a.toNat % 8 ≠ 0 then some { code := 0x20, addr := a }
  else if a.toNat / 2 ^ 33 ≠ 0 then some { code := 0x21, addr := a }
  else none

/-- A command that names a block: its token sent (R339). -/
def State.sendBlock (s : State) (o : Ops) (kind : Nat) : Res State :=
  s.memory o (fun g t =>
    match blockAddrFlt g.a.val with
    | some f => .error (f, t)
    | none => .ok (t.done o (some (commandWord kind (t.blockArg g.a.val))) 0 1))

/-- CHUCK (R339, R343). -/
def execChuck (o : Ops) (s : State) : Host.Outcome State Fault Refusal := s.run (fun s => s.sendBlock o 1)

/-- MSWAP (R339, R343). -/
def execMswap (o : Ops) (s : State) : Host.Outcome State Fault Refusal :=
  s.run (fun s => s.memory o (fun _ t => .ok (t.done o (some (commandWord 2 0)) 0 1)))

/-- MFEED (R339, R345). -/
def execMfeed (o : Ops) (s : State) : Host.Outcome State Fault Refusal :=
  s.run (fun s => s.sendBlock o (if o.f.getLsbD 0 then 4 else 3))

/-- MDRAW (R339, R346). -/
def execMdraw (o : Ops) (s : State) : Host.Outcome State Fault Refusal := s.run (fun s => s.sendBlock o 5)

/-- Whether a rows field is legal (R340, R344): ROW0 and CNT within 64 rows, every other bit zero. -/
def rowsLegal (v : Nat) : Bool :=
  v / 2 ^ 13 == 0 && 1 ≤ bits v 12 6 && bits v 12 6 ≤ 64 && bits v 5 0 + bits v 12 6 ≤ 64

/-- MZERO (R339, R344). -/
def execMzero (o : Ops) (s : State) : Host.Outcome State Fault Refusal :=
  s.run (fun s => s.memory o (fun g t =>
    if !rowsLegal g.a.val.toNat then .error ({ code := 0x48, info := commandWord 6 (g.a.val.toNat % 2 ^ 33) }, t)
    else .ok (t.done o (some (commandWord 6 g.a.val.toNat)) 0 1)))

/-! ### Command blocks (R340, R341) -/

/-- A command block (R340). -/
structure IslBlock where
  addr  : Nat
  saddr : Nat
  pitch : Nat
  row0  : Nat
  cnt   : Nat
  sp    : Bool
  chan  : Bool
  clr   : Bool
  otype : Nat

/-- A block read as a number (R340). -/
def IslBlock.ofNat (v : Nat) : IslBlock :=
  let f := fieldAt v
  { addr := f 0 8, saddr := f 8 8, pitch := f 0x10 4, row0 := bits (f 0x14 2) 5 0, cnt := bits (f 0x14 2) 12 6,
    sp := bit (f 0x16 1) 0, chan := bit (f 0x16 1) 1, clr := bit (f 0x16 1) 2, otype := f 0x17 1 }

/-- The accumulator format of a bound type (R337). -/
def islAccT (ty : Nat) : Nat := if ty = 1 then 1 else 2

/-- The bytes of a row of 64 elements of a type (R340). -/
def rowBytes (ty : Nat) : Nat := if ty = 7 then 32 else 64 * wBytes ty

/-- The output type of an MDRAW (R340, R346). -/
def outT (ty otype : Nat) : Nat := if otype = 0 then islAccT ty else otype

/-- The output types that a bound type allows (R340). -/
def otypeOk (ty otype : Nat) : Bool := otype == 0 || (if ty = 1 then otype == 1 else 2 ≤ otype && otype ≤ 4)

/-- The checks of R341 on a block for a command kind, on an island of a bound type. -/
def IslBlock.legal (b : IslBlock) (v kind ty : Nat) (feedLnk drawLnk : Bool) : Bool :=
  let draw := kind == 5
  fieldAt v 0x18 8 == 0 && fieldAt v 0x16 1 / 8 == 0 && rowsLegal (fieldAt v 0x14 2) && b.addr % 8 == 0 &&
  (if draw then otypeOk ty b.otype else b.otype == 0) && (fNarrow ty || b.saddr == 0) &&
  (if b.chan then b.addr == 0 && b.saddr == 0 && b.pitch == 0 && kind != 1 && (if draw then drawLnk else feedLnk)
   else b.pitch % 8 == 0 && rowBytes (if draw then outT ty b.otype else ty) ≤ b.pitch)

/-- The unit that an island works for: that of the task whose port feeds its command channel (R338, R340). -/
def State.islUnit (s : State) (n : Nat) : Nat :=
  match s.slots.find? (fun x => x.outs.toList.any (fun p => p.dst == some (.island n 0))) with
  | some x => coordUnit x.place
  | none => 0

/-- The image die of an island of a partition (R106). -/
def Part.islandDie (p : Part) (n img : Nat) : Nat :=
  ((List.range 4).find? (fun d => match p.candReg d with
    | some r => mapIsland r img == some (n / 16, n % 16)
    | none => false)).getD 0

/-- IMGC of an island (R430). -/
def State.islImgc (s : State) (n : Nat) : Nat :=
  let x := s.isl n
  engImgc ((s.part x.prt).islandDie n x.img) (512 + x.img) 0

/-- The matrix-command fault of an island taken (R341): the block address in ADDR, the token payload in INFO. -/
def State.islFault (s : State) (n : Nat) (word : Dword) : State :=
  let kind := word.toNat / 2 ^ 60
  let addr : Dword := if kind = 6 then 0 else BitVec.ofNat 64 (word.toNat % 2 ^ 33)
  s.raiseEngine (s.isl n).prt (s.islImgc n) { code := 0x48, addr := addr, info := word }

/-- Whether SEG, ROW or TEN stands at the head of the feed channel, which may hold elements and DRN only (R341). -/
def Island.feedMarked (x : Island) : Bool :=
  match x.feed.queue with
  | [] => false
  | t :: _ =>
    match t.kind with
    | .elem => false
    | .mrk m => m != .drn

/-- The next command token taken from the channel, with its block (R339 to R342); a token or a block that R341 refuses
raises the fault. -/
def State.islTake (s : State) (n : Nat) : Except State State :=
  let x := s.isl n
  match x.cmd.queue with
  | [] => .error s
  | t :: q =>
    let word := t.val
    let kind := word.toNat / 2 ^ 60
    let y : Island := { x with cmd := { x.cmd with queue := q, freed := x.cmd.freed + 1 } }
    let bad : Except State State := .error (s.islFault n word)
    match t.kind with
    | .mrk .drn => .error s
    | .mrk _ => bad
    | .elem =>
      if bits word.toNat 59 33 ≠ 0 || kind = 0 || 6 < kind then bad
      else if kind = 2 then if bits word.toNat 32 0 = 0 then .ok (s.setIsl n { y with cur := some (word, 0) }) else bad
      else if kind = 6 then
        if rowsLegal (word.toNat % 2 ^ 33) then .ok (s.setIsl n { y with cur := some (word, 0) }) else bad
      else
        match spRange s x.prt (s.islUnit n) (BitVec.ofNat 64 (word.toNat % 2 ^ 33)) 32 with
        | .error _ => bad
        | .ok (u, off) =>
          let v := s.mem.spGet u off 32
          if off % 8 ≠ 0 || s.mem.spBad u off 32 then bad
          else if !(IslBlock.ofNat v).legal v kind x.ty.toNat x.feed.bound x.drawLnk then bad
          else .ok (s.setIsl n { y with cur := some (word, v) })

/-- The fault of a marker that the feed channel may not hold (R341): it names the command in service, or none. -/
def State.feedFault (s : State) (n : Nat) : State := s.islFault n (((s.isl n).cur.map (fun c => c.1)).getD 0)

/-- A command of the kinds given brought into service (R342, R349): the one in service, or the next of the channel once the count of
the island's section is used up. The event of another kind finds nothing to do. -/
def State.islServe (s : State) (n : Nat) (kind : Nat) (f : State → Dword → IslBlock → State) : State :=
  let x := s.isl n
  let go (t : State) : State :=
    match (t.isl n).cur with
    | some (w, v) => f t w (IslBlock.ofNat v)
    | none => t
  if !x.bound then s
  else if x.feedMarked then s.feedFault n
  else match x.cur with
    | some (w, _) => if w.toNat / 2 ^ 60 = kind then go s else s
    | none =>
      if s.tilesLeft x.prt x.sect ≠ 0 then s
      else match x.cmd.queue with
        | [] => s
        | t :: _ =>
          let k := t.val.toNat / 2 ^ 60
          if t.kind = .elem && k ≠ kind && 1 ≤ k && k ≤ 6 then s
          else match s.islTake n with
            | .error t => t
            | .ok t => go t

/-- The command in service ended (R347), with `n` units of an island's energy class (R405). -/
def State.islDone (s : State) (n : Nat) (x : Island) (units : Nat) : State :=
  (s.setIsl n { x with cur := none }).charge (s.part x.prt).ctx 8 units

/-! ### Rows in memory (R340) -/

/-- Bytes read for an island (R340): scratchpad, or the home of a virtual address. -/
def State.islRead (s : State) (n : Nat) (sp : Bool) (a len : Nat) : Except EErr (State × List Byte) :=
  let x := s.isl n
  let u := s.islUnit n
  if sp then
    match spRange s x.prt u (BitVec.ofNat 64 a) len with
    | .error f => .error (.flt f)
    | .ok (v, off) =>
      if s.mem.spBad v off len then .error (.flt { code := 0x25 }) else .ok (s, readBytes s.mem.sram (spAddr v off) len)
  else engReadOk s u (s.part x.prt).ctx a len

/-- Several reads of an island, in order. -/
def State.islReads (n : Nat) (sp : Bool) (len : Nat) : State → List Nat → Except EErr (State × List (List Byte))
  | s, [] => .ok (s, [])
  | s, a :: as =>
    match s.islRead n sp a len with
    | .error e => .error e
    | .ok (s, bs) =>
      match State.islReads n sp len s as with
      | .error e => .error e
      | .ok (s, rs) => .ok (s, bs :: rs)

/-- Bytes written for an island (R340). -/
def State.islWrite (s : State) (n : Nat) (sp : Bool) (a : Nat) (bs : List Byte) : State × Option EErr :=
  let x := s.isl n
  let u := s.islUnit n
  if sp then
    match spRange s x.prt u (BitVec.ofNat 64 a) bs.length with
    | .error f => (s, some (.flt f))
    | .ok (v, off) => ({ s with mem := s.mem.spPut v off bs }, none)
  else engWrite s u (s.part x.prt).ctx a bs

/-- Several writes of an island, in order. -/
def State.islWrites (n : Nat) (sp : Bool) : State → List (Nat × List Byte) → State × Option EErr
  | s, [] => (s, none)
  | s, (a, bs) :: ws =>
    match s.islWrite n sp a bs with
    | (s, some e) => (s, some e)
    | (s, none) => State.islWrites n sp s ws

/-- The addresses of the rows of a block. -/
def IslBlock.rowAddrs (b : IslBlock) : List Nat := (List.range b.cnt).map (fun i => b.addr + i * b.pitch)

/-- The addresses of the scales of the rows of a block (R340). -/
def IslBlock.scaleAddrs (b : IslBlock) : List Nat := if b.saddr = 0 then [] else (List.range b.cnt).map (fun i => b.saddr + 2 * i)

/-- Element `j` of a row of a type (R340). -/
def rowElem (ty : Nat) (bs : List Byte) (j : Nat) : Nat :=
  if ty = 7 then (bs.getD (j / 2) 0).toNat / 16 ^ (j % 2) % 16
  else bytesToNat ((bs.drop (wBytes ty * j)).take (wBytes ty))

/-- The rows of a block with their scales: codes and scale bytes (R340). -/
def State.islRows (s : State) (n : Nat) (b : IslBlock) : Except EErr (State × List (List Byte) × List (List Byte)) :=
  match State.islReads n b.sp (rowBytes (s.isl n).ty.toNat) s b.rowAddrs with
  | .error e => .error e
  | .ok (s, rows) =>
    match State.islReads n b.sp 2 s b.scaleAddrs with
    | .error e => .error e
    | .ok (s, scs) => .ok (s, rows, scs)

/-- The scale of block `k` of row `i`: 127 where no scale array is named (R340). -/
def scaleOf (scs : List (List Byte)) (i k : Nat) : Byte := (scs.getD i [127, 127]).getD k 127

/-! ### CHUCK, MSWAP, MZERO (R343, R344) -/

/-- Rows laid over a plane from a row on. -/
def planePut (ty row0 : Nat) (t : Tbl Dword) (rows : List (List Byte)) : Tbl Dword :=
  (List.range (64 * rows.length)).foldl (fun t e =>
    tput 0 t (64 * row0 + e) (BitVec.ofNat 64 (rowElem ty (rows.getD (e / 64) []) (e % 64)))) t

/-- Scales laid over those of a plane from a row on (R343). -/
def scalePut (row0 cnt : Nat) (t : Tbl Byte) (scs : List (List Byte)) : Tbl Byte :=
  (List.range (2 * cnt)).foldl (fun t e => tput 127 t (2 * row0 + e) (scaleOf scs (e / 2) (e % 2))) t

/-- Whether a condition that an access of a command meets is one that R341 turns into a matrix-command fault: a page not present or
FAR, a scratchpad address out of range, the page kind, the permission or an uncorrectable error. -/
def islMeets (code : Nat) : Bool := [0x01, 0x02, 0x21, 0x22, 0x23, 0x25].contains code

/-- A granule that a command still waits for leaves the state; a condition of R341 is a matrix-command fault, and another, such as
write-twice or a malformed table, the fault it is (R203, R261). -/
def State.islErr (s : State) (n : Nat) (w : Dword) : EErr → State
  | .absent => s
  | .flt f => if islMeets f.code then s.islFault n w else s.raiseEngine (s.isl n).prt (s.islImgc n) f

/-- CHUCK performed (R343). -/
def islChuck (n : Nat) (s : State) (w : Dword) (b : IslBlock) : State :=
  match s.islRows n b with
  | .error e => s.islErr n w e
  | .ok (s, rows, scs) =>
    let x := s.isl n
    s.islDone n { x with shadow := planePut x.ty.toNat b.row0 x.shadow rows, sscale := scalePut b.row0 b.cnt x.sscale scs } 0

/-- ISLAND_CHUCK (R343). -/
def execIslandChuck (n : Nat) (s : State) : Host.Outcome State Fault Refusal := .next (s.islServe n 1 (islChuck n))

/-- ISLAND_MSWAP (R343). -/
def execIslandMswap (n : Nat) (s : State) : Host.Outcome State Fault Refusal :=
  .next (s.islServe n 2 (fun s _ _ =>
    let x := s.isl n
    s.islDone n { x with plane := x.shadow, scale := x.sscale, shadow := x.plane, sscale := x.scale } 0))

/-- ISLAND_MZERO (R344). -/
def execIslandMzero (n : Nat) (s : State) : Host.Outcome State Fault Refusal :=
  .next (s.islServe n 6 (fun s w _ =>
    let x := s.isl n
    let r0 := bits w.toNat 5 0
    s.islDone n { x with acc := tdrop x.acc (64 * r0) (64 * (r0 + bits w.toNat 12 6)) } 0))

/-! ### MFEED (R345) -/

/-- The value of a plane element, its scale included (R127, R345). -/
def Island.weight (x : Island) (k j : Nat) : FV :=
  let v := decF x.ty.toNat (tget 0 x.plane (64 * k + j)).toNat
  if fNarrow x.ty.toNat then scaleV (tget 127 x.scale (2 * k + j / 32)).toNat v else v

/-- The value of element `k` of activation row `i` read from memory (R345). -/
def rowValue (ty : Nat) (rows scs : List (List Byte)) (i k : Nat) : FV :=
  let v := decF ty (rowElem ty (rows.getD i []) k)
  if fNarrow ty then scaleV (scaleOf scs i (k / 32)).toNat v else v

/-- The value of a feed token (R345). -/
def feedValue (ty : Nat) (t : Tok) : FV :=
  if fNarrow ty then
    scaleV (bits t.val.toNat 15 8) (decF ty (if ty = 7 then t.val.toNat % 16 else t.val.toNat % 256))
  else decF ty t.val.toNat

/-- `acc_add` over k in ascending order, from an accumulator (R345). -/
def feedSum (af : Nat) (c : FV) (a w : Nat → FV) : FV :=
  (List.range 64).foldl (fun c k => accV af c (mulV (a k) (w k))) c

/-- The accumulators after `cnt` activation rows (R345). -/
def Island.feedRows (x : Island) (tr : Bool) (row0 cnt : Nat) (a : Nat → Nat → FV) : Tbl Dword :=
  let af := islAccT x.ty.toNat
  (List.range (64 * cnt)).foldl (fun t e =>
    let r := e / 64
    let j := e % 64
    let key := 64 * (row0 + r) + j
    let c := feedSum af (decF af (tget 0 t key).toNat) (a r) (fun k => if tr then x.weight j k else x.weight k j)
    tput 0 t key (BitVec.ofNat 64 (encF af c))) x.acc

/-- Feed tokens taken as they stand at the head of the channel, up to a number in all (R345): the island, and whether a
marker stands where an element is needed (R341). -/
def takeFeed (need : Nat) : Nat → Island → Island × Bool
  | 0, x => (x, false)
  | f + 1, x =>
    if need ≤ x.taken.length then (x, false)
    else match x.feed.queue with
      | [] => (x, false)
      | t :: q =>
        if t.kind = .elem then
          takeFeed need f { x with feed := { x.feed with queue := q, freed := x.feed.freed + 1 }, taken := x.taken ++ [t] }
        else (x, true)

/-- The value of element `k` of row `i` among the taken tokens. -/
def Island.takenValue (x : Island) (i k : Nat) : FV := feedValue x.ty.toNat (x.taken.getD (64 * i + k) {})

/-- MFEED performed, or as far as its feed tokens have come (R345). -/
def islFeed (n : Nat) (tr : Bool) (s : State) (w : Dword) (b : IslBlock) : State :=
  if b.chan then
    match takeFeed (64 * b.cnt) (s.isl n).feed.queue.length (s.isl n) with
    | (_, true) => s.islFault n w
    | (x, false) =>
      if x.taken.length < 64 * b.cnt then s.setIsl n x
      else s.islDone n { x with acc := x.feedRows tr b.row0 b.cnt x.takenValue, taken := [] } (64 * b.cnt)
  else
    match s.islRows n b with
    | .error e => s.islErr n w e
    | .ok (s, rows, scs) =>
      let x := s.isl n
      s.islDone n { x with acc := x.feedRows tr b.row0 b.cnt (rowValue x.ty.toNat rows scs) } (64 * b.cnt)

/-- ISLAND_MFEED (R345). -/
def execIslandMfeed (n : Nat) (s : State) : Host.Outcome State Fault Refusal := .next (s.islServe n 3 (islFeed n false))

/-- ISLAND_MFEED_TRANSPOSED (R345). -/
def execIslandMfeedTransposed (n : Nat) (s : State) : Host.Outcome State Fault Refusal :=
  .next (s.islServe n 4 (islFeed n true))

/-! ### MDRAW (R346) -/

/-- An accumulator in an output type (R346). -/
def Island.drawn (x : Island) (ot r j : Nat) : Nat :=
  let af := islAccT x.ty.toNat
  let y := (tget 0 x.acc (64 * r + j)).toNat
  if ot = af then y % 2 ^ tWidth af else encF ot (rneF ot (decF af y))

/-- Rows of accumulators zeroed with CLR (R346). -/
def Island.clearRows (x : Island) (clr : Bool) (row0 cnt : Nat) : Tbl Dword :=
  if clr then tdrop x.acc (64 * row0) (64 * (row0 + cnt)) else x.acc

/-- The tokens of an MDRAW to the draw channel (R346): each row, its ROW, and one TEN. -/
def Island.drawToks (x : Island) (ot row0 cnt : Nat) : List Tok :=
  (List.range cnt).flatMap (fun i =>
    (List.range 64).map (fun j => (⟨putBits ot (x.drawn ot (row0 + i) j), .elem⟩ : Tok)) ++ [⟨0, .mrk .row⟩]) ++ [⟨0, .mrk .ten⟩]

/-- Tokens still to be drawn sent while the link has free slots (R42). -/
def pushDraw : Nat → Island → Island
  | 0, x => x
  | f + 1, x =>
    match x.pend with
    | [] => x
    | t :: ts =>
      if x.draw.credit = 0 then x
      else pushDraw f { x with pend := ts, draw := { x.draw with credit := x.draw.credit - 1, flight := x.draw.flight ++ [t] } }

/-- The tokens of a draw sent as far as the link has room. -/
def Island.push (x : Island) : Island := pushDraw x.pend.length x

/-- MDRAW performed, or as far as the draw channel has room (R346, R347). -/
def islDraw (n : Nat) (s : State) (w : Dword) (b : IslBlock) : State :=
  let x := s.isl n
  let ot := outT x.ty.toNat b.otype
  if b.chan then
    let x := if x.pend.isEmpty then { x with pend := x.drawToks ot b.row0 b.cnt, acc := x.clearRows b.clr b.row0 b.cnt } else x
    let x := x.push
    if x.pend.isEmpty then s.islDone n x 0 else s.setIsl n x
  else
    let rows := (List.range b.cnt).map (fun i => (b.addr + i * b.pitch,
      (List.range 64).flatMap (fun j => natToBytes (wBytes ot) (x.drawn ot (b.row0 + i) j))))
    match State.islWrites n b.sp s rows with
    | (_, some .absent) => s
    | (t, some e) => t.islErr n w e
    | (s, none) => s.islDone n { s.isl n with acc := x.clearRows b.clr b.row0 b.cnt } 0

/-- ISLAND_MDRAW (R346). -/
def execIslandMdraw (n : Nat) (s : State) : Host.Outcome State Fault Refusal := .next (s.islServe n 5 (islDraw n))

/-! ### Armed tiles (R348, R349) -/

/-- A tile of an armed island, as far as its channels let it come (R348): 64 rows fed, and drawn with their accumulators
cleared; the count falls when the tile's TEN has been sent. -/
def islTile (n : Nat) (s : State) : State :=
  let x := s.isl n
  let x' := if !x.pend.isEmpty then (x, false) else takeFeed 4096 x.feed.queue.length x
  if x'.2 then s.islFault n 0
  else
    let x := x'.1
    if x.pend.isEmpty && x.taken.length < 4096 then s.setIsl n x
    else
      let fed := x.pend.isEmpty
      let x := if fed then
          let y : Island := { x with acc := x.feedRows false 0 64 x.takenValue, taken := [] }
          { y with pend := y.drawToks (islAccT y.ty.toNat) 0 64, acc := [] }
        else x
      let x := x.push
      let x := if x.pend.isEmpty then { x with todo := x.todo - 1 } else x
      let s := s.setIsl n x
      if fed then s.charge (s.part x.prt).ctx 8 4096 else s

/-- ISLAND_ARMED_TILE (R348, R349). -/
def execIslandArmedTile (n : Nat) (s : State) : Host.Outcome State Fault Refusal :=
  let x := s.isl n
  .next (if x.bound && x.feedMarked then s.feedFault n
    else if x.bound && x.todo ≠ 0 && x.cur = none then islTile n s else s)

end Sys2Proof.Machine
end

