-- ==== Sys2Proof/Machine/Ternary.lean ====
section
/-! DEFINITION. The ternary array of a compute tile (R351 to R356). -/

namespace Sys2Proof.Machine

open Sys2Proof

/-! ### At issue (R352, R353) -/

/-- ROW0 of a rows field (R352). -/
def tRow0 (v : Nat) : Nat := bits v 4 0
/-- CNT of a rows field (R352). -/
def tCnt (v : Nat) : Nat := bits v 10 5

/-- Whether a rows field is legal (R352); bit 11 is CLR in TDRAW. -/
def tRowsLegal (draw : Bool) (v : Nat) : Bool :=
  v / 2 ^ (if draw then 12 else 11) == 0 && 1 ≤ tCnt v && tCnt v ≤ 32 && tRow0 v + tCnt v ≤ 32

/-- A ternary fault with its reason (R353, R354). -/
def ternFlt (reason : Nat) : Flt := { code := 0x49, info := BitVec.ofNat 64 reason }

/-- The tests of R353 on an address and a region of `n` bytes. -/
def ternRegion (t : State) (a : Dword) (n : Nat) : Acc Unit :=
  match aligned t a 4 with
  | .error e => .error e
  | .ok _ =>
    match t.locateSp a n with
    | .error e => .error e
    | .ok _ => .ok ()

/-- TCHUCK at issue (R353). -/
def tchuckOp (o : Ops) (s : State) : Res State :=
  s.memoryWith o (s.slot.cmdCheck o.d) (fun g t =>
    match ternRegion t g.a.val 205 with
    | .error e => .error e
    | .ok _ => .ok (t.command o (.tchuck g.a.val) []))

/-- TCHUCK (R352). -/
def execTchuck (o : Ops) (s : State) : Host.Outcome State Fault Refusal := s.run (tchuckOp o)

/-- A command with a rows field at issue (R353): `row` bytes belong to each row. -/
def rowsOp (o : Ops) (draw : Bool) (row : Nat) (k : Dword → Nat → CmdKind) (s : State) : Res State :=
  s.memoryWith o (s.slot.cmdCheck o.d) (fun g t =>
    let v := g.b.val.toNat
    let ok := tRowsLegal draw v
    match ternRegion t g.a.val (if ok then row * tCnt v else 0) with
    | .error e => .error e
    | .ok _ => if ok then .ok (t.command o (k g.a.val v) []) else .error (ternFlt 2, t))

/-- A TFEED at issue (R353). -/
def tfeedOp (o : Ops) (s : State) : Res State :=
  rowsOp o false 32 (fun a v => .tfeed a (tRow0 v) (tCnt v) o.sat) s

/-- TFEED (R352). -/
def execTfeed (o : Ops) (s : State) : Host.Outcome State Fault Refusal := s.run (tfeedOp o)

/-- TFEED in form L, with SAT (R352). -/
def execTfeedLong (o : Ops) (s : State) : Host.Outcome State Fault Refusal := s.run (tfeedOp o)

/-- TDRAW at issue (R353). -/
def tdrawOp (o : Ops) (s : State) : Res State :=
  rowsOp o true 128 (fun a v => .tdraw a (tRow0 v) (tCnt v) (bit v 11)) s

/-- TDRAW (R352). -/
def execTdraw (o : Ops) (s : State) : Host.Outcome State Fault Refusal := s.run (tdrawOp o)

/-! ### The array (R351, R354 to R356) -/

/-- Whether a command is one of a ternary array. -/
def CmdKind.ternary : CmdKind → Bool
  | .tchuck _ => true
  | .tfeed _ _ _ _ => true
  | .tdraw _ _ _ _ => true
  | _ => false

/-- Whether a ternary command is the oldest of its slot (R351). -/
def State.ternFirst (s : State) (c : Cmd) : Bool :=
  match s.cmds.find? (fun x => x.place == c.place && x.kind.ternary && x.done.isNone) with
  | some x => x.id == c.id
  | none => false

/-- Scratchpad bytes that the array reads; an uncorrectable error is a memory error (R277). -/
def State.ternRead (s : State) (c : Cmd) (a : Dword) (n : Nat) : Except EErr (List Byte) :=
  match s.cmdSp c a n with
  | .error e => .error e
  | .ok (u, off) =>
    if s.mem.spBad u off n then .error (.flt { code := 0x25, addr := a }) else .ok (readBytes s.mem.sram (spAddr u off) n)

/-- Trit i of a block of bytes (R129, R354). -/
def tritOf (bs : List Byte) (i : Nat) : Nat := (bs.getD (i / 5) 0).toNat / 3 ^ (i % 5) % 3

/-- The value of a stored trit (R129). -/
def tritVal (t : Nat) : Int := if t = 1 then 1 else if t = 2 then -1 else 0

/-- TCHUCK performed (R354). -/
def doTchuck (s : State) (c : Cmd) (a : Dword) : Except EErr State :=
  if !s.ternFirst c then .error .absent
  else match s.ternRead c a 205 with
    | .error e => .error e
    | .ok bs =>
      match (List.range 205).find? (fun i => 243 ≤ (bs.getD i 0).toNat) with
      | some i => .error (.flt { ternFlt 1 with addr := a + BitVec.ofNat 64 i })
      | none =>
        let t := (List.range 1024).foldl (fun t i => tput 0 t i (tritOf bs i)) []
        .ok ((s.setTern c.unit { s.tern c.unit with trits := t }).complete c 1024)

/-- One step of an accumulation in i32 (R355). -/
def ternStep (sat : Bool) (x : Int) : Int :=
  if sat then max (-2 ^ 31) (min (2 ^ 31 - 1) x) else signed 32 (x % 2 ^ 32).toNat

/-- An accumulator after one vector of activations (R355). -/
def ternSum (sat : Bool) (t : Tbl Nat) (bs : List Byte) (n : Nat) (acc : Word) : Word :=
  BitVec.ofInt 32 ((List.range 32).foldl (fun x k =>
    ternStep sat (x + tritVal (tget 0 t (32 * k + n)) * signed 8 (bs.getD k 0).toNat)) (signed 32 acc.toNat))

/-- TFEED performed (R355). -/
def doTfeed (s : State) (c : Cmd) (a : Dword) (row0 cnt : Nat) (sat : Bool) : Except EErr State :=
  if !s.ternFirst c then .error .absent
  else match s.ternRead c a (32 * cnt) with
    | .error e => .error e
    | .ok bs =>
      let x := s.tern c.unit
      let acc := (List.range (32 * cnt)).foldl (fun t e =>
        let key := 32 * row0 + e
        tput 0 t key (ternSum sat x.trits ((bs.drop (32 * (e / 32))).take 32) (e % 32) (tget 0 t key))) x.acc
      .ok (((s.setTern c.unit { x with acc := acc }).complete c (BitVec.ofNat 64 cnt)).chargeCmd c 9 cnt)

/-- TDRAW performed (R356). -/
def doTdraw (s : State) (c : Cmd) (a : Dword) (row0 cnt : Nat) (clr : Bool) : Except EErr State :=
  if !s.ternFirst c then .error .absent
  else match s.cmdSp c a (128 * cnt) with
    | .error e => .error e
    | .ok (u, off) =>
      let x := s.tern c.unit
      let bs := (List.range (32 * cnt)).flatMap (fun e => natToBytes 4 (tget 0 x.acc (32 * row0 + e)).toNat)
      let s : State := { s with mem := s.mem.spPut u off bs }
      let s := s.setTern c.unit { x with acc := if clr then tdrop x.acc (32 * row0) (32 * (row0 + cnt)) else x.acc }
      .ok (s.complete c (BitVec.ofNat 64 cnt))

end Sys2Proof.Machine
end

