-- ==== Sys2Proof/Machine/Galley.lean ====
section
/-! DEFINITION. Delta queues and hash indices as their memory tile performs them (R357 to R371, R373 to R382): regions, records,
frontiers, consolidation, buckets, spilling, and the requests that wait. -/

namespace Sys2Proof.Machine

open Sys2Proof

/-! ### Regions (R357 to R361) -/

/-- A declared region as an operation reaches it: partition, unit, number, declaration, and the address in the register. -/
structure Rg where
  p    : Nat
  u    : Nat
  r    : Nat
  decl : Region
  addr : Dword

/-- The size of a region in bytes (R357). -/
def Region.size (d : Region) : Nat := if d.idx then 128 * (1 + 2 ^ (d.lcap - 1)) else 128 * (1 + 2 ^ (d.lcap - 2))

/-- The signature of region `r` (R359). -/
def Region.sig (d : Region) (r : Nat) : Nat := 0x1A9 * 2 ^ 23 + r * 2 ^ 20 + b2n d.idx * 2 ^ 19 + d.lcap * 2 ^ 14 + d.sbase

/-- The offset of a header byte. -/
def Rg.head (g : Rg) (off : Nat) : Nat := 128 * g.decl.sbase + off
/-- The offset of record i (R357). -/
def Rg.recAt (g : Rg) (i : Nat) : Nat := 128 * (g.decl.sbase + 1) + 32 * (i % 2 ^ g.decl.lcap)
/-- The offset of bucket b (R357). -/
def Rg.bucketAt (g : Rg) (b : Nat) : Nat := 128 * (g.decl.sbase + 1) + 64 * b

/-- `n` bytes of a region as a number. -/
def Rg.get (g : Rg) (s : State) (off n : Nat) : Nat := s.mem.spGet g.u off n
/-- A number stored in `n` bytes of a region. -/
def Rg.put (g : Rg) (s : State) (off n v : Nat) : State := { s with mem := s.mem.spPut g.u off (natToBytes n v) }
/-- Whether bytes of a region are poisoned (R277). -/
def Rg.bad (g : Rg) (s : State) (off n : Nat) : Bool := s.mem.spBad g.u off n

/-- A field of the header line. -/
def Rg.field (g : Rg) (s : State) (off n : Nat) : Nat := g.get s (g.head off) n
/-- A field of the header line written. -/
def Rg.setField (g : Rg) (s : State) (off n v : Nat) : State := g.put s (g.head off) n v

/-- The queue fault (R360, R361, R381). -/
def queueFlt (addr : Dword) (unit : Nat) : Flt := { code := 0x4C, addr := addr, info := BitVec.ofNat 64 unit }
/-- A memory error met in a region (R226). -/
def regionBad (addr : Dword) : Flt := { code := 0x25, addr := addr }

/-- The range check of a queue address (R265, R360), which an instruction takes before any queue fault (R381). -/
def State.regionRange (s : State) (a : Dword) : Acc Unit :=
  match spResolve s s.slot.prt s.slotUnit a.toNat with
  | none => .error ({ code := 0x21, addr := a }, s)
  | some _ => .ok ()

/-- The region that a queue address names for the slot in focus, of the kind asked for (R360). -/
def State.regionOf (s : State) (a : Dword) (idx : Bool) : Acc Rg :=
  match spResolve s s.slot.prt s.slotUnit a.toNat with
  | none => .error ({ code := 0x21, addr := a }, s)
  | some (u, _) =>
    let r := bits a.toNat 2 0
    match (s.mt u).regions.find? (fun x => x.1 == r) with
    | some (_, d) =>
      if bits a.toNat 20 3 = 0 && d.idx == idx then .ok ⟨s.slot.prt, u, r, d, a⟩ else .error (queueFlt a r, s)
    | none => .error (queueFlt a r, s)

/-- GEN as initialisation takes it (R359). -/
def State.newGen (s : State) : Nat := if s.timer = 0 then 1 else s.timer.toNat

/-- A declared region examined at a forme start (R359): kept when its signature stands, else initialised. -/
def State.examine (s : State) (u r : Nat) (d : Region) : State :=
  let g : Rg := ⟨0, u, r, d, 0⟩
  if g.field s 0 8 = d.sig r && !g.bad s (g.head 0) 8 then s
  else
    let n := if d.idx then d.size else 128
    let s : State := { s with mem := s.mem.spPut u (128 * d.sbase) (List.replicate n 0) }
    let s := g.setField s 0 8 (d.sig r)
    if d.idx then g.setField s 8 8 s.newGen else s

/-! ### Queue headers (R363, R364) -/

/-- HEAD, CONS and TAIL of a queue. -/
structure QHead where
  head : Nat
  cons : Nat
  tail : Nat

/-- The sequences of a queue's header (R363). -/
def Rg.qhead (g : Rg) (s : State) : QHead := ⟨g.field s 8 4, g.field s 12 4, g.field s 16 4⟩

/-- The distance of two sequences (R363). -/
def seqDist (a b : Nat) : Nat := (a + 2 ^ 32 - b) % 2 ^ 32

/-- Whether a header satisfies R363. -/
def QHead.ok (q : QHead) (lcap : Nat) : Bool := seqDist q.cons q.head + seqDist q.tail q.cons ≤ 2 ^ lcap

/-- The frontier of a lane (R363). -/
def Rg.frontier (g : Rg) (s : State) (lane : Nat) : Nat := g.field s (0x18 + 4 * lane) 4

/-- F_in (R364). -/
def Rg.fIn (g : Rg) (s : State) : Nat :=
  min (min (g.frontier s 0) (g.frontier s 1)) (min (g.frontier s 2) (g.frontier s 3))

/-- Record i as a number (R362). -/
def Rg.record (g : Rg) (s : State) (i : Nat) : Nat := g.get s (g.recAt i) 32

/-- TIME, MULT, KEY and PAYLOAD of a record (R362). -/
def recTime (r : Nat) : Nat := r % 2 ^ 32
def recMult (r : Nat) : Int := signed 32 (r / 2 ^ 32)
def recKey (r : Nat) : Nat := bits r 127 64
def recPayload (r : Nat) : Nat := bits r 255 128

/-- A record as a group of four registers (R362). -/
def recWords (r : Nat) : List Dword := (List.range 4).map (fun i => BitVec.ofNat 64 (r / 2 ^ (64 * i)))
/-- The record that a group of registers holds (R362). -/
def wordsRec (ws : List Dword) : Nat := blockNat ws

/-- What an operation at a region gives: it waits there, it is not ready and issues again (an access through a Holvor window that
has no answer yet), it meets a fault, or it is performed and brings values. -/
inductive RegOut where
  | wait
  | held
  | fault (f : Flt) (s : State)
  | done (s : State) (vs : List Dword)

/-- An operation on a queue whose header is sound (R361). -/
def Rg.onQueue (g : Rg) (s : State) (f : QHead → RegOut) : RegOut :=
  let q := g.qhead s
  if g.bad s (g.head 0) 0x28 then .fault (regionBad g.addr) s
  else if !q.ok g.decl.lcap then .fault (queueFlt g.addr g.r) s
  else f q

/-- DQPUT at the MT (R364, R373). -/
def dqputStep (s : State) (g : Rg) (lane : Nat) (ws : List Dword) : RegOut :=
  g.onQueue s (fun q =>
    let r := wordsRec ws
    if 2 ^ g.decl.lcap ≤ seqDist q.tail q.head then .wait
    else if recTime r < g.frontier s lane || 0xFFFFFFFD < recTime r then
      .fault { code := 0x4A, addr := g.addr, info := BitVec.ofNat 64 (lane + recTime r * 2 ^ 32) } s
    else .done (g.setField (g.put s (g.recAt q.tail) 32 r) 16 4 (q.tail + 1)) [])

/-- Whether a queue is drained (R374). -/
def Rg.drained (g : Rg) (s : State) (q : QHead) : Bool := g.fIn s == 0xFFFFFFFF && q.head == q.tail

/-- The values that stand for no record (R374). -/
def sentinel (drained : Bool) : Dword := if drained then 0xFFFFFFFF else 0xFFFFFFFE

/-- DQGET at the MT (R374). -/
def dqgetStep (s : State) (g : Rg) (nw : Bool) : RegOut :=
  g.onQueue s (fun q =>
    if q.cons ≠ q.head then
      if g.bad s (g.recAt q.head) 32 then .fault (regionBad g.addr) s
      else .done (g.setField s 8 4 (q.head + 1)) (recWords (g.record s q.head))
    else if g.drained s q then .done s [sentinel true, 0, 0, 0]
    else if nw then .done s [sentinel false, 0, 0, 0]
    else .wait)

/-! ### Consolidation (R365, R366) -/

/-- The order of R365: TIME, then KEY, then PAYLOAD. -/
def recLe (a b : Nat) : Bool :=
  recTime a < recTime b || (recTime a == recTime b && (recKey a < recKey b || (recKey a == recKey b && recPayload a ≤ recPayload b)))

/-- Whether two records agree in TIME, KEY and PAYLOAD. -/
def recSame (a b : Nat) : Bool := recTime a == recTime b && recKey a == recKey b && recPayload a == recPayload b

/-- A record put before the first that follows or equals it. -/
def recInsert (x : Nat) : List Nat → List Nat
  | [] => [x]
  | y :: ys => if recLe x y then x :: y :: ys else y :: recInsert x ys

/-- Records sorted by R365; equal triples keep their order. -/
def recSort (xs : List Nat) : List Nat := xs.foldr recInsert []

/-- Records cut into runs of equal triples. -/
def recRuns : List Nat → List (List Nat)
  | [] => []
  | x :: xs =>
    match recRuns xs with
    | [] => [[x]]
    | [] :: rs => [x] :: rs
    | (y :: ys) :: rs => if recSame x y then (x :: y :: ys) :: rs else [x] :: (y :: ys) :: rs

/-- The exact sum of the multiplicities of a run. -/
def runMult (xs : List Nat) : Int := (xs.map recMult).sum

/-- Whether a sum is an i32 (R365). -/
def inI32 (m : Int) : Bool := -2 ^ 31 ≤ m && m ≤ 2 ^ 31 - 1

/-- A record with another multiplicity. -/
def withMult (r : Nat) (m : Int) : Nat := r - bits r 63 32 * 2 ^ 32 + (m % 2 ^ 32).toNat * 2 ^ 32

/-- What a run leaves in out (R365). -/
def runOut (xs : List Nat) : List Nat :=
  let m := runMult xs
  if !inI32 m then xs else if m = 0 then [] else (xs.take 1).map (fun r => withMult r m)

/-- Records written at consecutive sequences. -/
def Rg.putRecs (g : Rg) (s : State) (i : Nat) : List Nat → State
  | [] => s
  | r :: rs => g.putRecs (g.put s (g.recAt i) 32 r) (i + 1) rs

/-- The image coordinates of an offset in the scratchpad of a unit, as a scratchpad address (R222). -/
def spImage (s : State) (p u off : Nat) : Dword :=
  match (s.part p).imageOf (dieOf u) (mtTile u) with
  | some (d, t) => BitVec.ofNat 64 (d * 2 ^ 30 + t * 2 ^ 21 + off)
  | none => BitVec.ofNat 64 off

/-- The multiplicity-overflow notices of the runs that stand from sequence `i` of out on (R366). -/
def Rg.notices (g : Rg) (s : State) (i : Nat) : List (List Nat) → State
  | [] => s
  | xs :: rs =>
    let s := if inI32 (runMult xs) then s
      else s.emitEngine g.p (s.mtImgc g.p g.u (8 + g.r))
        { code := 0x4B, addr := spImage s g.p g.u (g.recAt i),
          info := BitVec.ofNat 64 (xs.length * 2 ^ 32 + recTime (xs.headD 0)) }
    g.notices s (i + (runOut xs).length) rs

/-- The records of a queue from one sequence to another. -/
def Rg.records (g : Rg) (s : State) (i j : Nat) : List Nat := (List.range (seqDist j i)).map (fun k => g.record s (i + k))

/-- DQCON at the MT (R365, R375). -/
def dqconStep (s : State) (g : Rg) : RegOut :=
  g.onQueue s (fun q =>
    let idx := List.range (seqDist q.tail q.cons)
    if idx.any (fun k => g.bad s (g.recAt (q.cons + k)) 32) then .fault (regionBad g.addr) s
    else
      let f := g.fIn s
      let all := g.records s q.cons q.tail
      let runs := recRuns (recSort (all.filter (fun r => recTime r < f)))
      let out := runs.flatMap runOut
      let rest := all.filter (fun r => f ≤ recTime r)
      let s := g.notices s q.cons runs
      let s := g.putRecs s q.cons (out ++ rest)
      let s := g.setField s 12 4 (q.cons + out.length)
      .done (g.setField s 16 4 (q.cons + out.length + rest.length)) [BitVec.ofNat 64 out.length])

/-- DQFRN at the MT (R364, R375). -/
def dqfrnStep (s : State) (g : Rg) (lane v : Nat) : RegOut :=
  g.onQueue s (fun _ => .done (g.setField s (0x18 + 4 * lane) 4 (max (g.frontier s lane) v)) [])

/-- DQQSC at the MT (R367, R375). -/
def dqqscStep (s : State) (g : Rg) (t : Nat) : RegOut :=
  g.onQueue s (fun q =>
    .done s [b2d (t < g.fIn s && (g.records s q.head q.tail).all (fun r => t < recTime r))])

/-! ### Buckets (R368, R369) -/

/-- H(K) (R369). -/
def hashKey (k : Nat) : Nat := k * 0x9E3779B97F4A7C15 % 2 ^ 64

/-- The home bucket of a key (R369). -/
def Rg.home (g : Rg) (k : Nat) : Nat := hashKey k / 2 ^ (64 - g.decl.lcap)

/-- q of R369: log2 of the number of spill buckets. -/
def Region.spillQ (d : Region) : Nat := Nat.log2 (2 * d.spillN)

/-- The spill bucket of a key (R369). -/
def Rg.spillOf (g : Rg) (k : Nat) : Nat := hashKey k / 2 ^ (64 - g.decl.spillQ)

/-- KEY and VALUE of slot i of a bucket read as a number (R368). -/
def bKey (v i : Nat) : Nat := fieldAt v (16 + 16 * i) 8
def bVal (v i : Nat) : Nat := fieldAt v (24 + 16 * i) 8
/-- A field of a bucket replaced. -/
def bSet (v off n x : Nat) : Nat := v - fieldAt v off n * 2 ^ (8 * off) + x % 2 ^ (8 * n) * 2 ^ (8 * off)
/-- An entry written to slot i of a bucket. -/
def bPut (v i k x : Nat) : Nat := bSet (bSet v (16 + 16 * i) 8 k) (24 + 16 * i) 8 x

/-- The slot of a bucket that holds a key. -/
def bFind (v k : Nat) : Option Nat := (List.range 3).find? (fun i => bVal v i != 0 && bKey v i == k)
/-- The lowest free slot of a bucket. -/
def bFree (v : Nat) : Option Nat := (List.range 3).find? (fun i => bVal v i == 0)

/-- STAMPs and SPILLED of a control word (R368). -/
def bStamp (v i : Nat) : Nat := fieldAt v (2 * i) 2
def bSpilled (v : Nat) : Bool := bit v 48
/-- A control word with SPILLED set. -/
def bMarkSpilled (v : Nat) : Nat := if bSpilled v then v else v + 2 ^ 48

/-- A resident bucket read. -/
def Rg.bucket (g : Rg) (s : State) (b : Nat) : Nat := g.get s (g.bucketAt b) 64
/-- A resident bucket written. -/
def Rg.setBucket (g : Rg) (s : State) (b v : Nat) : State := g.put s (g.bucketAt b) 64 v

/-- A spill bucket as the MT reads it at its home (R369): its physical address and its contents, those of an empty one
where it holds another generation. -/
structure Spill where
  va : Nat
  pa : Nat
  v  : Nat

/-- What the answers of another package give an access of a region's engine: a result, a fault, or nothing yet (R420). -/
def hvStop {α : Type} (s : State) : Except EErr α → Res α
  | .ok x => .ok x
  | .error .absent => .error (.wait, s)
  | .error (.flt f) => .error (.flt f, s)

/-- The bytes of a spill bucket of this package: translated, on an MU page, with the permissions asked for. -/
def Rg.spillHome (g : Rg) (s : State) (va : Nat) (w : Bool) : Res (State × Nat × Nat) :=
  let ctx := (s.part g.p).ctx
  match translate s g.u ctx va with
  | .error f => .error (.flt f, s)
  | .ok (s, t) =>
    match permitPage t va .mu true w with
    | .error f => .error (.flt f, s)
    | .ok _ =>
      let s : State := { s with mem := s.mem.homeLook ctx (t.pa / 128) }
      if s.mem.homeBad t.pa then .error (.flt (regionBad (BitVec.ofNat 64 va)), s)
      else .ok (s, t.pa, bytesToNat (s.mem.homeBytes t.pa 64))

/-- A spill bucket reached, as an engine's access (R369, R370): at its home here, or through a Holvor window in another package
(R420). -/
def Rg.spillAt (g : Rg) (s : State) (j : Nat) (w : Bool) : Res (State × Spill) :=
  let va := 128 * g.decl.spillA + 64 * j
  let ctx := (s.part g.p).ctx
  let got : Res (State × Nat × Nat) := match hvTarget (s.ctx ctx) va with
    | some _ => (hvStop s (hvTakes ctx false s (pieces 64 va 64))).map (fun r => (r.1, 0, bytesToNat r.2))
    | none => g.spillHome s va w
  match got with
  | .error e => .error e
  | .ok (s, pa, v) =>
    let gen := g.field s 8 8
    .ok (s, ⟨va, pa, if fieldAt v 0 8 = gen then v else gen⟩)

/-- A spill bucket written at its home (R369), here or in another package (R420). -/
def Rg.setSpill (g : Rg) (s : State) (x : Spill) (v : Nat) : Res State :=
  let ctx := (s.part g.p).ctx
  match hvTarget (s.ctx ctx) x.va with
  | some _ => (hvStop s (hvTakes ctx true s (pieces 64 x.va 64))).map (fun r => r.1)
  | none => .ok { s with mem := (s.mem.homePut ctx x.pa (natToBytes 64 v)).note (.energy ctx 6 1) }

/-! ### Applying a change (R370) -/

/-- The index-full fault (R381). -/
def indexFull (g : Rg) (k info : Nat) : Flt :=
  { code := 0x34, addr := BitVec.ofNat 64 k, info := BitVec.ofNat 64 (g.r + b2n (g.decl.spillN != 0) * 8 + info) }

/-- A counter of the header changed by 1 up or down, modulo 2^32. -/
def Rg.bump (g : Rg) (s : State) (off : Nat) (up : Bool) : State :=
  let c := g.field s off 4
  g.setField s off 4 (if up then c + 1 else c + 2 ^ 32 - 1)

/-- The coldest resident slot of a bucket (R370). -/
def coldest (v stamp : Nat) : Nat :=
  let age (i : Nat) : Nat := (stamp + 2 ^ 16 - bStamp v i) % 2 ^ 16
  if age 1 ≤ age 0 && age 2 ≤ age 0 then 0 else if age 2 ≤ age 1 then 1 else 2

/-- A change applied to a key found in its home bucket, with the stamp of this application. -/
def Rg.applyHome (g : Rg) (s : State) (b v i k stamp new : Nat) : State :=
  let v' := bPut v i k new
  if new = 0 then g.bump (g.setBucket s b v') 0x10 false else g.setBucket s b (bSet v' (2 * i) 2 stamp)

/-- A change applied to a key found in its spill bucket. -/
def Rg.applySpill (g : Rg) (s : State) (x : Spill) (i k new : Nat) : Res State :=
  match g.setSpill s x (bPut x.v i k new) with
  | .error e => .error e
  | .ok s => .ok (if new = 0 then g.bump s 0x14 false else s)

/-- A new entry put into slot i of its home bucket. -/
def Rg.applyNew (g : Rg) (s : State) (b v i k stamp new : Nat) : State :=
  g.bump (g.setBucket s b (bSet (bPut v i k new) (2 * i) 2 stamp)) 0x10 true

/-- A new entry whose home bucket is full: the coldest resident entry moves to its spill bucket. -/
def Rg.applyMove (g : Rg) (s : State) (b v k stamp new info : Nat) : Res State :=
  if g.decl.spillN = 0 then .error (.flt (indexFull g k info), s)
  else
    let c := coldest v stamp
    match g.spillAt s (g.spillOf (bKey v c)) true with
    | .error e => .error e
    | .ok (s, x) =>
      match bFree x.v with
      | none => .error (.flt (indexFull g k info), s)
      | some f =>
        match g.setSpill s x (bPut x.v f (bKey v c) (bVal v c)) with
        | .error e => .error e
        | .ok s => .ok (g.applyNew (g.bump (g.bump s 0x10 false) 0x14 true) b (bMarkSpilled v) c k stamp new)

/-- The entry of a key in its spill bucket, looked for only when its home bucket is marked (R370, R377). -/
def Rg.lookSpill (g : Rg) (s : State) (v k : Nat) (w : Bool) : Res (State × Option (Spill × Nat)) :=
  if !bSpilled v || g.decl.spillN = 0 then .ok (s, none)
  else match g.spillAt s (g.spillOf k) w with
    | .error e => .error e
    | .ok (s, x) => .ok (s, (bFind x.v k).map (fun i => (x, i)))

/-- A value after a change, modulo 2^64 (R370). -/
def addDelta (old : Nat) (d : Int) : Nat := ((old + d) % 2 ^ 64).toNat

/-- A change applied to key k (R370): the state, old and new. -/
def Rg.apply (g : Rg) (s : State) (k : Nat) (d : Int) (info : Nat) : Res (State × Nat × Nat) :=
  let b := g.home k
  let v := g.bucket s b
  let stamp := (g.field s 0x18 2 + 1) % 2 ^ 16
  let fin (old : Nat) (s : State) : State × Nat × Nat := (g.setField s 0x18 2 stamp, old, addDelta old d)
  if g.bad s (g.head 0) 0x20 || g.bad s (g.bucketAt b) 64 then .error (.flt (regionBad g.addr), s)
  else match bFind v k with
    | some i => .ok (fin (bVal v i) (g.applyHome s b v i k stamp (addDelta (bVal v i) d)))
    | none =>
      match g.lookSpill s v k true with
      | .error e => .error e
      | .ok (s, some (x, i)) => (g.applySpill s x i k (addDelta (bVal x.v i) d)).map (fin (bVal x.v i))
      | .ok (s, none) =>
        if addDelta 0 d = 0 then .ok (fin 0 s)
        else match bFree v with
          | some i => .ok (fin 0 (g.applyNew s b v i k stamp (addDelta 0 d)))
          | none =>
            match g.applyMove s b v k stamp (addDelta 0 d) info with
            | .error e => .error e
            | .ok s => .ok (fin 0 s)

/-- What a stop within a region gives. -/
def RegOut.stopped : Stop × State → RegOut
  | (.wait, _) => .held
  | (.flt f, s) => .fault f s

/-- The change that IXUPD makes with a record (R376). -/
def updDelta (sum : Bool) (r : Nat) : Int := if sum then recMult r * signed 64 (bits r 191 128) else recMult r

/-- IXUPD at the MT (R376). -/
def ixupdStep (s : State) (q x : Rg) (sum nw : Bool) : RegOut :=
  q.onQueue s (fun h =>
    if h.cons ≠ h.head then
      let r := q.record s h.head
      if q.bad s (q.recAt h.head) 32 then .fault (regionBad q.addr) s
      else match x.apply s (recKey r) (updDelta sum r) (q.r * 16 + h.head * 2 ^ 32) with
        | .error e => .stopped e
        | .ok (t, old, new) =>
          .done (q.setField t 8 4 (h.head + 1))
            [BitVec.ofNat 64 old, BitVec.ofNat 64 new, BitVec.ofNat 64 (recKey r), BitVec.ofNat 64 r]
    else if q.drained s h then .done s [0, 0, 0, sentinel true]
    else if nw then .done s [0, 0, 0, sentinel false]
    else .wait)

/-- IXGET at the MT (R377). -/
def ixgetStep (s : State) (g : Rg) (k : Nat) : RegOut :=
  let b := g.home k
  let v := g.bucket s b
  if g.bad s (g.head 0) 0x20 || g.bad s (g.bucketAt b) 64 then .fault (regionBad g.addr) s
  else match bFind v k with
    | some i => .done s [BitVec.ofNat 64 (bVal v i)]
    | none =>
      match g.lookSpill s v k false with
      | .error e => .stopped e
      | .ok (t, some (x, i)) => .done t [BitVec.ofNat 64 (bVal x.v i)]
      | .ok (t, none) => .done t [0]

/-! ### IXITR (R378) -/

/-- The lowest resident position at or above c that holds an entry. -/
def Rg.firstResident (g : Rg) (s : State) (c : Nat) : Option Nat :=
  (List.range (3 * 2 ^ g.decl.lcap)).find? (fun p => c ≤ p && bVal (g.bucket s (p / 3)) (p % 3) != 0)

/-- The first entry of the spill buckets from j on, at or above spill position c. -/
def Rg.firstSpill (g : Rg) (c : Nat) : Nat → Nat → State → Res (State × Option (Nat × Nat × Nat))
  | 0, _, s => .ok (s, none)
  | n + 1, j, s =>
    match g.spillAt s j false with
    | .error e => .error e
    | .ok (s, x) =>
      match (List.range 3).find? (fun i => c ≤ 3 * j + i && bVal x.v i != 0) with
      | some i => .ok (s, some (3 * j + i, bKey x.v i, bVal x.v i))
      | none => g.firstSpill c n (j + 1) s

/-- IXITR at the MT (R378). -/
def ixitrStep (s : State) (g : Rg) (c : Nat) : RegOut :=
  let n := 3 * 2 ^ g.decl.lcap
  let words (p k v : Nat) : List Dword := [BitVec.ofNat 64 (p + 1), BitVec.ofNat 64 k, BitVec.ofNat 64 v]
  if g.bad s (g.head 0) 0x20 || (List.range (2 ^ g.decl.lcap)).any (fun b => c ≤ 3 * b + 2 && g.bad s (g.bucketAt b) 64)
  then .fault (regionBad g.addr) s
  else match g.firstResident s c with
    | some p => .done s (words p (bKey (g.bucket s (p / 3)) (p % 3)) (bVal (g.bucket s (p / 3)) (p % 3)))
    | none =>
      let m := if g.decl.spillN = 0 then 0 else 2 ^ g.decl.spillQ
      let c' := c - n
      match g.firstSpill c' (m - c' / 3) (c' / 3) s with
      | .error e => .stopped e
      | .ok (t, some (p, k, v)) => .done t (words (n + p) k v)
      | .ok (t, none) => .done t [-1, 0, 0]

/-! ### IXCLR and IXSPL (R379, R380) -/

/-- An index emptied (R379). -/
def Rg.clearIndex (g : Rg) (s : State) : State :=
  let n := g.decl.size - 128
  let s : State := { s with mem := s.mem.spPut g.u (g.bucketAt 0) (List.replicate n 0) }
  let s := g.setField s 0x10 8 0
  let s := g.setField s 0x18 2 0
  g.setField s 8 8 s.newGen

/-- A queue emptied (R379). -/
def Rg.clearQueue (g : Rg) (s : State) : State :=
  let s := g.setField s 8 8 0
  let s := g.setField s 16 4 0
  g.setField s 0x18 16 0

/-- IXCLR at the MT (R379); a queue whose header breaks R363 raises the queue fault (R361). -/
def ixclrStep (s : State) (g : Rg) : RegOut :=
  if g.decl.idx then .done (g.clearIndex s) [] else g.onQueue s (fun _ => .done (g.clearQueue s) [])

/-- The resident entries of an index in ascending position. -/
def Rg.residents (g : Rg) (s : State) : List (Nat × Nat) :=
  (List.range (2 ^ g.decl.lcap)).flatMap (fun b =>
    ((List.range 3).filter (fun i => bVal (g.bucket s b) i != 0)).map (fun i => (b, i)))

/-- Every spill bucket of a list of entries translated before anything changes (R370). -/
def Rg.spillsReach (g : Rg) : State → List (Nat × Nat) → Res State
  | s, [] => .ok s
  | s, (b, i) :: es =>
    match g.spillAt s (g.spillOf (bKey (g.bucket s b) i)) true with
    | .error e => .error e
    | .ok (s, _) => g.spillsReach s es

/-- Entries moved to their spill buckets in turn (R380); `n` were moved before. -/
def Rg.spillAll (g : Rg) : Nat → State → List (Nat × Nat) → RegOut
  | n, s, [] => .done s [BitVec.ofNat 64 n]
  | n, s, (b, i) :: es =>
    let v := g.bucket s b
    match g.spillAt s (g.spillOf (bKey v i)) true with
    | .error e => .stopped e
    | .ok (s, x) =>
      match bFree x.v with
      | none => .fault (indexFull g (bKey v i) 128) s
      | some f =>
        match g.setSpill s x (bPut x.v f (bKey v i) (bVal v i)) with
        | .error e => .stopped e
        | .ok s =>
          let s := g.setBucket s b (bMarkSpilled (bSet v (24 + 16 * i) 8 0))
          g.spillAll (n + 1) (g.bump (g.bump s 0x10 false) 0x14 true) es

/-- IXSPL at the MT (R380). -/
def ixsplStep (s : State) (g : Rg) : RegOut :=
  if g.bad s (g.head 0) g.decl.size then .fault (regionBad g.addr) s
  else match g.residents s with
    | [] => .done s [0]
    | e :: es =>
      if g.decl.spillN = 0 then .fault (indexFull g (bKey (g.bucket s e.1) e.2) 128) s
      else match g.spillsReach s (e :: es) with
        | .error x => .stopped x
        | .ok t => g.spillAll 0 { t with hvReplies := s.hvReplies } (e :: es)

/-! ### Waiting requests (R371) -/

/-- A waiting queue request performed once more. -/
def regionStep (s : State) (x : Waiter) : RegOut :=
  let a := x.data.getD 0 0
  let p := ((s.slotAt x.place).map (fun y => y.prt)).getD 0
  let rg (r : Nat) : Option Rg := ((s.mt x.unit).regions.find? (fun d => d.1 == r)).map (fun d => ⟨p, x.unit, r, d.2, a⟩)
  match x.what, rg x.addr, rg x.width with
  | .dqput lane, some q, _ => dqputStep s q lane (x.data.drop 1)
  | .dqget, some q, _ => dqgetStep s q false
  | .ixupd, some q, some g => ixupdStep s q g (x.op.f.getLsbD 0) false
  | _, _, _ => .wait

/-- A fault of a waiting request taken by its slot (R381); the focus stays where it was. -/
def State.raiseAt (s : State) (c : Coord) (f : Flt) : State :=
  let t := ((s.focus c).withdraw c).raise f
  t.focus s.slot.place

/-- The first waiting queue request that is satisfied, performed, in arrival order (R371). -/
def serveRegion (s : State) (done : List Waiter) : List Waiter → Option State
  | [] => none
  | x :: xs =>
    match (if x.done = none && x.refused = none then regionStep s x else .wait) with
    | .done t vs => some { t with mem := { t.mem with waits := done ++ ({ x with done := some (if x.op.d = .absent then [] else vs) } :: xs) } }
    | .fault f t => some (t.raiseAt x.place f)
    | .wait => serveRegion s (done ++ [x]) xs
    | .held => serveRegion s (done ++ [x]) xs

/-- Waiting queue requests served as long as any is satisfied (R371). -/
def State.serveRegions (s : State) : Nat → State
  | 0 => s
  | n + 1 =>
    match serveRegion s [] s.mem.waits with
    | none => s
    | some t => t.serveRegions n

end Sys2Proof.Machine
end

