-- ==== Sys2Proof/Machine/Queues.lean ====
section
/-! DEFINITION. The instructions on delta queues and hash indices (R372 to R382). -/

namespace Sys2Proof.Machine

open Sys2Proof

/-- Whether the register groups of an instruction are held by a control slot (R372): sources from A, destinations from D. -/
def Slot.groupsHeld (x : Slot) (o : Ops) (na nd : Nat) : Bool :=
  (match o.a with
   | .reg c => x.groupHeld o true c na
   | _ => true) &&
  (match o.d with
   | .reg c => x.groupHeld o false c nd
   | _ => true)

/-- An instruction issued once its register groups are at hand (R36, R265). -/
def groupRun (na nd : Nat) (f : State → Res State) (o : Ops) (s : State) : Res State :=
  if s.slot.groupsHeld o na nd then f s
  else match s.slot.reads o .z with
    | .error e => .error (e, s)
    | .ok _ => .error (.wait, s)

/-- The values of a performed operation brought to the destination, and the instruction retired. -/
def State.brought (s : State) (o : Ops) (vs : List Dword) : State :=
  let x := match o.d with
    | .reg c => s.slot.setGroup o c vs
    | .alt _ => s.slot.writeD o (vs.headD 0)
    | _ => s.slot
  { s with slot := (x.retire o).owe 4 1 }

/-- What an operation at a region leaves: its values brought and the waiters served, its request held, or its fault; none where it is
not ready. -/
def regionEnd (o : Ops) (wait : State) : RegOut → Acc (Option State)
  | .wait => .ok (some wait)
  | .held => .ok none
  | .fault f t => .error (f, t)
  | .done t vs => .ok (some ((t.brought o vs).serveRegions t.mem.waits.length))

/-- An instruction that reaches a region: one that is not ready issues again (R40, R420). -/
def State.reaching (s : State) (o : Ops) (f : Got → State → Acc (Option State)) : Res State :=
  match s.operands o with
  | .error e => .error e
  | .ok (g, t) =>
    match f g t with
    | .error (flt, t') => .error (faultAt s t' flt)
    | .ok none => .error (.wait, s)
    | .ok (some t') => .ok t'

/-- An operation on the region that operand A names. -/
def State.onRegion (s : State) (o : Ops) (idx : Bool) (f : Got → State → Rg → RegOut) : Res State :=
  s.reaching o (fun g t =>
    match t.regionOf g.a.val idx with
    | .error e => .error e
    | .ok r => regionEnd o t (f g t r))

/-- The group of four source registers from A (R372). -/
def Slot.recordOf (x : Slot) (o : Ops) : List Dword :=
  match o.a with
  | .reg c => x.srcGroup o c 4
  | _ => []

/-- DQPUT at issue (R373). -/
def dqputOp (o : Ops) (s : State) : Res State :=
  s.reaching o (fun g t =>
    let ws := s.slot.recordOf o
    let lane := o.f.toNat % 4
    match t.regionOf g.b.val false with
    | .error e => .error e
    | .ok r => regionEnd o (s.await t o (.dqput lane) r.u r.r 0 g.b.val (g.b.val :: ws)) (dqputStep t r lane ws))

/-- DQPUT (R373). -/
def execDqput (o : Ops) (s : State) : Host.Outcome State Fault Refusal := s.run (groupRun 4 0 (dqputOp o) o)

/-- DQGET at issue (R374). -/
def dqgetOp (o : Ops) (s : State) : Res State :=
  s.reaching o (fun g t =>
    match t.regionOf g.a.val false with
    | .error e => .error e
    | .ok r => regionEnd o (s.await t o .dqget r.u r.r 0 g.a.val [g.a.val]) (dqgetStep t r (o.f.getLsbD 0)))

/-- DQGET (R374). -/
def execDqget (o : Ops) (s : State) : Host.Outcome State Fault Refusal := s.run (groupRun 1 4 (dqgetOp o) o)

/-- DQCON (R375). -/
def execDqcon (o : Ops) (s : State) : Host.Outcome State Fault Refusal :=
  s.run (fun s => s.onRegion o false (fun _ t r => dqconStep t r))

/-- DQFRN (R375). -/
def execDqfrn (o : Ops) (s : State) : Host.Outcome State Fault Refusal :=
  s.run (fun s => s.onRegion o false (fun g t r => dqfrnStep t r (o.f.toNat % 4) (g.b.val.toNat % 2 ^ 32)))

/-- DQQSC (R375). -/
def execDqqsc (o : Ops) (s : State) : Host.Outcome State Fault Refusal :=
  s.run (fun s => s.onRegion o false (fun g t r => dqqscStep t r (g.b.val.toNat % 2 ^ 32)))

/-- IXGET (R377). -/
def execIxget (o : Ops) (s : State) : Host.Outcome State Fault Refusal :=
  s.run (fun s => s.onRegion o true (fun g t r => ixgetStep t r g.b.val.toNat))

/-- IXUPD at issue (R376). -/
def ixupdOp (o : Ops) (s : State) : Res State :=
  s.reaching o (fun g t =>
    match t.regionRange g.a.val, t.regionRange g.b.val with
    | .error e, _ => .error e
    | _, .error e => .error e
    | .ok _, .ok _ =>
    match t.regionOf g.a.val false with
    | .error e => .error e
    | .ok q =>
      match t.regionOf g.b.val true with
      | .error e => .error e
      | .ok x =>
        if q.u ≠ x.u then .error (queueFlt g.b.val x.r, t)
        else regionEnd o (s.await t o .ixupd q.u q.r x.r g.a.val [g.a.val])
          (ixupdStep t q x (o.f.getLsbD 0) (o.f.getLsbD 1)))

/-- IXUPD (R376). -/
def execIxupd (o : Ops) (s : State) : Host.Outcome State Fault Refusal := s.run (groupRun 1 4 (ixupdOp o) o)

/-- IXITR (R378). -/
def execIxitr (o : Ops) (s : State) : Host.Outcome State Fault Refusal :=
  s.run (groupRun 1 3 (fun s => s.onRegion o true (fun g t r => ixitrStep t r g.b.val.toNat)) o)

/-- Either kind of region that operand A names. -/
def State.anyRegion (s : State) (a : Dword) : Acc Rg :=
  match s.regionOf a false with
  | .ok r => .ok r
  | .error _ => s.regionOf a true

/-- IXCLR (R379). -/
def execIxclr (o : Ops) (s : State) : Host.Outcome State Fault Refusal :=
  s.run (fun s => s.reaching o (fun g t =>
    match t.anyRegion g.a.val with
    | .error e => .error e
    | .ok r => regionEnd o t (ixclrStep t r)))

/-- IXSPL at issue (R380): entries already moved stay moved when the index is full. -/
def ixsplOp (o : Ops) (s : State) : Res State :=
  match s.operands o with
  | .error e => .error e
  | .ok (g, t) =>
    match t.regionOf g.a.val true with
    | .error (f, _) => .error (.flt f, s)
    | .ok r =>
      match regionEnd o t (ixsplStep t r) with
      | .ok (some t) => .ok t
      | .ok none => .error (.wait, s)
      | .error (f, t) => .error (.flt f, { t with slot := s.slot })

/-- IXSPL (R380). -/
def execIxspl (o : Ops) (s : State) : Host.Outcome State Fault Refusal := s.run (ixsplOp o)

end Sys2Proof.Machine
end

