-- ==== Sys2Proof/Machine/System.lean ====
section
/-! DEFINITION. The special registers (R156, R157, R195), the timer and the energy counter (R194 to R197). -/

namespace Sys2Proof.Machine

open Sys2Proof

/-- The value ENRD returns for a context (R197, R407). -/
def Ctx.energy (c : Ctx) : Dword := BitVec.ofNat 64 (c.nj + b2n c.sat * 2 ^ 63)

/-- The package number of the row of placed coordinates: 16 rows a die. -/
def rowOf (c : Coord) : Nat := 16 * c.die.toNat + c.tile.toNat / 24

/-- The partitions resident in a row (R403), once for each task they place there. -/
def State.rowParts (s : State) (row : Nat) : List Part :=
  (s.slots.filter (fun x => rowOf x.place == row)).map (fun x => s.part x.prt)

/-- The vector steps a row runs at (R403): the lowest grant of the partitions resident in it, 4 when there is none. -/
def State.rowVc (s : State) (row : Nat) : Nat :=
  match (s.rowParts row).map (fun q => q.grant.vc) with
  | [] => 4
  | g :: gs => gs.foldl min g

/-- The divider of a row (R403): the largest that the formes resident in it request, 1 when none does. -/
def State.rowDiv (s : State) (row : Nat) : Nat := ((s.rowParts row).map (fun q => tget 1 q.divs row)).foldl max 1

/-- %ratio (R156): the divider and vector steps of the slot's row, and the grants in effect of its partition. -/
def State.ratio (s : State) : Nat :=
  let g := (s.part s.slot.prt).grant
  s.rowDiv (rowOf s.slot.place) * 2 ^ 24 + ({ g with vc := s.rowVc (rowOf s.slot.place) } : Steps).word

/-- The value of a special register (R156). -/
def State.special (s : State) (n : Nat) : Dword :=
  let x := s.slot
  let q := s.part x.prt
  match n with
  | 0 => BitVec.ofNat 64 q.ctx
  | 1 => BitVec.ofNat 64 (coordNum x.id)
  | 2 => BitVec.ofNat 64 (coordNum x.place)
  | 3 => x.pc.setWidth 64
  | 4 => x.wbase.setWidth 64
  | 5 => x.rmode.setWidth 64
  | 6 => x.fsticky.setWidth 64
  | 7 => x.amax.setWidth 64
  | 8 => x.rng
  | 9 => (s.ctx q.ctx).seed
  | 10 => BitVec.ofNat 64 s.ratio
  | 11 => (s.ctx q.ctx).energy
  | 12 => BitVec.ofNat 64 x.nest
  | 13 => (x.loops.head?.map (fun l => l.rem.setWidth 64)).getD 0
  | 14 => q.tag.setWidth 64
  | _ => x.fires

/-- SYSRD (R195). -/
def execSysrd (o : Ops) (s : State) : Host.Outcome State Fault Refusal :=
  s.runSlot 0 (Slot.plain o (fun _ y => .ok ((y.writeD o (s.special o.imm10.toNat)).retire o)))

/-- A special register of the slot written (R138 to R141, R195). -/
def Slot.setSpecial (x : Slot) (n : Nat) (v : Dword) : Slot :=
  match n with
  | 4 => { x with wbase := v.setWidth 6 }
  | 5 => if v.setWidth 3 = 0 || v.setWidth 3 = 7 then x else { x with rmode := v.setWidth 3 }
  | 6 => { x with fsticky := v.setWidth 4 }
  | 7 => { x with amax := v.setWidth 33 &&& 0x17FFFFFFF }
  | 8 => { x with rng := if v = 0 then 1 else v }
  | _ => x

/-- SYSWR to %seed (R142): noted with the task that wrote it, to take effect at the next forme start. -/
def State.setSeed (s : State) (v : Dword) : State :=
  let c := (s.part s.slot.prt).ctx
  s.setCtx c { s.ctx c with seedNew := (s.ctx c).seedNew ++ [(((s.part s.slot.prt).queueTag, s.slot.id), v)] }

/-- SYSWR (R195). -/
def execSyswr (o : Ops) (s : State) : Host.Outcome State Fault Refusal :=
  s.run (fun s =>
    match s.operands o with
    | .error e => .error e
    | .ok (g, t) =>
      if o.imm10 = 9 then .ok ((t.setSeed g.a.val).done o none 0 1)
      else .ok ({ t with slot := t.slot.setSpecial o.imm10.toNat g.a.val }.done o none 0 1))

/-- TIME (R196): the global timer as sampled at issue; every compute unit reads one value, so the skew that R32 allows is 0
(log entry 2). -/
def execTime (o : Ops) (s : State) : Host.Outcome State Fault Refusal :=
  s.runSlot 0 (Slot.plain o (fun _ y => .ok ((y.writeD o s.timer).retire o)))

/-- ENRD (R197). -/
def execEnrd (o : Ops) (s : State) : Host.Outcome State Fault Refusal :=
  s.runSlot 0 (Slot.plain o (fun _ y =>
    .ok ((y.writeD o (s.ctx (s.part s.slot.prt).ctx).energy).retire o)))

end Sys2Proof.Machine
end

