-- ==== Sys2Proof/Machine/Sections.lean ====
section
/-! DEFINITION. Sections and their nodes (R55, R348, R349, R393): arming, and the elements that a stream port
sends through its window (R101, R259; log entry 10). -/

namespace Sys2Proof.Machine

open Sys2Proof

/-! ### Windows (R101, R259) -/

/-- The stride of dimension k of a window. -/
def Window.stride (w : Window) (k : Nat) : Int := if h : k < 3 then w.str[k] else 0

/-- The byte offset of element i of a window, dimension 0 innermost (log entry 10). -/
def Window.offset (w : Window) (i : Nat) : Int :=
  (i % w.ext1 0 : Nat) * w.stride 0 + (i / w.ext1 0 % w.ext1 1 : Nat) * w.stride 1 + (i / (w.ext1 0 * w.ext1 1) : Nat) * w.stride 2

/-- The reachable range of a window, from its first byte to its last (R259). -/
def Window.range (w : Window) : Int × Int :=
  let d (k : Nat) : Int := ((w.ext1 k - 1 : Nat) : Int) * w.stride k
  let base : Int := w.base.toNat
  (base + min 0 (d 0) + min 0 (d 1) + min 0 (d 2), base + max 0 (d 0) + max 0 (d 1) + max 0 (d 2) + 7)

/-- A window marked at a forme start (R259): direct, with its physical base, when its range lies in the heap of its context. -/
def Window.mark (w : Window) (c : Ctx) : Window :=
  let r := w.range
  let lo : Int := (c.hbase * 2 ^ 16 : Nat)
  let hi : Int := ((c.hbase + c.hlim) * 2 ^ 16 : Nat)
  if c.hlim ≠ 0 && lo ≤ r.1 && r.2 < hi then { w with direct := some ((w.base.toNat + c.hoff.toNat) % 2 ^ 64) }
  else { w with direct := none }

/-- The translation of an element of a window (R258): through the latched base of a direct one, else through the tables. -/
def windowTr (s : State) (u ctx : Nat) (w : Window) (i : Nat) : Except Flt (State × Tr) :=
  let va := ((w.base.toNat : Int) + w.offset i) % 2 ^ 64
  match w.direct with
  | none => translateTables s u ctx va.toNat
  | some b =>
    let pa := (((b : Int) + w.offset i) % 2 ^ 64).toNat
    if 2 ^ 39 ≤ pa then .error { code := 0x29, addr := BitVec.ofNat 64 va.toNat }
    else .ok (s, ⟨pa, .mu, (s.ctx ctx).hperm.getLsbD 0, (s.ctx ctx).hperm.getLsbD 1, 0⟩)

/-- Element i of a window read at its home in this package: 8 bytes. -/
def windowHome (s : State) (u ctx : Nat) (w : Window) (i : Nat) (va : Dword) : Except EErr (State × Dword) :=
  match windowTr s u ctx w i with
  | .error f => .error (.flt f)
  | .ok (s, t) =>
    if !t.r then .error (.flt { code := 0x23, addr := va, info := t.pte })
    else if t.kind = .wo && !s.mem.isPresent (t.pa / 8) then .error .absent
    else
      let s := s.crossRead u ctx t 8
      let s : State := { s with mem := s.mem.homeLook ctx (t.pa / 128) }
      if s.mem.homeBad t.pa then .error (.flt { code := 0x25, addr := va })
      else .ok (s, BitVec.ofNat 64 (bytesToNat (s.mem.homeBytes t.pa 8)))

/-- Element i of a window read as an engine reads (R202, R210): 8 bytes, at its home here or through a Holvor window (R420). -/
def windowRead (s : State) (u ctx : Nat) (w : Window) (i : Nat) : Except EErr (State × Dword) :=
  let va : Dword := BitVec.ofInt 64 ((w.base.toNat : Int) + w.offset i)
  if va.toNat % 8 ≠ 0 then .error (.flt { code := 0x20, addr := va })
  else match hvTarget (s.ctx ctx) va.toNat with
    | some _ => (s.hvTake ctx va.toNat false).map (fun r => (r.1, BitVec.ofNat 64 (bytesToNat r.2)))
    | none => windowHome s u ctx w i va

/-! ### Arming (R54, R55) -/

/-- A section of a forme. -/
def Part.sect (q : Part) (n : Nat) : Sect := if h : n < 4 then q.sects[n] else {}
/-- A section replaced. -/
def Part.setSect (q : Part) (n : Nat) (x : Sect) : Part := { q with sects := if h : n < 4 then q.sects.set n x h else q.sects }

/-- Tiles given to the nodes of a section (R55, R348); an island without its channels takes the fault of R349. -/
def State.giveTiles (s : State) (p sect c : Nat) : State :=
  let s := (s.sectPorts p sect).foldl (fun s uk =>
    let x := s.port uk.1 uk.2
    s.setPort uk.1 uk.2 { x with todo := x.todo + c * x.window.count }) s
  (s.sectIslands p sect).foldl (fun s n =>
    let x := s.isl n
    if !x.bound then s
    else if x.feed.bound && x.drawLnk then s.setIsl n { x with todo := x.todo + c }
    else s.islFault n 0) s

/-- Whether a section holds a node. -/
def State.sectHeld (s : State) (p sect : Nat) : Bool := !(s.sectPorts p sect).isEmpty || !(s.sectIslands p sect).isEmpty

/-- A section armed with a tile count (R54, R55). -/
def State.arm (s : State) (p sect c : Nat) : State :=
  let q := s.part p
  (s.setPart p (q.setSect sect { q.sect sect with armed := true, rem := c })).giveTiles p sect c

/-- GSARM's effect and status (R393). -/
def State.gsarm (s : State) (p sect c : Nat) : State × Dword :=
  let x := (s.part p).sect sect
  if 3 < sect || c = 0 || !s.sectHeld p sect then (s, 2)
  else if x.expired || (!x.armed && x.drn) then (s, 2)
  else if !x.armed then (s.arm p sect c, 0)
  else
    let held := s.tilesLeft p sect
    let n := min (held + c) (2 ^ 32 - 1)
    ((s.setPart p ((s.part p).setSect sect { x with rem := n })).giveTiles p sect (n - held), 1)

/-- SECTION_COUNT_EXPIRY (R55): the count of an armed section expires once its source nodes have processed their tiles; a
section without a source node waits for every node, and one without any node has then sent all the DRN it has to send. -/
def execSectionCountExpiry (p sect : Nat) (s : State) : Host.Outcome State Fault Refusal :=
  let q := s.part p
  let x := q.sect sect
  let ports := s.sectPorts p sect
  let isls := s.sectIslands p sect
  let srcs := isls.filter (fun n => (s.isl n).isSource)
  let ended := ports.all (fun uk => (s.port uk.1 uk.2).todo == 0) &&
    (if ports.isEmpty && srcs.isEmpty then isls else srcs).all (fun n => (s.isl n).todo == 0)
  .next (if q.phase = .run && x.armed && !x.expired && ended then s.setPart p (q.setSect sect { x with expired := true, drn := x.drn || !s.sectHeld p sect })
    else s)

end Sys2Proof.Machine
end

