-- ==== Sys2Proof/Machine/Launch.lean ====
section
/-! DEFINITION. The launch and clock instructions (R391 to R396, R401, R402). -/

namespace Sys2Proof.Machine

open Sys2Proof

/-! ### LAUNCH (R392) -/

/-- The virtual address of slot i of a queue's ring (R383). -/
def Lq.slotVa (q : Lq) (i : Word) : Nat := q.base + 16 * (i.toNat % 2 ^ q.log2)

/-- Whether a queue's ring is full (R384). -/
def Lq.full (q : Lq) : Bool := 2 ^ q.log2 ≤ (q.prod - q.head).toNat

/-- Whether the operands of LAUNCH are legal (R392). -/
def launchLegal (q : Nat) (en : Bool) (w c : Nat) : Bool :=
  q ≤ 7 && en && bits w 63 52 == 0 && bits w 5 4 == 0 && bits w 51 6 != 0 && bits c 63 52 == 0 && bits c 2 0 == 0

/-- The fence of package scope that LAUNCH acts as first (R211, R392). -/
def State.fencePackage (s : State) : State :=
  { s with mem := s.mem.l1DropAll s.slotUnit (fun l => l.ctx == s.slotCtx) s.slotCtx }

/-- A single write of a granule at an address (R203): the memory, or a write-twice fault. -/
def singleWrite (m : Mem) (va g v : Nat) : Except Flt Mem :=
  if m.isPresent g then .error { code := 0x24, addr := BitVec.ofNat 64 va } else .ok (m.woPut g v)

/-- The slot of a queue written (R392): the fault of the ring's page takes no index; then an index is taken, and the two granules
are written one after the other, so a write-twice fault leaves what came before it (R10, log entry 19). A ring in a Holvor window
is written in the other package, and LAUNCH waits for its answers (R420). -/
def launchAt (s : State) (f n : Nat) (w c : Dword) : Res (State × Dword) :=
  let q := s.lq f n
  let ctx := (s.part q.prt).ctx
  let va := q.slotVa q.prod
  let taken (s : State) : State := s.setLq f n { q with prod := q.prod + 1 }
  match hvTarget (s.ctx ctx) va with
  | some _ =>
    match hvTakes ctx true s [(va, 8), (va + 8, 8)] with
    | .error .absent => .error (.wait, s)
    | .error (.flt e) => .error (.flt e, taken s)
    | .ok (s, _) => .ok (taken s, q.prod.setWidth 64)
  | none =>
    match translate s s.slotUnit ctx va with
    | .error e => .error (.flt e, s)
    | .ok (s, t) =>
      match permitPage t va .wo false true with
      | .error e => .error (.flt e, s)
      | .ok _ =>
        let s := taken s
        match singleWrite s.mem va (t.pa / 8) w.toNat with
        | .error e => .error (.flt e, s)
        | .ok m =>
          let s : State := { s with mem := m }
          match singleWrite s.mem (va + 8) (t.pa / 8 + 1) c.toNat with
          | .error e => .error (.flt e, s)
          | .ok m => .ok ({ s with mem := m }, q.prod.setWidth 64)

/-- LAUNCH at issue (R392). -/
def launchOp (o : Ops) (s : State) : Res State :=
  match s.operands o with
  | .error e => .error e
  | .ok (g, t) =>
    if t.mem.waits.any (fun w => w.place == t.slot.place) then .error (.wait, s)
    else
      let t := t.fencePackage
      let f := (t.part t.slot.prt).fn
      let n := g.a.val.toNat
      let q := t.lq f n
      if !launchLegal n q.en g.b.val.toNat g.c.val.toNat then .ok (t.done o (some (-2)) 0 1)
      else if q.full then .ok (t.done o (some (-1)) 0 1)
      else match launchAt t f n g.b.val g.c.val with
        | .error (.wait, _) => .error (.wait, s)
        | .error (.flt e, t) => .error (.flt e, { t with slot := s.slot })
        | .ok (t, i) => .ok (t.done o (some i) 0 1)

/-- LAUNCH (R392). -/
def execLaunch (o : Ops) (s : State) : Host.Outcome State Fault Refusal := s.run (launchOp o)

/-! ### GSARM, RQRAT, RDRAT, EVTAKE, DRQ, QPRI (R393 to R396, R401, R402) -/

/-- An instruction of the slot in focus that answers with a value and may change the state. -/
def State.answer (s : State) (o : Ops) (f : Got → State → State × Dword) : Res State :=
  match s.operands o with
  | .error e => .error e
  | .ok (g, t) =>
    let r := f g t
    .ok (r.1.done o (some r.2) 0 1)

/-- GSARM at issue (R393). An arming that stops the context leaves no slot to write to. -/
def gsarmOp (o : Ops) (s : State) : Res State :=
  match s.operands o with
  | .error e => .error e
  | .ok (g, t) =>
    let r := s.gsarm s.slot.prt g.a.val.toNat (g.b.val.toNat % 2 ^ 32)
    if r.1.slot.st = .noTask then .ok r.1
    else .ok ({ r.1 with slot := t.slot }.done o (some r.2) 0 1)

/-- GSARM (R393). -/
def execGsarm (o : Ops) (s : State) : Host.Outcome State Fault Refusal := s.run (gsarmOp o)

/-- Whether a request field is legal (R396). -/
def reqField (n : Nat) : Bool := n == 0 || (4 ≤ n && n ≤ 24)

/-- Steps replaced where a new field is not zero (R396). -/
def Steps.merge (a b : Steps) : Steps :=
  ⟨if b.mx = 0 then a.mx else b.mx, if b.vc = 0 then a.vc else b.vc, if b.mm = 0 then a.mm else b.mm⟩

/-- A request in the layout of %ratio (R396). -/
def Steps.ofWord (v : Nat) : Steps := ⟨bits v 20 16, bits v 12 8, bits v 4 0⟩

/-- RQRAT's effect (R396). -/
def State.rqrat (s : State) (v : Nat) : State × Dword :=
  let r := Steps.ofWord v
  if v ≠ r.word || !reqField r.mx || !reqField r.vc || !reqField r.mm then (s, 1)
  else
    let q := s.part s.slot.prt
    (s.setPart s.slot.prt { q with req := q.req.merge r }, 0)

/-- RQRAT (R396). -/
def execRqrat (o : Ops) (s : State) : Host.Outcome State Fault Refusal :=
  s.run (fun s => s.answer o (fun g t => t.rqrat g.a.val.toNat))

/-- The value of RDRAT (R401). -/
def State.rdrat (s : State) : Dword :=
  let q := s.part s.slot.prt
  let slow := decide (s.rowVc (rowOf s.slot.place) < q.grant.vc)
  BitVec.ofNat 64 (q.grant.word + b2n slow * 2 ^ 29 + b2n s.sys.breach * 2 ^ 30 + b2n s.sys.unreach * 2 ^ 31 + q.grseq.toNat * 2 ^ 32)

/-- RDRAT (R401). -/
def execRdrat (o : Ops) (s : State) : Host.Outcome State Fault Refusal :=
  s.runSlot 0 (Slot.plain o (fun _ y => .ok ((y.writeD o s.rdrat).retire o)))

/-- An event word as the taking slot reads it (R402). -/
def State.eventWord (s : State) (w : Dword) : Dword :=
  BitVec.ofNat 64 (w.toNat - bits w.toNat 26 24 * 2 ^ 24 + s.rowDiv (rowOf s.slot.place) * 2 ^ 24)

/-- EVTAKE at issue (R402). -/
def evtakeOp (o : Ops) (s : State) : Res State :=
  match s.operands o with
  | .error e => .error e
  | .ok (_, t) =>
    let q := t.part t.slot.prt
    match q.evq with
    | [] => if o.f.getLsbD 0 then .ok (t.done o (some 0) 0 1) else .error (.wait, s)
    | w :: ws => .ok ((t.setPart t.slot.prt { q with evq := ws }).done o (some (t.eventWord w)) 0 1)

/-- EVTAKE (R402). -/
def execEvtake (o : Ops) (s : State) : Host.Outcome State Fault Refusal := s.run (evtakeOp o)

/-- The pre-emption of the imposition that a partition holds requested (R59, R60); a pending request stands. -/
def State.requestPreempt (s : State) (p : Nat) : State :=
  let q := s.part p
  if q.preempt then s else s.setPart p { q with preempt := true, preAt := s.timer }

/-- A queue counted as granted now (R388, R395). -/
def State.markGranted (s : State) (f n : Nat) : State :=
  let k := s.sys.grants + 1
  { s.setLq f n { s.lq f n with recent := k } with sys := { s.sys with grants := k } }

/-- DRQ's effect (R395). -/
def State.drq (s : State) (p : Nat) : State :=
  if (s.part p).preempt then s
  else
    let s := s.requestPreempt p
    match (s.part p).launch with
    | some l => s.markGranted l.fn l.q
    | none => s

/-- DRQ (R395). -/
def execDrq (o : Ops) (s : State) : Host.Outcome State Fault Refusal :=
  s.run (fun s => s.answer o (fun _ t => (t.drq t.slot.prt, 0)))

/-- QPRI's effect (R394). -/
def State.qpri (s : State) (a b : Dword) : State × Dword :=
  let f := (s.part s.slot.prt).fn
  let n := a.toNat
  let q := s.lq f n
  if 7 < n || !q.en || 7 < b.toNat then (s, -1)
  else (s.setLq f n { q with prio := b.toNat }, BitVec.ofNat 64 q.prio)

/-- QPRI (R394). -/
def execQpri (o : Ops) (s : State) : Host.Outcome State Fault Refusal :=
  s.run (fun s => s.answer o (fun g t => t.qpri g.a.val g.b.val))

end Sys2Proof.Machine
end

