-- ==== Sys2Proof/Machine/Engines.lean ====
section
/-! DEFINITION. The completion of engine commands (R210, R248 to R250, R295, R302, R324, R330, R334, R351). -/

namespace Sys2Proof.Machine

open Sys2Proof

/-- A command performed by its engine. -/
def doCmd (s : State) (c : Cmd) : Except EErr State :=
  match c.kind with
  | .cpy dst src n dsp ssp pub full => doCpy s c dst src n dsp ssp pub full
  | .pclr _ _ => .ok (s.complete c 0)
  | .gath nan ty e b cc xs reg => doGath s c nan ty e b cc xs reg
  | .scat add ty e b cc xs reg => doScat s c add ty e b cc xs reg
  | .pgsel _ fb => doPgsel s c fb
  | .kvapp page key value => doKvapp s c page key value
  | .kvld page dst vals f32 => doKvld s c page dst vals f32
  | .sxfeed _ _ n _ => doSxfeed s c n
  | .sxfrm h => doSxfrm s c h
  | .fwarp a => doFwarp s c a
  | .rfmark _ => doRfmark s c
  | .tchuck a => doTchuck s c a
  | .tfeed a row0 cnt sat => doTfeed s c a row0 cnt sat
  | .tdraw a row0 cnt clr => doTdraw s c a row0 cnt clr

/-- IMGC of the engine that performs a command (R430). -/
def cmdImgc (s : State) (c : Cmd) : Nat :=
  match c.kind with
  | .cpy _ _ _ _ _ _ _ => s.mtImgc c.prt c.unit 0
  | .pclr _ _ => s.mtImgc c.prt c.unit 0
  | .gath _ _ _ _ _ _ _ => s.mtImgc c.prt c.unit 3
  | .scat _ _ _ _ _ _ _ => s.mtImgc c.prt c.unit 3
  | .pgsel _ _ => s.mtImgc c.prt c.unit 4
  | .kvapp _ _ _ => s.mtImgc c.prt c.unit 4
  | .kvld _ _ _ _ => s.mtImgc c.prt c.unit 4
  | .sxfeed h _ _ _ => engImgc (handleEng h / 8) (640 + handleEng h % 8) 0
  | .sxfrm h => engImgc (handleEng h / 8) (640 + handleEng h % 8) 0
  | .fwarp _ => s.mtImgc c.prt c.unit 1
  | .rfmark _ => s.mtImgc c.prt c.unit 1
  | .tchuck _ => s.ctImgc c.prt c.unit 2
  | .tfeed _ _ _ _ => s.ctImgc c.prt c.unit 2
  | .tdraw _ _ _ _ => s.ctImgc c.prt c.unit 2

/-- ENGINE_COMMAND_COMPLETE (R210): the command performed, its completion token sent; one that waits for a granule or for an
earlier command leaves the state as it is, one that meets a fault is abandoned with it. -/
def execEngineCommandComplete (id : Nat) (s : State) : Host.Outcome State Fault Refusal :=
  match s.cmds.find? (fun c => c.id == id) with
  | none => .next s
  | some c =>
    if c.done.isSome then .next s
    else match doCmd s c with
    | .ok t => .next t
    | .error .absent => .next s
    | .error (.flt f) => .next (s.failCmd c (cmdImgc s c) f)

end Sys2Proof.Machine
end

