-- ==== Sys2Proof/WellFormed.lean ====
section
/-! DEFINITION. Well-formed instructions: a task instruction whose fields its entry admits (R109 to R116, R118), and a
device step whose unit, context, partition, queue and width numbers lie within the capacities of R25. -/

namespace Sys2Proof

open Sys2Proof.Machine

/-- A task instruction stands for a word group that the loader accepts for some task. -/
def Instr.wfFields (r : Row) (o : Ops) : Bool := r.forms.contains o.form && r.e.fsel o.f && r.e.ok o

/-- The device steps whose first number is a partition (R25, R411): below 256. -/
def partOk (p : Nat) : Bool := p < 256
/-- Compute units of the package (R17). -/
def cuOk (u : Nat) : Bool := u < 768
/-- Islands of the package (R25). -/
def islOk (n : Nat) : Bool := n < 64
/-- Functions of the package (R410). -/
def fnOk (f : Nat) : Bool := f < 514
/-- Stage numbers of R100. -/
def stgOk (s : Nat) : Bool := s < 256
/-- Replica numbers of R49. -/
def repOk (r : Nat) : Bool := r < 4

/-- Edge units that are syntax engines or L2 slices (R98, R418). -/
def edgeOk (e : Nat) : Bool := 832 ≤ e && e < 992

/-- A link end names units that exist (R42, R98). -/
def End.ok : End → Bool
  | .task _ _ => true
  | .island n ch => islOk n && ch < 3
  | .stream u p => cuOk u && p < 8
  | .queue u s => cuOk u && stgOk s
  | .deal u s r => cuOk u && stgOk s && repOk r
  | .coll u s r => cuOk u && stgOk s && repOk r
  | .leave u s => cuOk u && stgOk s
  | .edge e ch => edgeOk e && ch < 64

/-- An engine that exists (R56). -/
def Engine.ok : Engine → Bool
  | .island n => islOk n
  | .stream u p => cuOk u && p < 8
  | .stage u s => cuOk u && stgOk s
  | .edge e => edgeOk e

/-- A well-formed instruction or device step. -/
def Instr.wf (i : Instr) : Bool :=
  match fieldsOf i with
  | some (r, o) => Instr.wfFields r o
  | none =>
    match i with
    | .islandChuck n | .islandMswap n | .islandMfeed n | .islandMfeedTransposed n | .islandMdraw n | .islandMzero n
    | .islandArmedTile n => islOk n
    | .recordRead p | .dependenceGranulesPresent p | .imageFetch p | .startToken p | .preemptRequest p
    | .drainLimitExpiry p | .contextRestore p | .arbiterGrant p | .impositionComplete p | .sliceExpiry p
    | .grantRecompute p | .frbaseWrite p _ | .frtailWrite p _ | .fresumeWrite p _ => partOk p
    | .registerFill _ v => v < 256
    | .linkTokenArrival e | .slotFreeVisible e | .bridgeDrain e => e.ok
    | .elasticSample u s | .elasticDeal u s | .elasticCollect u s => cuOk u && stgOk s
    | .replicaPark u s r => cuOk u && stgOk s && repOk r
    | .sectionCountExpiry p s => partOk p && s < 4
    | .engineDrain e => e.ok
    | .tileDrained p u | .drainReport p u => partOk p && u < 864
    | .l1Eviction (.l1 u) _ _ => cuOk u
    | .pageWalk u c _ => cuOk u && c < 4096
    | .vfReset f => f < 514 && 2 ≤ f
    | .unitError u _ => u < 864
    | .lqresvRead f q w => fnOk f && q < 8 && (w == 4 || w == 8)
    | .hostBar2Write f _ _ | .hostBar2Read f _ _ => fnOk f
    | .registerWrite f _ _ _ => fnOk f
    | .ctxfnWrite c _ => c < 4096
    | .frameParse x | .packetPublish x => x.ctx < 4096
    | .prtunitWrite p j _ => partOk p && j < 14
    | .reductionContribution w _ c _ x => w < 16 && c < 4096 && x.link < 36
    | .holvorLinkState n _ _ | .timeSyncLock n _ _ _ => n < 36
    | .holvorRemoteAccess a => a.link < 36
    | .attestationQuote nonce => nonce.length == 32
    | .thermalTick t _ => t.length == 4
    | _ => true

end Sys2Proof
end

