-- ==== Sys2Proof/Decode.lean ====
section
/-! DEFINITION. The decoder of instruction words (R108 to R116), total on any words and rejecting every word group that
the loader rejects for every task (R118), and the encoder written from the same layouts. -/

namespace Sys2Proof

open Sys2Proof.Machine

/-! ### Operand codes (R110) -/

/-- What a 6-bit operand code names (R110). -/
def decodeOpd (c : BitVec 6) : Opd :=
  let lo5 := c.extractLsb' 0 5
  let lo3 := c.extractLsb' 0 3
  if c.getLsbD 5 = false then .reg lo5
  else match c.extractLsb' 3 2 with
    | 0 => .inp lo3
    | 1 => .alt lo3
    | 2 => .cur lo3
    | _ => match lo3 with
      | 0 => .con .zero
      | 1 => .con .one
      | 2 => .con .mone
      | 3 => .mrk .seg
      | 4 => .mrk .row
      | 5 => .mrk .ten
      | 6 => .mrk .drn
      | _ => .absent

/-- The 6-bit code of an operand (R110). -/
def encodeOpd : Opd → BitVec 6
  | .reg n => 0#1 ++ n
  | .inp n => 4#3 ++ n
  | .alt n => 5#3 ++ n
  | .cur n => 6#3 ++ n
  | .con .zero => 56
  | .con .one => 57
  | .con .mone => 58
  | .mrk .seg => 59
  | .mrk .row => 60
  | .mrk .ten => 61
  | .mrk .drn => 62
  | .absent => 63

/-! ### Fields of the words (R108) -/

/-- The opcode of a first word (R108). -/
def wordOp (w : Word) : BitVec 8 := w.extractLsb' 2 8

/-- The form that LEN selects (R108). -/
def wordForm (w : Word) : Form :=
  match w.extractLsb' 0 2 with
  | 0 => .s
  | 1 => .i
  | 2 => .l
  | _ => .w

/-- The number of 32-bit words of a form (R108). -/
def formLen : Form → Nat
  | .s => 1
  | .i => 1
  | .l => 2
  | .w => 3

/-- The fields of a register-form first word (R108). -/
def fieldsS (fm : Form) (w : Word) : Ops :=
  { form := fm, f := w.extractLsb' 28 4, d := decodeOpd (w.extractLsb' 10 6), a := decodeOpd (w.extractLsb' 16 6),
    b := decodeOpd (w.extractLsb' 22 6) }

/-- The fields of an immediate-form word (R108). -/
def fieldsI (w : Word) : Ops :=
  { form := .i, d := decodeOpd (w.extractLsb' 10 6), a := decodeOpd (w.extractLsb' 16 6), imm10 := w.extractLsb' 22 10 }

/-- The fields of word 1 added to those of word 0 (R108). -/
def addWord1 (o : Ops) (w : Word) : Ops :=
  { o with c := decodeOpd (w.extractLsb' 0 6), t := w.extractLsb' 6 6, rm := w.extractLsb' 12 3, sat := w.getLsbD 15,
           x := w.extractLsb' 16 4, imm12 := w.extractLsb' 20 12 }

/-- The opcode and the fields of the instruction that begins a list of words, and the words after it; none when the
words run out (R108, R117). -/
def splitWords : List Word → Option (BitVec 8 × Ops × List Word)
  | [] => none
  | w :: rest =>
    match wordForm w with
    | .s => some (wordOp w, fieldsS .s w, rest)
    | .i => some (wordOp w, fieldsI w, rest)
    | .l =>
      match rest with
      | w1 :: rest' => some (wordOp w, addWord1 (fieldsS .l w) w1, rest')
      | [] => none
    | .w =>
      match rest with
      | w1 :: lit :: rest' => some (wordOp w, { addWord1 (fieldsS .w w) w1 with lit := lit }, rest')
      | _ => none

/-- The instruction that an opcode and its fields stand for, when some entry admits them (R114 to R116). -/
def lookupInstr (op : BitVec 8) (o : Ops) : Option Instr :=
  ((rowsOf op).find? (fun r => Instr.wfFields r o)).map (fun r => r.ctor o)

/-- The decoder: the instruction that begins a list of words and the words after it (R108, R117). -/
def decodeWords (ws : List Word) : Option (Instr × List Word) :=
  match splitWords ws with
  | none => none
  | some (op, o, rest) => (lookupInstr op o).map (fun i => (i, rest))

/-! ### The encoder -/

/-- A register-form first word (R108). -/
def encodeW0 (op : BitVec 8) (o : Ops) (len : BitVec 2) : Word :=
  o.f ++ encodeOpd o.b ++ encodeOpd o.a ++ encodeOpd o.d ++ op ++ len

/-- An immediate-form word (R108). -/
def encodeI (op : BitVec 8) (o : Ops) : Word :=
  o.imm10 ++ encodeOpd o.a ++ encodeOpd o.d ++ op ++ 1#2

/-- Word 1 of the longer forms (R108). -/
def encodeW1 (o : Ops) : Word :=
  o.imm12 ++ o.x ++ BitVec.ofBool o.sat ++ o.rm ++ o.t ++ encodeOpd o.c

/-- The words of an opcode and its fields (R108). -/
def encodeOps (op : BitVec 8) (o : Ops) : List Word :=
  match o.form with
  | .s => [encodeW0 op o 0]
  | .i => [encodeI op o]
  | .l => [encodeW0 op o 2, encodeW1 o]
  | .w => [encodeW0 op o 3, encodeW1 o, o.lit]

/-- The words of an instruction; a device step has none. -/
def encode (i : Instr) : List Word :=
  match fieldsOf i with
  | some (r, o) => encodeOps r.e.op o
  | none => []

/-- The instruction in the first words of a list of numbered bits (bit 0 the least significant of the first word). -/
def bitsToWords (nbits w : Nat) : List Word :=
  let v := w % 2 ^ nbits
  [BitVec.ofNat 32 v, BitVec.ofNat 32 (v / 2 ^ 32), BitVec.ofNat 32 (v / 2 ^ 64)]

/-- What the decoder reads from an instruction whose bits are `w`, bit 0 the least significant of the first word; every
bit above `nbits` is zero. -/
def decodeTableWord (nbits w : Nat) : Option Instr :=
  (decodeWords (bitsToWords nbits w)).map (fun p => p.1)

end Sys2Proof
end

