-- ==== Sys2Proof/Machine/Issue.lean ====
section
/-! DEFINITION. Fetching the instruction of a slot from the store of its PE (R19, R117), the issue choice of a PE (R40), the
passage of time (R32), and the state in which a given instruction is fetched next. -/

namespace Sys2Proof.Machine

open Sys2Proof

/-- The instruction at the pc of the slot in focus (R117); none outside the words its PE loaded. -/
def State.fetched (s : State) : Option Instr :=
  (decodeWords ((s.pe s.slot.place).words.drop s.slot.pc.toNat)).map (fun p => p.1)

/-- The slots of a PE in the order of the issue choice after slot L (R40). -/
def issueOrder (l : BitVec 2) : List Nat := [(l + 1).toNat, (l + 2).toNat, (l + 3).toNat, l.toNat]

/-- The state in which a slot issues: the slot in focus, and L of its PE set to it (R40). -/
def State.issuing (s : State) (c : Coord) : State :=
  let t := s.focus c
  { t.setPe { t.pe c with last := c.slot } with stall := false }

/-- Whether a slot may issue as far as its own state tells (R40). -/
def Slot.mayIssue (x : Slot) : Bool := x.st == .firing && !x.busy

/-- The passage of time in units of the global timer, which stops at its greatest value and sets PSTAT.TSAT (R32). -/
def State.elapse (s : State) (n : Nat) : State :=
  if 2 ^ 64 - 1 < s.timer.toNat + n then { s with timer := BitVec.ofNat 64 (2 ^ 64 - 1), sys := { s.sys with tsat := true } }
  else { s with timer := s.timer + BitVec.ofNat 64 n }

/-- The control registers that an instruction names, for a register cache that holds them. -/
def namedRegs (o : Ops) : List Nat :=
  let src : Opd → List Nat
    | .reg c => [vSrc o c]
    | _ => []
  let dst : Opd → List Nat
    | .reg c => [vDst o c]
    | _ => []
  (src o.a ++ src o.b ++ src o.c ++ dst o.d).eraseDups

/-- Whether an instruction is available to control tasks only (R116). -/
def needsControl (i : Instr) : Bool :=
  match fieldsOf i with
  | some (r, _) => match r.e.cls with
    | .control => true
    | _ => false
  | none => false

/-- The slot in focus about to issue the instruction at address 0 of its store: in a firing that may consume and produce up to
15 tokens on every port, with tokens at hand and slots reserved. -/
def Slot.atFetch (x : Slot) (i : Option Instr) : Slot :=
  let inp : InPort := { rate := 15, queue := List.replicate 15 {} }
  let out : OutPort := { rate := 15, cap := 15, reserved := 15 }
  { x with st := .firing, pc := 0, busy := false, ctl := i.any needsControl,
           vcache := ((i.bind fieldsOf).map (fun p => (namedRegs p.2).map (fun n => (⟨n, 0, false⟩ : VEntry)))).getD [],
           ins := Vector.replicate 8 inp, outs := Vector.replicate 8 out }

/-- The state in which the next step fetches and runs the instruction of given bits (log entry 7). -/
def State.atFetch (s : State) (nbits w : Nat) : State :=
  let c := s.slot.place
  { s with slot := s.slot.atFetch (decodeTableWord nbits w),
           others := s.others.filter (fun x => peSlot x.place 0 != peSlot c 0),
           pes := s.pes.filter (fun x => x.place != peSlot c 0) ++ [⟨peSlot c 0, bitsToWords nbits w, 3⟩],
           agenda := [.issue c], stall := false }

end Sys2Proof.Machine
end

