-- ==== Sys2Proof/Machine/MemEvents.lean ====
section
/-! DEFINITION. The events of the memory system (R204, R206 to R208, R261 to R263, R277): the completion and the retry of a
waiting request, evictions, page walks, and the invalidation of translations. -/

namespace Sys2Proof.Machine

open Sys2Proof

/-! ### MEMORY_ACCESS_COMPLETE and DEFERRAL_RETRY -/

/-- The energy class of a request that waited (R405). -/
def WaitKind.cls : WaitKind → Nat
  | .ldp => 6
  | .remote _ _ _ => 14
  | _ => 4

/-- The waiting request of a slot. -/
def State.waiterOf (s : State) (c : Coord) : Option Waiter := s.mem.waits.find? (fun x => x.place == c)

/-- MEMORY_ACCESS_COMPLETE (R207): a performed request reaches its slot; one that met an uncorrectable error raises its
fault (R231, R233). A request that still waits stays. -/
def execMemoryAccessComplete (c : Coord) (s : State) : Host.Outcome State Fault Refusal :=
  .next (match s.waiterOf c with
    | none => s
    | some x =>
      match x.done with
      | some vs => if x.err then s.raiseAt c { code := 0x25, addr := x.ea } else s.finishWait x vs x.what.cls
      | none => s)

/-- The context of the slot at a place. -/
def State.placeCtx (s : State) (c : Coord) : Nat := ((s.slotAt c).map (fun x => (s.part x.prt).ctx)).getD 0

/-- A refused request put to its place again (R204, R208). -/
def State.retry (s : State) (c : Coord) (x : Waiter) (b : Nat) : State :=
  let rest := s.mem.waits.filter (fun y => y.place != c)
  let m : Mem := { s.mem with waits := rest }
  let y : Waiter := { x with refused := none }
  if m.hasRoom y then
    let here := x.what = .ldp && m.isPresent (x.addr / 8)
    let m := if here then m.l2Fill (s.placeCtx c) (x.addr / 128) else m
    let y := if here then y.ldpDone m (bytesToNat (m.homeBytes (x.addr / 8 * 8) 8)) else y
    let m : Mem := { m with waits := rest ++ [y] }
    { s with mem := m.serveTags m.waits.length }
  else { s with mem := { m with waits := rest ++ [{ x with refused := some (min 4096 (2 * b)) }] } }

/-- DEFERRAL_RETRY (R204, R208): a refused request is retried after its backoff. -/
def execDeferralRetry (c : Coord) (s : State) : Host.Outcome State Fault Refusal :=
  .next (match s.waiterOf c with
    | none => s
    | some x =>
      match x.refused with
      | some b => s.retry c x b
      | none => s)

/-! ### L1_EVICTION (R206, R209, R277) -/

/-- The partition whose fault ring a context's record goes to, while the context exists. -/
def State.ctxPart (s : State) (c : Nat) : Option Nat :=
  if (s.ctx c).en then (s.parts.find? (fun q => q.2.en && q.2.ctx == c)).map (fun q => q.1) else none

/-- A record of CLASS 1 and SRC 3 charged to a context (R264, R277), or sent to the device log when the context is gone. -/
def State.emitCtx (s : State) (c : Nat) (f : Flt) : State :=
  match s.ctxPart c with
  | some p => s.emit p (s.recOf p 3 0 f 1)
  | none =>
    s.emitDev { code := f.code, cls := 1, sub := 0, ctx := c, iw0 := 0, iw1 := 0, pc := 0, imgc := 0, place := 0, src := 3,
                ridx := 0, tag := 0, addr := f.addr, info := f.info, time := s.timer }

/-- The context of the requester whose fill evicts a line of an L1: that of the partition that holds the unit. -/
def State.unitCtx (s : State) (u : Nat) : Nat := ((s.parts.find? (fun q => q.2.has u)).map (fun q => q.2.ctx)).getD 0

/-- One report of the caches taken: an energy charge, or the record of a poisoned write-back (R277, R405). -/
def State.takeNote (s : State) : MemNote → State
  | .energy c cls n => s.charge c cls n
  | .poisoned line c req => s.emitCtx c { code := 0x12, addr := BitVec.ofNat 64 (128 * line), info := BitVec.ofNat 64 (req % 4096) }

/-- What the caches have to report taken in order; every step ends with it. -/
def State.settleNotes (s : State) : State := s.mem.notes.foldl State.takeNote { s with mem := { s.mem with notes := [] } }

/-- A line of an L1 evicted (R206): its dirty bytes written back; `bad` tells that the eviction finds an uncorrectable error in
it (R277). -/
def State.evictL1 (s : State) (u : Nat) (l : Line) (bad : Bool) : State :=
  let m := if bad then { s.mem with l1 := s.mem.l1.map (fun x => if x.unit == u && x.line == l.line then { x with bad := BitVec.allOnes 32 } else x) }
    else s.mem
  { s with mem := m.l1Drop u l.line (s.unitCtx u) }

/-- A line of the L2 slices evicted (R206, R277); the requester is not told (log entry 2). -/
def State.evictL2 (s : State) (l : Line) (bad : Bool) : State :=
  let r := s.free
  { r.2 with mem := s.mem.l2Evict l.line bad (r.1.toNat % 4096) }

/-- L1_EVICTION (R206, R277). -/
def execL1Eviction (c : CacheId) (line : Nat) (bad : Bool) (s : State) : Host.Outcome State Fault Refusal :=
  .next (match c with
    | .l1 u =>
      match s.mem.l1At u line with
      | some l => s.evictL1 u l bad
      | none => s
    | .l2 =>
      match s.mem.l2At line with
      | some l => s.evictL2 l bad
      | none => s)

/-! ### PAGE_WALK, TLBINV_WRITE, TLB_INVALIDATE_COMPLETE (R261 to R263) -/

/-- PAGE_WALK (R261, R262): a walk for a unit installs its entry; one that stops installs nothing, and its fault is the
access's. -/
def execPageWalk (u ctx : Nat) (va : Dword) (s : State) : Host.Outcome State Fault Refusal :=
  .next (match translate s u ctx va.toNat with
    | .ok (t, _) => t
    | .error _ => s)

/-- A write of TLBINV (R263): an invalidation starts, or is held until the one in progress completes. -/
def State.tlbinv (s : State) (v : Dword) : State :=
  match s.sys.tlbBusy with
  | none => { s with sys := { s.sys with tlbBusy := some v } }
  | some _ => { s with sys := { s.sys with tlbHeld := s.sys.tlbHeld ++ [v] } }

/-- TLBINV_WRITE (R263). -/
def execTlbinvWrite (v : Dword) (s : State) : Host.Outcome State Fault Refusal := .next (s.hosted (s.tlbinv v))

/-- The context and range of an invalidation (R281): the first address and the length, none for the whole context. -/
def invRange (v : Dword) : Nat × Option (Nat × Nat) :=
  let span := bits v.toNat 9 4
  (bits v.toNat 63 52,
   if 37 ≤ span then none
   else
     let n := 2 ^ (16 + span)
     some (bits v.toNat 51 16 * 2 ^ 16 / n * n, n))

/-- Whether an invalidation covers an address of a context. -/
def invHits (v : Dword) (ctx va : Nat) : Bool :=
  (invRange v).1 == ctx && (match (invRange v).2 with
    | none => true
    | some (a, n) => a ≤ va && va < a + n)

/-- Whether an invalidation drops a TLB entry: its page meets the range. -/
def invDrops (v : Dword) (e : Tlbe) : Bool :=
  (invRange v).1 == e.ctx && (match (invRange v).2 with
    | none => true
    | some (a, n) => a < e.base + 2 ^ e.bits && e.base < a + n)

/-- The TLBs without the entries an invalidation drops. -/
def Mem.invalidate (m : Mem) (v : Dword) : Mem :=
  let drop (t : Tbl (List Tlbe)) : Tbl (List Tlbe) :=
    (t.map (fun kt => (kt.1, kt.2.filter (fun e => !invDrops v e)))).filter (fun kt => kt.2 != [])
  { m with dieTlb := drop m.dieTlb, mtTlb := drop m.mtTlb }

/-- Whether a held read that was translated before an invalidation has still to be performed (R263). -/
def State.invPending (s : State) (v : Dword) : Bool :=
  s.mem.waits.any (fun x => x.what == .ldp && x.done == none &&
    (match s.slotAt x.place with
     | some y => invHits v (s.part y.prt).ctx x.ea.toNat
     | none => false))

/-- TLB_INVALIDATE_COMPLETE (R263): the entries are gone, and a held write of TLBINV starts; an invalidation waits for the
accesses translated with old entries. -/
def execTlbInvalidateComplete (s : State) : Host.Outcome State Fault Refusal :=
  .next (match s.sys.tlbBusy with
    | none => s
    | some v =>
      if s.invPending v then s
      else { s with mem := s.mem.invalidate v,
                    sys := { s.sys with tlbBusy := s.sys.tlbHeld.head?, tlbHeld := s.sys.tlbHeld.drop 1 } })

end Sys2Proof.Machine
end

