-- ==== Sys2Proof/Machine/Links.lean ====
section
/-! DEFINITION. Firing (R36 to R38), links (R42, R43, R46, R405) and elastic stages (R49 to R51). -/

namespace Sys2Proof.Machine

open Sys2Proof

/-! ### The two ends of links -/

/-- A stage of a memory tile. -/
def State.stage (s : State) (u stg : Nat) : Stage := tget {} (s.mt u).stages stg
/-- A stage replaced. -/
def State.setStage (s : State) (u stg : Nat) (x : Stage) : State :=
  s.setMt u { s.mt u with stages := tput {} (s.mt u).stages stg x }

/-- The producing end of a link. -/
def State.outAt (s : State) : End → Option OutPort
  | .task c k => (s.slotAt c).map (fun x => x.outs[k.toNat]'k.isLt)
  | .island n _ => some (s.isl n).draw
  | .stream u k => some (s.port u k).out
  | .deal u g r => ((s.stage u g).reps[r]?).map (fun x => x.deal)
  | .leave u g => (s.stage u g).leave
  | .edge e ch => some (tget {} (s.edge e).outs ch)
  | .queue _ _ => none
  | .coll _ _ _ => none

/-- The producing end of a link replaced. -/
def State.setOut (s : State) (e : End) (p : OutPort) : State :=
  match e with
  | .task c k => s.updSlot c (fun x => { x with outs := x.outs.set k.toNat p k.isLt })
  | .island n _ => s.setIsl n { s.isl n with draw := p }
  | .stream u k => s.setPort u k { s.port u k with out := p }
  | .deal u g r =>
    let x := s.stage u g
    s.setStage u g { x with reps := x.reps.modify r (fun y => { y with deal := p }) }
  | .leave u g => s.setStage u g { s.stage u g with leave := some p }
  | .edge e ch => s.setEdge e { s.edge e with outs := tput {} (s.edge e).outs ch p }
  | .queue _ _ => s
  | .coll _ _ _ => s

/-- The consuming end of a link. -/
def State.inAt (s : State) : End → Option InPort
  | .task c k => (s.slotAt c).map (fun x => x.ins[k.toNat]'k.isLt)
  | .island n ch => some (if ch = 0 then (s.isl n).cmd else (s.isl n).feed)
  | .queue u g => some (s.stage u g).queue
  | .coll u g r => ((s.stage u g).reps[r]?).bind (fun x => x.coll)
  | .edge e ch => some (tget {} (s.edge e).ins ch)
  | .stream _ _ => none
  | .deal _ _ _ => none
  | .leave _ _ => none

/-- The consuming end of a link replaced. -/
def State.setIn (s : State) (e : End) (p : InPort) : State :=
  match e with
  | .task c k => s.updSlot c (fun x => { x with ins := x.ins.set k.toNat p k.isLt })
  | .island n ch => s.setIsl n (if ch = 0 then { s.isl n with cmd := p } else { s.isl n with feed := p })
  | .queue u g => s.setStage u g { s.stage u g with queue := p }
  | .coll u g r =>
    let x := s.stage u g
    s.setStage u g { x with reps := x.reps.modify r (fun y => { y with coll := some p }) }
  | .edge e ch => s.setEdge e { s.edge e with ins := tput {} (s.edge e).ins ch p }
  | .stream _ _ => s
  | .deal _ _ _ => s
  | .leave _ _ => s

/-- The die that an end of a link stands on. -/
def endDie : End → Nat
  | .task c _ => c.die.toNat
  | .island n _ => n / 16
  | .stream u _ => dieOf u
  | .queue u _ => dieOf u
  | .deal u _ _ => dieOf u
  | .coll u _ _ => dieOf u
  | .leave u _ => dieOf u
  | .edge e _ => edgeDie e

/-- The partition that an end of a link belongs to. -/
def State.endPart (s : State) : End → Nat
  | .task c _ => ((s.slotAt c).map (fun x => x.prt)).getD 0
  | .island n _ => (s.isl n).prt
  | .stream u _ => ((s.parts.find? (fun q => q.2.has u)).map (fun q => q.1)).getD 0
  | .queue u _ => ((s.parts.find? (fun q => q.2.has u)).map (fun q => q.1)).getD 0
  | .deal u _ _ => ((s.parts.find? (fun q => q.2.has u)).map (fun q => q.1)).getD 0
  | .coll u _ _ => ((s.parts.find? (fun q => q.2.has u)).map (fun q => q.1)).getD 0
  | .leave u _ => ((s.parts.find? (fun q => q.2.has u)).map (fun q => q.1)).getD 0
  | .edge e _ => (s.edge e).prt

/-! ### LINK_TOKEN_ARRIVAL and SLOT_FREE_VISIBLE (R42, R43) -/

/-- Tokens sent by a producing end: they use free slots of the link and travel on it in order (R42). -/
def OutPort.emit (p : OutPort) (ts : List Tok) : OutPort := { p with credit := p.credit - ts.length, flight := p.flight ++ ts }

/-- A stream port with elements still to send and room on its link puts the next element on it (R55, R101); it waits for an
absent granule, and a fault is the port's (R430). A port that no route leads from processes its tiles all the same, its elements
going nowhere (log entry 10). -/
def State.produce (s : State) (u k : Nat) : State :=
  let x := s.port u k
  let p := s.endPart (.stream u k)
  if x.todo = 0 || (x.out.bound && (x.out.credit = 0 || x.out.flight ≠ [])) then s
  else match windowRead s u (s.part p).ctx x.window (x.pos % x.window.count) with
    | .error .absent => s
    | .error (.flt f) => s.raiseEngine p (s.mtImgc p u (16 + k)) f
    | .ok (t, v) =>
      t.setPort u k { x with todo := x.todo - 1, pos := x.pos + 1, out := if x.out.bound then x.out.emit [⟨v, .elem⟩] else x.out }

/-- A token received by a channel. An edge unit takes what arrives at once, and only its DRN tells it anything (log entry 10). -/
def InPort.receive (q : InPort) (dst : End) (t : Tok) : InPort :=
  match dst with
  | .edge _ _ => if t.kind = .mrk .drn then { q with queue := q.queue ++ [t] } else { q with freed := q.freed + 1 }
  | _ => { q with queue := q.queue ++ [t] }

/-- The oldest token on a link delivered to its receiving channel (R42), charged for its hops (R405). -/
def State.deliver (s : State) (src : End) (t : Tok) (ts : List Tok) (p : OutPort) (dst : End) : State :=
  let s := s.setOut src { p with flight := ts }
  match s.inAt dst with
  | none => s
  | some q => (s.setIn dst (q.receive dst t)).charge (s.part (s.endPart src)).ctx 13 p.hops

/-- Whether a link's receiving channel takes its next token: always on a buffered link; on one without slots when it holds none
and, at a task, the next instruction takes it (R40, R42). DRN stands at the head of an empty channel. -/
def State.takes (s : State) (p : OutPort) (t : Tok) (dst : End) : Bool :=
  p.cap != 0 || (match s.inAt dst with
    | none => true
    | some q => q.queue.isEmpty && (t.kind == .mrk .drn || (match dst with
      | .task _ _ => q.want
      | _ => true)))

/-- Whether a producer on a link without slots sees a taker (R40, R42). -/
def State.seesTaker (s : State) (p : OutPort) : Bool :=
  p.flight.isEmpty && (match p.dst with
    | none => true
    | some dst => s.takes p ⟨0, .elem⟩ dst)

/-- LINK_TOKEN_ARRIVAL (R42): the oldest token of a link arrives; a DRN crosses a die bridge by BRIDGE_DRAIN. -/
def execLinkTokenArrival (src : End) (s : State) : Host.Outcome State Fault Refusal :=
  let s := match src with
    | .stream u k => s.produce u k
    | _ => s
  .next (match s.outAt src with
    | none => s
    | some p =>
      match p.flight, p.dst with
      | t :: ts, some dst =>
        if (t.kind = .mrk .drn && p.bridges ≠ []) || !s.takes p t dst then s else s.deliver src t ts p dst
      | _ :: ts, none => s.setOut src { p with flight := ts, credit := p.credit + 1 }
      | [], _ => s)

/-- SLOT_FREE_VISIBLE (R43): one slot freed at the receiving channel becomes visible to the producer; on a link without slots, the
taker or its absence (R42). -/
def execSlotFreeVisible (src : End) (s : State) : Host.Outcome State Fault Refusal :=
  .next (match s.outAt src with
    | none => s
    | some p =>
      match p.dst with
      | none => s
      | some dst =>
        match s.inAt dst with
        | none => s
        | some q =>
          if p.cap = 0 then (s.setIn dst { q with freed := 0 }).setOut src { p with credit := b2n (s.seesTaker p) }
          else if q.freed = 0 then s
          else (s.setIn dst { q with freed := q.freed - 1 }).setOut src { p with credit := p.credit + 1 })

/-! ### TASK_FIRE (R37, R38) -/

/-- The tokens at the head of a channel before any DRN. -/
def leading : List Tok → Nat
  | [] => 0
  | t :: ts => if t.kind = .mrk .drn then 0 else leading ts + 1

/-- Whether a producing end on a link without slots offers a token to a receiving end: its task's next instruction sends one, or one
is under way (R38, R42). -/
def OutPort.offers (p : OutPort) (dst : End) (more : Bool) : Bool :=
  p.bound && p.cap == 0 && p.dst == some dst && (more || leading p.flight != 0)

/-- Whether a token is offered to a receiving end on a link without slots. -/
def State.offered (s : State) (dst : End) : Bool :=
  s.slots.any (fun x => x.outs.toList.any (fun p => p.offers dst p.offer)) ||
  s.islands.any (fun x => x.2.draw.offers dst (!x.2.pend.isEmpty)) ||
  s.mts.any (fun x => x.2.ports.any (fun k => k.2.out.offers dst (k.2.todo != 0)) ||
    x.2.stages.any (fun g => g.2.leave.any (fun p => p.offers dst (g.2.reps.any (fun r => r.coll.any (fun q => leading q.queue != 0))))))

/-- Whether an input port holds its rate of tokens other than DRN (R38); on a link without slots an offered token counts. -/
def State.inReady (s : State) (x : Slot) (k : Fin 8) : Bool :=
  let p := x.ins[k]
  !p.bound || p.rate ≤ leading p.queue || (p.zero && p.rate ≤ 1 && s.offered (.task x.place (BitVec.ofNat 3 k.val)))

/-- Whether an output port on a buffered link has free slots for its rate or bound (R38, R42). -/
def OutPort.ready (p : OutPort) : Bool := !p.bound || p.cap == 0 || p.rate ≤ p.credit

/-- Whether a task has no bound input port (R37). -/
def Slot.inputless (x : Slot) : Bool := x.ins.toList.all (fun p => !p.bound)

/-- The firing test of a task (R37, R38). -/
def State.canFire (s : State) (x : Slot) : Bool :=
  x.st == .idle && (List.finRange 8).all (s.inReady x) && x.outs.toList.all OutPort.ready && (!x.inputless || x.fires == 0)

/-- The slots that a firing reserves on an output port (R38). -/
def OutPort.reserve (p : OutPort) : OutPort :=
  if p.bound && p.cap ≠ 0 then { p with credit := p.credit - p.rate, reserved := p.rate } else p

/-- A firing started (R38): its output slots reserved, its program at its entry. -/
def Slot.fire (x : Slot) : Slot :=
  { x with st := .firing, pc := x.entry, calls := [], loops := [], outs := x.outs.map OutPort.reserve }

/-- TASK_FIRE (R38). -/
def execTaskFire (c : Coord) (s : State) : Host.Outcome State Fault Refusal :=
  .next (match s.slotAt c with
    | none => s
    | some x => if s.canFire x && (s.part x.prt).phase == .run then s.updSlot c Slot.fire else s)

/-! ### REGISTER_FILL (R36) -/

/-- Registers of a group from the register an operand names. -/
def groupRegs (num : BitVec 5 → Nat) (d : Opd) (n : Nat) : List Nat :=
  match d with
  | .reg c => (List.range n).map (fun k => num (regUp c k))
  | _ => []

/-- The registers that an instruction of a control task needs in the cache (R36, R243, R372), in the order of its operands; a hint
needs none, and makes its own fills (R193). -/
def neededRegs (i : Instr) : List Nat :=
  match fieldsOf i with
  | none => []
  | some (_, o) =>
    (match i with
      | .vrhint _ => []
      | _ => namedRegs o) ++ (match i with
      | .dqput _ => groupRegs (vSrc o) o.a 4
      | .dqget _ => groupRegs (vDst o) o.d 4
      | .ixupd _ => groupRegs (vDst o) o.d 4
      | .ixitr _ => groupRegs (vDst o) o.d 3
      | .dcas _ => groupRegs (vSrc o) o.c 4 ++ groupRegs (vDst o) o.d 2
      | .amov2 _ => groupRegs (vSrc o) o.c 2 ++ groupRegs (vDst o) o.d 2
      | _ => [])

/-- What writing its destination finds for an instruction, as its meaning tests it: STEER and RACC write it on some values only, and
MERGE takes its data tokens itself. -/
def Slot.issueWr (x : Slot) (i : Instr) (r : Row) (o : Ops) : Wr :=
  match i with
  | .steer _ => .room
  | .steerLong _ => .room
  | .racc _ => .room
  | .raccLong _ => .room
  | .merge _ => x.mergeWr o
  | _ => if r.e.d = .portOr then x.cmdCheck o.d else x.dstCheck o.d

/-- Whether a register is in the cache of a slot. -/
def Slot.cached (x : Slot) (n : Nat) : Bool := x.vcache.any (fun e => e.reg == n)

/-- A slot as its instruction would find it with the registers it needs in the cache: for the checks that come before their fills. -/
def Slot.assumed (x : Slot) (i : Instr) : Slot :=
  { x with vcache := x.vcache ++ ((neededRegs i).filter (fun n => !x.cached n)).map (fun n => ⟨n, 0, false⟩) }

/-- Whether a result on a slot is a fault. -/
def isFlt (r : Except Stop Slot) : Bool :=
  match r with
  | .error (.flt _) => true
  | _ => false

/-- Whether a stream instruction meets a rate violation or a marker skew of its own, which no register value decides (R182 to R190,
R265), or, with the operand that R183 and R187 read their own way, has to wait. -/
def Slot.selfStops (x : Slot) (i : Instr) : Bool :=
  let y := x.assumed i
  match i with
  | .peek o => !(y.peek o).isOk
  | .mkt o => !(y.mkt o).isOk
  | .steer o => isFlt (y.steer o)
  | .steerLong o => isFlt (y.steer o)
  | .racc o => isFlt (y.racc o)
  | .raccLong o => isFlt (y.racc o)
  | _ => false

/-- Whether the operands of an instruction have come and pass the rate and marker checks of their class. -/
def Slot.operandsPass (x : Slot) (i : Instr) : Bool :=
  match fieldsOf i with
  | none => false
  | some (r, o) =>
    match i with
    | .peek _ => true
    | .mkt _ => true
    | .merge _ => (x.readsWith (mergeOps o) r.e.mkc (x.issueWr i r o)).isOk
    | _ => (x.readsWith o r.e.mkc (x.issueWr i r o)).isOk

/-- Whether an instruction of a slot passes the rate and marker checks, which come before its register fills (R265). -/
def Slot.passes (x : Slot) (i : Instr) : Bool := x.operandsPass i && !x.selfStops i

/-- Whether a register is the first, in the order of the operands, that an instruction of a slot has still to be filled. -/
def Slot.firstMissing (x : Slot) (i : Instr) (n : Nat) : Bool := (neededRegs i).find? (fun k => !x.cached k) == some n

/-- A register that instruction i of the slot in focus needs filled, or the register-fill fault (R36, R269), which an earlier
check that fails, an operand that has not come, or the fill of an earlier operand keeps back (R265). -/
def State.fillFocus (s : State) (i : Instr) (n : Nat) : State :=
  match s.fill n with
  | .ok t => t
  | .error .absent => s
  | .error (.flt f) => if s.slot.passes i && s.slot.firstMissing i n then s.raise f else s

/-- REGISTER_FILL (R36): a register that the next instruction of a control slot needs and does not find in the cache. -/
def execRegisterFill (c : Coord) (n : Nat) (s : State) : Host.Outcome State Fault Refusal :=
  .next (match s.slotAt c with
    | none => s
    | some x =>
      let t := s.focus c
      match t.fetched with
      | none => s
      | some i => if x.ctl && x.mayIssue && (neededRegs i).contains n then (t.fillFocus i n).focus s.slot.place else s)

/-! ### Elastic stages (R49 to R51) -/

/-- The active replicas that are not marked for parking. -/
def Stage.live (x : Stage) : List Nat :=
  (List.range x.reps.length).filter (fun r => ((x.reps[r]?).map (fun y => y.active && !y.park)).getD false)

/-- Whether an output queue of the stage is full: its leaving link has no free slot. -/
def Stage.outFull (x : Stage) : Bool := (x.leave.map (fun p => p.credit == 0)).getD false

/-- The lowest-numbered parked replica activated (R50). -/
def Stage.activate (x : Stage) : Stage :=
  match (List.range x.reps.length).find? (fun r => ((x.reps[r]?).map (fun y => !y.active)).getD false) with
  | none => x
  | some r => { x with reps := x.reps.modify r (fun y => { y with active := true, park := false }) }

/-- The highest-numbered active replica marked for parking, while more are active than the floor (R50). -/
def Stage.markPark (x : Stage) : Stage :=
  match x.live.getLast? with
  | none => x
  | some r => if x.live.length ≤ x.floor then x else { x with reps := x.reps.modify r (fun y => { y with park := true }) }

/-- A sample of a stage (R50). -/
def Stage.sample (x : Stage) : Stage :=
  let occ := x.queue.queue.length
  let full := x.outFull
  let y := match x.last with
    | none => x
    | some (o, f) =>
      if 3 * x.cap ≤ 4 * occ && 3 * x.cap ≤ 4 * o && !full then x.activate
      else if (4 * occ ≤ x.cap && 4 * o ≤ x.cap) || (full && f) then x.markPark
      else x
  { y with last := some (occ, full) }

/-- ELASTIC_SAMPLE (R50). -/
def execElasticSample (u stg : Nat) (s : State) : Host.Outcome State Fault Refusal :=
  .next (if (s.mt u).stages.any (fun x => x.1 == stg) then s.setStage u stg (s.stage u stg).sample else s)

/-- Whether a task of a replica is between firings. -/
def State.between (s : State) (c : Option Coord) : Bool :=
  match c with
  | none => true
  | some c => ((s.slotAt c).map (fun x => x.st != .firing && x.st != .suspended)).getD true

/-- Whether a replica has completed the firings dealt to it as far as its receiving and leaving tasks tell (R50). -/
def State.replicaQuiet (s : State) (y : Replica) : Bool :=
  s.between y.recv && s.between y.leaver && y.deal.flight.isEmpty &&
  (match y.deal.dst with
   | some e => ((s.inAt e).map (fun q => q.queue.isEmpty)).getD true
   | none => true)

/-- REPLICA_PARK (R50): a marked replica parks once its current firing completes. -/
def execReplicaPark (u stg rep : Nat) (s : State) : Host.Outcome State Fault Refusal :=
  let x := s.stage u stg
  .next (match x.reps[rep]? with
    | none => s
    | some y =>
      if y.active && y.park && s.replicaQuiet y then
        s.setStage u stg { x with reps := x.reps.modify rep (fun z => { z with active := false, park := false }) }
      else s)

/-- The replica that the next firing is dealt to: the first active one from the deal pointer on (R51). -/
def Stage.nextDeal (x : Stage) : Option Nat :=
  match x.live.find? (fun r => x.deal ≤ r) with
  | some r => some r
  | none => x.live.head?

/-- ELASTIC_DEAL (R51): a whole firing of input tokens dealt to the next active replica once its dealing path has room. -/
def execElasticDeal (u stg : Nat) (s : State) : Host.Outcome State Fault Refusal :=
  let x := s.stage u stg
  .next (match x.nextDeal with
    | none => s
    | some r =>
      match x.reps[r]? with
      | none => s
      | some y =>
        if leading x.queue.queue < y.need || y.deal.credit < y.need then s
        else
          let ts := x.queue.queue.take y.need
          s.setStage u stg { x with queue := { x.queue with queue := x.queue.queue.drop y.need, freed := x.queue.freed + y.need },
                                    reps := x.reps.modify r (fun z => { z with deal := z.deal.emit ts }),
                                    deal := (r + 1) % 4,
                                    dealt := if x.leave.isSome then x.dealt ++ [r] else [] })

/-- The port of a replica's leaving task that feeds the collector: the task, the port and its token counts. -/
def State.leavePort (s : State) (u stg r : Nat) (y : Replica) : Option (Coord × BitVec 3 × OutPort) :=
  y.leaver.bind (fun c => (s.slotAt c).bind (fun x =>
    ((List.range 8).map (BitVec.ofNat 3)).findSome? (fun k =>
      let p := x.outs[k.toNat]'k.isLt
      if p.dst = some (.coll u stg r) then some (c, k, p) else none)))

/-- The collector's step on a leaving firing of `n` tokens of which it has taken `x.collect` (R51): as many tokens as stand in
the collecting channel and find room on the leaving link. -/
def State.collect (s : State) (u stg r n : Nat) (q : InPort) (out : OutPort) (c : Coord) (k : BitVec 3) (p : OutPort) : State :=
  let x := s.stage u stg
  let m := min (n - x.collect) (min q.queue.length out.credit)
  let ended := x.collect + m = n
  let s := s.setStage u stg { x with leave := some (out.emit (q.queue.take m)), collect := if ended then 0 else x.collect + m,
                                     dealt := if ended then x.dealt.drop 1 else x.dealt }
  let s := s.setIn (.coll u stg r) { q with queue := q.queue.drop m, freed := q.freed + m }
  if ended then s.setOut (.task c k) { p with counts := p.counts.drop 1 } else s

/-- ELASTIC_COLLECT (R51): the tokens of the next dealt firing taken once its HALT has retired. -/
def execElasticCollect (u stg : Nat) (s : State) : Host.Outcome State Fault Refusal :=
  let x := s.stage u stg
  .next (match x.dealt with
    | [] => s
    | r :: _ =>
      match x.reps[r]? with
      | none => s
      | some y =>
        match s.leavePort u stg r y, y.coll, x.leave with
        | some (c, k, p), some q, some out =>
          match p.counts with
          | [] => s
          | n :: _ => s.collect u stg r n q out c k p
        | _, _, _ => s)

end Sys2Proof.Machine
end

