-- ==== Sys2Proof/Machine/WriteOnce.lean ====
section
/-! DEFINITION. Write-once memory (R203 to R205, R232 to R234). -/

namespace Sys2Proof.Machine

open Sys2Proof

/-- Whether a granule holds an uncorrectable error at its home. -/
def Mem.granBad (m : Mem) (pa : Nat) : Bool := m.homeBad pa

/-- LDP of R233: a read of an absent granule is held (R204). -/
def ldpOp (o : Ops) (s : State) : Res State :=
  s.memory o (fun g t =>
    let ty := ldpType o
    let w := wBytes ty
    let ea := eaOf o g
    match aligned t ea w with
    | .error e => .error e
    | .ok _ =>
      match t.locateVa ea .wo true false with
      | .error e => .error e
      | .ok (t, .remote k c a) => .ok (s.awaitRemote t o 1 k c a ty ea [])
      | .ok (t, .sp _ _) => .ok t
      | .ok (t, .mem pa) =>
        if !t.mem.isPresent (pa / 8) then .ok (s.await t o .ldp 0 pa w ea [])
        else
          let t : State := { t with mem := t.mem.l2Fill t.slotCtx (pa / 128) }
          if t.mem.granBad pa then .error (memError ea t)
          else
            let v := bytesToNat (t.mem.homeBytes (pa / 8 * 8) 8)
            .ok ((t.crossEdge pa).done o (some (ldpValue ty w (pa % 8) v)) 6 1))

/-- STO of R233: the single write of a granule (R203), noted when its slot has performed a FENCE of system scope (R221). -/
def stoOp (o : Ops) (s : State) : Res State :=
  s.memory o (fun g t =>
    let w := wBytes (ldpType o)
    let ea := eaOf o g
    if w < 8 || ea.toNat % 8 ≠ 0 then .error ({ code := 0x20, addr := ea }, t)
    else match t.locateVa ea .wo false true with
      | .error e => .error e
      | .ok (t, .remote k c a) => .ok (s.awaitRemote t o 0 k c a 0 ea [g.b.val])
      | .ok (t, .sp _ _) => .ok t
      | .ok (t, .mem pa) =>
        if t.mem.isPresent (pa / 8) then .error ({ code := 0x24, addr := ea }, t)
        else
          let m := t.mem.woPut (pa / 8) g.b.val.toNat
          let m := if t.slot.sysFence then m.tagFence (pa / 8) (t.part t.slot.prt).queueTag else m
          .ok ({ t with mem := m }.done o none 6 1))

/-- PTEST of R233. -/
def ptestOp (o : Ops) (s : State) : Res State :=
  s.memory o (fun g t =>
    let ea := eaOf o g
    match t.locateVa ea .wo true false with
    | .error e => .error e
    | .ok (t, .remote k c a) => .ok (s.awaitRemote t o 1 k c a 0 ea [])
    | .ok (t, .sp _ _) => .ok t
    | .ok (t, .mem pa) => .ok (t.done o (some (b2d (t.mem.isPresent (pa / 8)))) 6 1))

/-- The pieces of a byte range within pages of 64 KiB: first address and length (R260). -/
def pagePieces (va n : Nat) : List (Nat × Nat) :=
  (pagesOf va n).map (fun a => (a, min ((a / 2 ^ 16 + 1) * 2 ^ 16) (va + n) - a))

/-- The granule ranges that a PCLR clears, page by page (R234): every page is translated before the kind of any is tested,
and every kind before a permission (R265). A page within a Holvor window is skipped: nothing is cleared there and nothing raised
(the model's choice, log entry 26). -/
def clearRanges (s : State) (u ctx : Nat) (ps : List (Nat × Nat)) : Acc (State × List (Nat × Nat)) :=
  match translateAll s u ctx (ps.map (fun p => p.1)) with
  | .error e => .error e
  | .ok (s, ts) =>
    match kindAll .wo ts, permAll false true ts with
    | .error f, _ => .error (f, s)
    | _, .error f => .error (f, s)
    | .ok _, .ok _ =>
      let here := ps.filter (fun p => (hvTarget (s.ctx ctx) p.1).isNone)
      .ok (s, (ts.zip here).map (fun x => (x.1.2.pa / 8, x.2.2 / 8)))

/-- PCLR of R234: the clearing is applied at the forme boundary (R205). -/
def pclrOp (o : Ops) (s : State) : Res State :=
  s.memory o (fun g t =>
    let a := g.a.val
    let n := g.b.val.toNat
    if a.toNat % 8 ≠ 0 || n % 8 ≠ 0 || n < 8 || 2 ^ 34 < n then .error ({ code := 0x20, addr := a }, t)
    else match clearRanges t t.slotUnit t.slotCtx (pagePieces a.toNat n) with
      | .error e => .error e
      | .ok (t, rs) =>
        .ok ({ t with mem := { t.mem with clears := t.mem.clears ++ rs.map (fun (r : Nat × Nat) => (s.slot.prt, r.1, r.2)) } }.done o none 0 1))

/-- The bytes of a line that lie in a range of granules. -/
def clearMask (g n line : Nat) : BitVec 128 :=
  BitVec.ofNat 128 (((List.range 16).filter (fun k => g ≤ 16 * line + k && 16 * line + k < g + n)).foldl (fun a k => a + 255 * 2 ^ (8 * k)) 0)

/-- A cached line without what it changed of a range of granules. -/
def Line.unclear (l : Line) (g n : Nat) : Line := { l with dirty := l.dirty &&& ~~~clearMask g n l.line }

/-- The copies of a range of granules dropped from every L1 and L2 slice (R205): what a line changed outside the range is
written back first. -/
def Mem.dropCopies (m : Mem) (g n : Nat) : Mem :=
  let hit (l : Line) : Bool := clearMask g n l.line != 0
  let m : Mem := { m with l1 := m.l1.map (fun l => l.unclear g n) }
  let m := (m.l1.filter hit).foldl (fun (m : Mem) l => m.l1Drop l.unit l.line l.ctx) m
  let m : Mem := { m with l2 := m.l2.map (fun l => l.unclear g n) }
  (m.l2.filter hit).foldl (fun (m : Mem) l => m.l2Evict l.line false l.ctx) m

/-- The clearings of a partition applied at a forme boundary (R205): presence bits cleared, copies dropped. -/
def Mem.applyClears (m : Mem) (p : Nat) : Mem :=
  let rs := m.clears.filter (fun c => c.1 == p)
  rs.foldl (fun (m : Mem) c =>
    { m.dropCopies c.2.1 c.2.2 with present := tdrop m.present c.2.1 (c.2.1 + c.2.2), fenced := tdrop m.fenced c.2.1 (c.2.1 + c.2.2) })
    { m with clears := m.clears.filter (fun c => c.1 != p) }

/-- LDP (R233). -/
def execLdp (o : Ops) (s : State) : Host.Outcome State Fault Refusal := s.run (ldpOp o)
/-- LDP in the immediate form (R233). -/
def execLdpImm (o : Ops) (s : State) : Host.Outcome State Fault Refusal := s.run (ldpOp o)
/-- LDP in the longer forms (R233). -/
def execLdpLong (o : Ops) (s : State) : Host.Outcome State Fault Refusal := s.run (ldpOp o)
/-- STO (R233). -/
def execSto (o : Ops) (s : State) : Host.Outcome State Fault Refusal := s.run (stoOp o)
/-- STO in the longer forms (R233). -/
def execStoLong (o : Ops) (s : State) : Host.Outcome State Fault Refusal := s.run (stoOp o)
/-- PTEST (R233). -/
def execPtest (o : Ops) (s : State) : Host.Outcome State Fault Refusal := s.run (ptestOp o)
/-- PTEST in the immediate form (R233). -/
def execPtestImm (o : Ops) (s : State) : Host.Outcome State Fault Refusal := s.run (ptestOp o)
/-- PTEST in the longer forms (R233). -/
def execPtestLong (o : Ops) (s : State) : Host.Outcome State Fault Refusal := s.run (ptestOp o)
/-- PCLR (R234). -/
def execPclr (o : Ops) (s : State) : Host.Outcome State Fault Refusal := s.run (pclrOp o)

end Sys2Proof.Machine
end

