-- ==== Sys2Proof/Machine/Drain.lean ====
section
/-! DEFINITION. Drain (R55 to R58, R205, R338): DRN passed by tasks, engines and bridges, drained tiles, and the reports with
which a forme ends. -/

namespace Sys2Proof.Machine

open Sys2Proof

/-! ### DRN at a channel (R47, R56) -/

/-- The DRN token. -/
def drnTok : Tok := ⟨0, .mrk .drn⟩

/-- Whether DRN stands at the head of a channel. -/
def headDrn (ts : List Tok) : Bool :=
  match ts with
  | [] => false
  | t :: _ => t.kind == .mrk .drn

/-- Whether a linked input channel has DRN at its head. -/
def InPort.atDrn (p : InPort) : Bool := !p.bound || headDrn p.queue

/-- Whether DRN can leave on an output channel: every promised token has been sent, and the link has a free slot, or holds nothing
when it has no slots. -/
def OutPort.canDrn (p : OutPort) : Bool := !p.bound || (p.promised == 0 && (if p.cap = 0 then p.flight.isEmpty else decide (0 < p.credit)))

/-- DRN sent on a linked output channel. -/
def OutPort.sendDrn (p : OutPort) : OutPort := if p.bound then p.emit [drnTok] else p

/-! ### TASK_DRAIN (R55, R56, R283) -/

/-- Whether a task retires (R56): idle, with DRN at the head of every bound input, or after its single firing. -/
def Slot.canRetire (x : Slot) : Bool :=
  x.st == .idle && (if x.inputless then x.fires != 0 else x.ins.toList.all InPort.atDrn) && x.outs.toList.all OutPort.canDrn

/-- A task retired by DRN: DRN leaves on every output port, and its fibre and stream registers close (R283). -/
def Slot.retireDrn (x : Slot) : Slot :=
  { x with st := .retired, outs := x.outs.map OutPort.sendDrn, fbs := Vector.replicate 8 .closed, sms := Vector.replicate 8 .closed }

/-- TASK_DRAIN (R56). -/
def execTaskDrain (c : Coord) (s : State) : Host.Outcome State Fault Refusal :=
  .next (match s.slotAt c with
    | none => s
    | some x => if x.canRetire && (s.part x.prt).phase == .run then s.updSlot c Slot.retireDrn else s)

/-! ### ENGINE_DRAIN (R55, R56, R338) -/

/-- Whether the forme's armed sections have sent DRN and its input-less tasks have retired (R55). -/
def State.othersEnded (s : State) (p : Nat) : Bool :=
  (List.range 4).all (fun n => !((s.part p).sect n).armed || ((s.part p).sect n).drn) &&
  s.slots.all (fun x => x.prt != p || !x.inputless || x.st == .retired)

/-- Whether the source nodes of a section of a running forme send DRN (R55): its count has expired, or it was never armed and
the others have ended. -/
def State.sourceEnds (s : State) (p sect : Nat) : Bool :=
  (s.part p).phase == .run && (if ((s.part p).sect sect).armed then ((s.part p).sect sect).expired else s.othersEnded p)

/-- Whether an island passes DRN (R338, R349). -/
def State.islandEnds (s : State) (n : Nat) : Bool :=
  let x := s.isl n
  x.bound && !x.drn && x.cur.isNone && x.pend.isEmpty && x.todo == 0 && (!x.drawLnk || x.draw.canDrn) &&
  (if x.isSource then s.sourceEnds x.prt x.sect else x.cmd.atDrn && x.feed.atDrn)

/-- Whether a section has sent DRN (R55, R393): every source node of it has, or, where it has none, every node. -/
def State.sectDrn (s : State) (p sect : Nat) : Bool :=
  let ports := s.sectPorts p sect
  let isls := s.sectIslands p sect
  let srcs := isls.filter (fun n => (s.isl n).isSource)
  ports.all (fun uk => (s.port uk.1 uk.2).drn) &&
  (if ports.isEmpty && srcs.isEmpty then isls else srcs).all (fun n => (s.isl n).drn)

/-- A section noted as one that has sent DRN. -/
def State.markSect (s : State) (p sect : Nat) : State :=
  if s.sectDrn p sect then s.setPart p ((s.part p).setSect sect { (s.part p).sect sect with drn := true }) else s

/-- An island's DRN sent. -/
def State.islandDrn (s : State) (n : Nat) : State :=
  let x := s.isl n
  (s.setIsl n { x with drn := true, draw := if x.drawLnk then x.draw.emit [drnTok] else x.draw }).markSect x.prt x.sect

/-- A stream port's DRN sent after its last element (R55). -/
def State.streamDrn (s : State) (u k : Nat) : State :=
  let x := s.port u k
  let p := s.endPart (.stream u k)
  if x.node && !x.drn && x.todo == 0 && x.out.canDrn && s.sourceEnds p x.sect
  then (s.setPort u k { x with drn := true, out := x.out.sendDrn }).markSect p x.sect else s

/-- Whether a stage has passed DRN on every channel it feeds. -/
def Stage.drained (x : Stage) : Bool := x.drn && x.queue.queue.isEmpty

/-- The stage's DRN on its dealing paths; one without a collector has then passed it on every channel. -/
def Stage.dealDrn (x : Stage) : Stage :=
  { x with drn := true, reps := x.reps.map (fun y => { y with deal := y.deal.sendDrn }),
           queue := if x.leave.isSome then x.queue else { x.queue with queue := [] } }

/-- The stage's DRN on its leaving link, once DRN stands at the head of every collecting path. -/
def Stage.leaveDrn (x : Stage) (out : OutPort) : Stage :=
  { x with leave := some out.sendDrn, queue := { x.queue with queue := [] }, dealt := [] }

/-- DRN through an elastic stage (R51, R56). -/
def Stage.passDrn (x : Stage) : Stage :=
  if !x.drn then (if headDrn x.queue.queue && x.reps.all (fun y => y.deal.canDrn) then x.dealDrn else x)
  else match x.leave with
    | none => x
    | some out =>
      if !x.queue.queue.isEmpty && x.reps.all (fun y => (y.coll.map InPort.atDrn).getD true) && out.canDrn
      then x.leaveDrn out else x

/-- The syntax engine that a stream command names, as an edge unit of the package. -/
def State.cmdEdge (s : State) (c : Cmd) : Option Nat :=
  match c.kind with
  | .sxfeed h _ _ _ => s.engineUnit c.prt (handleEng h / 8) (handleEng h % 8)
  | .sxfrm h => s.engineUnit c.prt (handleEng h / 8) (handleEng h % 8)
  | _ => none

/-- Whether an edge unit passes DRN (R56): DRN stands at each of its linked input channels, or, where none is linked, the
forme's sections and input-less tasks have ended (log entry 10), and every command it accepted is complete. -/
def State.edgeEnds (s : State) (e : Nat) : Bool :=
  let x := s.edge e
  x != {} && !x.drn && x.outs.all (fun o => o.2.canDrn) && s.cmds.all (fun c => s.cmdEdge c != some e) &&
  (s.part x.prt).phase == .run && (if x.ins.isEmpty then s.othersEnded x.prt else x.ins.all (fun i => i.2.atDrn))

/-- An edge unit's DRN sent on each of its output channels. -/
def State.edgeDrn (s : State) (e : Nat) : State :=
  let x := s.edge e
  s.setEdge e { x with drn := true, outs := x.outs.map (fun o => (o.1, o.2.sendDrn)) }

/-- ENGINE_DRAIN (R56). -/
def execEngineDrain (e : Engine) (s : State) : Host.Outcome State Fault Refusal :=
  .next (match e with
    | .island n => if s.islandEnds n then s.islandDrn n else s
    | .stream u k => s.streamDrn u k
    | .edge e => if s.edgeEnds e then s.edgeDrn e else s
    | .stage u g => if (s.mt u).stages.any (fun x => x.1 == g) then s.setStage u g (s.stage u g).passDrn else s)

/-! ### BRIDGE_DRAIN (R56) -/

/-- The producing ends at a compute unit: the ports of its tasks, its stream ports and stages. -/
def State.unitEnds (s : State) (u : Nat) : List End :=
  (s.slots.filter (fun x => coordUnit x.place == u)).flatMap (fun x => ((List.range 8).map (fun k => End.task x.place (BitVec.ofNat 3 k)))) ++
  (s.mt u).ports.map (fun x => End.stream u x.1) ++
  (s.mt u).stages.flatMap (fun x => End.leave u x.1 :: (List.range x.2.reps.length).map (fun r => End.deal u x.1 r))

/-- The producing ends of a partition's forme. -/
def State.partEnds (s : State) (p : Nat) : List End :=
  (s.part p).cus.flatMap s.unitEnds ++
  (s.islands.filter (fun x => x.2.bound && x.2.prt == p)).map (fun x => End.island x.1 2) ++
  (s.edges.filter (fun x => x.2.prt == p)).flatMap (fun x => x.2.outs.map (fun o => End.edge x.1 o.1))

/-- Whether a link carries a token other than DRN on a bridge direction of a list. -/
def State.carries (s : State) (ds : List (Nat × Nat)) (e : End) : Bool :=
  match s.outAt e with
  | none => false
  | some p => p.bridges.any ds.contains && p.flight.any (fun t => t.kind != .mrk .drn)

/-- BRIDGE_DRAIN (R56): DRN crosses its die bridges once every earlier transfer of the forme on each of their directions has been
delivered. -/
def execBridgeDrain (src : End) (s : State) : Host.Outcome State Fault Refusal :=
  .next (match s.outAt src with
    | none => s
    | some p =>
      match p.flight, p.dst with
      | t :: ts, some dst =>
        if t.kind = .mrk .drn && p.bridges ≠ [] && !(s.partEnds (s.endPart src)).any (s.carries p.bridges)
        then s.deliver src t ts p dst else s
      | _, _ => s)

/-! ### TILE_DRAINED and DRAIN_REPORT (R57, R205, R386) -/

/-- Whether nothing is in flight on a link. -/
def State.quiet (s : State) (e : End) : Bool := ((s.outAt e).map (fun p => p.flight.isEmpty)).getD true

/-- Whether a compute unit has drained (R57): its tasks retired, its links, requests and engine commands done. -/
def State.unitDrained (s : State) (u : Nat) : Bool :=
  s.slots.all (fun x => coordUnit x.place != u || x.st == .retired) && (s.unitEnds u).all s.quiet &&
  s.mem.waits.all (fun w => coordUnit w.place != u) && s.cmds.all (fun c => c.unit != u) &&
  (s.mt u).ports.all (fun x => !x.2.node || x.2.drn) && (s.mt u).stages.all (fun x => x.2.drained)

/-- Whether an island has drained. -/
def State.islandDrained (s : State) (n : Nat) : Bool := (s.isl n).drn && (s.isl n).draw.flight.isEmpty

/-- Whether an edge unit has drained. -/
def State.edgeDrained (s : State) (e : Nat) : Bool :=
  (s.edge e).drn && (s.edge e).outs.all (fun o => o.2.flight.isEmpty) && s.cmds.all (fun c => s.cmdEdge c != some e)

/-- TILE_DRAINED (R57): a drained unit of the forme (its number as R418 counts) writes back and invalidates its L1, and
reports. -/
def execTileDrained (p u : Nat) (s : State) : Host.Outcome State Fault Refusal :=
  let q := s.part p
  let drained := if u < 768 then s.unitDrained u else if u < 832 then s.islandDrained (u - 768) else s.edgeDrained u
  .next (if q.phase = .run && q.owed.contains u && drained then
      let s : State := { s with mem := if u < 768 then s.mem.l1DropAll u (fun _ => true) q.ctx else s.mem }
      s.setPart p { q with owed := q.owed.filter (fun v => v != u), toReport := q.toReport ++ [u] }
    else s)

/-- The partition without its imposition; the queue keeps what it needs to be granted again (R59, R389). -/
def State.yieldPart (s : State) (p ridx : Nat) (snap : Option Snap) : State :=
  let q := s.part p
  match q.launch with
  | none => s
  | some l =>
    let k : Kept := { ridx := ridx, drained := l.drained, evq := q.evq, evLost := q.evLost, req := q.req, snap := snap }
    let s := s.setLq l.fn l.q { s.lq l.fn l.q with kept := some k }
    s.setPart p { q with phase := .idle, launch := none, preempt := false, evq := [], evLost := false, formeCus := [], owed := [], toReport := [],
                         sects := Vector.replicate 4 {}, cand := Vector.replicate 4 none, restore := none, divs := [] }

/-- The forme in hand has drained (R56 to R59): its pending clearings are applied, its units are free, and the imposition
ends, goes on with its next record, or yields to a pre-emption. -/
def State.formeDrained (s : State) (p : Nat) : State :=
  let s := (s.writeStrms p).dropForme p
  let s : State := { s with mem := s.mem.applyClears p }
  let q := s.part p
  let q := { q with launch := q.launch.map (fun l => { l with drained := l.drained + 1 }), formeCus := [], divs := [],
                    sects := Vector.replicate 4 {}, cand := Vector.replicate 4 none }
  let s := s.setPart p q
  if q.record.getLsbD 96 then s.setPart p { q with phase := .ended, preempt := false }
  else if q.preempt then s.yieldPart p (q.ridx + 1) none
  else s.setPart p { q with phase := .read, ridx := q.ridx + 1 }

/-- DRAIN_REPORT (R57): the sequencer collects a report; the last one ends the forme. -/
def execDrainReport (p u : Nat) (s : State) : Host.Outcome State Fault Refusal :=
  let q := s.part p
  .next (if q.phase = .run && q.toReport.contains u then
      let r := q.toReport.filter (fun v => v != u)
      let s := s.setPart p { q with toReport := r }
      if r.isEmpty && q.owed.isEmpty then s.formeDrained p else s
    else s)

end Sys2Proof.Machine
end

