-- ==== Sys2Proof/Machine/Image.lean ====
section
/-! DEFINITION. Configuration images (R93 to R105): frames and their fields, the checks that one frame takes by itself, and the
CRC; the instruction stores as the loader reads them (R117, R157, R159), with the load error codes of R118. -/

namespace Sys2Proof.Machine

open Sys2Proof

/-- A failed check (R118): load error code, frame index, word index. -/
abbrev LErr := Nat × Nat × Nat

/-- The failure that the loader reports (R119): the lowest code, then frame, then word. -/
def leastErr : List LErr → Option LErr
  | [] => none
  | e :: es =>
    match leastErr es with
    | none => some e
    | some f =>
      if e.1 < f.1 || (e.1 == f.1 && (e.2.1 < f.2.1 || (e.2.1 == f.2.1 && e.2.2 ≤ f.2.2))) then some e else some f

/-! ### Headers (R93, R94) -/

/-- The fields of a frame header (R93). -/
structure Hdr where
  kind : Nat
  tile : Nat
  unit : Nat
  seq  : Nat
  die  : Nat

/-- The header of a frame. -/
def Hdr.of (v : Nat) : Hdr := ⟨bits v 7 0, bits v 17 8, bits v 23 18, bits v 27 24, bits v 29 28⟩

/-- Whether a TILE code is that of a CT, an MT, an island, a syntax engine or an L2 slice. -/
def tcCt (t : Nat) : Bool := t < 384 && !isMt t
def tcMt (t : Nat) : Bool := t < 384 && isMt t
def tcIsl (t : Nat) : Bool := 512 ≤ t && t < 528
def tcSyn (t : Nat) : Bool := 640 ≤ t && t < 648
def tcL2 (t : Nat) : Bool := 768 ≤ t && t < 800

/-- Whether KIND is defined (R94). -/
def kindOk (k : Nat) : Bool := (1 ≤ k && k ≤ 9) || k == 15

/-- Whether TILE, UNIT, SEQ and DIE are valid for the kind (R94). -/
def Hdr.ok (h : Hdr) : Bool :=
  match h.kind with
  | 1 => tcCt h.tile && h.seq == 0
  | 2 => tcCt h.tile && h.seq ≤ 3
  | 3 => (h.tile < 384 || tcIsl h.tile || tcSyn h.tile || tcL2 h.tile) && h.unit == 0 && h.seq == 0
  | 4 => (h.tile < 384 || tcIsl h.tile || tcSyn h.tile) && h.unit == 0 && h.seq == 0
  | 5 => tcMt h.tile && h.unit == 0 && h.seq == 0
  | 6 => tcMt h.tile && h.unit ≤ 7 && h.seq ≤ 7
  | 7 => tcIsl h.tile && h.unit == 0 && h.seq == 0
  | 8 => tcMt h.tile && h.unit ≤ 7 && h.seq == 0
  | 9 => h.tile == 0 && h.unit == 0 && h.seq == 0
  | _ => h.tile == 0 && h.unit == 0 && h.seq == 0 && h.die == 0

/-! ### Bodies (R95 to R105) -/

/-- The reserved bit ranges of a body (R95 to R105). -/
def reservedOf (k : Nat) : List (Nat × Nat) :=
  match k with
  | 1 => [(63, 44)]
  | 2 => [(47, 42)]
  | 5 => [(63, 43)]
  | 6 => [(255, 244), (87, 86)]
  | 7 => [(255, 58)]
  | 8 => [(255, 160), (127, 109), (63, 62), (47, 37)]
  | 9 => [(255, 80)]
  | 15 => [(255, 96), (63, 56)]
  | _ => []

/-- The words of a frame in which a bit range has a bit set. -/
def setWords (v : Nat) (r : Nat × Nat) : List Nat :=
  (List.range 8).filter (fun k =>
    let hi := min r.1 (32 * k + 31)
    let lo := max r.2 (32 * k)
    lo ≤ hi && bits v hi lo != 0)

/-- Words carried beyond COUNT that are not zero (R95, R100). -/
def beyondCount (v n : Nat) : List Nat :=
  (List.range 6).filter (fun j => n ≤ j && bits v (32 * j + 95) (32 * j + 64) != 0)

/-- The checks of a store or sequencer frame (R95, R100): COUNT, BASE, and the words beyond COUNT. -/
def countErrs (i v n base limit : Nat) : List LErr :=
  (if n = 0 || 6 < n || limit < base + n then [(0x05, i, 1)] else []) ++ (beyondCount v n).map (fun j => (0x04, i, j + 2))

/-- Port descriptor p of a task frame (R96). -/
def portDesc (v p : Nat) : Nat := bits v (48 + 13 * p + 12) (48 + 13 * p)

/-- The checks of the port descriptors (R96, R118). -/
def portErrs (i v : Nat) : List LErr :=
  (List.range 16).flatMap (fun p =>
    let x := portDesc v p
    let lo := 48 + 13 * p
    if !bit x 12 then (setWords v (lo + 12, lo)).map (fun w => (0x04, i, w))
    else if bits x 7 6 ≠ 0 && (p < 8 || bits x 11 8 = 0) then [(0x05, i, (lo + 6) / 32)] else [])

/-! ### Facing units (R98) -/

/-- The tiles that an edge unit faces, in ascending number. -/
def facesOf (c : Nat) : List Nat :=
  if tcIsl c then
    let n := c - 512
    let x := if n < 8 then 0 else 23
    [24 * (2 * (n % 8)) + x, 24 * (2 * (n % 8) + 1) + x]
  else if tcSyn c then (List.range 3).map (fun j => 3 * (c - 640) + j)
  else if tcL2 c then [24 * 15 + 3 * (c - 768) / 4]
  else []

/-- The edge units that a tile faces: its island, its syntax engine, its L2 slices. -/
def facedBy (t : Nat) : List Nat :=
  let y := t / 24
  let x := t % 24
  (if x = 0 then [512 + y / 2] else if x = 23 then [520 + y / 2] else []) ++
  (if y = 0 then [640 + x / 3] else []) ++
  (if y = 15 then ((List.range 32).filter (fun n => 3 * n / 4 == x)).map (fun n => 768 + n) else [])

/-- What a TILE code faces. -/
def facing (c : Nat) : List Nat := if c < 384 then facedBy c else facesOf c

/-- The checks of one route entry (R98). -/
def routeErrs (i tile k e : Nat) : List LErr :=
  let din := bits e 26 24
  let dout := bits e 17 15
  let fxBad (dir fx : Nat) : Bool := dir == 6 && (facing tile).length ≤ fx
  if !bit e 31 then (if e = 0 then [] else [(0x04, i, k + 1)])
  else if bits e 30 27 ≠ 0 || bits e 4 0 ≠ 0 || (din ≠ 6 && bits e 8 7 ≠ 0) || (dout ≠ 6 && bits e 6 5 ≠ 0) then [(0x04, i, k + 1)]
  else if din = 7 || dout = 7 || fxBad din (bits e 8 7) || fxBad dout (bits e 6 5) then [(0x05, i, k + 1)] else []

/-- Route entry k of a frame. -/
def routeEntry (v k : Nat) : Nat := bits v (32 * k + 63) (32 * k + 32)

/-- Slot-count entry k of a frame (R99). -/
def slotEntry (v k : Nat) : Nat := bits v (16 * k + 47) (16 * k + 32)

/-- The check of one slot-count entry (R99). -/
def slotErrs (i k e : Nat) : List LErr :=
  if (if bit e 15 then bits e 14 10 = 0 else e = 0) then [] else [(0x04, i, 1 + k / 2)]

/-- The EXT and STR fields of dimension j of a window frame (R101). -/
def windowDim (j : Nat) : List (Nat × Nat) := [(107 + 20 * j, 88 + 20 * j), (179 + 32 * j, 148 + 32 * j)]

/-- The checks of a window frame (R101): EXT and STR at or beyond NDIM are zero because of NDIM, so they count as reserved (R118;
log entry 15). -/
def windowErrs (i v : Nat) : List LErr :=
  let nd := bits v 85 84
  (if nd = 0 then [(0x05, i, 2)] else []) ++
  ((((List.range 3).filter (fun j => nd ≤ j)).flatMap windowDim).flatMap (setWords v)).map (fun w => (0x04, i, w))

/-- The checks of a region declaration (R103): SPILLN and SPILLA are zero because of another field, so they count as reserved
(R118; log entry 15). -/
def regionErrs (i v : Nat) : List LErr :=
  (if bits v 36 33 < 4 || 14 < bits v 36 33 then [(0x05, i, 1)] else []) ++
  (((if !bit v 32 then [(159, 128)] else []) ++ (if bits v 159 128 = 0 then [(108, 64)] else [])).flatMap (setWords v)).map
    (fun w => (0x04, i, w))

/-- The check of a divider frame (R104): DIV of a row whose MASK bit is 0 counts as reserved (R118; log entry 15). -/
def dividerErrs (i v : Nat) : List LErr :=
  if (List.range 16).any (fun y => !bit v (64 + y) && bits v (33 + 2 * y) (32 + 2 * y) != 0) then [(0x04, i, 1)] else []

/-- The checks of a body (R95 to R104). -/
def bodyErrs (i v : Nat) (h : Hdr) : List LErr :=
  match h.kind with
  | 1 => countErrs i v (bits v 43 41) (bits v 40 32) 512
  | 2 => portErrs i v
  | 3 => (List.range 7).flatMap (fun k => routeErrs i h.tile k (routeEntry v k))
  | 4 => (List.range 14).flatMap (fun k => slotErrs i k (slotEntry v k))
  | 5 => countErrs i v (bits v 42 40) (bits v 39 32) 256
  | 6 => windowErrs i v
  | 7 => if 1 ≤ bits v 37 32 && bits v 37 32 ≤ 7 then [] else [(0x05, i, 1)]
  | 8 => regionErrs i v
  | 9 => dividerErrs i v
  | _ => []

/-- The checks that one frame takes by itself (R118, codes 0x01 to 0x05). -/
def frameErrs (i v : Nat) : List LErr :=
  let h := Hdr.of v
  if !kindOk h.kind then [(0x01, i, 0)]
  else if bits v 31 30 ≠ 0 then [(0x02, i, 0)]
  else if !h.ok then [(0x03, i, 0)]
  else ((reservedOf h.kind).flatMap (setWords v)).map (fun w => (0x04, i, w)) ++ bodyErrs i v h

/-! ### Loaded twice (R94, code 0x06) -/

/-- What a frame loads, as keys that one image may name once: by kind, die, tile, and what stands inside. -/
def loadKeys (v : Nat) : List (List Nat) :=
  let h := Hdr.of v
  match h.kind with
  | 1 => (List.range (bits v 43 41)).map (fun j => [1, h.die, h.tile, h.unit, bits v 40 32 + j])
  | 2 => [[2, h.die, h.tile, h.unit, h.seq]]
  | 4 => ((List.range 14).filter (fun k => bit (slotEntry v k) 15)).map (fun k => [4, h.die, h.tile, bits (slotEntry v k) 5 0])
  | 5 => (List.range (bits v 42 40)).map (fun j => [5, h.die, h.tile, bits v 39 32 + j])
  | 6 => [[6, h.die, h.tile, h.unit, h.seq]]
  | 7 => [[7, h.die, h.tile]]
  | 8 => [[8, h.die, h.tile, h.unit]]
  | 9 => [[9, h.die]]
  | _ => []

/-- Whether two keys of a list are the same. -/
def hasTwice : List (List Nat) → Bool
  | [] => false
  | k :: ks => ks.contains k || hasTwice ks

/-- The later frames that load what an earlier one, or they themselves, loaded already. -/
def twiceErrs : List (List Nat) → List (Nat × Nat) → List LErr
  | _, [] => []
  | seen, (i, v) :: fs =>
    let ks := loadKeys v
    (if ks.any seen.contains || hasTwice ks then [(0x06, i, 0)] else []) ++ twiceErrs (ks ++ seen) fs

/-! ### End of image (R105) -/

/-- One bit of the reflected CRC-32 of R105. -/
def crcBit (c : Nat) : Nat := if c % 2 = 1 then Nat.xor (c / 2) 0xEDB88320 else c / 2
/-- One byte of it. -/
def crcByte (c : Nat) (b : Byte) : Nat := (List.range 8).foldl (fun c _ => crcBit c) (Nat.xor c b.toNat)
/-- The CRC-32 of a byte string (R105). -/
def crc32 (bs : List Byte) : Nat := Nat.xor (bs.foldl crcByte 0xFFFFFFFF) 0xFFFFFFFF

/-- The checks of the end-of-image frame (R94, R105). -/
def endErrs (fs : List (Nat × Nat)) (nfr : Nat) : List LErr :=
  let isEnd (v : Nat) : Bool := v % 256 == 15
  (fs.filter (fun f => isEnd f.2 && f.1 != nfr - 1)).map (fun f => (0x07, f.1, 0)) ++
  (match fs.find? (fun f => f.1 == nfr - 1) with
   | none => [(0x07, nfr - 1, 0)]
   | some (_, v) =>
     if !isEnd v then [(0x07, nfr - 1, 0)]
     else
       (if bits v 55 32 = nfr then [] else [(0x08, nfr - 1, 1)]) ++
       (if bits v 95 64 = crc32 ((fs.filter (fun f => f.1 < nfr - 1)).flatMap (fun f => natToBytes 32 f.2)) then []
        else [(0x09, nfr - 1, 2)]))

/-! ### What an image holds -/

/-- A task of an image: its image coordinates, class, entry, port descriptors, and the frame that defines it. -/
structure TaskF where
  key   : Coord
  ctl   : Bool
  entry : Nat
  ports : List Nat
  frame : Nat

/-- Whether port p of a task is bound, its rate, its marker key, its virtual channel (R96). -/
def TaskF.bound (t : TaskF) (p : Nat) : Bool := bit (t.ports.getD p 0) 12
def TaskF.rate (t : TaskF) (p : Nat) : Nat := bits (t.ports.getD p 0) 11 8
def TaskF.mkey (t : TaskF) (p : Nat) : Nat := bits (t.ports.getD p 0) 7 6
def TaskF.vc (t : TaskF) (p : Nat) : Nat := bits (t.ports.getD p 0) 5 0

/-- Image coordinates. -/
def imgCoord (die tile pe slot : Nat) : Coord := ⟨BitVec.ofNat 2 die, BitVec.ofNat 9 tile, BitVec.ofNat 6 pe, BitVec.ofNat 2 slot⟩

/-- The tasks of an image. -/
def imgTasks (fs : List (Nat × Nat)) : List TaskF :=
  (fs.filter (fun f => f.2 % 256 == 2)).map (fun f =>
    let h := Hdr.of f.2
    ⟨imgCoord h.die h.tile h.unit h.seq, bit f.2 41, bits f.2 40 32, (List.range 16).map (portDesc f.2), f.1⟩)

/-- A word of an instruction store: the PE, its address, the word, the frame that holds it. -/
structure WordF where
  pe    : Coord
  addr  : Nat
  word  : Word
  frame : Nat

/-- The store words of an image. -/
def imgWords (fs : List (Nat × Nat)) : List WordF :=
  (fs.filter (fun f => f.2 % 256 == 1)).flatMap (fun f =>
    let h := Hdr.of f.2
    (List.range (bits f.2 43 41)).map (fun j =>
      ⟨imgCoord h.die h.tile h.unit 0, bits f.2 40 32 + j, BitVec.ofNat 32 (bits f.2 (32 * j + 95) (32 * j + 64)), f.1⟩))

/-! ### Instruction stores (R117, R118) -/

/-- An instruction of a store: its address, its opcode and fields, its length, the frame that holds its first word. -/
structure InsF where
  addr  : Nat
  op    : Nat
  o     : Ops
  len   : Nat
  frame : Nat

/-- The words of one PE in ascending address. -/
def peWords (ws : List WordF) (pe : Coord) : List WordF :=
  (List.range 512).filterMap (fun a => ws.find? (fun w => w.pe == pe && w.addr == a))

/-- The words of a range that do not stand where the words before them end (R117). -/
def wordGaps : Nat → List WordF → List WordF
  | _, [] => []
  | a, w :: ws => (if w.addr = a then [] else [w]) ++ wordGaps (w.addr + 1) ws

/-- The words of a range decoded from word 0 by LEN: the instructions, and the word at which decoding fails. -/
def decodeRange : Nat → List WordF → List InsF × Option WordF
  | 0, _ => ([], none)
  | _ + 1, [] => ([], none)
  | n + 1, w :: ws =>
    match splitWords ((w :: ws).map (fun x => x.word)) with
    | none => ([], some w)
    | some (op, o, _) =>
      let r := decodeRange n ((w :: ws).drop (formLen o.form))
      (⟨w.addr, op.toNat, o, formLen o.form, w.frame⟩ :: r.1, r.2)

/-- The offset of a branch, call or loop (R158). -/
def InsF.offset (i : InsF) : Option Int :=
  if 3 ≤ i.op && i.op ≤ 12 && i.op ≠ 10 then
    match i.o.form with
    | .i => some i.o.imm10.toInt
    | .s => none
    | _ => some i.o.imm12.toInt
  else none

/-- The target address. -/
def InsF.target (i : InsF) : Option Int := i.offset.map (fun d => (i.addr : Int) + d)

/-- LOOPI or LOOPR. -/
def InsF.isLoop (i : InsF) : Bool := i.op == 11 || i.op == 12
/-- An instruction that may end a range, and after which none is reached by falling through (R117). -/
def InsF.ends (i : InsF) : Bool := i.op == 1 || i.op == 3 || i.op == 10 || i.op == 13
/-- An instruction that no loop may end with (R159). -/
def InsF.noLoopEnd (i : InsF) : Bool := i.op == 1 || (3 ≤ i.op && i.op ≤ 13)

/-- The instruction at an address. -/
def insAt (is : List InsF) (a : Int) : Option InsF := is.find? (fun i => (i.addr : Int) == a)

/-- The checks of targets (R117, R159, code 0x17). -/
def targetErrs (is : List InsF) : List LErr :=
  is.flatMap (fun i =>
    match i.target with
    | none => []
    | some a =>
      match insAt is a with
      | none => [(0x17, i.frame, i.addr)]
      | some e => if i.isLoop && (e.noLoopEnd || e.addr ≤ i.addr) then [(0x17, i.frame, i.addr)] else [])

/-- The check of the last instruction (R117). -/
def lastErrs (is : List InsF) : List LErr :=
  match is.getLast? with
  | none => []
  | some i => if i.ends then [] else [(0x17, i.frame, i.addr)]

/-- Where control can go from an instruction (R117): on to the next one, to its target, and from the end of a loop to the loop's
start. -/
def InsF.next (is : List InsF) (i : InsF) : List Nat :=
  (if i.ends then [] else [i.addr + i.len]) ++
  (match i.target with
   | some t => if 0 ≤ t then [t.toNat] else []
   | none => []) ++
  (is.filter (fun l => l.isLoop && l.target == some (i.addr : Int))).map (fun l => l.addr + l.len)

/-- The addresses that a task reaches from a list of addresses (R117). -/
def reachFrom (is : List InsF) : Nat → List Nat → List Nat → List Nat
  | 0, seen, _ => seen
  | _ + 1, seen, [] => seen
  | n + 1, seen, a :: todo =>
    if seen.contains a then reachFrom is n seen todo
    else match insAt is a with
      | none => reachFrom is n seen todo
      | some i => reachFrom is n (a :: seen) (i.next is ++ todo)

/-- The words that a task reaches. -/
def TaskF.reach (t : TaskF) (is : List InsF) : List Nat := reachFrom is 4096 [] [t.entry]

/-- The entry of the opcode map that an instruction's opcode and F select (R114, R115). -/
def InsF.entry (i : InsF) : Option Entry :=
  ((rowsOf (BitVec.ofNat 8 i.op)).find? (fun r => r.e.fsel i.o.f)).map (fun r => r.e)

/-- The codes of the checks that an instruction fails whatever task reaches it. -/
def InsF.codes (i : InsF) : List Nat :=
  if rowsOf (BitVec.ofNat 8 i.op) matches [] then [0x10]
  else match i.entry with
    | none => [0x11]
    | some e => e.codes i.o

/-- Whether a port operand is an input port of a task that is declared at another rate than 0 (R189). -/
def TaskF.mergeBad (t : TaskF) : Opd → Bool
  | .inp n => t.rate n.toNat != 0
  | _ => false

/-- The codes of the checks that depend on a task (R110, R111, R116, R157, R188, R189). -/
def InsF.taskCodes (i : InsF) (t : TaskF) : List Nat :=
  (match i.entry with
   | none => []
   | some e => e.taskCodes i.o t.ctl t.bound (fun n => t.bound (8 + n))) ++
  (if i.op = 0x76 && (t.mergeBad i.o.a || t.mergeBad i.o.b) then [0x13] else []) ++
  (if i.op = 0x75 && i.o.form ≠ .s && !t.bound (8 + i.o.imm12.toNat % 8) then [0x13] else []) ++
  (if (i.op = 0x80 || i.op = 0x81) && ((i.o.imm10 = 4 && t.ctl) || (i.o.imm10 = 9 && !t.ctl)) then [0x16] else [])

/-- The check of an ENTRY (R117, code 0x17): it names the frame that holds the store word at ENTRY, or the task frame where no
such word is loaded (log entry 15). -/
def entryErr (ws : List WordF) (t : TaskF) : LErr := (0x17, ((ws.find? (fun w => w.addr == t.entry)).map (fun w => w.frame)).getD t.frame, t.entry)

/-- The checks of one PE: its words, and the tasks that its slots hold. -/
def peErrs (ws : List WordF) (ts : List TaskF) : List LErr :=
  let r := decodeRange 512 ws
  let gaps := wordGaps 0 ws
  let undecoded := if gaps.isEmpty then r.2.toList else gaps
  if !undecoded.isEmpty then undecoded.map (fun w => (0x0A, w.frame, w.addr))
  else
    targetErrs r.1 ++ lastErrs r.1 ++
    r.1.flatMap (fun i =>
      (i.codes ++ (ts.filter (fun t => (t.reach r.1).contains i.addr)).flatMap i.taskCodes).map (fun c => (c, i.frame, i.addr))) ++
    (ts.filter (fun t => (insAt r.1 t.entry).isNone)).map (entryErr ws)

/-- The PEs that an image loads or configures. -/
def imgPes (fs : List (Nat × Nat)) : List Coord :=
  ((imgTasks fs).map (fun t => peSlot t.key 0) ++ (imgWords fs).map (fun w => w.pe)).eraseDups

/-- The checks of every store of an image. -/
def storeErrs (fs : List (Nat × Nat)) : List LErr :=
  (imgPes fs).flatMap (fun pe =>
    peErrs (peWords (imgWords fs) pe) ((imgTasks fs).filter (fun t => peSlot t.key 0 == pe)))

/-- The checks made on the frames themselves and the stores they fill (R118, R119, codes 0x01 to 0x17); a store is examined once
nothing of a lower code has failed. -/
def imageErrs (fs : List (Nat × Nat)) (nfr : Nat) : List LErr :=
  let es := fs.flatMap (fun f => frameErrs f.1 f.2) ++ twiceErrs [] fs ++ endErrs fs nfr
  if es.isEmpty then storeErrs fs else es

end Sys2Proof.Machine
end

