-- ==== Sys2Proof/Machine/Route.lean ====
section
/-! DEFINITION. Routes, channels, sequencer programs and links of an image, in image coordinates (R42, R97 to R100, R338), with
the load error codes 0x20, 0x21, 0x23 and 0x24 of R118. An end of a link names image coordinates here: task ports by theirs,
islands as 16 times the image die plus n, memory tiles as 384 times the image die plus the tile, edge units as R418 numbers
those of the die. -/

namespace Sys2Proof.Machine

open Sys2Proof

/-! ### Sequencer programs (R100) -/

/-- A program entry of a memory tile: its index, its word, and the frame and frame word that hold it. -/
structure SeqW where
  idx   : Nat
  word  : Nat
  frame : Nat
  pos   : Nat

/-- An elastic stage of an image: its MT, its input channel and capacity, its replicas, their dealing and collecting channels as
(replica, tile, channel), and the frame and word of its ELAS entry. -/
structure StageF where
  die   : Nat
  tile  : Nat
  stg   : Nat
  qvc   : Nat
  cap   : Nat
  reps  : Nat
  deals : List (Nat × Nat × Nat)
  colls : List (Nat × Nat × Nat)
  frame : Nat
  pos   : Nat

/-- A streamer node of an image (R55, R100). -/
structure StrmF where
  die   : Nat
  tile  : Nat
  port  : Nat
  win   : Nat
  vc    : Nat
  sect  : Nat
  frame : Nat

/-- The program entries of an MT in ascending index. -/
def seqWords (fs : List (Nat × Nat)) (die tile : Nat) : List SeqW :=
  let ws := (fs.filter (fun f => f.2 % 256 == 5 && (Hdr.of f.2).die == die && (Hdr.of f.2).tile == tile)).flatMap (fun f =>
    (List.range (bits f.2 42 40)).map (fun j => (⟨bits f.2 39 32 + j, bits f.2 (32 * j + 95) (32 * j + 64), f.1, j + 2⟩ : SeqW)))
  (List.range 256).filterMap (fun k => ws.find? (fun w => w.idx == k))

/-- The entries of a program that do not stand where the entries before them end (R100); a gap is named at the entry past it
(log entry 15). -/
def seqGaps : Nat → List SeqW → List SeqW
  | _, [] => []
  | a, w :: ws => (if w.idx = a then [] else [w]) ++ seqGaps (w.idx + 1) ws

/-- A path entry: its replica, tile and channel. -/
def SeqW.path (w : SeqW) : Nat × Nat × Nat := (bits w.word 27 26, bits w.word 25 16, bits w.word 15 10)

/-- What a sequencer program lists (R100): its stages, its streamer nodes, and the entries that break a rule. -/
structure Prog where
  stages : List StageF := []
  strms  : List StrmF := []
  errs   : List SeqW := []

/-- The names of an ELAS entry: the stage it opens, no path read yet. -/
def SeqW.stage (w : SeqW) (die tile : Nat) : StageF :=
  { die := die, tile := tile, stg := bits w.word 27 20, qvc := bits w.word 16 11, cap := bits w.word 10 7, reps := bits w.word 19 17,
    deals := [], colls := [], frame := w.frame, pos := w.pos }

/-- Whether a path entry has no place in the stage it follows (R100): no stage, a REP value out of range or named before, a tile
that is no CT, a bit that must be zero. -/
def SeqW.pathBad (w : SeqW) (deal : Bool) : Option StageF → Bool
  | none => true
  | some g => g.reps ≤ w.path.1 || (if deal then g.deals else g.colls).any (fun x => x.1 == w.path.1) || bits w.word 9 0 ≠ 0 ||
      !tcCt w.path.2.1

/-- A stage with one more path. -/
def StageF.path (g : StageF) (deal : Bool) (p : Nat × Nat × Nat) : StageF :=
  if deal then { g with deals := g.deals ++ [p] } else { g with colls := g.colls ++ [p] }

/-- Whether a stage whose paths are read has a wrong number of them (R100): one DEAL entry for each replica, and one COLL entry for
each or none. -/
def StageF.miscounted (g : StageF) : Bool := g.deals.length ≠ g.reps || !(g.colls.isEmpty || g.colls.length = g.reps)

/-- A program with an entry among those that fail, when it does. -/
def Prog.blame (r : Prog) (w : SeqW) (bad : Bool) : Prog := if bad then { r with errs := w :: r.errs } else r

/-- A program with the stage that an entry closes. A wrong number of DEAL or COLL entries is named at that entry: the ELAS, STRM or
END that follows the paths, or the last entry (the model's choice, log entry 15). -/
def Prog.close (r : Prog) (w : SeqW) : Option StageF → Prog
  | none => r
  | some g => ({ r with stages := g :: r.stages } : Prog).blame w g.miscounted

/-- A program read from an entry on (R100), with the stage whose paths are being read and the entry before. Every entry is read,
also past one that fails (R119): a stage, a path or a node that breaks a rule stands as it reads (log entry 15). -/
def readProg (die tile : Nat) : Option StageF → Option SeqW → List SeqW → Prog
  | g, prev, [] => match prev with
    | none => {}
    | some w => ((({} : Prog).blame w true).close w g)
  | g, _, w :: ws =>
    let v := w.word
    match bits v 31 28 with
    | 0 => (({ errs := ws } : Prog).blame w (bits v 27 0 ≠ 0)).close w g
    | 1 =>
      let reps := bits v 19 17
      ((readProg die tile (some (w.stage die tile)) (some w) ws).blame w
        (reps = 0 || 4 < reps || bits v 10 7 = 0 || bits v 6 0 ≠ 0)).close w g
    | 2 => (readProg die tile (g.map (fun x => x.path true w.path)) (some w) ws).blame w (w.pathBad true g)
    | 3 => (readProg die tile (g.map (fun x => x.path false w.path)) (some w) ws).blame w (w.pathBad false g)
    | 4 =>
      let r := (readProg die tile none (some w) ws).blame w (bits v 13 0 ≠ 0)
      ({ r with strms := ⟨die, tile, bits v 27 25, bits v 24 22, bits v 21 16, bits v 15 14, w.frame⟩ :: r.strms } : Prog).close w g
    | _ => (readProg die tile g (some w) ws).blame w true

/-- The memory tiles of an image that hold a sequencer program. -/
def seqTiles (fs : List (Nat × Nat)) : List (Nat × Nat) :=
  ((fs.filter (fun f => f.2 % 256 == 5)).map (fun f => ((Hdr.of f.2).die, (Hdr.of f.2).tile))).eraseDups

/-- The program of a memory tile. -/
def progOf (fs : List (Nat × Nat)) (dt : Nat × Nat) : Prog := readProg dt.1 dt.2 none none (seqWords fs dt.1 dt.2)

/-- The entries of a program at which a check fails (R100, R118). -/
def progErrs (fs : List (Nat × Nat)) (dt : Nat × Nat) : List LErr :=
  (seqGaps 0 (seqWords fs dt.1 dt.2) ++ (progOf fs dt).errs).map (fun w => (0x24, w.frame, w.pos))

/-- The stages of an image. -/
def imgStages (fs : List (Nat × Nat)) : List StageF := (seqTiles fs).flatMap (fun dt => (progOf fs dt).stages)
/-- The streamer nodes of an image. -/
def imgStrms (fs : List (Nat × Nat)) : List StrmF := (seqTiles fs).flatMap (fun dt => (progOf fs dt).strms)

/-- The number of a memory tile in image coordinates. -/
def imgMt (die tile : Nat) : Nat := 384 * die + tile

/-! ### Ports on channels (R96, R97) -/

/-- The bound port of a task that a channel of a tile carries, among inputs or among outputs: the task and the port. -/
def portOn (ts : List TaskF) (out : Bool) (die tile vc : Nat) : Option (TaskF × Nat) :=
  ts.findSome? (fun t =>
    if t.key.die.toNat = die && t.key.tile.toNat = tile then
      ((List.range 8).find? (fun k => let p := if out then 8 + k else k
                                      t.bound p && t.vc p == vc)).map (fun k => (t, k))
    else none)

/-- The end of a task port. -/
def TaskF.endOf (t : TaskF) (k : Nat) : End := .task t.key (BitVec.ofNat 3 k)

/-- A receiving channel of an image: its unit, its channel, its end, and the frame that declares it. -/
structure RecvF where
  die   : Nat
  code  : Nat
  vc    : Nat
  dst   : End
  frame : Nat

/-- The islands that an image binds: frame and body. -/
def imgIslands (fs : List (Nat × Nat)) : List (Nat × Nat) := fs.filter (fun f => f.2 % 256 == 7)

/-- The number of an island in image coordinates. -/
def imgIsl (v : Nat) : Nat := 16 * (Hdr.of v).die + ((Hdr.of v).tile - 512)

/-- The receiving channels of an image: bound input ports, stage queues, island channels. -/
def imgRecvs (fs : List (Nat × Nat)) : List RecvF :=
  (imgTasks fs).flatMap (fun t => ((List.range 8).filter t.bound).map (fun k =>
    ⟨t.key.die.toNat, t.key.tile.toNat, t.vc k, t.endOf k, t.frame⟩)) ++
  (imgStages fs).map (fun g => ⟨g.die, g.tile, g.qvc, .queue (imgMt g.die g.tile) g.stg, g.frame⟩) ++
  (imgIslands fs).flatMap (fun f =>
    let h := Hdr.of f.2
    [⟨h.die, h.tile, bits f.2 45 40, .island (imgIsl f.2) 0, f.1⟩, ⟨h.die, h.tile, bits f.2 51 46, .island (imgIsl f.2) 1, f.1⟩])

/-- The receiving channel at a unit and virtual channel. -/
def recvAt (rs : List RecvF) (die code vc : Nat) : Option RecvF := rs.find? (fun r => r.die == die && r.code == code && r.vc == vc)

/-- Channels that carry two bound ports, or two receiving channels (R97): the later frame. -/
def sharedErrs : List (List Nat × Nat) → List (List Nat × Nat) → List LErr
  | _, [] => []
  | seen, (k, i) :: xs =>
    (match seen.find? (fun y => y.1 == k) with
     | some y => [(0x23, max i y.2, 0)]
     | none => []) ++ sharedErrs ((k, i) :: seen) xs

/-- The channels of an image that may carry one port or one receiver only. -/
def imgChannels (fs : List (Nat × Nat)) : List (List Nat × Nat) :=
  (imgTasks fs).flatMap (fun t => ((List.range 16).filter t.bound).map (fun p =>
    ([t.key.die.toNat, t.key.tile.toNat, t.vc p], t.frame))) ++
  ((imgRecvs fs).filter (fun r => 384 ≤ r.code || isMt r.code)).map (fun r => ([r.die, r.code, r.vc], r.frame))

/-! ### Routers (R98) -/

/-- A route entry in use. -/
structure RouteE where
  die   : Nat
  code  : Nat
  din   : Nat
  ivc   : Nat
  dout  : Nat
  ovc   : Nat
  ifx   : Nat
  ofx   : Nat
  frame : Nat

/-- The route entries of an image. -/
def imgRoutes (fs : List (Nat × Nat)) : List RouteE :=
  (fs.filter (fun f => f.2 % 256 == 3)).flatMap (fun f => (List.range 7).filterMap (fun k =>
    let e := routeEntry f.2 k
    let h := Hdr.of f.2
    if bit e 31 then some ⟨h.die, h.tile, bits e 26 24, bits e 23 18, bits e 17 15, bits e 14 9, bits e 8 7, bits e 6 5, f.1⟩
    else none))

/-- The die that a bridge tile leads to. -/
def bridgeTo (die tile : Nat) : Option Nat :=
  if tile = 24 * 7 then some ((die + 1) % 4) else if tile = 24 * 8 then some ((die + 2) % 4)
  else if tile = 24 * 7 + 23 then some ((die + 3) % 4) else none

/-- The bridge tile of a die that leads to another. -/
def bridgeTile (die other : Nat) : Nat :=
  if (other + 4 - die) % 4 = 1 then 24 * 7 else if (other + 4 - die) % 4 = 2 then 24 * 8 else 24 * 7 + 23

/-- The place of a value in a list. -/
def placeIn (x : Nat) : List Nat → Nat
  | [] => 0
  | y :: ys => if x = y then 0 else placeIn x ys + 1

/-- Where a departure leads: the next router, and the arrival direction and facing index there. -/
def nextHop (die code dir fx : Nat) : Option (Nat × Nat × Nat × Nat) :=
  let y := code / 24
  let x := code % 24
  if dir = 6 then ((facing code)[fx]?).map (fun c => (die, c, 6, placeIn code (facing c)))
  else if 384 ≤ code then none
  else match dir with
    | 1 => if 0 < y then some (die, code - 24, 3, 0) else none
    | 2 => if x < 23 then some (die, code + 1, 4, 0) else none
    | 3 => if y < 15 then some (die, code + 24, 1, 0) else none
    | 4 => if 0 < x then some (die, code - 1, 2, 0) else none
    | 5 => (bridgeTo die code).map (fun d => (d, bridgeTile d die, 5, 0))
    | _ => none

/-- The path from an arrival at a router: where it ends, and the entries it passes; none at the end when it leads nowhere. -/
def tracePath (rs : List RouteE) : Nat → Nat → Nat → Nat → Nat → Nat → Option (Nat × Nat × Nat) × List RouteE
  | 0, _, _, _, _, _ => (none, [])
  | n + 1, die, code, din, fx, vc =>
    match rs.find? (fun e => e.die == die && e.code == code && e.din == din && e.ivc == vc) with
    | none => (none, [])
    | some e =>
      if din = 6 && e.ifx ≠ fx then (none, [])
      else if e.dout = 0 then (some (die, code, e.ovc), [e])
      else match nextHop die code e.dout e.ofx with
        | none => (none, [e])
        | some (d, c, dir, fx) =>
          let r := tracePath rs n d c dir fx e.ovc
          (r.1, e :: r.2)

/-- Entries that route an arrival or use a departure that an earlier entry of the router has (R98). -/
def routerErrs (rs : List RouteE) : List LErr :=
  sharedErrs [] (rs.map (fun e => ([e.die, e.code, e.din, e.ivc], e.frame))) ++
  sharedErrs [] (rs.map (fun e => ([e.die, e.code, e.dout, e.ovc], e.frame)))

/-! ### Links -/

/-- A producing channel of an image: its unit and channel, its end when it is one that the fabric drives, and the frame
that declares it. -/
structure SrcF where
  die   : Nat
  code  : Nat
  vc    : Nat
  src   : Option End
  frame : Nat

/-- The COLL channel whose route is the leaving link of a stage: that of the lowest replica that has one. -/
def StageF.leaving (g : StageF) (rs : List RouteE) : Option (Nat × Nat × Nat) :=
  (List.range 4).findSome? (fun r => g.colls.find? (fun c => c.1 == r &&
    rs.any (fun e => e.die == g.die && e.code == c.2.1 && e.din == 0 && e.ivc == c.2.2)))

/-- The stage and replica whose collecting channel a tile's channel is. -/
def collOf (gs : List StageF) (die tile vc : Nat) : Option (StageF × Nat) :=
  gs.findSome? (fun g => if g.die = die then (g.colls.find? (fun c => c.2.1 == tile && c.2.2 == vc)).map (fun c => (g, c.1)) else none)

/-- The producing channels of an image. -/
def imgSrcs (fs : List (Nat × Nat)) : List SrcF :=
  let gs := imgStages fs
  let rs := imgRoutes fs
  (imgTasks fs).flatMap (fun t => ((List.range 8).filter (fun k => t.bound (8 + k))).filterMap (fun k =>
    let d := t.key.die.toNat
    let c := t.key.tile.toNat
    let vc := t.vc (8 + k)
    match collOf gs d c vc with
    | none => some ⟨d, c, vc, some (t.endOf k), t.frame⟩
    | some (g, r) =>
      if (g.leaving rs).map (fun x => x.1) = some r then some ⟨d, c, vc, some (.leave (imgMt g.die g.tile) g.stg), t.frame⟩
      else if rs.any (fun e => e.die == d && e.code == c && e.din == 0 && e.ivc == vc) then some ⟨d, c, vc, none, t.frame⟩
      else if r = 0 && (g.leaving rs).isNone then some ⟨d, c, vc, some (.leave (imgMt g.die g.tile) g.stg), t.frame⟩ else none)) ++
  (imgIslands fs).map (fun f => ⟨(Hdr.of f.2).die, (Hdr.of f.2).tile, bits f.2 57 52, some (.island (imgIsl f.2) 2), f.1⟩) ++
  (imgStrms fs).map (fun x => ⟨x.die, x.tile, x.vc, some (.stream (imgMt x.die x.tile) x.port), x.frame⟩) ++
  (rs.filter (fun e => 640 ≤ e.code && e.din == 0)).map (fun e => ⟨e.die, e.code, e.ivc, some (.edge (edgeNum e.die e.code) e.ivc), e.frame⟩)

/-- Whether a producing channel must have a route (R98): a bound output port, or the leaving port of a stage. -/
def SrcF.mustRoute (x : SrcF) : Bool := x.code < 384 && !isMt x.code

/-- A link of an image: its ends, the route entries it passes, and the frame of its producer. -/
structure LinkF where
  src   : Option End
  dst   : Option RecvF
  path  : List RouteE
  frame : Nat

/-- The highest route frame of a path. -/
def topFrame (es : List RouteE) : Nat := es.foldl (fun m e => max m e.frame) 0

/-- A producing channel traced: its link, or its failure. A path may end at any channel of a syntax engine or an L2 slice; one that
ends at an island channel that no binding frame names is rejected (log entry 10). -/
def SrcF.trace (rs : List RouteE) (vs : List RecvF) (x : SrcF) : Option LinkF × List LErr :=
  if !rs.any (fun e => e.die == x.die && e.code == x.code && e.din == 0 && e.ivc == x.vc) then
    (none, if x.mustRoute then [(0x23, x.frame, 0)] else [])
  else
    let r := tracePath rs (rs.length + 1) x.die x.code 0 0 x.vc
    match r.1 with
    | none => (none, [(0x23, topFrame r.2, 0)])
    | some (d, c, vc) =>
      match recvAt vs d c vc with
      | some v => (some ⟨x.src, some v, r.2, x.frame⟩, [])
      | none =>
        if 640 ≤ c then (some ⟨x.src, some ⟨d, c, vc, .edge (edgeNum d c) vc, topFrame r.2⟩, r.2, x.frame⟩, [])
        else (none, [(0x23, topFrame r.2, 0)])

/-- The links of an image. -/
def imgLinks (fs : List (Nat × Nat)) : List LinkF :=
  (imgSrcs fs).filterMap (fun x => (x.trace (imgRoutes fs) (imgRecvs fs)).1)

/-- Two paths into one receiving channel (R98): `xs` lists the receiving end of every path with the frame that holds it. -/
def meetErrs : List (End × Nat) → List LErr
  | [] => []
  | x :: xs => ((xs.filter (fun y => y.1 == x.1)).map (fun y => (0x23, max x.2 y.2, 0))) ++ meetErrs xs

/-- The receiving ends of the routed links, each with the highest frame of its path. -/
def linkEnds (ls : List LinkF) : List (End × Nat) :=
  ls.filterMap (fun l => l.dst.map (fun v => (v.dst, topFrame l.path)))

/-- The receiving ends that the dealing paths of the stages reach, with the frame of the ELAS entry. -/
def dealEnds (ts : List TaskF) (gs : List StageF) : List (End × Nat) :=
  gs.flatMap (fun g => g.deals.filterMap (fun d => (portOn ts false g.die d.2.1 d.2.2).map (fun tk => (tk.1.endOf tk.2, g.frame))))

/-- The entry of a path as a key. -/
def RouteE.key (e : RouteE) : List Nat := [e.die, e.code, e.din, e.ivc]

/-- Route entries that no path passes, and bound input ports that no path reaches (R98). -/
def unusedErrs (fs : List (Nat × Nat)) (ls : List LinkF) : List LErr :=
  let rs := imgRoutes fs
  let used := (imgSrcs fs).flatMap (fun x => (tracePath rs (rs.length + 1) x.die x.code 0 0 x.vc).2.map (fun e => e.key ++ [e.frame]))
  let reached := (linkEnds ls ++ dealEnds (imgTasks fs) (imgStages fs)).map (fun x => x.1)
  ((rs.filter (fun e => !used.contains (e.key ++ [e.frame]))).map (fun e => (0x23, e.frame, 0))) ++
  (imgTasks fs).flatMap (fun t => ((List.range 8).filter (fun k => t.bound k && !reached.contains (t.endOf k))).map (fun _ => (0x23, t.frame, 0)))

/-! ### Command ports (R338) -/

/-- The output ports that feed command instructions of a task. -/
def cmdPorts (fs : List (Nat × Nat)) (t : TaskF) : List Nat :=
  let is := (decodeRange 512 (peWords (imgWords fs) (peSlot t.key 0))).1
  let seen := t.reach is
  (is.filterMap (fun i => match i.o.d with
    | .alt n => if 0xD8 ≤ i.op && i.op ≤ 0xDC && seen.contains i.addr then some n.toNat else none
    | _ => none)).eraseDups

/-- Command ports that are not linked to a cmd channel (R338). -/
def cmdErrs (fs : List (Nat × Nat)) (ls : List LinkF) : List LErr :=
  (imgTasks fs).flatMap (fun t => ((cmdPorts fs t).filter (fun k => t.bound (8 + k))).filterMap (fun k =>
    match ls.find? (fun l => l.src == some (t.endOf k)) with
    | none => some (0x23, t.frame, 0)
    | some l =>
      match l.dst with
      | some v => (match v.dst with
        | .island _ 0 => none
        | _ => some (0x23, max (topFrame l.path) (max t.frame v.frame), 0))
      | none => some (0x23, max (topFrame l.path) t.frame, 0)))

/-! ### Slot counts (R42, R99) -/

/-- A slot-count entry in use. -/
structure SlotE where
  die   : Nat
  code  : Nat
  vc    : Nat
  slots : Nat
  frame : Nat
  pos   : Nat

/-- The slot-count entries of an image. -/
def imgSlots (fs : List (Nat × Nat)) : List SlotE :=
  (fs.filter (fun f => f.2 % 256 == 4)).flatMap (fun f => (List.range 14).filterMap (fun k =>
    let e := slotEntry f.2 k
    let h := Hdr.of f.2
    if bit e 15 then some ⟨h.die, h.tile, bits e 5 0, bits e 9 6, f.1, 1 + k / 2⟩ else none))

/-- The slot-count entry of a receiving channel. -/
def slotOf (es : List SlotE) (v : RecvF) : Option SlotE := es.find? (fun e => e.die == v.die && e.code == v.code && e.vc == v.vc)

/-- The task of an image at given coordinates. -/
def taskAt (ts : List TaskF) (c : Coord) : Option TaskF := ts.find? (fun t => t.key == c)

/-- The tokens that a firing of a dealing path's receiving task takes (R51). -/
def dealNeed (ts : List TaskF) (g : StageF) (d : Nat × Nat × Nat) : Nat :=
  match portOn ts false g.die d.2.1 d.2.2 with
  | some (t, k) => t.rate k
  | none => 0

/-- The rates that a link's slot count is tested against at one end (R42): at a marker-keyed output port its bound b, which makes 1
fit a zero-slot link (the model's choice, log entry 16). -/
def endRates (ts : List TaskF) (gs : List StageF) (out : Bool) : End → List Nat
  | .task c k => ((taskAt ts c).map (fun t => t.rate (if out then 8 + k.toNat else k.toNat))).toList
  | .queue u g => (gs.filter (fun x => imgMt x.die x.tile == u && x.stg == g)).flatMap (fun x => x.deals.map (dealNeed ts x))
  | .leave u g => (gs.filter (fun x => imgMt x.die x.tile == u && x.stg == g)).flatMap (fun x => x.colls.filterMap (fun c =>
      (portOn ts true x.die c.2.1 c.2.2).map (fun tk => tk.1.rate (8 + tk.2))))
  | .island _ _ => [1]
  | .stream _ _ => [1]
  | .edge _ _ => [1]
  | .deal _ _ _ => []
  | .coll _ _ _ => []

/-- The slot count of a link. -/
def LinkF.slots (es : List SlotE) (l : LinkF) : Nat := ((l.dst.bind (slotOf es)).map (fun e => e.slots)).getD 0

/-- The check of a link's slot count against the rates at its ends (R42): at the word of the slot entry, or at word 0 of the frame that
declares the receiving channel where there is none (the model's choice, log entry 15). -/
def rateErrs (ts : List TaskF) (gs : List StageF) (es : List SlotE) (l : LinkF) : List LErr :=
  match l.dst with
  | none => []
  | some v =>
    let rates := ((l.src.map (endRates ts gs true)).getD []) ++ endRates ts gs false v.dst
    let n := l.slots es
    if if n = 0 then rates.all (fun r => r == 1) else rates.all (fun r => r ≤ n) then []
    else match slotOf es v with
      | some e => [(0x20, e.frame, e.pos)]
      | none => [(0x20, v.frame, 0)]

/-- The node that an end belongs to, for cycles of links. -/
def endNode : End → List Nat
  | .task c _ => [0, coordNum c]
  | .island n _ => [1, n]
  | .stream u k => [2, u, k]
  | .queue u g => [3, u, g]
  | .deal u g _ => [3, u, g]
  | .coll u g _ => [3, u, g]
  | .leave u g => [3, u, g]
  | .edge e _ => [4, e]

/-- Edges that can lie on a cycle: those between edges, pruned as often as there are edges. -/
def pruneEdges : Nat → List (List Nat × List Nat) → List (List Nat × List Nat)
  | 0, es => es
  | n + 1, es => pruneEdges n (es.filter (fun e => es.any (fun f => f.2 == e.1) && es.any (fun f => f.1 == e.2)))

/-- Whether edges hold a cycle. -/
def hasCycle (es : List (List Nat × List Nat)) : Bool := !(pruneEdges es.length es).isEmpty

/-- The zero-slot links of an image as edges, with the highest frame of each. -/
def zeroEdges (es : List SlotE) (ls : List LinkF) : List (List Nat × List Nat × Nat) :=
  ls.filterMap (fun l => match l.src, l.dst with
    | some a, some v => if l.slots es = 0 then some (endNode a, endNode v.dst, max (topFrame l.path) (max l.frame v.frame)) else none
    | _, _ => none)

/-- A cycle of zero-slot links (R42): the lowest frame that is the highest on some cycle. -/
def cycleErrs (zs : List (List Nat × List Nat × Nat)) : List LErr :=
  (((zs.map (fun z => z.2.2)).filter (fun t => hasCycle ((zs.filter (fun z => z.2.2 ≤ t)).map (fun z => (z.1, z.2.1))))).map
    (fun t => (0x21, t, 0)))

/-! ### Stages against tasks and links (R100) -/

/-- The checks of a stage: its dealing and collecting channels, its capacity, its identifier; each names the ELAS entry, and
of two entries with one STG the later by frame, then by word (the model's choice, log entry 15). -/
def stageErrs (ts : List TaskF) (es : List SlotE) (gs : List StageF) (g : StageF) : List LErr :=
  let bad : LErr := (0x24, g.frame, g.pos)
  (if g.deals.all (fun d => 1 ≤ dealNeed ts g d) then [] else [bad]) ++
  (if g.colls.all (fun c => (portOn ts true g.die c.2.1 c.2.2).isSome) then [] else [bad]) ++
  (if (es.find? (fun e => e.die == g.die && e.code == g.tile && e.vc == g.qvc)).any (fun e => e.slots == g.cap) then [] else [bad]) ++
  (if gs.any (fun x => x.stg == g.stg && (x.frame < g.frame || (x.frame == g.frame && x.pos < g.pos))) then [bad] else [])

/-- The checks of routes, channels, programs and slot counts (R118, codes 0x20 to 0x24). -/
def netErrs (fs : List (Nat × Nat)) : List LErr :=
  let ts := imgTasks fs
  let gs := imgStages fs
  let rs := imgRoutes fs
  let es := imgSlots fs
  let ls := imgLinks fs
  (seqTiles fs).flatMap (progErrs fs) ++ gs.flatMap (stageErrs ts es gs) ++
  sharedErrs [] (imgChannels fs) ++ routerErrs rs ++
  (imgSrcs fs).flatMap (fun x => (x.trace rs (imgRecvs fs)).2) ++
  meetErrs (linkEnds ls ++ dealEnds ts gs) ++ unusedErrs fs ls ++ cmdErrs fs ls ++
  ls.flatMap (rateErrs ts gs es) ++ cycleErrs (zeroEdges es ls)

end Sys2Proof.Machine
end

