-- ==== Sys2Proof/Machine/Place.lean ====
section
/-! DEFINITION. The placement of an image (R106, R107) with load error 0x22, its declared regions (R103, R357) with load error
0x25, and the check of REPL (R53). -/

namespace Sys2Proof.Machine

open Sys2Proof

/-- A placement in the making: image dies with the candidate taken and its register. -/
abbrev Placed := List (Nat × Nat × Dword)

/-- The register of a placed image die. -/
def Placed.reg (pl : Placed) (die : Nat) : Option Dword := (pl.find? (fun x => x.1 == die)).map (fun x => x.2.2)

/-- The physical die and TILE code to which a candidate maps a TILE code (R106). -/
def mapCode (reg : Dword) (code : Nat) : Option (Nat × Nat) :=
  if code < 384 then mapTile reg code
  else if code < 528 then (mapIsland reg (code - 512)).map (fun x => (x.1, 512 + x.2))
  else if code < 648 then (mapEngine reg (code - 640)).map (fun x => (x.1, 640 + x.2))
  else some (bits reg.toNat 49 48, code)

/-- The unit numbers of R418 to which a mapped TILE code belongs; L2 slices have none. -/
def codeUnits (die code : Nat) : List Nat :=
  if code < 384 then [unitOf die code]
  else if code < 528 then [768 + 16 * die + (code - 512)]
  else if code < 648 then [832 + 8 * die + (code - 640)]
  else []

/-- The image dies that an image names, in ascending order; a row clock divider frame names its die too (log entry 15). -/
def imgDies (fs : List (Nat × Nat)) : List Nat :=
  (List.range 4).filter (fun d => fs.any (fun f => f.2 % 256 != 15 && (Hdr.of f.2).die == d))

/-- The TILE codes that an image names on an image die. -/
def imgCodes (fs : List (Nat × Nat)) (die : Nat) : List Nat :=
  ((fs.filter (fun f => f.2 % 256 != 9 && f.2 % 256 != 15 && (Hdr.of f.2).die == die)).map (fun f => (Hdr.of f.2).tile)).eraseDups

/-- Whether a direction at a router remains valid under a placement (R106): it leads to the mapped image of its original
target, which keeps its facing index. A target whose die is not placed yet is tested when it is. -/
def hopKept (pl : Placed) (die code dir fx : Nat) : Bool :=
  if dir = 0 then true
  else match nextHop die code dir fx with
    | none => true
    | some (d, c, _, x) =>
      match (pl.reg die).bind (fun r => mapCode r code) with
      | none => false
      | some (pd, pc) =>
        match nextHop pd pc dir fx with
        | none => false
        | some (qd, qc, _, y) =>
          match pl.reg d with
          | none => true
          | some r => mapCode r c == some (qd, qc) && x == y

/-- Whether every route of the placed dies remains valid. -/
def routesKept (pl : Placed) (rs : List RouteE) : Bool :=
  rs.all (fun e => (pl.reg e.die).isNone || (hopKept pl e.die e.code e.din e.ifx && hopKept pl e.die e.code e.dout e.ofx))

/-- Whether a unit can hold part of a forme of a partition (R33, R106, R278). -/
def State.unitFree (s : State) (q : Part) (u : Nat) : Bool :=
  let x := tget {} s.sys.units u
  q.has u && !x.fenced && !x.absent

/-- The units to which a candidate maps the codes named, when every one exists. -/
def mapUnits (reg : Dword) (codes : List Nat) : Option (List Nat) :=
  match codes with
  | [] => some []
  | c :: cs =>
    match mapCode reg c, mapUnits reg cs with
    | some (d, c), some us => some (codeUnits d c ++ us)
    | _, _ => none

/-- Whether a candidate is usable for an image die after the dies placed before it (R106); `taken` are their units. -/
def State.usable (s : State) (q : Part) (fs : List (Nat × Nat)) (pl : Placed) (taken : List Nat) (die : Nat) (k : Nat) : Option (List Nat) :=
  let reg := q.placeReg die k
  let even (w v : Nat) : Bool := signed w v % 2 == 0
  if !bit reg.toNat 63 || !even 5 (bits reg.toNat 20 16) || !even 6 (bits reg.toNat 5 0) then none
  else match mapUnits reg (imgCodes fs die) with
    | none => none
    | some us =>
      if us.all (fun u => s.unitFree q u && !taken.contains u) && routesKept ((die, k, reg) :: pl) (imgRoutes fs) then some us else none

/-- The image dies placed in order, or the first that has no usable candidate (R106). -/
def State.placeDies (s : State) (q : Part) (fs : List (Nat × Nat)) : List Nat → Placed → List Nat → Except Nat Placed
  | [], pl, _ => .ok pl
  | d :: ds, pl, taken =>
    match (List.range 4).findSome? (fun k => (s.usable q fs pl taken d k).map (fun us => (k, us))) with
    | none => .error d
    | some (k, us) => s.placeDies q fs ds ((d, k, q.placeReg d k) :: pl) (us ++ taken)

/-- The placement of an image (R106). -/
def State.place (s : State) (q : Part) (fs : List (Nat × Nat)) : Except Nat Placed := s.placeDies q fs (imgDies fs) [] []

/-! ### Declared regions (R103, R357) -/

/-- The lines of a region declaration. -/
def regionLines (v : Nat) : Nat := 1 + 2 ^ (bits v 36 33 - (if bit v 32 then 1 else 2))

/-- The first line of a region declaration and the line past its last. -/
def regionSpan (v : Nat) : Nat × Nat := (bits v 61 48, bits v 61 48 + regionLines v)

/-- Whether two region declarations overlap: one tile, and lines in common. -/
def regionsMeet (v w : Nat) : Bool :=
  (Hdr.of v).die == (Hdr.of w).die && (Hdr.of v).tile == (Hdr.of w).tile && (regionSpan v).1 < (regionSpan w).2 &&
    (regionSpan w).1 < (regionSpan v).2

/-- The scratchpad lines of the placed MT that a region declaration names. -/
def State.regionRoom (s : State) (pl : Placed) (v : Nat) : Nat :=
  match (pl.reg (Hdr.of v).die).bind (fun r => mapTile r (Hdr.of v).tile) with
  | some (d, t) => 1024 * (s.mt (unitOf d t)).mtcfg
  | none => 0

/-- The region declarations of an image that fail: past the scratchpad of their placed MT, or with lines in common with another
declaration, which then fail both. -/
def State.regionErrs (s : State) (pl : Placed) (fs : List (Nat × Nat)) : List LErr :=
  let rs := fs.filter (fun f => f.2 % 256 == 8)
  (rs.filter (fun f => s.regionRoom pl f.2 < (regionSpan f.2).2 || rs.any (fun g => g.1 != f.1 && regionsMeet f.2 g.2))).map
    (fun f => (0x25, f.1, 0))

/-- The check of REPL against the stage that RSTG names (R53). -/
def replErrs (fs : List (Nat × Nat)) (ridx : Nat) (rec : BitVec 512) : List LErr :=
  let repl := (rec.extractLsb' 384 3).toNat
  let rstg := (rec.extractLsb' 392 8).toNat
  if repl = 0 || (imgStages fs).any (fun g => g.stg == rstg && repl ≤ g.deals.length) then [] else [(0x32, ridx, 0)]

/-- The placement of an image and every check it fails (R118, R119). -/
def State.loadErrs (s : State) (q : Part) (fs : List (Nat × Nat)) (nfr : Nat) : Placed × List LErr :=
  let es := imageErrs fs nfr ++ netErrs fs ++ replErrs fs q.ridx q.record
  match s.place q fs with
  | .error d => ([], (0x22, 0, d) :: es)
  | .ok pl => (pl, es ++ s.regionErrs pl fs)

end Sys2Proof.Machine
end

