-- ==== Sys2Proof/Machine/Loader.lean ====
section
/-! DEFINITION. The graph sequencer and the loader (R52 to R55, R118 to R120): the reading of records and dependences, the fetch,
check and delivery of an image, and the start of a forme. -/

namespace Sys2Proof.Machine

open Sys2Proof

/-! ### Reads of the sequencer (R52, R120) -/

/-- Why a read of the sequencer gives no value: it waits, its page lacks read permission or is of a kind it may not be, or a
fault. -/
inductive SeqErr where
  | wait
  | perm
  | kind
  | flt (f : Flt)

/-- The unit that a partition's sequencer translates for: its first compute unit. -/
def Part.seqUnit (q : Part) : Nat := q.cus.headD 0

/-- What a fault that another package answers makes of a read of the sequencer (R120, R420). -/
def seqFault (f : Flt) : SeqErr :=
  if f.code = 0x01 || f.code = 0x02 then .wait else if f.code = 0x22 then .kind else if f.code = 0x23 then .perm else .flt f

/-- A granule read by the sequencer at its home in this package (R52, R120): it waits for a page and for an absent granule. -/
def seqHome (s : State) (p va : Nat) (wo : Bool) : Except SeqErr (State × Nat) :=
  let q := s.part p
  match translate s q.seqUnit q.ctx va with
  | .error f => .error (if f.code = 0x01 || f.code = 0x02 then .wait else .flt f)
  | .ok (s, t) =>
    if !t.r then .error .perm
    else if wo && t.kind ≠ .wo then .error .kind
    else if t.kind = .wo && !s.mem.isPresent (t.pa / 8) then .error .wait
    else
      let s := if t.kind = .wo then s.crossPart q t.pa else s
      let s : State := { s with mem := s.mem.homeLook q.ctx (t.pa / 128) }
      if s.mem.homeBad t.pa then .error (.flt { code := 0x25, addr := BitVec.ofNat 64 va })
      else .ok (s, bytesToNat (s.mem.homeBytes t.pa 8))

/-- A granule read by the sequencer (R52, R120), at its home here or through a Holvor window (R420). -/
def seqRead (s : State) (p va : Nat) (wo : Bool) : Except SeqErr (State × Nat) :=
  let q := s.part p
  match hvTarget (s.ctx q.ctx) va with
  | some _ =>
    match s.hvTake q.ctx va false with
    | .error .absent => .error .wait
    | .error (.flt f) => .error (seqFault f)
    | .ok (s, bs) => .ok (s, bytesToNat bs)
  | none => seqHome s p va wo

/-- Consecutive granules as one number, the first lowest; an error comes with the index of its granule. -/
def seqReads (s : State) (p va : Nat) (wo : Bool) : Nat → Nat → Except (SeqErr × Nat) (State × Nat)
  | _, 0 => .ok (s, 0)
  | i, n + 1 =>
    match seqRead s p va wo with
    | .error e => .error (e, i)
    | .ok (s, v) =>
      match seqReads s p (va + 8) wo (i + 1) n with
      | .error e => .error e
      | .ok (s, w) => .ok (s, v + 2 ^ 64 * w)

/-- The illegal-launch fault with a load error (R118). -/
def State.illegalLaunch (s : State) (p : Nat) (e : LErr) : State :=
  s.raiseSeq p { code := 0x35, sub := e.1, info := BitVec.ofNat 64 (e.2.1 + e.2.2 * 2 ^ 32) }

/-- The answers that a page is away dropped (R120, R420): the sequencer, which waits for the page, reads again. -/
def State.hvAway (s : State) (ctx : Nat) : State :=
  { s with hvReplies := s.hvReplies.filter (fun r => r.ctx != ctx || r.write || !(r.code == 0x01 || r.code == 0x02)) }

/-- What a failed read of the sequencer leaves: it waits, or load error 0x33 at a word of the record, or the fault. -/
def State.seqFail (s : State) (p word : Nat) : SeqErr → State
  | .wait => s.hvAway (s.part p).ctx
  | .perm => s.illegalLaunch p (0x33, (s.part p).ridx, word)
  | .kind => s.illegalLaunch p (0x33, (s.part p).ridx, word)
  | .flt f => s.raiseSeq p f

/-! ### RECORD_READ (R53) -/

/-- The reserved bits of an imposition record (R53). -/
def recordReserved : List (Nat × Nat) :=
  [(511, 480), (447, 400), (391, 387), (383, 341), (335, 333), (327, 325), (311, 308), (258, 256), (127, 97), (95, 88), (63, 52), (4, 0)]

/-- The checks made when a record is read (R53). -/
def recordErrs (ridx v : Nat) : List LErr :=
  let step (x : Nat) : Bool := x == 0 || (4 ≤ x && x ≤ 24)
  (if recordReserved.all (fun r => bits v r.1 r.2 == 0) && bits v 87 64 ≠ 0 then [] else [(0x30, ridx, 0)]) ++
  (if step (bits v 324 320) && step (bits v 332 328) && step (bits v 340 336) then [] else [(0x31, ridx, 0)]) ++
  (if bits v 386 384 ≤ 4 then [] else [(0x32, ridx, 0)])

/-- RECORD_READ (R52 to R54, step 1). -/
def execRecordRead (p : Nat) (s : State) : Host.Outcome State Fault Refusal :=
  let q := s.part p
  .next (match q.phase, q.launch with
    | .read, some l =>
      match seqReads s p (l.reca + 64 * q.ridx) false 0 8 with
      | .error (e, _) => s.seqFail p 0 e
      | .ok (t, v) =>
        match leastErr (recordErrs q.ridx v) with
        | some e => (t.setPart p { q with record := BitVec.ofNat 512 v }).illegalLaunch p e
        | none => t.setPart p { q with record := BitVec.ofNat 512 v, phase := .deps }
    | _, _ => s)

/-! ### DEPENDENCE_GRANULES_PRESENT (R54) -/

/-- A record's request in steps (R53). -/
def recordReq (v : Nat) : Steps := ⟨bits v 324 320, bits v 332 328, bits v 340 336⟩

/-- DEPENDENCE_GRANULES_PRESENT (R54, steps 2 and 3): every dependence granule is present, and the request is submitted. -/
def execDependenceGranulesPresent (p : Nat) (s : State) : Host.Outcome State Fault Refusal :=
  let q := s.part p
  let v := q.record.toNat
  .next (if q.phase ≠ .deps then s
    else match seqReads s p (bits v 307 259 * 8) true 0 (bits v 319 312) with
      | .error (e, i) => s.seqFail p (1 + i) e
      | .ok (t, _) => t.setPart p { q with phase := .fetch, req := q.req.merge (recordReq v) })

/-! ### Delivery (R54, step 5; R106) -/

/-- The placed coordinates of image coordinates. -/
def Placed.coord (pl : Placed) (c : Coord) : Coord :=
  match (pl.reg c.die.toNat).bind (fun r => mapTile r c.tile.toNat) with
  | some (d, t) => { c with die := BitVec.ofNat 2 d, tile := BitVec.ofNat 9 t }
  | none => c

/-- The compute unit of a memory tile given by its number in image coordinates. -/
def Placed.mtUnit (pl : Placed) (n : Nat) : Nat :=
  match (pl.reg (n / 384)).bind (fun r => mapTile r (n % 384)) with
  | some (d, t) => unitOf d t
  | none => 0

/-- The package number of an island given in image coordinates. -/
def Placed.isl (pl : Placed) (n : Nat) : Nat :=
  match (pl.reg (n / 16)).bind (fun r => mapIsland r (n % 16)) with
  | some (d, k) => 16 * d + k
  | none => 0

/-- The package number of an edge unit given in image coordinates. -/
def Placed.edge (pl : Placed) (e : Nat) : Nat :=
  match (pl.reg (edgeDie e)).bind (fun r => mapCode r (edgeCode e)) with
  | some (d, c) => edgeNum d c
  | none => e

/-- The placed end of an end in image coordinates. -/
def Placed.endOf (pl : Placed) : End → End
  | .task c k => .task (pl.coord c) k
  | .island n ch => .island (pl.isl n) ch
  | .stream u k => .stream (pl.mtUnit u) k
  | .queue u g => .queue (pl.mtUnit u) g
  | .deal u g r => .deal (pl.mtUnit u) g r
  | .coll u g r => .coll (pl.mtUnit u) g r
  | .leave u g => .leave (pl.mtUnit u) g
  | .edge e ch => .edge (pl.edge e) ch

/-- What delivery works from: the frames, the placement, and what the image holds. -/
structure Img where
  fs : List (Nat × Nat)
  pl : Placed
  ts : List TaskF
  gs : List StageF
  es : List SlotE
  ls : List LinkF

/-- What an image holds. -/
def Img.of (fs : List (Nat × Nat)) (pl : Placed) : Img := ⟨fs, pl, imgTasks fs, imgStages fs, imgSlots fs, imgLinks fs⟩

/-- The bridge directions that a path crosses (R98), between placed dies. -/
def Placed.bridges (pl : Placed) (path : List RouteE) : List (Nat × Nat) :=
  let die (d : Nat) : Nat := ((pl.reg d).map (fun r => bits r.toNat 49 48)).getD d
  path.filterMap (fun e => if e.dout = 5 then (nextHop e.die e.code 5 e.ofx).map (fun n => (die e.die, die n.1)) else none)

/-- The producing end of a link given its channel end: its receiving end, its slots, its hops and the bridges it crosses. -/
def Img.linked (m : Img) (src : End) (p : OutPort) : OutPort :=
  match m.ls.find? (fun l => l.src == some src) with
  | none => p
  | some l =>
    match l.dst with
    | none => p
    | some v =>
      let n := l.slots m.es
      { p with bound := true, dst := some (m.pl.endOf v.dst), cap := n, credit := n, hops := l.path.length - 1,
               bridges := m.pl.bridges l.path }

/-- Whether a link ends at an end. -/
def Img.reached (m : Img) (dst : End) : Bool := m.ls.any (fun l => (l.dst.map (fun v => v.dst)) == some dst)

/-- The slots of a stage's collecting paths: those of its leaving link, at least one (log entry 16). -/
def Img.leaveSlots (m : Img) (g : StageF) : Nat := max 1 (m.linked (.leave (imgMt g.die g.tile) g.stg) {}).cap

/-- Output port k of a task. -/
def Img.outPort (m : Img) (t : TaskF) (k : Nat) : OutPort :=
  if !t.bound (8 + k) then {}
  else
    let p : OutPort := { bound := true, rate := t.rate (8 + k), mkey := BitVec.ofNat 2 (t.mkey (8 + k)), vc := BitVec.ofNat 6 (t.vc (8 + k)) }
    match collOf m.gs t.key.die.toNat t.key.tile.toNat (t.vc (8 + k)) with
    | some (g, r) =>
      let n := m.leaveSlots g
      { p with dst := some (.coll (m.pl.mtUnit (imgMt g.die g.tile)) g.stg r), cap := n, credit := n }
    | none => m.linked (t.endOf k) p

/-- Input port k of a task. -/
def Img.inPort (m : Img) (t : TaskF) (k : Nat) : InPort :=
  if !t.bound k then {}
  else { bound := true, rate := t.rate k, vc := BitVec.ofNat 6 (t.vc k),
         zero := m.ls.any (fun l => (l.dst.map (fun v => v.dst)) == some (t.endOf k) && l.slots m.es == 0) }

/-- The slot of a task, inert (R57). -/
def Img.slot (m : Img) (p : Nat) (t : TaskF) : Slot :=
  { st := .idle, id := t.key, place := m.pl.coord t.key, prt := p, ctl := t.ctl, entry := BitVec.ofNat 9 t.entry,
    ins := Vector.ofFn (fun i : Fin 8 => m.inPort t i.val), outs := Vector.ofFn (fun i : Fin 8 => m.outPort t i.val) }

/-- Replica r of a stage, parked (R49 to R51); its dealing path has as many slots as its receiving port's rate, or as a slot entry
of that channel names when that is more (log entry 16). -/
def Img.replica (m : Img) (g : StageF) (r : Nat) : Replica :=
  let rv := (g.deals.find? (fun d => d.1 == r)).bind (fun d => portOn m.ts false g.die d.2.1 d.2.2)
  let lv := (g.colls.find? (fun d => d.1 == r)).bind (fun d => portOn m.ts true g.die d.2.1 d.2.2)
  let need := (rv.map (fun tk => tk.1.rate tk.2)).getD 1
  let slots := ((m.es.find? (fun e => e.die == g.die && rv.any (fun tk => e.code == tk.1.key.tile.toNat && e.vc == tk.1.vc tk.2))).map
    (fun e => e.slots)).getD 0
  { deal := { bound := true, dst := rv.map (fun tk => m.pl.endOf (tk.1.endOf tk.2)), cap := max need slots, credit := max need slots },
    need := need, recv := rv.map (fun tk => m.pl.coord tk.1.key),
    coll := if g.colls.isEmpty then none else some { bound := true }, leaver := lv.map (fun tk => m.pl.coord tk.1.key) }

/-- A stage with every replica parked. -/
def Img.stage (m : Img) (g : StageF) : Stage :=
  let u := imgMt g.die g.tile
  { queue := { bound := m.reached (.queue u g.stg), vc := BitVec.ofNat 6 g.qvc }, cap := g.cap,
    leave := if g.colls.isEmpty then none else some (m.linked (.leave u g.stg) {}),
    reps := (List.range g.deals.length).map (m.replica g) }

/-- The window that a frame declares (R101). -/
def windowOf (v : Nat) : Window :=
  { base := BitVec.ofNat 64 (bits v 83 32), ext := #v[bits v 107 88, bits v 127 108, bits v 147 128],
    str := #v[signed 32 (bits v 179 148), signed 32 (bits v 211 180), signed 32 (bits v 243 212)], ndim := bits v 85 84 }

/-- Whether a frame of a kind belongs to an MT given in image coordinates. -/
def ofMt (k n : Nat) (f : Nat × Nat) : Bool := f.2 % 256 == k && imgMt (Hdr.of f.2).die (Hdr.of f.2).tile == n

/-- Stream port k of an MT. -/
def Img.streamPort (m : Img) (n k : Nat) : StreamPort :=
  let wins := ((m.fs.filter (fun f => ofMt 6 n f && (Hdr.of f.2).unit == k))).foldl (fun t f => tput {} t (Hdr.of f.2).seq (windowOf f.2)) []
  match (imgStrms m.fs).find? (fun x => imgMt x.die x.tile == n && x.port == k) with
  | none => { wins := wins }
  | some x => { wins := wins, out := m.linked (.stream n k) { vc := BitVec.ofNat 6 x.vc }, node := true, sect := x.sect, win := x.win }

/-- The region that a frame declares (R103). -/
def regionOfFrame (v : Nat) : Region := ⟨bit v 32, bits v 36 33, bits v 61 48, bits v 108 64, bits v 159 128⟩

/-- An MT with its stream ports, stages and regions. -/
def Img.mt (m : Img) (n : Nat) (x : Mt) : Mt :=
  { x with ports := (List.range 8).foldl (fun t k => tput {} t k (m.streamPort n k)) [],
           stages := (m.gs.filter (fun g => imgMt g.die g.tile == n)).foldl (fun t g => tput {} t g.stg (m.stage g)) [],
           regions := (m.fs.filter (ofMt 8 n)).foldl (fun t f => tput ⟨false, 0, 0, 0, 0⟩ t (Hdr.of f.2).unit (regionOfFrame f.2)) [] }

/-- An island as its binding frame sets it (R102, R338). -/
def Img.island (m : Img) (p v : Nat) : Island :=
  let n := imgIsl v
  { bound := true, prt := p, img := n % 16, ty := BitVec.ofNat 6 (bits v 37 32), sect := bits v 39 38,
    cmd := { bound := m.reached (.island n 0), vc := BitVec.ofNat 6 (bits v 45 40) },
    feed := { bound := m.reached (.island n 1), vc := BitVec.ofNat 6 (bits v 51 46) },
    draw := m.linked (.island n 2) { vc := BitVec.ofNat 6 (bits v 57 52) },
    drawLnk := m.ls.any (fun l => l.src == some (.island n 2)) }

/-- The memory tiles that an image loads, in image coordinates. -/
def imgMts (fs : List (Nat × Nat)) : List Nat :=
  ((fs.filter (fun f => f.2 % 256 == 5 || f.2 % 256 == 6 || f.2 % 256 == 8)).map (fun f => imgMt (Hdr.of f.2).die (Hdr.of f.2).tile)).eraseDups

/-- The row dividers that an image requests (R104, R106, R403), by placed row; of two image dies that share a row, the larger. -/
def Img.divs (m : Img) : Tbl Nat :=
  (m.fs.filter (fun f => f.2 % 256 == 9)).foldl (fun t f =>
    match m.pl.reg (Hdr.of f.2).die with
    | none => t
    | some r => (List.range 16).foldl (fun t (y : Nat) =>
        let y' : Int := (y : Int) + signed 5 (bits r.toNat 20 16)
        if bit f.2 (64 + y) && 0 ≤ y' && y' < 16
        then
          let row := 16 * bits r.toNat 49 48 + y'.toNat
          tput 1 t row (max (tget 1 t row) (bits f.2 (33 + 2 * y) (32 + 2 * y) + 1)) else t) t) []

/-- The edge unit and channel that an end is. -/
def endEdge : End → Option (Nat × Nat)
  | .edge e ch => some (e, ch)
  | .task _ _ => none
  | .island _ _ => none
  | .stream _ _ => none
  | .queue _ _ => none
  | .deal _ _ _ => none
  | .coll _ _ _ => none
  | .leave _ _ => none

/-- The edge units of an image whose channels paths reach, in image coordinates. -/
def Img.edges (m : Img) : List Nat :=
  (m.ls.flatMap (fun l => ((l.src.toList ++ (l.dst.map (fun v => v.dst)).toList).filterMap endEdge).map (fun x => x.1))).eraseDups

/-- An edge unit's channels as the links of an image reach them (R46, R98). -/
def Img.edge (m : Img) (p e : Nat) : Edge :=
  let chan (x : Option End) : Option Nat := (x.bind endEdge).bind (fun y => if y.1 = e then some y.2 else none)
  let ins (l : LinkF) : Option (Nat × Bool) := (chan (l.dst.map (fun v => v.dst))).map (fun ch => (ch, l.slots m.es == 0))
  let outs (l : LinkF) : Option Nat := chan l.src
  { prt := p,
    ins := (m.ls.filterMap ins).foldl (fun t (x : Nat × Bool) => tput {} t x.1 { bound := true, zero := x.2, vc := BitVec.ofNat 6 x.1 }) [],
    outs := (m.ls.filterMap outs).foldl (fun t (ch : Nat) => tput {} t ch (m.linked (.edge e ch) { vc := BitVec.ofNat 6 ch })) [] }

/-- The units of a forme: its compute units, its bound islands and the edge units its links reach, as R418 numbers them. -/
def Img.units (m : Img) : List Nat :=
  ((m.pl.flatMap (fun x => (imgCodes m.fs x.1).flatMap (fun c =>
    match mapCode x.2.2 c with
    | some (d, c) => if c < 384 then codeUnits d c else []
    | none => []))) ++ (imgIslands m.fs).map (fun f => 768 + m.pl.isl (imgIsl f.2)) ++
   (m.edges.map m.pl.edge).filter (fun e => e < 864)).eraseDups

/-- The frames of an image delivered to the units their headers name (R54, step 5): inert until the start token. -/
def State.install (s : State) (p : Nat) (m : Img) : State :=
  let ws := imgWords m.fs
  let s : State := { s with
    others := s.others.filter (fun x => x.st != .noTask) ++ m.ts.map (m.slot p),
    pes := s.pes ++ (imgPes m.fs).map (fun c => (⟨m.pl.coord c, (peWords ws c).map (fun w => w.word), 3⟩ : Pe)) }
  let s := (imgMts m.fs).foldl (fun s n => s.setMt (m.pl.mtUnit n) (m.mt n (s.mt (m.pl.mtUnit n)))) s
  let s := (imgIslands m.fs).foldl (fun s f => s.setIsl (m.pl.isl (imgIsl f.2)) (m.island p f.2)) s
  let s := m.edges.foldl (fun s e => s.setEdge (m.pl.edge e) (m.edge p e)) s
  let q := s.part p
  s.setPart p { q with phase := .loaded, divs := m.divs, owed := m.units, toReport := [], formeCus := m.units.filter (fun u => u < 768),
                       cand := Vector.ofFn (fun i : Fin 4 => (m.pl.find? (fun x => x.1 == i.val)).map (fun x => x.2.1)) }

/-! ### IMAGE_FETCH (R54, step 4; R118 to R120) -/

/-- The frames of an image read in order: frames by index, those on pages that cannot be read, or the reason to stop. -/
def fetchFrames (s : State) (p img : Nat) : Nat → Nat → Except SeqErr (State × List (Nat × Nat) × List Nat)
  | _, 0 => .ok (s, [], [])
  | i, n + 1 =>
    match seqReads s p (img + 32 * i) false 0 4 with
    | .error (.wait, _) => .error .wait
    | .error (.flt f, _) => .error (.flt f)
    | .error (_, _) =>
      (match fetchFrames s p img (i + 1) n with
       | .error e => .error e
       | .ok (s, fs, bad) => .ok (s, fs, i :: bad))
    | .ok (s, v) =>
      match fetchFrames s p img (i + 1) n with
      | .error e => .error e
      | .ok (s, fs, bad) => .ok (s, (i, v) :: fs, bad)

/-- The checks that an image with unreadable frames can still fail first (R118, R119). -/
def unreadErrs (fs : List (Nat × Nat)) (nfr : Nat) (bad : List Nat) : List LErr :=
  bad.map (fun i => (0x0B, i, 0)) ++ fs.flatMap (fun f => frameErrs f.1 f.2) ++ twiceErrs [] fs ++
  (endErrs fs nfr).filter (fun e => e.1 != 0x09 && !(bad.contains (nfr - 1) && e.2.1 == nfr - 1))

/-- An image fetched: checked as a whole, and delivered when it passes (R54, R118). -/
def State.load (s : State) (p : Nat) (fs : List (Nat × Nat)) (bad : List Nat) : State :=
  let q := s.part p
  let nfr := bits q.record.toNat 87 64
  if !bad.isEmpty then
    match leastErr (unreadErrs fs nfr bad) with
    | some e => s.illegalLaunch p e
    | none => s
  else
    let r := s.loadErrs q fs nfr
    match leastErr r.2 with
    | some e => s.illegalLaunch p e
    | none => s.install p (Img.of fs r.1)

/-- IMAGE_FETCH (R54, step 4). -/
def execImageFetch (p : Nat) (s : State) : Host.Outcome State Fault Refusal :=
  let q := s.part p
  let v := q.record.toNat
  .next (if q.phase ≠ .fetch then s
    else match fetchFrames s p (bits v 51 5 * 32) 0 (bits v 87 64) with
      | .error .wait => s.seqFail p 0 .wait
      | .error (.flt f) => s.raiseSeq p f
      | .error _ => s
      | .ok (t, fs, bad) => t.load p fs bad)

/-! ### START_TOKEN (R54, steps 6 and 7) -/

/-- The generator of a slot at a forme start (R136). -/
def seedState (seed : Dword) (id : Coord) : Dword :=
  let z := seed ^^^ (BitVec.ofNat 64 (coordNum id) * 0x9E3779B97F4A7C15#64)
  let z := (z ^^^ (z >>> 30)) * 0xBF58476D1CE4E5B9#64
  let z := (z ^^^ (z >>> 27)) * 0x94D049BB133111EB#64
  let z := z ^^^ (z >>> 31)
  if z = 0 then 1 else z

/-- A slot as a forme starts it (R136 to R141, R148, R156, R161, R162). -/
def Slot.start (x : Slot) (seed : Dword) : Slot :=
  { x with st := .idle, pc := x.entry, calls := [], loops := [], phys := Vector.replicate 64 0, wbase := 0, vcache := [], vsaved := 0,
           rmode := 1, fsticky := 0, amax := 0, rng := seedState seed x.id, fires := 0, mkSeg := 0, mkRow := 0, mkTen := 0,
           fbs := Vector.replicate 8 .closed, sms := Vector.replicate 8 .closed, busy := false, faultSeq := none, resume := false }

/-- The values written to %seed take effect (R142): the last one where one task wrote them, else one of them, which is left
open. -/
def State.takeSeed (s : State) (c : Nat) : State :=
  let x := s.ctx c
  match x.seedNew with
  | [] => s
  | w :: ws =>
    if ws.all (fun v => v.1 == w.1) then s.setCtx c { x with seed := (ws.getLastD w).2, seedNew := [] }
    else
      let k := Config.pick s.freeCount (ws.length + 1) % (ws.length + 1)
      { s.setCtx c { x with seed := ((w :: ws).getD k w).2, seedNew := [] } with freeCount := s.freeCount + 1 }

/-- The scratchpad and counters of a unit zeroed (R201). -/
def Mem.wipe (m : Mem) (u : Nat) : Mem :=
  { m with sram := tdrop m.sram (spAddr u 0) (spAddr (u + 1) 0), badWord := tdrop m.badWord (spAddr u 0 / 4) (spAddr (u + 1) 0 / 4) }

/-- A stage at a forme start (R50): its first replicas active. -/
def Stage.start (x : Stage) (active floor : Nat) : Stage :=
  { x with reps := (List.range x.reps.length).zipWith (fun r (y : Replica) => { y with active := decide (r < active), park := false }) x.reps,
           deal := 0, collect := 0, last := none, dealt := [], floor := floor, drn := false }

/-- REPL and RSTG of a record at one of its stages: the minimum of active replicas, also the number active at the start. -/
def recordFloor (rec : BitVec 512) (stg : Nat) : Nat :=
  if (rec.extractLsb' 392 8).toNat = stg then max 1 (rec.extractLsb' 384 3).toNat else 1

/-- A memory tile at a forme start (R199, R201, R245, R252, R259, R331). -/
def Mt.start (x : Mt) (c : Nat) (cx : Ctx) (rec : BitVec 512) : Mt :=
  { x with split := x.mtcfg, drift := x.driftReg, lastCtx := some c, counters := if x.lastCtx = some c then x.counters else [],
           side := [], rings := [],
           ports := x.ports.map (fun k => (k.1, { k.2 with wins := k.2.wins.map (fun w => (w.1, w.2.mark cx)) })),
           stages := x.stages.map (fun g => (g.1, g.2.start (recordFloor rec g.1) (recordFloor rec g.1))) }

/-- A compute unit at a forme start: its L1, which holds nothing that a forme before left (R214), its memory tile and its ternary
array (R199, R201, R351). -/
def State.startUnit (s : State) (p u : Nat) : State :=
  let q := s.part p
  let x := s.mt u
  let m := s.mem.l1DropAll u (fun _ => true) q.ctx
  let m := if x.lastCtx = some q.ctx then m else m.wipe u
  let m := { m with full := tdrop m.full (spAddr u 0 / 4) (spAddr (u + 1) 0 / 4) }
  ({ s with mem := m }.setMt u (x.start q.ctx (s.ctx q.ctx) q.record)).setTern u {}

/-- The compute units of a forme's placement: those whose memory tile is an image tile's. -/
def Part.placedUnits (q : Part) : List Nat := q.cus.filter (fun u => (q.imageOf (dieOf u) (mtTile u)).isSome)

/-- The regions of a unit examined at a forme start (R359). -/
def State.examineUnit (s : State) (u : Nat) : State := (s.mt u).regions.foldl (fun s r => s.examine u r.1 r.2) s

/-- The sections that a record arms at the start of its forme (R54, step 7). -/
def State.armAll (s : State) (p : Nat) (rec : BitVec 512) : State :=
  (List.range 4).foldl (fun s n =>
    let c := (rec.extractLsb' (128 + 32 * n) 32).toNat
    if c = 0 || (s.part p).phase ≠ .run then s else s.arm p n c) s

/-- A forme without any unit, which nothing is left to drain (R57), ends as it starts. -/
def State.endEmpty (s : State) (p : Nat) : State :=
  let q := s.part p
  if q.phase = .run && q.owed.isEmpty && q.toReport.isEmpty then s.formeDrained p else s

/-- A loaded forme started: its units, slots, regions and sections. -/
def State.start (s : State) (p : Nat) : State :=
  let q := s.part p
  let s := s.takeSeed q.ctx
  let seed := (s.ctx q.ctx).seed
  let s := q.placedUnits.foldl (fun s u => s.startUnit p u) s
  let s := s.mapSlots (fun x => if x.prt == p && x.st != .noTask then x.start seed else x)
  let s := q.placedUnits.foldl State.examineUnit s
  let s := s.setPart p { s.part p with phase := .run, sects := Vector.replicate 4 {} }
  (s.armAll p q.record).endEmpty p

/-- START_TOKEN (R54, steps 6 and 7). -/
def execStartToken (p : Nat) (s : State) : Host.Outcome State Fault Refusal :=
  let q := s.part p
  .next (if q.phase = .loaded && q.restore.isNone then s.start p else s)

end Sys2Proof.Machine
end

