-- ==== Sys2Proof/Machine/Arbiter.lean ====
section
/-! DEFINITION. The arbiter of a partition and the power arbiter (R385 to R389, R397 to R400): readiness and grants of queues,
pre-emption, completion, clock grants and the package cap. -/

namespace Sys2Proof.Machine

open Sys2Proof

/-! ### Readiness (R385, R387) -/

/-- The two granules of the slot at a queue's head as one number: none while either is absent. -/
def State.headSlot (s : State) (f n : Nat) : Option Nat :=
  let q := s.lq f n
  match seqReads s q.prt (q.slotVa q.head) true 0 2 with
  | .ok (_, v) => some v
  | .error _ => none

/-- Whether a slot is well formed (R387). -/
def slotLegal (v : Nat) : Bool :=
  bits v 127 116 == 0 && bits v 66 64 == 0 && bits v 63 52 == 0 && bits v 5 4 == 0 && bits v 51 6 != 0

/-- Whether the dependence granules of the first record are present, as far as the record can be read (R385): what is wrong
with the record or its dependences is for the sequencer to find. -/
def State.depsThere (s : State) (p reca : Nat) : Bool :=
  match seqReads s p reca false 0 8 with
  | .error (.wait, _) => false
  | .error _ => true
  | .ok (_, v) =>
    if !(recordErrs 0 v).isEmpty then true
    else match seqReads s p (bits v 307 259 * 8) true 0 (bits v 319 312) with
      | .error (.wait, _) => false
      | _ => true

/-- Whether a queue is bound to a partition and enabled (R383). -/
def Lq.serves (q : Lq) (x : Part) (p f : Nat) : Bool := q.en && q.prt == p && x.en && x.fn == f

/-- Whether a queue is ready (R385, R389). -/
def State.queueReady (s : State) (p f n : Nat) : Bool :=
  let q := s.lq f n
  let x := s.part p
  q.serves x p f && !(s.ctx x.ctx).stop &&
  (q.kept.isSome ||
   (match s.headSlot f n with
    | none => false
    | some v => slotLegal v && s.depsThere p (bits v 51 6 * 64)))

/-- The queues of a partition, as function and index, in ascending order. -/
def State.queuesOf (s : State) (p : Nat) : List (Nat × Nat) :=
  (s.lqs.map (fun x => (x.1 / 8, x.1 % 8))).filter (fun x => (s.lq x.1 x.2).serves (s.part p) p x.1)

/-- The ready queues of a partition. -/
def State.readyQueues (s : State) (p : Nat) : List (Nat × Nat) := (s.queuesOf p).filter (fun x => s.queueReady p x.1 x.2)

/-- Whether a queue goes before another (R388). -/
def Lq.before (a b : Lq) : Bool := a.prio < b.prio || (a.prio == b.prio && a.recent < b.recent)

/-- The queue that a decision grants (R388). -/
def State.bestQueue (s : State) : List (Nat × Nat) → Option (Nat × Nat)
  | [] => none
  | x :: xs =>
    match s.bestQueue xs with
    | none => some x
    | some y => if (s.lq y.1 y.2).before (s.lq x.1 x.2) then some y else some x

/-! ### ARBITER_GRANT (R387, R388) -/

/-- A queue of a partition whose head slot is malformed, with the slot (R387). -/
def State.badSlot (s : State) (p : Nat) : Option (Nat × Nat × Nat) :=
  if (s.ctx (s.part p).ctx).stop then none
  else (s.queuesOf p).findSome? (fun x =>
    match s.headSlot x.1 x.2 with
    | some v => if (s.lq x.1 x.2).kept.isNone && !slotLegal v then some (x.1, x.2, v) else none
    | none => none)

/-- The launch at a queue's head started, or resumed from what a pre-emption kept (R388, R396, R402). -/
def State.grantQueue (s : State) (p f n : Nat) : State :=
  let q := s.lq f n
  let v := (s.headSlot f n).getD 0
  let k : Kept := q.kept.getD { ridx := 0, drained := 0, evq := [], evLost := false, req := ⟨16, 16, 16⟩, snap := none }
  let l : Launch := { fn := f, q := n, reca := bits v 51 6 * 64, cmpl := bits v 115 67 * 8, evmask := BitVec.ofNat 4 (bits v 3 0), drained := k.drained }
  let s := ((s.hvDrop (s.part p).ctx (q.slotVa q.head) 16 false).setLq f n { q with kept := none }).markGranted f n
  let x := s.part p
  s.setPart p { x with launch := some l, ridx := k.ridx, req := k.req, evq := k.evq, evLost := k.evLost, preempt := false, grantAt := s.timer,
                       stopCode := false, restore := k.snap, record := (k.snap.map (fun z => z.record)).getD 0,
                       phase := if k.snap.isSome then .fetch else .read }

/-- ARBITER_GRANT (R387, R388). -/
def execArbiterGrant (p : Nat) (s : State) : Host.Outcome State Fault Refusal :=
  .next (match s.badSlot p with
    | some (f, n, v) =>
      s.raiseSeq p { code := 0x4D, addr := BitVec.ofNat 64 ((s.lq f n).slotVa (s.lq f n).head), info := BitVec.ofNat 64 v }
    | none =>
      if (s.part p).phase ≠ .idle || s.sys.held then s
      else match s.bestQueue (s.readyQueues p) with
        | none => s
        | some (f, n) => s.grantQueue p f n)

/-! ### PREEMPT_REQUEST and SLICE_EXPIRY (R59, R120, R389) -/

/-- Whether a partition holds an imposition that may be pre-empted. -/
def Part.mayPreempt (q : Part) : Bool := q.launch.isSome && !q.preempt && q.phase != .ended && q.phase != .idle

/-- A pre-emption requested (R59): a running forme drains first; a record, a dependence, a fetch or a delivery in hand is
abandoned (R120). -/
def State.preemptPart (s : State) (p : Nat) : State :=
  let q := s.part p
  match q.phase with
  | .run => s.requestPreempt p
  | .loaded => (s.dropForme p).yieldPart p q.ridx q.restore
  | _ => s.yieldPart p q.ridx q.restore

/-- The priority of the imposition in hand (R389). -/
def State.runPrio (s : State) (p : Nat) : Nat := ((s.part p).launch.map (fun l => (s.lq l.fn l.q).prio)).getD 0

/-- The ready queues of a partition other than the one granted. -/
def State.otherReady (s : State) (p : Nat) : List (Nat × Nat) :=
  (s.readyQueues p).filter (fun x => (s.part p).launch.all (fun l => l.fn != x.1 || l.q != x.2))

/-- PREEMPT_REQUEST (R389): a queue of lower priority number is ready. -/
def execPreemptRequest (p : Nat) (s : State) : Host.Outcome State Fault Refusal :=
  .next (if (s.part p).mayPreempt && (s.otherReady p).any (fun x => (s.lq x.1 x.2).prio < s.runPrio p) then s.preemptPart p else s)

/-- Whether an interval in microseconds has passed since a reading of the timer (R32). -/
def State.passed (s : State) (t : Dword) (us : Nat) : Bool := t.toNat + 16000 * us ≤ s.timer.toNat

/-- SLICE_EXPIRY (R389): the slice has run out while another queue of the same priority is ready. -/
def execSliceExpiry (p : Nat) (s : State) : Host.Outcome State Fault Refusal :=
  let q := s.part p
  .next (if q.mayPreempt && q.pslice ≠ 0 && s.passed q.grantAt q.pslice &&
            (s.otherReady p).any (fun x => (s.lq x.1 x.2).prio == s.runPrio p) then s.preemptPart p else s)

/-! ### IMPOSITION_COMPLETE (R386) -/

/-- The completion word written to the completion granule, or the record of what prevents it (R386); in a Holvor window, by the other
package, whose answer is at hand (R420). -/
def State.complWrite (s : State) (p cmpl word : Nat) : State :=
  let q := s.part p
  let bad (s : State) (f : Flt) : State := s.emit p (s.recOf p 2 0 { f with addr := BitVec.ofNat 64 cmpl } 1)
  match hvTarget (s.ctx q.ctx) cmpl with
  | some _ =>
    match s.hvTake q.ctx cmpl true with
    | .error .absent => s
    | .error (.flt f) => bad (s.hvDrop q.ctx cmpl 8 true) f
    | .ok (t, _) => t
  | none =>
    match translate s q.seqUnit q.ctx cmpl with
    | .error f => bad s f
    | .ok (t, tr) =>
      match permitPage tr cmpl .wo false true with
      | .error f => bad s f
      | .ok _ =>
        if t.mem.isPresent (tr.pa / 8) then bad s { code := 0x24 }
        else { t with mem := (t.mem.woPut (tr.pa / 8) word).note (.energy q.ctx 6 1) }

/-- Whether a completion word waits for another package's answer (R419, R420). -/
def State.complHeld (s : State) (p cmpl : Nat) : Bool :=
  let c := (s.part p).ctx
  cmpl != 0 && (hvTarget (s.ctx c) cmpl).isSome && !s.hvReplies.any (fun r => r.ctx == c && r.va == cmpl && r.write)

/-- The presence of a slot's granules cleared (R386); nothing is cleared in another package (log entry 26). -/
def State.clearSlot (s : State) (p va : Nat) : State :=
  let q := s.part p
  if (hvTarget (s.ctx q.ctx) va).isSome then s else match translate s q.seqUnit q.ctx va with
  | .error _ => s
  | .ok (t, tr) => { t with mem := { t.mem with clears := t.mem.clears ++ [(p, tr.pa / 8, 2)] }.applyClears p }

/-- The partition with no imposition. -/
def Part.freed (q : Part) : Part :=
  { q with phase := .idle, launch := none, preempt := false, stopCode := false, evq := [], evLost := false, restore := none, owed := [],
           toReport := [] }

/-- IMPOSITION_COMPLETE (R386): the completion word, the slot's presence and LQHEAD, in this order. -/
def execImpositionComplete (p : Nat) (s : State) : Host.Outcome State Fault Refusal :=
  let q := s.part p
  .next (if q.phase ≠ .ended then s
    else match q.launch with
      | none => s.setPart p q.freed
      | some l =>
        if s.complHeld p l.cmpl then s else
        let word := l.drained % 2 ^ 32 + (if q.stopCode then 2 else 1) * 2 ^ 32
        let s := if l.cmpl = 0 then s else s.complWrite p l.cmpl word
        let x := s.lq l.fn l.q
        let s := s.clearSlot p (x.slotVa x.head)
        let s := s.setLq l.fn l.q { x with head := x.head + 1, kept := none }
        s.setPart p (s.part p).freed)

/-! ### GRANT_RECOMPUTE and PCAP_WRITE (R31, R397 to R400, R427) -/

/-- Every unit of a partition, as R418 numbers them. -/
def Part.units (q : Part) : List Nat := (List.range 864).filter q.has

/-- PCOEF of a partition in mW per step (R397): computed by the device from its units and the placement in force. -/
def Part.coef (q : Part) (d : Nat) : Nat := (Config.pcoef d (q.units ++ q.cand.toList.map (fun c => (c.map (fun k => k + 1)).getD 0))).toNat

/-- The steps at which a partition's floor stands (R397). -/
def Part.low (q : Part) : Steps := ⟨min q.floor.mx q.req.mx, min q.floor.vc q.req.vc, min q.floor.mm q.req.mm⟩

/-- The three coefficients of a partition as steps hold their domains. -/
def Part.coefs (q : Part) : Steps := ⟨q.coef 0, q.coef 1, q.coef 2⟩

/-- The estimated power of steps in mW under coefficients (R397, R398). -/
def Steps.power (c g : Steps) : Nat := c.mx * g.mx + c.vc * g.vc + c.mm * g.mm

/-- The steps of the search at j (R398). -/
def Part.stepsAt (q : Part) (j : Nat) : Steps :=
  ⟨max q.low.mx (j * q.req.mx / 256), max q.low.vc (j * q.req.vc / 256), max q.low.mm (j * q.req.mm / 256)⟩

/-- The first steps from j down that fit a budget (R398). -/
def Part.search (q : Part) (c : Steps) (b : Nat) : Nat → Steps
  | 0 => q.low
  | j + 1 => if c.power (q.stepsAt (j + 1)) ≤ b then q.stepsAt (j + 1) else q.search c b j

/-- The partitions that hold an imposition. -/
def State.holding (s : State) : List Part := (s.parts.map (fun x => x.2)).filter (fun q => q.launch.isSome)

/-- The budget A in mW (R397, R427). -/
def State.budget (s : State) : Int := ((min s.sys.pcap s.sys.tcap * 1000 : Nat) : Int) - (Config.idlef.toNat : Int)

/-- The floor power of every partition that holds an imposition. -/
def State.floorSum (s : State) : Nat := (s.holding.map (fun q => q.coefs.power q.low)).foldl (fun a b => a + b) 0

/-- The event kind of a cap below the floors (R399): 2 for a cap that no floor can meet, 3 for a floor breach. -/
def State.capKind (s : State) : Option Nat :=
  if s.budget ≤ 0 then some 2 else if s.budget < (s.floorSum : Int) then some 3 else none

/-- The grant of a partition under the cap (R397 to R399). -/
def State.grantOf (s : State) (q : Part) : Steps :=
  let a := s.budget
  let f := s.floorSum
  if a ≤ 0 then ⟨4, 4, 4⟩
  else if (f : Int) ≤ a then
    let w := (s.holding.map (fun x => x.weight)).foldl (fun a b => a + b) 0
    let c := q.coefs
    q.search c (c.power q.low + (a.toNat - f) * q.weight / w) 256
  else
    let g (x : Nat) : Nat := max 4 (x * a.toNat / f)
    ⟨g q.low.mx, g q.low.vc, g q.low.mm⟩

/-- A grant in force, with its events (R400, R402); a grant that stands already changes nothing. -/
def Part.granted (q : Part) (g : Steps) (kind : Option Nat) : Part :=
  if g = q.grant then q
  else
    let x := ({ q with grant := g, grseq := q.grseq + 1 } : Part).event 1
    match kind with
    | none => x
    | some k => x.event k

/-- Whether the arbiter grants a partition anything (R397, R399): one without an imposition has no share of the budget, and is
granted 4 steps only while the cap is unreachable. -/
def State.grants (s : State) (q : Part) : Bool := q.launch.isSome || s.capKind == some 2

/-- GRANT_RECOMPUTE (R397 to R400). -/
def execGrantRecompute (p : Nat) (s : State) : Host.Outcome State Fault Refusal :=
  let q := s.part p
  let k := s.capKind
  let t : State := { s with sys := { s.sys with breach := k == some 3, unreach := k == some 2 } }
  .next (if s.grants q then t.setPart p (q.granted (s.grantOf q) k) else t)

/-- A write of PCAP (R31, R399): clamped to 500 to 2,200 W. -/
def State.writePcap (s : State) (v : Dword) : State := { s with sys := { s.sys with pcap := max 500 (min 2200 (v.toNat % 4096)) } }

/-- PCAP_WRITE (R31, R399). -/
def execPcapWrite (v : Dword) (s : State) : Host.Outcome State Fault Refusal := .next (s.hosted (s.writePcap v))

end Sys2Proof.Machine
end

