-- ==== Sys2Proof/Machine/Atomics.lean ====
section
/-! DEFINITION. The atomics (R145, R239 to R244). -/

namespace Sys2Proof.Machine

open Sys2Proof

/-- An atomic operation: the type, SAT, the old value and the operands B and C give the new value, none where nothing is rewritten
(R240, R241). -/
abbrev AtomFn := Nat → Bool → Dword → Dword → Dword → Option Nat

/-- An integer atomic: clamped with SAT, else wrapped (R240); no flag is kept. -/
def intAtom (f : Int → Int → Int) : AtomFn := fun t sat old b _ =>
  let y := f (valI t old) (valI t b)
  some ((putI t (if sat then (satI t y ⟨1, 0⟩).1 else y)).toNat % 2 ^ tWidth t)

/-- A bitwise atomic (R239). -/
def bitAtom (f : Nat → Nat → Nat) : AtomFn := fun t _ old b _ => some (f (low t old) (low t b) % 2 ^ tWidth t)

/-- AXCHG (R239). -/
def xchgAtom : AtomFn := fun t _ _ b _ => some (low t b)

/-- ACAS (R241): the w-bit patterns are compared, and nothing is rewritten where they differ. -/
def casAtom : AtomFn := fun t _ old b c => if low t old = low t b then some (low t c) else none

/-- The sum of AFADD, in the type (R145, R242). -/
def faddBits (t : Nat) (old b : Dword) : Nat := encF t (accV t (decF t old.toNat) (some (decF t b.toNat)))

/-- AFADD (R145, R242). -/
def faddAtom : AtomFn := fun t _ old b _ => some (faddBits t old b)

/-- The read half and the write of an atomic at a scratchpad bank (R240, R244). -/
def State.atomSp (s : State) (u off w : Nat) (ea : Dword) (f : Nat → Option Nat) : Acc (State × Nat) :=
  if s.mem.spBad u off w then .error (memError ea s)
  else
    let old := s.mem.spGet u off w
    .ok (match f old with
      | some new => { s with mem := s.mem.spPut u off (natToBytes w new) }
      | none => s, old)

/-- The bytes that an atomic rewrites at the home slice, none where it rewrites nothing (R240, R241). -/
def Mem.homeRewrite (m : Mem) (ctx pa w : Nat) (new : Option Nat) : Mem :=
  match new with
  | some v => m.homePut ctx pa (natToBytes w v)
  | none => m

/-- The read half and the write of an atomic at the home slice, after the issuing unit's copy is written back and dropped
(R206, R240, R244). -/
def State.atomMu (s : State) (pa w : Nat) (ea : Dword) (f : Nat → Option Nat) : Acc (State × Nat) :=
  let m := (s.mem.l1Drop s.slotUnit (pa / 128) s.slotCtx).l2Fill s.slotCtx (pa / 128)
  if m.homeBad pa then .error (memError ea { s with mem := m })
  else
    let old := bytesToNat (m.homeBytes pa w)
    .ok ({ s with mem := m.homeRewrite s.slotCtx pa w (f old) }, old)

/-- The value an atomic returns, when it names a destination (R239). -/
def atomRet (ty : Nat) (old : Nat) : Option Dword := some (loaded ty old)

/-- An atomic of R240. -/
def atomOp (dflt : Nat) (f : AtomFn) (o : Ops) (s : State) : Res State :=
  s.memory o (fun g t =>
    let ty := memT o dflt
    let w := wBytes ty
    let ea := eaOf o g
    let step (old : Nat) : Option Nat := f ty o.sat (loaded ty old) g.b.val g.c.val
    match t.locate o ea w .mu true true with
    | .error e => .error e
    | .ok (t, .sp u off) =>
      match t.atomSp u off w ea step with
      | .error e => .error e
      | .ok (t, old) => .ok (t.done o (atomRet ty old) 4 1)
    | .ok (t, .mem pa) =>
      match t.atomMu pa w ea step with
      | .error e => .error e
      | .ok (t, old) => .ok (t.done o (atomRet ty old) 6 1)
    | .ok (t, .remote k c a) => .ok (s.awaitRemote t o 1 k c a ty ea [g.b.val, g.c.val]))

/-! ### DCAS and AMOV2 (R243) -/

/-- The first register of the group in C. -/
def groupReg : Opd → BitVec 5
  | .reg c => c
  | _ => 0

/-- Whether every register of the groups of DCAS and AMOV2 is at hand (R36, R243). -/
def Slot.pairHeld (x : Slot) (o : Ops) (n : Nat) : Bool :=
  x.groupHeld o true (groupReg o.c) n && (o.d == .absent || x.groupHeld o false (groupReg o.d) 2)

/-- The kind and permission tests of two translations, p before q at each step (R243, R265). -/
def admitPair (t t' : Tr) (p q : Nat) : Except Flt Unit :=
  if t.kind ≠ .mu then .error { code := 0x22, addr := BitVec.ofNat 64 p, info := t.pte }
  else if t'.kind ≠ .mu then .error { code := 0x22, addr := BitVec.ofNat 64 q, info := t'.pte }
  else if !(t.r && t.w) then .error { code := 0x23, addr := BitVec.ofNat 64 p, info := t.pte }
  else if !(t'.r && t'.w) then .error { code := 0x23, addr := BitVec.ofNat 64 q, info := t'.pte }
  else .ok ()

/-- Two locations translated, every fault raised before any lock (R243). -/
def State.locatePair (s : State) (p q : Dword) : Acc (State × Nat × Nat) :=
  match translate s s.slotUnit s.slotCtx p.toNat with
  | .error f => .error (f, s)
  | .ok (s1, t) =>
    match translate s1 s1.slotUnit s1.slotCtx q.toNat with
    | .error f => .error (f, s1)
    | .ok (s2, t') =>
      match admitPair t t' p.toNat q.toNat with
      | .error f => .error (f, s2)
      | .ok _ => .ok (s2, t.pa, t'.pa)

/-- The alignment test of DCAS and AMOV2 (R243): of halves that are aligned and overlap the fault names q (the model's choice, log
entry 21). -/
def pairAligned (s : State) (p q : Dword) (w : Nat) : Acc Unit :=
  if p.toNat % w ≠ 0 then .error ({ code := 0x20, addr := p }, s)
  else if q.toNat % w ≠ 0 || (p.toNat < q.toNat + w && q.toNat < p.toNat + w) then .error ({ code := 0x20, addr := q }, s)
  else .ok ()

/-- The two halves performed under both locks (R220, R243, R244): nothing is written when either read half meets an
uncorrectable error. -/
def State.pairStep (s : State) (p q : Nat) (w : Nat) (ep eq : Dword) (f : Nat → Nat → Option (Nat × Nat)) :
    Acc (State × Nat × Nat) :=
  let m := (s.mem.l1Drop s.slotUnit (p / 128) s.slotCtx).l1Drop s.slotUnit (q / 128) s.slotCtx
  let m := (m.l2Fill s.slotCtx (p / 128)).l2Fill s.slotCtx (q / 128)
  if m.homeBad p then .error (memError ep { s with mem := m })
  else if m.homeBad q then .error (memError eq { s with mem := m })
  else
    let op := bytesToNat (m.homeBytes p w)
    let oq := bytesToNat (m.homeBytes q w)
    let m := match f op oq with
      | some (np, nq) => (m.homePut s.slotCtx p (natToBytes w np)).homePut s.slotCtx q (natToBytes w nq)
      | none => m
    .ok ({ s with mem := m }, op, oq)

/-- The old pair brought to D and D + 1, and the instruction retired (R243). -/
def State.donePair (s : State) (o : Ops) (ty op oq : Nat) : State :=
  let x := match o.d with
    | .reg c => s.slot.setGroup o c [loaded ty op, loaded ty oq]
    | _ => s.slot
  { s with slot := (x.retire o).owe 6 2 }

/-- DCAS and AMOV2 of R243: `n` registers from C on decide what is written. -/
def pairOp (n : Nat) (f : Nat → List Nat → Nat → Nat → Option (Nat × Nat)) (o : Ops) (s : State) : Res State :=
  s.memory o (fun g t =>
    let ty := memT o 11
    let w := wBytes ty
    let p := g.a.val
    let q := g.b.val
    let cs := (s.slot.srcGroup o (groupReg o.c) n).map (fun v => low ty v)
    match pairAligned t p q w with
    | .error e => .error e
    | .ok _ =>
      match hvTarget (t.ctx t.slotCtx) p.toNat, hvTarget (t.ctx t.slotCtx) q.toNat with
      | some (k, c, a), _ => .ok (s.awaitRemote t o 2 k c a ty p (q :: cs.map (BitVec.ofNat 64)))
      | none, some (k, c, a) => .ok (s.awaitRemote t o 2 k c a ty q (p :: cs.map (BitVec.ofNat 64)))
      | none, none =>
        match t.locatePair p q with
        | .error e => .error e
        | .ok (t, pp, pq) =>
          match t.pairStep pp pq w p q (f ty cs) with
          | .error e => .error e
          | .ok (t, op, oq) => .ok (t.donePair o ty op oq))

/-- DCAS: both halves are written when both match (R243). -/
def dcasFn (_ : Nat) (cs : List Nat) (op oq : Nat) : Option (Nat × Nat) :=
  if op = cs.getD 0 0 && oq = cs.getD 1 0 then some (cs.getD 2 0, cs.getD 3 0) else none

/-- AMOV2: both halves are written (R243). -/
def amov2Fn (_ : Nat) (cs : List Nat) (_ _ : Nat) : Option (Nat × Nat) := some (cs.getD 0 0, cs.getD 1 0)

/-- A double atomic issued once its register groups are at hand. -/
def pairRun (n : Nat) (f : Nat → List Nat → Nat → Nat → Option (Nat × Nat)) (o : Ops) (s : State) : Res State :=
  if s.slot.pairHeld o n then pairOp n f o s
  else match s.slot.reads o .z with
    | .error e => .error (e, s)
    | .ok _ => .error (.wait, s)

/-- DCAS (R243). -/
def execDcas (o : Ops) (s : State) : Host.Outcome State Fault Refusal := s.run (pairRun 4 dcasFn o)
/-- AMOV2 (R243). -/
def execAmov2 (o : Ops) (s : State) : Host.Outcome State Fault Refusal := s.run (pairRun 2 amov2Fn o)

/-- AADD (R240). -/
def execAadd (o : Ops) (s : State) : Host.Outcome State Fault Refusal := s.run (atomOp 11 (intAtom (fun a b => a + b)) o)
/-- AADD in the longer forms (R240). -/
def execAaddLong (o : Ops) (s : State) : Host.Outcome State Fault Refusal := s.run (atomOp 11 (intAtom (fun a b => a + b)) o)
/-- AAND (R240). -/
def execAand (o : Ops) (s : State) : Host.Outcome State Fault Refusal := s.run (atomOp 11 (bitAtom (fun a b => a &&& b)) o)
/-- AAND in the longer forms (R240). -/
def execAandLong (o : Ops) (s : State) : Host.Outcome State Fault Refusal := s.run (atomOp 11 (bitAtom (fun a b => a &&& b)) o)
/-- AOR (R240). -/
def execAor (o : Ops) (s : State) : Host.Outcome State Fault Refusal := s.run (atomOp 11 (bitAtom (fun a b => a ||| b)) o)
/-- AOR in the longer forms (R240). -/
def execAorLong (o : Ops) (s : State) : Host.Outcome State Fault Refusal := s.run (atomOp 11 (bitAtom (fun a b => a ||| b)) o)
/-- AXOR (R240). -/
def execAxor (o : Ops) (s : State) : Host.Outcome State Fault Refusal := s.run (atomOp 11 (bitAtom (fun a b => a ^^^ b)) o)
/-- AXOR in the longer forms (R240). -/
def execAxorLong (o : Ops) (s : State) : Host.Outcome State Fault Refusal := s.run (atomOp 11 (bitAtom (fun a b => a ^^^ b)) o)
/-- AMIN (R240). -/
def execAmin (o : Ops) (s : State) : Host.Outcome State Fault Refusal := s.run (atomOp 11 (intAtom min) o)
/-- AMIN in the longer forms (R240). -/
def execAminLong (o : Ops) (s : State) : Host.Outcome State Fault Refusal := s.run (atomOp 11 (intAtom min) o)
/-- AMAX (R240). -/
def execAmax (o : Ops) (s : State) : Host.Outcome State Fault Refusal := s.run (atomOp 11 (intAtom max) o)
/-- AMAX in the longer forms (R240). -/
def execAmaxLong (o : Ops) (s : State) : Host.Outcome State Fault Refusal := s.run (atomOp 11 (intAtom max) o)
/-- AXCHG (R240). -/
def execAxchg (o : Ops) (s : State) : Host.Outcome State Fault Refusal := s.run (atomOp 11 xchgAtom o)
/-- AXCHG in the longer forms (R240). -/
def execAxchgLong (o : Ops) (s : State) : Host.Outcome State Fault Refusal := s.run (atomOp 11 xchgAtom o)
/-- ACAS (R241). -/
def execAcas (o : Ops) (s : State) : Host.Outcome State Fault Refusal := s.run (atomOp 11 casAtom o)
/-- AFADD (R242). -/
def execAfadd (o : Ops) (s : State) : Host.Outcome State Fault Refusal := s.run (atomOp 2 faddAtom o)
/-- AFADD in the longer forms (R242). -/
def execAfaddLong (o : Ops) (s : State) : Host.Outcome State Fault Refusal := s.run (atomOp 2 faddAtom o)

end Sys2Proof.Machine
end

