-- ==== Sys2Proof/Machine/Save.lean ====
section
/-! DEFINITION. Forced save and restore (R60 to R62, R272 to R276, R350). What a save keeps is held whole as a snapshot beside
the bytes that R273 and R274 lay out (log entry 12). -/

namespace Sys2Proof.Machine

open Sys2Proof

/-! ### Stopping a forme (R272, steps 1 to 3) -/

/-- Every token on a link delivered. -/
def State.deliverAll (s : State) (e : End) : Nat → State
  | 0 => s
  | n + 1 =>
    match s.outAt e with
    | none => s
    | some p =>
      match p.flight, p.dst with
      | t :: ts, some dst => (s.deliver e t ts p dst).deliverAll e n
      | ts, none => s.setOut e { p with flight := [], credit := p.credit + ts.length }
      | [], _ => s

/-- The tokens of a partition's forme delivered into their receiving buffers (R272). -/
def State.settle (s : State) (p : Nat) : State :=
  (s.partEnds p).foldl (fun s e => s.deliverAll e (((s.outAt e).map (fun x => x.flight.length)).getD 0)) s

/-- The accesses of a partition that their homes have performed brought to their slots (R272). -/
def State.landAll (s : State) (p : Nat) : State :=
  (s.mem.waits.filter (fun w => (s.slotAt w.place).any (fun x => x.prt == p))).foldl (fun s w =>
    match w.done with
    | some vs => if w.err then s else s.finishWait w vs w.what.cls
    | none => s) s

/-- The waiting requests of a partition withdrawn (R257, R272): their instructions issue again after the restore. -/
def State.withdrawAll (s : State) (p : Nat) : State :=
  ((s.slots.filter (fun x => x.prt == p)).foldl (fun s x => s.withdraw x.place) s).mapSlots (fun x =>
    if x.prt == p then { x with busy := false } else x)

/-- A forme stopped (R272, steps 1 to 3), with the dirty lines of its L1s written back, so that its later accesses find them. -/
def State.halted (s : State) (p : Nat) : State :=
  let t := ((s.settle p).landAll p).withdrawAll p
  { t with mem := t.mem.l1DropUnits (t.part p).placedUnits (fun _ => true) (t.part p).ctx }

/-! ### The snapshot -/

/-- The image unit number of a compute unit of the resident forme. -/
def Part.imageUnit (q : Part) (u : Nat) : Option Nat := (q.imageOf (dieOf u) (mtTile u)).map (fun x => unitOf x.1 x.2)

/-- The compute units of the resident forme's image in ascending image unit number, with that number. -/
def State.imageUnits (s : State) (p : Nat) : List (Nat × Nat) :=
  let q := s.part p
  (List.range 768).flatMap (fun n => (q.formeCus.filter (fun u => q.imageUnit u == some n)).map (fun u => (n, u)))

/-- What a save keeps of a unit. -/
def State.unitSave (s : State) (p img u : Nat) : UnitSave :=
  { img := img, slots := s.slots.filter (fun x => x.prt == p && coordUnit x.place == u), mt := s.mt u,
    sram := trange s.mem.sram (spAddr u 0) (spAddr (u + 1) 0) |>.map (fun b => (b.1 - spAddr u 0, b.2)),
    full := (trange s.mem.full (spAddr u 0 / 4) (spAddr (u + 1) 0 / 4)).map (fun b => b.1 - spAddr u 0 / 4),
    bad := (trange s.mem.badWord (spAddr u 0 / 4) (spAddr (u + 1) 0 / 4)).map (fun b => b.1 - spAddr u 0 / 4),
    tern := s.tern u }

/-- The islands of a partition's forme by image die and number, in ascending image order. -/
def State.imageIslands (s : State) (p : Nat) : List (Nat × Island) :=
  let xs := (s.islands.filter (fun x => x.2.bound && x.2.prt == p)).map (fun x => (16 * (s.part p).islandDie x.1 x.2.img + x.2.img, x.2))
  (List.range 64).flatMap (fun n => xs.filter (fun x => x.1 == n))

/-- The placed edge unit of an edge unit of the resident forme's image (R106). -/
def Part.edgeOf (q : Part) (e : Nat) : Option Nat :=
  (q.candReg (edgeDie e)).bind (fun r => (mapCode r (edgeCode e)).map (fun x => edgeNum x.1 x.2))

/-- The edge units of a partition's forme by image number, in ascending order. -/
def State.imageEdges (s : State) (p : Nat) : List (Nat × Edge) :=
  ((List.range 160).map (fun i => 832 + i)).filterMap (fun e =>
    match (s.part p).edgeOf e with
    | some n => if s.edges.any (fun x => x.1 == n && x.2.prt == p) then some (e, s.edge n) else none
    | none => none)

/-- The syntax engines that a partition's forme uses, as image die times 8 plus number: those that serve a stream and those that
a path reaches. -/
def State.imageEngines (s : State) (p : Nat) : List Nat :=
  (List.range 32).filter (fun n => s.strms.any (fun x => x.engine == some (p, n)) || (s.imageEdges p).any (fun x => x.1 == 832 + n))

/-- Whether a command is one of a gather engine (R295). -/
def CmdKind.gathers : CmdKind → Bool
  | .gath _ _ _ _ _ _ _ => true
  | .scat _ _ _ _ _ _ _ => true
  | .cpy _ _ _ _ _ _ _ => false
  | .pclr _ _ => false
  | .pgsel _ _ => false
  | .kvapp _ _ _ => false
  | .kvld _ _ _ _ => false
  | .sxfeed _ _ _ _ => false
  | .sxfrm _ => false
  | .fwarp _ => false
  | .rfmark _ => false
  | .tchuck _ => false
  | .tfeed _ _ _ _ => false
  | .tdraw _ _ _ _ => false

/-- The blocks of engines in a save (R272): one for each syntax engine in use, then one for the gather engine of each unit that
has commands outstanding there. A collective engine holds nothing of a forme. -/
def State.engineBlocks (s : State) (p : Nat) : Nat :=
  (s.imageEngines p).length +
  ((s.imageUnits p).filter (fun u => s.cmds.any (fun c => c.prt == p && c.unit == u.2 && c.kind.gathers))).length

/-- What a save keeps of a forme (R61, R272). -/
def State.snapshot (s : State) (p : Nat) : Snap :=
  let q := s.part p
  { units := (s.imageUnits p).map (fun x => s.unitSave p x.1 x.2), islands := s.imageIslands p, edges := s.imageEdges p,
    engines := s.engineBlocks p, cmds := s.cmds.filter (fun c => c.prt == p), strms := s.strms.filter (fun x => x.engine.any (fun e => e.1 == p)), sects := q.sects,
    clears := (s.mem.clears.filter (fun c => c.1 == p)).map (fun c => c.2), record := q.record }

/-! ### The unit blocks (R273) -/

/-- The 96 bytes of slot number n of a unit; zero where no task stands (R271). -/
def slotBlock (xs : List Slot) (n : Nat) : List Byte :=
  match xs.find? (fun x => 4 * x.place.pe.toNat + x.place.slot.toNat == n) with
  | some x => x.stateBytes
  | none => List.replicate 96 0

/-- The kind byte of a token in a channel record (R273). -/
def Kind.byte : Kind → Nat
  | .elem => 0
  | .mrk .seg => 1
  | .mrk .row => 2
  | .mrk .ten => 3
  | .mrk .drn => 4

/-- The producing end whose tokens arrive at an end. -/
def State.producerOf (s : State) (p : Nat) (dst : End) : Option OutPort :=
  (s.partEnds p).findSome? (fun e => (s.outAt e).bind (fun x => if x.dst = some dst then some x else none))

/-- The 256 bytes of the record of a CT channel (R273): that of the input port it carries. -/
def State.channelBlock (s : State) (p : Nat) (xs : List Slot) (vc : Nat) : List Byte :=
  let found := xs.findSome? (fun x => ((List.range 8).find? (fun k => if h : k < 8 then x.ins[k].bound && x.ins[k].vc.toNat == vc else false)).map
    (fun k => (x, BitVec.ofNat 3 k)))
  match found with
  | none => List.replicate 256 0
  | some (x, k) =>
    let ts := (x.ins[k.toNat]'k.isLt).queue
    let src := s.producerOf p (.task x.place k)
    let head := natToBytes 1 ts.length ++ natToBytes 1 ((src.map (fun o => o.reserved)).getD 0) ++
      natToBytes 1 ((src.map (fun o => o.cap)).getD 0) ++ List.replicate 13 0
    (head ++ (ts.take 15).flatMap (fun (t : Tok) => natToBytes 8 t.val.toNat ++ natToBytes 1 t.kind.byte ++ List.replicate 7 0) ++
      List.replicate 240 0).take 256

/-- The 32 bytes of a ring's control (R273). -/
def RingCtl.block (r : RingCtl) : List Byte :=
  let taken := (r.taken.toList.zip [1, 2, 4, 8]).foldl (fun a b => a + b2n b.1 * b.2) 0
  natToBytes 4 r.next.toNat ++ r.cur.toList.flatMap (fun c => natToBytes 4 c.toNat) ++ natToBytes 4 taken ++
  natToBytes 8 (r.handle.getD 0).toNat

/-- The 8 bytes of an elastic stage in the partition header (R273). -/
def Stage.block (x : Stage) : List Byte :=
  let act := ((List.range x.reps.length).map (fun r => b2n ((x.reps[r]?).any (fun y => y.active)) * 2 ^ r)).foldl (fun a b => a + b) 0
  natToBytes 8 (act + x.deal % 4 * 16 + (x.dealt.headD x.deal) % 4 * 64)

/-- The 4,092 bytes of the partition header (R273). -/
def State.headerBlock (s : State) (p : Nat) : List Byte :=
  let q := s.part p
  let stage (g : Nat) : List Byte :=
    match q.placedUnits.find? (fun u => (s.mt u).stages.any (fun x => x.1 == g)) with
    | some u => (s.stage u g).block
    | none => natToBytes 8 0
  (natToBytes 8 (q.ridx + 1) ++ (List.range 4).flatMap (fun n => natToBytes 4 (s.tilesLeft p n)) ++ List.replicate 8 0 ++
    (List.range 256).flatMap stage ++ List.replicate 4096 0).take 4092

/-- The 96 bytes of a stream port (R273): the position in each of eight windows, then the first output token not taken. The
order within the 96 bytes is the model's (log entry 12). -/
def StreamPort.block (x : StreamPort) : List Byte :=
  (List.range 8).flatMap (fun w => natToBytes 8 (if w = x.win then x.pos else 0)) ++
  (match x.out.flight with
   | [] => List.replicate 32 0
   | t :: _ => natToBytes 8 t.val.toNat ++ natToBytes 1 t.kind.byte ++ List.replicate 23 0)

/-- A block with its CRC in its last 4 bytes (R273). -/
def crcSealed (bs : List Byte) : List Byte := bs ++ natToBytes 4 (crc32 bs)

/-- The 48 KiB of the k-th unit block (R273). -/
def State.unitBlock (s : State) (p k u : Nat) : List Byte × State :=
  let xs := s.slots.filter (fun x => x.prt == p && coordUnit x.place == u)
  let m := s.mt u
  let (priv, t) := s.privateBytes 2048
  (crcSealed ((List.range 256).flatMap (slotBlock xs) ++ (List.range 64).flatMap (s.channelBlock p xs) ++
    (List.range 256).flatMap (fun i => natToBytes 4 (tget 0 m.counters i).toNat) ++
    (List.range 8).flatMap (fun i => (tget {} m.rings i).block) ++
    (List.range 8).flatMap (fun i => (tget {} m.ports i).block) ++ priv ++
    (if k = 0 then s.headerBlock p else List.replicate 4092 0)), t)

/-! ### The array images (R274, R350) -/

/-- The state of a side line in an array image (R274). -/
def RingSt.code : RingSt → Nat
  | .empty => 0
  | .filling => 1
  | .full => 2
  | .draining => 3

/-- The 512 bytes of the registers of slot number n of a unit (R274): zero where no task stands. -/
def regBlock (xs : List Slot) (n : Nat) : List Byte :=
  match xs.find? (fun x => 4 * x.place.pe.toNat + x.place.slot.toNat == n) with
  | some x => x.phys.toList.flatMap (fun v => natToBytes 8 v.toNat)
  | none => List.replicate 512 0

/-- The bytes of the ternary array in an array image: trits and accumulators (R351). -/
def ternBytes : Nat := 4352

/-- The pieces of a unit's array image whose layout R274 gives: offset and bytes. -/
def State.arrayImage (s : State) (p u : Nat) : List (Nat × List Byte) :=
  let m := s.mt u
  let xs := s.slots.filter (fun x => x.prt == p && coordUnit x.place == u)
  let n := m.split * 2 ^ 17
  let flag (w : Nat) : Nat := b2n (s.mem.tag (spAddr u 0 / 4 + w))
  let eight (i : Nat) : Nat := ((List.range 8).map (fun b => flag (8 * i + b) * 2 ^ b)).foldl (fun a b => a + b) 0
  [(0, (List.range 256).flatMap (regBlock xs)), (0x20000, readBytes s.mem.sram (spAddr u 0) n), (0x220000, (List.range (n / 32)).flatMap (fun i => natToBytes 1 (eight i))),
   (0x230000, (List.range (n / 128)).flatMap (fun i =>
     let x := tget {} m.side i
     natToBytes 8 (x.st.code + x.ring % 8 * 4 + x.seq.toNat * 2 ^ 32)))]

/-- The distance of array images: 2.5 MiB (R272). -/
def imageStep : Nat := 5 * 2 ^ 19

/-- The physical addresses of the blocks of a save: unit blocks, then the 4 KiB blocks of islands and engines (R272). -/
def blockAddrs (base units small : Nat) : List (Nat × Nat) :=
  (List.range units).map (fun k => (base + 0xC000 * k, 0xC000)) ++ (List.range small).map (fun i => (base + 0xC000 * units + 4096 * i, 4096))

/-- The k-th unit's block and array image written; the layout of the ternary array in it is private (R351). -/
def State.writeUnit (s : State) (p k u : Nat) : State :=
  let q := s.part p
  let r := s.unitBlock p k u
  let c := r.2.privateBytes ternBytes
  let m := c.2.mem.physPut (q.savebase + 0xC000 * k) r.1
  { c.2 with mem := (s.arrayImage p u ++ [(0x250000, c.1)]).foldl (fun (m : Mem) (x : Nat × List Byte) => m.physPut (q.xsavebase + imageStep * k + x.1) x.2) m }

/-- The i-th 4 KiB block after the unit blocks written (R272): its layout is private. -/
def State.writeSmall (s : State) (p units i : Nat) : State :=
  let b := s.privateBytes 4092
  { b.2 with mem := b.2.mem.physPut ((s.part p).savebase + 0xC000 * units + 4096 * i) (crcSealed b.1) }

/-- An island's plane image written (R350): its layout is private. -/
def State.writePlane (s : State) (p units i : Nat) : State :=
  let c := s.privateBytes (2 ^ 17)
  { c.2 with mem := c.2.mem.physPut ((s.part p).xsavebase + imageStep * units + 2 ^ 17 * i) c.1 }

/-- The save area written (R272, steps 5 and 6). -/
def State.writeSave (s : State) (p : Nat) : State :=
  let us := s.imageUnits p
  let isls := (s.imageIslands p).length
  let small := isls + s.engineBlocks p
  let s := (List.range us.length).foldl (fun s k => s.writeUnit p k ((us.map (fun x => x.2)).getD k 0)) s
  let s := (List.range small).foldl (fun s i => s.writeSmall p us.length i) s
  (List.range isls).foldl (fun s i => s.writePlane p us.length i) s

/-! ### DRAIN_LIMIT_EXPIRY (R60, R61, R272) -/

/-- The forced save (R61): the forme stopped, saved, and its units freed. -/
def State.forceSave (s : State) (p : Nat) : State :=
  let s := s.halted p
  let snap := s.snapshot p
  let s := s.writeSave p
  let s : State := { s with mem := { s.mem with clears := s.mem.clears.filter (fun c => c.1 != p) } }
  (s.dropForme p).yieldPart p (s.part p).ridx (some snap)

/-- DRAIN_LIMIT_EXPIRY (R60): the limit has passed since the request and the forme has not drained. An access to another
package that waits on a link that is down is withdrawn (R419); one already accepted there is let complete first (R272). -/
def execDrainLimitExpiry (p : Nat) (s : State) : Host.Outcome State Fault Refusal :=
  let q := s.part p
  .next (if q.phase = .run && q.preempt && s.passed q.preAt q.drlim then s.forceSave p else s)

/-! ### CONTEXT_RESTORE (R62, R275, R276) -/

/-- The first block of a save whose CRC does not match (R275). -/
def State.badBlock (s : State) (p : Nat) (snap : Snap) : Option Nat :=
  ((blockAddrs (s.part p).savebase snap.units.length (snap.islands.length + snap.engines)).find? (fun b =>
    let bs := s.mem.homeBytes b.1 b.2
    crc32 (bs.take (b.2 - 4)) != bytesToNat (bs.drop (b.2 - 4)))).map (fun b => b.1)

/-- An input port restored: the buffer saved, the declarations of the image. -/
def InPort.restore (p old : InPort) : InPort := { p with queue := old.queue, taken := old.taken, freed := old.freed }

/-- An output port restored. -/
def OutPort.restore (p old : OutPort) : OutPort :=
  { p with credit := old.credit, reserved := old.reserved, sent := old.sent, flight := old.flight, promised := old.promised, counts := old.counts }

/-- A slot restored (R275, R276): one saved in suspension whose resume came issues its instruction again. -/
def Slot.restore (x old : Slot) : Slot :=
  let back := old.st = .suspended && old.resume
  { x with st := if back then .firing else old.st, pc := old.pc, calls := old.calls, loops := old.loops, phys := old.phys, wbase := old.wbase,
           vcache := old.vcache, vsaved := old.vsaved, rmode := old.rmode, fsticky := old.fsticky, amax := old.amax, rng := old.rng,
           fires := old.fires, mkSeg := old.mkSeg, mkRow := old.mkRow, mkTen := old.mkTen,
           ins := Vector.ofFn (fun i : Fin 8 => x.ins[i].restore old.ins[i]), outs := Vector.ofFn (fun i : Fin 8 => x.outs[i].restore old.outs[i]),
           fbs := old.fbs, sms := old.sms, owed := old.owed, sysFence := old.sysFence, faultSeq := if back then none else old.faultSeq, resume := false }

/-- A window restored: the one of the frames read at the restore (R62). Where it is the window of the save it keeps the direct
mark and the base that its forme's start latched (R259), so that the restore changes no result. -/
def Window.restore (w old : Window) (cx : Ctx) : Window :=
  if { w with direct := none } = { old with direct := none } then old else w.mark cx

/-- A stream port restored, in a context. -/
def StreamPort.restore (x old : StreamPort) (cx : Ctx) : StreamPort :=
  { x with wins := x.wins.map (fun w => (w.1, w.2.restore (tget {} old.wins w.1) cx)), out := x.out.restore old.out, todo := old.todo, pos := old.pos, drn := old.drn }

/-- A replica restored. -/
def Replica.restore (x old : Replica) : Replica :=
  { x with deal := x.deal.restore old.deal, coll := x.coll.map (fun c => c.restore (old.coll.getD {})), active := old.active, park := old.park }

/-- A stage restored. -/
def Stage.restore (x old : Stage) : Stage :=
  { x with queue := x.queue.restore old.queue, leave := x.leave.map (fun l => l.restore (old.leave.getD {})),
           reps := x.reps.zipWith Replica.restore old.reps, deal := old.deal, collect := old.collect, last := old.last, dealt := old.dealt,
           floor := old.floor, drn := old.drn }

/-- A memory tile restored (R275), in a context. -/
def Mt.restore (x old : Mt) (cx : Ctx) : Mt :=
  { x with split := old.split, drift := old.drift, lastCtx := old.lastCtx, counters := old.counters, side := old.side, rings := old.rings,
           ports := x.ports.map (fun k => (k.1, k.2.restore (tget {} old.ports k.1) cx)),
           stages := x.stages.map (fun g => (g.1, g.2.restore (tget {} old.stages g.1))) }

/-- An island restored (R350). -/
def Island.restore (x old : Island) : Island :=
  { x with cmd := x.cmd.restore old.cmd, feed := x.feed.restore old.feed, draw := x.draw.restore old.draw, plane := old.plane, scale := old.scale,
           shadow := old.shadow, sscale := old.sscale, acc := old.acc, cur := old.cur, taken := old.taken, pend := old.pend, todo := old.todo,
           drn := old.drn }

/-- The compute unit to which the placement maps an image unit. -/
def Part.unitOfImage (q : Part) (img : Nat) : Nat :=
  match q.placed (dieOf img) (mtTile img) with
  | some (d, t) => unitOf d t
  | none => 0

/-- An edge unit restored. -/
def Edge.restore (x old : Edge) : Edge :=
  { x with ins := x.ins.map (fun k => (k.1, k.2.restore (tget {} old.ins k.1))), outs := x.outs.map (fun k => (k.1, k.2.restore (tget {} old.outs k.1))),
           drn := old.drn }

/-- A line of the side array as an array image holds it (R274). -/
def sideOf (v : Nat) : SideLine :=
  { st := if v % 4 = 1 then .filling else if v % 4 = 2 then .full else if v % 4 = 3 then .draining else .empty,
    ring := bits v 4 2, seq := BitVec.ofNat 32 (bits v 63 32) }

/-- The registers, the scratchpad, the full/empty bits and the side array that an array image at a physical address holds put into
what a save keeps of a unit (R274; R275, step 3). -/
def Mem.loadImage (m : Mem) (base : Nat) (x : UnitSave) : UnitSave :=
  let n := x.mt.split * 2 ^ 17
  let index (bs : List Nat) : List (Nat × Nat) := (List.range bs.length).zip bs
  let regs (y : Slot) : Vector Dword 64 := Vector.ofFn (fun i : Fin 64 =>
    BitVec.ofNat 64 (bytesToNat (m.homeBytes (base + 512 * (4 * y.place.pe.toNat + y.place.slot.toNat) + 8 * i.val) 8)))
  let flags := (m.homeBytes (base + 0x220000) (n / 32)).map (fun b => b.toNat)
  { x with
    slots := x.slots.map (fun (y : Slot) => { y with phys := regs y }),
    sram := (index ((m.homeBytes (base + 0x20000) n).map (fun b => b.toNat))).filterMap (fun b => if b.2 = 0 then none else some (b.1, BitVec.ofNat 8 b.2)),
    full := (index flags).flatMap (fun b => (List.range 8).filterMap (fun k => if b.2.testBit k then some (8 * b.1 + k) else none)),
    mt := { x.mt with side := (List.range (n / 128)).foldl (fun t i =>
      tput {} t i (sideOf (bytesToNat (m.homeBytes (base + 0x230000 + 8 * i) 8)))) [] } }

/-- A unit restored (R275, steps 3 to 5). -/
def State.restoreUnit (s : State) (p : Nat) (x : UnitSave) : State :=
  let u := (s.part p).unitOfImage x.img
  let m := (s.mem.l1DropAll u (fun _ => true) (s.part p).ctx).wipe u
  let m : Mem := { m with full := tdrop m.full (spAddr u 0 / 4) (spAddr (u + 1) 0 / 4) }
  let m : Mem := { m with sram := x.sram.foldl (fun t b => tput 0 t (spAddr u b.1) b.2) m.sram,
                          full := x.full.foldl (fun t w => tput false t (spAddr u 0 / 4 + w) true) m.full,
                          badWord := x.bad.foldl (fun t w => tput false t (spAddr u 0 / 4 + w) true) m.badWord }
  let s := ({ s with mem := m }.setMt u ((s.mt u).restore x.mt (s.ctx (s.part p).ctx))).setTern u x.tern
  s.mapSlots (fun y =>
    if y.prt == p && y.st != .noTask then
      match x.slots.find? (fun old => old.id == y.id) with
      | some old => y.restore old
      | none => y
    else y)

/-- The placed coordinates that a slot of a snapshot now has. -/
def State.newPlace (s : State) (p : Nat) (snap : Snap) (c : Coord) : Coord :=
  match (snap.units.flatMap (fun u => u.slots)).find? (fun x => x.place == c) with
  | none => c
  | some old => ((s.slots.find? (fun x => x.prt == p && x.id == old.id)).map (fun x => x.place)).getD c

/-- A placed unit taken by the context of a partition outside a forme start: one that another context last used starts afresh
(R201). -/
def State.takeUnit (s : State) (p u : Nat) : State :=
  if (s.mt u).lastCtx = some (s.part p).ctx then s else s.startUnit p u

/-- A forme restored from its snapshot (R275, steps 3 to 8), its placed units taken first (R201). -/
def State.restoreForme (s : State) (p : Nat) (snap : Snap) : State :=
  let q := s.part p
  let s := q.placedUnits.foldl (fun s u => s.takeUnit p u) s
  let s := ((List.range snap.units.length).zip snap.units).foldl (fun s x =>
    s.restoreUnit p (s.mem.loadImage (q.xsavebase + imageStep * x.1) x.2)) s
  let s := snap.islands.foldl (fun s x =>
    match (q.candReg (x.1 / 16)).bind (fun r => mapIsland r (x.1 % 16)) with
    | some (d, k) => s.setIsl (16 * d + k) ((s.isl (16 * d + k)).restore x.2)
    | none => s) s
  let s := snap.edges.foldl (fun s x =>
    match q.edgeOf x.1 with
    | some n => s.setEdge n ((s.edge n).restore x.2)
    | none => s) s
  let move (c : Cmd) : Cmd :=
    let pl := s.newPlace p snap c.place
    { c with place := pl, unit := coordUnit pl }
  let kept (x : Strm) : Bool := snap.strms.any (fun y => y.ctx == x.ctx && y.handle == x.handle)
  let s : State := { s with cmds := s.cmds ++ snap.cmds.map move, strms := s.strms.filter (fun x => !kept x) ++ snap.strms,
                            mem := { s.mem with clears := s.mem.clears ++ snap.clears.map (fun c => (p, c.1, c.2)) } }
  s.setPart p { s.part p with phase := .run, restore := none, sects := snap.sects }

/-- CONTEXT_RESTORE (R62, R275): every block is checked, then the forme goes on. -/
def execContextRestore (p : Nat) (s : State) : Host.Outcome State Fault Refusal :=
  let q := s.part p
  .next (match q.restore with
    | none => s
    | some snap =>
      if q.phase ≠ .loaded then s
      else match s.badBlock p snap with
        | some pa => s.raiseSeq p { code := 0x2A, addr := BitVec.ofNat 64 pa }
        | none => s.restoreForme p snap)

end Sys2Proof.Machine
end

