-- ==== Sys2Proof/Machine/Faults.lean ====
section
/-! DEFINITION. Fault rings, resumption, function resets, unit errors and fencing, and the device log (R267, R268, R276, R278 to
R280, R428, R429). -/

namespace Sys2Proof.Machine

open Sys2Proof

/-! ### FRBASE_WRITE, FRTAIL_WRITE (R267) -/

/-- The held records of a ring numbered from 0. -/
def renumber (xs : List (Word × FRec)) : List (Word × FRec) := (List.range xs.length).zipWith (fun i x => (BitVec.ofNat 32 i, x.2)) xs

/-- A ring with a new base (R267): it starts empty; records still held take its first numbers. -/
def FRing.rebase (r : FRing) (m : Mem) (pa : Nat) : Mem × FRing :=
  let x : FRing := { r with base := pa, head := 0, tail := 0, held := renumber r.held }
  x.flush m x.held

/-- The number that a suspended task's record has after its ring was moved. -/
def newSeq (xs : List (Word × FRec)) (q : Option Word) : Option Word :=
  match (List.range xs.length).find? (fun i => (xs[i]?).map (fun x => x.1) == q) with
  | some i => some (BitVec.ofNat 32 i)
  | none => q

/-- A write of FRBASE (R267, R281). -/
def State.frbase (s : State) (p : Nat) (v : Dword) : State :=
  let q := s.part p
  let r := q.ring.rebase s.mem (bits v.toNat 51 12 * 2 ^ 12)
  let s : State := { s with mem := r.1 }
  (s.setPart p { q with ring := r.2 }).mapSlots (fun x =>
    if x.prt == p && x.st == .suspended then { x with faultSeq := newSeq q.ring.held x.faultSeq } else x)

/-- FRBASE_WRITE (R267). -/
def execFrbaseWrite (p : Nat) (v : Dword) (s : State) : Host.Outcome State Fault Refusal := .next (s.hosted (s.frbase p v))

/-- A write of FRTAIL (R267). -/
def State.frtail (s : State) (p : Nat) (v : Dword) : State :=
  let q := s.part p
  let r := q.ring.reclaim s.mem (v.setWidth 32)
  { s with mem := r.1 }.setPart p { q with ring := r.2 }

/-- FRTAIL_WRITE (R267). -/
def execFrtailWrite (p : Nat) (v : Dword) (s : State) : Host.Outcome State Fault Refusal := .next (s.hosted (s.frtail p v))

/-! ### FRESUME_WRITE (R268, R276) -/

/-- Whether a saved slot is suspended by a record. -/
def Slot.suspendedBy (x : Slot) (seq : Word) : Bool := x.st == .suspended && x.faultSeq == some seq

/-- A snapshot in which a suspended task's resume has been received (R276). -/
def Snap.resume (z : Snap) (seq : Word) : Snap :=
  { z with units := z.units.map (fun u => { u with slots := u.slots.map (fun x => if x.suspendedBy seq then { x with resume := true } else x) }) }

/-- FLG[0] of a saved slot state set in its unit block (R271, R273, R276). -/
def Mem.setFlg (m : Mem) (block n : Nat) : Mem :=
  let bs := m.homeBytes block 0xBFFC
  let bs := bs.set (96 * n + 3) ((bs.getD (96 * n + 3) 0) ||| 1)
  m.physPut block (crcSealed bs)

/-- FLG[0] set in the save area of a partition for the tasks of a snapshot that a record suspended (R276). -/
def State.flagSaved (s : State) (p : Nat) (z : Snap) (seq : Word) : State :=
  let hits := (List.range z.units.length).flatMap (fun k =>
    (((z.units[k]?).map (fun u => u.slots)).getD []).filter (fun x => x.suspendedBy seq) |>.map (fun x =>
      ((s.part p).savebase + 0xC000 * k, 4 * x.place.pe.toNat + x.place.slot.toNat)))
  { s with mem := hits.foldl (fun (m : Mem) (h : Nat × Nat) => m.setFlg h.1 h.2) s.mem }

/-- A snapshot held of a partition resumed. -/
def State.resumeSnap (s : State) (p : Nat) (z : Snap) (seq : Word) : State × Snap :=
  if z.units.any (fun u => u.slots.any (fun x => x.suspendedBy seq)) then (s.flagSaved p z seq, z.resume seq) else (s, z)

/-- The saved formes of a partition's queues resumed. -/
def State.resumeKept (s : State) (p : Nat) (seq : Word) : State :=
  s.lqs.foldl (fun s x =>
    let q := tget {} s.lqs x.1
    if q.prt ≠ p then s
    else match q.kept with
      | none => s
      | some k =>
        match k.snap with
        | none => s
        | some z =>
          let r := s.resumeSnap p z seq
          { r.1 with lqs := tput {} r.1.lqs x.1 { q with kept := some { k with snap := some r.2 } } }) s

/-- FRESUME_WRITE (R268, R276): the task suspended by the record issues again, at once or after its restore. -/
def State.fresume (s : State) (p : Nat) (v : Dword) : State :=
  let seq : Word := v.setWidth 32
  let s := (s.resumeTask p seq).resumeKept p seq
  match (s.part p).restore with
  | none => s
  | some z =>
    let r := s.resumeSnap p z seq
    r.1.setPart p { r.1.part p with restore := some r.2 }

/-- FRESUME_WRITE (R268). -/
def execFresumeWrite (p : Nat) (v : Dword) (s : State) : Host.Outcome State Fault Refusal := .next (s.hosted (s.fresume p v))

/-! ### Reduction windows ended by a reset (R280, R422) -/

/-- A reduction window. -/
def State.rwin (s : State) (w : Nat) : RedWin := tget {} s.sys.rwins w
/-- A reduction window replaced. -/
def State.setRwin (s : State) (w : Nat) (x : RedWin) : State := { s with sys := { s.sys with rwins := tput {} s.sys.rwins w x } }

/-- The end of a round of a reduction window: the single write of its status word, and the next round (R422). -/
def State.endRound (s : State) (w status : Nat) : State :=
  let x := s.rwin w
  let ctx := bits x.cfg.toNat 11 0
  let va := bits x.cva.toNat 51 3 * 8 + 8 * (x.round.toNat % 512)
  let s := s.setRwin w { x with round := x.round + 1, held := [], merged := [], peers := if status = 1 then x.peers else [] }
  match translate s 0 ctx va with
  | .error _ => s
  | .ok (t, tr) =>
    if tr.kind ≠ .wo || !tr.w || t.mem.isPresent (tr.pa / 8) then t
    else { t with mem := t.mem.woPut (tr.pa / 8) (x.round.toNat + status * 2 ^ 32) }

/-- The granules of a window. -/
def RedWin.granules (x : RedWin) : Nat := bits x.size.toNat 35 0 * 2 ^ 13
/-- The lane type of a window (R421). -/
def RedWin.ty (x : RedWin) : Nat := bits x.cfg.toNat 60 56
/-- The participants of a window. -/
def RedWin.n (x : RedWin) : Nat := bits x.cfg.toNat 55 48
/-- Whether a window is enabled (R418, R421). -/
def RedWin.on (x : RedWin) : Bool :=
  bit x.cfg.toNat 63 && [1, 2, 3, 4, 10, 11, 14, 15].contains x.ty && 2 ≤ x.n && x.n ≤ 64 && x.granules != 0

/-- Whether a source can be a participant of the current round (R421, R422): one that has contributed, or any while fewer than N
are known. -/
def RedWin.mayJoin (x : RedWin) (pkg ctx : Nat) : Bool := x.peers.contains (pkg, ctx) || x.peers.length < x.n

/-- Whether a context has a Holvor window that reaches a reduction window of this package (R421). -/
def State.aims (s : State) (c : Nat) (x : RedWin) : Bool :=
  (s.ctx c).hvwins.any (fun (k : Nat × HvWin) =>
    let w := k.2
    let rva := bits w.rva.toNat 51 16 * 2 ^ 16
    let size := bits w.size.toNat 35 0 * 2 ^ 16
    size != 0 && rva + size ≤ 2 ^ 52 && bits w.tgt.toNat 47 32 == s.sys.hvpkg.toNat && bits w.tgt.toNat 11 0 == bits x.cfg.toNat 11 0 &&
    rva < x.base.toNat + 8 * x.granules && x.base.toNat < rva + size)

/-- Whether a context of this package takes part in the round of a window (R280, R422): it has contributed, or one of its Holvor
windows reaches the window, whether it has contributed or not. -/
def State.takesPart (s : State) (x : RedWin) (ctx : Nat) : Bool :=
  let pkg := s.sys.hvpkg.toNat
  x.on && (x.peers.contains (pkg, ctx) || (s.aims ctx x && x.mayJoin pkg ctx))

/-- The rounds in which contexts of this package take part ended with status 2, each once (R280, R422). -/
def State.abortPeers (s : State) (cs : List Nat) : State :=
  s.sys.rwins.foldl (fun (s : State) (w : Nat × RedWin) => if cs.any (s.takesPart (s.rwin w.1)) then s.endRound w.1 2 else s) s

/-! ### VF_RESET (R280) -/

/-- The contexts that a function owns (R417). -/
def State.ctxsOf (s : State) (f : Nat) : List Nat := (s.ctxs.filter (fun c => c.2.en && c.2.fn == f)).map (fun c => c.1)

/-- A launch queue returned by a reset: every slot from the head on free, and none kept (R280). -/
def State.returnQueue (s : State) (f n : Nat) : State :=
  let q := s.lq f n
  let cnt := min (q.prod - q.head).toNat (2 ^ q.log2)
  let s := (List.range cnt).foldl (fun s i => s.clearSlot q.prt (q.slotVa (q.head + BitVec.ofNat 32 i))) s
  s.setLq f n { q with head := q.prod, kept := none }

/-- The lines and translations of a context dropped, dirty lines unwritten (R280, steps 3 and 4). -/
def Mem.dropCtx (m : Mem) (c : Nat) : Mem :=
  { m with l1 := m.l1.filter (fun l => l.ctx != c), l2 := m.l2.filter (fun l => l.ctx != c),
           dieTlb := (m.dieTlb.map (fun t => (t.1, t.2.filter (fun e => e.ctx != c)))).filter (fun t => !t.2.isEmpty),
           mtTlb := (m.mtTlb.map (fun t => (t.1, t.2.filter (fun e => e.ctx != c)))).filter (fun t => !t.2.isEmpty) }

/-- A function's reset (R280). The dirty lines are dropped before the partitions stop as well as after, so that the stop finds none
to write back. -/
def State.resetFn (s : State) (f : Nat) : State :=
  let cs := s.ctxsOf f
  let s : State := { s with mem := cs.foldl Mem.dropCtx s.mem }
  let ps := (s.parts.filter (fun q => q.2.fn == f && q.2.en)).map (fun q => q.1)
  let s := ps.foldl (fun s p => (s.stopPart p).setPart p ((s.stopPart p).part p).freed) s
  let s := (List.range 8).foldl (fun s n => s.returnQueue f n) s
  let s : State := { s with mem := cs.foldl Mem.dropCtx s.mem, strms := s.strms.filter (fun x => !cs.contains x.ctx),
                            hvReplies := s.hvReplies.filter (fun r => !cs.contains r.ctx) }
  let s := s.abortPeers cs
  { s with sys := { s.sys with rsts := tput false s.sys.rsts f true } }

/-- VF_RESET (R280, R410). -/
def execVfReset (f : Nat) (s : State) : Host.Outcome State Fault Refusal := .next (s.hosted (s.resetFn f))

/-! ### UNIT_ERROR and UNFENCE_WRITE (R277, R278, R429) -/

/-- A unit's reliability state. -/
def State.unitSt (s : State) (u : Nat) : UnitSt := tget {} s.sys.units u
/-- A unit's reliability state replaced. -/
def State.setUnitSt (s : State) (u : Nat) (x : UnitSt) : State := { s with sys := { s.sys with units := tput {} s.sys.units u x } }

/-- The partition that holds a unit. -/
def State.holder (s : State) (u : Nat) : Option Nat := (s.parts.find? (fun q => q.2.has u)).map (fun q => q.1)

/-- A notice (R264, R278): its code and its count, charged to the context of the partition that holds the unit. -/
def State.notice (s : State) (u code info : Nat) : FRec :=
  { code := code, cls := 3, sub := 0, ctx := ((s.holder u).map (fun p => (s.part p).ctx)).getD 0, iw0 := 0, iw1 := 0, pc := 0, imgc := 0,
    place := 0, src := 3, ridx := 0, tag := 0, addr := 0, info := BitVec.ofNat 64 info, time := s.timer }

/-- Whether a unit belongs to the resident forme of a partition (R278). -/
def State.inForme (s : State) (p u : Nat) : Bool :=
  let q := s.part p
  if u < 768 then q.formeCus.contains u
  else if u < 832 then (s.isl (u - 768)).bound && (s.isl (u - 768)).prt == p
  else s.strms.any (fun x => x.engine.any (fun e => e.1 == p && s.engineUnit p (e.2 / 8) (e.2 % 8) == some u)) ||
    s.edges.any (fun x => x.1 == u && x.2.prt == p)

/-- A partition without a unit (R278). -/
def Part.without (q : Part) (u : Nat) : Part :=
  { q with map := if h : u / 64 < 14 then q.map.set (u / 64) (q.map[u / 64] &&& ~~~((1 : Dword) <<< (u % 64))) h else q.map }

/-- A resident forme taken off its units without waiting for the drain limit (R278). -/
def State.evict (s : State) (p : Nat) : State :=
  match (s.part p).phase with
  | .run => s.forceSave p
  | .loaded => s.preemptPart p
  | _ => s

/-- A unit with a lasting fault (R278): notices, the forced save of the forme it belongs to, and the unit fenced out. -/
def State.fence (s : State) (u : Nat) : State :=
  let n := s.notice u 0x14 0
  let s := s.emitDev n
  let s := match s.holder u with
    | none => s
    | some p =>
      let s := s.emit p { n with ridx := (s.part p).ridx, tag := (s.part p).tag }
      let s := if s.inForme p u then s.evict p else s
      s.setPart p ((s.part p).without u)
  s.setUnitSt u { s.unitSt u with fenced := true }

/-- An error counted at a unit, with the scratchpad words that it poisons (R277, R278). -/
def State.unitError (s : State) (u : Nat) (words : List Nat) : State :=
  let x := s.unitSt u
  let now := s.timer.toNat
  let es := x.errors.filter (fun t => now < t + 16 * 10 ^ 9) ++ [now]
  let s := s.setUnitSt u { x with errors := es }
  let bad := if u < 768 then words.filter (fun w => w < 2 ^ 19) else []
  let s : State := { s with mem := { s.mem with badWord := bad.foldl (fun t w => tput false t (spAddr u 0 / 4 + w) true) s.mem.badWord } }
  let s := s.emitDev (s.notice u 0x13 es.length)
  if 8 ≤ es.length && !x.fenced then s.fence u else s

/-- UNIT_ERROR (R277, R278). -/
def execUnitError (u : Nat) (words : List Nat) (s : State) : Host.Outcome State Fault Refusal := .next (s.unitError u words)

/-- A write of UNFENCE (R429). -/
def State.unfence (s : State) (v : Dword) : State :=
  let u := v.toNat % 1024
  let x := s.unitSt u
  if x.fenced && !x.absent then s.setUnitSt u { x with fenced := false, errors := [] } else s

/-- UNFENCE_WRITE (R418, R429). -/
def execUnfenceWrite (v : Dword) (s : State) : Host.Outcome State Fault Refusal := .next (s.hosted (s.unfence v))

/-! ### DLBASE_WRITE and DLTAIL_WRITE (R428) -/

/-- The device log replaced. -/
def State.setLog (s : State) (r : Mem × FRing) : State := { s with mem := r.1, sys := { s.sys with dlog := r.2 } }

/-- A write of DLBASE (R418, R428). -/
def State.dlbase (s : State) (v : Dword) : State := s.setLog (s.sys.dlog.rebase s.mem (bits v.toNat 51 3 * 8))

/-- DLBASE_WRITE (R428). -/
def execDlbaseWrite (v : Dword) (s : State) : Host.Outcome State Fault Refusal := .next (s.hosted (s.dlbase v))

/-- A write of DLTAIL (R428). -/
def State.dltail (s : State) (v : Dword) : State := s.setLog (s.sys.dlog.reclaim s.mem (v.setWidth 32))

/-- DLTAIL_WRITE (R428). -/
def execDltailWrite (v : Dword) (s : State) : Host.Outcome State Fault Refusal := .next (s.hosted (s.dltail v))

end Sys2Proof.Machine
end

