-- ==== Sys2Proof/Machine/Clock.lean ====
section
/-! DEFINITION. The global timer and the energy of a microsecond (R32, R197, R405 to R408). -/

namespace Sys2Proof.Machine

open Sys2Proof

/-- Whether some partition holds a resident forme (R408). -/
def State.resident (s : State) : Bool := s.parts.any (fun q => q.2.phase == .run || q.2.phase == .loaded)

/-- Whether a context has a resident forme (R259). -/
def State.ctxResident (s : State) (c : Nat) : Bool := s.parts.any (fun q => q.2.ctx == c && (q.2.phase == .run || q.2.phase == .loaded))

/-- PSTAT.TSIGN set (R408). -/
def State.refuseTime (s : State) : State := { s with sys := { s.sys with tsign := true } }

/-- Whether every link that is up is locked (R418, R423). -/
def State.allLocked (s : State) : Bool := s.sys.links.any (fun l => l.2.up) && s.sys.links.all (fun l => !l.2.up || l.2.lock)

/-- The locks that a change of the timer or of TEPOCH ends (R423): a link stays locked only while its peer counts from this
package's epoch and its offset has not been moved. -/
def State.relock (s : State) (moved : Bool) : State :=
  let keep (l : HvLink) : HvLink := { l with lock := l.lock && !moved && l.peer == s.sys.tepoch }
  { s with sys := { s.sys with links := s.sys.links.map (fun (l : Nat × HvLink) => (l.1, keep l.2)) } }

/-- A write of TIMESET (R408): a step forward while no forme is resident; a link's offset has then moved (R423). -/
def State.timeset (s : State) (v : Dword) : State :=
  if s.resident || v.toNat < s.timer.toNat then s.refuseTime else ({ s with timer := v } : State).relock (v != s.timer)

/-- TIMESET_WRITE (R408). -/
def execTimesetWrite (v : Dword) (s : State) : Host.Outcome State Fault Refusal := .next (s.hosted (s.timeset v))

/-- The units of the timer in a second (R32). -/
def perSecond : Nat := 16 * 10 ^ 9

/-- The current TAI time in units of 1/16 ns (R408): as an external source gives it, else as the time master does once the time
sync is locked, else the package's own reading. HVSYNC.OFS is taken as the master's time less this package's (log entry 25). -/
def State.tai (s : State) (src : Option Nat) : Nat :=
  let own := s.sys.tepoch * perSecond + s.timer.toNat
  src.getD (if s.allLocked then ((own : Int) + 16 * s.sys.hvofs.toInt).toNat else own)

/-- A write of TEPOCH (R408); `src` is the TAI time that an external source gives. A TEPOCH exactly 2^60 ns before the TAI time
asks for the count 2^64, which the timer cannot hold: it is taken as 2^64 − 1 with TSAT clear (log entry 25). -/
def State.tepoch (s : State) (v : Dword) (src : Option Nat) : State :=
  let e := v.toNat % 2 ^ 48 * perSecond
  let now := s.tai src
  if s.resident || now < e || 16 * 2 ^ 60 < now - e then s.refuseTime
  else
    ({ s with timer := BitVec.ofNat 64 (min (now - e) (2 ^ 64 - 1)), sys := { s.sys with tepoch := v.toNat % 2 ^ 48, tsat := false } } : State).relock false

/-- TEPOCH_WRITE (R408). -/
def execTepochWrite (v : Dword) (tai : Option Nat) (s : State) : Host.Outcome State Fault Refusal := .next (s.hosted (s.tepoch v tai))

/-- TIMER_SATURATE (R32): a count that would pass the timer's greatest value. -/
def execTimerSaturate (s : State) : Host.Outcome State Fault Refusal :=
  .next (if s.timer = BitVec.allOnes 64 then { s with sys := { s.sys with tsat := true } } else s)

/-- The compute units assigned to the partitions of a context (R406). -/
def State.unitsOf (s : State) (c : Nat) : Nat := ((s.parts.filter (fun q => q.2.en && q.2.ctx == c)).map (fun q => q.2.cus.length)).foldl (fun a b => a + b) 0

/-- The static energy of a context over a microsecond in nJ (R406). -/
def State.staticNj (s : State) (c : Nat) : Nat := Config.statmw.toNat * s.unitsOf c / 768

/-- The contexts that a partition names. -/
def State.partCtxs (s : State) : List Nat := ((s.parts.filter (fun q => q.2.en)).map (fun q => q.2.ctx)).eraseDups

/-- The energy of a microsecond posted (R197, R406): what the slots owe, then the static draw, the rest to PIDLEEN. -/
def State.tick (s : State) : State :=
  let s := s.postAll
  let cs := s.partCtxs
  let given := (cs.map s.staticNj).foldl (fun a b => a + b) 0
  let t := cs.foldl (fun t c => t.chargeNj c (s.staticNj c)) s
  { t with sys := { t.sys with pidle := (t.sys.pidle + (Config.statmw.toNat - given)) % 2 ^ 64 } }

/-- STATIC_ENERGY_TICK (R406). -/
def execStaticEnergyTick (s : State) : Host.Outcome State Fault Refusal := .next s.tick

end Sys2Proof.Machine
end

