-- ==== Sys2Proof/Machine/Registers.lean ====
section
/-! DEFINITION. The register space (R281, R409 to R414, R417, R418): what each offset of BAR0 names, its value, and what a write
to it does. -/

namespace Sys2Proof.Machine

open Sys2Proof

/-- A register of BAR0 (R413, R414): package, die, context, partition, queue and function registers by their place. -/
inductive Reg where
  | pkg (off : Nat)
  | enwt (n : Nat)
  | unitst (u : Nat)
  | hvlink (n : Nat)
  | rwin (w k : Nat)
  | hot (d n : Nat)
  | mt (d t k : Nat)
  | ctx (c k : Nat)
  | hvwin (c w k : Nat)
  | prt (m k : Nat)
  | place (m i k : Nat)
  | prtunit (m j : Nat)
  | lq (f q k : Nat)
  | rsts (f : Nat)
  | vfwin (f : Nat)
  deriving DecidableEq, Repr

/-! ### Offsets (R411, R413, R414) -/

/-- The register of a package-block offset (R413). -/
def pkgReg (o : Nat) : Option Reg :=
  if o < 0x80 || (0x100 ≤ o && o < 0x120) then some (.pkg o)
  else if o < 0x100 then some (.enwt ((o - 0x80) / 8))
  else if 0x1000 ≤ o && o < 0x1000 + 8 * 864 then some (.unitst ((o - 0x1000) / 8))
  else if 0x4000 ≤ o && o < 0x4000 + 8 * 36 then some (.hvlink ((o - 0x4000) / 8))
  else if 0x5000 ≤ o && o < 0x5400 && o % 0x40 < 0x20 then some (.rwin ((o - 0x5000) / 0x40) (o % 0x40 / 8))
  else none

/-- The register of a die-block offset (R413). -/
def dieReg (d o : Nat) : Option Reg :=
  if o < 0x20 then some (.hot d (o / 8))
  else if 0x10000 ≤ o && o < 0x10000 + 0x40 * 384 && o % 0x40 < 0x30 && isMt ((o - 0x10000) / 0x40)
  then some (.mt d ((o - 0x10000) / 0x40) (o % 0x40 / 8)) else none

/-- The register of a context-block offset (R413). -/
def ctxReg (c o : Nat) : Option Reg :=
  if o < 0x40 then some (.ctx c (o / 8))
  else if 0x100 ≤ o && o < 0x300 then some (.hvwin c ((o - 0x100) / 0x20) (o % 0x20 / 8)) else none

/-- The register of a partition-block offset (R413). -/
def prtReg (m o : Nat) : Option Reg :=
  if o < 0x88 then some (.prt m (o / 8))
  else if 0x100 ≤ o && o < 0x180 then some (.place m ((o - 0x100) / 0x20) (o % 0x20 / 8))
  else if 0x200 ≤ o && o < 0x270 then some (.prtunit m ((o - 0x200) / 8)) else none

/-- The register of a queue-block offset (R413). -/
def lqReg (f q o : Nat) : Option Reg := if o < 0x28 then some (.lq f q (o / 8)) else none

/-- The register at an offset of a physical function's BAR0 (R411), naturally aligned to 8 bytes. -/
def pfReg (o : Nat) : Option Reg :=
  if o < 0x100000 then pkgReg o
  else if o < 0x500000 then dieReg ((o - 0x100000) / 0x100000) (o % 0x100000)
  else if o < 0x1000000 then none
  else if o < 0x2000000 then (if (o - 0x1000000) / 0x400 < 4096 then ctxReg ((o - 0x1000000) / 0x400) (o % 0x400) else none)
  else if o < 0x3000000 then (if (o - 0x2000000) / 0x1000 < 256 then prtReg ((o - 0x2000000) / 0x1000) (o % 0x1000) else none)
  else if o < 0x3800000 then
    (if (o - 0x3000000) / 0x200 < 514 then lqReg ((o - 0x3000000) / 0x200) (o % 0x200 / 0x40) (o % 0x40) else none)
  else if o < 0x3800000 + 8 * 514 then some (.rsts ((o - 0x3800000) / 8)) else none

/-- The partitions that a function owns, in ascending number (R414). -/
def State.partsOf (s : State) (f : Nat) : List Nat := (s.parts.filter (fun q => q.2.en && q.2.fn == f)).map (fun q => q.1)

/-- The register at an offset of a virtual function's BAR0 (R414). -/
def State.vfReg (s : State) (f o : Nat) : Option Reg :=
  if o < 0x200 then lqReg f (o / 0x40) (o % 0x40)
  else if 0x1000 ≤ o && o < 0x3000 then ((s.ctxsOf f)[(o - 0x1000) / 0x400]?).bind (fun c => ctxReg c (o % 0x400))
  else if 0x10000 ≤ o && o < 0x18000 then ((s.partsOf f)[(o - 0x10000) / 0x1000]?).bind (fun m => prtReg m (o % 0x1000))
  else if o = 0x20000 then some (.rsts f)
  else if o = 0x20008 then some (.vfwin f) else none

/-- The register that a function reaches at an offset aligned to 8 bytes. -/
def State.regAt (s : State) (f o : Nat) : Option Reg := if f < 2 then pfReg o else s.vfReg f o

/-! ### Values -/

/-- Fields of a register as one number: each a value and its lowest bit. -/
def packed (fs : List (Nat × Nat)) : Nat := fs.foldl (fun v x => v + x.1 * 2 ^ x.2) 0

/-- USABLE (R33, R418). -/
def State.usableWord (s : State) : Nat :=
  let n (lo hi : Nat) : Nat := ((List.range (hi - lo)).filter (fun i => !(s.unitSt (lo + i)).fenced)).length
  packed [(n 832 864, 0), (n 768 832, 16), (n 0 768, 32)]

/-- The value of a package register (R409, R418). -/
def State.pkgValue (s : State) (o : Nat) : Nat :=
  let y := s.sys
  match o with
  | 0x000 => packed [(y.stage, 0), (y.bootErr, 8), (y.svn.toNat, 16)]
  | 0x008 => y.pcap
  | 0x010 => Config.idlef.toNat
  | 0x018 => packed [(b2n y.unreach, 0), (b2n y.breach, 1), (b2n y.tsign, 2), (b2n y.tsat, 3), (Config.statmw.toNat, 32)]
  | 0x020 => y.pidle
  | 0x038 => b2n y.tlbBusy.isSome
  | 0x040 => packed [(y.tempC, 0), (y.tempDie, 8)]
  | 0x048 => y.tcap
  | 0x050 => y.tthr.toNat
  | 0x060 => s.usableWord
  | 0x068 => packed [(y.hvpkg.toNat, 0), (y.hvofs.toNat, 16), (b2n s.allLocked, 63)]
  | 0x070 => (tget 0 y.pfwin 0).toNat
  | 0x078 => y.tepoch
  | 0x100 => y.dlog.base
  | 0x108 => y.dlog.n
  | 0x110 => y.dlog.head.toNat
  | 0x118 => y.dlog.tail.toNat
  | _ => 0

/-- A register of a memory tile (R199, R331). -/
def Mt.regValue (x : Mt) (k : Nat) : Nat :=
  match k with
  | 0 => x.mtcfg
  | 1 => x.driftReg.alpha.toNat
  | 2 => x.driftReg.beta.toNat
  | 3 => x.driftReg.gamma.toNat
  | 4 => x.driftReg.dmax.toNat
  | 5 => x.driftReg.lmax.toNat
  | _ => 0

/-- A register of a context (R281, R409, R418). -/
def Ctx.regValue (x : Ctx) (k : Nat) : Nat :=
  match k with
  | 0 => x.root
  | 1 => x.hbase * 2 ^ 16
  | 2 => x.hlim
  | 3 => x.hoff.toNat
  | 4 => x.hperm.toNat
  | 5 => packed [(b2n x.stop, 0), (b2n x.hwign, 1)]
  | 6 => packed [(x.nj, 0), (b2n x.sat, 63)]
  | 7 => packed [(x.fn, 0), (b2n x.en, 63)]
  | _ => 0

/-- A Holvor window register (R418). -/
def HvWin.regValue (x : HvWin) (k : Nat) : Nat :=
  match k with
  | 0 => x.base.toNat
  | 1 => x.size.toNat
  | 2 => x.tgt.toNat
  | 3 => x.rva.toNat
  | _ => 0

/-- A reduction window register (R418). -/
def RedWin.regValue (x : RedWin) (k : Nat) : Nat :=
  match k with
  | 0 => x.base.toNat
  | 1 => x.size.toNat
  | 2 => x.cfg.toNat
  | 3 => x.cva.toNat
  | _ => 0

/-- Whether a partition holds an imposition (R418). -/
def Part.isBusy (q : Part) : Bool := q.launch.isSome || q.phase != .idle

/-- A register of a partition (R281, R409, R418). -/
def Part.regValue (q : Part) (k : Nat) : Nat :=
  match k with
  | 0 => packed [(q.ctx, 0), (q.fn, 48), (b2n q.isBusy, 62), (b2n q.en, 63)]
  | 1 => q.ring.base
  | 2 => q.ring.n
  | 3 => q.ring.head.toNat
  | 4 => q.ring.tail.toNat
  | 5 => packed [(b2n q.ring.ovf, 0), (q.ring.lost.toNat, 32)]
  | 7 => q.frmbase
  | 8 => q.savebase
  | 9 => q.xsavebase
  | 10 => q.rsabase
  | 11 => q.drlim
  | 12 => q.pslice
  | 13 => q.floor.word
  | 14 => q.weight
  | 15 => packed [(q.coef 2, 0), (q.coef 1, 16), (q.coef 0, 32)]
  | 16 => q.grseq.toNat * 2 ^ 32
  | _ => 0

/-- A register of a launch queue (R409); a read of LQRESV that allocates is LQRESV_READ. -/
def Lq.regValue (q : Lq) (k : Nat) : Nat :=
  match k with
  | 0 => q.base
  | 1 => packed [(q.prio, 0), (q.log2, 8), (q.prt, 16), (b2n q.en, 31)]
  | 2 => q.prod.toNat
  | 4 => q.head.toNat
  | _ => 0

/-- The value of a register as a read returns it (R7, R412). -/
def State.regValue (s : State) : Reg → Nat
  | .pkg o => s.pkgValue (o / 8 * 8)
  | .enwt n => s.sys.weight n
  | .unitst u => packed [(b2n (!(s.unitSt u).absent), 0), (b2n (s.unitSt u).fenced, 1)]
  | .hvlink n => let l := tget {} s.sys.links n; packed [(b2n l.up, 0), (b2n l.train, 1), (b2n l.lock, 2)]
  | .rwin w k => (s.rwin w).regValue k
  | .hot d n => (tget 0 s.sys.hot (4 * d + n)).toNat
  | .mt d t k => (s.mt (unitOf d t)).regValue k
  | .ctx c k => (s.ctx c).regValue k
  | .hvwin c w k => (tget {} (s.ctx c).hvwins w).regValue k
  | .prt m k => (s.part m).regValue k
  | .place m i k => ((s.part m).placeReg i k).toNat
  | .prtunit m j => if h : j < 14 then ((s.part m).map[j]).toNat else 0
  | .lq f q k => (s.lq f q).regValue k
  | .rsts f => b2n (tget false s.sys.rsts f)
  | .vfwin f => (tget 0 s.sys.vfwin f).toNat

/-- The bits of a register that a write of 1 clears (R7): they are written as 0 where a half write leaves them alone. -/
def Reg.w1c : Reg → Nat
  | .pkg o => if o / 8 * 8 = 0x018 then 4 else 0
  | .enwt _ => 0
  | .unitst _ => 0
  | .hvlink _ => 0
  | .rwin _ _ => 0
  | .hot _ _ => 0
  | .mt _ _ _ => 0
  | .ctx _ k => if k = 5 then 3 else if k = 6 then 2 ^ 63 else 0
  | .hvwin _ _ _ => 0
  | .prt _ k => if k = 5 then 1 else 0
  | .place _ _ _ => 0
  | .prtunit _ _ => 0
  | .lq _ _ _ => 0
  | .rsts _ => 1
  | .vfwin _ => 0

/-! ### Writes -/

/-- A value kept within a field. -/
def field (v hi lo : Nat) : Dword := BitVec.ofNat 64 (bits v hi lo * 2 ^ lo)

/-- A write to a package register (R408, R409, R418). -/
def State.pkgWrite (s : State) (o v : Nat) : State :=
  let y := s.sys
  let d : Dword := BitVec.ofNat 64 v
  match o with
  | 0x008 => s.writePcap d
  | 0x018 => { s with sys := { y with tsign := y.tsign && !bit v 2 } }
  | 0x028 => s.timeset d
  | 0x030 => s.tlbinv d
  | 0x050 => { s with sys := { y with tthr := BitVec.ofNat 16 v } }
  | 0x058 => s.unfence d
  | 0x068 => { s with sys := { y with hvpkg := BitVec.ofNat 16 v } }
  | 0x070 => { s with sys := { y with pfwin := tput 0 y.pfwin 0 (field v 63 30 + field v 1 1) } }
  | 0x078 => s.tepoch d none
  | 0x100 => s.dlbase d
  | 0x108 => if 4 ≤ bits v 4 0 && bits v 4 0 ≤ 20 then { s with sys := { y with dlog := { y.dlog with n := bits v 4 0 } } } else s
  | 0x118 => s.dltail d
  | _ => s

/-- A write to a register of a memory tile (R199, R331). -/
def Mt.regWrite (x : Mt) (k v : Nat) : Mt :=
  match k with
  | 0 => if bits v 4 0 ≤ 16 then { x with mtcfg := bits v 4 0 } else x
  | 1 => { x with driftReg := { x.driftReg with alpha := BitVec.ofNat 32 v } }
  | 2 => { x with driftReg := { x.driftReg with beta := BitVec.ofNat 32 v } }
  | 3 => { x with driftReg := { x.driftReg with gamma := BitVec.ofNat 32 v } }
  | 4 => { x with driftReg := { x.driftReg with dmax := BitVec.ofNat 32 v } }
  | 5 => { x with driftReg := { x.driftReg with lmax := BitVec.ofNat 16 v } }
  | _ => x

/-- A write of CTXFN (R417): it makes a context live, with %seed 0 (R142), or gives it an owner; a VF's ninth is refused. -/
def State.ctxfn (s : State) (c : Nat) (v : Dword) : State :=
  let x := s.ctx c
  let f := bits v.toNat 9 0
  let en := bit v.toNat 63
  if en && 2 ≤ f && 8 ≤ ((s.ctxsOf f).filter (fun d => d != c)).length then s
  else s.setCtx c (if en && !x.en then { x with en := true, fn := f, seed := 0, seedNew := [] } else { x with en := en, fn := f })

/-- A heap register of a context written (R259): refused while the context has a resident forme. -/
def State.heapWrite (s : State) (c : Nat) (f : Ctx → Ctx) : State :=
  let x := s.ctx c
  s.setCtx c (if s.ctxResident c then { x with hwign := true } else f x)

/-- A write to a context register (R259, R281, R407). -/
def State.ctxWrite (s : State) (c k v : Nat) : State :=
  let x := s.ctx c
  match k with
  | 0 => s.setCtx c { x with root := bits v 51 12 * 2 ^ 12 }
  | 1 => s.heapWrite c (fun x => { x with hbase := bits v 51 16 })
  | 2 => s.heapWrite c (fun x => { x with hlim := bits v 35 0 })
  | 3 => s.heapWrite c (fun x => { x with hoff := field v 63 16 })
  | 4 => s.heapWrite c (fun x => { x with hperm := BitVec.ofNat 2 v })
  | 5 => s.setCtx c { x with stop := x.stop && !bit v 0, hwign := x.hwign && !bit v 1 }
  | 6 => s.setCtx c { x with nj := bits v 47 0, sat := x.sat && !bit v 63 }
  | 7 => s.ctxfn c (BitVec.ofNat 64 v)
  | _ => s

/-- A write to a Holvor window register (R418). -/
def HvWin.regWrite (x : HvWin) (k v : Nat) : HvWin :=
  match k with
  | 0 => { x with base := field v 51 16 }
  | 1 => { x with size := field v 35 0 }
  | 2 => { x with tgt := field v 47 32 + field v 11 0 }
  | 3 => { x with rva := field v 51 16 }
  | _ => x

/-- A write to a reduction window register (R418): the window's rounds start again. -/
def RedWin.regWrite (x : RedWin) (k v : Nat) : RedWin :=
  let y : RedWin := { x with round := 0, held := [], merged := [], peers := [] }
  match k with
  | 0 => { y with base := field v 51 16 }
  | 1 => { y with size := field v 35 0 }
  | 2 => { y with cfg := field v 63 63 + field v 60 48 + field v 11 0 }
  | 3 => { y with cva := field v 51 3 }
  | _ => x

/-- A write to a partition register (R267, R268, R281, R409, R417). -/
def State.prtWrite (s : State) (m k v : Nat) : State :=
  let q := s.part m
  let d : Dword := BitVec.ofNat 64 v
  let pa := bits v 51 12 * 2 ^ 12
  let steps : Steps := ⟨bits v 20 16, bits v 12 8, bits v 4 0⟩
  let ok (n : Nat) : Bool := 4 ≤ n && n ≤ 24
  match k with
  | 0 => if q.isBusy then s else s.setPart m { q with en := bit v 63, fn := bits v 57 48, ctx := bits v 11 0 }
  | 1 => s.frbase m d
  | 2 => if 4 ≤ bits v 4 0 && bits v 4 0 ≤ 20 then s.setPart m { q with ring := { q.ring with n := bits v 4 0 } } else s
  | 4 => s.frtail m d
  | 5 => s.setPart m { q with ring := { q.ring with ovf := q.ring.ovf && !bit v 0 } }
  | 6 => s.fresume m d
  | 7 => s.setPart m { q with frmbase := pa }
  | 8 => s.setPart m { q with savebase := pa }
  | 9 => s.setPart m { q with xsavebase := pa }
  | 10 => s.setPart m { q with rsabase := pa }
  | 11 => if 10 ≤ bits v 13 0 && bits v 13 0 ≤ 10000 then s.setPart m { q with drlim := bits v 13 0 } else s
  | 12 => s.setPart m { q with pslice := bits v 23 0 }
  | 13 => if ok steps.mx && ok steps.vc && ok steps.mm then s.setPart m { q with floor := steps } else s
  | 14 => if bits v 7 0 = 0 then s else s.setPart m { q with weight := bits v 7 0 }
  | _ => s

/-- A write of PLACE (R417, R418): taken while the partition is not busy; an offset that is odd or out of range is not. -/
def State.placeWrite (s : State) (m i k v : Nat) : State :=
  let q := s.part m
  let old := (q.placeReg i k).toNat
  let good (w lim n : Nat) : Bool := signed w n % 2 == 0 && decide (-(lim : Int) ≤ signed w n) && decide (signed w n ≤ lim)
  let dy := if good 5 14 (bits v 20 16) then bits v 20 16 else bits old 20 16
  let dx := if good 6 22 (bits v 5 0) then bits v 5 0 else bits old 5 0
  let w : Dword := BitVec.ofNat 64 (packed [(dx, 0), (dy, 16), (bits v 49 48, 48), (bits v 63 63, 63)])
  if q.isBusy then s
  else s.setPart m { q with place := if h : 4 * i + k < 16 then q.place.set (4 * i + k) w h else q.place }

/-- A write of a PRTUNIT word (R35, R417): taken while the partition is not busy; a unit of another partition, or one fenced
out, stays clear. -/
def State.prtunit (s : State) (m j : Nat) (v : Dword) : State :=
  let q := s.part m
  let free (u : Nat) : Bool := !(s.unitSt u).fenced && s.parts.all (fun x => x.1 == m || !x.2.has u)
  let w : Dword := ((List.range 64).filter (fun b => v.getLsbD b && free (64 * j + b))).foldl (fun a b => a ||| ((1 : Dword) <<< b)) 0
  if q.isBusy then s else s.setPart m { q with map := if h : j < 14 then q.map.set j w h else q.map }

/-- A write to a launch-queue register (R409). -/
def Lq.regWrite (q : Lq) (k v : Nat) : Lq :=
  match k with
  | 0 => { q with base := bits v 51 12 * 2 ^ 12 }
  | 1 => { q with en := bit v 31, prt := bits v 27 16, prio := bits v 2 0,
                  log2 := if 2 ≤ bits v 11 8 && bits v 11 8 ≤ 12 then bits v 11 8 else q.log2 }
  | _ => q

/-- A write of VFWIN (R415): one that names a context of another function is ignored. -/
def State.vfwin (s : State) (f v : Nat) : State :=
  if (s.ctxsOf f).contains (bits v 63 52) then { s with sys := { s.sys with vfwin := tput 0 s.sys.vfwin f (field v 63 34) } } else s

/-- Whether R414 withholds a register from virtual functions. -/
def Reg.pfOnly : Reg → Bool
  | .ctx _ k => k == 7
  | .hvwin _ _ k => k == 2
  | .prt _ k => k == 0 || k == 13 || k == 14
  | .place _ _ _ => true
  | .prtunit _ _ => true
  | .pkg _ => false
  | .enwt _ => false
  | .unitst _ => false
  | .hvlink _ => false
  | .rwin _ _ => false
  | .hot _ _ => false
  | .mt _ _ _ => false
  | .lq _ _ _ => false
  | .rsts _ => false
  | .vfwin _ => false

/-- A write of all 64 bits of a register (R7, R8). -/
def State.regWrite (s : State) (r : Reg) (v : Nat) : State :=
  match r with
  | .pkg o => s.pkgWrite (o / 8 * 8) v
  | .enwt n => { s with sys := { s.sys with weights := tput 0 s.sys.weights n (v % 2 ^ 16 + 1) } }
  | .unitst _ => s
  | .hvlink _ => s
  | .rwin w k => s.setRwin w ((s.rwin w).regWrite k v)
  | .hot d n => { s with sys := { s.sys with hot := tput 0 s.sys.hot (4 * d + n) (field v 40 32 + field v 28 24 + field v 20 16 + field v 11 8 + field v 3 0) } }
  | .mt d t k => s.setMt (unitOf d t) ((s.mt (unitOf d t)).regWrite k v)
  | .ctx c k => s.ctxWrite c k v
  | .hvwin c w k => s.setCtx c { s.ctx c with hvwins := tput {} (s.ctx c).hvwins w ((tget {} (s.ctx c).hvwins w).regWrite k v) }
  | .prt m k => s.prtWrite m k v
  | .place m i k => s.placeWrite m i k v
  | .prtunit m j => s.prtunit m j (BitVec.ofNat 64 v)
  | .lq f q k => s.setLq f q ((s.lq f q).regWrite k v)
  | .rsts f => { s with sys := { s.sys with rsts := tput false s.sys.rsts f (tget false s.sys.rsts f && !bit v 0) } }
  | .vfwin f => s.vfwin f v

/-- Whether the functions stand on the links (R424, R427). -/
def State.presented (s : State) : Bool := s.sys.stage == 5 && s.sys.bootErr == 0 && !s.sys.held

/-- The value that a write of one half of a register leaves in the whole (R412). -/
def halfValue (r : Reg) (old off v : Nat) : Nat :=
  let keep := (BitVec.ofNat 64 old &&& ~~~(BitVec.ofNat 64 r.w1c)).toNat
  if off % 8 = 0 then keep / 2 ^ 32 * 2 ^ 32 + v % 2 ^ 32 else keep % 2 ^ 32 + v % 2 ^ 32 * 2 ^ 32

/-- Whether the upper half of a register that acts on a write holds nothing but reserved bits (R8, R281, R418): FRESUME and UNFENCE.
A write of that half alone is ignored. -/
def Reg.upperReserved : Reg → Bool
  | .prt _ k => k == 6
  | .pkg o => o / 8 * 8 == 0x058
  | .enwt _ => false
  | .unitst _ => false
  | .hvlink _ => false
  | .rwin _ _ => false
  | .hot _ _ => false
  | .mt _ _ _ => false
  | .ctx _ _ => false
  | .hvwin _ _ _ => false
  | .place _ _ _ => false
  | .prtunit _ _ => false
  | .lq _ _ _ => false
  | .rsts _ => false
  | .vfwin _ => false

/-- Whether an access to BAR0 is one that reaches a register (R412): 4 or 8 bytes, naturally aligned. -/
def barWhole (off width : Nat) : Bool := (width == 4 || width == 8) && off % width == 0

/-- What a read of BAR0 of a function returns (R411, R412, R414, R424): a register or one half of it; zero for an offset that no
register occupies, for any other access, and, after a failed boot, for all but BOOTST at physical function 0. -/
def State.regRead (s : State) (f off width : Nat) : Dword :=
  let half (v : Nat) : Nat := if width = 8 then v else if off % 8 = 0 then v % 2 ^ 32 else v / 2 ^ 32 % 2 ^ 32
  BitVec.ofNat 64 (
    if !barWhole off width then 0
    else if s.presented then (match s.regAt f (off / 8 * 8) with
      | none => 0
      | some r => half (s.regValue r))
    else if s.sys.bootErr ≠ 0 && f = 0 && off / 8 = 0 then half (s.pkgValue 0) else 0)

/-- REGISTER_WRITE (R411, R412, R414): 4 or 8 bytes, naturally aligned; any other access is ignored. -/
def execRegisterWrite (f off width : Nat) (v : Dword) (s : State) : Host.Outcome State Fault Refusal :=
  .next (if !s.presented || !barWhole off width then s
    else match s.regAt f (off / 8 * 8) with
      | none => s
      | some r =>
        if (2 ≤ f && r.pfOnly) || (width = 4 && off % 8 = 4 && r.upperReserved) then s
        else s.regWrite r (if width = 8 then v.toNat else halfValue r (s.regValue r) off v.toNat))

/-- CTXFN_WRITE (R417). -/
def execCtxfnWrite (c : Nat) (v : Dword) (s : State) : Host.Outcome State Fault Refusal := .next (s.hosted (s.ctxfn c v))

/-- PRTUNIT_WRITE (R417). -/
def execPrtunitWrite (p j : Nat) (v : Dword) (s : State) : Host.Outcome State Fault Refusal := .next (s.hosted (s.prtunit p j v))

end Sys2Proof.Machine
end

