-- ==== Sys2Proof/Machine/Bar.lean ====
section
/-! DEFINITION. The host's reads of LQRESV (R384) and its accesses through BAR2 (R415, R416). -/

namespace Sys2Proof.Machine

open Sys2Proof

/-! ### LQRESV_READ (R384) -/

/-- The value of an 8-byte read of LQRESV, with the index it allocates. -/
def Lq.reserve (q : Lq) : Lq × Dword := if q.full then (q, 1#64 <<< 63) else ({ q with prod := q.prod + 1 }, q.prod.setWidth 64)

/-- The offset of LQRESV of queue q in its function's BAR0 (R411, R413, R414). -/
def lqresvOff (f q : Nat) : Nat := (if f < 2 then 0x3000000 + 0x200 * f else 0) + 0x40 * q + 0x18

/-- LQRESV_READ (R384): an 8-byte read allocates an index; any other read is that of the register space, which returns zero
there (R412), as every read of LQRESV does after a failed boot (R424). -/
def execLqresvRead (f q width : Nat) (s : State) : Host.Outcome State Fault Refusal :=
  .next (if width ≠ 8 || !s.presented then { s with sys := { s.sys with reply := some (f, s.regRead f (lqresvOff f q) width) } }
    else
      let r := (s.lq f q).reserve
      let t := s.setLq f q r.1
      { t with sys := { t.sys with reply := some (f, r.2) } })

/-! ### HOST_BAR2_WRITE and HOST_BAR2_READ (R415) -/

/-- Where an offset of a function's BAR2 leads: a physical address, or a virtual address of a context. -/
def State.barTarget (s : State) (f off : Nat) : Nat ⊕ (Nat × Nat) :=
  let w := (if f < 2 then tget 0 s.sys.pfwin 0 else tget 0 s.sys.vfwin f).toNat
  if f < 2 && !bit w 1 then .inl (bits w 51 30 * 2 ^ 30 + off) else .inr (bits w 63 52, bits w 51 34 * 2 ^ 34 + off)

/-- The context identifier under which a physical access looks a line up: that of the line's copy in the L2 slices. -/
def Mem.lineCtx (m : Mem) (pa : Nat) : Nat := ((m.l2At (pa / 128)).map (fun l => l.ctx)).getD 0

/-- The partition whose fault ring takes the record of a host write that is discarded (R384, R415): that of the queue whose ring
holds the address, else the first of the context. -/
def State.dropPart (s : State) (ctx va : Nat) : Option Nat :=
  let own (p : Nat) : Bool := (s.part p).en && (s.part p).ctx == ctx
  let holds (q : Lq) : Bool := own q.prt && q.base ≤ va && va < q.base + 16 * 2 ^ q.log2
  match s.lqs.find? (fun x => holds x.2) with
  | some x => some x.2.prt
  | none => (s.parts.find? (fun q => q.2.en && q.2.ctx == ctx)).map (fun q => q.1)

/-- The record of a host write to WO memory that is discarded (R384, R415): SRC 3, CLASS 1. -/
def State.hostDrop (s : State) (ctx va : Nat) (f : Flt) : State :=
  match s.dropPart ctx va with
  | none => s
  | some p => s.emit p (s.recOf p 3 0 f 1)

/-- What a host write that met a fault leaves (R415): a record for a WO write that is discarded, else nothing. -/
def State.hostFailed (s : State) (ctx va : Nat) : EErr → State
  | .flt f => if f.code = 0x20 || f.code = 0x24 then s.hostDrop ctx va f else s
  | .absent => s

/-- A piece of a host write at a virtual address, a line of an MU page or a granule (R415); through a Holvor window it is performed in the other
package, whose answer may bring a fault (R420). -/
def State.hostPut (s : State) (ctx va : Nat) (bs : List Byte) : State :=
  match engPut s 0 ctx va bs false with
  | .ok t => t
  | .error e => (s.hvDrop ctx va bs.length true).hostFailed ctx va e

/-- A piece of a host write at a physical address (R415). -/
def State.hostPhys (s : State) (pa : Nat) (bs : List Byte) : State :=
  if 2 ^ 39 ≤ pa then s else { s with mem := s.mem.homePut (s.mem.lineCtx pa) pa bs }

/-- The pieces of a host write in ascending order. -/
def putPieces (put : State → Nat → List Byte → State) : List (Nat × Nat) → List Byte → State → State
  | [], _, s => s
  | (a, n) :: ps, bs, s => putPieces put ps (bs.drop n) (put s a (bs.take n))

/-- The bytes that BAR2 of a function spans (R410). -/
def barSize (f : Nat) : Nat := if f < 2 then 2 ^ 39 else 2 ^ 34

/-- Whether a host access waits for another package's answer (R419, R420). -/
def State.hostHeld (s : State) (f off n : Nat) (write : Bool) : Bool :=
  match s.barTarget f off with
  | .inl _ => false
  | .inr (c, va) => (pieces n va n).any (fun x =>
      (hvTarget (s.ctx c) x.1).isSome && !s.hvReplies.any (fun r => r.ctx == c && r.va == x.1 && r.write == write))

/-- The pieces of a host write at virtual addresses: whole lines on MU pages, granules elsewhere. -/
def State.hostCuts (s : State) (ctx va n : Nat) : List (Nat × Nat) :=
  (cuts 128 n va n).flatMap (fun x => if oneAccess s 0 ctx x.1 then [x] else pieces x.2 x.1 x.2)

/-- HOST_BAR2_WRITE (R415): one through a Holvor window waits until the other package has answered (R420). -/
def execHostBar2Write (f off : Nat) (data : List Byte) (s : State) : Host.Outcome State Fault Refusal :=
  .next (if !s.presented || barSize f < off + data.length || s.hostHeld f off data.length true then s
    else match s.barTarget f off with
      | .inl pa => putPieces State.hostPhys (cuts 128 data.length pa data.length) data s
      | .inr (c, va) =>
        (putPieces (fun s a bs => s.hostPut c a bs) (s.hostCuts c va data.length) data s).charge c 15 ((data.length + 63) / 64))

/-- A piece of a host read within a line at a virtual address: none for a completer abort (R415). -/
def State.hostGet (s : State) (ctx va n : Nat) : State × Option (List Byte) :=
  match engGet s 0 ctx va n with
  | .error _ => (s.hvDrop ctx va n false, none)
  | .ok (t, bs, bad) => (t, if bad then none else some bs)

/-- The pieces of a host read in ascending order. -/
def getPieces (ctx : Nat) : List (Nat × Nat) → State → State × Option (List Byte)
  | [], s => (s, some [])
  | (a, n) :: ps, s =>
    match s.hostGet ctx a n with
    | (s, none) => (s, none)
    | (s, some bs) =>
      match getPieces ctx ps s with
      | (s, none) => (s, none)
      | (s, some cs) => (s, some (bs ++ cs))

/-- What a host read returns. -/
def State.barRead (s : State) (f off n : Nat) : State × Option (List Byte) :=
  match s.barTarget f off with
  | .inl pa => (s, if 2 ^ 39 < pa + n || (List.range n).any (fun i => s.mem.homeBad (pa + i)) then none else some (s.mem.homeBytes pa n))
  | .inr (c, va) =>
    let r := getPieces c (cuts 128 n va n) s
    (r.1.charge c 15 ((n + 63) / 64), r.2)

/-- HOST_BAR2_READ (R415). -/
def execHostBar2Read (f off n : Nat) (s : State) : Host.Outcome State Fault Refusal :=
  .next (if !s.presented || barSize f < off + n || s.hostHeld f off n false then s
    else
      let r := s.barRead f off n
      { r.1 with sys := { r.1.sys with barRead := some (f, r.2) } })

end Sys2Proof.Machine
end

