-- ==== Sys2Proof/Machine/Cache.lean ====
section
/-! DEFINITION. Cache control and fences (R211, R235 to R238). -/

namespace Sys2Proof.Machine

open Sys2Proof

/-- The location that a PFT asks for (R236): on an MU page, or a present granule of a WO page; none where the hint is dropped. -/
def State.hintPlace (s : State) (ea : Dword) : Option (State × Nat) :=
  match s.locateVa ea .mu false false with
  | .ok (t, .mem pa) => some (t, pa)
  | _ => match s.locateVa ea .wo false false with
    | .ok (t, .mem pa) => if t.mem.isPresent (pa / 8) then some (t, pa) else none
    | _ => none

/-- The line of a location brought into its home slice, or into a unit's L1, which a unit without one cannot do (R199, R236). -/
def State.prefetch (s : State) (l2 : Bool) (pa : Nat) : Option State :=
  if l2 then some { s with mem := s.mem.l2Fill s.slotCtx (pa / 128) }
  else if 16 ≤ (s.mt s.slotUnit).split then none
  else
    let t : State := { s with mem := s.mem.l1Fill s.slotUnit s.slotCtx (pa / 128) }
    some (t.l1Settle s.slotUnit s.slotCtx)

/-- PFT of R236: a hint that never faults and changes no value; F[0] asks for the home slice only (R235). -/
def pftOp (o : Ops) (s : State) : Res State :=
  s.memory o (fun g t =>
    let l2 := o.f.getLsbD 0
    .ok (match (t.hintPlace (eaOf o g)).bind (fun r => r.1.prefetch l2 r.2) with
      | some u => u.done o none (if l2 then 6 else 5) 1
      | none => t.done o none 0 1))

/-- CLWB and CLINV of R237: `drop` marks CLINV. Only a line of the issuing context is touched (R209). -/
def cacheOp (drop : Bool) (o : Ops) (s : State) : Res State :=
  s.memory o (fun g t =>
    match t.locateVa (eaOf o g) .mu false false with
    | .error e => .error e
    | .ok (t, .mem pa) =>
      let held := (t.mem.l1At t.slotUnit (pa / 128)).any (fun l => l.ctx == t.slotCtx)
      let m := if !held then t.mem
        else if drop then t.mem.l1Drop t.slotUnit (pa / 128) t.slotCtx else t.mem.l1Clean t.slotUnit (pa / 128) t.slotCtx
      .ok ({ t with mem := m }.done o none 5 1)
    | .ok (t, _) => .ok (t.done o none 5 1))

/-- The die that holds the home of a line (R22). -/
def lineDie (line : Nat) : Nat := line / 2 ^ 30

/-- FENCE of R211: every earlier access of the slot is complete when it issues; the wider scopes write back and drop the
unit's MU lines of the issuing context, those homed on the issuing die for scope die. -/
def fenceOp (o : Ops) (s : State) : Res State :=
  if s.mem.waits.any (fun w => w.place == s.slot.place) then .error (.wait, s)
  else
    let u := s.slotUnit
    let c := s.slotCtx
    let scope := o.f.toNat % 8
    let m := if scope ≤ 1 then s.mem
      else s.mem.l1DropAll u (fun l => l.ctx == c && (scope != 2 || lineDie l.line == dieOf u)) c
    .ok ({ s with mem := m, slot := { s.slot with sysFence := s.slot.sysFence || scope == 4 } }.done o none 0 1)

/-- PFT (R236). -/
def execPft (o : Ops) (s : State) : Host.Outcome State Fault Refusal := s.run (pftOp o)
/-- PFT in the immediate form (R236). -/
def execPftImm (o : Ops) (s : State) : Host.Outcome State Fault Refusal := s.run (pftOp o)
/-- PFT in the longer forms (R236). -/
def execPftLong (o : Ops) (s : State) : Host.Outcome State Fault Refusal := s.run (pftOp o)
/-- CLWB (R237). -/
def execClwb (o : Ops) (s : State) : Host.Outcome State Fault Refusal := s.run (cacheOp false o)
/-- CLWB in the immediate form (R237). -/
def execClwbImm (o : Ops) (s : State) : Host.Outcome State Fault Refusal := s.run (cacheOp false o)
/-- CLWB in the longer forms (R237). -/
def execClwbLong (o : Ops) (s : State) : Host.Outcome State Fault Refusal := s.run (cacheOp false o)
/-- CLINV (R237). -/
def execClinv (o : Ops) (s : State) : Host.Outcome State Fault Refusal := s.run (cacheOp true o)
/-- CLINV in the immediate form (R237). -/
def execClinvImm (o : Ops) (s : State) : Host.Outcome State Fault Refusal := s.run (cacheOp true o)
/-- CLINV in the longer forms (R237). -/
def execClinvLong (o : Ops) (s : State) : Host.Outcome State Fault Refusal := s.run (cacheOp true o)
/-- FENCE (R238). -/
def execFence (o : Ops) (s : State) : Host.Outcome State Fault Refusal := s.run (fenceOp o)

end Sys2Proof.Machine
end

