-- ==== Sys2Proof/Machine/Control.lean ====
section
/-! DEFINITION. The control instructions (R158 to R167). -/

namespace Sys2Proof.Machine

open Sys2Proof

/-- NOP (R167). -/
def execNop (o : Ops) (s : State) : Host.Outcome State Fault Refusal :=
  s.runSlot 0 (fun x => .ok (x.retire o))

/-! ### The end of a firing (R164) -/

/-- The declared count of an output port in this firing (R37, R39). -/
def Slot.declared (x : Slot) (p : OutPort) : Nat :=
  match p.mkey.toNat with
  | 0 => p.rate
  | 1 => x.mkSeg
  | 2 => x.mkRow
  | _ => x.mkTen

/-- The first port whose count differs from its declaration, numbered as in R96: the lowest input port, else the lowest output port
(the model's choice, log entry 21). -/
def Slot.miscount (x : Slot) : Option Nat :=
  let ins := (List.range 8).find? (fun k => if h : k < 8 then x.ins[k].bound && x.ins[k].taken != x.ins[k].rate else false)
  let outs := (List.range 8).find? (fun k => if h : k < 8 then x.outs[k].bound && x.outs[k].sent != x.declared x.outs[k] else false)
  match ins with
  | some k => some k
  | none => outs.map (fun k => 8 + k)

/-- An input port after a firing. -/
def InPort.endFiring (p : InPort) : InPort := { p with taken := 0 }

/-- An output port after a firing: slots reserved and unused are free again; a collecting path notes the tokens of the
firing (R51). -/
def OutPort.endFiring (p : OutPort) : OutPort :=
  { p with sent := 0, reserved := 0, credit := if p.cap = 0 then p.credit else p.credit + p.reserved,
           counts := match p.dst with
             | some (.coll _ _ _) => p.counts ++ [p.sent]
             | _ => p.counts }

/-- The end of a firing (R164): idle, with empty stacks, one more in %fires, and the counts cleared. -/
def Slot.endFiring (x : Slot) : Slot :=
  { x with st := .idle, calls := [], loops := [], fires := x.fires + 1, mkSeg := 0, mkRow := 0, mkTen := 0,
           ins := x.ins.map InPort.endFiring, outs := x.outs.map OutPort.endFiring }

/-- HALT on a slot (R164). -/
def Slot.halt (x : Slot) : Except Stop Slot :=
  match x.miscount with
  | some p => .error (rateFlt p)
  | none => .ok x.endFiring

/-- HALT (R164). -/
def execHalt (_o : Ops) (s : State) : Host.Outcome State Fault Refusal := s.runSlot 0 Slot.halt

/-! ### WAIT (R165) -/

/-- Whether a command token of the slot still stands on the way to an island, in its command channel, or in service (R46, R165). -/
def State.islandBusy (s : State) (x : Slot) : Bool :=
  x.outs.toList.any (fun p => match p.dst with
    | some (.island n 0) => !p.flight.isEmpty || !(s.isl n).cmd.queue.isEmpty || (s.isl n).cur.isSome
    | _ => false)

/-- Whether an engine command that the slot issued has not completed. -/
def State.engineBusy (s : State) (x : Slot) : Bool := s.cmds.any (fun c => c.place == x.place) || s.islandBusy x

/-- Whether a memory access that the slot issued has not completed. -/
def State.memoryBusy (s : State) (x : Slot) : Bool := s.mem.waits.any (fun w => w.place == x.place)

/-- WAIT (R165). -/
def execWait (o : Ops) (s : State) : Host.Outcome State Fault Refusal :=
  s.runSlot 0 (fun x =>
    let mem := o.f != 2 && s.memoryBusy x
    let eng := o.f != 1 && s.engineBusy x
    if mem || eng then .error .wait else .ok (x.retire o))

/-! ### Branches (R159, R160) -/

/-- BR (R159). -/
def execBr (o : Ops) (s : State) : Host.Outcome State Fault Refusal := s.runSlot 0 (fun x => .ok (x.jump (x.target10 o)))

/-- A conditional branch with a ten-bit offset. -/
def Slot.branch10 (o : Ops) (c : Got → Bool) : Slot → Except Stop Slot :=
  Slot.plain o (fun g y => .ok (if c g then y.jump (y.target10 o) else y.retire o))

/-- A conditional branch with a twelve-bit offset. -/
def Slot.branch12 (o : Ops) (c : Got → Bool) : Slot → Except Stop Slot :=
  Slot.plain o (fun g y => .ok (if c g then y.jump (y.target12 o) else y.retire o))

/-- BZ (R160). -/
def execBz (o : Ops) (s : State) : Host.Outcome State Fault Refusal := s.runSlot 0 (Slot.branch10 o (fun g => g.a.val == 0))

/-- BNZ (R160). -/
def execBnz (o : Ops) (s : State) : Host.Outcome State Fault Refusal := s.runSlot 0 (Slot.branch10 o (fun g => g.a.val != 0))

/-- BLT (R160). -/
def execBlt (o : Ops) (s : State) : Host.Outcome State Fault Refusal :=
  s.runSlot 0 (Slot.branch12 o (fun g => valI (intT o) g.a.val < valI (intT o) g.b.val))

/-- BGE (R160). -/
def execBge (o : Ops) (s : State) : Host.Outcome State Fault Refusal :=
  s.runSlot 0 (Slot.branch12 o (fun g => valI (intT o) g.b.val ≤ valI (intT o) g.a.val))

/-- BMK (R160): the head token decides, whatever its kind and the count. -/
def execBmk (o : Ops) (s : State) : Host.Outcome State Fault Refusal :=
  s.runSlot 0 (fun x =>
    match x.headKind o.a with
    | none => .error .wait
    | some k => .ok (if kindIs k o.b then x.jump (x.target12 o) else x.retire o))

/-! ### Calls and loops (R161, R162) -/

/-- The control-stack fault (R161, R162). -/
def stackFlt : Stop := .flt { code := 0x32 }

/-- CALL on a slot (R161). -/
def Slot.call (o : Ops) (x : Slot) : Except Stop Slot :=
  if 4 ≤ x.calls.length then .error stackFlt
  else .ok { x with calls := (x.pc + formStep o) :: x.calls, pc := x.target10 o }

/-- CALL (R161). -/
def execCall (o : Ops) (s : State) : Host.Outcome State Fault Refusal := s.runSlot 0 (Slot.call o)

/-- RET on a slot (R161). -/
def Slot.ret (x : Slot) : Except Stop Slot :=
  match x.calls with
  | [] => .error stackFlt
  | a :: as => .ok { x with calls := as, pc := a }

/-- RET (R161). -/
def execRet (_o : Ops) (s : State) : Host.Outcome State Fault Refusal := s.runSlot 0 Slot.ret

/-- The words of the instruction at an address of the slot's PE store (R108). -/
def State.lengthAt (s : State) (a : BitVec 9) : BitVec 9 :=
  match (s.storeWord a.toNat).extractLsb' 0 2 with
  | 0 => 1
  | 1 => 1
  | 2 => 2
  | _ => 3

/-- A counted loop opened (R162): `len` gives the length of the end instruction, `rot` the rotation. -/
def Slot.openLoop (o : Ops) (len : BitVec 9 → BitVec 9) (rot : BitVec 4) : Slot → Except Stop Slot :=
  Slot.plain o (fun g y =>
    let c : Word := if o.a = .absent then o.lit else g.a.val.setWidth 32
    let e := y.target12 o
    if c = 0 then .ok { y with pc := e + len e }
    else if 2 ≤ y.loops.length then .error stackFlt
    else .ok { y with loops := ⟨y.pc + formStep o, e, c, rot⟩ :: y.loops, pc := y.pc + formStep o })

/-- LOOPI (R162). -/
def execLoopi (o : Ops) (s : State) : Host.Outcome State Fault Refusal := s.runSlot 0 (Slot.openLoop o s.lengthAt 0)

/-- LOOPR (R162). -/
def execLoopr (o : Ops) (s : State) : Host.Outcome State Fault Refusal := s.runSlot 0 (Slot.openLoop o s.lengthAt o.f)

/-! ### TRAP (R166) -/

/-- TRAP (R166): the program trap is taken; SUB holds the code and INFO the value of A. -/
def execTrap (o : Ops) (s : State) : Host.Outcome State Fault Refusal :=
  s.runSlot 0 (Slot.plain o (fun g _ => .error (.flt { code := 0x33, info := g.a.val, sub := o.imm10.toNat })))

end Sys2Proof.Machine
end

