-- ==== Sys2Proof/Machine/Counters.lean ====
section
/-! DEFINITION. The counter bank (R245 to R247). -/

namespace Sys2Proof.Machine

open Sys2Proof

/-- The unit and index of `n` counters from a counter address on (R222, R245). -/
def State.counterAt (s : State) (a : Dword) (n : Nat) : Acc (Nat × Nat) :=
  match aligned s a 4 with
  | .error e => .error e
  | .ok _ =>
    match spResolve s s.slot.prt s.slotUnit a.toNat with
    | none => .error ({ code := 0x21, addr := a }, s)
    | some (u, off) => if off / 4 + n ≤ 256 then .ok (u, off / 4) else .error ({ code := 0x21, addr := a }, s)

/-- CBINC of R246. -/
def Mt.count (m : Mt) (j : Nat) (b : Word) (sat : Bool) : Mt :=
  let v := tget 0 m.counters j
  let w := if sat && 2 ^ 32 - 1 < v.toNat + b.toNat then BitVec.allOnes 32 else v + b
  { m with counters := tput 0 m.counters j w }

/-- CBINC (R246). -/
def execCbinc (o : Ops) (s : State) : Host.Outcome State Fault Refusal :=
  s.run (fun s => s.memory o (fun g t =>
    match t.counterAt (eaOf o g) 1 with
    | .error e => .error e
    | .ok (u, j) => .ok ((t.setMt u ((t.mt u).count j (g.b.val.setWidth 32) o.sat)).done o none 4 1)))

/-- CBINC in the longer form (R246). -/
def execCbincLong (o : Ops) (s : State) : Host.Outcome State Fault Refusal :=
  s.run (fun s => s.memory o (fun g t =>
    match t.counterAt (eaOf o g) 1 with
    | .error e => .error e
    | .ok (u, j) => .ok ((t.setMt u ((t.mt u).count j (g.b.val.setWidth 32) o.sat)).done o none 4 1)))

/-- The snapshot words written and left full, each in one step at its bank (R247). -/
def Mem.putFull (m : Mem) (u off : Nat) : List Word → Mem
  | [] => m
  | v :: vs => ((m.spPut u off (natToBytes 4 v.toNat)).tagChange (spWords u off 4) true).putFull u (off + 4) vs

/-- CBSNAP (R247). -/
def execCbsnap (o : Ops) (s : State) : Host.Outcome State Fault Refusal :=
  s.run (fun s => s.memory o (fun g t =>
    let n := o.imm12.toNat
    match aligned t g.a.val 4, aligned t g.b.val 4 with
    | .error e, _ => .error e
    | _, .error e => .error e
    | .ok _, .ok _ =>
      match t.counterAt g.a.val n with
      | .error e => .error e
      | .ok (u, j) =>
        match t.locateSp g.b.val (4 * n) with
        | .error e => .error e
        | .ok (v, off) =>
          let m := t.mt u
          let vs := (List.range n).map (fun i => tget 0 m.counters (j + i))
          let t := t.setMt u { m with counters := tdrop m.counters j (j + n) }
          .ok ({ t with mem := t.mem.putFull v off vs }.done o none 4 ((n + 1) / 2))))

end Sys2Proof.Machine
end

