-- ==== Sys2Proof/Machine/Float.lean ====
section
/-! DEFINITION. Floating-point arithmetic, conversions and special functions (R175 to R181). The short and the long form of
an instruction are rows of their own; both act by the one shared operation. -/

namespace Sys2Proof.Machine

open Sys2Proof

/-- FMA of R176: one rounding of a·b + c; a NaN operand gives NaN without a flag. -/
def fmaOp (o : Ops) (g : Got) (x : Slot) : Dword × Slot :=
  let a := fltVal o g.a
  let b := fltVal o g.b
  let c := fltVal o g.c
  x.fltRes o (fltT o)
    (if a = .nan || b = .nan || c = .nan then some .nan
     else match mulV a b with
       | none => none
       | some p => addV (x.rm o) p c)

/-- An exact floating-point instruction of A and B (R177). -/
def fltExactOp (o : Ops) (f : FV → FV → FV) (g : Got) (x : Slot) : Dword × Slot :=
  (fltExactRes (fltT o) (f (fltVal o g.a) (fltVal o g.b)), x)

/-- FCMP of R178. -/
def fcmpOp (o : Ops) (g : Got) (x : Slot) : Dword × Slot :=
  let a := fltVal o g.a
  let b := fltVal o g.b
  if a = .nan || b = .nan then (b2d (o.f = 1 || o.f = 6), x)
  else (b2d (condHolds o.f (ltV a b) (!ltV a b && !ltV b a)), x)

/-- The class bit of a value (R178). -/
def classBit (t : Nat) (v : FV) : Nat :=
  match v with
  | .nan => 8
  | .inf n => if n then 0 else 7
  | .fin n m e =>
    if m = 0 then (if n then 3 else 4)
    else if magLt m e 1 (1 - fBias t) then (if n then 2 else 5)
    else if n then 1 else 6

/-- FCLASS of R178. -/
def fclassOp (o : Ops) (g : Got) (x : Slot) : Dword × Slot :=
  (BitVec.ofNat 64 (2 ^ classBit (fltT o) (fltVal o g.a)), x)

/-- FCVT of R179. -/
def fcvtOp (o : Ops) (g : Got) (x : Slot) : Dword × Slot :=
  (x.amaxIf o (anyVal (srcT o) g.a.val)).toFlt o (fltT o) g.a.val

/-- The integer type of ICVT, i32 by default (R179). -/
def icvtT (o : Ops) : Nat := if o.t = 0 then 10 else o.t.toNat

/-- ICVT of R179. -/
def icvtOp (o : Ops) (g : Got) (x : Slot) : Dword × Slot :=
  (x.amaxIf o (anyVal (srcT o) g.a.val)).toInt o (icvtT o) g.a.val

/-- The energy class of a conversion (R405). -/
def icvtCls (o : Ops) : Nat := if srcT o = 1 then 2 else 1

/-- FADD (R176). -/
def execFadd (o : Ops) (s : State) : Host.Outcome State Fault Refusal :=
  s.alu o (fltCls o) (fltOp o addV)

/-- FADD_LONG (R176). -/
def execFaddLong (o : Ops) (s : State) : Host.Outcome State Fault Refusal :=
  s.alu o (fltCls o) (fltOp o addV)

/-- FSUB (R176). -/
def execFsub (o : Ops) (s : State) : Host.Outcome State Fault Refusal :=
  s.alu o (fltCls o) (fltOp o (fun rm a b => addV rm a b.negate))

/-- FSUB_LONG (R176). -/
def execFsubLong (o : Ops) (s : State) : Host.Outcome State Fault Refusal :=
  s.alu o (fltCls o) (fltOp o (fun rm a b => addV rm a b.negate))

/-- FMUL (R176). -/
def execFmul (o : Ops) (s : State) : Host.Outcome State Fault Refusal :=
  s.alu o (fltCls o) (fltOp o (fun _ a b => mulV a b))

/-- FMUL_LONG (R176). -/
def execFmulLong (o : Ops) (s : State) : Host.Outcome State Fault Refusal :=
  s.alu o (fltCls o) (fltOp o (fun _ a b => mulV a b))

/-- FMA (R176). -/
def execFma (o : Ops) (s : State) : Host.Outcome State Fault Refusal :=
  s.alu o (fltCls o) (fmaOp o)

/-- FMIN (R177). -/
def execFmin (o : Ops) (s : State) : Host.Outcome State Fault Refusal :=
  s.alu o (fltCls o) (fltExactOp o minV)

/-- FMIN_LONG (R177). -/
def execFminLong (o : Ops) (s : State) : Host.Outcome State Fault Refusal :=
  s.alu o (fltCls o) (fltExactOp o minV)

/-- FMAX (R177). -/
def execFmax (o : Ops) (s : State) : Host.Outcome State Fault Refusal :=
  s.alu o (fltCls o) (fltExactOp o maxV)

/-- FMAX_LONG (R177). -/
def execFmaxLong (o : Ops) (s : State) : Host.Outcome State Fault Refusal :=
  s.alu o (fltCls o) (fltExactOp o maxV)

/-- FABS (R177). -/
def execFabs (o : Ops) (s : State) : Host.Outcome State Fault Refusal :=
  s.alu o (fltCls o) (fltExactOp o (fun a _ => a.abs))

/-- FABS_LONG (R177). -/
def execFabsLong (o : Ops) (s : State) : Host.Outcome State Fault Refusal :=
  s.alu o (fltCls o) (fltExactOp o (fun a _ => a.abs))

/-- FNEG (R177). -/
def execFneg (o : Ops) (s : State) : Host.Outcome State Fault Refusal :=
  s.alu o (fltCls o) (fltExactOp o (fun a _ => a.negate))

/-- FNEG_LONG (R177). -/
def execFnegLong (o : Ops) (s : State) : Host.Outcome State Fault Refusal :=
  s.alu o (fltCls o) (fltExactOp o (fun a _ => a.negate))

/-- FCMP (R178). -/
def execFcmp (o : Ops) (s : State) : Host.Outcome State Fault Refusal :=
  s.alu o (fltCls o) (fcmpOp o)

/-- FCMP_LONG (R178). -/
def execFcmpLong (o : Ops) (s : State) : Host.Outcome State Fault Refusal :=
  s.alu o (fltCls o) (fcmpOp o)

/-- FCLASS (R178). -/
def execFclass (o : Ops) (s : State) : Host.Outcome State Fault Refusal :=
  s.alu o (fltCls o) (fclassOp o)

/-- FCLASS_LONG (R178). -/
def execFclassLong (o : Ops) (s : State) : Host.Outcome State Fault Refusal :=
  s.alu o (fltCls o) (fclassOp o)

/-- FCVT (R179). -/
def execFcvt (o : Ops) (s : State) : Host.Outcome State Fault Refusal :=
  s.alu o (fltCls o) (fcvtOp o)

/-- FCVT_LONG (R179). -/
def execFcvtLong (o : Ops) (s : State) : Host.Outcome State Fault Refusal :=
  s.alu o (fltCls o) (fcvtOp o)

/-- ICVT (R179). -/
def execIcvt (o : Ops) (s : State) : Host.Outcome State Fault Refusal :=
  s.alu o (icvtCls o) (icvtOp o)

/-- ICVT_LONG (R179). -/
def execIcvtLong (o : Ops) (s : State) : Host.Outcome State Fault Refusal :=
  s.alu o (icvtCls o) (icvtOp o)

/-- FRCP (R180, R181). -/
def execFrcp (o : Ops) (s : State) : Host.Outcome State Fault Refusal :=
  s.alu o 3 (specialOp o fnRcp)

/-- FRCP_LONG (R180, R181). -/
def execFrcpLong (o : Ops) (s : State) : Host.Outcome State Fault Refusal :=
  s.alu o 3 (specialOp o fnRcp)

/-- FRSQ (R180, R181). -/
def execFrsq (o : Ops) (s : State) : Host.Outcome State Fault Refusal :=
  s.alu o 3 (specialOp o fnRsq)

/-- FRSQ_LONG (R180, R181). -/
def execFrsqLong (o : Ops) (s : State) : Host.Outcome State Fault Refusal :=
  s.alu o 3 (specialOp o fnRsq)

/-- FSQRT (R180, R181). -/
def execFsqrt (o : Ops) (s : State) : Host.Outcome State Fault Refusal :=
  s.alu o 3 (specialOp o fnSqrt)

/-- FSQRT_LONG (R180, R181). -/
def execFsqrtLong (o : Ops) (s : State) : Host.Outcome State Fault Refusal :=
  s.alu o 3 (specialOp o fnSqrt)

/-- FEX2 (R180, R181). -/
def execFex2 (o : Ops) (s : State) : Host.Outcome State Fault Refusal :=
  s.alu o 3 (specialOp o fnEx2)

/-- FEX2_LONG (R180, R181). -/
def execFex2Long (o : Ops) (s : State) : Host.Outcome State Fault Refusal :=
  s.alu o 3 (specialOp o fnEx2)

/-- FLG2 (R180, R181). -/
def execFlg2 (o : Ops) (s : State) : Host.Outcome State Fault Refusal :=
  s.alu o 3 (specialOp o fnLg2)

/-- FLG2_LONG (R180, R181). -/
def execFlg2Long (o : Ops) (s : State) : Host.Outcome State Fault Refusal :=
  s.alu o 3 (specialOp o fnLg2)

/-- FSINP (R180, R181). -/
def execFsinp (o : Ops) (s : State) : Host.Outcome State Fault Refusal :=
  s.alu o 3 (specialOp o fnSinp)

/-- FSINP_LONG (R180, R181). -/
def execFsinpLong (o : Ops) (s : State) : Host.Outcome State Fault Refusal :=
  s.alu o 3 (specialOp o fnSinp)

/-- FCOSP (R180, R181). -/
def execFcosp (o : Ops) (s : State) : Host.Outcome State Fault Refusal :=
  s.alu o 3 (specialOp o fnCosp)

/-- FCOSP_LONG (R180, R181). -/
def execFcospLong (o : Ops) (s : State) : Host.Outcome State Fault Refusal :=
  s.alu o 3 (specialOp o fnCosp)

/-- FTNH (R180, R181). -/
def execFtnh (o : Ops) (s : State) : Host.Outcome State Fault Refusal :=
  s.alu o 3 (specialOp o fnTnh)

/-- FTNH_LONG (R180, R181). -/
def execFtnhLong (o : Ops) (s : State) : Host.Outcome State Fault Refusal :=
  s.alu o 3 (specialOp o fnTnh)

end Sys2Proof.Machine
end

