-- ==== Sys2Proof/Machine/FullEmpty.lean ====
section
/-! DEFINITION. The full/empty words of the scratchpads (R201, R208, R230, R231). -/

namespace Sys2Proof.Machine

open Sys2Proof

/-- LDW and LDC of R231: `clear` marks LDC. -/
def fullLoad (clear : Bool) (o : Ops) (s : State) : Res State :=
  s.memory o (fun g t =>
    let ty := feType o
    let w := wBytes ty
    let ea := eaOf o g
    match aligned t ea w with
    | .error e => .error e
    | .ok _ =>
      match t.locateSp ea w with
      | .error e => .error e
      | .ok (u, off) =>
        if (spWords u off w).all t.mem.tag then
          match t.spRead u off w ea with
          | .error e => .error e
          | .ok v =>
            let m := if clear then t.mem.tagChange (spWords u off w) false else t.mem
            .ok ({ t with mem := m }.done o (some (loaded ty v)) 4 1)
        else .ok (s.await t o (if clear then .ldc else .ldw) u off w ea []))

/-- STE of R231. -/
def emptyStore (o : Ops) (s : State) : Res State :=
  s.memory o (fun g t =>
    let w := wBytes (feType o)
    let ea := eaOf o g
    match aligned t ea w with
    | .error e => .error e
    | .ok _ =>
      match t.locateSp ea w with
      | .error e => .error e
      | .ok (u, off) =>
        if (spWords u off w).all (fun x => !t.mem.tag x) then
          let m := (t.mem.spPut u off (natToBytes w g.b.val.toNat)).tagChange (spWords u off w) true
          .ok ({ t with mem := m }.done o none 4 1)
        else .ok (s.await t o .ste u off w ea [g.b.val]))

/-- FESET of R231. -/
def feSet (o : Ops) (s : State) : Res State :=
  s.memory o (fun g t =>
    let ea := eaOf o g
    match aligned t ea 4 with
    | .error e => .error e
    | .ok _ =>
      match t.locateSp ea 4 with
      | .error e => .error e
      | .ok (u, off) => .ok ({ t with mem := t.mem.tagChange (spWords u off 4) (o.f.getLsbD 0) }.done o none 4 1))

/-- FETEST of R231. -/
def feTest (o : Ops) (s : State) : Res State :=
  s.memory o (fun g t =>
    let ea := eaOf o g
    match aligned t ea 4 with
    | .error e => .error e
    | .ok _ =>
      match t.locateSp ea 4 with
      | .error e => .error e
      | .ok (u, off) => .ok (t.done o (some (b2d ((spWords u off 4).all t.mem.tag))) 4 1))

/-- LDW (R231). -/
def execLdw (o : Ops) (s : State) : Host.Outcome State Fault Refusal := s.run (fullLoad false o)
/-- LDW in the longer forms (R231). -/
def execLdwLong (o : Ops) (s : State) : Host.Outcome State Fault Refusal := s.run (fullLoad false o)
/-- LDC (R231). -/
def execLdc (o : Ops) (s : State) : Host.Outcome State Fault Refusal := s.run (fullLoad true o)
/-- LDC in the longer forms (R231). -/
def execLdcLong (o : Ops) (s : State) : Host.Outcome State Fault Refusal := s.run (fullLoad true o)
/-- STE (R231). -/
def execSte (o : Ops) (s : State) : Host.Outcome State Fault Refusal := s.run (emptyStore o)
/-- STE in the longer forms (R231). -/
def execSteLong (o : Ops) (s : State) : Host.Outcome State Fault Refusal := s.run (emptyStore o)
/-- FESET (R231). -/
def execFeset (o : Ops) (s : State) : Host.Outcome State Fault Refusal := s.run (feSet o)
/-- FESET in the longer forms (R231). -/
def execFesetLong (o : Ops) (s : State) : Host.Outcome State Fault Refusal := s.run (feSet o)
/-- FETEST (R231). -/
def execFetest (o : Ops) (s : State) : Host.Outcome State Fault Refusal := s.run (feTest o)
/-- FETEST in the longer forms (R231). -/
def execFetestLong (o : Ops) (s : State) : Host.Outcome State Fault Refusal := s.run (feTest o)

end Sys2Proof.Machine
end

