-- ==== Sys2Proof/Machine/Keccak.lean ====
section
/-! DEFINITION. SHAKE256, the digest of an attestation quote (R425, R426). The standard that R425 names gives the function; the
spec names it only. -/

namespace Sys2Proof.Machine

open Sys2Proof

/-- The round constants of Keccak-f[1600]. -/
def keccakRounds : List Dword :=
  [0x0000000000000001, 0x0000000000008082, 0x800000000000808A, 0x8000000080008000, 0x000000000000808B, 0x0000000080000001,
   0x8000000080008081, 0x8000000000008009, 0x000000000000008A, 0x0000000000000088, 0x0000000080008009, 0x000000008000000A] ++
  [0x000000008000808B, 0x800000000000008B, 0x8000000000008089, 0x8000000000008003, 0x8000000000008002, 0x8000000000000080,
   0x000000000000800A, 0x800000008000000A, 0x8000000080008081, 0x8000000000008080, 0x0000000080000001, 0x8000000080008008]

/-- The rotation of the lane at x + 5·y. -/
def keccakRot : List Nat :=
  [0, 1, 62, 28, 27, 36, 44, 6, 55, 20, 3, 10, 43] ++ [25, 39, 41, 45, 15, 21, 8, 18, 2, 61, 56, 14]

/-- One round on the 25 lanes, lane x + 5·y at that index. -/
def keccakRound (a : List Dword) (rc : Dword) : List Dword :=
  let col (x : Nat) : Dword := (List.range 5).foldl (fun v y => v ^^^ a.getD (x % 5 + 5 * y) 0) 0
  let d := (List.range 5).map (fun x => col (x + 4) ^^^ (col (x + 1)).rotateLeft 1)
  let t := (List.range 25).map (fun i => (a.getD i 0 ^^^ d.getD (i % 5) 0).rotateLeft (keccakRot.getD i 0))
  let b := (List.range 25).map (fun i => t.getD ((i % 5 + 3 * (i / 5)) % 5 + 5 * (i % 5)) 0)
  (List.range 25).map (fun i =>
    let row (x : Nat) : Dword := b.getD ((i % 5 + x) % 5 + 5 * (i / 5)) 0
    row 0 ^^^ (~~~(row 1) &&& row 2) ^^^ (if i = 0 then rc else 0))

/-- Keccak-f[1600]. -/
def keccakF (a : List Dword) : List Dword := keccakRounds.foldl keccakRound a

/-- The bytes that SHAKE256 absorbs or squeezes between two permutations. -/
def shakeRate : Nat := 136

/-- A block absorbed into the lanes. -/
def shakeAbsorb (a : List Dword) (block : List Byte) : List Dword :=
  keccakF ((List.range 25).map (fun i => a.getD i 0 ^^^ (if i < shakeRate / 8 then BitVec.ofNat 64 (bytesToNat ((block.drop (8 * i)).take 8)) else 0)))

/-- A message with the padding of SHAKE256. -/
def shakePad (bs : List Byte) : List Byte :=
  let k := shakeRate - bs.length % shakeRate
  if k = 1 then bs ++ [0x9F] else bs ++ [0x1F] ++ List.replicate (k - 2) 0 ++ [0x80]

/-- `n` bytes squeezed from the lanes, with fuel. -/
def shakeSqueeze : Nat → List Dword → Nat → List Byte
  | 0, _, _ => []
  | f + 1, a, n =>
    let bs := (a.take (shakeRate / 8)).flatMap (fun v => natToBytes 8 v.toNat)
    if n ≤ shakeRate then bs.take n else bs ++ shakeSqueeze f (keccakF a) (n - shakeRate)

/-- The first `n` bytes of SHAKE256 of a message. -/
def shake256 (bs : List Byte) (n : Nat) : List Byte :=
  let p := shakePad bs
  let a := (List.range (p.length / shakeRate)).foldl (fun a i => shakeAbsorb a ((p.drop (shakeRate * i)).take shakeRate)) (List.replicate 25 0)
  shakeSqueeze (n / shakeRate + 1) a n

end Sys2Proof.Machine
end

