-- ==== Sys2Proof/Machine/Holvor.lean ====
section
/-! DEFINITION. Accesses between packages, reductions and time sync (R419 to R423), boot and attestation (R424 to R426), and
thermal limits (R427). -/

namespace Sys2Proof.Machine

open Sys2Proof

/-! ### Answers of other packages (R419, R420) -/

/-- Whether a Holvor link is up: one that is down completes nothing (R419). -/
def State.linkUp (s : State) (n : Nat) : Bool := (tget {} s.sys.links n : HvLink).up

/-- The values that a reply brings to the request it answers, read in the request's type. -/
def Waiter.answered (x : Waiter) (vs : List Dword) : List Dword :=
  let ty := (x.data.headD 0).toNat
  vs.map (fun v => if ty = 0 then v else loaded ty v.toNat)

/-- Whether a request waits for another package. -/
def Waiter.isRemote (x : Waiter) : Bool :=
  x.done.isNone && (match x.what with
    | .remote _ _ _ => true
    | _ => false)

/-- A reply to an access that this package sent (R420): it brings as many values as the access asked for. -/
def State.remoteReply (s : State) (c : Coord) (vs : List Dword) : State :=
  let upd (x : Waiter) : Waiter := if x.place = c && x.isRemote && vs.length = x.width then { x with done := some (x.answered vs) } else x
  { s with mem := { s.mem with waits := s.mem.waits.map upd } }

/-- The faults that an access can meet in another package (R265, R420, R421). -/
def remoteCode (code : Nat) : Bool := [0x01, 0x02, 0x20, 0x22, 0x23, 0x24, 0x25, 0x29, 0x4F].contains code

/-- A fault met at the remote package, raised at the issuer with INFO [63] set (R420). -/
def State.remoteFault (s : State) (c : Coord) (code : Nat) (addr info : Dword) : State :=
  if remoteCode code && s.mem.waits.any (fun x => x.place == c && x.isRemote)
  then s.raiseAt c { code := code, addr := addr, info := info ||| (1#64 <<< 63) } else s

/-- The answer to an access that an engine, or the host, sent from this package (R420): it stands until the engine takes it. A waiting
queue request that it lets go on is performed (R371). -/
def State.engAnswer (s : State) (r : HvReply) : State :=
  if (hvTarget (s.ctx r.ctx) r.va).isSome && (r.code = 0 || remoteCode r.code) then
    let t : State := { s with hvReplies := s.hvReplies ++ [r] }
    t.serveRegions t.mem.waits.length
  else s

/-! ### REDUCTION_CONTRIBUTION (R421, R422) -/

/-- What this package answers to an access of another one. -/
def State.answered (s : State) (x : HvAnswer) : State := { s with sys := { s.sys with answer := some x } }

/-- The answer that a fault makes (R420). -/
def State.answerFlt (s : State) (f : Flt) : State := s.answered { code := f.code, addr := f.addr, info := f.info }

/-- A list in an order left open (R421), with the number of choices made. -/
def anyOrder (free : Nat) : Nat → List Dword → List Dword
  | 0, xs => xs
  | _ + 1, [] => []
  | n + 1, x :: xs =>
    let k := Config.pick (free + n) (xs.length + 1) % (xs.length + 1)
    (x :: xs).getD k x :: anyOrder free n ((x :: xs).eraseIdx k)

/-- Two granules merged lane by lane (R421): integers wrap, floats add by R145. -/
def mergeLanes (ty : Nat) (a b : Dword) : Dword :=
  let w := tWidth ty
  let lane (v : Dword) (i : Nat) : Dword := loaded ty (v.toNat / 2 ^ (w * i) % 2 ^ w)
  let sum (i : Nat) : Nat :=
    (if ty ≤ 4 then faddBits ty (lane a i) (lane b i) else ((lane a i).toNat + (lane b i).toNat)) % 2 ^ w
  BitVec.ofNat 64 (((List.range (64 / w)).map (fun i => sum i * 2 ^ (w * i))).foldl (fun x y => x + y) 0)

/-- Contributions merged, in the order given. -/
def mergeAll (ty : Nat) : List Dword → Dword
  | [] => 0
  | v :: vs => vs.foldl (mergeLanes ty) v

/-- A merged granule written once to its home (R421). -/
def State.redWrite (s : State) (w g : Nat) (v : Dword) : State :=
  let x := s.rwin w
  let ctx := bits x.cfg.toNat 11 0
  let va := x.base.toNat + 8 * g
  match translate s 0 ctx va with
  | .error _ => s
  | .ok (t, tr) =>
    if !tr.w then t
    else if tr.kind = .wo then
      if t.mem.isPresent (tr.pa / 8) then t else { t with mem := (t.mem.woPut (tr.pa / 8) v.toNat).note (.energy ctx 6 1) }
    else { t with mem := (t.mem.homePut ctx tr.pa (natToBytes 8 v.toNat)).note (.energy ctx 6 1) }

/-- The slot of a context of this package whose store to an address of a window waits. -/
def State.contributor (s : State) (ctx va : Nat) : Option Coord :=
  (s.mem.waits.find? (fun w => w.isRemote && w.addr == va && (match w.what with
    | .remote st pkg _ => st && pkg == s.sys.hvpkg.toNat
    | _ => false) && ((s.slotAt w.place).map (fun x => (s.part x.prt).ctx)) == some ctx)).map (fun w => w.place)

/-- The reduction fault of a contribution that is discarded (R421): raised in the writer's context, here or, by the answer,
in its package. A writer here is the slot whose store waits, else a partition of the context. -/
def State.redFault (s : State) (pkg ctx : Nat) (va : Nat) : State :=
  if pkg ≠ s.sys.hvpkg.toNat then s.answerFlt { code := 0x4F, addr := BitVec.ofNat 64 va }
  else match s.contributor ctx va with
    | some c => s.remoteFault c 0x4F (BitVec.ofNat 64 va) 0
    | none =>
      match s.parts.find? (fun q => q.2.en && q.2.ctx == ctx) with
      | none => s
      | some q =>
        (s.emit q.1 (s.recOf q.1 3 0 { code := 0x4F, addr := BitVec.ofNat 64 va } 2)).stopPart q.1

/-- A granule with all its contributions merged and written; the round ends with the window's last granule (R421, R422). -/
def State.redMerge (s : State) (w g : Nat) : State :=
  let x := s.rwin w
  let vs := (x.held.filter (fun h => h.1 == g)).map (fun h => h.2.2.2)
  if vs.length < x.n then s
  else
    let v := mergeAll x.ty (anyOrder s.freeCount vs.length vs)
    let s : State := { s.redWrite w g v with freeCount := s.freeCount + vs.length }
    let s := s.setRwin w { x with held := x.held.filter (fun h => h.1 != g), merged := g :: x.merged }
    if (s.rwin w).merged.length = x.granules then s.endRound w 1 else s

/-- Whether a contribution is discarded (R421): narrower than a granule, a second one of its source, or one source too many. -/
def RedWin.refuses (x : RedWin) (pkg ctx off : Nat) (n : Nat) : Bool :=
  n != 8 || off % 8 != 0 || x.granules ≤ off / 8 || x.merged.contains (off / 8) ||
  x.held.any (fun h => h.1 == off / 8 && h.2.1 == pkg && h.2.2.1 == ctx) || (!x.peers.contains (pkg, ctx) && x.n ≤ x.peers.length)

/-- A contribution to a window (R421): held until its granule has N of them, or discarded. -/
def State.contribute (s : State) (w pkg ctx off : Nat) (data : List Byte) : State :=
  let x := s.rwin w
  if x.refuses pkg ctx off data.length then s.redFault pkg ctx (x.base.toNat + off)
  else
    let v : Dword := BitVec.ofNat 64 (bytesToNat data)
    let peers := if x.peers.contains (pkg, ctx) then x.peers else x.peers ++ [(pkg, ctx)]
    ((s.setRwin w { x with held := x.held ++ [(off / 8, pkg, ctx, v)], peers := peers }).redMerge w (off / 8)).answered {}

/-- REDUCTION_CONTRIBUTION (R421, R422); one without data tells that the source's function was reset, which ends the round of a
participant whether or not it has contributed. Over a link that is down nothing completes (R419). -/
def execReductionContribution (w pkg ctx off : Nat) (sent : Contribution) (s : State) : Host.Outcome State Fault Refusal :=
  let x := s.rwin w
  .next (if !x.on || !s.linkUp sent.link then s
    else if sent.data.isEmpty then (if x.mayJoin pkg ctx then s.endRound w 2 else s)
    else s.contribute w pkg ctx off sent.data)

/-! ### HOLVOR_REMOTE_ACCESS (R419, R420) -/

/-- An access of another package located in a context of this one (R420): alignment, translation, page kind and permission. -/
def State.inbound (s : State) (ctx : Nat) (va : Dword) (n : Nat) (kind : PageKind) (r w : Bool) : Except Flt (State × Nat) :=
  if n = 0 || 8 < n || va.toNat % n ≠ 0 then .error { code := 0x20, addr := va }
  else match translate s 0 ctx va.toNat with
    | .error f => .error f
    | .ok (t, tr) =>
      match permitPage tr va.toNat kind r w with
      | .error f => .error f
      | .ok _ => .ok (t, tr.pa)

/-- The home line of a physical address brought up to date under a context, for a read there. -/
def State.homeRead (s : State) (ctx pa : Nat) : State := { s with mem := s.mem.homeLook ctx (pa / 128) }

/-- The memory-error fault of an address. -/
def poisonAt (va : Dword) : Flt := { code := 0x25, addr := va }

/-- A load of another package (R420): LD of MU memory, or LDP of a granule, which waits while it is absent (R204). -/
def State.inLoad (s : State) (ctx : Nat) (va : Dword) (n : Nat) (once : Bool) : State :=
  match s.inbound ctx va n (if once then .wo else .mu) true false with
  | .error f => s.answerFlt f
  | .ok (t, pa) =>
    if once && !t.mem.isPresent (pa / 8) then s
    else
      let t := t.homeRead ctx pa
      if t.mem.homeBad pa then t.answerFlt (poisonAt va)
      else t.answered { values := [BitVec.ofNat 64 (bytesToNat (t.mem.homeBytes pa n))] }

/-- PTEST of another package (R233, R420). -/
def State.inTest (s : State) (ctx : Nat) (va : Dword) : State :=
  match s.inbound ctx va 1 .wo true false with
  | .error f => s.answerFlt f
  | .ok (t, pa) => t.answered { values := [b2d (t.mem.isPresent (pa / 8))] }

/-- The reduction window of this package that holds an address of a context (R421). -/
def State.winAt (s : State) (ctx va : Nat) : Option Nat :=
  (List.range 16).find? (fun w =>
    let x := s.rwin w
    x.on && bits x.cfg.toNat 11 0 == ctx && x.base.toNat ≤ va && va < x.base.toNat + 8 * x.granules)

/-- A store of another package (R420), ST or STO; one into a reduction window is a contribution (R421). -/
def State.inStore (s : State) (pkg src ctx : Nat) (va : Dword) (bs : List Byte) (once : Bool) : State :=
  match s.winAt ctx va.toNat with
  | some w => s.contribute w pkg src (va.toNat - (s.rwin w).base.toNat) bs
  | none =>
    match s.inbound ctx va bs.length (if once then .wo else .mu) false true with
    | .error f => s.answerFlt f
    | .ok (t, pa) =>
      if once then
        if bs.length ≠ 8 then s.answerFlt { code := 0x20, addr := va }
        else if t.mem.isPresent (pa / 8) then t.answerFlt { code := 0x24, addr := va }
        else ({ t with mem := (t.mem.woPut (pa / 8) (bytesToNat bs)).note (.energy ctx 6 1) } : State).answered {}
      else ({ t with mem := (t.mem.homePut ctx pa bs).note (.energy ctx 6 1) } : State).answered {}

/-- The atomic of R239 that an opcode names. -/
def atomOf (op : Nat) : Option AtomFn :=
  match op with
  | 0xA0 => some (intAtom (fun a b => a + b))
  | 0xA1 => some (bitAtom (fun a b => a &&& b))
  | 0xA2 => some (bitAtom (fun a b => a ||| b))
  | 0xA3 => some (bitAtom (fun a b => a ^^^ b))
  | 0xA4 => some (intAtom min)
  | 0xA5 => some (intAtom max)
  | 0xA6 => some xchgAtom
  | 0xA7 => some casAtom
  | 0xA8 => some faddAtom
  | _ => none

/-- An atomic of another package (R240, R420). -/
def State.inAtomic (s : State) (ctx : Nat) (va : Dword) (op : BitVec 8) (t : BitVec 6) (sat : Bool) (b c : Dword) : State :=
  match atomOf op.toNat with
  | none => s
  | some f =>
    let n := wBytes t.toNat
    match s.inbound ctx va n .mu true true with
    | .error e => s.answerFlt e
    | .ok (x, pa) =>
      let x := x.homeRead ctx pa
      if x.mem.homeBad pa then x.answerFlt (poisonAt va)
      else
        let old := bytesToNat (x.mem.homeBytes pa n)
        let new := f t.toNat sat (loaded t.toNat old) b c
        ({ x with mem := x.mem.homeRewrite ctx pa n new } : State).answered { values := [loaded t.toNat old] }

/-- The double atomic of R243 that an opcode names. -/
def doubleOf (op : Nat) : Option (Nat → List Nat → Nat → Nat → Option (Nat × Nat)) :=
  match op with
  | 0xA9 => some dcasFn
  | 0xAA => some amov2Fn
  | _ => none

/-- A double atomic of another package (R243, R420): both locations lie in one context of this package. -/
def State.inDouble (s : State) (ctx : Nat) (p q : Dword) (op : BitVec 8) (t : BitVec 6) (cs : List Dword) : State :=
  match doubleOf op.toNat with
  | none => s
  | some f =>
    let n := wBytes t.toNat
    match pairAligned s p q n with
    | .error e => s.answerFlt e.1
    | .ok _ =>
      match translateAll s 0 ctx [p.toNat, q.toNat] with
      | .error e => s.answerFlt e.1
      | .ok (x, ts) =>
        match ts with
        | [tp, tq] =>
          match admitPair tp.2 tq.2 p.toNat q.toNat with
          | .error e => s.answerFlt e
          | .ok _ =>
            let x := (x.homeRead ctx tp.2.pa).homeRead ctx tq.2.pa
            if x.mem.homeBad tp.2.pa then x.answerFlt (poisonAt p)
            else if x.mem.homeBad tq.2.pa then x.answerFlt (poisonAt q)
            else
              let old (pa : Nat) : Nat := bytesToNat (x.mem.homeBytes pa n)
              let m := match f t.toNat (cs.map (fun v => low t.toNat v)) (old tp.2.pa) (old tq.2.pa) with
                | some (np, nq) => (x.mem.homePut ctx tp.2.pa (natToBytes n np)).homePut ctx tq.2.pa (natToBytes n nq)
                | none => x.mem
              ({ x with mem := m } : State).answered { values := [loaded t.toNat (old tp.2.pa), loaded t.toNat (old tq.2.pa)] }
        | _ => s

/-- A read of an engine of another package, within a granule (R202, R420). -/
def State.inEngRead (s : State) (ctx : Nat) (va : Dword) (n : Nat) : State :=
  match homeGet s 0 ctx va.toNat n with
  | .error (.flt f) => s.answerFlt f
  | .error .absent => s
  | .ok (t, bs, bad) => if bad then t.answerFlt (poisonAt va) else t.answered { bytes := bs }

/-- A write of an engine of another package, within a granule (R202, R203, R420); one into a reduction window is a contribution
(R421). -/
def State.inEngWrite (s : State) (pkg src ctx : Nat) (va : Dword) (bs : List Byte) : State :=
  match s.winAt ctx va.toNat with
  | some w => s.contribute w pkg src (va.toNat - (s.rwin w).base.toNat) bs
  | none =>
    match homeSet s 0 ctx va.toNat bs false with
    | .error (.flt f) => s.answerFlt f
    | .error .absent => s
    | .ok t => t.answered {}

/-- What an access or an answer that comes over a link does here (R420). -/
def State.remote (s : State) : RemoteAccess → State
  | .reply c vs => s.remoteReply c vs
  | .faulted c code addr info => s.remoteFault c code addr info
  | .engReply ctx va write bs => s.engAnswer { ctx := ctx, va := va.toNat, write := write, code := 0, addr := 0, info := 0, bytes := bs }
  | .engFault ctx va write code addr info =>
    s.engAnswer { ctx := ctx, va := va.toNat, write := write, code := code, addr := addr, info := info, bytes := [] }
  | .load ctx va n once => s.inLoad ctx va n once
  | .ptest ctx va => s.inTest ctx va
  | .store pkg src ctx va bs once => s.inStore pkg src ctx va bs once
  | .atomic ctx va op t sat b c => s.inAtomic ctx va op t sat b c
  | .double ctx p q op t cs => s.inDouble ctx p q op t cs
  | .engRead ctx va n => s.inEngRead ctx va n
  | .engWrite pkg src ctx va bs => s.inEngWrite pkg src ctx va bs

/-- HOLVOR_REMOTE_ACCESS (R419, R420): over a link that is down nothing completes. -/
def execHolvorRemoteAccess (a : LinkAccess) (s : State) : Host.Outcome State Fault Refusal :=
  .next (if s.linkUp a.link then s.remote a.access else s)

/-! ### HOLVOR_LINK_STATE and TIME_SYNC_LOCK (R418, R419, R423) -/

/-- HOLVOR_LINK_STATE (R418): a link that is not up is not locked. -/
def execHolvorLinkState (n : Nat) (up train : Bool) (s : State) : Host.Outcome State Fault Refusal :=
  let l : HvLink := tget {} s.sys.links n
  .next { s with sys := { s.sys with links := tput {} s.sys.links n { l with up := up, train := train, lock := l.lock && up } } }

/-- The time master among the connected packages (R423): the lowest HVSYNC.PKG of this package and of those over its up links. -/
def State.timeMaster (s : State) : Nat :=
  ((s.sys.links.filter (fun l => l.2.up)).map (fun l => l.2.low.toNat)).foldl min s.sys.hvpkg.toNat

/-- HVSYNC.OFS after time sync over link n (R418, R423): the offset to an external source where one reaches the management
controller; 0 at the time master; the link's offset where the link leads to the master; else the last one (log entry 25). -/
def State.masterOfs (s : State) (n : Nat) (ofs : BitVec 16) (external : Option (BitVec 16)) : BitVec 16 :=
  match external with
  | some e => e
  | none =>
    if s.timeMaster = s.sys.hvpkg.toNat then 0
    else if (tget {} s.sys.links n : HvLink).low.toNat = s.timeMaster then ofs else s.sys.hvofs

/-- TIME_SYNC_LOCK (R423): time sync over an up link, which locks when its offset has stayed within 12 ns for 1 ms and the peer counts
from the same epoch. -/
def execTimeSyncLock (n : Nat) (ofs : BitVec 16) (steady : Bool) (peer : TimePeer) (s : State) : Host.Outcome State Fault Refusal :=
  let l : HvLink := tget {} s.sys.links n
  let within := -12 ≤ ofs.toInt && ofs.toInt ≤ 12
  let lock := steady && within && peer.epoch == s.sys.tepoch
  .next (if !l.up then s
    else
      let t : State := { s with sys := { s.sys with links := tput {} s.sys.links n { l with lock := lock, peer := peer.epoch, low := peer.lowest } } }
      { t with sys := { t.sys with hvofs := t.masterOfs n ofs peer.external } })

/-! ### BOOT (R424) -/

/-- The digest fused in the hub: that of the firmware's public key (R424; log entry 13). -/
def fusedKey : List Byte := shake256 Config.imageKey.toList 32

/-- Whether the firmware's signature is accepted (R424, R425): the one parameter set, a public key of 68 bytes whose digest is the
fused one (log entry 13), a signature of 2,820 bytes, and the verification under that set. -/
def bootSigned (x : BootFinding) : Bool :=
  x.sigSet == .xmssShake256h20 && x.key.length == 68 && shake256 x.key 32 == fusedKey && x.signature.length == 2820 && x.verifies

/-- Whether the firmware's security version is not below the fused minimum (R424). -/
def bootRecent (x : BootFinding) : Bool := Config.fusedSvn.toNat ≤ x.svn.toNat

/-- The stage reached and the cause of a failure (R424). -/
def bootResult (x : BootFinding) : Nat × Nat :=
  if !x.romOk then (1, 1) else if !bootSigned x then (2, 2) else if !bootRecent x then (3, 3) else if !x.trainingOk then (4, 4) else (5, 0)

/-- BOOT (R424): from reset, or after the power cycle that follows a failure or a thermal trip; the index in the board flash
stands (R426). The images loaded at stage 4 are digested for the quotes, to 32 bytes each (log entry 13). -/
def execBoot (x : BootFinding) (s : State) : Host.Outcome State Fault Refusal :=
  .next (if s.sys.stage = 5 && s.sys.bootErr = 0 && !s.sys.held then s
    else
      let s := if s.sys.stage = 0 then s else
        { State.reset with agenda := s.agenda, freeCount := s.freeCount, sys := { State.reset.sys with xmss := s.sys.xmss } }
      let r := bootResult x
      let y : Sys := { s.sys with stage := r.1, bootErr := r.2, held := false }
      if r.1 < 5 then { s with sys := y }
      else
        let units := x.absent.foldl (fun t u => tput {} t u { (tget {} t u : UnitSt) with absent := true }) y.units
        { s with sys := { y with svn := x.svn, units := units, digests := x.images.map (fun b => shake256 b 32) } })

/-! ### ATTESTATION_QUOTE (R425, R426) -/

/-- What a quote states (R426): the nonce, the digests of the images, BOOTST and USABLE. -/
def State.quoteBody (s : State) (nonce : List Byte) : List Byte :=
  nonce ++ s.sys.digests.flatten ++ natToBytes 8 (s.pkgValue 0) ++ natToBytes 8 s.usableWord

/-- The 2,820 bytes of a signature (R425): the 4 bytes of its index, highest first as RFC 8391 writes numbers, then the randomiser,
the chain values and the path, which the key decides. -/
def xmssSignature (i : Nat) (body : List Byte) : List Byte :=
  (natToBytes 4 i).reverse ++ (List.range 2816).map (fun k => Config.xmssByte i body (4 + k))

/-- ATTESTATION_QUOTE (R426): the next index is committed, then the signature of 2,820 bytes is released; once the indices are
spent, the request completes exhausted. -/
def execAttestationQuote (nonce : List Byte) (s : State) : Host.Outcome State Fault Refusal :=
  let i := s.sys.xmss
  .next (if !s.presented || nonce.length ≠ 32 then s
    else if 2 ^ 20 ≤ i then { s with sys := { s.sys with quote := some (i, none) } }
    else
      let body := s.quoteBody nonce
      { s with sys := { s.sys with xmss := i + 1, quote := some (i, some (body ++ xmssSignature i body)) } })

/-! ### THERMAL_TICK and THERMAL_TRIP (R427, R428) -/

/-- The hottest of the dies' junctions and its die. -/
def hottest : List Nat → Nat × Nat
  | [] => (0, 0)
  | t :: ts =>
    let r := hottest ts
    if ts = [] || r.1 ≤ t then (t, 0) else (r.1, r.2 + 1)

/-- THERMAL_TICK (R427): a millisecond; `tenth` marks each tenth one, at which TCAP rises when every junction was below TTHR.LO in
all of the ten. -/
def execThermalTick (temps : List Nat) (tenth : Bool) (s : State) : Host.Outcome State Fault Refusal :=
  let r := hottest temps
  let hi := (s.sys.tthr.extractLsb' 0 8).toNat
  let lo := (s.sys.tthr.extractLsb' 8 8).toNat
  let cool := if temps.all (fun t => t < lo) then min 10 (s.sys.cool + 1) else 0
  let cap := if temps.any (fun t => hi ≤ t) then max 500 (s.sys.tcap - 50)
    else if tenth && cool == 10 then min 2200 (s.sys.tcap + 50) else s.sys.tcap
  .next { s with sys := { s.sys with tempC := min 255 r.1, tempDie := r.2 % 4, tcap := cap, cool := cool } }

/-- THERMAL_TRIP (R427, R428): at 115 °C every partition stops, each with record 0x4E in the device log, and the dies are held
in reset. -/
def execThermalTrip (s : State) : Host.Outcome State Fault Refusal :=
  .next (if s.sys.tempC < 115 then s
    else
      let ps := (s.parts.filter (fun q => q.2.en)).map (fun q => q.1)
      let t := ps.foldl (fun s p => (s.emitDev (s.recOf p 3 0 { code := 0x4E } 2)).stopPart p) s
      { t with sys := { t.sys with held := true } })

end Sys2Proof.Machine
end

