-- ==== Sys2Proof/Machine/Integer.lean ====
section
/-! DEFINITION. Integer and address arithmetic (R168 to R174). The short and the long form of an instruction are rows of
their own; both act by the one shared operation. -/

namespace Sys2Proof.Machine

open Sys2Proof

/-! ### The operations of R170 and R171 -/

/-- The quotient of R170 in type t: truncation toward zero, −1 or all ones for a zero divisor, wrapped in the one case
that leaves the type. -/
def divI (t : Nat) (a b : Int) : Int := if b = 0 then (if tSigned t then -1 else maxI t) else a.tdiv b

/-- The remainder of R170: it takes the sign of a; a itself for a zero divisor. -/
def remI (a b : Int) : Int := if b = 0 then a else a - b * a.tdiv b

/-- SHL of R171 on a w-bit pattern. -/
def shlP (w a n : Nat) : Nat := if w ≤ n then 0 else a * 2 ^ n % 2 ^ w

/-- SHR of R171. -/
def shrP (w a n : Nat) : Nat := if w ≤ n then 0 else a / 2 ^ n

/-- SAR of R171. -/
def sarP (w a n : Nat) : Nat :=
  if bit a (w - 1) then (if w ≤ n then 2 ^ w - 1 else a / 2 ^ n + (2 ^ w - 2 ^ (w - n))) else if w ≤ n then 0 else a / 2 ^ n

/-- ROT of R171. -/
def rotP (w a n : Nat) : Nat := (a * 2 ^ (n % w)) % 2 ^ w + a / 2 ^ (w - n % w)

/-- CLZ of R171. -/
def clzP (w a : Nat) : Nat := if a = 0 then w else w - 1 - Nat.log2 a

/-- POPC of R171. -/
def popP : Nat → Nat → Nat
  | 0, _ => 0
  | n + 1, a => a % 2 + popP n (a / 2)

/-- The width of the instruction's type. -/
def intW (o : Ops) : Nat := tWidth (intT o)

/-- CMP of R172: 1 when the condition F holds. -/
def cmpOp (o : Ops) (g : Got) (x : Slot) : Dword × Slot :=
  let a := valI (intT o) g.a.val
  let b := valI (intT o) g.b.val
  (b2d (condHolds o.f (a < b) (a == b)), x)

/-- An integer instruction of A alone (R168). -/
def intUnOp (o : Ops) (f : Int → Int) (g : Got) (x : Slot) : Dword × Slot := x.intRes o (f (valI (intT o) g.a.val))

/-- An integer instruction that counts bits of the pattern of A (R171). -/
def countOp (o : Ops) (f : Nat → Nat → Nat) (g : Got) (x : Slot) : Dword × Slot :=
  (putI (intT o) (f (intW o) (low (intT o) g.a.val)), x)

/-! ### The instructions -/

/-- ADD (R169). -/
def execAdd (o : Ops) (s : State) : Host.Outcome State Fault Refusal :=
  s.alu o 0 (intOp o (fun a b => a + b))

/-- ADD_LONG (R169). -/
def execAddLong (o : Ops) (s : State) : Host.Outcome State Fault Refusal :=
  s.alu o 0 (intOp o (fun a b => a + b))

/-- ADDI (R169). -/
def execAddi (o : Ops) (s : State) : Host.Outcome State Fault Refusal :=
  s.alu o 0 (intOp o (fun a b => a + b))

/-- ADDI_LONG (R169). -/
def execAddiLong (o : Ops) (s : State) : Host.Outcome State Fault Refusal :=
  s.alu o 0 (intOp o (fun a b => a + b))

/-- SUB (R169). -/
def execSub (o : Ops) (s : State) : Host.Outcome State Fault Refusal :=
  s.alu o 0 (intOp o (fun a b => a - b))

/-- SUB_LONG (R169). -/
def execSubLong (o : Ops) (s : State) : Host.Outcome State Fault Refusal :=
  s.alu o 0 (intOp o (fun a b => a - b))

/-- MUL (R169). -/
def execMul (o : Ops) (s : State) : Host.Outcome State Fault Refusal :=
  s.alu o 0 (intOp o (fun a b => a * b))

/-- MUL_LONG (R169). -/
def execMulLong (o : Ops) (s : State) : Host.Outcome State Fault Refusal :=
  s.alu o 0 (intOp o (fun a b => a * b))

/-- MULH (R169). -/
def execMulh (o : Ops) (s : State) : Host.Outcome State Fault Refusal :=
  s.alu o 0 (intOp o (fun a b => a * b / 2 ^ intW o))

/-- MULH_LONG (R169). -/
def execMulhLong (o : Ops) (s : State) : Host.Outcome State Fault Refusal :=
  s.alu o 0 (intOp o (fun a b => a * b / 2 ^ intW o))

/-- DIV (R170). -/
def execDiv (o : Ops) (s : State) : Host.Outcome State Fault Refusal :=
  s.alu o 0 (intOp o (divI (intT o)))

/-- DIV_LONG (R170). -/
def execDivLong (o : Ops) (s : State) : Host.Outcome State Fault Refusal :=
  s.alu o 0 (intOp o (divI (intT o)))

/-- REM (R170). -/
def execRem (o : Ops) (s : State) : Host.Outcome State Fault Refusal :=
  s.alu o 0 (intOp o remI)

/-- REM_LONG (R170). -/
def execRemLong (o : Ops) (s : State) : Host.Outcome State Fault Refusal :=
  s.alu o 0 (intOp o remI)

/-- AND (R169). -/
def execAnd (o : Ops) (s : State) : Host.Outcome State Fault Refusal :=
  s.alu o 0 (patOp o (fun a b => a &&& b))

/-- AND_LONG (R169). -/
def execAndLong (o : Ops) (s : State) : Host.Outcome State Fault Refusal :=
  s.alu o 0 (patOp o (fun a b => a &&& b))

/-- OR (R169). -/
def execOr (o : Ops) (s : State) : Host.Outcome State Fault Refusal :=
  s.alu o 0 (patOp o (fun a b => a ||| b))

/-- OR_LONG (R169). -/
def execOrLong (o : Ops) (s : State) : Host.Outcome State Fault Refusal :=
  s.alu o 0 (patOp o (fun a b => a ||| b))

/-- XOR (R169). -/
def execXor (o : Ops) (s : State) : Host.Outcome State Fault Refusal :=
  s.alu o 0 (patOp o (fun a b => a ^^^ b))

/-- XOR_LONG (R169). -/
def execXorLong (o : Ops) (s : State) : Host.Outcome State Fault Refusal :=
  s.alu o 0 (patOp o (fun a b => a ^^^ b))

/-- XORI (R169). -/
def execXori (o : Ops) (s : State) : Host.Outcome State Fault Refusal :=
  s.alu o 0 (patOp o (fun a b => a ^^^ b))

/-- XORI_LONG (R169). -/
def execXoriLong (o : Ops) (s : State) : Host.Outcome State Fault Refusal :=
  s.alu o 0 (patOp o (fun a b => a ^^^ b))

/-- SHL (R171). -/
def execShl (o : Ops) (s : State) : Host.Outcome State Fault Refusal :=
  s.alu o 0 (shiftOp o (shlP (intW o)))

/-- SHL_LONG (R171). -/
def execShlLong (o : Ops) (s : State) : Host.Outcome State Fault Refusal :=
  s.alu o 0 (shiftOp o (shlP (intW o)))

/-- SHR (R171). -/
def execShr (o : Ops) (s : State) : Host.Outcome State Fault Refusal :=
  s.alu o 0 (shiftOp o (shrP (intW o)))

/-- SHR_LONG (R171). -/
def execShrLong (o : Ops) (s : State) : Host.Outcome State Fault Refusal :=
  s.alu o 0 (shiftOp o (shrP (intW o)))

/-- SAR (R171). -/
def execSar (o : Ops) (s : State) : Host.Outcome State Fault Refusal :=
  s.alu o 0 (shiftOp o (sarP (intW o)))

/-- SAR_LONG (R171). -/
def execSarLong (o : Ops) (s : State) : Host.Outcome State Fault Refusal :=
  s.alu o 0 (shiftOp o (sarP (intW o)))

/-- ROT (R171). -/
def execRot (o : Ops) (s : State) : Host.Outcome State Fault Refusal :=
  s.alu o 0 (shiftOp o (rotP (intW o)))

/-- ROT_LONG (R171). -/
def execRotLong (o : Ops) (s : State) : Host.Outcome State Fault Refusal :=
  s.alu o 0 (shiftOp o (rotP (intW o)))

/-- CLZ (R171). -/
def execClz (o : Ops) (s : State) : Host.Outcome State Fault Refusal :=
  s.alu o 0 (countOp o clzP)

/-- CLZ_LONG (R171). -/
def execClzLong (o : Ops) (s : State) : Host.Outcome State Fault Refusal :=
  s.alu o 0 (countOp o clzP)

/-- POPC (R171). -/
def execPopc (o : Ops) (s : State) : Host.Outcome State Fault Refusal :=
  s.alu o 0 (countOp o popP)

/-- POPC_LONG (R171). -/
def execPopcLong (o : Ops) (s : State) : Host.Outcome State Fault Refusal :=
  s.alu o 0 (countOp o popP)

/-- MIN (R168). -/
def execMin (o : Ops) (s : State) : Host.Outcome State Fault Refusal :=
  s.alu o 0 (intOp o min)

/-- MIN_LONG (R168). -/
def execMinLong (o : Ops) (s : State) : Host.Outcome State Fault Refusal :=
  s.alu o 0 (intOp o min)

/-- MAX (R168). -/
def execMax (o : Ops) (s : State) : Host.Outcome State Fault Refusal :=
  s.alu o 0 (intOp o max)

/-- MAX_LONG (R168). -/
def execMaxLong (o : Ops) (s : State) : Host.Outcome State Fault Refusal :=
  s.alu o 0 (intOp o max)

/-- ABS (R168). -/
def execAbs (o : Ops) (s : State) : Host.Outcome State Fault Refusal :=
  s.alu o 0 (intUnOp o (fun a => a.natAbs))

/-- ABS_LONG (R168). -/
def execAbsLong (o : Ops) (s : State) : Host.Outcome State Fault Refusal :=
  s.alu o 0 (intUnOp o (fun a => a.natAbs))

/-- NEG (R168). -/
def execNeg (o : Ops) (s : State) : Host.Outcome State Fault Refusal :=
  s.alu o 0 (intUnOp o (fun a => -a))

/-- NEG_LONG (R168). -/
def execNegLong (o : Ops) (s : State) : Host.Outcome State Fault Refusal :=
  s.alu o 0 (intUnOp o (fun a => -a))

/-- CMP (R172). -/
def execCmp (o : Ops) (s : State) : Host.Outcome State Fault Refusal :=
  s.alu o 0 (cmpOp o)

/-- CMP_LONG (R172). -/
def execCmpLong (o : Ops) (s : State) : Host.Outcome State Fault Refusal :=
  s.alu o 0 (cmpOp o)

/-- MOVI (R173). -/
def execMovi (o : Ops) (s : State) : Host.Outcome State Fault Refusal :=
  s.alu o 0 (fun _ x => (putI (intT o) (valI (intT o) (immVal o)), x))

/-- MOVI_LONG (R173). -/
def execMoviLong (o : Ops) (s : State) : Host.Outcome State Fault Refusal :=
  s.alu o 0 (fun _ x => (putI (intT o) (valI (intT o) (immVal o)), x))

/-- MOVL (R173). -/
def execMovl (o : Ops) (s : State) : Host.Outcome State Fault Refusal :=
  s.alu o 0 (fun _ x => (o.lit.setWidth 64, x))

/-- An instruction that keeps some bits of its destination register (R173, R174): the register must be at hand. -/
def Slot.insert (o : Ops) (f : Got → Dword → Dword) (x : Slot) : Except Stop Slot :=
  match x.reads o .p with
  | .error e => .error e
  | .ok (g, y) =>
    if !(x.regsHeld o && x.dstRead o) then .error .wait
    else match g.pass, o.d with
      | none, .reg c => .ok ((y.writeD o (f g (y.dstReg o c))).retire o)
      | _, _ => .ok (y.retire o)

/-- MOVL_HI (R173). -/
def execMovlHi (o : Ops) (s : State) : Host.Outcome State Fault Refusal :=
  s.runSlot 0 (Slot.insert o (fun _ d => o.lit ++ d.extractLsb' 0 32))

/-- LEA (R174). -/
def execLea (o : Ops) (s : State) : Host.Outcome State Fault Refusal :=
  s.alu o 0 (fun g x => (g.a.val + (g.b.val <<< o.f.toNat) + o.imm12.signExtend 64, x))

/-- The position of a bit field (R174). -/
def bfPos (o : Ops) : Nat := o.imm12.toNat % 64
/-- The length of a bit field (R174). -/
def bfLen (o : Ops) : Nat := o.imm12.toNat / 64 + 1

/-- BFX of R174. -/
def bfxVal (o : Ops) (a : Dword) : Dword :=
  let v := a.toNat / 2 ^ bfPos o % 2 ^ bfLen o
  if o.f = 1 then BitVec.ofInt 64 (signed (bfLen o) v) else BitVec.ofNat 64 v

/-- BFI of R174. -/
def bfiVal (o : Ops) (a d : Dword) : Dword :=
  let m : Dword := BitVec.ofNat 64 ((2 ^ bfLen o - 1) * 2 ^ bfPos o)
  (d &&& ~~~m) ||| ((a <<< bfPos o) &&& m)

/-- BFX (R174). -/
def execBfx (o : Ops) (s : State) : Host.Outcome State Fault Refusal :=
  s.alu o 0 (fun g x => (bfxVal o g.a.val, x))

/-- BFI (R174). -/
def execBfi (o : Ops) (s : State) : Host.Outcome State Fault Refusal :=
  s.runSlot 0 (Slot.insert o (fun g d => bfiVal o g.a.val d))

end Sys2Proof.Machine
end

