-- ==== Sys2Proof/Machine/LoadStore.lean ====
section
/-! DEFINITION. LD and ST (R228, R229) in each of their forms. -/

namespace Sys2Proof.Machine

open Sys2Proof

/-- LD of R229. -/
def loadOp (o : Ops) (s : State) : Res State :=
  s.memory o (fun g t =>
    let ty := memT o 11
    let w := wBytes ty
    let ea := eaOf o g
    match t.locate o ea w .mu true false with
    | .error e => .error e
    | .ok (t, .sp u off) =>
      match t.spRead u off w ea with
      | .error e => .error e
      | .ok v => .ok (t.done o (some (loaded ty v)) 4 1)
    | .ok (t, .mem pa) =>
      match t.muRead pa w ea with
      | .error e => .error e
      | .ok (t, v) => .ok (t.done o (some (loaded ty v)) 5 1)
    | .ok (t, .remote k c a) => .ok (s.awaitRemote t o 1 k c a ty ea []))

/-- ST of R229. -/
def storeOp (o : Ops) (s : State) : Res State :=
  s.memory o (fun g t =>
    let ty := memT o 11
    let w := wBytes ty
    let ea := eaOf o g
    let bs := natToBytes w g.b.val.toNat
    match t.locate o ea w .mu false true with
    | .error e => .error e
    | .ok (t, .sp u off) =>
      match t.spWrite u off bs ea with
      | .error e => .error e
      | .ok t => .ok (t.done o none 4 1)
    | .ok (t, .mem pa) => .ok ((t.muWrite pa bs).done o none 5 1)
    | .ok (t, .remote k c a) => .ok (s.awaitRemote t o 0 k c a 0 ea [g.b.val]))

/-- LD (R229). -/
def execLd (o : Ops) (s : State) : Host.Outcome State Fault Refusal := s.run (loadOp o)
/-- LD in the immediate form (R229). -/
def execLdImm (o : Ops) (s : State) : Host.Outcome State Fault Refusal := s.run (loadOp o)
/-- LD in the longer forms (R229). -/
def execLdLong (o : Ops) (s : State) : Host.Outcome State Fault Refusal := s.run (loadOp o)
/-- ST (R229). -/
def execSt (o : Ops) (s : State) : Host.Outcome State Fault Refusal := s.run (storeOp o)
/-- ST in the longer forms (R229). -/
def execStLong (o : Ops) (s : State) : Host.Outcome State Fault Refusal := s.run (storeOp o)

end Sys2Proof.Machine
end

