-- ==== Sys2Proof/Machine/Dispatch.lean ====
section
/-! DEFINITION. One arm per instruction: each calls its meaning. -/

namespace Sys2Proof.Machine

open Sys2Proof

/-- The meaning of every instruction and device step. -/
def exec (i : Instr) (s : State) : Host.Outcome State Fault Refusal :=
  match i with
  | .nop o => Sys2Proof.Machine.execNop o s
  | .halt o => Sys2Proof.Machine.execHalt o s
  | .wait o => Sys2Proof.Machine.execWait o s
  | .br o => Sys2Proof.Machine.execBr o s
  | .bz o => Sys2Proof.Machine.execBz o s
  | .bnz o => Sys2Proof.Machine.execBnz o s
  | .blt o => Sys2Proof.Machine.execBlt o s
  | .bge o => Sys2Proof.Machine.execBge o s
  | .bmk o => Sys2Proof.Machine.execBmk o s
  | .call o => Sys2Proof.Machine.execCall o s
  | .ret o => Sys2Proof.Machine.execRet o s
  | .loopi o => Sys2Proof.Machine.execLoopi o s
  | .loopr o => Sys2Proof.Machine.execLoopr o s
  | .trap o => Sys2Proof.Machine.execTrap o s
  | .add o => Sys2Proof.Machine.execAdd o s
  | .addLong o => Sys2Proof.Machine.execAddLong o s
  | .addi o => Sys2Proof.Machine.execAddi o s
  | .addiLong o => Sys2Proof.Machine.execAddiLong o s
  | .sub o => Sys2Proof.Machine.execSub o s
  | .subLong o => Sys2Proof.Machine.execSubLong o s
  | .mul o => Sys2Proof.Machine.execMul o s
  | .mulLong o => Sys2Proof.Machine.execMulLong o s
  | .mulh o => Sys2Proof.Machine.execMulh o s
  | .mulhLong o => Sys2Proof.Machine.execMulhLong o s
  | .div o => Sys2Proof.Machine.execDiv o s
  | .divLong o => Sys2Proof.Machine.execDivLong o s
  | .rem o => Sys2Proof.Machine.execRem o s
  | .remLong o => Sys2Proof.Machine.execRemLong o s
  | .and o => Sys2Proof.Machine.execAnd o s
  | .andLong o => Sys2Proof.Machine.execAndLong o s
  | .or o => Sys2Proof.Machine.execOr o s
  | .orLong o => Sys2Proof.Machine.execOrLong o s
  | .xor o => Sys2Proof.Machine.execXor o s
  | .xorLong o => Sys2Proof.Machine.execXorLong o s
  | .xori o => Sys2Proof.Machine.execXori o s
  | .xoriLong o => Sys2Proof.Machine.execXoriLong o s
  | .shl o => Sys2Proof.Machine.execShl o s
  | .shlLong o => Sys2Proof.Machine.execShlLong o s
  | .shr o => Sys2Proof.Machine.execShr o s
  | .shrLong o => Sys2Proof.Machine.execShrLong o s
  | .sar o => Sys2Proof.Machine.execSar o s
  | .sarLong o => Sys2Proof.Machine.execSarLong o s
  | .rot o => Sys2Proof.Machine.execRot o s
  | .rotLong o => Sys2Proof.Machine.execRotLong o s
  | .clz o => Sys2Proof.Machine.execClz o s
  | .clzLong o => Sys2Proof.Machine.execClzLong o s
  | .popc o => Sys2Proof.Machine.execPopc o s
  | .popcLong o => Sys2Proof.Machine.execPopcLong o s
  | .min o => Sys2Proof.Machine.execMin o s
  | .minLong o => Sys2Proof.Machine.execMinLong o s
  | .max o => Sys2Proof.Machine.execMax o s
  | .maxLong o => Sys2Proof.Machine.execMaxLong o s
  | .abs o => Sys2Proof.Machine.execAbs o s
  | .absLong o => Sys2Proof.Machine.execAbsLong o s
  | .neg o => Sys2Proof.Machine.execNeg o s
  | .negLong o => Sys2Proof.Machine.execNegLong o s
  | .cmp o => Sys2Proof.Machine.execCmp o s
  | .cmpLong o => Sys2Proof.Machine.execCmpLong o s
  | .movi o => Sys2Proof.Machine.execMovi o s
  | .moviLong o => Sys2Proof.Machine.execMoviLong o s
  | .movl o => Sys2Proof.Machine.execMovl o s
  | .movlHi o => Sys2Proof.Machine.execMovlHi o s
  | .lea o => Sys2Proof.Machine.execLea o s
  | .bfx o => Sys2Proof.Machine.execBfx o s
  | .bfi o => Sys2Proof.Machine.execBfi o s
  | .fadd o => Sys2Proof.Machine.execFadd o s
  | .faddLong o => Sys2Proof.Machine.execFaddLong o s
  | .fsub o => Sys2Proof.Machine.execFsub o s
  | .fsubLong o => Sys2Proof.Machine.execFsubLong o s
  | .fmul o => Sys2Proof.Machine.execFmul o s
  | .fmulLong o => Sys2Proof.Machine.execFmulLong o s
  | .fma o => Sys2Proof.Machine.execFma o s
  | .fmin o => Sys2Proof.Machine.execFmin o s
  | .fminLong o => Sys2Proof.Machine.execFminLong o s
  | .fmax o => Sys2Proof.Machine.execFmax o s
  | .fmaxLong o => Sys2Proof.Machine.execFmaxLong o s
  | .fabs o => Sys2Proof.Machine.execFabs o s
  | .fabsLong o => Sys2Proof.Machine.execFabsLong o s
  | .fneg o => Sys2Proof.Machine.execFneg o s
  | .fnegLong o => Sys2Proof.Machine.execFnegLong o s
  | .fcmp o => Sys2Proof.Machine.execFcmp o s
  | .fcmpLong o => Sys2Proof.Machine.execFcmpLong o s
  | .fclass o => Sys2Proof.Machine.execFclass o s
  | .fclassLong o => Sys2Proof.Machine.execFclassLong o s
  | .fcvt o => Sys2Proof.Machine.execFcvt o s
  | .fcvtLong o => Sys2Proof.Machine.execFcvtLong o s
  | .icvt o => Sys2Proof.Machine.execIcvt o s
  | .icvtLong o => Sys2Proof.Machine.execIcvtLong o s
  | .frcp o => Sys2Proof.Machine.execFrcp o s
  | .frcpLong o => Sys2Proof.Machine.execFrcpLong o s
  | .frsq o => Sys2Proof.Machine.execFrsq o s
  | .frsqLong o => Sys2Proof.Machine.execFrsqLong o s
  | .fsqrt o => Sys2Proof.Machine.execFsqrt o s
  | .fsqrtLong o => Sys2Proof.Machine.execFsqrtLong o s
  | .fex2 o => Sys2Proof.Machine.execFex2 o s
  | .fex2Long o => Sys2Proof.Machine.execFex2Long o s
  | .flg2 o => Sys2Proof.Machine.execFlg2 o s
  | .flg2Long o => Sys2Proof.Machine.execFlg2Long o s
  | .fsinp o => Sys2Proof.Machine.execFsinp o s
  | .fsinpLong o => Sys2Proof.Machine.execFsinpLong o s
  | .fcosp o => Sys2Proof.Machine.execFcosp o s
  | .fcospLong o => Sys2Proof.Machine.execFcospLong o s
  | .ftnh o => Sys2Proof.Machine.execFtnh o s
  | .ftnhLong o => Sys2Proof.Machine.execFtnhLong o s
  | .peek o => Sys2Proof.Machine.execPeek o s
  | .drop o => Sys2Proof.Machine.execDrop o s
  | .fwd o => Sys2Proof.Machine.execFwd o s
  | .mkr o => Sys2Proof.Machine.execMkr o s
  | .mkt o => Sys2Proof.Machine.execMkt o s
  | .steer o => Sys2Proof.Machine.execSteer o s
  | .steerLong o => Sys2Proof.Machine.execSteerLong o s
  | .merge o => Sys2Proof.Machine.execMerge o s
  | .racc o => Sys2Proof.Machine.execRacc o s
  | .raccLong o => Sys2Proof.Machine.execRaccLong o s
  | .segr o => Sys2Proof.Machine.execSegr o s
  | .segrLong o => Sys2Proof.Machine.execSegrLong o s
  | .rwset o => Sys2Proof.Machine.execRwset o s
  | .vrhint o => Sys2Proof.Machine.execVrhint o s
  | .sysrd o => Sys2Proof.Machine.execSysrd o s
  | .syswr o => Sys2Proof.Machine.execSyswr o s
  | .time o => Sys2Proof.Machine.execTime o s
  | .enrd o => Sys2Proof.Machine.execEnrd o s
  | .ld o => Sys2Proof.Machine.execLd o s
  | .ldImm o => Sys2Proof.Machine.execLdImm o s
  | .ldLong o => Sys2Proof.Machine.execLdLong o s
  | .st o => Sys2Proof.Machine.execSt o s
  | .stLong o => Sys2Proof.Machine.execStLong o s
  | .ldw o => Sys2Proof.Machine.execLdw o s
  | .ldwLong o => Sys2Proof.Machine.execLdwLong o s
  | .ldc o => Sys2Proof.Machine.execLdc o s
  | .ldcLong o => Sys2Proof.Machine.execLdcLong o s
  | .ste o => Sys2Proof.Machine.execSte o s
  | .steLong o => Sys2Proof.Machine.execSteLong o s
  | .feset o => Sys2Proof.Machine.execFeset o s
  | .fesetLong o => Sys2Proof.Machine.execFesetLong o s
  | .fetest o => Sys2Proof.Machine.execFetest o s
  | .fetestLong o => Sys2Proof.Machine.execFetestLong o s
  | .ldp o => Sys2Proof.Machine.execLdp o s
  | .ldpImm o => Sys2Proof.Machine.execLdpImm o s
  | .ldpLong o => Sys2Proof.Machine.execLdpLong o s
  | .sto o => Sys2Proof.Machine.execSto o s
  | .stoLong o => Sys2Proof.Machine.execStoLong o s
  | .ptest o => Sys2Proof.Machine.execPtest o s
  | .ptestImm o => Sys2Proof.Machine.execPtestImm o s
  | .ptestLong o => Sys2Proof.Machine.execPtestLong o s
  | .pclr o => Sys2Proof.Machine.execPclr o s
  | .pft o => Sys2Proof.Machine.execPft o s
  | .pftImm o => Sys2Proof.Machine.execPftImm o s
  | .pftLong o => Sys2Proof.Machine.execPftLong o s
  | .clwb o => Sys2Proof.Machine.execClwb o s
  | .clwbImm o => Sys2Proof.Machine.execClwbImm o s
  | .clwbLong o => Sys2Proof.Machine.execClwbLong o s
  | .clinv o => Sys2Proof.Machine.execClinv o s
  | .clinvImm o => Sys2Proof.Machine.execClinvImm o s
  | .clinvLong o => Sys2Proof.Machine.execClinvLong o s
  | .fence o => Sys2Proof.Machine.execFence o s
  | .aadd o => Sys2Proof.Machine.execAadd o s
  | .aaddLong o => Sys2Proof.Machine.execAaddLong o s
  | .aand o => Sys2Proof.Machine.execAand o s
  | .aandLong o => Sys2Proof.Machine.execAandLong o s
  | .aor o => Sys2Proof.Machine.execAor o s
  | .aorLong o => Sys2Proof.Machine.execAorLong o s
  | .axor o => Sys2Proof.Machine.execAxor o s
  | .axorLong o => Sys2Proof.Machine.execAxorLong o s
  | .amin o => Sys2Proof.Machine.execAmin o s
  | .aminLong o => Sys2Proof.Machine.execAminLong o s
  | .amax o => Sys2Proof.Machine.execAmax o s
  | .amaxLong o => Sys2Proof.Machine.execAmaxLong o s
  | .axchg o => Sys2Proof.Machine.execAxchg o s
  | .axchgLong o => Sys2Proof.Machine.execAxchgLong o s
  | .acas o => Sys2Proof.Machine.execAcas o s
  | .afadd o => Sys2Proof.Machine.execAfadd o s
  | .afaddLong o => Sys2Proof.Machine.execAfaddLong o s
  | .dcas o => Sys2Proof.Machine.execDcas o s
  | .amov2 o => Sys2Proof.Machine.execAmov2 o s
  | .cbinc o => Sys2Proof.Machine.execCbinc o s
  | .cbincLong o => Sys2Proof.Machine.execCbincLong o s
  | .cbsnap o => Sys2Proof.Machine.execCbsnap o s
  | .cpy o => Sys2Proof.Machine.execCpy o s
  | .rsacq o => Sys2Proof.Machine.execRsacq o s
  | .rspub o => Sys2Proof.Machine.execRspub o s
  | .rstake o => Sys2Proof.Machine.execRstake o s
  | .rsrel o => Sys2Proof.Machine.execRsrel o s
  | .fbopn o => Sys2Proof.Machine.execFbopn o s
  | .smopn o => Sys2Proof.Machine.execSmopn o s
  | .fbadv o => Sys2Proof.Machine.execFbadv o s
  | .smadv o => Sys2Proof.Machine.execSmadv o s
  | .fbend o => Sys2Proof.Machine.execFbend o s
  | .smend o => Sys2Proof.Machine.execSmend o s
  | .fbcls o => Sys2Proof.Machine.execFbcls o s
  | .smcls o => Sys2Proof.Machine.execSmcls o s
  | .fbpos o => Sys2Proof.Machine.execFbpos o s
  | .fbval o => Sys2Proof.Machine.execFbval o s
  | .fbsek o => Sys2Proof.Machine.execFbsek o s
  | .fbisx o => Sys2Proof.Machine.execFbisx o s
  | .nzscan o => Sys2Proof.Machine.execNzscan o s
  | .pdec o => Sys2Proof.Machine.execPdec o s
  | .penc o => Sys2Proof.Machine.execPenc o s
  | .gath o => Sys2Proof.Machine.execGath o s
  | .scat o => Sys2Proof.Machine.execScat o s
  | .scata o => Sys2Proof.Machine.execScata o s
  | .pgsel o => Sys2Proof.Machine.execPgsel o s
  | .kvapp o => Sys2Proof.Machine.execKvapp o s
  | .kvld o => Sys2Proof.Machine.execKvld o s
  | .perm o => Sys2Proof.Machine.execPerm o s
  | .sxcfg o => Sys2Proof.Machine.execSxcfg o s
  | .sxstat o => Sys2Proof.Machine.execSxstat o s
  | .sxfeed o => Sys2Proof.Machine.execSxfeed o s
  | .sxfrm o => Sys2Proof.Machine.execSxfrm o s
  | .blkopn o => Sys2Proof.Machine.execBlkopn o s
  | .mvclp o => Sys2Proof.Machine.execMvclp o s
  | .fwarp o => Sys2Proof.Machine.execFwarp o s
  | .drift o => Sys2Proof.Machine.execDrift o s
  | .drchk o => Sys2Proof.Machine.execDrchk o s
  | .rfmark o => Sys2Proof.Machine.execRfmark o s
  | .chuck o => Sys2Proof.Machine.execChuck o s
  | .mswap o => Sys2Proof.Machine.execMswap o s
  | .mfeed o => Sys2Proof.Machine.execMfeed o s
  | .mdraw o => Sys2Proof.Machine.execMdraw o s
  | .mzero o => Sys2Proof.Machine.execMzero o s
  | .tchuck o => Sys2Proof.Machine.execTchuck o s
  | .tfeed o => Sys2Proof.Machine.execTfeed o s
  | .tfeedLong o => Sys2Proof.Machine.execTfeedLong o s
  | .tdraw o => Sys2Proof.Machine.execTdraw o s
  | .dqput o => Sys2Proof.Machine.execDqput o s
  | .dqget o => Sys2Proof.Machine.execDqget o s
  | .dqcon o => Sys2Proof.Machine.execDqcon o s
  | .dqfrn o => Sys2Proof.Machine.execDqfrn o s
  | .dqqsc o => Sys2Proof.Machine.execDqqsc o s
  | .ixget o => Sys2Proof.Machine.execIxget o s
  | .ixupd o => Sys2Proof.Machine.execIxupd o s
  | .ixitr o => Sys2Proof.Machine.execIxitr o s
  | .ixclr o => Sys2Proof.Machine.execIxclr o s
  | .ixspl o => Sys2Proof.Machine.execIxspl o s
  | .launch o => Sys2Proof.Machine.execLaunch o s
  | .gsarm o => Sys2Proof.Machine.execGsarm o s
  | .rqrat o => Sys2Proof.Machine.execRqrat o s
  | .rdrat o => Sys2Proof.Machine.execRdrat o s
  | .evtake o => Sys2Proof.Machine.execEvtake o s
  | .drq o => Sys2Proof.Machine.execDrq o s
  | .qpri o => Sys2Proof.Machine.execQpri o s
  | .islandChuck a => Sys2Proof.Machine.execIslandChuck a s
  | .islandMswap a => Sys2Proof.Machine.execIslandMswap a s
  | .islandMfeed a => Sys2Proof.Machine.execIslandMfeed a s
  | .islandMfeedTransposed a => Sys2Proof.Machine.execIslandMfeedTransposed a s
  | .islandMdraw a => Sys2Proof.Machine.execIslandMdraw a s
  | .islandMzero a => Sys2Proof.Machine.execIslandMzero a s
  | .islandArmedTile a => Sys2Proof.Machine.execIslandArmedTile a s
  | .recordRead a => Sys2Proof.Machine.execRecordRead a s
  | .dependenceGranulesPresent a => Sys2Proof.Machine.execDependenceGranulesPresent a s
  | .imageFetch a => Sys2Proof.Machine.execImageFetch a s
  | .startToken a => Sys2Proof.Machine.execStartToken a s
  | .taskFire a => Sys2Proof.Machine.execTaskFire a s
  | .registerFill a b => Sys2Proof.Machine.execRegisterFill a b s
  | .linkTokenArrival a => Sys2Proof.Machine.execLinkTokenArrival a s
  | .slotFreeVisible a => Sys2Proof.Machine.execSlotFreeVisible a s
  | .elasticSample a b => Sys2Proof.Machine.execElasticSample a b s
  | .replicaPark a b c => Sys2Proof.Machine.execReplicaPark a b c s
  | .elasticDeal a b => Sys2Proof.Machine.execElasticDeal a b s
  | .elasticCollect a b => Sys2Proof.Machine.execElasticCollect a b s
  | .sectionCountExpiry a b => Sys2Proof.Machine.execSectionCountExpiry a b s
  | .taskDrain a => Sys2Proof.Machine.execTaskDrain a s
  | .engineDrain a => Sys2Proof.Machine.execEngineDrain a s
  | .bridgeDrain a => Sys2Proof.Machine.execBridgeDrain a s
  | .tileDrained a b => Sys2Proof.Machine.execTileDrained a b s
  | .drainReport a b => Sys2Proof.Machine.execDrainReport a b s
  | .preemptRequest a => Sys2Proof.Machine.execPreemptRequest a s
  | .drainLimitExpiry a => Sys2Proof.Machine.execDrainLimitExpiry a s
  | .contextRestore a => Sys2Proof.Machine.execContextRestore a s
  | .memoryAccessComplete a => Sys2Proof.Machine.execMemoryAccessComplete a s
  | .deferralRetry a => Sys2Proof.Machine.execDeferralRetry a s
  | .l1Eviction a b c => Sys2Proof.Machine.execL1Eviction a b c s
  | .engineCommandComplete a => Sys2Proof.Machine.execEngineCommandComplete a s
  | .pageWalk a b c => Sys2Proof.Machine.execPageWalk a b c s
  | .tlbinvWrite a => Sys2Proof.Machine.execTlbinvWrite a s
  | .tlbInvalidateComplete => Sys2Proof.Machine.execTlbInvalidateComplete s
  | .frbaseWrite a b => Sys2Proof.Machine.execFrbaseWrite a b s
  | .frtailWrite a b => Sys2Proof.Machine.execFrtailWrite a b s
  | .fresumeWrite a b => Sys2Proof.Machine.execFresumeWrite a b s
  | .vfReset a => Sys2Proof.Machine.execVfReset a s
  | .unitError a b => Sys2Proof.Machine.execUnitError a b s
  | .unfenceWrite a => Sys2Proof.Machine.execUnfenceWrite a s
  | .frameParse a => Sys2Proof.Machine.execFrameParse a s
  | .packetPublish a => Sys2Proof.Machine.execPacketPublish a s
  | .lqresvRead a b c => Sys2Proof.Machine.execLqresvRead a b c s
  | .hostBar2Write a b c => Sys2Proof.Machine.execHostBar2Write a b c s
  | .hostBar2Read a b c => Sys2Proof.Machine.execHostBar2Read a b c s
  | .arbiterGrant a => Sys2Proof.Machine.execArbiterGrant a s
  | .impositionComplete a => Sys2Proof.Machine.execImpositionComplete a s
  | .sliceExpiry a => Sys2Proof.Machine.execSliceExpiry a s
  | .grantRecompute a => Sys2Proof.Machine.execGrantRecompute a s
  | .pcapWrite a => Sys2Proof.Machine.execPcapWrite a s
  | .staticEnergyTick => Sys2Proof.Machine.execStaticEnergyTick s
  | .timerSaturate => Sys2Proof.Machine.execTimerSaturate s
  | .timesetWrite a => Sys2Proof.Machine.execTimesetWrite a s
  | .tepochWrite a b => Sys2Proof.Machine.execTepochWrite a b s
  | .registerWrite a b c d => Sys2Proof.Machine.execRegisterWrite a b c d s
  | .ctxfnWrite a b => Sys2Proof.Machine.execCtxfnWrite a b s
  | .prtunitWrite a b c => Sys2Proof.Machine.execPrtunitWrite a b c s
  | .dltailWrite a => Sys2Proof.Machine.execDltailWrite a s
  | .holvorRemoteAccess a => Sys2Proof.Machine.execHolvorRemoteAccess a s
  | .reductionContribution a b c d e => Sys2Proof.Machine.execReductionContribution a b c d e s
  | .holvorLinkState a b c => Sys2Proof.Machine.execHolvorLinkState a b c s
  | .timeSyncLock a b c d => Sys2Proof.Machine.execTimeSyncLock a b c d s
  | .boot a => Sys2Proof.Machine.execBoot a s
  | .attestationQuote a => Sys2Proof.Machine.execAttestationQuote a s
  | .thermalTick a b => Sys2Proof.Machine.execThermalTick a b s
  | .thermalTrip => Sys2Proof.Machine.execThermalTrip s
  | .dlbaseWrite a => Sys2Proof.Machine.execDlbaseWrite a s

end Sys2Proof.Machine
end

