-- ==== Sys2Proof/Machine/Turn.lean ====
section
/-! DEFINITION. A cycle of a processing element (R40): the slots tried in their order, the instruction of the first ready one
performed, and, on links without slots, what a slot that could not issue offers and wants there (R42). -/

namespace Sys2Proof.Machine

open Sys2Proof

/-! ### Links without slots (R40, R42) -/

/-- Whether a slot has a port on a link without slots. -/
def Slot.onZero (x : Slot) : Bool := x.ins.toList.any (fun p => p.zero) || x.outs.toList.any (fun p => p.bound && p.cap == 0)

/-- Output ports on links without slots with the takers they see. -/
def State.zeroOuts (s : State) (x : Slot) : Slot :=
  { x with outs := x.outs.map (fun p => if p.bound && p.cap == 0 then { p with credit := b2n (s.seesTaker p) } else p) }

/-- Input ports on links without slots, each with a token when one is offered to it or when it is the port asked for. -/
def State.zeroIns (s : State) (x : Slot) (asked : Option (Fin 8)) : Slot :=
  { x with ins := Vector.ofFn (fun k : Fin 8 =>
      let p := x.ins[k]
      if p.zero && p.queue.isEmpty && (asked == some k || s.offered (.task x.place (BitVec.ofNat 3 k.val)))
      then { p with queue := [⟨0, .elem⟩] } else p) }

/-- The state after an instruction of the slot in focus that issues; none when the slot is not ready. -/
def State.tried (s : State) (i : Instr) (x : Slot) : Option State :=
  match exec i { s with slot := x, stall := false } with
  | .next t => if t.stall then none else some t
  | _ => none

/-- Whether the instruction takes a token on input port k and waits for nothing but it. -/
def State.wantsAt (s : State) (i : Instr) (k : Fin 8) : Bool :=
  s.slot.ins[k].zero && s.slot.ins[k].queue.isEmpty &&
  (match s.tried i (s.zeroIns (s.zeroOuts s.slot) (some k)) with
   | none => false
   | some t => t.slot.st != .firing || t.slot.ins[k].queue.isEmpty)

/-- Whether the instruction sends a token on output port k and waits for nothing but its taker. -/
def State.offersAt (s : State) (i : Instr) (k : Fin 8) : Bool :=
  let x := s.zeroIns (s.zeroOuts s.slot) none
  s.slot.outs[k].bound && s.slot.outs[k].cap == 0 &&
  (match s.tried i { x with outs := x.outs.set k { x.outs[k] with credit := 1 } } with
   | none => false
   | some t => t.slot.st == .firing && x.outs[k].flight.length < t.slot.outs[k].flight.length)

/-- A slot that was not ready, with what it offers and wants on links without slots. -/
def State.noted (s : State) (c : Coord) (i : Instr) : State :=
  let u := s.focus c
  if u.slot.onZero then
    s.updSlot c (fun x => { x with ins := Vector.ofFn (fun k : Fin 8 => { x.ins[k] with want := u.wantsAt i k }),
                                   outs := Vector.ofFn (fun k : Fin 8 => { x.outs[k] with offer := u.offersAt i k }) })
  else s

/-- A slot about to issue: on links without slots it sees the takers, and offers and wants nothing of its own any more. -/
def State.readied (s : State) (c : Coord) : State :=
  let t := s.issuing c
  if t.slot.onZero then
    let x := t.zeroOuts t.slot
    { t with slot := { x with ins := x.ins.map (fun p => { p with want := false }), outs := x.outs.map (fun p => { p with offer := false }) } }
  else t

/-! ### The issue choice (R40) -/

/-- The instruction of one slot issued: its fetch and its meaning. -/
def issueSlot (s : State) (c : Coord) : Host.Outcome State Fault Refusal :=
  match (s.focus c).fetched with
  | none => .fault .fetchOutsideStore
  | some i => exec i (s.readied c)

/-- What a slot that was not ready leaves behind. -/
def State.passedBy (s : State) (c : Coord) : State :=
  match (s.focus c).fetched with
  | none => s
  | some i => s.noted c i

/-- The first ready slot of a PE in the order given issues; when none is ready, no instruction does (R40). -/
def issueFirst (s : State) (pe : Coord) : List Nat → Host.Outcome State Fault Refusal
  | [] => .next s
  | n :: ns =>
    let c := peSlot pe n
    if (s.slotAt c).any Slot.mayIssue then
      match issueSlot s c with
      | .next t => if t.stall then issueFirst (s.passedBy c) pe ns else .next t
      | r => r
    else issueFirst s pe ns

/-- The end of a step: what the caches have still to report is charged and recorded (R209, R277, R405). -/
def settled : Host.Outcome State Fault Refusal → Host.Outcome State Fault Refusal
  | .next t => .next t.settleNotes
  | .fault f => .fault f
  | .refused r => .refused r

/-- One cycle of a PE (R40). -/
def issuePe (s : State) (pe : Coord) : Host.Outcome State Fault Refusal := issueFirst s pe (issueOrder (s.pe pe).last)

end Sys2Proof.Machine
end

