-- ==== Sys2Proof/Machine/Step.lean ====
section
/-! DEFINITION. One step of the package: the next action of the agenda (log entry 1). -/

namespace Sys2Proof.Machine

open Sys2Proof

/-- One step: the head of the agenda, or a cycle of the PE of the slot in focus when the agenda is empty. -/
def step (s : State) : Host.Outcome State Fault Refusal :=
  match s.agenda with
  | [] => settled (issuePe s s.slot.place)
  | .issue pe :: rest => settled (issuePe { s with agenda := rest } pe)
  | .event i :: rest => settled (exec i { s with agenda := rest, stall := false })
  | .elapse n :: rest => .next ({ s with agenda := rest }.elapse n)

/-- The state in which the very next step fetches and runs the instruction whose bits are `w`. -/
def State.withFetchWord (s : State) (nbits w : Nat) : State := s.atFetch nbits w

end Sys2Proof.Machine
end

