-- ==== Sys2Proof/Safety.lean ====
section
/-! DEFINITION. What a safe run is: no step of it stops with a fault or a refusal of the model. -/

namespace Sys2Proof

open Sys2Proof.Machine

/-- A state from which the next step goes on. -/
def GoesOn (s : State) : Prop := ∃ t, step s = .next t

/-- Every one of the first `n` steps from a state goes on. -/
def SafeFor : Nat → State → Prop
  | 0, _ => True
  | n + 1, s => ∃ t, step s = .next t ∧ SafeFor n t

end Sys2Proof
end

