-- ==== Sys2Proof/Certificates/Slice0/Obligations.lean ====
section
/-! DEFINITION. The statements for the provers: what a step does, what the decoder reads, and for every instruction and
device step the state it leaves. The named lists below say for which constructors a statement speaks. -/

namespace Sys2Proof.Claims

open Sys2Proof Sys2Proof.Machine

/-! ### The vocabulary of the statements -/

/-- The outcome of an instruction of the slot in focus that changes its slot only. -/
def slotNext (s : State) (x : Slot) : Host.Outcome State Fault Refusal := .next { s with slot := x }

/-- The slot in focus may issue (R40) and the operands of the instruction are read (R149): `g` holds them and `y` is the
slot with their tokens consumed. -/
def Fetches (s : State) (o : Ops) (cls : MkClass) (g : Got) (y : Slot) : Prop :=
  s.canIssue = true ∧ s.slot.fetch o cls = .ok (g, y)

/-- The slot that has written a value to the destination and retired, with a unit of its energy class. -/
def wrote (y : Slot) (o : Ops) (v : Dword) (cls : Nat) : Slot := ((y.writeD o v).retire o).owe cls 1

/-- The two words of a two-operand integer instruction, as its type reads them (R169). -/
def aOf (o : Ops) (g : Got) : Int := valI (intT o) g.a.val
def bOf (o : Ops) (g : Got) : Int := valI (intT o) g.b.val

/-- The fields of a slot that no register instruction changes, taken from another slot. -/
def keptOf (x t : Slot) : Slot :=
  { t with pc := x.pc, loops := x.loops, wbase := x.wbase, phys := x.phys, vcache := x.vcache, rng := x.rng,
           fsticky := x.fsticky, amax := x.amax, ins := x.ins, outs := x.outs, mkSeg := x.mkSeg, mkRow := x.mkRow,
           mkTen := x.mkTen, owed := x.owed }

/-- Whether an operand field consumes tokens of an input port. -/
def consumes (o : Ops) (k : Fin 8) : Bool :=
  o.a == .inp (BitVec.ofNat 3 k) || o.b == .inp (BitVec.ofNat 3 k) || o.c == .inp (BitVec.ofNat 3 k)

/-- The frame of an instruction that writes only its destination: from slot `x` to slot `t`. -/
structure DestFrame (o : Ops) (x t : Slot) : Prop where
  kept   : keptOf x t = x
  phys   : ∀ n : Fin 64, x.ctl = true ∨ (∀ c, o.d = .reg c → n.val ≠ (x.wbase.toNat + c.toNat) % 64) → t.phys[n] = x.phys[n]
  vregs  : ∀ n, x.ctl = false ∨ (∀ c, o.d = .reg c → n ≠ vDst o c) → t.vreg? n = x.vreg? n
  ins    : ∀ k : Fin 8, consumes o k = false → t.ins[k] = x.ins[k]
  outs   : ∀ k : Fin 8, o.d ≠ .alt (BitVec.ofNat 3 k) → t.outs[k] = x.outs[k]

/-- The rounding and flag registers kept. -/
def FlagsKept (x t : Slot) : Prop := t.rng = x.rng ∧ t.fsticky = x.fsticky ∧ t.amax = x.amax

/-! ### Lists of constructors -/

/-- The integer instructions that compute an exact integer from A and B (R169, R170), with what they compute. -/
def intTable (o : Ops) : List (Instr × (Int → Int → Int)) :=
  let w := tWidth (intT o)
  let quo (a b : Int) : Int := if b = 0 then (if tSigned (intT o) then -1 else 2 ^ w - 1) else a.tdiv b
  let rest (a b : Int) : Int := if b = 0 then a else a.tmod b
  [(.add o, fun a b => a + b), (.addLong o, fun a b => a + b), (.addi o, fun a b => a + b), (.addiLong o, fun a b => a + b),
   (.sub o, fun a b => a - b), (.subLong o, fun a b => a - b), (.mul o, fun a b => a * b), (.mulLong o, fun a b => a * b),
   (.mulh o, fun a b => a * b / 2 ^ w), (.mulhLong o, fun a b => a * b / 2 ^ w), (.div o, quo), (.divLong o, quo),
   (.rem o, rest), (.remLong o, rest), (.min o, min), (.minLong o, min), (.max o, max), (.maxLong o, max),
   (.abs o, fun a _ => |a|), (.absLong o, fun a _ => |a|), (.neg o, fun a _ => -a), (.negLong o, fun a _ => -a)]

/-- The instructions that compute a bit pattern of the type's width from the pattern of A and a number: the pattern of B, or
for shifts and rotates B[6:0] (R169, R171). -/
def patTable (o : Ops) : List (Instr × Bool × ((w : Nat) → BitVec w → Nat → BitVec w)) :=
  [(.and o, false, fun w a b => a &&& BitVec.ofNat w b), (.andLong o, false, fun w a b => a &&& BitVec.ofNat w b),
   (.or o, false, fun w a b => a ||| BitVec.ofNat w b), (.orLong o, false, fun w a b => a ||| BitVec.ofNat w b),
   (.xor o, false, fun w a b => a ^^^ BitVec.ofNat w b), (.xorLong o, false, fun w a b => a ^^^ BitVec.ofNat w b),
   (.xori o, false, fun w a b => a ^^^ BitVec.ofNat w b), (.xoriLong o, false, fun w a b => a ^^^ BitVec.ofNat w b),
   (.shl o, true, fun _ a n => a <<< n), (.shlLong o, true, fun _ a n => a <<< n),
   (.shr o, true, fun _ a n => a >>> n), (.shrLong o, true, fun _ a n => a >>> n),
   (.sar o, true, fun _ a n => a.sshiftRight n), (.sarLong o, true, fun _ a n => a.sshiftRight n),
   (.rot o, true, fun _ a n => a.rotateLeft n), (.rotLong o, true, fun _ a n => a.rotateLeft n),
   (.clz o, true, fun w a _ => BitVec.ofNat w ((List.range w).find? (fun i => a.getMsbD i)|>.getD w)),
   (.clzLong o, true, fun w a _ => BitVec.ofNat w ((List.range w).find? (fun i => a.getMsbD i)|>.getD w)),
   (.popc o, true, fun w a _ => BitVec.ofNat w ((List.range w).countP (fun i => a.getLsbD i))),
   (.popcLong o, true, fun w a _ => BitVec.ofNat w ((List.range w).countP (fun i => a.getLsbD i)))]

/-- A bit pattern of a type written as a 64-bit value: sign-copied in the signed types, else zero-extended (R152). -/
def extend (t : Nat) {w : Nat} (p : BitVec w) : Dword := if tSigned t then p.signExtend 64 else p.setWidth 64

/-- Whether a T code names an integer type, 0 standing for the default (R168). -/
def intTypeOk (t : BitVec 6) : Prop := t = 0 ∨ (8 ≤ t.toNat ∧ t.toNat ≤ 15)

/-- The instructions of R172 to R174 and R191 that write their destination register or port only: what is written. -/
def moveTable (o : Ops) (g : Got) : List (Instr × Dword) :=
  let cond : Bool := match o.f.toNat with
    | 0 => aOf o g == bOf o g
    | 1 => aOf o g != bOf o g
    | 2 => decide (aOf o g < bOf o g)
    | 3 => decide (aOf o g ≤ bOf o g)
    | 4 => decide (bOf o g < aOf o g)
    | _ => decide (bOf o g ≤ aOf o g)
  let imm := extend (intT o) ((immVal o).setWidth (tWidth (intT o)))
  [(.cmp o, if cond then 1 else 0), (.cmpLong o, if cond then 1 else 0), (.movi o, imm), (.moviLong o, imm),
   (.movl o, o.lit.setWidth 64), (.lea o, g.a.val + (g.b.val <<< o.f.toNat) + o.imm12.signExtend 64),
   (.bfx o, let v := (g.a.val >>> (o.imm12.toNat % 64)).setWidth (o.imm12.toNat / 64 + 1)
            if o.f = 1 then v.signExtend 64 else v.setWidth 64),
   (.segr o, accIdent o), (.segrLong o, accIdent o)]

/-- The float instructions that round their result, with the exact value they round (R176, R180); none is an invalid one. -/
def roundTable (o : Ops) (rm : Nat) : List (Instr × Nat × (FV → FV → FV → Option FV)) :=
  let t := fltT o
  let c := if t = 1 then 2 else 1
  [(.fadd o, c, fun a b _ => addV rm a b), (.faddLong o, c, fun a b _ => addV rm a b),
   (.fsub o, c, fun a b _ => addV rm a b.negate), (.fsubLong o, c, fun a b _ => addV rm a b.negate),
   (.fmul o, c, fun a b _ => mulV a b), (.fmulLong o, c, fun a b _ => mulV a b),
   (.fma o, c, fun a b z => if a = .nan ∨ b = .nan ∨ z = .nan then some .nan else (mulV a b).bind (fun p => addV rm p z)),
   (.frcp o, 3, fun a _ _ => fnRcp t a), (.frcpLong o, 3, fun a _ _ => fnRcp t a),
   (.frsq o, 3, fun a _ _ => fnRsq t a), (.frsqLong o, 3, fun a _ _ => fnRsq t a),
   (.fsqrt o, 3, fun a _ _ => fnSqrt t a), (.fsqrtLong o, 3, fun a _ _ => fnSqrt t a),
   (.fex2 o, 3, fun a _ _ => fnEx2 t a), (.fex2Long o, 3, fun a _ _ => fnEx2 t a),
   (.flg2 o, 3, fun a _ _ => fnLg2 t a), (.flg2Long o, 3, fun a _ _ => fnLg2 t a),
   (.fsinp o, 3, fun a _ _ => fnSinp t a), (.fsinpLong o, 3, fun a _ _ => fnSinp t a),
   (.fcosp o, 3, fun a _ _ => fnCosp t a), (.fcospLong o, 3, fun a _ _ => fnCosp t a),
   (.ftnh o, 3, fun a _ _ => fnTnh t a), (.ftnhLong o, 3, fun a _ _ => fnTnh t a)]

/-- The float instructions that are exact and set no flag, with what they write (R177, R178). -/
def exactTable (o : Ops) (g : Got) : List (Instr × Dword) :=
  let t := fltT o
  let a := decF t g.a.val.toNat
  let b := decF t g.b.val.toNat
  let put (v : FV) : Dword := putBits t (encF t v)
  let nans : Bool := a == .nan || b == .nan
  let cond : Bool := match o.f.toNat with
    | 0 => !nans && !ltV a b && !ltV b a
    | 1 => nans || ltV a b || ltV b a
    | 2 => !nans && ltV a b
    | 3 => !nans && !ltV b a
    | 4 => !nans && ltV b a
    | 5 => !nans && !ltV a b
    | 6 => nans
    | _ => !nans
  [(.fmin o, put (minV a b)), (.fminLong o, put (minV a b)), (.fmax o, put (maxV a b)), (.fmaxLong o, put (maxV a b)),
   (.fabs o, put a.abs), (.fabsLong o, put a.abs), (.fneg o, put a.negate), (.fnegLong o, put a.negate),
   (.fcmp o, if cond then 1 else 0), (.fcmpLong o, if cond then 1 else 0),
   (.fclass o, 1 <<< classBit t a), (.fclassLong o, 1 <<< classBit t a)]

/-- The instructions of marker class P that read their operands, write their destination and go on (R48, R154). -/
def arithList (o : Ops) : List Instr :=
  (intTable o).map (fun p => p.1) ++ (patTable o).map (fun p => p.1) ++
  [.cmp o, .cmpLong o, .movi o, .moviLong o, .movl o, .lea o, .bfx o, .segr o, .segrLong o] ++
  (roundTable o 0).map (fun p => p.1) ++
  [.fmin o, .fminLong o, .fmax o, .fmaxLong o, .fabs o, .fabsLong o, .fneg o, .fnegLong o, .fcmp o, .fcmpLong o, .fclass o,
   .fclassLong o, .fcvt o, .fcvtLong o, .icvt o, .icvtLong o]

/-- Those of them that round nothing: without SAT they leave %fsticky and the generator as they are. -/
def flagless (o : Ops) : List Instr :=
  (intTable o).map (fun p => p.1) ++ (patTable o).map (fun p => p.1) ++
  [.cmp o, .cmpLong o, .movi o, .moviLong o, .movl o, .lea o, .bfx o, .segr o, .segrLong o, .fmin o, .fminLong o, .fmax o, .fmaxLong o,
   .fabs o, .fabsLong o, .fneg o, .fnegLong o, .fcmp o, .fcmpLong o, .fclass o, .fclassLong o]

/-- The conversions (R179). -/
def convList (o : Ops) : List Instr := [.fcvt o, .fcvtLong o, .icvt o, .icvtLong o]

/-- The instruction that keeps some bits of its destination register is ready: its operands are elements and its registers,
the destination among them, are at hand (R173, R174). -/
def InsertReads (s : State) (o : Ops) (c : BitVec 5) (g : Got) (y : Slot) : Prop :=
  s.canIssue = true ∧ o.d = .reg c ∧ s.slot.reads o .p = .ok (g, y) ∧ g.pass = none ∧ s.slot.regsHeld o = true ∧
  s.slot.dstRead o = true

/-! ### The value of a float -/

/-- The number that a finite value stands for (R131); other values stand for none. -/
def fval : FV → Rat
  | .fin n m e => (if n then -1 else 1) * (m : Rat) * (2 : Rat) ^ e
  | _ => 0

/-! ### Branches and ports -/

/-- A branch taken: the pc is the target, and loop entries are popped from the top as long as the target lies outside them; one
that retires inside a called routine pops none (R163). -/
def branched (x : Slot) (target : BitVec 9) : Slot :=
  { x with pc := target,
           loops := if x.calls = [] then x.loops.dropWhile (fun l => !(l.start ≤ target && target ≤ l.stop)) else x.loops }

/-- What STEER does with a token for a port: it is sent, or the port's reserved slot is released; the count goes up either way. -/
def steered (y : Slot) (k : BitVec 3) (t : Option Tok) : Slot :=
  let p := y.outs[k.toNat]
  let q : OutPort := match t with
    | some t => { p with sent := p.sent + 1, reserved := p.reserved - 1, credit := if p.cap = 0 then p.credit - 1 else p.credit,
                         flight := p.flight ++ [t] }
    | none => { p with sent := p.sent + 1, reserved := p.reserved - 1, credit := if p.cap = 0 then p.credit else p.credit + 1 }
  { y with outs := y.outs.set k.toNat q }

end Sys2Proof.Claims

open Sys2Proof Sys2Proof.Machine Sys2Proof.Claims

/-! ### The step -/

/-- A step whose agenda begins with a PE's cycle: the first slot in the order of R40 that may issue runs the instruction that
its words at the pc decode to (R117); when that finds its slot not ready, the choice goes on with the next slot. What the caches
have to report is settled at the end of the step. -/
def Obligations.StepRunsTheDecodedInstruction : Prop :=
  ∀ (s : State) (pe : Coord) (rest : List Action) (pre ns : List Nat) (n : Nat) (i : Instr) (ws : List Word),
    s.agenda = .issue pe :: rest →
    issueOrder (s.pe pe).last = pre ++ n :: ns →
    (∀ k ∈ pre, (s.slotAt (peSlot pe k)).any Slot.mayIssue = false) →
    (s.slotAt (peSlot pe n)).any Slot.mayIssue = true →
    decodeWords (((s.focus (peSlot pe n)).pe (s.focus (peSlot pe n)).slot.place).words.drop (s.focus (peSlot pe n)).slot.pc.toNat)
      = some (i, ws) →
    let u : State := { s with agenda := rest }
    (∀ t, exec i (u.readied (peSlot pe n)) = .next t →
      step s = if t.stall then settled (issueFirst (u.passedBy (peSlot pe n)) pe ns) else .next t.settleNotes) ∧
    ((u.issuing (peSlot pe n)).slot.onZero = false → u.readied (peSlot pe n) = u.issuing (peSlot pe n)) ∧
    (u.issuing (peSlot pe n)).slot = (u.focus (peSlot pe n)).slot

/-- A step whose agenda begins with a device step performs it; one that begins with a passage of time moves the global timer,
which stops at its greatest value and sets PSTAT.TSAT (R32); with an empty agenda the PE of the slot in focus takes its
cycle (the order of the agenda is the model's choice: log entry 1). A step ends with what the caches have to report: each energy
charge of a line reaches its context, and nothing is left to report; a step with nothing to report ends with its own effect. -/
def Obligations.StepTakesTheAgendaHead : Prop :=
  ∀ (s : State) (rest : List Action) (i : Instr) (n : Nat),
    (s.agenda = .event i :: rest → step s = settled (exec i { s with agenda := rest, stall := false })) ∧
    (s.agenda = [] → step s = settled (issuePe s s.slot.place)) ∧
    (∀ t : State, settled (.next t) = .next t.settleNotes ∧ t.settleNotes.mem.notes = [] ∧ (t.mem.notes = [] → t.settleNotes = t) ∧
      ∀ c cls k, t.mem.notes = [.energy c cls k] → t.settleNotes = ({ t with mem := { t.mem with notes := [] } } : State).charge c cls k) ∧
    (s.agenda = .elapse n :: rest → ∃ t, step s = .next t ∧ t.timer.toNat = min (s.timer.toNat + n) (2 ^ 64 - 1) ∧
      t.sys.tsat = (s.sys.tsat || decide (2 ^ 64 - 1 < s.timer.toNat + n)) ∧
      t = { s with agenda := rest, timer := t.timer, sys := { s.sys with tsat := t.sys.tsat } })

/-- Whatever the state, every instruction and device step answers a next state: none stops with a fault of the model or is
refused (a fault of the manual is a next state, R264). -/
def Obligations.EveryInstructionAnswersNext : Prop := ∀ (i : Instr) (s : State), ∃ t, exec i s = .next t

/-- A task instruction is not performed while its slot is not in a firing or has a request waiting (R40): only the mark that the
issue choice reads is set. -/
def Sys2Proof.Claims.NoIssueWithoutFiring : Prop :=
  ∀ (i : Instr) (s : State), (fieldsOf i).isSome = true → (s.slot.st ≠ .firing ∨ s.slot.busy = true) →
    exec i s = .next { s with stall := true }

/-- The one instruction of a cycle stays within its PE's order: when no slot of the PE may issue, the cycle changes nothing (R40). -/
def Sys2Proof.Claims.IdlePeChangesNothing : Prop :=
  ∀ (s : State) (pe : Coord), (∀ k < 4, (s.slotAt (peSlot pe k)).any Slot.mayIssue = false) → issuePe s pe = .next s

/-! ### Decoding -/

/-- Words written out from the layout of R108 and the codes of R110 decode to what they stand for. -/
def Obligations.SpecWordsDecode : Prop :=
  decodeWords [0b0000000000#10 ++ 0b111111#6 ++ 0b111111#6 ++ 0x00#8 ++ 0b01#2] = none ∧
  decodeWords [0b0000#4 ++ 0b000010#6 ++ 0b000001#6 ++ 0b000000#6 ++ 0x10#8 ++ 0b00#2]
    = some (.add { form := .s, d := .reg 0, a := .reg 1, b := .reg 2 }, []) ∧
  decodeWords [0b0000#4 ++ 0b111111#6 ++ 0b111111#6 ++ 0b111111#6 ++ 0x01#8 ++ 0b00#2, 7]
    = some (.halt { form := .s }, [7]) ∧
  decodeWords [0xFF02FC15#32] = some (.bnz { form := .i, a := .reg 2, imm10 := -4 }, []) ∧
  decodeWords [0x4160A1DC#32] = some (.racc { form := .s, f := 4, d := .alt 0, a := .inp 0, b := .reg 5 }, []) ∧
  decodeWords [0] = none ∧ decodeWords [] = none

/-- Decoding an encoded well-formed instruction of a task gives it back, whatever words follow. -/
def Obligations.DecodeOfEncode : Prop :=
  ∀ (i : Instr) (rest : List Word), (fieldsOf i).isSome = true → i.wf = true → decodeWords (encode i ++ rest) = some (i, rest)

/-- What the decoder reads is well-formed, and its words are those of its encoding: no word group has two meanings, and no bit
of a word that decodes is without one. -/
def Obligations.EncodeOfDecode : Prop :=
  ∀ (ws rest : List Word) (i : Instr), decodeWords ws = some (i, rest) → i.wf = true ∧ ws = encode i ++ rest

/-! ### Integer instructions -/

/-- The instructions of R169 and R170 with element operands: the destination receives the exact result wrapped, or with SAT
clamped, in which case a clamped one sets OF. -/
def Obligations.IntegerInstructions : Prop :=
  ∀ (s : State) (o : Ops) (g : Got) (y : Slot), Fetches s o .p g y → g.pass = none → ∀ p ∈ intTable o,
    let r := p.2 (aOf o g) (bOf o g)
    let lo : Int := if tSigned (intT o) then -2 ^ (tWidth (intT o) - 1) else 0
    let hi : Int := if tSigned (intT o) then 2 ^ (tWidth (intT o) - 1) - 1 else 2 ^ tWidth (intT o) - 1
    (o.sat = false → exec p.1 s = slotNext s (wrote y o (extend (intT o) (BitVec.ofInt (tWidth (intT o)) r)) 0)) ∧
    (o.sat = true → exec p.1 s = slotNext s (wrote
      { y with fsticky := if r < lo ∨ hi < r then y.fsticky ||| 4 else y.fsticky } o
      (extend (intT o) (BitVec.ofInt (tWidth (intT o)) (max lo (min hi r)))) 0))

/-- The bitwise, shift, rotate and count instructions of R169 and R171 work on the w-bit pattern of A and the pattern of B or the
count B[6:0]. -/
def Obligations.ShiftAndBitInstructions : Prop :=
  ∀ (s : State) (o : Ops) (g : Got) (y : Slot), Fetches s o .p g y → g.pass = none → intTypeOk o.t → ∀ p ∈ patTable o,
    let w := tWidth (intT o)
    let n := if p.2.1 then g.b.val.toNat % 128 else g.b.val.toNat
    exec p.1 s = slotNext s (wrote y o (extend (intT o) (p.2.2 w (g.a.val.setWidth w) n)) 0)

/-- A value read in an integer type is the one whose pattern it holds, and a written one reads back as itself when the type
holds it (R126, R152). -/
def Sys2Proof.Claims.IntegerValuesRoundTrip : Prop :=
  ∀ (t : Nat) (v : Dword) (r : Int), 8 ≤ t → t ≤ 15 →
    putI t r = extend t (BitVec.ofInt (tWidth t) r) ∧
    valI t v = (if tSigned t then (v.setWidth (tWidth t)).toInt else ((v.setWidth (tWidth t)).toNat : Int)) ∧
    (minI t ≤ r → r ≤ maxI t → valI t (putI t r) = r)

/-- DIV and REM by a divisor that is not zero (R170): a = q·b + r with r of the sign of a and smaller than b. -/
def Sys2Proof.Claims.DivisionIdentity : Prop :=
  ∀ (t : Nat) (a b : Int), b ≠ 0 → a = divI t a b * b + remI a b ∧ |remI a b| < |b| ∧ (0 ≤ a → 0 ≤ remI a b) ∧ (a ≤ 0 → remI a b ≤ 0)

/-- CMP, MOVI, MOVL, LEA, BFX and SEGR write what their rules say. -/
def Sys2Proof.Claims.MoveInstructions : Prop :=
  ∀ (s : State) (o : Ops) (g : Got) (y : Slot), Fetches s o .p g y → g.pass = none → ∀ p ∈ moveTable o g,
    p.1.wf = true → exec p.1 s = slotNext s (wrote y o p.2 0)

/-- MOVL.hi replaces bits 63 to 32 of its destination register, BFI the bits pos+len−1 to pos (R173, R174). -/
def Sys2Proof.Claims.InsertInstructions : Prop :=
  ∀ (s : State) (o : Ops) (c : BitVec 5) (g : Got) (y : Slot), InsertReads s o c g y →
    let d := y.dstReg o c
    let pos := o.imm12.toNat % 64
    let len := o.imm12.toNat / 64 + 1
    exec (.movlHi o) s = slotNext s (wrote y o (o.lit ++ d.extractLsb' 0 32) 0) ∧
    ∃ v : Dword, exec (.bfi o) s = slotNext s (wrote y o v 0) ∧
      ∀ k < 64, v.getLsbD k = if pos ≤ k ∧ k < pos + len then g.a.val.getLsbD (k - pos) else d.getLsbD k

/-! ### Floating-point instructions -/

/-- The rounding float instructions: an invalid operation gives the NaN and sets NV, any other result is rounded once, and
clamped with SAT (R175, R176, R180). -/
def Sys2Proof.Claims.RoundedFloatInstructions : Prop :=
  ∀ (s : State) (o : Ops) (g : Got) (y : Slot), Fetches s o .p g y → g.pass = none → ∀ p ∈ roundTable o (y.rm o),
    let t := fltT o
    let ar : Ar := ⟨y.rng, y.fsticky⟩
    let r := match p.2.2 (decF t g.a.val.toNat) (decF t g.b.val.toNat) (decF t g.c.val.toNat) with
      | none => (FV.nan, { ar with sticky := ar.sticky ||| 8 })
      | some v => rndF t (y.rm o) v ar
    let q := if o.sat then satF t r.1 r.2 else r
    exec p.1 s = slotNext s (wrote { y with rng := q.2.rng, fsticky := q.2.sticky } o (putBits t (encF t q.1)) p.2.1)

/-- FMIN, FMAX, FABS, FNEG, FCMP and FCLASS are exact and set no flag (R177, R178). -/
def Sys2Proof.Claims.ExactFloatInstructions : Prop :=
  ∀ (s : State) (o : Ops) (g : Got) (y : Slot), Fetches s o .p g y → g.pass = none → ∀ p ∈ exactTable o g,
    p.1.wf = true → exec p.1 s = slotNext s (wrote y o p.2 (if fltT o = 1 then 2 else 1))

/-- The conversions (R135, R179): %amax is updated first when F[0] asks for it; a conversion that R135 calls exact writes the
value without a flag, any other is rounded, or between integer types wrapped or clamped. -/
def Obligations.ConversionInstructions : Prop :=
  ∀ (s : State) (o : Ops) (g : Got) (y : Slot), Fetches s o .p g y → g.pass = none →
    let src := if o.imm12.toNat % 32 = 0 then 2 else o.imm12.toNat % 32
    let v := g.a.val
    let x : FV := if tIsFlt src then decF src v.toNat else .fin (valI src v < 0) (valI src v).natAbs 0
    let y' := if o.f.getLsbD 0 then { y with amax := amaxUpd y.amax x } else y
    let ar : Ar := ⟨y.rng, y.fsticky⟩
    let ft := fltT o
    let it := if o.t = 0 then 10 else o.t.toNat
    let f := if widens src ft then (x, ar)
      else let r := rndF ft (y.rm o) x ar
           if o.sat then satF ft r.1 r.2 else r
    let i : Int × Ar := if src = it then (valI it v, ar)
      else if tIsFlt src then rndI it (y.rm o) x ar
      else if tWidth src < tWidth it ∨ o.sat = false then (valI src v, ar)
      else satI it (valI src v) ar
    (tIsFlt ft = true → ∀ n ∈ [.fcvt o, .fcvtLong o], exec n s = slotNext s (wrote { y' with rng := f.2.rng, fsticky := f.2.sticky } o
      (putBits ft (encF ft f.1)) (if ft = 1 then 2 else 1))) ∧
    (∀ n ∈ [.icvt o, .icvtLong o], exec n s = slotNext s (wrote { y' with rng := i.2.rng, fsticky := i.2.sticky } o
      (putI it i.1) (if src = 1 then 2 else 1)))

/-- Every code of a float type that is no NaN stands for a value that the type encodes as that code again; a NaN code reads as NaN
and NaN is written as the one canonical code (R122, R123). -/
def Sys2Proof.Claims.FloatCodesRoundTrip : Prop :=
  ∀ (t : Nat) (x : Nat), 1 ≤ t → t ≤ 7 → x < 2 ^ tWidth t →
    (decF t x ≠ .nan → encF t (decF t x) = x) ∧ (decF t (qnan t) = .nan ∧ encF t .nan = qnan t)

/-- Rounding to an integer: the result is one of the two integers around the exact value, of its sign, the value itself when it is
whole, and NX tells whether it was not; mode 1 takes the nearer one and of two equally near the even one, mode 2 the one nearer to
zero, mode 3 the lower, mode 4 the upper and mode 5 the nearer one, of two the one away from zero (R131); for a value that the type holds. -/
def Sys2Proof.Claims.RoundToIntegerIsNear : Prop :=
  ∀ (t rm m k : Nat) (neg : Bool) (a : Ar), 8 ≤ t → t ≤ 15 → 1 ≤ rm → rm ≤ 6 → 0 < m →
    (m : Int) / 2 ^ k + 1 ≤ maxI t → (neg = true → minI t ≤ -((m : Int) / 2 ^ k + 1)) →
    let r := rndI t rm (.fin neg m (-(k : Int))) a
    let low := m / 2 ^ k
    let rest := m % 2 ^ k
    ∃ q : Nat, r.1 = (if neg then -(q : Int) else q) ∧
      (q = low ∨ q = low + 1) ∧ (rest = 0 → q = low ∧ r.2.sticky = a.sticky) ∧ (rest ≠ 0 → r.2.sticky = a.sticky ||| 1) ∧
      (rm = 1 → (2 * rest < 2 ^ k → q = low) ∧ (2 ^ k < 2 * rest → q = low + 1) ∧ (2 * rest = 2 ^ k → q % 2 = 0)) ∧
      (rm = 2 → q = low) ∧ (rm = 5 → q = if 2 ^ k ≤ 2 * rest then low + 1 else low) ∧ (rm = 3 → rest ≠ 0 → q = if neg then low + 1 else low) ∧
      (rm = 4 → rest ≠ 0 → q = if neg then low else low + 1)

/-- Exact sums and products: a sum of two finite values is their sum, of sign − when it is below 0, an exact zero that of both
zeros of one sign and else − in mode 3 only; a product is the product with the signs combined; ∞ − ∞ and 0 · ∞ have no
value, an infinity takes any other sum or product, and NaN stays NaN (R130, R176). -/
def Sys2Proof.Claims.ExactSumsAndProducts : Prop :=
  ∀ (rm : Nat) (a b : Bool) (m n : Nat) (e f : Int),
    (∃ c k g, addV rm (.fin a m e) (.fin b n f) = some (.fin c k g) ∧ fval (.fin c k g) = fval (.fin a m e) + fval (.fin b n f) ∧
      (k ≠ 0 → (c = true ↔ fval (.fin c k g) < 0)) ∧ (k = 0 → c = if m = 0 ∧ n = 0 ∧ a = b then a else decide (rm = 3))) ∧
    (∃ k g, mulV (.fin a m e) (.fin b n f) = some (.fin (a != b) k g) ∧
      fval (.fin (a != b) k g) = fval (.fin a m e) * fval (.fin b n f)) ∧
    addV rm (.inf a) (.inf b) = (if a = b then some (.inf a) else none) ∧
    addV rm (.inf a) (.fin b n f) = some (.inf a) ∧ addV rm (.fin a m e) (.inf b) = some (.inf b) ∧
    mulV (.inf a) (.inf b) = some (.inf (a != b)) ∧
    mulV (.inf a) (.fin b n f) = (if n = 0 then none else some (.inf (a != b))) ∧
    mulV (.fin a m e) (.inf b) = (if m = 0 then none else some (.inf (a != b))) ∧
    (∀ x : FV, addV rm .nan x = some .nan ∧ addV rm x .nan = some .nan ∧ mulV .nan x = some .nan ∧ mulV x .nan = some .nan)

/-- Rounding into a float type: a finite value within the type's range becomes a value that the type holds, with no other value of
the type between the two; in mode 1 a nearest one, in mode 2 no larger in magnitude, in mode 3 not above and in mode 4 not below;
a value held is kept, and NX is set exactly when it changes. A value of 2^(emax+1) or beyond overflows as R132 says (R131 to R133). -/
def Sys2Proof.Claims.RoundToFloatIsNear : Prop :=
  ∀ (t rm m : Nat) (neg : Bool) (e : Int) (a : Ar), 1 ≤ t → t ≤ 7 → 1 ≤ rm → rm ≤ 6 → 0 < m →
    let v := fval (.fin neg m e)
    let r := (rndF t rm (.fin neg m e) a).1
    let w := fval r
    let top := fval (maxfV t false)
    let held (x : Rat) : Prop := ∃ c < 2 ^ tWidth t, ∃ s k g, decF t c = .fin s k g ∧ fval (.fin s k g) = x
    let up : Bool := rm == 1 || rm == 5 || rm == 6 || (rm == 3 && neg) || (rm == 4 && !neg)
    (|v| ≤ top → held w ∧ (∃ s k g, r = .fin s k g) ∧ (∀ x, held x → ¬(v < x ∧ x < w) ∧ ¬(w < x ∧ x < v)) ∧
      (rm = 1 → ∀ x, held x → |v - w| ≤ |v - x|) ∧ (rm = 2 → |w| ≤ |v|) ∧ (rm = 3 → w ≤ v) ∧ (rm = 4 → v ≤ w) ∧
      (held v → w = v) ∧ (rndF t rm (.fin neg m e) a).2.sticky.getLsbD 0 = (a.sticky.getLsbD 0 || decide (w ≠ v)) ∧
      (rndF t rm (.fin neg m e) a).2.sticky.getLsbD 2 = a.sticky.getLsbD 2) ∧
    ((2 : Rat) ^ ((fEmax t : Int) - fBias t + 1) ≤ |v| →
      r = (if 5 ≤ t ∨ up = false then maxfV t neg else .inf neg) ∧
      (rndF t rm (.fin neg m e) a).2.sticky.getLsbD 0 = true ∧ (rndF t rm (.fin neg m e) a).2.sticky.getLsbD 2 = true)

/-! ### Markers, frames -/

/-- An arithmetic instruction whose port operands all hold the same marker passes it on without computing; whose operands hold
any other mixture with a marker in it takes the marker-skew fault (R48, R154). -/
def Obligations.MarkersPassOrSkew : Prop :=
  ∀ (s : State) (o : Ops), s.canIssue = true → ∀ i ∈ arithList o,
    (∀ (g : Got) (y : Slot) (m : Marker), s.slot.fetch o .p = .ok (g, y) → g.pass = some m →
      ∃ c, exec i s = slotNext s (((y.writeTok o ⟨0, .mrk m⟩).retire o).owe c 1)) ∧
    (s.slot.reads o .p = .error (.flt { code := 0x31 }) → exec i s = .next (s.raise { code := 0x31 })) ∧
    ∀ ts : List Tok,
      ((∀ t ∈ ts, t.kind = .elem) → markRule .p ts = .ok none) ∧
      (∀ m, ts ≠ [] → (∀ t ∈ ts, t.kind = .mrk m) → markRule .p ts = .ok (some m)) ∧
      ((∃ t ∈ ts, t.kind ≠ .elem) → (∀ m, ∃ t ∈ ts, t.kind ≠ .mrk m) → markRule .p ts = .error (.flt { code := 0x31 }))

/-- What an arithmetic instruction leaves as it was: every register but its destination, every port that it does not name, the
rounding mode, the stacks' contents but for the loop test, and outside the slot everything, every byte of memory among it; the
flags, the generator and %amax by the rules of the instructions that round, saturate or convert. -/
def Obligations.ArithmeticFrame : Prop :=
  ∀ (s : State) (o : Ops) (g : Got) (y : Slot), Fetches s o .p g y → ∀ i ∈ arithList o,
    ∃ t, exec i s = slotNext s t ∧ DestFrame o s.slot t ∧
      (g.pass = none → t.mkSeg = s.slot.mkSeg ∧ t.mkRow = s.slot.mkRow ∧ t.mkTen = s.slot.mkTen) ∧
      (g.pass.isSome = true → FlagsKept s.slot t) ∧
      (o.sat = false → i ∈ flagless o → FlagsKept s.slot t) ∧
      (i ∉ convList o ∨ o.f.getLsbD 0 = false → t.amax = s.slot.amax)

/-- A register read gives what was last written to it: a data task through its window, a control task by its banked number
(R36, R111). -/
def Sys2Proof.Claims.RegisterReadAfterWrite : Prop :=
  ∀ (x : Slot) (o : Ops) (c d : BitVec 5) (v : Dword),
    (x.setReg o c v).dstReg o c = v ∧ (d ≠ c → (x.setReg o c v).dstReg o d = x.dstReg o d) ∧
    (x.ctl = false → (x.setReg o c v).areg d.toNat = if d = c then v else x.areg d.toNat)

/-- What is no port reads as an element: a register through its window, or in a control task by its banked number, 32 k + c, a source
code with X[3] set by c; a constant as 0, 1 or −1, B from the word when its field is empty (R111, R149, R152, R153). -/
def Sys2Proof.Claims.OperandSources : Prop :=
  ∀ (x : Slot) (o : Ops) (c : BitVec 5) (k : BitVec 3),
    x.readSrc o (.reg c) = (.got ⟨x.srcReg o c, .elem⟩, x) ∧
    (x.ctl = false → x.srcReg o c = x.phys[(x.wbase.toNat + c.toNat) % 64]'(Nat.mod_lt _ (by decide)) ∧ x.dstReg o c = x.srcReg o c) ∧
    (∀ v, x.ctl = true → x.vreg? (if o.x.getLsbD 3 then c.toNat else 32 * (o.x.toNat % 8) + c.toNat) = some v → x.srcReg o c = v) ∧
    (∀ v, x.ctl = true → x.vreg? (32 * (o.x.toNat % 8) + c.toNat) = some v → x.dstReg o c = v) ∧
    (∀ v, x.ctl = true → (x.setReg o c v).vreg? (32 * (o.x.toNat % 8) + c.toNat) = some v) ∧
    x.readSrc o (.con .zero) = (.got ⟨0, .elem⟩, x) ∧ x.readSrc o (.con .one) = (.got ⟨1, .elem⟩, x) ∧
    x.readSrc o (.con .mone) = (.got ⟨BitVec.allOnes 64, .elem⟩, x) ∧
    (∀ t q, x.ins[k.toNat].queue = t :: q → x.ins[k.toNat].taken < x.ins[k.toNat].rate → t.kind ≠ .mrk .drn →
      x.readSrc o (.alt k) = (.got t, x) ∧ (x.readSrc o (.inp k)).1 = .got t ∧
      (x.readSrc o (.inp k)).2.ins[k.toNat].queue = q ∧ (x.readSrc o (.inp k)).2.ins[k.toNat].taken = x.ins[k.toNat].taken + 1) ∧
    (∀ (cls : MkClass) (wr : Wr) (g : Got) (y : Slot), x.readsWith o cls wr = .ok (g, y) → o.b = .absent → g.b = ⟨immVal o, .elem⟩)

/-- Source operands are read in the order A, B, C (R149): two of them that consume from one port take its first token and its second,
the earlier operand the earlier token, and a third the third; a read that does not consume sees the token that the next consuming
read takes. -/
def Sys2Proof.Claims.OperandOrder : Prop :=
  ∀ (x y : Slot) (o : Ops) (cls : MkClass) (wr : Wr) (g : Got) (k : BitVec 3) (t u : Tok) (q : List Tok),
    x.readsWith o cls wr = .ok (g, y) → x.ins[k.toNat].queue = t :: u :: q →
    let p := x.ins[k.toNat]
    let taken (n : Nat) (rest : List Tok) : Prop := y.ins[k.toNat].queue = rest ∧ y.ins[k.toNat].taken = p.taken + n
    (o.a = .inp k → o.b = .inp k → o.c ≠ .inp k → g.a = t ∧ g.b = u ∧ taken 2 q) ∧
    (o.a = .inp k → o.b ≠ .inp k → o.c = .inp k → g.a = t ∧ g.c = u ∧ taken 2 q) ∧
    (o.a ≠ .inp k → o.b = .inp k → o.c = .inp k → g.b = t ∧ g.c = u ∧ taken 2 q) ∧
    (∀ v q', o.a = .inp k → o.b = .inp k → o.c = .inp k → q = v :: q' → g.a = t ∧ g.b = u ∧ g.c = v ∧ taken 3 q') ∧
    (o.a = .inp k → o.b = .alt k → o.c ≠ .inp k → g.a = t ∧ g.b = u ∧ taken 1 (u :: q)) ∧
    (o.a = .alt k → o.b = .inp k → o.c ≠ .inp k → g.a = t ∧ g.b = t ∧ taken 1 (u :: q)) ∧
    (o.a ≠ .inp k → o.b ≠ .inp k → o.c ≠ .inp k → taken 0 (t :: u :: q))

/-! ### Control instructions -/

/-- An instruction retired: the pc moves past its words, and the loops that end at it are tested from the top of the stack: each
turns the window back by its rotation and counts down; one with passes left branches to its start, one without is popped
and the next tested. -/
def Sys2Proof.Claims.RetirementLoopTest : Prop :=
  ∀ (x : Slot) (o : Ops),
    ((∀ l ls, x.loops = l :: ls → l.stop ≠ x.pc) → x.retire o = { x with pc := x.pc + formStep o }) ∧
    (∀ l ls, x.loops = l :: ls → l.stop = x.pc → l.rem - 1 ≠ 0 →
      x.retire o = { x with loops := { l with rem := l.rem - 1 } :: ls, pc := l.start, wbase := x.wbase - l.rot.setWidth 6 }) ∧
    (∀ l ls, x.loops = l :: ls → l.stop = x.pc → l.rem - 1 = 0 →
      x.retire o = ({ x with loops := ls, wbase := x.wbase - l.rot.setWidth 6 } : Slot).retire o)

/-- BR continues at its own address plus the offset; BZ, BNZ, BLT and BGE read their sources and do so when their condition holds,
and go on after themselves otherwise; BMK looks at the head token of its port, whatever it is, and takes nothing. A taken branch
pops, from the top, the loop entries whose range its target lies outside; inside a called routine it pops none, which is the model's
reading of R163 (log entry 21). -/
def Sys2Proof.Claims.BranchInstructions : Prop :=
  ∀ (s : State) (o : Ops), s.canIssue = true →
    let t10 := s.slot.pc + o.imm10.setWidth 9
    let t12 := s.slot.pc + o.imm12.setWidth 9
    let go (y : Slot) (c : Bool) (t : BitVec 9) := slotNext s ((if c then branched y t else y.retire o).owe 0 1)
    exec (.br o) s = go s.slot true t10 ∧
    (∀ g y, s.slot.fetch o .z = .ok (g, y) →
      exec (.bz o) s = go y (g.a.val == 0) t10 ∧ exec (.bnz o) s = go y (g.a.val != 0) t10 ∧
      exec (.blt o) s = go y (decide (aOf o g < bOf o g)) t12 ∧ exec (.bge o) s = go y (decide (bOf o g ≤ aOf o g)) t12) ∧
    (∀ (k : BitVec 3) (m : Marker) (t : Tok) (q : List Tok), o.a = .alt k → o.b = .mrk m → s.slot.ins[k.toNat].queue = t :: q →
      exec (.bmk o) s = go s.slot (t.kind == .mrk m) t12)

/-- CALL pushes the address after itself and branches, RET pops the top into the pc; a CALL with four addresses stacked, or
a RET with none, takes the control-stack fault, which stops the context, and the instruction does not retire. -/
def Sys2Proof.Claims.CallAndReturn : Prop :=
  ∀ (s : State) (o : Ops), s.canIssue = true →
    (s.slot.calls.length < 4 → exec (.call o) s = slotNext s
      (({ s.slot with calls := (s.slot.pc + formStep o) :: s.slot.calls, pc := s.slot.pc + o.imm10.setWidth 9 } : Slot).owe 0 1)) ∧
    (4 ≤ s.slot.calls.length → exec (.call o) s = .next ((s.emit s.slot.prt (s.slotRec { code := 0x32 })).stopPart s.slot.prt)) ∧
    (∀ a as, s.slot.calls = a :: as →
      exec (.ret o) s = slotNext s (({ s.slot with calls := as, pc := a } : Slot).owe 0 1)) ∧
    (s.slot.calls = [] → exec (.ret o) s = .next ((s.emit s.slot.prt (s.slotRec { code := 0x32 })).stopPart s.slot.prt))

/-- LOOPI and LOOPR: a count of zero skips the body, a third loop takes the control-stack fault, any other count opens a loop from
the next instruction to the end instruction, LOOPR with its rotation. -/
def Obligations.LoopInstructions : Prop :=
  ∀ (s : State) (o : Ops) (g : Got) (y : Slot), Fetches s o .z g y → ∀ p ∈ [(Instr.loopi o, (0 : BitVec 4)), (.loopr o, o.f)],
    let c : Word := if o.a = .absent then o.lit else g.a.val.setWidth 32
    let e := y.pc + o.imm12.setWidth 9
    (c = 0 → exec p.1 s = slotNext s (({ y with pc := e + s.lengthAt e } : Slot).owe 0 1)) ∧
    (c ≠ 0 → y.loops.length < 2 → exec p.1 s = slotNext s
      (({ y with loops := ⟨y.pc + formStep o, e, c, p.2⟩ :: y.loops, pc := y.pc + formStep o } : Slot).owe 0 1)) ∧
    (c ≠ 0 → 2 ≤ y.loops.length → exec p.1 s = .next (s.raise { code := 0x32 }))

/-- NOP retires and changes nothing else; VRHINT retires, raises no fault and changes no value: outside a control task nothing else,
in one at most where its registers are held: .fill brings registers in beside those held, .drop lets clean ones go and keeps
every register that it does not name (R193). WAIT retires when nothing that its form covers is outstanding, and makes its slot wait
while something is. -/
def Sys2Proof.Claims.NopHintAndWait : Prop :=
  ∀ (s : State) (o : Ops), s.canIssue = true →
    let pending := (o.f ≠ 2 ∧ ∃ w ∈ s.mem.waits, w.place = s.slot.place) ∨ (o.f ≠ 1 ∧ s.engineBusy s.slot = true)
    exec (.nop o) s = slotNext s ((s.slot.retire o).owe 0 1) ∧
    (s.slot.ctl = false → exec (.vrhint o) s = slotNext s ((s.slot.retire o).owe 0 1)) ∧
    (∃ t, exec (.vrhint o) s = .next t ∧ { t with slot := s.slot, mem := s.mem, hvReplies := s.hvReplies } = s ∧
      { t.slot with vcache := s.slot.vcache, vsaved := s.slot.vsaved } = (s.slot.retire o).owe 0 1 ∧
      (o.f = 0 → s.slot.vcache.length + o.imm12.toNat ≤ 32 → ∀ n v, s.slot.vreg? n = some v → t.slot.vreg? n = some v) ∧
      ∀ c, s.slot.ctl = true → o.a = .reg c → let named (n : Nat) : Prop := vSrc o c ≤ n ∧ n < vSrc o c + o.imm12.toNat
        (o.f = 0 → s.slot.vcache.length + o.imm12.toNat ≤ 32 → ∀ n, named n → s.slot.vreg? n = none → s.slot.vsaved.getLsbD n = false →
          t.slot.vreg? n = some 0) ∧
        (o.f ≠ 0 → (∀ n, ¬named n → t.slot.vreg? n = s.slot.vreg? n) ∧
          ∀ n, named n → (∀ e ∈ s.slot.vcache, e.reg = n → e.dirty = false) → t.slot.vreg? n = none)) ∧
    (¬pending → exec (.wait o) s = slotNext s ((s.slot.retire o).owe 0 1)) ∧
    (pending → exec (.wait o) s = .next { s with stall := true })

/-- HALT with every count as declared ends the firing: empty stacks, one more in %fires, an idle slot, the counts cleared and unused
reservations given back; with a count that differs it takes the rate violation of that port and does not retire. -/
def Sys2Proof.Claims.HaltEndsTheFiring : Prop :=
  ∀ (s : State) (o : Ops), s.canIssue = true →
    (s.slot.miscount = none → ∃ x : Slot, exec (.halt o) s = slotNext s (x.owe 0 1) ∧
      x.st = .idle ∧ x.calls = [] ∧ x.loops = [] ∧ x.fires = s.slot.fires + 1 ∧ x.mkSeg = 0 ∧ x.mkRow = 0 ∧ x.mkTen = 0 ∧
      (∀ k : Fin 8, x.ins[k] = { s.slot.ins[k] with taken := 0 }) ∧
      (∀ k : Fin 8, x.outs[k].sent = 0 ∧ x.outs[k].reserved = 0 ∧ x.outs[k].flight = s.slot.outs[k].flight ∧
        (s.slot.outs[k].cap ≠ 0 → x.outs[k].credit = s.slot.outs[k].credit + s.slot.outs[k].reserved)) ∧
      { x with st := .firing, calls := s.slot.calls, loops := s.slot.loops, fires := s.slot.fires, mkSeg := s.slot.mkSeg,
               mkRow := s.slot.mkRow, mkTen := s.slot.mkTen, ins := s.slot.ins, outs := s.slot.outs } = { s.slot with st := .firing }) ∧
    (∀ p, s.slot.miscount = some p → exec (.halt o) s = .next (s.raise { code := 0x30, info := BitVec.ofNat 64 p })) ∧
    (s.slot.miscount = none ↔ (∀ k : Fin 8, s.slot.ins[k].bound = true → s.slot.ins[k].taken = s.slot.ins[k].rate) ∧
      (∀ k : Fin 8, s.slot.outs[k].bound = true → s.slot.outs[k].sent = (match s.slot.outs[k].mkey.toNat with
        | 0 => s.slot.outs[k].rate
        | 1 => s.slot.mkSeg
        | 2 => s.slot.mkRow
        | _ => s.slot.mkTen)))

/-- TRAP does not retire: it takes the program trap, whose record carries imm10 as its code and the value of A, or 0 without
one, and which stops the context. -/
def Sys2Proof.Claims.TrapTakesTheProgramTrap : Prop :=
  ∀ (s : State) (o : Ops) (g : Got) (y : Slot), Fetches s o .z g y →
    ∃ t, exec (.trap o) s = .next t ∧
      t = (s.emit s.slot.prt { s.slotRec { code := 0x33 } with sub := o.imm10.toNat, info := g.a.val }).stopPart s.slot.prt ∧
      (o.a = .absent → g.a.val = 0) ∧ fltClass 0x33 = 2

/-! ### Streams -/

/-- PEEK of a token, FWD of one and MKR of a marker write it to D: an element's payload to a register or a port, a marker to a
port only; PEEK leaves the token, FWD consumes it, and MKR's marker counts as one token sent. MKT tells whether the head token is its
marker and leaves it. A PEEK at a position beyond the tokens still to be consumed is the rate violation of its port (R150). -/
def Sys2Proof.Claims.PeekForwardAndMarkers : Prop :=
  ∀ (s : State) (o : Ops), s.canIssue = true →
    (s.slot.dstCheck o.d = .room → s.slot.regsHeld o = true →
      (∀ k t, o.a = .alt k → s.slot.peekAt k o.imm10.toNat = .got t →
        exec (.peek o) s = slotNext s (((s.slot.writeTok o t).retire o).owe 0 1)) ∧
      (∀ k, o.a = .alt k → s.slot.ins[k.toNat].rate - s.slot.ins[k.toNat].taken ≤ o.imm10.toNat →
        exec (.peek o) s = .next (s.raise { code := 0x30, info := BitVec.ofNat 64 k.toNat })) ∧
      (∀ k t, o.a = .alt k → o.imm10.toNat < s.slot.ins[k.toNat].rate - s.slot.ins[k.toNat].taken →
        s.slot.ins[k.toNat].queue[o.imm10.toNat]? = some t → t.kind ≠ .mrk .drn → s.slot.peekAt k o.imm10.toNat = .got t) ∧
      (∀ m, o.a = .mrk m → exec (.mkr o) s = slotNext s (((s.slot.writeTok o ⟨0, .mrk m⟩).retire o).owe 0 1)) ∧
      (∀ k m t q, o.a = .alt k → o.b = .mrk m → s.slot.ins[k.toNat].queue = t :: q →
        exec (.mkt o) s = slotNext s (wrote s.slot o (if t.kind = .mrk m then 1 else 0) 0))) ∧
    (∀ g y, s.slot.fetch o .o = .ok (g, y) → exec (.fwd o) s = slotNext s (((y.writeTok o g.a).retire o).owe 0 1)) ∧
    (∀ (x : Slot) (c : BitVec 5) (m : Marker), o.d = .reg c → x.writeTok o ⟨0, .mrk m⟩ = x) ∧
    (∀ (x : Slot) (k : BitVec 3) (t : Tok), o.d = .alt k → (x.writeTok o t).outs[k.toNat].flight = x.outs[k.toNat].flight ++ [t] ∧
      (x.writeTok o t).outs[k.toNat].sent = x.outs[k.toNat].sent + 1)

/-- DROP consumes its number of tokens, elements or markers, and each counts as consumed; it waits while they are not there, and
reading past the count is the rate violation of its port. -/
def Sys2Proof.Claims.DropConsumes : Prop :=
  ∀ (s : State) (o : Ops) (k : BitVec 3), s.canIssue = true → o.a = .inp k →
    let p := s.slot.ins[k.toNat]
    let n := o.imm10.toNat
    (n ≤ p.queue.length → p.taken + n ≤ p.rate → (∀ t ∈ p.queue.take n, t.kind ≠ .mrk .drn) →
      ∃ x : Slot, exec (.drop o) s = slotNext s ((x.retire o).owe 0 1) ∧
        x.ins[k.toNat] = { p with queue := p.queue.drop n, taken := p.taken + n, freed := p.freed + n } ∧
        (∀ j : Fin 8, j.val ≠ k.toNat → x.ins[j] = s.slot.ins[j]) ∧
        x.mkSeg = s.slot.mkSeg + ((p.queue.take n).countP (fun t => t.kind == .mrk .seg)) ∧
        x.mkRow = s.slot.mkRow + ((p.queue.take n).countP (fun t => t.kind == .mrk .row)) ∧
        x.mkTen = s.slot.mkTen + ((p.queue.take n).countP (fun t => t.kind == .mrk .ten)) ∧
        { x with ins := s.slot.ins, mkSeg := s.slot.mkSeg, mkRow := s.slot.mkRow, mkTen := s.slot.mkTen } = s.slot) ∧
    (p.queue.length < n → p.taken + p.queue.length < p.rate → (∀ t ∈ p.queue, t.kind ≠ .mrk .drn) →
      exec (.drop o) s = .next { s with stall := true }) ∧
    (0 < n → p.rate < p.taken + n → p.rate - p.taken ≤ p.queue.length →
      (∀ t ∈ p.queue.take (p.rate - p.taken), t.kind ≠ .mrk .drn) →
      exec (.drop o) s = .next (s.raise { code := 0x30, info := BitVec.ofNat 64 k.toNat }))

/-- STEER sends its data token on D when the control is not zero and on the false port, or nowhere, when it is; markers of one kind
on both go to both ports; any other presence of a marker is the marker-skew fault. Each port named counts one token; a port named
twice counts two, and is past its count when one place is left (R188). -/
def Sys2Proof.Claims.SteerRoutes : Prop :=
  ∀ (s : State) (o : Ops) (k : BitVec 3) (g : Got) (y : Slot), s.canIssue = true → o.d = .alt k →
    s.slot.reads { o with d := .absent } .o = .ok (g, y) → s.slot.regsHeld { o with d := .absent } = true →
    s.slot.outCheck k = .room → (∀ f, falsePort o = some f → s.slot.outCheck f = .room) →
    let short := falsePort o = some k ∧ s.slot.outs[k.toNat].rate ≤ s.slot.outs[k.toNat].sent + 1
    let toD : Option (Option Tok × Option Tok) := match g.a.kind, g.b.kind with
      | .elem, .elem => some (if g.b.val = 0 then (none, some g.a) else (some g.a, none))
      | .mrk m, .mrk n => if m = n then some (some ⟨0, .mrk m⟩, some ⟨0, .mrk m⟩) else none
      | _, _ => none
    ∀ i ∈ [Instr.steer o, .steerLong o],
      (short → exec i s = .next (s.raise { code := 0x30, info := BitVec.ofNat 64 (8 + k.toNat) })) ∧
      (∀ t f, ¬short → toD = some (t, f) → exec i s = slotNext s
        (((match falsePort o with
           | some k' => steered (steered y k t) k' f
           | none => steered y k t).retire o).owe 0 1)) ∧
      (¬short → toD = none → exec i s = .next (s.raise { code := 0x31 }))

/-- MERGE takes the head token of A when its control is not zero and of B when it is, and writes it to D; a marker control needs
that marker at the head of both, takes both and writes one; two data operands of one port name its first token and its second. Any
other head is the marker-skew fault, with a marker control at once (log entry 21). The port not chosen is not read. -/
def Sys2Proof.Claims.MergeSelects : Prop :=
  ∀ (s : State) (o : Ops) (ka kb : BitVec 3) (g : Got) (y : Slot), s.canIssue = true → o.a = .inp ka → o.b = .inp kb →
    s.slot.reads { o with a := .absent, b := .absent } .o = .ok (g, y) →
    s.slot.regsHeld { o with a := .absent, b := .absent } = true →
    let pop (x : Slot) (k : BitVec 3) : Slot :=
      { x with ins := x.ins.set k.toNat { x.ins[k.toNat] with queue := x.ins[k.toNat].queue.drop 1, freed := x.ins[k.toNat].freed + 1 } }
    (∀ t q, g.c.kind = .elem → t.kind = .elem → (g.c.val ≠ 0 → y.ins[ka.toNat].queue = t :: q → exec (.merge o) s =
        slotNext s ((((pop y ka).writeTok o t).retire o).owe 0 1)) ∧
      (g.c.val = 0 → y.ins[kb.toNat].queue = t :: q → exec (.merge o) s = slotNext s ((((pop y kb).writeTok o t).retire o).owe 0 1))) ∧
    (∀ m u v qa qb, m ≠ .drn → g.c.kind = .mrk m → u.kind = .mrk m → v.kind = .mrk m →
      (if ka = kb then y.ins[ka.toNat].queue = u :: v :: qa else y.ins[ka.toNat].queue = u :: qa ∧ y.ins[kb.toNat].queue = v :: qb) →
      exec (.merge o) s = slotNext s ((((pop (pop y ka) kb).writeTok o ⟨0, .mrk m⟩).retire o).owe 0 1)) ∧
    (∀ m u qa, g.c.kind = .mrk m → u.kind ≠ .mrk m → u.kind ≠ .mrk .drn →
      (y.ins[ka.toNat].queue = u :: qa ∨ (ka ≠ kb ∧ y.ins[kb.toNat].queue = u :: qa)) →
      exec (.merge o) s = .next (s.raise { code := 0x31 })) ∧
    (g.c.kind = .elem → let k := if g.c.val = 0 then kb else ka
      (∀ t q, y.ins[k.toNat].queue = t :: q → t.kind ≠ .elem → t.kind ≠ .mrk .drn → exec (.merge o) s = .next (s.raise { code := 0x31 })) ∧
      (y.ins[k.toNat].queue = [] → exec (.merge o) s = .next { s with stall := true }))

/-- A MERGE whose destination port has its count used up waits while the token that it would take is not there, and takes the rate
violation of that port, before any marker skew, once it is (R40, R189, R265). -/
def Sys2Proof.Claims.MergePastTheCount : Prop :=
  ∀ (s : State) (o : Ops) (ka kb : BitVec 3) (g : Got) (y : Slot) (p : Nat), s.canIssue = true → o.a = .inp ka → o.b = .inp kb →
    s.slot.dstCheck o.d = .over p → s.slot.readsWith { o with a := .absent, b := .absent } .o .room = .ok (g, y) →
    s.slot.regsHeld { o with a := .absent, b := .absent } = true → g.c.kind = .elem →
    let k := if g.c.val = 0 then kb else ka
    (y.ins[k.toNat].queue = [] → exec (.merge o) s = .next { s with stall := true }) ∧
    (∀ t q, y.ins[k.toNat].queue = t :: q → t.kind ≠ .mrk .drn →
      exec (.merge o) s = .next (s.raise { code := 0x30, info := BitVec.ofNat 64 p }))

namespace Sys2Proof.Claims

/-- What RACC accumulates of integers: F[1:0] selects sum, minimum, maximum or count (R190). -/
def accInt (f : Nat) (a b : Int) : Int := if f = 0 then a + b else if f = 1 then min a b else if f = 2 then max a b else a + 1

end Sys2Proof.Claims

/-- RACC with an element: the accumulator register takes its sum, minimum, maximum or count, an integer one clamped with SAT, a float
sum rounded as FADD's with FADD's invalid rule (log entry 21); with its key marker: the accumulator is written to D and starts
again at the identity; with another marker: the marker-skew fault (R190). -/
def Obligations.AccumulateRegister : Prop :=
  ∀ (s : State) (o : Ops) (c : BitVec 5) (g : Got) (y : Slot), s.canIssue = true → o.b = .reg c →
    s.slot.reads { o with d := .absent } .o = .ok (g, y) → s.slot.regsHeld o = true →
    let cls := if accT o = 1 then 2 else if tIsFlt (accT o) then 1 else 0
    let t := accT o
    ∀ i ∈ [Instr.racc o, .raccLong o],
      (g.a.kind = .elem → ∃ (x : Slot) (v : Dword), exec i s = slotNext s (((x.setSrcReg o c v).retire o).owe cls 1) ∧
        (tIsFlt t = false →
          let r := accInt (o.f.toNat % 4) (valI t g.b.val) (valI t g.a.val)
          (o.sat = false ∨ o.f.toNat % 4 = 1 ∨ o.f.toNat % 4 = 2 → x = y ∧ v = extend t (BitVec.ofInt (tWidth t) r)) ∧
          (o.sat = true → v = extend t (BitVec.ofInt (tWidth t) (max (minI t) (min (maxI t) r))) ∧
            x = { y with fsticky := if r < minI t ∨ maxI t < r then y.fsticky ||| 4 else y.fsticky })) ∧
        (tIsFlt t = true →
          let a := decF t g.b.val.toNat
          let b := decF t g.a.val.toNat
          let q : FV × Ar := match addV (y.rm o) a b with
            | none => (.nan, ⟨y.rng, y.fsticky ||| 8⟩)
            | some z => rndF t (y.rm o) z ⟨y.rng, y.fsticky⟩
          let q := if o.sat then satF t q.1 q.2 else q
          (o.f.toNat % 4 = 0 → v = putBits t (encF t q.1) ∧ x = { y with rng := q.2.rng, fsticky := q.2.sticky }) ∧
          (o.f.toNat % 4 = 1 → v = putBits t (encF t (minV a b)) ∧ x = y) ∧
          (o.f.toNat % 4 = 2 → v = putBits t (encF t (maxV a b)) ∧ x = y))) ∧
      (∀ m, g.a.kind = .mrk m → m = accKey o → s.slot.dstCheck o.d = .room →
        exec i s = slotNext s ((((y.writeD o g.b.val).setSrcReg o c (accIdent o)).retire o).owe cls 1)) ∧
      (∀ m, g.a.kind = .mrk m → m ≠ accKey o → exec i s = .next (s.raise { code := 0x31 }))

/-! ### Windows and special registers -/

/-- RWSET sets the window base to A plus the offset, mod 64; SYSRD writes the special register's value, TIME the global timer, ENRD
the context's energy count in bits 47 to 0 with the saturation flag in bit 63. What the registers that no task writes read: the
context, the coordinates in the image and as placed, the pc, the grants, ENRD's value, the depths of both stacks, the count left of
the innermost loop, the record's tag and the firings done (R156). -/
def Sys2Proof.Claims.WindowTimerAndEnergy : Prop :=
  ∀ (s : State) (o : Ops) (g : Got) (y : Slot), Fetches s o .z g y →
    exec (.rwset o) s = slotNext s ((({ y with wbase := (if o.a = .absent then 0 else g.a.val.setWidth 6) + o.imm10.setWidth 6 } : Slot).retire o).owe 0 1) ∧
    exec (.sysrd o) s = slotNext s (wrote y o (s.special o.imm10.toNat) 0) ∧
    exec (.time o) s = slotNext s (wrote y o s.timer 0) ∧
    (∃ v : Dword, exec (.enrd o) s = slotNext s (wrote y o v 0) ∧
      ((s.ctx (s.part s.slot.prt).ctx).nj < 2 ^ 48 → v.toNat % 2 ^ 48 = (s.ctx (s.part s.slot.prt).ctx).nj ∧
        v.toNat / 2 ^ 48 = if (s.ctx (s.part s.slot.prt).ctx).sat then 2 ^ 15 else 0) ∧ s.special 11 = v) ∧
    (let x := s.slot
     let q := s.part x.prt
     let coords (c : Coord) : Nat := c.die.toNat * 2 ^ 17 + c.tile.toNat * 2 ^ 8 + c.pe.toNat * 2 ^ 2 + c.slot.toNat
     let row (c : Coord) : Nat := 16 * c.die.toNat + c.tile.toNat / 24
     let r := (s.special 10).toNat
     s.special 0 = BitVec.ofNat 64 q.ctx ∧ (s.special 1).toNat = coords x.id ∧ (s.special 2).toNat = coords x.place ∧
     (s.special 3).toNat = x.pc.toNat ∧ s.special 9 = (s.ctx q.ctx).seed ∧
     (x.loops.length ≤ 2 → x.calls.length ≤ 4 → (s.special 12).toNat = x.loops.length * 2 ^ 4 + x.calls.length) ∧
     (x.loops = [] → s.special 13 = 0) ∧ (∀ l ls, x.loops = l :: ls → (s.special 13).toNat = l.rem.toNat) ∧
     (s.special 14).toNat = q.tag.toNat ∧ s.special 15 = x.fires ∧
     (q.grant.mx < 2 ^ 5 → q.grant.mm < 2 ^ 5 → (∀ y ∈ s.slots, (s.part y.prt).grant.vc < 2 ^ 5) →
       (∀ y ∈ s.slots, tget 1 (s.part y.prt).divs (row x.place) < 2 ^ 3) →
       r / 2 ^ 16 % 2 ^ 5 = q.grant.mx ∧ r % 2 ^ 5 = q.grant.mm ∧ ∀ y ∈ s.slots, row y.place = row x.place →
         r / 2 ^ 8 % 2 ^ 5 ≤ (s.part y.prt).grant.vc ∧ tget 1 (s.part y.prt).divs (row x.place) ≤ r / 2 ^ 24))

/-- A special register that a task may write reads back through SYSRD as its fields took the value: %wbase mod 64, %rmode but for the
reserved codes 0 and 7, %fsticky's four flags, %amax without a sign, %rng with 1 for 0; every other register of the slot stays, and
a number that names no writable register is ignored. %seed takes effect at the next forme start (R142). -/
def Sys2Proof.Claims.SpecialRegistersReadBack : Prop :=
  ∀ (s : State) (o : Ops) (g : Got) (y : Slot), Fetches s o .z g y →
    let n := o.imm10.toNat
    let v := g.a.val
    (n ≠ 9 → exec (.syswr o) s = slotNext s (((y.setSpecial n v).retire o).owe 0 1)) ∧
    (n = 9 → ∃ t, exec (.syswr o) s = .next t ∧ t.slot = (y.retire o).owe 0 1 ∧
      (t.ctx (s.part s.slot.prt).ctx).seedNew = (s.ctx (s.part s.slot.prt).ctx).seedNew ++
        [(((s.part s.slot.prt).queueTag, s.slot.id), v)] ∧
      { t with slot := s.slot, ctxs := s.ctxs } = s) ∧
    ({ s with slot := y.setSpecial 4 v } : State).special 4 = (v.setWidth 6).setWidth 64 ∧
    ({ s with slot := y.setSpecial 5 v } : State).special 5 =
      (if v.toNat % 8 = 0 ∨ v.toNat % 8 = 7 then y.rmode.setWidth 64 else (v.setWidth 3).setWidth 64) ∧
    ({ s with slot := y.setSpecial 6 v } : State).special 6 = (v.setWidth 4).setWidth 64 ∧
    ({ s with slot := y.setSpecial 7 v } : State).special 7 = (v &&& 0x17FFFFFFF) ∧
    ({ s with slot := y.setSpecial 8 v } : State).special 8 = (if v = 0 then 1 else v) ∧
    (n ∉ [4, 5, 6, 7, 8] → y.setSpecial n v = y)

/-! ### Loads and stores -/

namespace Sys2Proof.Claims

/-- The state behind the operands of an instruction that reaches memory. -/
def behind (s : State) (y : Slot) : State := { s with slot := y }

/-- The value of type `ty` that bytes hold, as a destination receives it (R152). -/
def loadedVal (ty : Nat) (bs : List Byte) : Dword := extend ty (BitVec.ofNat (tWidth ty) (bytesToNat bs))

/-- The type of a load or store, i64 by default (R224), and of a full/empty access, n32 by default (R230). -/
def tyOf (o : Ops) (dflt : Nat) : Nat := if o.t = 0 then dflt else o.t.toNat

/-- A scratchpad access of `w` bytes of an instruction is in order: its slot issues, its operands are elements, its address is
aligned and lies in a scratchpad of the partition, at `off` of unit `u` (R200, R222 to R224). -/
def SpAccess (s : State) (o : Ops) (w : Nat) (g : Got) (y : Slot) (u off : Nat) : Prop :=
  Fetches s o .z g y ∧ (g.a.val + immVal o).toNat % w = 0 ∧
  spRange (behind s y) y.prt (behind s y).slotUnit (g.a.val + immVal o) w = .ok (u, off)

/-- A virtual access of `w` bytes of an instruction is in order: as before, with an address that lies in no Holvor window and
translates to `pa` of a page of the kind with the permissions asked for (R258, R261); `t` has what the walk left. -/
def VaAccess (s : State) (o : Ops) (w : Nat) (kind : PageKind) (r wr : Bool) (g : Got) (y : Slot) (t : State) (pa : Nat) : Prop :=
  Fetches s o .z g y ∧ (g.a.val + immVal o).toNat % w = 0 ∧
  (behind s y).locateVa (g.a.val + immVal o) kind r wr = .ok (t, .mem pa)

/-- A byte as a unit sees it in a context: its own copy of the line, else the home's. -/
def seen (m : Mem) (u pa : Nat) : Byte :=
  match m.l1At u (pa / 128) with
  | some l => lineByte l.data (pa % 128)
  | none => m.homeByte pa

/-- The invariant of the L2 slices: what a line has not changed is as HBM holds it (CachesStayCoherent states that it is kept). -/
structure Coherent (m : Mem) : Prop where
  hbm   : twf 0 m.hbm = true
  clean : ∀ l ∈ m.l2, ∀ i, i < 128 → l.dirty.getLsbD i = false → lineByte l.data i = tget 0 m.hbm (128 * l.line + i)

end Sys2Proof.Claims

/-- LD and ST of a scratchpad: LD writes the value of its bytes, ST the low bytes of B, and not another byte of any
scratchpad, nor of anything else; a load of a poisoned word takes the memory-error fault. -/
def Sys2Proof.Claims.ScratchpadLoadAndStore : Prop :=
  ∀ (s : State) (o : Ops) (g : Got) (y : Slot) (u off : Nat), isSp o = true → 0 < wBytes (tyOf o 11) →
    SpAccess s o (wBytes (tyOf o 11)) g y u off →
    let ty := tyOf o 11
    let w := wBytes ty
    (∀ i ∈ [Instr.ld o, .ldImm o, .ldLong o],
      (s.mem.spBad u off w = false →
        exec i s = slotNext s (wrote y o (loadedVal ty (readBytes s.mem.sram (spAddr u off) w)) 4)) ∧
      (s.mem.spBad u off w = true → exec i s = .next (s.raise { code := 0x25, addr := g.a.val + immVal o }))) ∧
    (∀ i ∈ [Instr.st o, .stLong o], w % 4 = 0 ∨ s.mem.spBad u off w = false →
      ∃ t, exec i s = .next t ∧ t.slot = (y.retire o).owe 4 1 ∧
        (twf 0 s.mem.sram = true → ∀ a, tget 0 t.mem.sram a =
          if spAddr u off ≤ a ∧ a < spAddr u off + w then g.b.val.extractLsb' (8 * (a - spAddr u off)) 8 else tget 0 s.mem.sram a) ∧
        (∀ a, ¬(spAddr u off ≤ a ∧ a < spAddr u off + w) → tget 0 t.mem.sram a = tget 0 s.mem.sram a) ∧
        { t with slot := s.slot, mem := { t.mem with sram := s.mem.sram, badWord := s.mem.badWord } } = s)

/-- LD and ST of virtual memory go through the unit's L1: LD writes the value read, ST leaves its bytes in the unit's copy. -/
def Sys2Proof.Claims.VirtualLoadAndStore : Prop :=
  ∀ (s t : State) (o : Ops) (g : Got) (y : Slot) (pa : Nat), isSp o = false → 0 < wBytes (tyOf o 11) →
    let ty := tyOf o 11
    let w := wBytes ty
    (VaAccess s o w .mu true false g y t pa → ∀ i ∈ [Instr.ld o, .ldImm o, .ldLong o],
      let r := t.mem.l1Read t.slotUnit t.slotCtx pa w
      (r.2.2 = false → exec i s = .next ((({ t with mem := r.1 } : State).l1Settle t.slotUnit t.slotCtx).done o
        (some (extend ty (BitVec.ofNat (tWidth ty) r.2.1))) 5 1)) ∧
      (r.2.2 = true → ∃ m, exec i s = .next (({ s with mem := m } : State).raise { code := 0x25, addr := g.a.val + immVal o }))) ∧
    (VaAccess s o w .mu false true g y t pa → ∀ i ∈ [Instr.st o, .stLong o],
      exec i s = .next ((({ t with mem := t.mem.l1Write t.slotUnit t.slotCtx pa (natToBytes w g.b.val.toNat) } : State).l1Settle
        t.slotUnit t.slotCtx).done o none 5 1))

/-- A store through an L1 within one line, which holds the line under the context of the access or not at all: the storing unit sees
the stored bytes at their addresses, and every unit every other byte as before; no byte changes at its home. A copy of another
context leaves first, and no other line is touched (R206, R209). -/
def Sys2Proof.Claims.CachedStoreFrame : Prop :=
  ∀ (m : Mem) (u ctx pa : Nat) (bs : List Byte), Coherent m → pa % 128 + bs.length ≤ 128 →
    let m' := m.l1Write u ctx pa bs
    (∀ a, a / 128 ≠ pa / 128 → seen m' u a = seen m u a) ∧ m'.sram = m.sram ∧ m'.present = m.present ∧ m'.full = m.full ∧
    ((∀ l, m.l1At u (pa / 128) = some l → l.ctx = ctx) →
      (∀ v a, seen m' v a = if v = u ∧ pa ≤ a ∧ a < pa + bs.length then bs.getD (a - pa) 0 else seen m v a) ∧
      ∀ a, m'.homeByte a = m.homeByte a)

/-- A load through an L1 within one line: a line that the unit does not hold, or holds under the context, gives the bytes that the
unit sees, and one not held is poisoned when its home is; a copy of another context is first written back, and the home's bytes
are read (R206, R207, R209). -/
def Sys2Proof.Claims.CachedLoadReads : Prop :=
  ∀ (m : Mem) (u ctx pa n : Nat), Coherent m → pa % 128 + n ≤ 128 → 0 < n →
    let r := m.l1Read u ctx pa n
    ((∀ l, m.l1At u (pa / 128) = some l → l.ctx = ctx) → r.2.1 = bytesToNat ((List.range n).map (fun i => seen m u (pa + i)))) ∧
    (m.l1At u (pa / 128) = none → r.2.2 = m.homeBad pa) ∧
    (∀ l, m.l1At u (pa / 128) = some l → l.ctx ≠ ctx →
      r.2.1 = bytesToNat ((m.l1Drop u (pa / 128) ctx).homeBytes pa n) ∧ r.2.2 = (m.l1Drop u (pa / 128) ctx).homeBad pa)

/-- Reading through an L1 after storing through it gives what was stored (R206, R207). -/
def Sys2Proof.Claims.CachedLoadAfterStore : Prop :=
  ∀ (m : Mem) (u ctx pa n v : Nat), pa % 128 + n ≤ 128 →
    ((m.l1Write u ctx pa (natToBytes n v)).l1Read u ctx pa n).2.1 = v % 2 ^ (8 * n)

/-- An access that is misaligned, out of its scratchpad's range, without a translation, or on a page of another kind or without the
permission that it needs takes the fault of the first test that fails, in the order of R265: alignment, range or translation, page
kind, permission. A load needs the read permission and a store the write permission. -/
def Sys2Proof.Claims.AccessFaultOrder : Prop :=
  ∀ (s : State) (o : Ops) (g : Got) (y : Slot), Fetches s o .z g y →
    let ea := g.a.val + immVal o
    let w := wBytes (tyOf o 11)
    ∀ i ∈ [Instr.ld o, .ldImm o, .ldLong o, .st o, .stLong o],
      (w ≠ 0 → ea.toNat % w ≠ 0 → exec i s = .next (s.raise { code := 0x20, addr := ea })) ∧
      (isSp o = true → ea.toNat % w = 0 → (∀ r, spRange (behind s y) y.prt (behind s y).slotUnit ea w ≠ .ok r) →
        exec i s = .next (s.raise { code := 0x21, addr := ea })) ∧
      (isSp o = false → ea.toNat % w = 0 → ∀ (t : State) (tr : Tr), hvTarget (s.ctx s.slotCtx) ea.toNat = none →
        translate (behind s y) (behind s y).slotUnit s.slotCtx ea.toNat = .ok (t, tr) →
        (tr.kind ≠ .mu → ∃ m, exec i s = .next (({ s with mem := m } : State).raise { code := 0x22, addr := ea, info := tr.pte })) ∧
        (tr.kind = .mu → (i ∈ [Instr.ld o, .ldImm o, .ldLong o] → tr.r = false) → (i ∈ [Instr.st o, .stLong o] → tr.w = false) →
          ∃ m, exec i s = .next (({ s with mem := m } : State).raise { code := 0x23, addr := ea, info := tr.pte }))) ∧
      (isSp o = false → ea.toNat % w = 0 → hvTarget (s.ctx s.slotCtx) ea.toNat = none →
        (∀ f, translate (behind s y) (behind s y).slotUnit s.slotCtx ea.toNat = .error f → exec i s = .next (s.raise f)) ∧
        (2 ^ 52 ≤ ea.toNat → exec i s = .next (s.raise { code := 0x01, addr := ea, info := 3 })))

/-- How a translation fails: an address beyond 52 bits is not present; one in the heap whose sum is 2^39 or more is a page-table
fault; else, where no TLB holds it, it fails as the walk from the context's root does. A walk stops at an entry that is not valid
with not-present and its level, at one that breaks a rule of R261 with a page-table fault, at a FAR leaf with FAR, goes on from a
table entry to the table that it names, and takes from any other leaf the page, its kind and its permissions (R258, R260, R261). -/
def Sys2Proof.Claims.TranslationFaults : Prop :=
  (∀ (s : State) (u ctx va : Nat) (f : Flt),
    (2 ^ 52 ≤ va → translate s u ctx va = .error { code := 0x01, addr := BitVec.ofNat 64 va, info := 3 }) ∧
    (∀ pa, heapTr (s.ctx ctx) va = some pa → 2 ^ 39 ≤ pa → translate s u ctx va = .error { code := 0x29, addr := BitVec.ofNat 64 va }) ∧
    (va < 2 ^ 52 → heapTr (s.ctx ctx) va = none → (∀ e ∈ tget [] s.mem.mtTlb u, e.hits ctx va = false) →
      (∀ e ∈ tget [] s.mem.dieTlb (dieOf u), e.hits ctx va = false) → walk s.mem ctx va 4 (s.ctx ctx).root = .error f →
      translate s u ctx va = .error f)) ∧
  ∀ (m : Mem) (ctx va level table : Nat), level ≤ 3 →
    let a := table + 8 * (va / 2 ^ (16 + 9 * level) % 512)
    let n := m.homeLook ctx (a / 128)
    let pte := BitVec.ofNat 64 (bytesToNat (n.homeBytes a 8))
    let leaf := pte.getLsbD 6
    let kind := pte.extractLsb' 2 2
    let addr := (pte.extractLsb' 12 40).toNat * 2 ^ 12
    let size := 2 ^ (16 + 9 * level)
    let bad := pte.extractLsb' 52 8 ≠ 0 ∨ pte.extractLsb' 8 4 ≠ 0 ∨ pte.getLsbD 1 = true ∨ kind = 3 ∨ (level = 0 ∧ leaf = false) ∨
      (level = 3 ∧ leaf = true) ∨ (leaf = false ∧ (pte.getLsbD 7 = true ∨ pte.getLsbD 5 = true ∨ pte.getLsbD 4 = true ∨ kind ≠ 0)) ∨
      (leaf = true ∧ kind ≠ 2 ∧ (addr % size ≠ 0 ∨ 2 ^ 39 < addr + size)) ∨ (leaf = false ∧ 2 ^ 39 ≤ addr)
    let w := walk m ctx va (level + 1) table
    n.homeBad a = false →
      (pte.getLsbD 0 = false → w = .error { code := 0x01, addr := BitVec.ofNat 64 va, info := BitVec.ofNat 64 level }) ∧
      (pte.getLsbD 0 = true → bad → w = .error { code := 0x29, addr := BitVec.ofNat 64 va, info := pte }) ∧
      (pte.getLsbD 0 = true → ¬bad → leaf = false → w = walk n ctx va level addr) ∧
      (pte.getLsbD 0 = true → ¬bad → leaf = true →
        (kind = 2 → w = .error { code := 0x02, addr := BitVec.ofNat 64 va, info := pte }) ∧
        (kind ≠ 2 → ∃ n', w = .ok (n', ⟨ctx, va / size * size, 16 + 9 * level, addr, if kind = 0 then .mu else .wo,
          pte.getLsbD 4, pte.getLsbD 5, pte ||| 128#64⟩)))

/-! ### Full/empty words, write-once memory, caches -/

/-- The full/empty instructions: LDW and LDC read a full word, LDC leaving it empty; STE writes an empty word and leaves it
full; on a word that is not so, the request waits at its bank, and its data sources alone are consumed (R225). FESET sets the
tag and FETEST reads it, whatever it is. -/
def Sys2Proof.Claims.FullEmptyInstructions : Prop :=
  ∀ (s : State) (o : Ops) (g : Got) (y : Slot) (u off : Nat),
    let ty := tyOf o 14
    let w := wBytes ty
    let ws := spWords u off w
    (0 < w → SpAccess s o w g y u off →
      (∀ i ∈ [Instr.ldw o, .ldwLong o], (∀ x ∈ ws, s.mem.tag x = true) → s.mem.spBad u off w = false →
        exec i s = slotNext s (wrote y o (loadedVal ty (readBytes s.mem.sram (spAddr u off) w)) 4)) ∧
      (∀ i ∈ [Instr.ldc o, .ldcLong o], (∀ x ∈ ws, s.mem.tag x = true) → s.mem.spBad u off w = false →
        exec i s = .next { s with mem := s.mem.tagChange ws false,
                                  slot := wrote y o (loadedVal ty (readBytes s.mem.sram (spAddr u off) w)) 4 }) ∧
      (∀ i ∈ [Instr.ste o, .steLong o], (∀ x ∈ ws, s.mem.tag x = false) →
        exec i s = .next { s with mem := (s.mem.spPut u off (natToBytes w g.b.val.toNat)).tagChange ws true,
                                  slot := (y.retire o).owe 4 1 }) ∧
      (∀ p ∈ [(Instr.ldw o, WaitKind.ldw, true), (.ldwLong o, .ldw, true), (.ldc o, .ldc, true), (.ldcLong o, .ldc, true),
              (.ste o, .ste, false), (.steLong o, .ste, false)], (∃ x ∈ ws, s.mem.tag x ≠ p.2.2) →
        ∃ t q, exec p.1 s = .next t ∧ t.slot = { y with busy := true } ∧ t.mem.waits = s.mem.waits ++ [q] ∧
          q.place = s.slot.place ∧ q.what = p.2.1 ∧ q.unit = u ∧ q.addr = off ∧ q.done = none ∧ q.took = s.slot.tookFrom y ∧
          { t with slot := s.slot, mem := { t.mem with waits := s.mem.waits } } = s)) ∧
    (SpAccess s o 4 g y u off →
      (∀ i ∈ [Instr.feset o, .fesetLong o], exec i s = .next
        { s with mem := s.mem.tagChange [spAddr u off / 4] (o.f.getLsbD 0), slot := (y.retire o).owe 4 1 }) ∧
      (∀ i ∈ [Instr.fetest o, .fetestLong o], exec i s = slotNext s
        (wrote y o (if s.mem.tag (spAddr u off / 4) then 1 else 0) 4)))

/-- A change of tags sets them and serves the waiting requests, as long as one is satisfied, the first of them in arrival order each
time: LDW and LDC of full words bring their value, LDC leaving them empty, STE writes empty words and leaves them full, and a
read of a poisoned word takes its error and changes no tag; the order of the requests stays (R208, R231). -/
def Sys2Proof.Claims.TagWaiters : Prop :=
  ∀ (m : Mem) (ws : List Nat) (v : Bool),
    let sat (m : Mem) (x : Waiter) : Prop := x.refused = none ∧ x.done = none ∧
      ((x.what = .ldw ∨ x.what = .ldc) ∧ (∀ k ∈ spWords x.unit x.addr x.width, m.tag k = true) ∨
        x.what = .ste ∧ ∀ k ∈ spWords x.unit x.addr x.width, m.tag k = false)
    (m.tagChange ws v = (m.setTags ws v).serveTags m.waits.length ∧
      (twf false m.full = true → ∀ k, (m.setTags ws v).tag k = if k ∈ ws then v else m.tag k) ∧
      (m.tagChange ws v).waits.map (fun x => x.place) = m.waits.map (fun x => x.place) ∧
      ∀ x ∈ (m.tagChange ws v).waits, ¬sat (m.tagChange ws v) x) ∧
    (∀ n, (∀ x ∈ m.waits, ¬sat m x) → m.serveTags n = m) ∧
    (∀ (pre post : List Waiter) (x : Waiter) (n : Nat), m.waits = pre ++ x :: post → (∀ z ∈ pre, ¬sat m z) → sat m x →
      let ks := spWords x.unit x.addr x.width
      let ty := tyOf x.op 14
      let val := loadedVal ty (readBytes m.sram (spAddr x.unit x.addr) x.width)
      let served (d : List Dword) (err : Bool) : List Waiter := pre ++ { x with done := some d, err := x.err || err } :: post
      (x.what ≠ .ste → m.spBad x.unit x.addr x.width = true → m.serveTags (n + 1) = Mem.serveTags { m with waits := served [] true } n) ∧
      (m.spBad x.unit x.addr x.width = false → x.what = .ldw →
        m.serveTags (n + 1) = Mem.serveTags { m with waits := served [val] false } n) ∧
      (m.spBad x.unit x.addr x.width = false → x.what = .ldc →
        m.serveTags (n + 1) = Mem.serveTags { m.setTags ks false with waits := served [val] false } n) ∧
      (x.what = .ste → m.serveTags (n + 1) = Mem.serveTags
        { (m.spPut x.unit x.addr (natToBytes x.width (x.data.getD 0 0).toNat)).setTags ks true with waits := served [] false } n))

/-- Write-once memory: LDP reads a present granule at its home slice, which holds its line then, and waits for an absent one; one that a slot of another launch queue wrote after a
FENCE of system scope also takes the older copies from the L1s of the reader's partition (R221). STO writes an absent granule
once, makes it present and completes the reads held for it; a second single write takes the double-write fault; PTEST reads
presence (R203, R204, R233). -/
def Sys2Proof.Claims.WriteOnceInstructions : Prop :=
  ∀ (s t : State) (o : Ops) (g : Got) (y : Slot) (pa : Nat),
    let ty := tyOf o 15
    let w := wBytes ty
    (0 < w → VaAccess s o w .wo true false g y t pa → ∀ i ∈ [Instr.ldp o, .ldpImm o, .ldpLong o],
      let part := s.part s.slot.prt
      let from' := tget 0 t.mem.fenced (pa / 8)
      let mine := match part.launch with
        | none => 0
        | some l => 8 * l.fn + l.q + 1
      let n := t.mem.l2Fill t.slotCtx (pa / 128)
      let v := loadedVal ty ((n.homeBytes (pa / 8 * 8) 8).drop (pa % 8) |>.take w)
      (t.mem.isPresent (pa / 8) = true → n.homeBad pa = false →
        (from' = 0 ∨ from' = mine → exec i s = .next (({ t with mem := n } : State).done o (some v) 6 1)) ∧
        (from' ≠ 0 → from' ≠ mine →
          let m := n.l1DropUnits part.cus (fun l => l.ctx == part.ctx) part.ctx
          exec i s = .next (({ t with mem := m } : State).done o (some v) 6 1))) ∧
      (t.mem.isPresent (pa / 8) = true → n.homeBad pa = true →
        ∃ m, exec i s = .next (({ s with mem := m } : State).raise { code := 0x25, addr := g.a.val + immVal o })) ∧
      (t.mem.isPresent (pa / 8) = false → ∃ u q, exec i s = .next u ∧ u.slot = { y with busy := true } ∧
        u.mem.waits = t.mem.waits ++ [q] ∧ q.place = s.slot.place ∧ q.what = .ldp ∧ q.addr = pa ∧ q.done = none ∧
        q.took = s.slot.tookFrom y)) ∧
    (w = 8 → VaAccess s o 8 .wo false true g y t pa → ∀ i ∈ [Instr.sto o, .stoLong o],
      (t.mem.isPresent (pa / 8) = false →
        let m := t.mem.woPut (pa / 8) g.b.val.toNat
        let tag := match (s.part s.slot.prt).launch with
          | none => 0
          | some l => 8 * l.fn + l.q + 1
        exec i s = .next (({ t with mem := if y.sysFence then { m with fenced := tput 0 m.fenced (pa / 8) tag } else m } : State).done
          o none 6 1) ∧
        (twf false t.mem.present = true → m.isPresent (pa / 8) = true) ∧
        (∀ x, x ≠ pa / 8 → m.isPresent x = t.mem.isPresent x) ∧
        (∀ x ∈ t.mem.waits, x.what = .ldp → x.done = none → x.refused = none → x.addr / 8 = pa / 8 → t.mem.homeBad x.addr = false →
          { x with done := some [ldpValue (tyOf x.op 15) x.width (x.addr % 8) g.b.val.toNat] } ∈ m.waits)) ∧
      (t.mem.isPresent (pa / 8) = true →
        ∃ m, exec i s = .next (({ s with mem := m } : State).raise { code := 0x24, addr := g.a.val + immVal o }))) ∧
    (VaAccess s o 1 .wo true false g y t pa → ∀ i ∈ [Instr.ptest o, .ptestImm o, .ptestLong o],
      exec i s = .next (t.done o (some (if t.mem.isPresent (pa / 8) then 1 else 0)) 6 1))

/-- PCLR of a granule-aligned range of WO pages notes its granules, to be cleared at the forme boundary; presence does not
change before (R205, R234). -/
def Sys2Proof.Claims.ClearPresence : Prop :=
  ∀ (s t : State) (o : Ops) (g : Got) (y : Slot) (rs : List (Nat × Nat)), Fetches s o .z g y →
    g.a.val.toNat % 8 = 0 → g.b.val.toNat % 8 = 0 → 8 ≤ g.b.val.toNat → g.b.val.toNat ≤ 2 ^ 34 →
    clearRanges (behind s y) (behind s y).slotUnit (behind s y).slotCtx (pagePieces g.a.val.toNat g.b.val.toNat) = .ok (t, rs) →
    ∃ u, exec (.pclr o) s = .next u ∧ u.mem.present = t.mem.present ∧
      u.mem.clears = t.mem.clears ++ rs.map (fun r => (s.slot.prt, r.1, r.2)) ∧ u.slot = (t.slot.retire o).owe 0 1

/-- PFT, CLWB, CLINV and FENCE complete. PFT finds a line on an MU page or in a present granule of a WO page; with F[0], which is .l2,
it brings the line into its home slice only, without it into the unit's L1, which gives up its oldest lines beyond its capacity;
where no line is found, or without an L1, the hint is dropped. CLWB writes the unit's copy of the line back, CLINV also
drops it; FENCE, which waits while a request of its slot waits, writes back and drops the unit's lines of the context for the
wider scopes (R235 to R238). -/
def Sys2Proof.Claims.CacheInstructions : Prop :=
  ∀ (s : State) (o : Ops) (g : Got) (y : Slot),
    (Fetches s o .z g y → ∀ i ∈ [Instr.pft o, .pftImm o, .pftLong o],
      let at' (kind : PageKind) (t : State) (pa : Nat) : Prop := (behind s y).locateVa (g.a.val + immVal o) kind false false = .ok (t, .mem pa)
      let found (t : State) (pa : Nat) : Prop := at' .mu t pa ∨ ((∀ t pa, ¬at' .mu t pa) ∧ at' .wo t pa ∧ t.mem.isPresent (pa / 8) = true)
      let dropped := exec i s = slotNext s ((y.retire o).owe 0 1)
      ((∀ t pa, ¬found t pa) → dropped) ∧
      (∀ t pa, found t pa →
        (o.f.getLsbD 0 = true →
          exec i s = .next (({ t with mem := t.mem.l2Fill s.slotCtx (pa / 128) } : State).done o none 6 1)) ∧
        (o.f.getLsbD 0 = false → 16 ≤ (s.mt s.slotUnit).split → dropped) ∧
        (o.f.getLsbD 0 = false → (s.mt s.slotUnit).split < 16 →
          let m := t.mem.l1Fill s.slotUnit s.slotCtx (pa / 128)
          let m := m.l1Trim s.slotUnit ((16 - (s.mt s.slotUnit).split) * 1024) s.slotCtx
          exec i s = .next (({ t with mem := m } : State).done o none 5 1)))) ∧
    (∀ t pa, Fetches s o .z g y → (behind s y).locateVa (g.a.val + immVal o) .mu false false = .ok (t, .mem pa) →
      let held := (t.mem.l1At t.slotUnit (pa / 128)).any (fun l => l.ctx == t.slotCtx)
      (∀ i ∈ [Instr.clwb o, .clwbImm o, .clwbLong o], exec i s = .next
        (({ t with mem := if held then t.mem.l1Clean t.slotUnit (pa / 128) t.slotCtx else t.mem } : State).done o none 5 1)) ∧
      (∀ i ∈ [Instr.clinv o, .clinvImm o, .clinvLong o], exec i s = .next
        (({ t with mem := if held then t.mem.l1Drop t.slotUnit (pa / 128) t.slotCtx else t.mem } : State).done o none 5 1))) ∧
    (s.canIssue = true →
      ((∃ w ∈ s.mem.waits, w.place = s.slot.place) → exec (.fence o) s = .next { s with stall := true }) ∧
      ((∀ w ∈ s.mem.waits, w.place ≠ s.slot.place) →
        exec (.fence o) s = .next { s with
          slot := (({ s.slot with sysFence := s.slot.sysFence || o.f.toNat % 8 == 4 } : Slot).retire o).owe 0 1,
          mem := if o.f.toNat % 8 ≤ 1 then s.mem else s.mem.l1DropAll s.slotUnit (fun l =>
            l.ctx == s.slotCtx && (o.f.toNat % 8 != 2 || l.line / 2 ^ 30 == dieOf s.slotUnit)) s.slotCtx }))

/-- Bringing a line into an L1 that holds it under the context or not at all changes no byte at its home and none that a unit sees;
an L1 within its capacity gives up no line, and one that does changes a byte at its home to what it held dirty, and nothing
that another unit holds. A copy written back leaves its dirty bytes at their home and no other byte changed, clean or, for
CLINV, gone (R206, R236, R237). -/
def Sys2Proof.Claims.LineMovements : Prop :=
  ∀ (m : Mem) (u ctx line cap : Nat), Coherent m →
    (∀ n, n = m.l1Fill u ctx line →
      (∃ l, n.l1At u line = some l ∧ l.ctx = ctx) ∧
      ((∀ l, m.l1At u line = some l → l.ctx = ctx) → ∀ pa, n.homeByte pa = m.homeByte pa ∧ ∀ v, seen n v pa = seen m v pa)) ∧
    (∀ n, n = m.l1Trim u cap ctx →
      ((m.l1.filter (fun l => l.unit == u)).length ≤ cap → n = m) ∧
      ∀ pa, (∀ v l, v ≠ u → m.l1At v (pa / 128) = some l → n.l1At v (pa / 128) = some l) ∧
        (n.homeByte pa = m.homeByte pa ∨ ∃ l ∈ m.l1, l.unit = u ∧ l.line = pa / 128 ∧ l.dirty.getLsbD (pa % 128) = true ∧
          n.homeByte pa = lineByte l.data (pa % 128))) ∧
    (∀ l, m.l1At u line = some l →
      let n := m.l1Clean u line ctx
      let d := m.l1Drop u line ctx
      n.l1At u line = some { l with dirty := 0 } ∧ d.l1At u line = none ∧
      ∀ pa, n.homeByte pa = (if pa / 128 = line ∧ l.dirty.getLsbD (pa % 128) = true then lineByte l.data (pa % 128) else m.homeByte pa) ∧
        d.homeByte pa = n.homeByte pa)

/-! ### Atomics, counters, copies and rings -/

namespace Sys2Proof.Claims

/-- The atomics of R240 to R242 with their default type and the new value that they give from the old one, B and C, none where they
rewrite nothing. -/
def atomTable (o : Ops) : List (Instr × Nat × (Nat → Dword → Dword → Dword → Option Nat)) :=
  let wrap (t : Nat) (y : Int) : Nat := (BitVec.ofInt (tWidth t) y).toNat
  let int (f : Int → Int → Int) (t : Nat) (old b _c : Dword) : Option Nat :=
    let y := f (valI t old) (valI t b)
    some (wrap t (if o.sat then max (minI t) (min (maxI t) y) else y))
  let bitw (f : Dword → Dword → Dword) (t : Nat) (old b _c : Dword) : Option Nat := some ((f old b).setWidth (tWidth t)).toNat
  let xchg (t : Nat) (_old b _c : Dword) : Option Nat := some (b.setWidth (tWidth t)).toNat
  let cas (t : Nat) (old b c : Dword) : Option Nat :=
    if old.setWidth (tWidth t) = b.setWidth (tWidth t) then some (c.setWidth (tWidth t)).toNat else none
  let fadd (t : Nat) (old b _c : Dword) : Option Nat := some (encF t (accV t (decF t old.toNat) (some (decF t b.toNat))))
  [(.aadd o, 11, int (fun a b => a + b)), (.aaddLong o, 11, int (fun a b => a + b)),
   (.aand o, 11, bitw (fun a b => a &&& b)), (.aandLong o, 11, bitw (fun a b => a &&& b)),
   (.aor o, 11, bitw (fun a b => a ||| b)), (.aorLong o, 11, bitw (fun a b => a ||| b)),
   (.axor o, 11, bitw (fun a b => a ^^^ b)), (.axorLong o, 11, bitw (fun a b => a ^^^ b)),
   (.amin o, 11, int min), (.aminLong o, 11, int min), (.amax o, 11, int max), (.amaxLong o, 11, int max),
   (.axchg o, 11, xchg), (.axchgLong o, 11, xchg), (.acas o, 11, cas), (.afadd o, 2, fadd), (.afaddLong o, 2, fadd)]

end Sys2Proof.Claims

/-- An atomic returns the old value and writes the new one, in a scratchpad at its bank, in virtual memory at the home of the line,
where the unit's own copy is first written back and dropped; an ACAS whose patterns differ rewrites nothing (R206, R240, R241,
R244). -/
def Sys2Proof.Claims.AtomicInstructions : Prop :=
  ∀ (s : State) (o : Ops) (g : Got) (y : Slot), ∀ p ∈ atomTable o,
    let ty := tyOf o p.2.1
    let w := wBytes ty
    0 < w →
    (∀ u off, isSp o = true → SpAccess s o w g y u off → s.mem.spBad u off w = false →
      let old := loadedVal ty (readBytes s.mem.sram (spAddr u off) w)
      exec p.1 s = .next { s with slot := wrote y o old 4,
                                  mem := ((p.2.2 ty old g.b.val g.c.val).map (fun v => s.mem.spPut u off (natToBytes w v))).getD s.mem }) ∧
    (∀ t pa, isSp o = false → VaAccess s o w .mu true true g y t pa →
      let m := (t.mem.l1Drop t.slotUnit (pa / 128) t.slotCtx).l2Fill t.slotCtx (pa / 128)
      let old := loadedVal ty (m.homeBytes pa w)
      m.homeBad pa = false →
      let n := ((p.2.2 ty old g.b.val g.c.val).map (fun v => m.homePut t.slotCtx pa (natToBytes w v))).getD m
      exec p.1 s = .next (({ t with mem := n } : State).done o (some old) 6 1))

/-- DCAS and AMOV2 act on two aligned places that do not overlap under both locks: the old pair is returned; DCAS writes its new
pair when both places hold what C and C + 1 say, AMOV2 always (R243). -/
def Sys2Proof.Claims.DoubleAtomics : Prop :=
  ∀ (s t : State) (o : Ops) (g : Got) (y : Slot) (pp pq : Nat), Fetches s o .z g y →
    let ty := tyOf o 11
    let w := wBytes ty
    let p := g.a.val
    let q := g.b.val
    let word (k : Nat) : Nat := ((s.slot.srcReg o (regUp (groupReg o.c) k)).setWidth (tWidth ty)).toNat
    0 < w → p.toNat % w = 0 → q.toNat % w = 0 → (p.toNat + w ≤ q.toNat ∨ q.toNat + w ≤ p.toNat) →
    hvTarget (s.ctx s.slotCtx) p.toNat = none → hvTarget (s.ctx s.slotCtx) q.toNat = none →
    (behind s y).locatePair p q = .ok (t, pp, pq) →
    let m := (((t.mem.l1Drop t.slotUnit (pp / 128) t.slotCtx).l1Drop t.slotUnit (pq / 128) t.slotCtx).l2Fill t.slotCtx (pp / 128)).l2Fill t.slotCtx
      (pq / 128)
    let op := bytesToNat (m.homeBytes pp w)
    let oq := bytesToNat (m.homeBytes pq w)
    m.homeBad pp = false → m.homeBad pq = false →
    let put (a b : Nat) : Mem := (m.homePut t.slotCtx pp (natToBytes w a)).homePut t.slotCtx pq (natToBytes w b)
    let both : Mem := if op = word 0 ∧ oq = word 1 then put (word 2) (word 3) else m
    (s.slot.pairHeld o 4 = true → exec (.dcas o) s = .next (({ t with mem := both } : State).donePair o ty op oq)) ∧
    (s.slot.pairHeld o 2 = true → exec (.amov2 o) s = .next (({ t with mem := put (word 0) (word 1) } : State).donePair o ty op oq))

/-- CBINC adds the low 32 bits of B to a counter, wrapping or with SAT stopping at the greatest value; CBSNAP writes counters into
full scratchpad words and clears them (R246, R247). -/
def Sys2Proof.Claims.CounterInstructions : Prop :=
  ∀ (s : State) (o : Ops) (g : Got) (y : Slot) (u j : Nat), Fetches s o .z g y →
    (∀ i ∈ [Instr.cbinc o, .cbincLong o], (behind s y).counterAt (g.a.val + immVal o) 1 = .ok (u, j) →
      let v := tget 0 (s.mt u).counters j
      let n := v.toNat + g.b.val.toNat % 2 ^ 32
      let sum : Word := BitVec.ofNat 32 (if o.sat ∧ 2 ^ 32 ≤ n then 2 ^ 32 - 1 else n)
      ∃ t, exec i s = .next t ∧ t.slot = (y.retire o).owe 4 1 ∧ { t with slot := s.slot, mts := s.mts } = s ∧
        t.mts = tput {} s.mts u { s.mt u with counters := tput 0 (s.mt u).counters j sum }) ∧
    (∀ v off, g.a.val.toNat % 4 = 0 → g.b.val.toNat % 4 = 0 →
      (behind s y).counterAt g.a.val o.imm12.toNat = .ok (u, j) →
      (behind s y).locateSp g.b.val (4 * o.imm12.toNat) = .ok (v, off) →
      ∃ t, exec (.cbsnap o) s = .next t ∧ t.slot = (y.retire o).owe 4 ((o.imm12.toNat + 1) / 2) ∧
        t.mem = s.mem.putFull v off ((List.range o.imm12.toNat).map (fun i => tget 0 (s.mt u).counters (j + i))) ∧
        t.mts = tput {} s.mts u { s.mt u with counters := tdrop (s.mt u).counters j (j + o.imm12.toNat) })

namespace Sys2Proof.Claims

/-- A command handed to an engine: the next number, the port its completion token is promised on, and the slot gone on. -/
def Commanded (s t : State) (o : Ops) (u : State) (kind : CmdKind) : Prop :=
  u.cmds = s.cmds ++ [{ id := s.nextCmd, place := s.slot.place, prt := s.slot.prt, unit := s.slotUnit, port := portOf o.d,
                        pc := s.slot.pc, kind := kind, block := [] }] ∧
  u.nextCmd = s.nextCmd + 1 ∧
  u.slot = (((match o.d with
    | .alt k => t.slot.promise k
    | _ => t.slot) : Slot).retire o).owe 0 1

/-- An engine command can be handed over: its slot issues, its operands are elements, and its completion port has room. -/
def CommandReads (s : State) (o : Ops) (g : Got) (y : Slot) : Prop :=
  s.canIssue = true ∧ s.slot.fetchWith o .z (s.slot.cmdCheck o.d) = .ok (g, y)

end Sys2Proof.Claims

/-- CPY checks its ranges and pages and hands its copy to the engine, promising its completion token; a copy of no bytes is complete
at once, its token sent and its ring slot published (R248, R249, R256). -/
def Sys2Proof.Claims.CopyCommand : Prop :=
  ∀ (s t : State) (o : Ops) (g : Got) (y : Slot) (p : Option (Nat × Dword × Nat)), CommandReads s o g y →
    let a := g.a.val
    let b := g.b.val
    let n := g.c.val.toNat
    let x := cpyForm o
    n ≤ 2 ^ 24 → (x.full = true → a.toNat % 4 = 0 ∧ n % 4 = 0) → cpyRanges (behind s y) x a b n = .ok () →
    cpyPages (behind s y) x a b n = .ok t → cpySlot t x a b n = .ok p →
    (0 < n → ∃ u, exec (.cpy o) s = .next u ∧
      Commanded s t o u (.cpy a b n x.dsp x.ssp x.pub x.full)) ∧
    (n = 0 → p = none → o.d = .absent → exec (.cpy o) s = .next { t with slot := (y.retire o).owe 0 1 }) ∧
    (∀ k : BitVec 3, n = 0 → o.d = .alt k → (∀ c ∈ s.cmds, c.owes s.slot.place k = false ∧ c.id < s.nextCmd) → s.slot.st ≠ .noTask →
      ∃ u, exec (.cpy o) s = .next u ∧ u.cmds = s.cmds ∧ u.slot.outs[k.toNat].flight = y.outs[k.toNat].flight ++ [⟨0, .elem⟩] ∧
        u.slot.outs[k.toNat].promised = y.outs[k.toNat].promised ∧ u.slot.outs[k.toNat].sent = y.outs[k.toNat].sent + 1) ∧
    (∀ v h i, n = 0 → p = some (v, h, i) → s.mem.waits = [] → twf {} s.mts = true → twf {} (s.mt v).side = true →
      ∃ u, exec (.cpy o) s = .next u ∧ ((u.mt v).sideOf h i).st = .full)

/-- The ring instructions on a handle in order: RSACQ takes the empty slot at NEXT and returns its address, RSPUB makes a filling slot
full, RSTAKE takes a consumer's next full slot, RSREL advances the consumer's cursor and frees the slot that every consumer has
passed; RSACQ and RSTAKE wait while their slot is not ready, and a step out of order is the ring-protocol fault (R254, R255). -/
def Sys2Proof.Claims.RingInstructions : Prop :=
  ∀ (s : State) (o : Ops) (g : Got) (y : Slot) (u : Nat), Fetches s o .z g y →
    ringUnit (behind s y) y.prt (behind s y).slotUnit g.a.val = .ok u →
    let h := g.a.val
    let m := (s.mt u).latch h
    let t := behind s y
    let k := o.f.toNat % 4
    let waits (r : Host.Outcome State Fault Refusal) (what : WaitKind) : Prop := ∃ v x, r = .next v ∧ v.slot = { y with busy := true } ∧
      v.mem.waits = s.mem.waits ++ [x] ∧ x.place = s.slot.place ∧ x.what = what ∧ x.unit = u ∧ x.data = [h] ∧ x.done = none
    (m.canAcquire h = true → exec (.rsacq o) s = .next ((t.setMt u (m.acquire h).1).done o
      (some (slotAddr t y.prt u h ((m.ring h).next.toNat % hNslot h))) 4 1)) ∧
    (m.canAcquire h = false → waits (exec (.rsacq o) s) .rsacq) ∧
    (∀ off i, spResolve t y.prt t.slotUnit g.b.val.toNat = some (u, off) → m.fillingAt h off = some i →
      exec (.rspub o) s = .next ((t.ringSet u (m.publish h i)).done o none 4 1)) ∧
    ((∀ off, spResolve t y.prt t.slotUnit g.b.val.toNat = some (u, off) → m.fillingAt h off = none) →
      exec (.rspub o) s = .next (s.raise { code := 0x27, addr := g.b.val, info := h })) ∧
    (k < hConsumers h → (m.ring h).takenAt k = false → m.canTake h k = true →
      exec (.rstake o) s = .next ((t.setMt u (m.takeSlot h k).1).done o
        (some (slotAddr t y.prt u h (((m.ring h).curAt k).toNat % hNslot h))) 4 1)) ∧
    (k < hConsumers h → (m.ring h).takenAt k = false → m.canTake h k = false → waits (exec (.rstake o) s) (.rstake k)) ∧
    (hConsumers h ≤ k → ∀ i ∈ [Instr.rstake o, .rsrel o], exec i s = .next (s.raise { code := 0x27, info := h })) ∧
    (k < hConsumers h → (m.ring h).takenAt k = true →
      exec (.rsrel o) s = .next ((t.ringSet u (m.release h k)).done o none 4 1) ∧
      exec (.rstake o) s = .next (s.raise { code := 0x27, info := h })) ∧
    (k < hConsumers h → (m.ring h).takenAt k = false → exec (.rsrel o) s = .next (s.raise { code := 0x27, info := h }))

/-- The steps of the ring protocol at an MT (R252, R254): RSACQ fills the empty slot at NEXT with NEXT as its sequence number and moves
NEXT on; RSPUB makes a slot full; RSTAKE marks the consumer as holding the slot of its cursor, which must carry the cursor's
number, and makes it draining; RSREL moves the cursor on, and the slot is empty again once the cursor of every consumer has
passed its number. No other slot of the ring changes. -/
def Sys2Proof.Claims.RingTransitions : Prop :=
  ∀ (m : Mt) (h : Dword) (k i : Nat), twf {} m.side = true → twf {} m.rings = true → k < 4 →
    let r := m.ring h
    let n := r.next.toNat % hNslot h
    let c := r.curAt k
    let j := c.toNat % hNslot h
    let only (m' : Mt) (i : Nat) : Prop := ∀ l, l ≠ hLine h i → tget {} m'.side l = tget {} m.side l
    let gone (cur : Word) : Prop := 1 ≤ (cur - c).toNat ∧ (cur - c).toNat ≤ 2 ^ 31
    (m.canAcquire h = true ↔ (m.sideOf h n).st = .empty) ∧
    (∀ m', m' = (m.acquire h).1 → (m.acquire h).2 = n ∧ m'.sideOf h n = ⟨.filling, h.toNat / 16 % 8, r.next⟩ ∧
      m'.ring h = { r with next := r.next + 1 } ∧ only m' n) ∧
    (∀ m', m' = m.publish h i → m'.sideOf h i = { m.sideOf h i with st := .full } ∧ m'.ring h = r ∧ only m' i) ∧
    (m.canTake h k = true ↔ (m.sideOf h j).seq = c ∧ ((m.sideOf h j).st = .full ∨ (m.sideOf h j).st = .draining)) ∧
    (∀ m', m' = (m.takeSlot h k).1 → (m.takeSlot h k).2 = j ∧ m'.sideOf h j = { m.sideOf h j with st := .draining } ∧
      (m'.ring h).next = r.next ∧ (m'.ring h).cur = r.cur ∧ (m'.ring h).takenAt k = true ∧
      (∀ q, q ≠ k → (m'.ring h).takenAt q = r.takenAt q) ∧ only m' j) ∧
    (∀ m', m' = m.release h k → (m'.ring h).next = r.next ∧ (m'.ring h).curAt k = c + 1 ∧ (m'.ring h).takenAt k = false ∧
      (∀ q, q ≠ k → (m'.ring h).curAt q = r.curAt q ∧ (m'.ring h).takenAt q = r.takenAt q) ∧ only m' j ∧
      ((∀ q, q < hConsumers h → gone ((m'.ring h).curAt q)) → m'.sideOf h j = { m.sideOf h j with st := .empty }) ∧
      ((∃ q, q < hConsumers h ∧ ¬gone ((m'.ring h).curAt q)) → m'.sideOf h j = m.sideOf h j))

/-- The requests that wait at the rings are served as long as one is satisfied, each time the first of them in arrival order: an RSACQ
acquires its slot, an RSTAKE takes its one, and its address is brought to the request (R208, R254). -/
def Sys2Proof.Claims.RingWaiters : Prop :=
  ∀ (s : State) (pre post : List Waiter) (x : Waiter) (n : Nat),
    let h (x : Waiter) : Dword := x.data.getD 0 0
    let m (x : Waiter) : Mt := s.mt x.unit
    let sat (x : Waiter) : Prop := x.refused = none ∧ x.done = none ∧
      ((x.what = .rsacq ∧ (m x).canAcquire (h x) = true) ∨
        ∃ k, x.what = .rstake k ∧ (m x).canTake (h x) k = true ∧ ((m x).ring (h x)).takenAt k = false)
    ((∀ z ∈ s.mem.waits, ¬sat z) → s.serveRings n = s) ∧
    (s.mem.waits = pre ++ x :: post → (∀ z ∈ pre, ¬sat z) → sat x →
      let served (r : Mt × Nat) : State :=
        { s.setMt x.unit r.1 with mem := { s.mem with waits :=
          pre ++ { x with done := some [slotAddr s x.addr x.unit (h x) r.2] } :: post } }
      (x.what = .rsacq → s.serveRings (n + 1) = (served ((m x).acquire (h x))).serveRings n) ∧
      (∀ k, x.what = .rstake k → s.serveRings (n + 1) = (served ((m x).takeSlot (h x) k)).serveRings n))

/-! ### Fibres, patterns, permutations -/

namespace Sys2Proof.Claims

/-- The table of instructions on an open cursor that look at it only: what they write (R288). -/
def lookTable (o : Ops) (d : Desc) (e p : Nat) : List (Instr × Dword) :=
  let done : Dword := if e = d.entries then 1 else 0
  [(.fbend o, done), (.smend o, done), (.fbpos o, BitVec.ofNat 64 p)]

/-- The state with a cursor register of the slot in focus replaced. -/
def putCursor (t : State) (sm : Bool) (k : BitVec 3) (c : Cursor) : State :=
  { t with slot := if sm then { t.slot with sms := t.slot.sms.set k.toNat c } else { t.slot with fbs := t.slot.fbs.set k.toNat c } }

/-- The energy class of an access to a fibre in scratchpad, or to a stream in virtual memory (R405). -/
def levelCls (sm : Bool) : Nat := if sm then 6 else 4

end Sys2Proof.Claims

/-- The cursor instructions on registers that are open: opening reads and checks a descriptor and stands at entry 0; advancing moves
to the next entry and stays at the end; the end test, the position and the value are written to D; closing releases (R284 to R288). -/
def Sys2Proof.Claims.CursorInstructions : Prop :=
  ∀ (s : State) (o : Ops) (g : Got) (y : Slot), Fetches s o .z g y →
    let t := behind s y
    let sm := o.f.getLsbD 3
    let kd := curReg o.d
    let ka := curReg o.a
    (∀ t1 t2 v p, t.openable sm kd = .ok () → g.a.val.toNat % 32 = 0 → lvlRead sm t g.a.val 32 = .ok (t1, v) →
      Desc.legal v = true → curPos sm t1 (Desc.ofNat v) 0 = .ok (t2, p) → ∀ i ∈ [Instr.fbopn o, .smopn o],
      exec i s = .next ((putCursor t2 sm kd (.opened (Desc.ofNat v) 0 p)).done o none (levelCls sm) 1)) ∧
    (∀ d e p t1 p1, t.cursor sm kd = .opened d e p →
      curPos sm t d (if e < d.entries then e + 1 else e) = .ok (t1, p1) → ∀ i ∈ [Instr.fbadv o, .smadv o],
      exec i s = .next ((putCursor t1 sm kd (.opened d (if e < d.entries then e + 1 else e) p1)).done o none (levelCls sm) 1)) ∧
    (∀ d e p, t.cursor sm kd = .opened d e p → ∀ i ∈ [Instr.fbcls o, .smcls o],
      exec i s = .next ((putCursor t sm kd .closed).done o none (levelCls sm) 1)) ∧
    (∀ d e p, t.cursor sm ka = .opened d e p →
      (∀ i ∈ lookTable o d e p, exec i.1 s = slotNext s (wrote y o i.2 (levelCls sm))) ∧
      (d.entries ≤ e → exec (.fbval o) s = slotNext s (wrote y o 0 (levelCls sm))) ∧
      (∀ t1 v, e < d.entries → valueOf sm t d e p = .ok (t1, v) →
        exec (.fbval o) s = .next (t1.done o (some v) (levelCls sm) 1))) ∧
    (t.cursor sm ka = .closed → ∀ i ∈ [Instr.fbend o, .smend o, .fbpos o, .fbval o, .fbsek o],
      exec i s = .next (s.raise { code := 0x42 }))

namespace Sys2Proof.Claims

/-- A cursor that steps from entry `i.1` at position `i.2` to the next entry, read in state `u` and leaving `v` (`adv` of R288). -/
def adv (sm : Bool) (d : Desc) (u v : State) (i j : Nat × Nat) : Prop :=
  i.1 < d.entries ∧ j.1 = i.1 + 1 ∧ curPos sm u d (i.1 + 1) = .ok (v, j.2)

end Sys2Proof.Claims

/-- FBSEK moves its cursor forward, entry by entry, to the first one that stands at the target or beyond, or to the end, and writes where
it stands; FBISX moves whichever of its two cursors stands lower until both hold one position, and writes it, or all ones as soon as
one is at its end: on every level, by the entries that it passes, and on levels that hold every position (FMT 0) in closed form. -/
def Sys2Proof.Claims.SeekAndIntersect : Prop :=
  ∀ (s : State) (o : Ops) (g : Got) (y : Slot), Fetches s o .z g y →
    let t := behind s y
    let sa := o.f.getLsbD 3
    let sb := o.f.getLsbD 2
    let ka := curReg o.a
    let kb := curReg o.b
    (∀ d e, t.cursor sa ka = .opened d e e → d.fmt = 0 → d.ext = d.n → e ≤ d.n →
      let p := max e (min g.b.val.toNat d.n)
      exec (.fbsek o) s = .next ((putCursor t sa ka (.opened d p p)).done o (some (BitVec.ofNat 64 p)) (levelCls sa) 1)) ∧
    (∀ da ea db eb, t.cursor sa ka = .opened da ea ea → t.cursor sb kb = .opened db eb eb → (sa ≠ sb ∨ ka ≠ kb) →
      da.fmt = 0 → db.fmt = 0 → da.ext = da.n → db.ext = db.n → ea < da.n → eb < db.n → max ea eb < min da.n db.n →
      let p := max ea eb
      exec (.fbisx o) s = .next ((putCursor (putCursor t sa ka (.opened da p p)) sb kb (.opened db p p)).done o
        (some (BitVec.ofNat 64 p)) (levelCls sa) 1)) ∧
    (∀ da ea db eb, t.cursor sa ka = .opened da ea ea → t.cursor sb kb = .opened db eb eb → (sa ≠ sb ∨ ka ≠ kb) →
      da.fmt = 0 → db.fmt = 0 → da.ext = da.n → db.ext = db.n → ea ≤ da.n → eb ≤ db.n → min da.n db.n ≤ max ea eb →
      ∃ pa pb, (ea ≤ pa ∧ pa ≤ da.n ∧ eb ≤ pb ∧ pb ≤ db.n ∧ (pa = da.n ∨ pb = db.n)) ∧ exec (.fbisx o) s =
        .next ((putCursor (putCursor t sa ka (.opened da pa pa)) sb kb (.opened db pb pb)).done o (some (BitVec.allOnes 64)) (levelCls sa) 1)) ∧
    (∀ (d : Desc) (n : Nat) (z : Nat → State) (x : Nat → Nat × Nat), t.cursor sa ka = .opened d (x 0).1 (x 0).2 → z 0 = t →
      (∀ i < n, (x i).2 < g.b.val.toNat ∧ adv sa d (z i) (z (i + 1)) (x i) (x (i + 1))) →
      d.entries ≤ (x n).1 ∨ g.b.val.toNat ≤ (x n).2 →
      exec (.fbsek o) s = .next ((putCursor (z n) sa ka (.opened d (x n).1 (x n).2)).done o (some (BitVec.ofNat 64 (x n).2)) (levelCls sa) 1)) ∧
    (∀ (da db : Desc) (n : Nat) (z : Nat → State) (x w : Nat → Nat × Nat), (sa ≠ sb ∨ ka ≠ kb) →
      t.cursor sa ka = .opened da (x 0).1 (x 0).2 → t.cursor sb kb = .opened db (w 0).1 (w 0).2 → z 0 = t →
      (x 0).1 ≤ da.entries → (w 0).1 ≤ db.entries →
      (∀ i < n, (x i).1 < da.entries ∧ (w i).1 < db.entries ∧
        ((x i).2 < (w i).2 ∧ w (i + 1) = w i ∧ adv sa da (z i) (z (i + 1)) (x i) (x (i + 1)) ∨
         (w i).2 < (x i).2 ∧ x (i + 1) = x i ∧ adv sb db (z i) (z (i + 1)) (w i) (w (i + 1)))) →
      let ended := (x n).1 = da.entries ∨ (w n).1 = db.entries
      let left (v : Dword) : Host.Outcome State Fault Refusal := .next ((putCursor (putCursor (z n) sa ka (.opened da (x n).1 (x n).2)) sb kb
        (.opened db (w n).1 (w n).2)).done o (some v) (levelCls sa) 1)
      (ended → exec (.fbisx o) s = left (BitVec.allOnes 64)) ∧
      (¬ended → (x n).2 = (w n).2 → exec (.fbisx o) s = left (BitVec.ofNat 64 (x n).2))) ∧
    (∀ d e p, t.cursor sa ka = .opened d e p → sa = sb → ka = kb →
      exec (.fbisx o) s = slotNext s (wrote y o (if e = d.entries then BitVec.allOnes 64 else BitVec.ofNat 64 p) (levelCls sa)))

/-- NZSCAN writes the numbers of the live elements of its vector in rising order and opens a fibre over them. -/
def Sys2Proof.Claims.NonzeroScan : Prop :=
  ∀ (s : State) (o : Ops) (g : Got) (y : Slot) (u off v out : Nat), Fetches s o .z g y →
    let ty := tyOf o 2
    let w := wBytes ty
    let n := g.b.val.toNat
    let t := behind s y
    let liveAt (i : Nat) : Bool :=
      let x := bytesToNat (readBytes s.mem.sram (spAddr u off + w * i) w)
      if tIsFlt ty then decide (decF ty x = .nan) || !(decF ty x).isZero else x % 2 ^ tWidth ty != 0
    let xs := (List.range n).filter liveAt
    t.openable false (curReg o.d) = .ok () → g.a.val.toNat % w = 0 → g.c.val.toNat % 4 = 0 → 1 ≤ n → n ≤ 65536 →
    spRange t y.prt t.slotUnit g.a.val (w * n) = .ok (u, off) → spRange t y.prt t.slotUnit g.c.val (4 * xs.length) = .ok (v, out) →
    s.mem.spBad u off (w * n) = false →
    let d : Desc := { vbase := g.a.val, pbase := g.c.val, n := xs.length, ext := n, vt := BitVec.ofNat 6 ty, gk := 0, fmt := 4 }
    let t' : State := { t with mem := s.mem.spPut v out (xs.flatMap (natToBytes 4)) }
    exec (.nzscan o) s = .next ((putCursor t' false (curReg o.d) (.opened d 0 (xs.headD n))).done o none 4 ((w * n + 7) / 8))

/-- PDEC and PENC write the mask of a pattern number and the number of a mask; a number or a mask out of range takes the
pattern fault (R292). -/
def Sys2Proof.Claims.PatternNumbers : Prop :=
  ∀ (s : State) (o : Ops) (g : Got) (y : Slot), Fetches s o .p g y → g.pass = none → o.f.toNat < 3 →
    let gk := o.f.toNat
    let n := g.a.val.toNat
    let size := (gkOf gk).1
    (n < patterns gk → exec (.pdec o) s = slotNext s (wrote y o (BitVec.ofNat 64 (patMask gk n)) 0)) ∧
    (patterns gk ≤ n → exec (.pdec o) s = .next (s.raise { code := 0x43 })) ∧
    (n < 2 ^ size → maskCount size n = (gkOf gk).2 →
      exec (.penc o) s = slotNext s (wrote y o (BitVec.ofNat 64 (maskPat size n)) 0)) ∧
    (2 ^ size ≤ n ∨ maskCount size n ≠ (gkOf gk).2 → exec (.penc o) s = .next (s.raise { code := 0x43 }))

/-- Pattern numbers and masks are inverse to each other: every number below C(G, k) decodes to a mask of k of G bits whose number it
is, and every such mask encodes to a number below C(G, k) whose mask it is (R289, R292). -/
def Sys2Proof.Claims.PatternsInverse : Prop :=
  ∀ gk < 3, (∀ n < patterns gk, patMask gk n < 2 ^ (gkOf gk).1 ∧ maskCount (gkOf gk).1 (patMask gk n) = (gkOf gk).2 ∧
      maskPat (gkOf gk).1 (patMask gk n) = n) ∧
    (∀ m < 2 ^ (gkOf gk).1, maskCount (gkOf gk).1 m = (gkOf gk).2 → maskPat (gkOf gk).1 m < patterns gk ∧ patMask gk (maskPat (gkOf gk).1 m) = m)

/-- PERM writes element i of its permutation, or all ones for a number of elements or an i out of range. -/
def Sys2Proof.Claims.PermInstruction : Prop :=
  ∀ (s : State) (o : Ops) (g : Got) (y : Slot), Fetches s o .z g y →
    let e := if o.form = .w then o.lit.toNat else o.imm12.toNat
    exec (.perm o) s = slotNext s (wrote y o (permVal g.a.val.toNat g.b.val.toNat g.c.val e) 0) ∧
    (g.b.val = 0 ∨ 2 ^ 40 < g.b.val.toNat ∨ g.b.val.toNat ≤ g.a.val.toNat →
      permVal g.a.val.toNat g.b.val.toNat g.c.val e = BitVec.allOnes 64)

/-- For every key, epoch and number of elements up to 2^40, PERM is a permutation of 0 to n − 1: every i gives a number below n,
and two different i never the same one (R298). -/
def Obligations.PermIsAPermutation : Prop :=
  ∀ (k : Dword) (e n : Nat), 0 < n → n ≤ 2 ^ 40 →
    (∀ i < n, (permVal i n k e).toNat < n) ∧
    (∀ i < n, ∀ j < n, permVal i n k e = permVal j n k e → i = j)

/-! ### Gather, pages, warps: commands for engines -/

namespace Sys2Proof.Claims

/-- The slot in focus and the command list after a command was handed over from state `t` with the block kept with it (R248). -/
def handed (t : State) (o : Ops) (kind : CmdKind) (block : List Dword) : State :=
  let c : Cmd := { id := t.nextCmd, place := t.slot.place, prt := t.slot.prt, unit := t.slotUnit, port := portOf o.d,
                   pc := t.slot.pc, kind := kind, block := block }
  let x : Slot := match o.d with
    | .alt k => t.slot.promise k
    | _ => t.slot
  { t with cmds := t.cmds ++ [c], nextCmd := t.nextCmd + 1, slot := (x.retire o).owe 0 1 }

end Sys2Proof.Claims

/-- GATH, SCAT and SCATA on an open fibre: its positions are read and every element's page translated, the status register, when one
is named, is pending, and the command is handed over; a level without entries completes at once (R295, R297). -/
def Sys2Proof.Claims.GatherCommands : Prop :=
  ∀ (s : State) (o : Ops) (g : Got) (y : Slot) (d : Desc) (e p : Nat), Fetches s o .z g y →
    let t := behind s y
    let sz := 2 ^ (o.imm12.toNat % 8)
    let m := d.entries
    let b := g.b.val
    let c := g.c.val
    t.cursor (o.f.getLsbD 3) (curReg o.a) = .opened d e p →
    (o.d ≠ .absent → t.openable false (curReg o.d) = .ok ()) → c.toNat % sz = 0 → m ≤ 2 ^ 20 →
    ∀ i ∈ [Instr.gath o, .scat o, .scata o],
      (m = 0 → o.d = .absent → exec i s = slotNext s ((y.retire o).owe 0 1)) ∧
      (∀ t1 t2 xs, 0 < m → gatherAreas t o c sz m = .ok () → positions (o.f.getLsbD 3) d m t 0 = .ok (t1, xs) →
        elemPages t1.slotUnit t1.slotCtx sz b t1 xs = .ok t2 →
        let u := if o.d = .absent then t2 else putCursor t2 false (curReg o.d) (.pending t2.nextCmd)
        ∃ marks, exec i s = .next (handed u { o with d := .absent } (gatherKind o b c xs) marks) ∧ marks.length = xs.length ∧
          ∀ (j x : Nat), xs[j]? = some x → let a := b + BitVec.ofNat 64 (sz * x)
            let f := o.f.toNat % 4
            (a.toNat % min sz 8 ≠ 0 → marks[j]? = some 0x20) ∧
            (a.toNat % min sz 8 = 0 → ∀ t3 ts, translateAll u u.slotUnit u.slotCtx (pagesOf a.toNat sz) = .ok (t3, ts) →
              marks[j]? = some (
                if f = 2 ∧ ∃ z ∈ ts, z.2.kind = .wo then 0x22
                else if ∃ z ∈ ts, if f = 0 then z.2.r = false else z.2.w = false ∨ (f = 2 ∧ z.2.r = false) then 0x23
                else if f ≠ 0 ∧ (a.toNat % 8 ≠ 0 ∨ sz % 8 ≠ 0) ∧ ∃ z ∈ ts, z.2.kind = .wo then 0x20 else 0)))

/-- KVAPP and KVLD check their pages, FWARP and RFMARK their blocks, areas and pages, and hand their command over; PGSEL does so with its
register pending on the command (R302 to R305, R329, R334). -/
def Sys2Proof.Claims.PageAndWarpCommands : Prop :=
  ∀ (s t1 t2 : State) (o : Ops) (g : Got) (y : Slot),
    let t := behind s y
    (CommandReads s o g y → g.a.val.toNat % 2 ^ 14 = 0 →
      (∀ r, kvPages t [(g.a.val.toNat, 2 ^ 14)] true = .ok t1 → engReadOk t1 t1.slotUnit t1.slotCtx g.a.val.toNat 64 = .ok r →
        let dim := bytesToNat r.2 / 2 ^ 24 % 2 ^ 8
        let n := if dim = 32 ∨ dim = 64 ∨ dim = 96 then 2 * dim else 0
        kvPages t1 [(g.b.val.toNat, n), (g.c.val.toNat, n)] false = .ok t2 →
        exec (.kvapp o) s = .next (handed t2 o (.kvapp g.a.val g.b.val g.c.val) [])) ∧
      (g.b.val.toNat % (if o.f.getLsbD 1 then 4 else 2) = 0 → kvPages t [(g.a.val.toNat, 2 ^ 14)] false = .ok t1 →
        exec (.kvld o) s = .next (handed t1 o (.kvld g.a.val g.b.val (o.f.getLsbD 0) (o.f.getLsbD 1)) []))) ∧
    (∀ v, CommandReads s o g y → blockRead t g.a.val 128 = .ok (t1, v) →
      warpLegal (v % 2 ^ 576 + v / 2 ^ 704 % 2 ^ 320 * 2 ^ 704) = true →
      issuePages t1 (warpPages (WarpBlock.ofNat v)).1 (warpPages (WarpBlock.ofNat v)).2 = .ok t2 →
      exec (.fwarp o) s = .next (handed t2 o (.fwarp g.a.val) (blockWords 128 v))) ∧
    (∀ v r, CommandReads s o g y → blockRead t g.a.val 64 = .ok (t1, v) → markLegal v = true →
      let b := MarkBlock.ofNat v
      spRange t1 t1.slot.prt t1.slotUnit b.dsp (64 * (markCells b).length) = .ok r →
      issuePages t1 ((markCells b).flatMap (fun a => pagesOf a 64)) ((markDrift b).flatMap (fun a => pagesOf a 8)) = .ok t2 →
      exec (.rfmark o) s = .next (handed t2 o (.rfmark g.a.val) (blockWords 64 v))) ∧
    (∀ v t3 t4 bs, Fetches s o .z g y → t.openable false (curReg o.d) = .ok () → lvlRead false t g.a.val 32 = .ok (t1, v) →
      let b := PgBlock.ofNat v
      let recs := words64 b.n bs
      PgBlock.ok v = true → pgAreas t1 b = .ok () → kvPages t1 [(b.list.toNat, 8 * b.n)] false = .ok t2 →
      engReadOk t2 t2.slotUnit t2.slotCtx b.list.toNat (8 * b.n) = .ok (t3, bs) → (∀ r ∈ recs, r % 64 = 0) →
      kvPages t3 (recs.map (fun r => (r, 0x140))) false = .ok t4 →
      exec (.pgsel o) s = .next (handed (putCursor t4 false (curReg o.d) (.pending t4.nextCmd)) { o with d := .absent }
        (.pgsel 0 (curReg o.d).toNat) (blockWords 32 v ++ recs.map (BitVec.ofNat 64))))

/-! ### Coded video and drift -/

/-- The stream instructions: SXCFG on a legal block opens its stream and writes the handle; SXFEED queues a range and SXFRM a request
of a valid handle, each a command with a completion token; SXSTAT writes the status word; BLKOPN opens the records of a
packet. A handle that names no stream takes the stream-config fault (R321 to R326). -/
def Sys2Proof.Claims.VideoInstructions : Prop :=
  ∀ (s : State) (o : Ops) (g : Got) (y : Slot),
    let t := behind s y
    (∀ x t1 ts, CommandReads s o g y → t.strmOf g.a.val = some x → g.c.val.toNat ≤ 2 ^ 24 → 0 < g.c.val.toNat →
      let x' : Strm := { x with engine := some (handleEng g.a.val) }
      let n := g.c.val.toNat
      translateAll (t.putStrm x') t.slotUnit t.slotCtx (pagesOf g.b.val.toNat n) = .ok (t1, ts) →
      permAll true false ts = .ok () →
      (8 ≤ x.queue.length → exec (.sxfeed o) s = .next (handed t1 o (.sxfeed g.a.val g.b.val.toNat 0 false) [])) ∧
      (x.queue.length < 8 → exec (.sxfeed o) s = .next (handed (t1.putStrm { x' with
        queue := x.queue ++ [(g.b.val.toNat, n)], fed := x.fed + n, eosFed := x.eosFed || o.f.getLsbD 0 }) o
          (.sxfeed g.a.val g.b.val.toNat n (o.f.getLsbD 0)) []))) ∧
    (∀ x, CommandReads s o g y → t.strmOf g.a.val = some x →
      let x' : Strm := { x with engine := some (handleEng g.a.val) }
      let t1 := t.putStrm x'
      (4 ≤ x.reqs.length → exec (.sxfrm o) s = .next (handed t1 o (.sxfrm g.a.val) [])) ∧
      (x.reqs.length < 4 → exec (.sxfrm o) s = .next (handed (t1.putStrm { x' with
        reqs := x.reqs ++ [s.nextCmd] }) o (.sxfrm g.a.val) []))) ∧
    (∀ x, Fetches s o .z g y → t.strmOf g.a.val = some x → ∃ u : State, exec (.sxstat o) s = .next u ∧
      ∃ v : Dword, u.slot = wrote y o v 0 ∧
        (x.consumed < 2 ^ 48 → x.err < 2 ^ 7 → v.toNat % 2 ^ 48 = x.consumed ∧ v.toNat / 2 ^ 48 % 2 ^ 7 = x.err ∧
          v.toNat / 2 ^ 55 % 2 = (if x.eos then 1 else 0) ∧ v.toNat / 2 ^ 56 % 2 = (if x.sat then 1 else 0) ∧
          v.toNat / 2 ^ 57 = min 7 x.queue.length)) ∧
    (∀ t1 n, Fetches s o .z g y → t.openable false (curReg o.d) = .ok () → g.a.val.toNat % 128 = 0 →
      lvlRead false t (g.a.val + 8) 4 = .ok (t1, n) →
      exec (.blkopn o) s = .next ((putCursor t1 false (curReg o.d) (.opened
        { vbase := 0, pbase := g.a.val + 0x80, n := n, ext := n, vt := 15, gk := 0, fmt := 3 } 0 0)).done o none 4 1)) ∧
    (∀ t1 t2 t3 v u ts, Fetches s o .z g y → g.a.val.toNat % 64 = 0 → lvlRead false t g.a.val 64 = .ok (t1, v) →
      let ring := BitVec.ofNat 64 (fieldAt v 8 8)
      let h := sxHandle (fieldAt v 0 8) (fieldAt v 0x1D 1) (fieldAt v 0x1C 1)
      sxFields v = true → t1.engineUnit t1.slot.prt (fieldAt v 0x1D 1) (fieldAt v 0x1C 1) ≠ none →
      ringUnit t1 t1.slot.prt t1.slotUnit ring = .ok u →
      translateAll t1 t1.slotUnit t1.slotCtx [fieldAt v 0 8, fieldAt v 0x10 8] = .ok (t2, ts) → kindAll .mu ts = .ok () →
      permAll true true ts = .ok () →
      engWrite (t2.privateBytes 4096).2 t2.slotUnit t2.slotCtx (fieldAt v 0 8) (t2.privateBytes 4096).1 = (t3, none) →
      ∃ w, exec (.sxcfg o) s = .next w ∧ w.slot = wrote t3.slot o h 0 ∧ w.mem = t3.mem ∧
        ∃ x, w.strms.getLast? = some x ∧ x.handle = h ∧ x.ctx = t3.slotCtx ∧ x.codec = fieldAt v 0x18 1 ∧ x.queue = [] ∧
          x.reqs = [] ∧ x.frame = 0 ∧ x.pics = [] ∧ x.freed = []) ∧
    (Fetches s o .z g y → t.strmOf g.a.val = none → exec (.sxstat o) s = .next (s.raise { code := 0x46 }))

namespace Sys2Proof.Claims

/-- A component of a vector clamped as R327 states, by its offset, the origin and size of its block and the size of its plane. -/
def mvClamp (d : Int) (x w p : Nat) : Int := min (max d (-16 * ((x : Int) + w + 16))) (16 * ((p : Int) + 16 - x))

/-- An exact result rounded to f32, to nearest even; an invalid one is NaN (R131, R332). -/
def near32 (v : Option FV) : FV :=
  match v with
  | none => .nan
  | some v => (rndF 2 1 v ⟨1, 0⟩).1

end Sys2Proof.Claims

/-- MVCLP clamps each component of a motion vector to within 16 samples beyond its block's own size on each side of the plane, and
counts the cells of a block that it clamps; DRIFT rounds each of its five steps to f32, and DRCHK asks for a refresh for intra,
intra copy and palette blocks, a NaN, and a drift or a chain beyond its limit, both with the drift registers that the forme
latched (R327, R331 to R333). -/
def Obligations.MotionAndDrift : Prop :=
  ∀ (s : State) (o : Ops) (g : Got) (y : Slot), Fetches s o .p g y → g.pass = none →
    let a := g.a.val
    let b := g.b.val
    let c := g.c.val
    let r := (s.mt s.slotUnit).drift
    (∃ v : Dword, exec (.mvclp o) s = slotNext s (wrote y o v 0) ∧
      let w := 4 * (b.toNat / 2 ^ 32 % 2 ^ 6 + 1)
      let h := 4 * (b.toNat / 2 ^ 38 % 2 ^ 6 + 1)
      let dx := (a.extractLsb' 0 16).toInt
      let dy := (a.extractLsb' 16 16).toInt
      let cx := mvClamp dx (b.toNat % 2 ^ 16) w (c.toNat % 2 ^ 16)
      let cy := mvClamp dy (b.toNat / 2 ^ 16 % 2 ^ 16) h (c.toNat / 2 ^ 16 % 2 ^ 16)
      v.extractLsb' 0 16 = BitVec.ofInt 16 cx ∧ v.extractLsb' 16 16 = BitVec.ofInt 16 cy ∧
      v.extractLsb' 32 16 = BitVec.ofNat 16 (if cx ≠ dx ∨ cy ≠ dy then w / 4 * (h / 4) else 0) ∧ v.extractLsb' 48 16 = 0) ∧
    (∃ v : Dword, exec (.drift o) s = slotNext s (wrote y o v 1) ∧
      let f (x : Word) : FV := decF 2 x.toNat
      let t1 := near32 (mulV (f r.alpha) (.fin false (b.toNat % 2 ^ 32) 0))
      let t2 := near32 (addV 1 (f (a.setWidth 32)) t1)
      let t3 := near32 ((mulV (f r.beta) (.fin false (c.toNat / 2 ^ 32 % 2) 0)).bind (addV 1 t2))
      let t4 := near32 (mulV (f r.gamma) (.fin false (c.toNat % 2 ^ 32) 0))
      v.extractLsb' 0 32 = BitVec.ofNat 32 (encF 2 (near32 (addV 1 t3 t4))) ∧
      v.toNat / 2 ^ 32 = min (a.toNat / 2 ^ 32 % 2 ^ 16 + 1) 65535) ∧
    (let d := decF 2 a.toNat
      let mode := b.toNat / 2 ^ 48 % 8
      exec (.drchk o) s = slotNext s (wrote y o (if mode = 0 ∨ mode = 3 ∨ mode = 4 ∨ d = .nan ∨ ltV (decF 2 r.dmax.toNat) d = true ∨
        r.lmax.toNat < a.toNat / 2 ^ 32 % 2 ^ 16 then 1 else 0) 0))

/-! ### Matrix islands and ternary arrays: the task's side -/

/-- The matrix instructions send one command token on D: the kind in bits 63 to 60, and the block address, with the home tile written
in where A names home, or the rows field, below; a misaligned or malformed address or rows field takes its fault (R339, R344). -/
def Sys2Proof.Claims.MatrixInstructions : Prop :=
  ∀ (s : State) (o : Ops) (g : Got) (y : Slot), Fetches s o .z g y →
    let a := g.a.val.toNat
    let word (kind arg : Nat) : Dword := BitVec.ofNat 64 (kind * 2 ^ 60 + arg)
    let feed := if o.f.getLsbD 0 then 4 else 3
    exec (.mswap o) s = slotNext s (wrote y o (word 2 0) 0) ∧
    (a / 2 ^ 13 = 0 ∧ 1 ≤ a / 2 ^ 6 ∧ a % 2 ^ 6 + a / 2 ^ 6 ≤ 64 → exec (.mzero o) s = slotNext s (wrote y o (word 6 a) 0)) ∧
    (¬(a / 2 ^ 13 = 0 ∧ 1 ≤ a / 2 ^ 6 ∧ a % 2 ^ 6 + a / 2 ^ 6 ≤ 64) →
      exec (.mzero o) s = .next (s.raise { code := 0x48, info := word 6 (a % 2 ^ 33) })) ∧
    ∀ p ∈ [(Instr.chuck o, 1), (.mfeed o, feed), (.mdraw o, 5)],
      (a % 8 = 0 → a < 2 ^ 32 → exec p.1 s = slotNext s (wrote y o (word p.2 a) 0)) ∧
      (∀ d t, a % 8 = 0 → 2 ^ 32 ≤ a → a < 2 ^ 33 →
        (s.part y.prt).imageOf (dieOf (coordUnit y.place)) (mtTile (coordUnit y.place)) = some (d, t) →
        exec p.1 s = slotNext s (wrote y o (word p.2 (d * 2 ^ 30 + t * 2 ^ 21 + a % 2 ^ 21)) 0)) ∧
      (a % 8 ≠ 0 → exec p.1 s = .next (s.raise { code := 0x20, addr := g.a.val })) ∧
      (a % 8 = 0 → 2 ^ 33 ≤ a → exec p.1 s = .next (s.raise { code := 0x21, addr := g.a.val }))

/-- The ternary instructions check their scratchpad region and rows field and hand their command over; a bad rows field takes the
ternary fault with reason 2 (R352, R353). -/
def Sys2Proof.Claims.TernaryInstructions : Prop :=
  ∀ (s : State) (o : Ops) (g : Got) (y : Slot) (r : Nat × Nat), CommandReads s o g y → g.a.val.toNat % 4 = 0 →
    let t := behind s y
    let v := g.b.val.toNat
    let row0 := v % 32
    let cnt := v / 32 % 64
    (spRange t y.prt t.slotUnit g.a.val 205 = .ok r → exec (.tchuck o) s = .next (handed t o (.tchuck g.a.val) [])) ∧
    (v < 2 ^ 11 → 1 ≤ cnt → row0 + cnt ≤ 32 → spRange t y.prt t.slotUnit g.a.val (32 * cnt) = .ok r →
      ∀ i ∈ [Instr.tfeed o, .tfeedLong o], exec i s = .next (handed t o (.tfeed g.a.val row0 cnt o.sat) [])) ∧
    (v < 2 ^ 12 → 1 ≤ cnt → row0 + cnt ≤ 32 → spRange t y.prt t.slotUnit g.a.val (128 * cnt) = .ok r →
      exec (.tdraw o) s = .next (handed t o (.tdraw g.a.val row0 cnt (decide (2 ^ 11 ≤ v))) [])) ∧
    (cnt = 0 ∨ 32 < row0 + cnt → spRange t y.prt t.slotUnit g.a.val 0 = .ok r →
      ∀ i ∈ [Instr.tfeed o, .tfeedLong o, .tdraw o], exec i s = .next (s.raise { code := 0x49, info := 2 }))

/-! ### Delta queues and indices -/

namespace Sys2Proof.Claims

/-- What an operation at a region that is performed leads to: its values in the destination, the instruction retired, and the
requests that its change lets through served in their order (R371). -/
def regionNext (t : State) (o : Ops) (vs : List Dword) : Host.Outcome State Fault Refusal :=
  .next ((t.brought o vs).serveRegions t.mem.waits.length)

/-- A queue region whose header can be read and satisfies R363. -/
def QueueSound (t : State) (r : Rg) : Prop := r.bad t (r.head 0) 0x28 = false ∧ (r.qhead t).ok r.decl.lcap = true

/-- The multiplicity that the records of a list give to the triple of a record (R365). -/
def tripleSum (xs : List Nat) (x : Nat) : Int := ((xs.filter (fun r => recSame r x)).map recMult).sum

end Sys2Proof.Claims

/-- The queue instructions on a region in order: DQPUT appends the record of its group while there is room, DQGET takes the record
at HEAD, or tells that none is there, DQFRN raises a frontier, DQQSC tests quiescence, and DQCON writes how many records it
made available; what cannot be performed yet waits, a record before its lane's frontier is the frontier fault (R373 to R375);
that the fault's ADDR is the address as the register holds it is log entry 24. -/
def Sys2Proof.Claims.QueueInstructions : Prop :=
  ∀ (s : State) (o : Ops) (g : Got) (y : Slot) (r : Rg), Fetches s o .z g y → twf 0 s.mem.sram = true →
    let t := behind s y
    let q := r.qhead t
    let rec' := wordsRec (s.slot.recordOf o)
    let lane := o.f.toNat % 4
    QueueSound t r →
    (s.slot.groupsHeld o 4 0 = true → t.regionOf g.b.val false = .ok r →
      (seqDist q.tail q.head < 2 ^ r.decl.lcap → r.frontier t lane ≤ recTime rec' → recTime rec' ≤ 0xFFFFFFFD →
        ∃ t1, exec (.dqput o) s = regionNext t1 o [] ∧ r.record t1 q.tail = rec' ∧
          r.qhead t1 = ⟨q.head, q.cons, (q.tail + 1) % 2 ^ 32⟩ ∧ r.fIn t1 = r.fIn t ∧
          ∀ j, j % 2 ^ r.decl.lcap ≠ q.tail % 2 ^ r.decl.lcap → r.record t1 j = r.record t j) ∧
      (2 ^ r.decl.lcap ≤ seqDist q.tail q.head → ∃ u, exec (.dqput o) s = .next u ∧ u.slot = { s.slot with busy := true }) ∧
      (seqDist q.tail q.head < 2 ^ r.decl.lcap → recTime rec' < r.frontier t lane →
        exec (.dqput o) s = .next (s.raise { code := 0x4A, addr := g.b.val, info := BitVec.ofNat 64 (lane + recTime rec' * 2 ^ 32) }))) ∧
    (t.regionOf g.a.val false = .ok r →
      (s.slot.groupsHeld o 1 4 = true →
        (q.cons ≠ q.head → r.bad t (r.recAt q.head) 32 = false →
          ∃ t1, exec (.dqget o) s = regionNext t1 o (recWords (r.record t q.head)) ∧
            r.qhead t1 = ⟨(q.head + 1) % 2 ^ 32, q.cons, q.tail⟩) ∧
        (q.cons = q.head → r.fIn t = 0xFFFFFFFF → q.head = q.tail → exec (.dqget o) s = regionNext t o [0xFFFFFFFF, 0, 0, 0]) ∧
        (q.cons = q.head → ¬(r.fIn t = 0xFFFFFFFF ∧ q.head = q.tail) →
          (o.f.getLsbD 0 = true → exec (.dqget o) s = regionNext t o [0xFFFFFFFE, 0, 0, 0]) ∧
          (o.f.getLsbD 0 = false → ∃ u, exec (.dqget o) s = .next u ∧ u.slot = { s.slot with busy := true }))) ∧
      (∃ t1, exec (.dqfrn o) s = regionNext t1 o [] ∧
        r.frontier t1 lane = max (r.frontier t lane) (g.b.val.toNat % 2 ^ 32) ∧ r.qhead t1 = q ∧
        ∀ k < 4, k ≠ lane → r.frontier t1 k = r.frontier t k) ∧
      exec (.dqqsc o) s = regionNext t o [if g.b.val.toNat % 2 ^ 32 < r.fIn t ∧
        ∀ x ∈ r.records t q.head q.tail, g.b.val.toNat % 2 ^ 32 < recTime x then 1 else 0] ∧
      ((∀ k < seqDist q.tail q.cons, r.bad t (r.recAt (q.cons + k)) 32 = false) →
        let all := r.records t q.cons q.tail
        let out := (recRuns (recSort (all.filter (fun x => recTime x < r.fIn t)))).flatMap runOut
        let rest := all.filter (fun x => r.fIn t ≤ recTime x)
        ∃ t1, exec (.dqcon o) s = regionNext t1 o [BitVec.ofNat 64 out.length] ∧
          r.qhead t1 = ⟨q.head, (q.cons + out.length) % 2 ^ 32, (q.cons + out.length + rest.length) % 2 ^ 32⟩ ∧
          r.records t1 q.cons (q.cons + out.length + rest.length) = out ++ rest))

/-- Consolidation (R365): as long as every sum is an i32, the records made available stand in strictly rising order of time, key and
payload, none of multiplicity 0, and give every triple the multiplicity that the records taken gave it. -/
def Sys2Proof.Claims.ConsolidationKeepsSums : Prop :=
  ∀ xs : List Nat, (∀ x, inI32 (tripleSum xs x) = true) →
    let out := (recRuns (recSort xs)).flatMap runOut
    out.Pairwise (fun a b => recLe a b = true ∧ recSame a b = false) ∧ (∀ r ∈ out, recMult r ≠ 0) ∧
    (∀ x, tripleSum out x = tripleSum xs x) ∧ out.length ≤ xs.length

/-- The index instructions: IXGET reads a key's value from its bucket; IXUPD applies the record at HEAD of a queue to it and brings old,
new, key and record; IXITR gives the lowest entry at or above a position; IXCLR empties an index or a queue; IXSPL moves
every resident entry into its spill bucket (R376 to R380). Requests that wait are served in their order of arrival (log entry 24). -/
def Sys2Proof.Claims.IndexInstructions : Prop :=
  ∀ (s : State) (o : Ops) (g : Got) (y : Slot) (r q : Rg), Fetches s o .z g y → twf 0 s.mem.sram = true →
    let t := behind s y
    let key := g.b.val.toNat
    let h := q.qhead t
    let rec' := q.record t h.head
    let delta := if o.f.getLsbD 0 then recMult rec' * signed 64 (rec' / 2 ^ 128) else recMult rec'
    let n := 3 * 2 ^ r.decl.lcap
    let clean := r.bad t (r.head 0) r.decl.size = false
    (t.regionOf g.a.val true = .ok r → clean → 1 ≤ r.decl.lcap →
      (∀ i, bFind (r.bucket t (r.home key)) key = some i →
        exec (.ixget o) s = regionNext t o [BitVec.ofNat 64 (bVal (r.bucket t (r.home key)) i)]) ∧
      (bFind (r.bucket t (r.home key)) key = none → bSpilled (r.bucket t (r.home key)) = false →
        exec (.ixget o) s = regionNext t o [0]) ∧
      (s.slot.groupsHeld o 1 3 = true →
        (∀ p < n, key ≤ p → bVal (r.bucket t (p / 3)) (p % 3) ≠ 0 →
          (∀ k < p, key ≤ k → bVal (r.bucket t (k / 3)) (k % 3) = 0) →
          exec (.ixitr o) s = regionNext t o [BitVec.ofNat 64 (p + 1), BitVec.ofNat 64 (bKey (r.bucket t (p / 3)) (p % 3)),
            BitVec.ofNat 64 (bVal (r.bucket t (p / 3)) (p % 3))]) ∧
        (r.decl.spillN = 0 → (∀ k < n, key ≤ k → bVal (r.bucket t (k / 3)) (k % 3) = 0) →
          exec (.ixitr o) s = regionNext t o [BitVec.allOnes 64, 0, 0])) ∧
      (∀ t1 vs, ixsplStep t r = .done t1 vs → exec (.ixspl o) s = regionNext t1 o vs ∧ r.residents t1 = [] ∧
        vs = [BitVec.ofNat 64 (r.residents t).length]) ∧
      (r.residents t = [] → exec (.ixspl o) s = regionNext t o [0])) ∧
    (t.anyRegion g.a.val = .ok r →
      ∃ t1, exec (.ixclr o) s = regionNext t1 o [] ∧
        (r.decl.idx = true → 1 ≤ r.decl.lcap → r.residents t1 = [] ∧ r.field t1 0x10 8 = 0 ∧
          r.field t1 8 8 = (if s.timer = 0 then 1 else s.timer.toNat)) ∧
        (r.decl.idx = false → r.qhead t1 = ⟨0, 0, 0⟩ ∧ r.fIn t1 = 0)) ∧
    (t.regionOf g.a.val false = .ok q → t.regionOf g.b.val true = .ok r → q.u = r.u → QueueSound t q →
      s.slot.groupsHeld o 1 4 = true →
      (q.decl.sbase * 128 + q.decl.size ≤ r.decl.sbase * 128 ∨ r.decl.sbase * 128 + r.decl.size ≤ q.decl.sbase * 128) →
      1 ≤ r.decl.lcap → 2 ≤ q.decl.lcap → q.decl.idx = false → r.decl.idx = true →
      let b := r.home (recKey rec')
      let v := r.bucket t b
      (h.cons ≠ h.head → q.bad t (q.recAt h.head) 32 = false → clean → ∀ i old,
        (bFind v (recKey rec') = some i ∧ old = bVal v i) ∨
        (bFind v (recKey rec') = none ∧ bSpilled v = false ∧ bFree v = some i ∧ old = 0 ∧ delta % 2 ^ 64 ≠ 0) →
        let new := ((old + delta) % 2 ^ 64).toNat
        ∃ t1, exec (.ixupd o) s = regionNext t1 o
            [BitVec.ofNat 64 old, BitVec.ofNat 64 new, BitVec.ofNat 64 (recKey rec'), BitVec.ofNat 64 rec'] ∧
          (q.qhead t1).head = (h.head + 1) % 2 ^ 32 ∧ bVal (r.bucket t1 b) i = new ∧ bKey (r.bucket t1 b) i = recKey rec') ∧
      (h.cons = h.head → q.fIn t = 0xFFFFFFFF → h.head = h.tail → exec (.ixupd o) s = regionNext t o [0, 0, 0, 0xFFFFFFFF]))

/-! ### Launches, sections, clock requests and events -/

/-- LAUNCH acts as a fence and puts its two words into the slot at PROD of an enabled queue, whose granules then hold B and C; PROD
moves on by one; a full queue and illegal operands give their statuses and write nothing; where the slot lies in a Holvor window LAUNCH
waits for the other package's answers (R392, R420). A granule that is present is
the write-twice fault, which leaves what came before it: PROD moved and the first granule written (log entry 19). -/
def Sys2Proof.Claims.LaunchInstruction : Prop :=
  ∀ (s : State) (o : Ops) (g : Got) (y : Slot), Fetches s o .z g y → (∀ w ∈ s.mem.waits, w.place ≠ s.slot.place) →
    let t : State := (behind s y).fencePackage
    let f := (s.part y.prt).fn
    let n := g.a.val.toNat
    let q := s.lq f n
    let w := g.b.val.toNat
    let c := g.c.val.toNat
    let legal := n ≤ 7 ∧ q.en = true ∧ w < 2 ^ 52 ∧ w / 2 ^ 4 % 4 = 0 ∧ w / 2 ^ 6 ≠ 0 ∧ c < 2 ^ 52 ∧ c % 8 = 0
    (¬legal → exec (.launch o) s = .next (t.done o (some (BitVec.ofNat 64 (2 ^ 64 - 2))) 0 1)) ∧
    (legal → 2 ^ q.log2 ≤ (q.prod - q.head).toNat →
      exec (.launch o) s = .next (t.done o (some (BitVec.ofNat 64 (2 ^ 64 - 1))) 0 1)) ∧
    (legal → (q.prod - q.head).toNat < 2 ^ q.log2 → (hvTarget (s.ctx (s.part q.prt).ctx) (q.slotVa q.prod)).isSome = true →
      let two := hvTakes (s.part q.prt).ctx true t [(q.slotVa q.prod, 8), (q.slotVa q.prod + 8, 8)]
      (two = .error .absent → exec (.launch o) s = .next { s with stall := true }) ∧
      (∀ t1 bs, two = .ok (t1, bs) → ∃ u, exec (.launch o) s = .next u ∧ u.slot = wrote t.slot o (q.prod.setWidth 64) 0 ∧
        u.lq f n = { q with prod := q.prod + 1 } ∧ u.mem = t.mem)) ∧
    (∀ t1 tr, legal → (q.prod - q.head).toNat < 2 ^ q.log2 → hvTarget (s.ctx (s.part q.prt).ctx) (q.slotVa q.prod) = none →
      translate t t.slotUnit (s.part q.prt).ctx (q.slotVa q.prod) = .ok (t1, tr) →
      permitPage tr (q.slotVa q.prod) .wo false true = .ok () →
      let d := tr.pa / 8
      let t2 : State := { t1 with slot := s.slot, lqs := tput {} t1.lqs (8 * f + n) { q with prod := q.prod + 1 } }
      (t1.mem.isPresent d = false → t1.mem.isPresent (d + 1) = false →
        ∃ u, exec (.launch o) s = .next u ∧ u.slot = wrote t.slot o (q.prod.setWidth 64) 0 ∧
          u.lq f n = { q with prod := q.prod + 1 } ∧ u.mem = (t1.mem.woPut d w).woPut (d + 1) c ∧
          u.mem.isPresent d = true ∧ u.mem.isPresent (d + 1) = true ∧
          (twf 0 t1.mem.hbm = true → u.mem.homeBytes (8 * d) 8 = natToBytes 8 w ∧ u.mem.homeBytes (8 * d + 8) 8 = natToBytes 8 c)) ∧
      (t1.mem.isPresent d = true →
        exec (.launch o) s = .next (t2.raise { code := 0x24, addr := BitVec.ofNat 64 (q.slotVa q.prod) })) ∧
      (t1.mem.isPresent d = false → t1.mem.isPresent (d + 1) = true →
        let m := t1.mem.woPut d w
        exec (.launch o) s = .next (({ t2 with mem := m } : State).raise { code := 0x24, addr := BitVec.ofNat 64 (q.slotVa q.prod + 8) })))

/-- GSARM arms a section that was never armed, adds to the count still held of one that is (at most 2^32 − 1 in all), gives its
nodes the tiles, and has no effect on any other; RQRAT replaces the
fields of the partition's request that it names; RDRAT reads the grant; EVTAKE takes the oldest event, or with .nw writes 0; DRQ requests
the pre-emption of its own launch; QPRI changes a queue's priority and writes the old one (R393 to R396, R401, R402). -/
def Sys2Proof.Claims.LaunchControlInstructions : Prop :=
  ∀ (s : State) (o : Ops) (g : Got) (y : Slot), Fetches s o .z g y →
    let p := s.slot.prt
    let q := s.part p
    let k := g.a.val.toNat
    let c := g.b.val.toNat % 2 ^ 32
    let x := q.sect k
    let idle := 3 < k ∨ c = 0 ∨ s.sectHeld p k = false ∨ x.expired = true ∨ (x.armed = false ∧ x.drn = true)
    let field (n : Nat) : Prop := n = 0 ∨ (4 ≤ n ∧ n ≤ 24)
    let f := q.fn
    let lq := s.lq f k
    (idle → exec (.gsarm o) s = slotNext s (wrote y o 2 0)) ∧
    (¬idle → (∀ n ∈ s.sectIslands p k, (s.isl n).feed.bound = true ∧ (s.isl n).drawLnk = true) →
      let left := if x.armed then s.tilesLeft p k else 0
      let total := min (left + c) (2 ^ 32 - 1)
      ∃ t, exec (.gsarm o) s = .next t ∧ t.slot = wrote y o (if x.armed then 1 else 0) 0 ∧
        t.parts = tput {} s.parts p (q.setSect k { x with armed := true, rem := total }) ∧
        ((s.sectIslands p k).Nodup → ∀ n ∈ s.sectIslands p k, (t.isl n).todo = (s.isl n).todo + (total - left)) ∧
        ((s.sectPorts p k).Nodup → ∀ z ∈ s.sectPorts p k,
          (t.port z.1 z.2).todo = (s.port z.1 z.2).todo + (total - left) * (s.port z.1 z.2).window.count)) ∧
    ((k < 2 ^ 21 ∧ field (k / 2 ^ 16) ∧ k / 2 ^ 13 % 2 ^ 3 = 0 ∧ field (k / 2 ^ 8 % 2 ^ 5) ∧ k / 2 ^ 5 % 2 ^ 3 = 0 ∧
        field (k % 2 ^ 5)) →
      exec (.rqrat o) s = .next { s with slot := wrote y o 0 0, parts := tput {} s.parts p { q with req :=
        ⟨if k / 2 ^ 16 = 0 then q.req.mx else k / 2 ^ 16, if k / 2 ^ 8 % 2 ^ 5 = 0 then q.req.vc else k / 2 ^ 8 % 2 ^ 5,
         if k % 2 ^ 5 = 0 then q.req.mm else k % 2 ^ 5⟩ } }) ∧
    (2 ^ 21 ≤ k ∨ ¬field (k % 2 ^ 5) → exec (.rqrat o) s = slotNext s (wrote y o 1 0)) ∧
    (q.evq = [] → (o.f.getLsbD 0 = true → exec (.evtake o) s = slotNext s (wrote y o 0 0)) ∧
      (o.f.getLsbD 0 = false → exec (.evtake o) s = .next { s with stall := true })) ∧
    (∀ w ws, q.evq = w :: ws → ∃ v, exec (.evtake o) s = .next { s with slot := wrote y o v 0, parts := tput {} s.parts p { q with evq := ws } } ∧
      v.toNat % 2 ^ 24 = w.toNat % 2 ^ 24 ∧
      (({ s with slot := y } : State).rowDiv (rowOf y.place) < 8 → v.toNat / 2 ^ 27 = w.toNat / 2 ^ 27)) ∧
    (q.preempt = true → exec (.drq o) s = slotNext s (wrote y o 0 0)) ∧
    (q.preempt = false → ∃ t, exec (.drq o) s = .next t ∧ t.slot = wrote y o 0 0 ∧
      t.parts = tput {} s.parts p { q with preempt := true, preAt := s.timer } ∧
      ∀ l, q.launch = some l → (t.lq l.fn l.q).recent = s.sys.grants + 1) ∧
    (k ≤ 7 → lq.en = true → g.b.val.toNat ≤ 7 → exec (.qpri o) s = .next
      { s with slot := wrote y o (BitVec.ofNat 64 lq.prio) 0, lqs := tput {} s.lqs (8 * f + k) { lq with prio := g.b.val.toNat } }) ∧
    (7 < k ∨ lq.en = false ∨ 7 < g.b.val.toNat → exec (.qpri o) s = slotNext s (wrote y o (BitVec.allOnes 64) 0)) ∧
    ∃ v, exec (.rdrat o) s = slotNext s (wrote y o v 0) ∧
      (q.grant.mx < 2 ^ 13 → q.grant.vc < 2 ^ 5 → q.grant.mm < 2 ^ 5 →
        v.toNat % 2 ^ 5 = q.grant.mm ∧ v.toNat / 2 ^ 8 % 2 ^ 5 = q.grant.vc ∧ v.toNat / 2 ^ 16 % 2 ^ 5 = q.grant.mx % 2 ^ 5 ∧
        v.toNat / 2 ^ 32 = q.grseq.toNat)

/-! ### Matrix islands: the island's side -/

namespace Sys2Proof.Claims

/-- An accumulator as MFEED leaves it (R345): the exact products with a plane column added in rising order of k, each sum rounded once. -/
def fedAcc (ty : Nat) (acc : Dword) (a w : Nat → FV) : Dword :=
  let af := if ty = 1 then 1 else 2
  BitVec.ofNat 64 (encF af ((List.range 64).foldl (fun c k => accV af c (mulV (a k) (w k))) (decF af acc.toNat)))

/-- An accumulator as MDRAW leaves it (R346). -/
def drawnAcc (x : Island) (b : IslBlock) (r j : Nat) : Dword :=
  if b.clr = true ∧ b.row0 ≤ r ∧ r < b.row0 + b.cnt then 0 else tget 0 x.acc (64 * r + j)

/-- An event that serves a command of an island. -/
def islandEvent (n : Nat) (i : Instr) : Prop :=
  i ∈ [Instr.islandChuck n, .islandMswap n, .islandMzero n, .islandMfeed n, .islandMfeedTransposed n, .islandMdraw n]

end Sys2Proof.Claims

/-- The commands of an island, taken while no tile of its section is left: CHUCK writes rows of the shadow plane, MSWAP exchanges the planes, MZERO zeroes accumulator
rows, MFEED adds the products of activation rows, read from memory or taken from the channel, to accumulator rows, MDRAW sends
rows of accumulators in order, or writes them to memory, and each ends its command; a SEG, ROW or TEN at the head of the feed channel is
the matrix-command fault, which names the command in service (R341 to R346, R349). -/
def Sys2Proof.Claims.IslandCommands : Prop :=
  (∀ (s : State) (n : Nat) (w : Dword) (q : List Tok), let x := s.isl n
    let left := s.tilesLeft x.prt x.sect
    x.bound = true → x.feedMarked = false → x.cur = none →
    (left ≠ 0 → ∀ i, islandEvent n i → exec i s = .next s) ∧ (x.cmd.queue = [] → ∀ i, islandEvent n i → exec i s = .next s) ∧
    (left = 0 → x.cmd.queue = ⟨w, .elem⟩ :: q → w.toNat = 2 * 2 ^ 60 → ∃ t, exec (.islandMswap n) s = .next t ∧ t.isl n =
      { x with plane := x.shadow, scale := x.sscale, shadow := x.plane, sscale := x.scale,
               cmd := { x.cmd with queue := q, freed := x.cmd.freed + 1 } })) ∧
  ∀ (s : State) (n v : Nat) (w : Dword),
    let x := s.isl n
    let b := IslBlock.ofNat v
    let ty := x.ty.toNat
    let kind := w.toNat / 2 ^ 60
    let r0 := w.toNat % 64
    let c0 := w.toNat / 64 % 128
    let rows (r : Nat) : Prop := b.row0 ≤ r ∧ r < b.row0 + b.cnt
    x.bound = true → x.cur = some (w, v) →
    (x.feedMarked = true → ∀ i, islandEvent n i → exec i s = .next (s.raiseEngine x.prt (s.islImgc n)
      { code := 0x48, addr := if kind = 6 then 0 else BitVec.ofNat 64 (w.toNat % 2 ^ 33), info := w })) ∧ (x.feedMarked = false →
    (kind = 2 → ∃ t, exec (.islandMswap n) s = .next t ∧
      t.isl n = { x with plane := x.shadow, scale := x.sscale, shadow := x.plane, sscale := x.scale, cur := none }) ∧
    (kind = 6 → ∃ t, exec (.islandMzero n) s = .next t ∧ (t.isl n).cur = none ∧
      (∀ r j, j < 64 → tget 0 (t.isl n).acc (64 * r + j) = if r0 ≤ r ∧ r < r0 + c0 then 0 else tget 0 x.acc (64 * r + j)) ∧
      (t.isl n).plane = x.plane) ∧
    (kind = 1 → ∀ (t : State) (rs ss : List (List Byte)), s.islRows n b = .ok (t, rs, ss) → twf 0 x.shadow = true →
      twf 127 x.sscale = true → ∃ u, exec (.islandChuck n) s = .next u ∧ (u.isl n).cur = none ∧
      (∀ r j, j < 64 → (rows r → tget 0 (u.isl n).shadow (64 * r + j) = BitVec.ofNat 64 (rowElem ty (rs.getD (r - b.row0) []) j)) ∧
        (¬rows r → tget 0 (u.isl n).shadow (64 * r + j) = tget 0 x.shadow (64 * r + j))) ∧
      (∀ r k, k < 2 → (rows r → tget 127 (u.isl n).sscale (2 * r + k) = scaleOf ss (r - b.row0) k) ∧
        (¬rows r → tget 127 (u.isl n).sscale (2 * r + k) = tget 127 x.sscale (2 * r + k))) ∧
      (u.isl n).plane = x.plane ∧ (u.isl n).acc = x.acc) ∧
    (∀ p ∈ [(Instr.islandMfeed n, 3, false), (.islandMfeedTransposed n, 4, true)], kind = p.2.1 → twf 0 x.acc = true →
      let weight (k j : Nat) : FV := if p.2.2 then x.weight j k else x.weight k j
      (∀ (t : State) (rs ss : List (List Byte)), b.chan = false → s.islRows n b = .ok (t, rs, ss) →
        ∃ u, exec p.1 s = .next u ∧ (u.isl n).cur = none ∧ ∀ r j, j < 64 → tget 0 (u.isl n).acc (64 * r + j) =
          if b.row0 ≤ r ∧ r < b.row0 + b.cnt then fedAcc ty (tget 0 x.acc (64 * r + j)) (rowValue ty rs ss (r - b.row0)) (fun k => weight k j)
          else tget 0 x.acc (64 * r + j)) ∧
      (b.chan = true → x.taken.length = 64 * b.cnt →
        ∃ u, exec p.1 s = .next u ∧ (u.isl n).cur = none ∧ (u.isl n).taken = [] ∧ ∀ r j, j < 64 → tget 0 (u.isl n).acc (64 * r + j) =
          if b.row0 ≤ r ∧ r < b.row0 + b.cnt then
            fedAcc ty (tget 0 x.acc (64 * r + j)) (fun k => feedValue ty (x.taken.getD (64 * (r - b.row0) + k) {})) (fun k => weight k j)
          else tget 0 x.acc (64 * r + j))) ∧
    (kind = 5 → b.chan = true → x.pend = [] → 65 * b.cnt + 1 ≤ x.draw.credit →
      let toks := x.drawToks (outT ty b.otype) b.row0 b.cnt
      ∃ u, exec (.islandMdraw n) s = .next u ∧ (u.isl n).cur = none ∧ (u.isl n).draw.flight = x.draw.flight ++ toks ∧
        toks.length = 65 * b.cnt + 1 ∧
        (∀ i j, i < b.cnt → j < 64 → toks[65 * i + j]? = some ⟨putBits (outT ty b.otype) (x.drawn (outT ty b.otype) (b.row0 + i) j), .elem⟩) ∧
        ∀ r j, j < 64 → tget 0 (u.isl n).acc (64 * r + j) = drawnAcc x b r j) ∧
    (kind = 5 → b.chan = false →
      let ot := outT ty b.otype
      let row (i : Nat) : List Byte := (List.range 64).flatMap (fun j => natToBytes (wBytes ot) (x.drawn ot (b.row0 + i) j))
      let out := State.islWrites n b.sp s ((List.range b.cnt).map (fun i => (b.addr + i * b.pitch, row i)))
      (∀ t, out = (t, none) → ∃ u, exec (.islandMdraw n) s = .next u ∧ (u.isl n).cur = none ∧ u.mem = t.mem ∧
        ∀ r j, j < 64 → tget 0 (u.isl n).acc (64 * r + j) = drawnAcc x b r j) ∧
      (∀ t, out = (t, some .absent) → exec (.islandMdraw n) s = .next s) ∧
      (∀ c off, b.sp = true → 64 * wBytes ot ≤ b.pitch → twf 0 s.mem.sram = true →
        (∀ i < b.cnt, spRange s x.prt (s.islUnit n) (BitVec.ofNat 64 (b.addr + i * b.pitch)) (64 * wBytes ot) = .ok (c, off + i * b.pitch)) →
        ∃ u, exec (.islandMdraw n) s = .next u ∧ (u.isl n).cur = none ∧ ∀ i j, i < b.cnt → j < 64 →
          u.mem.spGet c (off + i * b.pitch + wBytes ot * j) (wBytes ot) = x.drawn ot (b.row0 + i) j % 2 ^ (8 * wBytes ot))))

/-- An armed tile: 64 rows of feed tokens are added into the accumulators, which are drawn and cleared, and the count of tiles falls
by one when its last token is sent (R348). -/
def Sys2Proof.Claims.ArmedTile : Prop :=
  ∀ (s : State) (n : Nat), let x := s.isl n
    x.bound = true → x.feedMarked = false → x.cur = none → x.todo ≠ 0 → x.pend = [] → x.taken.length = 4096 → 4161 ≤ x.draw.credit →
    ∃ u, exec (.islandArmedTile n) s = .next u ∧ (u.isl n).todo = x.todo - 1 ∧ (u.isl n).acc = [] ∧ (u.isl n).taken = [] ∧
      (u.isl n).draw.flight.length = x.draw.flight.length + 4161 ∧
      ∀ r j, r < 64 → j < 64 → (u.isl n).draw.flight[x.draw.flight.length + 65 * r + j]? =
        some ⟨putBits (islAccT x.ty.toNat) (({ x with acc := x.feedRows false 0 64 x.takenValue } : Island).drawn (islAccT x.ty.toNat) r j), .elem⟩

/-! ### The sequencer and the arbiter -/

namespace Sys2Proof.Claims

/-- What the delivery of an image leaves (R54, step 5): a slot for each task of the image, at its placed coordinates, idle, with
its entry, its rates and its channels, and the links of its outputs; the words of each PE's store; the windows and regions of each
memory tile; each bound island; and the units that owe a drain report. Slots that stood stay. -/
def Delivered (t : State) (p : Nat) (fs : List (Nat × Nat)) (pl : Placed) (u : State) : Prop :=
  let m := Img.of fs pl
  (∀ x ∈ t.slots, x ∈ u.slots) ∧ (∀ y ∈ u.slots, y ∈ t.slots ∨ ∃ x ∈ imgTasks fs, y.id = x.key ∧ y.prt = p) ∧
  (∀ x ∈ imgTasks fs, ∃ y ∈ u.slots, y.prt = p ∧ y.id = x.key ∧ y.place = pl.coord x.key ∧ y.st = .idle ∧ y.ctl = x.ctl ∧
    y.entry = BitVec.ofNat 9 x.entry ∧
    ∀ k : Fin 8, y.ins[k].bound = x.bound k ∧ y.ins[k].queue = [] ∧ y.outs[k].bound = x.bound (8 + k) ∧ y.outs[k].flight = [] ∧
      (x.bound k = true → y.ins[k].rate = x.rate k ∧ y.ins[k].vc = BitVec.ofNat 6 (x.vc k)) ∧
      (x.bound (8 + k) = true → y.outs[k].rate = x.rate (8 + k) ∧ y.outs[k].mkey = BitVec.ofNat 2 (x.mkey (8 + k)) ∧
        y.outs[k].vc = BitVec.ofNat 6 (x.vc (8 + k)) ∧
        (collOf m.gs x.key.die.toNat x.key.tile.toNat (x.vc (8 + k)) = none → ∀ l v,
          (imgLinks fs).find? (fun l => l.src == some (x.endOf k)) = some l → l.dst = some v →
          y.outs[k].dst = some (pl.endOf v.dst) ∧ y.outs[k].cap = l.slots m.es ∧ y.outs[k].credit = l.slots m.es))) ∧
  (∀ c ∈ imgPes fs, ∃ e ∈ u.pes, e.place = pl.coord c ∧ e.words = (peWords (imgWords fs) c).map (fun w => w.word)) ∧
  (∀ n ∈ imgMts fs, (∀ k ∈ imgMts fs, pl.mtUnit k = pl.mtUnit n → k = n) → twf {} t.mts = true →
    let x := u.mt (pl.mtUnit n)
    x.split = (t.mt (pl.mtUnit n)).split ∧ x.counters = (t.mt (pl.mtUnit n)).counters ∧
    (∀ f ∈ fs, ofMt 6 n f = true → (Hdr.of f.2).unit < 8 →
      (∀ h ∈ fs, ofMt 6 n h = true → (Hdr.of h.2).unit = (Hdr.of f.2).unit → (Hdr.of h.2).seq = (Hdr.of f.2).seq → h = f) →
      tget {} (tget {} x.ports (Hdr.of f.2).unit).wins (Hdr.of f.2).seq = windowOf f.2) ∧
    (∀ f ∈ fs, ofMt 8 n f = true → (∀ h ∈ fs, ofMt 8 n h = true → (Hdr.of h.2).unit = (Hdr.of f.2).unit → h = f) →
      tget ⟨false, 0, 0, 0, 0⟩ x.regions (Hdr.of f.2).unit = regionOfFrame f.2)) ∧
  (∀ f ∈ imgIslands fs, (∀ h ∈ imgIslands fs, pl.isl (imgIsl h.2) = pl.isl (imgIsl f.2) → h = f) →
    u.isl (pl.isl (imgIsl f.2)) = m.island p f.2) ∧
  (u.part p).owed = m.units ∧ (u.part p).toReport = [] ∧ u.mem = t.mem

/-- A launch ended: its slot's granules are cleared, LQHEAD moves on, and the partition is free (R386). -/
def endedLaunch (s : State) (p : Nat) (l : Launch) : State :=
  let x := s.lq l.fn l.q
  let t := (s.clearSlot p (x.slotVa x.head)).setLq l.fn l.q { x with head := x.head + 1, kept := none }
  t.setPart p (t.part p).freed

end Sys2Proof.Claims

/-- A partition's sequencer: the record at RIDX is read and checked, its dependences are waited for, its image is fetched, checked
and delivered, and the start token runs the forme, with every task idle at its entry and its registers as R148 says; a forme
without a unit ends at its start, since nothing of it is left to drain (R57). -/
def Sys2Proof.Claims.SequencerSteps : Prop :=
  ∀ (s : State) (p : Nat), let q := s.part p
    (∀ l t v, q.phase = .read → q.launch = some l → seqReads s p (l.reca + 64 * q.ridx) false 0 8 = .ok (t, v) →
      (recordErrs q.ridx v = [] → exec (.recordRead p) s = .next (t.setPart p { q with record := BitVec.ofNat 512 v, phase := .deps })) ∧
      (∀ e, leastErr (recordErrs q.ridx v) = some e → exec (.recordRead p) s =
        .next ((t.setPart p { q with record := BitVec.ofNat 512 v }).raiseSeq p
          { code := 0x35, sub := e.1, info := BitVec.ofNat 64 (e.2.1 + e.2.2 * 2 ^ 32) }))) ∧
    (∀ t v, q.phase = .deps → seqReads s p (bits q.record.toNat 307 259 * 8) true 0 (bits q.record.toNat 319 312) = .ok (t, v) →
      exec (.dependenceGranulesPresent p) s = .next (t.setPart p { q with phase := .fetch, req := q.req.merge (recordReq q.record.toNat) })) ∧
    (∀ i, q.phase = .deps → seqReads s p (bits q.record.toNat 307 259 * 8) true 0 (bits q.record.toNat 319 312) = .error (.wait, i) →
      exec (.dependenceGranulesPresent p) s = .next s) ∧
    (∀ t fs, q.phase = .fetch → fetchFrames s p (bits q.record.toNat 51 5 * 32) 0 (bits q.record.toNat 87 64) = .ok (t, fs, []) →
      leastErr (t.loadErrs (t.part p) fs (bits (t.part p).record.toNat 87 64)).2 = none →
      ∃ u, exec (.imageFetch p) s = .next u ∧ (u.part p).phase = .loaded ∧ u.slot = s.slot ∧
        Delivered t p fs (t.loadErrs (t.part p) fs (bits (t.part p).record.toNat 87 64)).1 u) ∧
    (q.phase = .loaded → q.restore = none → q.record.extractLsb' 128 128 = 0 → (s.ctx q.ctx).seedNew = [] → q.owed = [] → q.toReport = [] →
      q.launch.isSome = true → q.preempt = false → ∃ u, exec (.startToken p) s = .next u ∧
        (u.part p).phase = (if q.record.getLsbD 96 then .ended else .read) ∧
        (q.record.getLsbD 96 = false → (u.part p).ridx = q.ridx + 1)) ∧
    (q.phase = .loaded → q.restore = none → q.record.extractLsb' 128 128 = 0 → (s.ctx q.ctx).seedNew = [] → q.owed ≠ [] ∨ q.toReport ≠ [] →
      ∃ u, exec (.startToken p) s = .next u ∧ (u.part p).phase = .run ∧
        ∀ x ∈ u.slots, x.prt = p → x.st = .idle ∧ x.pc = x.entry ∧ x.phys = Vector.replicate 64 0 ∧ x.wbase = 0 ∧ x.rmode = 1 ∧
          x.fsticky = 0 ∧ x.amax = 0 ∧ x.fires = 0 ∧ x.rng = seedState (s.ctx q.ctx).seed x.id ∧ x.rng ≠ 0 ∧
          (∀ k : Fin 8, x.fbs[k] = .closed ∧ x.sms[k] = .closed))

/-- A decision of the arbiter in an idle partition grants a ready queue that no ready one goes before: the smallest priority number,
and among equals the one granted longest ago; the launch starts at its first record or where a pre-emption left it (R388). -/
def Sys2Proof.Claims.ArbiterGrantsTheFirstQueue : Prop :=
  ∀ (s : State) (p : Nat), s.badSlot p = none → (s.part p).phase = .idle → s.sys.held = false →
    (s.readyQueues p = [] → exec (.arbiterGrant p) s = .next s) ∧
    (s.readyQueues p ≠ [] → ∃ f n t, (f, n) ∈ s.readyQueues p ∧ exec (.arbiterGrant p) s = .next t ∧
      (∀ y ∈ s.readyQueues p, (s.lq f n).prio < (s.lq y.1 y.2).prio ∨
        ((s.lq f n).prio = (s.lq y.1 y.2).prio ∧ (s.lq f n).recent ≤ (s.lq y.1 y.2).recent)) ∧
      (∃ l, (t.part p).launch = some l ∧ l.fn = f ∧ l.q = n) ∧ (t.part p).grantAt = s.timer ∧ (t.part p).preempt = false ∧
      ((s.lq f n).kept = none → (t.part p).phase = .read ∧ (t.part p).ridx = 0 ∧ (t.part p).req = ⟨16, 16, 16⟩ ∧ (t.part p).evq = []) ∧
      (∀ k, (s.lq f n).kept = some k → (t.part p).ridx = k.ridx ∧ (t.part p).req = k.req ∧ (t.part p).evq = k.evq ∧
        (t.part p).phase = (if k.snap.isSome then .fetch else .read)))

namespace Sys2Proof.Claims

/-- What a forced save leaves (R61, R272): the partition free and no slot of its forme; its queue keeps the record index, the
events, the request and a snapshot, which holds every slot, memory tile and ternary array of the forme as they stood once no
request of it was left, and its sections. -/
def SavedForme (s : State) (p : Nat) (l : Launch) (u : State) : Prop :=
  let q := s.part p
  let h := s.halted p
  (∀ x ∈ h.slots, x.prt = p → x.busy = false ∧ ∀ w ∈ h.mem.waits, w.place ≠ x.place) ∧
  (u.part p).phase = .idle ∧ (u.part p).launch = none ∧ (∀ x ∈ u.slots, x.prt ≠ p) ∧ (u.lq l.fn l.q).head = (s.lq l.fn l.q).head ∧
  ∃ k snap, (u.lq l.fn l.q).kept = some k ∧ k.snap = some snap ∧ k.ridx = q.ridx ∧ k.drained = l.drained ∧ k.evq = q.evq ∧ k.req = q.req ∧
    snap.record = q.record ∧ snap.sects = q.sects ∧
    ∀ n w, (n, w) ∈ h.imageUnits p → ∃ e ∈ snap.units, e.img = n ∧ e.mt = h.mt w ∧ e.tern = h.tern w ∧
      ∀ x, x ∈ e.slots ↔ x ∈ h.slots ∧ x.prt = p ∧ coordUnit x.place = w

/-- What a restore brings back (R275, R276): the forme runs with its sections; each of its slots has the state saved for its task, its
registers as the array image of its unit holds them, its buffers and its tokens; one that was suspended and resumed issues again; each
placed unit has its counters, rings, split and ternary array, and its scratchpad as its array image holds it. A placed unit without
an image that another context used last has its scratchpad and counters cleared (R201). -/
def RestoredForme (s : State) (p : Nat) (snap : Snap) (u : State) : Prop :=
  let q := s.part p
  let image (i : Nat) : Nat := q.xsavebase + imageStep * i
  (u.part p).phase = .run ∧ (u.part p).restore = none ∧ (u.part p).sects = snap.sects ∧
  (∀ i e old, ∀ y ∈ s.slots, snap.units[i]? = some e → old ∈ e.slots → old.st ≠ .noTask → y.prt = p → y.id = old.id →
    (∀ j f, snap.units[j]? = some f → ∀ o ∈ f.slots, o.id = y.id → j = i ∧ o = old) →
    ∃ z ∈ u.slots, z.place = y.place ∧ z.id = y.id ∧ z.prt = p ∧ z.pc = old.pc ∧ z.calls = old.calls ∧ z.loops = old.loops ∧
      z.wbase = old.wbase ∧ z.vcache = old.vcache ∧ z.rmode = old.rmode ∧ z.fsticky = old.fsticky ∧ z.amax = old.amax ∧ z.rng = old.rng ∧
      z.fires = old.fires ∧ z.sysFence = old.sysFence ∧ z.fbs = old.fbs ∧ z.sms = old.sms ∧
      z.st = (if old.st = .suspended ∧ old.resume = true then .firing else old.st) ∧
      (∀ k : Fin 8, z.ins[k].queue = old.ins[k].queue ∧ z.ins[k].freed = old.ins[k].freed ∧ z.outs[k].flight = old.outs[k].flight ∧
        z.outs[k].credit = old.outs[k].credit ∧ z.outs[k].reserved = old.outs[k].reserved ∧ z.outs[k].dst = y.outs[k].dst) ∧
      (s.mem.l1 = [] → ∀ r : Fin 64, z.phys[r] = BitVec.ofNat 64 (bytesToNat
        (s.mem.homeBytes (image i + 512 * (4 * old.place.pe.toNat + old.place.slot.toNat) + 8 * r) 8)))) ∧
  (∀ i e, snap.units[i]? = some e → (∀ j f, snap.units[j]? = some f → q.unitOfImage f.img = q.unitOfImage e.img → j = i) →
    twf {} s.mts = true → twf {} s.terns = true →
    let w := q.unitOfImage e.img
    (u.mt w).counters = e.mt.counters ∧ (u.mt w).rings = e.mt.rings ∧ (u.mt w).split = e.mt.split ∧ (u.mt w).drift = e.mt.drift ∧
    (u.mt w).regions = (s.mt w).regions ∧ u.tern w = e.tern ∧
    (s.mem.l1 = [] → twf 0 s.mem.sram = true → (∀ f ∈ snap.units, f.mt.split ≤ 16) → ∀ k < e.mt.split * 2 ^ 17,
      tget 0 u.mem.sram (spAddr w k) = s.mem.homeByte (image i + 0x20000 + k))) ∧
  (∀ v ∈ q.placedUnits, (∀ e ∈ snap.units, q.unitOfImage e.img ≠ v) → (s.mt v).lastCtx ≠ some q.ctx →
    twf {} s.mts = true → twf 0 s.mem.sram = true → (∀ e ∈ snap.units, e.mt.split ≤ 16) → (u.mt v).lastCtx = some q.ctx ∧ (u.mt v).counters = [] ∧
    ∀ a, spAddr v 0 ≤ a → a < spAddr (v + 1) 0 → tget 0 u.mem.sram a = 0)

end Sys2Proof.Claims

/-- A running forme is pre-empted for a ready queue of smaller priority number, or at the end of its slice for one of the same; a forme
that has not drained at its limit is saved, and a saved one restored (log entries 12 and 18); the imposition that ends writes its completion word, waits for another package's
answer where that lies in a Holvor window, and frees its slot and its partition (R61, R275, R386, R389). -/
def Sys2Proof.Claims.PreemptionAndCompletion : Prop :=
  ∀ (s : State) (p : Nat) (l : Launch), let q := s.part p
    q.launch = some l → twf {} s.parts = true → twf {} s.lqs = true →
    (q.phase = .run → q.preempt = false →
      (∀ y ∈ s.otherReady p, (s.lq y.1 y.2).prio < (s.lq l.fn l.q).prio →
        exec (.preemptRequest p) s = .next (s.setPart p { q with preempt := true, preAt := s.timer })) ∧
      (∀ y ∈ s.otherReady p, (s.lq y.1 y.2).prio = (s.lq l.fn l.q).prio → q.pslice ≠ 0 →
        q.grantAt.toNat + 16000 * q.pslice ≤ s.timer.toNat →
        exec (.sliceExpiry p) s = .next (s.setPart p { q with preempt := true, preAt := s.timer })) ∧
      (s.otherReady p = [] → exec (.preemptRequest p) s = .next s ∧ exec (.sliceExpiry p) s = .next s)) ∧
    (q.phase = .run → q.preempt = true → q.preAt.toNat + 16000 * q.drlim ≤ s.timer.toNat →
      exec (.drainLimitExpiry p) s = .next (s.forceSave p) ∧ SavedForme s p l (s.forceSave p)) ∧
    (q.phase = .run → (q.preempt = false ∨ s.timer.toNat < q.preAt.toNat + 16000 * q.drlim) →
      exec (.drainLimitExpiry p) s = .next s) ∧
    (∀ snap, q.phase = .loaded → q.restore = some snap → s.badBlock p snap = none →
      exec (.contextRestore p) s = .next (s.restoreForme p snap) ∧ RestoredForme s p snap (s.restoreForme p snap)) ∧
    (∀ snap b, q.phase = .loaded → q.restore = some snap → s.badBlock p snap = some b →
      exec (.contextRestore p) s = .next (s.raiseSeq p { code := 0x2A, addr := BitVec.ofNat 64 b })) ∧
    (q.phase = .ended → let far := l.cmpl ≠ 0 ∧ (hvTarget (s.ctx q.ctx) l.cmpl).isSome = true
      let answer := s.hvReplies.any (fun r => r.ctx == q.ctx && r.va == l.cmpl && r.write)
      (far → answer = false → exec (.impositionComplete p) s = .next s) ∧
      (¬far ∨ answer = true → ∃ t, exec (.impositionComplete p) s = .next t ∧ (t.part p).phase = .idle ∧ (t.part p).launch = none ∧
      (t.lq l.fn l.q).head = (s.lq l.fn l.q).head + 1 ∧
      (l.cmpl = 0 → t = endedLaunch s p l) ∧
      (l.cmpl ≠ 0 → ¬far → ∀ t1 tr, translate s q.seqUnit q.ctx l.cmpl = .ok (t1, tr) → permitPage tr l.cmpl .wo false true = .ok () →
        t1.mem.isPresent (tr.pa / 8) = false →
        let word := l.drained % 2 ^ 32 + (if q.stopCode then 2 else 1) * 2 ^ 32
        t = endedLaunch { t1 with mem := (t1.mem.woPut (tr.pa / 8) word).note (.energy q.ctx 6 1) } p l)))

/-- The power arbiter: BREACH and UNREACH tell a budget below the floors or not above 0; an unreachable cap grants 4 steps to every
partition; a budget that holds the floors gives a partition the steps of the largest j that its share pays for, and one below them the
scaled floors, never under 4 steps; a changed grant counts GRSEQ up; and PCAP is clamped to 500 to 2,200 W (R31, R397 to R400). -/
def Sys2Proof.Claims.ClockGrants : Prop :=
  (∀ (s : State) (p : Nat), let q := s.part p
    let a := s.budget
    let g := s.grantOf q
    let k : Option Nat := if a ≤ 0 then some 2 else if a < (s.floorSum : Int) then some 3 else none
    let t : State := { s with sys := { s.sys with breach := k == some 3, unreach := k == some 2 } }
    let total := (s.holding.map (fun x => x.weight)).sum
    let share := q.coefs.power q.low + (a.toNat - s.floorSum) * q.weight / total
    (q.launch = none → 0 < a → exec (.grantRecompute p) s = .next t) ∧
    (q.launch.isSome = true ∨ a ≤ 0 → exec (.grantRecompute p) s = .next { t with parts := tput {} s.parts p (q.granted g k) }) ∧
    (g ≠ q.grant → (q.granted g k).grant = g ∧ (q.granted g k).grseq = q.grseq + 1) ∧ (g = q.grant → q.granted g k = q) ∧
    (a ≤ 0 → g = ⟨4, 4, 4⟩) ∧
    (0 < a → (s.floorSum : Int) ≤ a → ∃ j ≤ 256, g = q.stepsAt j ∧ q.coefs.power g ≤ share ∧
      (∀ i, j < i → i ≤ 256 → share < q.coefs.power (q.stepsAt i)) ∧ q.low.mx ≤ g.mx ∧ g.mx ≤ q.req.mx ∧
      q.low.vc ≤ g.vc ∧ g.vc ≤ q.req.vc ∧ q.low.mm ≤ g.mm ∧ g.mm ≤ q.req.mm) ∧
    (0 < a → a < (s.floorSum : Int) → let cut (x : Nat) : Nat := max 4 (x * a.toNat / s.floorSum)
      g = ⟨cut q.low.mx, cut q.low.vc, cut q.low.mm⟩)) ∧
  (∀ (s : State) (v : Dword), exec (.pcapWrite v) s = .next (if s.deaf then s
    else { s with sys := { s.sys with pcap := max 500 (min 2200 (v.toNat % 4096)) } }))

/-! ### Firing, links and stages -/

/-- A task fires when it is idle, its inputs hold their rates and its outputs have room: the firing starts at its entry, with a slot
of each buffered link reserved for each token of the port's rate; otherwise nothing changes (R37, R38). -/
def Sys2Proof.Claims.TaskFiring : Prop :=
  ∀ (s : State) (c : Coord) (x : Slot), s.slotAt c = some x → (s.part x.prt).phase = .run →
    (s.canFire x = true → ∃ t y, exec (.taskFire c) s = .next t ∧ t = s.updSlot c Slot.fire ∧ t.slotAt c = some y ∧ y = x.fire ∧
      y.st = .firing ∧ y.pc = x.entry ∧ y.calls = [] ∧ y.loops = [] ∧ y.ins = x.ins ∧ y.phys = x.phys ∧
      ∀ k : Fin 8, x.outs[k].bound = true → x.outs[k].cap ≠ 0 →
        y.outs[k].reserved = x.outs[k].rate ∧ y.outs[k].credit = x.outs[k].credit - x.outs[k].rate ∧ y.outs[k].sent = x.outs[k].sent) ∧
    (s.canFire x = false → exec (.taskFire c) s = .next s)

/-- A register of a control task that the instruction at its pc needs comes into its cache: 0 when it was never written back in this
forme, else the 8 bytes of its save word as the unit's L1 reads them, or as another package answers, with no other register changed; the oldest entry leaves a full
cache, written back to its own save word where it is dirty. A save word that is not translated, not readable or poisoned is the
register-fill fault, but not before an earlier check of the instruction (R36, R148, R265, R269, R281). That a bit tells a register
that was written back from one that was not, and that the oldest entry leaves, is log entry 8. -/
def Sys2Proof.Claims.RegisterFillBringsTheRegister : Prop :=
  ∀ (s : State) (n : Nat) (i : Instr), s.slot.ctl = true → s.slot.mayIssue = true → s.fetched = some i → (neededRegs i).contains n = true →
    let run := exec (.registerFill s.slot.place n) s
    let u := s.slotUnit
    let ctx := s.slotCtx
    let va := s.saveVa n
    let lacks := s.slot.vcache.any (fun e => e.reg == n) = false
    let filled (t : State) (es : List VEntry) (v : Dword) : State := { t with slot := { t.slot with vcache := es ++ [⟨n, v, false⟩] } }
    let bad : Flt := { code := 0x03, addr := BitVec.ofNat 64 va, info := BitVec.ofNat 64 n }
    let stops := s.slot.passes i = true → s.slot.firstMissing i n = true → run = .next (s.raise bad)
    (s.slot.vcache.any (fun e => e.reg == n) = true → run = .next s) ∧
    (lacks → s.slot.vcache.length < 32 → s.slot.vsaved.getLsbD n = false → run = .next (filled s s.slot.vcache 0)) ∧
    (lacks → s.slot.vcache.length < 32 → s.slot.vsaved.getLsbD n = true → hvTarget (s.ctx ctx) va = none →
      (∀ t tr, translate s u ctx va = .ok (t, tr) →
        let r := t.mem.l1Read u ctx tr.pa 8
        (tr.kind = .mu → tr.r = true → r.2.2 = false → ∃ w, run = .next w ∧ w.slot = (filled s s.slot.vcache (BitVec.ofNat 64 r.2.1)).slot ∧
          w.slot.vreg? n = some (BitVec.ofNat 64 r.2.1) ∧ ∀ k, k ≠ n → w.slot.vreg? k = s.slot.vreg? k) ∧
        (tr.kind ≠ .mu ∨ tr.r = false ∨ r.2.2 = true → stops)) ∧
      (∀ f, translate s u ctx va = .error f → stops) ∧
      (s.slot.passes i = false → (∀ t, s.savedWord n ≠ .ok t) → run = .next s)) ∧
    (lacks → s.slot.vcache.length < 32 → s.slot.vsaved.getLsbD n = true → (hvTarget (s.ctx ctx) va).isSome = true →
      let answer := s.hvReplies.find? (fun r => r.ctx == ctx && r.va == va && r.write == false)
      (answer = none → run = .next s) ∧
      (∀ r, answer = some r → (r.code = 0 → ∃ w, run = .next w ∧ w.slot = (filled s s.slot.vcache (BitVec.ofNat 64 (bytesToNat r.bytes))).slot) ∧
        (r.code ≠ 0 → stops))) ∧
    (∀ e es, lacks → s.slot.vcache = e :: es → 32 ≤ s.slot.vcache.length →
      (e.dirty = false → s.slot.vsaved.getLsbD n = false → run = .next (filled s es 0)) ∧
      (∀ t, e.dirty = true → s.spill e.reg e.val = .ok t → s.slot.vsaved.getLsbD n = false → run = .next (filled t es 0)) ∧
      (∀ f, e.dirty = true → s.spill e.reg e.val = .error (.flt f) → s.slot.passes i = true → s.slot.firstMissing i n = true →
        run = .next (s.raise { code := 0x03, addr := BitVec.ofNat 64 (s.saveVa e.reg), info := BitVec.ofNat 64 e.reg })))

/-- Links between tasks: the oldest token under way enters the receiving buffer behind those it holds, and a slot freed there becomes
visible to the producer; no token is lost, doubled or reordered, and the two counts of a link of cap slots keep their sum (R42, R43). -/
def Sys2Proof.Claims.LinkTransfers : Prop :=
  ∀ (s : State) (c d : Coord) (k j : BitVec 3) (x y : Slot), c ≠ d → s.slotAt c = some x → s.slotAt d = some y →
    let p := x.outs[k.toNat]
    let q := y.ins[j.toNat]
    p.dst = some (.task d j) → p.cap ≠ 0 →
    (∀ t ts, p.flight = t :: ts → (t.kind ≠ .mrk .drn ∨ p.bridges = []) → ∃ u x' y', exec (.linkTokenArrival (.task c k)) s = .next u ∧
      u.slotAt c = some x' ∧ u.slotAt d = some y' ∧ x'.outs[k.toNat].flight = ts ∧ y'.ins[j.toNat].queue = q.queue ++ [t] ∧
      y'.ins[j.toNat].queue ++ x'.outs[k.toNat].flight = q.queue ++ p.flight ∧ x'.outs[k.toNat].credit = p.credit ∧
      y'.ins[j.toNat].freed = q.freed) ∧
    (p.flight = [] → exec (.linkTokenArrival (.task c k)) s = .next s) ∧
    (0 < q.freed → ∃ u x' y', exec (.slotFreeVisible (.task c k)) s = .next u ∧ u.slotAt c = some x' ∧ u.slotAt d = some y' ∧
      x'.outs[k.toNat].credit = p.credit + 1 ∧ y'.ins[j.toNat].freed = q.freed - 1 ∧ y'.ins[j.toNat].queue = q.queue ∧
      x'.outs[k.toNat].flight = p.flight) ∧
    (q.freed = 0 → exec (.slotFreeVisible (.task c k)) s = .next s)

/-- DRN crosses the die bridges of its link once no other token of the forme is under way on any of those bridge directions (R56). -/
def Sys2Proof.Claims.BridgeDrainComesLast : Prop :=
  ∀ (s : State) (c d : Coord) (k j : BitVec 3) (x y : Slot) (ts : List Tok), c ≠ d → s.slotAt c = some x → s.slotAt d = some y →
    let p := x.outs[k.toNat]
    p.dst = some (.task d j) → p.flight = ⟨0, .mrk .drn⟩ :: ts → p.bridges ≠ [] →
    let waits := ∃ e ∈ s.partEnds x.prt, ∃ r, s.outAt e = some r ∧ (∃ b ∈ r.bridges, b ∈ p.bridges) ∧ ∃ t ∈ r.flight, t.kind ≠ .mrk .drn
    (¬waits → ∃ u x' y', exec (.bridgeDrain (.task c k)) s = .next u ∧ u.slotAt c = some x' ∧ u.slotAt d = some y' ∧
      x'.outs[k.toNat].flight = ts ∧ y'.ins[j.toNat].queue = y.ins[j.toNat].queue ++ [⟨0, .mrk .drn⟩]) ∧
    (waits → exec (.bridgeDrain (.task c k)) s = .next s) ∧ exec (.linkTokenArrival (.task c k)) s = .next s

/-- Elastic stages: a sample activates the lowest parked replica after two full readings and marks the highest active one for parking
after two empty readings or two full outputs, while more than the floor are active (log entry 23); a marked replica parks when it is quiet; a whole firing is dealt to the next active replica, and the leaving firings are
collected in the order they were dealt (R50, R51). -/
def Sys2Proof.Claims.ElasticStages : Prop :=
  ∀ (s : State) (u g : Nat), (s.mt u).stages.any (fun x => x.1 == g) = true →
    let x := s.stage u g
    let occ := x.queue.queue.length
    (∃ t, exec (.elasticSample u g) s = .next t ∧ t = s.setStage u g x.sample ∧
      (∀ o f r, x.last = some (o, f) → 3 * x.cap ≤ 4 * occ → 3 * x.cap ≤ 4 * o → x.outFull = false →
        (List.range x.reps.length).find? (fun k => ((x.reps[k]?).map (fun y => !y.active)).getD false) = some r →
        x.sample.reps = x.reps.modify r (fun y => { y with active := true, park := false })) ∧
      (∀ o f, x.last = some (o, f) → ¬(3 * x.cap ≤ 4 * occ ∧ 3 * x.cap ≤ 4 * o ∧ x.outFull = false) →
        let low := (4 * occ ≤ x.cap ∧ 4 * o ≤ x.cap) ∨ (x.outFull = true ∧ f = true)
        (∀ r y, low → x.reps[r]? = some y → y.active = true → y.park = false → x.floor < x.live.length →
          (∀ k z, r < k → x.reps[k]? = some z → ¬(z.active = true ∧ z.park = false)) →
          x.sample.reps = x.reps.modify r (fun y => { y with park := true })) ∧
        (¬low ∨ x.live.length ≤ x.floor → x.sample.reps = x.reps)) ∧
      (x.last = none → x.sample.reps = x.reps) ∧ x.sample.last = some (occ, x.outFull)) ∧
    (∀ r y, x.reps[r]? = some y → y.active = true → y.park = true → s.replicaQuiet y = true →
      exec (.replicaPark u g r) s = .next (s.setStage u g { x with reps := x.reps.modify r (fun z => { z with active := false, park := false }) })) ∧
    (∀ r y, x.nextDeal = some r → x.reps[r]? = some y → y.need ≤ leading x.queue.queue → y.need ≤ y.deal.credit →
      exec (.elasticDeal u g) s = .next (s.setStage u g { x with
        queue := { x.queue with queue := x.queue.queue.drop y.need, freed := x.queue.freed + y.need },
        reps := x.reps.modify r (fun z => { z with deal := { z.deal with credit := z.deal.credit - y.need,
                                                                         flight := z.deal.flight ++ x.queue.queue.take y.need } }),
        deal := (r + 1) % 4, dealt := if x.leave.isSome then x.dealt ++ [r] else [] }) ∧
      y.active = true ∧ y.park = false) ∧
    (∀ r rs y c k p q out n ns, x.dealt = r :: rs → x.reps[r]? = some y → s.leavePort u g r y = some (c, k, p) → y.coll = some q →
      x.leave = some out → p.counts = n :: ns → exec (.elasticCollect u g) s = .next (s.collect u g r n q out c k p)) ∧
    (x.dealt = [] → exec (.elasticCollect u g) s = .next s)

/-! ### Drain -/

/-- Drain: a section's count expires when its source nodes have done their tiles; an idle task with DRN at the head of every bound
input passes DRN on and retires; islands, stream ports, elastic stages and syntax engines pass it on, and a section whose source nodes
all have, or which holds no node, is noted as one that has sent DRN (log entry 23); a drained unit writes its L1 back and reports; the last report applies the forme's
presence clears and ends the forme (R55 to R57, R205). -/
def Sys2Proof.Claims.DrainSteps : Prop :=
  ∀ (s : State) (p u : Nat), let q := s.part p
    let marked (t : State) (k : Nat) : State :=
      if t.sectDrn p k = true then { t with parts := tput {} t.parts p (q.setSect k { q.sect k with drn := true }) } else t
    q.phase = .run → twf {} s.parts = true →
    (∀ n < 4, (q.sect n).armed = true → (q.sect n).expired = false →
      let source (m : Nat) : Bool := !((s.isl m).cmd.bound || (s.isl m).feed.bound)
      let isls := s.sectIslands p n
      let counted := if s.sectPorts p n = [] ∧ isls.filter source = [] then isls else isls.filter source
      let done := (∀ k ∈ s.sectPorts p n, (s.port k.1 k.2).todo = 0) ∧ ∀ m ∈ counted, (s.isl m).todo = 0
      (done → exec (.sectionCountExpiry p n) s = .next (s.setPart p (q.setSect n
        { q.sect n with expired := true, drn := (q.sect n).drn || !s.sectHeld p n }))) ∧
      (¬done → exec (.sectionCountExpiry p n) s = .next s)) ∧
    (∀ c x, s.slotAt c = some x → x.prt = p →
      (x.st = .idle → (∃ k : Fin 8, x.ins[k].bound = true) → (∀ k : Fin 8, x.ins[k].bound = true → headDrn x.ins[k].queue = true) →
        (∀ k : Fin 8, x.outs[k].bound = true → x.outs[k].promised = 0 ∧ x.outs[k].cap ≠ 0 ∧ 0 < x.outs[k].credit) →
        ∃ t y, exec (.taskDrain c) s = .next t ∧ t.slotAt c = some y ∧ y.st = .retired ∧
          ∀ k : Fin 8, x.outs[k].bound = true → y.outs[k].flight = x.outs[k].flight ++ [⟨0, .mrk .drn⟩]) ∧
      (x.st ≠ .idle → exec (.taskDrain c) s = .next s)) ∧
    (∀ n, (s.isl n).prt = p → s.islandEnds n = true → exec (.engineDrain (.island n)) s = .next (marked (s.setIsl n { s.isl n with
      drn := true, draw := if (s.isl n).drawLnk then (s.isl n).draw.emit [⟨0, .mrk .drn⟩] else (s.isl n).draw }) (s.isl n).sect)) ∧
    (∀ n, s.islandEnds n = false → exec (.engineDrain (.island n)) s = .next s) ∧
    (∀ v k, s.endPart (.stream v k) = p → let x := s.port v k
      let ends := x.node = true ∧ x.drn = false ∧ x.todo = 0 ∧ x.out.canDrn = true ∧ s.sourceEnds p x.sect = true
      (ends → exec (.engineDrain (.stream v k)) s = .next (marked (s.setPort v k { x with
        drn := true, out := if x.out.bound then x.out.emit [⟨0, .mrk .drn⟩] else x.out }) x.sect)) ∧
      (¬ends → exec (.engineDrain (.stream v k)) s = .next s)) ∧
    (∀ v g, (s.mt v).stages.any (fun x => x.1 == g) = true → let x := s.stage v g
      (x.drn = false → headDrn x.queue.queue = true → (∀ y : Replica, y ∈ x.reps → y.deal.canDrn = true) →
        ∃ t, exec (.engineDrain (.stage v g)) s = .next t ∧ (t.stage v g).drn = true ∧ (t.stage v g).reps.length = x.reps.length ∧
          ∀ (r : Nat) (y : Replica), x.reps[r]? = some y → y.deal.bound = true →
            ∃ z : Replica, (t.stage v g).reps[r]? = some z ∧ z.deal.flight = y.deal.flight ++ [⟨0, .mrk .drn⟩]) ∧
      (x.drn = false → headDrn x.queue.queue = false → exec (.engineDrain (.stage v g)) s = .next (s.setStage v g x)) ∧
      (∀ out, x.drn = true → x.leave = some out → x.queue.queue ≠ [] → out.bound = true → out.canDrn = true →
        (∀ y : Replica, y ∈ x.reps → ∀ c, y.coll = some c → c.bound = true → headDrn c.queue = true) →
        ∃ t out', exec (.engineDrain (.stage v g)) s = .next t ∧ (t.stage v g).leave = some out' ∧
          out'.flight = out.flight ++ [⟨0, .mrk .drn⟩] ∧ (t.stage v g).queue.queue = [])) ∧
    (∀ e, (s.edgeEnds e = false → exec (.engineDrain (.edge e)) s = .next s) ∧
      (s.edgeEnds e = true → ∃ t, exec (.engineDrain (.edge e)) s = .next t ∧ (t.edge e).drn = true ∧
        ∀ ch out, (ch, out) ∈ (s.edge e).outs → out.bound = true →
          ∃ out', (ch, out') ∈ (t.edge e).outs ∧ out'.flight = out.flight ++ [⟨0, .mrk .drn⟩])) ∧
    (q.owed.contains u = true →
      let drained := if u < 768 then s.unitDrained u else if u < 832 then s.islandDrained (u - 768) else s.edgeDrained u
      (drained = true → ∃ t, exec (.tileDrained p u) s = .next t ∧
        t.mem = (if u < 768 then s.mem.l1DropAll u (fun _ => true) q.ctx else s.mem) ∧
        t.part p = { q with owed := q.owed.filter (fun v => v != u), toReport := q.toReport ++ [u] }) ∧
      (drained = false → exec (.tileDrained p u) s = .next s)) ∧
    (q.toReport.contains u = true → q.launch.isSome = true →
      let r := q.toReport.filter (fun v => v != u)
      ∃ t, exec (.drainReport p u) s = .next t ∧
        ((r ≠ [] ∨ q.owed ≠ []) → (t.part p).phase = .run ∧ (t.part p).toReport = r ∧ t.mem = s.mem) ∧
        (r = [] → q.owed = [] → (∀ x ∈ s.strms, ∀ e, x.engine = some e → e.1 ≠ p) →
          let covered (d : Nat) := ∃ c ∈ s.mem.clears, c.1 = p ∧ c.2.1 ≤ d ∧ d < c.2.1 + c.2.2
          (∀ d, covered d → t.mem.isPresent d = false) ∧ (∀ d, ¬covered d → t.mem.isPresent d = s.mem.isPresent d) ∧
          ∀ c ∈ t.mem.clears, c.1 ≠ p) ∧
        (r = [] → q.owed = [] → q.record.getLsbD 96 = true → (t.part p).phase = .ended) ∧
        (r = [] → q.owed = [] → q.record.getLsbD 96 = false → q.preempt = false → (t.part p).phase = .read ∧ (t.part p).ridx = q.ridx + 1) ∧
        (r = [] → q.owed = [] → q.record.getLsbD 96 = false → q.preempt = true → (t.part p).phase = .idle ∧ (t.part p).launch = none))

/-! ### Waiting requests, caches and translations -/

/-- A performed request reaches its slot, which writes its destination and retires (its sources were consumed at issue, R225), or, where
it met an uncorrectable error, takes the memory error; one that still waits stays. A refused request takes a place when there is
room, a read of a granule that has come being performed at once, and else waits twice as long, at most 4,096 ns (R204, R207, R208). -/
def Sys2Proof.Claims.WaitingRequests : Prop :=
  ∀ (s : State) (c : Coord) (x : Waiter), s.waiterOf c = some x →
    let rest := s.mem.waits.filter (fun w => w.place != c)
    let m : Mem := { s.mem with waits := rest }
    let y : Slot := { s.slot with busy := false }
    (∀ (vs : List Dword), x.done = some vs → x.err = false → vs.length ≤ 1 → s.slot.at c = true →
      let t : State := { s with mem := m, slot := y }
      exec (.memoryAccessComplete c) s = .next { (if x.what = .ldp then t.crossEdge x.addr else t) with
        slot := match vs with
          | [] => (y.retire x.op).owe x.what.cls 1
          | v :: _ => wrote y x.op v x.what.cls }) ∧
    (∀ vs, x.done = some vs → x.err = true → exec (.memoryAccessComplete c) s = .next (s.raiseAt c { code := 0x25, addr := x.ea })) ∧
    (x.done = none → exec (.memoryAccessComplete c) s = .next s) ∧
    (x.refused = none → exec (.deferralRetry c) s = .next s) ∧
    (∀ b, x.refused = some b → m.hasRoom { x with refused := none } = false →
      exec (.deferralRetry c) s = .next { s with mem := { s.mem with waits := rest ++ [{ x with refused := some (min 4096 (2 * b)) }] } }) ∧
    (∀ b, x.refused = some b → m.hasRoom { x with refused := none } = true →
      ∃ t : State, exec (.deferralRetry c) s = .next t ∧ t.slot = s.slot ∧
        (∀ w ∈ t.mem.waits, w.place = c → w.refused = none ∧ w.op = x.op ∧ w.what = x.what ∧ w.addr = x.addr ∧ w.data = x.data) ∧
        (x.what = .ldp → s.mem.isPresent (x.addr / 8) = true → ∀ w ∈ t.mem.waits, w.place = c →
          (s.mem.homeBad x.addr = true → w.done = some [] ∧ w.err = true) ∧
          (s.mem.homeBad x.addr = false → Coherent s.mem → w.done =
            some [ldpValue (ldpType x.op) x.width (x.addr % 8) (bytesToNat (s.mem.homeBytes (x.addr / 8 * 8) 8))])))

namespace Sys2Proof.Claims

/-- The next record of a partition's ring is written at once: none is held and its slot is absent. -/
def RingFree (s : State) (p : Nat) : Prop :=
  (s.part p).ring.held = [] ∧ (s.part p).ring.blocked s.mem (s.part p).ring.head = false

end Sys2Proof.Claims

/-- An evicted line is gone: its dirty bytes stand at its home, every other byte reads there as before, and a dirty line with an
uncorrectable error leaves its home line poisoned and is told of in a record charged to the context of its tag, 0x12 (R206, R209, R277). -/
def Sys2Proof.Claims.EvictionWritesBack : Prop :=
  ∀ (s : State) (line : Nat) (l : Line) (bad : Bool), Coherent s.mem →
    (∀ u, s.mem.l1At u line = some l → ∃ t : State, exec (.l1Eviction (.l1 u) line bad) s = .next t ∧ Coherent t.mem ∧
      t.mem.l1At u line = none ∧
      (∀ pa, t.mem.homeByte pa =
        if pa / 128 = line ∧ l.dirty.getLsbD (pa % 128) = true then lineByte l.data (pa % 128) else s.mem.homeByte pa) ∧
      (∀ v k, (v, k) ≠ (u, line) → t.mem.l1At v k = s.mem.l1At v k) ∧
      (l.dirty ≠ 0 → bad = true ∨ l.bad ≠ 0 → (∀ i, i < 128 → t.mem.homeBad (128 * line + i) = true) ∧
        MemNote.poisoned line l.ctx (s.unitCtx u) ∈ t.mem.notes)) ∧
    (s.mem.l2At line = some l → ∃ t : State, exec (.l1Eviction .l2 line bad) s = .next t ∧ Coherent t.mem ∧ t.mem.l2At line = none ∧
      (∀ pa, t.mem.homeByte pa = s.mem.homeByte pa) ∧ t.mem.l1 = s.mem.l1 ∧
      (∀ pa, tget 0 t.mem.hbm pa =
        if pa / 128 = line ∧ l.dirty.getLsbD (pa % 128) = true then lineByte l.data (pa % 128) else tget 0 s.mem.hbm pa) ∧
      (l.dirty ≠ 0 → bad = true ∨ s.mem.homeBad (128 * line) = true → t.mem.homeBad (128 * line) = true ∧
        ∃ req, MemNote.poisoned line l.ctx req ∈ t.mem.notes)) ∧
    (∀ u, s.mem.l1At u line = none → exec (.l1Eviction (.l1 u) line bad) s = .next s) ∧
    (s.mem.l2At line = none → exec (.l1Eviction .l2 line bad) s = .next s) ∧
    (∀ c p req, s.ctxPart c = some p → RingFree s p → twf {} s.parts = true → let t := s.takeNote (.poisoned line c req)
      (t.part p).ring.head = (s.part p).ring.head + 1 ∧
      ∀ i, i < 8 → t.mem.isPresent ((s.part p).ring.slotPa (s.part p).ring.head / 8 + i) = true)

/-- The caches stay coherent with HBM: whatever moves a line leaves every byte that an L2 copy has not changed as HBM holds it, and the
memory after reset has it so (R206, R209). -/
def Sys2Proof.Claims.CachesStayCoherent : Prop :=
  Coherent State.reset.mem ∧
  ∀ (m : Mem) (u c line req n v : Nat) (bad : Bool) (l : Line) (sel : Line → Bool) (bs : List Byte), Coherent m →
    Coherent (m.l2Flush line) ∧ Coherent (m.l2Evict line bad req) ∧ Coherent (m.l2Sync c line) ∧ Coherent (m.l2Fill c line) ∧
    Coherent (m.homePut c n bs) ∧ Coherent (m.physPut n bs) ∧ Coherent (m.woPut n v) ∧ Coherent (m.l1WriteBack l req) ∧
    Coherent (m.l1Clean u line req) ∧ Coherent (m.l1Drop u line req) ∧ Coherent (m.l1DropAll u sel req) ∧ Coherent (m.l1Trim u n req) ∧
    Coherent (m.l1Fill u c line) ∧ Coherent (m.l1Read u c n v).1 ∧ Coherent (m.l1Write u c n bs) ∧ Coherent (m.applyClears n)

namespace Sys2Proof.Claims

/-- Whether TLBINV of value `v` names a TLB entry (R281): its context is CTX, and SPAN is 37 or more or the entry's page meets the
aligned range of 2^SPAN pages of 64 KiB that holds VA. -/
def named (v : Dword) (e : Tlbe) : Prop :=
  let span := v.toNat / 16 % 64
  let n := 2 ^ (16 + span)
  let a := v.toNat % 2 ^ 52 / n * n
  e.ctx = v.toNat / 2 ^ 52 ∧ (37 ≤ span ∨ (a < e.base + 2 ^ e.bits ∧ e.base < a + n))

end Sys2Proof.Claims

/-- A walk leaves the unit with a translation that answers the same access again, without a walk; an invalidation drops the entries it
names and no other, in every TLB, and the writes of TLBINV take effect one after the other, but none after a failed boot or a
thermal trip (R262, R263, R281, R424, R427). -/
def Sys2Proof.Claims.WalksAndInvalidations : Prop :=
  (∀ (s t : State) (u ctx : Nat) (va : Dword) (tr : Tr), translate s u ctx va.toNat = .ok (t, tr) →
    exec (.pageWalk u ctx va) s = .next t ∧ translate t u ctx va.toNat = .ok (t, tr)) ∧
  (∀ (s : State) (u ctx : Nat) (va : Dword) (f : Flt), translate s u ctx va.toNat = .error f →
    exec (.pageWalk u ctx va) s = .next s) ∧
  (∀ (s : State) (v : Dword), (s.deaf = true → exec (.tlbinvWrite v) s = .next s) ∧ (s.deaf = false →
    (s.sys.tlbBusy = none → exec (.tlbinvWrite v) s = .next { s with sys := { s.sys with tlbBusy := some v } }) ∧
    (∀ w, s.sys.tlbBusy = some w → exec (.tlbinvWrite v) s = .next { s with sys := { s.sys with tlbHeld := s.sys.tlbHeld ++ [v] } }))) ∧
  (∀ (s : State) (v : Dword), s.sys.tlbBusy = some v → s.invPending v = false → twf [] s.mem.mtTlb = true →
    twf [] s.mem.dieTlb = true → ∃ t : State, exec .tlbInvalidateComplete s = .next t ∧
      (∀ u e, e ∈ tget [] t.mem.mtTlb u ↔ e ∈ tget [] s.mem.mtTlb u ∧ ¬named v e) ∧
      (∀ d e, e ∈ tget [] t.mem.dieTlb d ↔ e ∈ tget [] s.mem.dieTlb d ∧ ¬named v e) ∧
      t.sys = { s.sys with tlbBusy := s.sys.tlbHeld.head?, tlbHeld := s.sys.tlbHeld.tail })

/-! ### Engine commands -/

namespace Sys2Proof.Claims

/-- A command in hand at its engine, with the slot that issued it in focus and no earlier command owing a token to its port. -/
def InService (s : State) (c : Cmd) (k : BitVec 3) : Prop :=
  s.cmds.find? (fun x => x.id == c.id) = some c ∧ c.done = none ∧ c.port = some k ∧ s.slot.at c.place = true ∧
  s.cmds.filter (fun x => x.owes c.place k) = [c]

/-- The slot that receives the completion token of its command. -/
def Informed (s t : State) (k : BitVec 3) (v : Dword) : Prop :=
  t.slot.outs[k.toNat].flight = s.slot.outs[k.toNat].flight ++ [⟨v, .elem⟩] ∧
  t.slot.outs[k.toNat].promised = s.slot.outs[k.toNat].promised - 1

end Sys2Proof.Claims

/-- A command completes at its engine: a copy moves the bytes it read before it wrote any, within scratchpads, out of memory or into it,
and publishes its ring slot; TCHUCK, TFEED and TDRAW act on the array; a
completion token is sent on D; a command that cannot be performed yet stays, and one that meets a fault is abandoned with
it (R210, R248, R249, R256, R354 to R356). -/
def Sys2Proof.Claims.EngineCommands : Prop :=
  ∀ (s : State) (c : Cmd) (k : BitVec 3), InService s c k →
    let run := exec (.engineCommandComplete c.id) s
    let ctx := (s.part c.prt).ctx
    (∀ dst src n du d su o pub, c.kind = .cpy dst src n true true pub false → s.cmdSp c src n = .ok (su, o) →
      s.cmdSp c dst n = .ok (du, d) → s.mem.spBad su o n = false → twf 0 s.mem.sram = true →
      ∃ t : State, run = .next t ∧ Informed s t k (BitVec.ofNat 64 n) ∧ t.mem.hbm = s.mem.hbm ∧
        (∀ a, tget 0 t.mem.sram a = if spAddr du d ≤ a ∧ a < spAddr du d + n
          then tget 0 s.mem.sram (spAddr su o + (a - spAddr du d)) else tget 0 s.mem.sram a) ∧
        (∀ h i, pub = true → s.cmdSp c dst 0 = .ok (du, d) → (s.mt du).fillingSlot d = some (h, i) → s.mem.waits = [] →
          twf {} s.mts = true → twf {} (s.mt du).side = true → ((t.mt du).sideOf h i).st = .full)) ∧
    (∀ dst src n du d t1 bs bad, c.kind = .cpy dst src n true false false false → engRead s c.unit ctx src.toNat n = .ok (t1, bs, bad) →
      t1.cmdSp c dst n = .ok (du, d) → bad.any id = false → twf 0 s.mem.sram = true →
      ∃ t : State, run = .next t ∧ Informed s t k (BitVec.ofNat 64 n) ∧ t.mem.hbm = t1.mem.hbm ∧
        ∀ a, tget 0 t.mem.sram a = if spAddr du d ≤ a ∧ a < spAddr du d + n then bs.getD (a - spAddr du d) 0 else tget 0 s.mem.sram a) ∧
    (∀ dst src n su o t1, c.kind = .cpy dst src n false true false false → s.cmdSp c src n = .ok (su, o) → s.mem.spBad su o n = false →
      engWrite s c.unit ctx dst.toNat (readBytes s.mem.sram (spAddr su o) n) = (t1, none) →
      ∃ t : State, run = .next t ∧ Informed s t k (BitVec.ofNat 64 n) ∧ t.mem = t1.mem) ∧
    (∀ dst src n t1 t2 bs bad, c.kind = .cpy dst src n false false false false → engRead s c.unit ctx src.toNat n = .ok (t1, bs, bad) →
      bad.any id = false → engWrite t1 c.unit ctx dst.toNat bs = (t2, none) →
      ∃ t : State, run = .next t ∧ Informed s t k (BitVec.ofNat 64 n) ∧ t.mem = t2.mem) ∧
    (∀ a bs, c.kind = .tchuck a → s.ternFirst c = true → s.ternRead c a 205 = .ok bs → twf {} s.terns = true →
      ((∀ x ∈ bs, x.toNat < 243) → ∃ t : State, run = .next t ∧ Informed s t k 1024 ∧ (t.tern c.unit).acc = (s.tern c.unit).acc ∧
        ∀ i, i < 1024 → tget 0 (t.tern c.unit).trits i = (bs.getD (i / 5) 0).toNat / 3 ^ (i % 5) % 3) ∧
      (∀ i, i < 205 → 243 ≤ (bs.getD i 0).toNat → (∀ j, j < i → (bs.getD j 0).toNat < 243) →
        run = .next (s.failCmd c (s.ctImgc c.prt c.unit 2) { code := 0x49, addr := a + BitVec.ofNat 64 i, info := 1 }))) ∧
    (∀ a row0 cnt sat bs, c.kind = .tfeed a row0 cnt sat → s.ternFirst c = true → s.ternRead c a (32 * cnt) = .ok bs →
      twf 0 (s.tern c.unit).acc = true → twf {} s.terns = true → ∃ t : State, run = .next t ∧ Informed s t k (BitVec.ofNat 64 cnt) ∧
        (t.tern c.unit).trits = (s.tern c.unit).trits ∧ ∀ r n, n < 32 → tget 0 (t.tern c.unit).acc (32 * r + n) =
          if row0 ≤ r ∧ r < row0 + cnt
          then ternSum sat (s.tern c.unit).trits ((bs.drop (32 * (r - row0))).take 32) n (tget 0 (s.tern c.unit).acc (32 * r + n))
          else tget 0 (s.tern c.unit).acc (32 * r + n)) ∧
    (∀ a row0 cnt clr u o, c.kind = .tdraw a row0 cnt clr → s.ternFirst c = true → s.cmdSp c a (128 * cnt) = .ok (u, o) →
      twf 0 s.mem.sram = true → twf 0 (s.tern c.unit).acc = true → twf {} s.terns = true → ∃ t : State, run = .next t ∧ Informed s t k (BitVec.ofNat 64 cnt) ∧
        (∀ i n, i < cnt → n < 32 → t.mem.spGet u (o + 128 * i + 4 * n) 4 = (tget 0 (s.tern c.unit).acc (32 * (row0 + i) + n)).toNat) ∧
        ∀ r n, n < 32 → tget 0 (t.tern c.unit).acc (32 * r + n) =
          if clr = true ∧ row0 ≤ r ∧ r < row0 + cnt then 0 else tget 0 (s.tern c.unit).acc (32 * r + n)) ∧
    (∀ h va n eos, c.kind = .sxfeed h va n eos → ∃ t : State, run = .next t ∧ Informed s t k (BitVec.ofNat 64 n)) ∧
    (doCmd s c = .error .absent → run = .next s) ∧
    (∀ f, doCmd s c = .error (.flt f) → fltClass f.code = 2 → ∃ t : State, run = .next t ∧ (t.part c.prt).phase = .ended ∧
      t.cmds.all (fun x => x.id != c.id && x.prt != c.prt) = true)

/-! ### Faults -/

/-- A suspend-and-save fault of a data task and the return from it: the record takes the ring's next number, the task leaves the issue
choice with its registers as they were and the tokens that a waiting request of it had consumed back at the heads of their ports,
and the write of that number to FRESUME, and of no other, makes it issue its instruction again, but no write does after a failed
boot or a thermal trip (R257, R267 to R269, R424, R427). -/
def Sys2Proof.Claims.SuspendAndResume : Prop :=
  ∀ (s : State) (f : Flt) (v : Dword), let p := s.slot.prt
    let seq := (s.part p).ring.head
    let own := s.mem.waits.filter (fun w => w.place == s.slot.place)
    let x : Slot := own.foldl (fun x w => x.untake w.took) s.slot
    fltClass f.code = 0 → s.slot.ctl = false → s.slot.st = .firing → RingFree s p → twf {} s.parts = true →
    let t := s.raise f
    t.slot = { x with st := .suspended, busy := false, faultSeq := some seq } ∧ t.canIssue = false ∧ (own = [] → x = s.slot) ∧
    (∀ w, own = [w] → ∀ k : Fin 8, x.ins[k].queue = w.took.getD k [] ++ s.slot.ins[k].queue ∧ x.phys = s.slot.phys ∧ x.outs = s.slot.outs) ∧
    (t.part p).ring.head = seq + 1 ∧ (t.part p).ring.held = [] ∧ t.pes = s.pes ∧ t.others = s.others ∧
    (∀ i, i < 8 → t.mem.isPresent ((s.part p).ring.slotPa seq / 8 + i) = true) ∧
    (∀ w ∈ t.mem.waits, w.place ≠ s.slot.place) ∧
    (s.deaf = true → exec (.fresumeWrite p v) t = .next t) ∧
    (s.deaf = false → s.others = [] → (s.part p).restore = none → s.lqs = [] →
      (v.setWidth 32 = seq → exec (.fresumeWrite p v) t =
        .next { t with slot := { x with busy := false, faultSeq := none, resume := false } }) ∧
      (v.setWidth 32 ≠ seq → exec (.fresumeWrite p v) t = .next t))

/-- A fatal fault of a task stops its context: the record is written, no slot, command or request of the partition is left, CTXST.STOP
is set; the tasks of other partitions stay as they are (R264, R279). -/
def Sys2Proof.Claims.FatalFaultStopsTheContext : Prop :=
  ∀ (s : State) (f : Flt), let p := s.slot.prt
    fltClass f.code = 2 → s.slot.st ≠ .noTask → RingFree s p → twf {} s.parts = true →
    let t := s.raise f
    (t.part p).phase = .ended ∧ (t.part p).stopCode = true ∧ (t.ctx (s.part p).ctx).stop = true ∧
    (∀ x ∈ t.slots, x.prt ≠ p) ∧ (∀ x ∈ t.cmds, x.prt ≠ p) ∧ (∀ w ∈ t.mem.waits, ∀ x ∈ s.slots, x.prt = p → w.place ≠ x.place) ∧
    (t.part p).ring.head = (s.part p).ring.head + 1 ∧
    (∀ i, i < 8 → t.mem.isPresent ((s.part p).ring.slotPa (s.part p).ring.head / 8 + i) = true) ∧
    (∀ x ∈ s.others, x.prt ≠ p → x ∈ t.others)

/-- The registers of a fault ring and of the device log: a write of the base empties the ring, a write of the tail within the records
written clears the presence of the records consumed and of no other granule, and one beyond them is ignored, as every write is after
a failed boot or a thermal trip (R267, R424, R427, R428). -/
def Sys2Proof.Claims.FaultRingRegisters : Prop :=
  ∀ (s : State) (p : Nat) (v : Dword), let r := (s.part p).ring
    let l := s.sys.dlog
    let cleared (r : FRing) (g : Nat) : Prop :=
      ∃ i, i < (v.setWidth 32 - r.tail).toNat ∧ r.slotPa (r.tail + BitVec.ofNat 32 i) / 8 ≤ g ∧ g < r.slotPa (r.tail + BitVec.ofNat 32 i) / 8 + 8
    let within (r : FRing) : Prop := (v.setWidth 32 - r.tail).toNat ≤ (r.head - r.tail).toNat
    twf {} s.parts = true →
    (s.deaf = true → ∀ i ∈ [Instr.frbaseWrite p v, .frtailWrite p v, .dlbaseWrite v, .dltailWrite v], exec i s = .next s) ∧ (s.deaf = false →
    (r.held = [] → ∃ t : State, exec (.frbaseWrite p v) s = .next t ∧ t.mem = s.mem ∧
      (t.part p).ring = { r with base := v.toNat / 2 ^ 12 % 2 ^ 40 * 2 ^ 12, head := 0, tail := 0 }) ∧
    (r.held = [] → within r → (r.head - r.tail).toNat ≤ 2 ^ r.n → ∃ t : State, exec (.frtailWrite p v) s = .next t ∧
      (t.part p).ring = { r with tail := v.setWidth 32 } ∧
      ∀ g, (cleared r g → t.mem.isPresent g = false) ∧ (¬cleared r g → t.mem.isPresent g = s.mem.isPresent g)) ∧
    (¬within r → exec (.frtailWrite p v) s = .next (s.setPart p (s.part p))) ∧
    (l.held = [] → ∃ t : State, exec (.dlbaseWrite v) s = .next t ∧ t.mem = s.mem ∧
      t.sys = { s.sys with dlog := { l with base := v.toNat / 2 ^ 3 % 2 ^ 49 * 2 ^ 3, head := 0, tail := 0 } }) ∧
    (l.held = [] → within l → (l.head - l.tail).toNat ≤ 2 ^ l.n → ∃ t : State, exec (.dltailWrite v) s = .next t ∧
      t.sys = { s.sys with dlog := { l with tail := v.setWidth 32 } } ∧
      ∀ g, (cleared l g → t.mem.isPresent g = false) ∧ (¬cleared l g → t.mem.isPresent g = s.mem.isPresent g)) ∧
    (¬within l → exec (.dltailWrite v) s = .next s))

/-- A VF reset stops the function's partitions, returns its queues, drops the lines and translations of its contexts and sets RSTS.DONE; a
dirty line is dropped unwritten: where no launch is to return and the L1s hold only lines of its contexts, HBM is as before (R280). That
a returned queue has HEAD at PROD is log entry 19. -/
def Sys2Proof.Claims.VfResetClearsTheFunction : Prop :=
  ∀ (s : State) (f : Nat), (s.deaf = true → exec (.vfReset f) s = .next s) ∧
    (s.deaf = false → twf {} s.parts = true → twf {} s.lqs = true → (∀ w, (s.rwin w).on = false) →
    ∃ t : State, exec (.vfReset f) s = .next t ∧ tget false t.sys.rsts f = true ∧
      (∀ p, (s.part p).en = true → (s.part p).fn = f → (t.part p).phase = .idle ∧ (t.part p).launch = none ∧
        ∀ x ∈ t.slots, x.prt ≠ p) ∧
      (∀ n, n < 8 → (t.lq f n).head = (s.lq f n).prod ∧ (t.lq f n).prod = (s.lq f n).prod ∧ (t.lq f n).kept = none) ∧
      ((∀ n, n < 8 → (s.lq f n).prod = (s.lq f n).head) → (∀ x ∈ s.mem.l1, x.ctx ∈ s.ctxsOf f) → t.mem.hbm = s.mem.hbm) ∧
      (∀ c ∈ s.ctxsOf f, (∀ x ∈ t.mem.l1, x.ctx ≠ c) ∧ (∀ x ∈ t.mem.l2, x.ctx ≠ c) ∧ (∀ x ∈ t.strms, x.ctx ≠ c) ∧
        (∀ u, ∀ e ∈ tget [] t.mem.mtTlb u, e.ctx ≠ c) ∧ (∀ d, ∀ e ∈ tget [] t.mem.dieTlb d, e.ctx ≠ c)))

/-- An error is counted at its unit and poisons the scratchpad words it names; the eighth within a second fences the unit out of its
partition, and UNFENCE brings a fenced unit that is present back (R277, R278, R418, R429). -/
def Sys2Proof.Claims.UnitErrorsFence : Prop :=
  (∀ (s : State) (u : Nat) (words : List Nat),
    let now := s.timer.toNat
    let es := (s.unitSt u).errors.filter (fun e => now < e + 16 * 10 ^ 9) ++ [now]
    (∀ p, s.holder u = some p → (s.part p).phase = .idle) → twf {} s.parts = true →
    ∃ t : State, exec (.unitError u words) s = .next t ∧ (t.unitSt u).errors = es ∧
      (∀ w ∈ words, u < 768 → w < 2 ^ 19 → tget false t.mem.badWord (spAddr u 0 / 4 + w) = true) ∧
      (es.length < 8 → (t.unitSt u).fenced = (s.unitSt u).fenced) ∧
      (8 ≤ es.length → (t.unitSt u).fenced = true) ∧
      (8 ≤ es.length → (s.unitSt u).fenced = false → ∀ p, s.holder u = some p → (t.part p).has u = false)) ∧
  (∀ (s : State) (v : Dword), let u := v.toNat % 1024
    (s.deaf = true → exec (.unfenceWrite v) s = .next s) ∧
    (s.deaf = false → (s.unitSt u).fenced = true → (s.unitSt u).absent = false → twf {} s.sys.units = true → ∃ t : State, exec (.unfenceWrite v) s = .next t ∧
      t.unitSt u = { s.unitSt u with fenced := false, errors := [] }) ∧
    ((s.unitSt u).fenced = false ∨ (s.unitSt u).absent = true → exec (.unfenceWrite v) s = .next s))

/-! ### The host's accesses -/

/-- A register write of a physical function (R411 to R414): the place of a register gives its meaning, reserved bits and values out of
range are dropped, a half write leaves the other half, but one of the reserved half of FRESUME or UNFENCE does nothing, W1C bits clear
where 1 is written, and an access of another width or alignment, or before the functions stand on the links, is ignored. A read gives
a register or its half, zero where none stands or for another access, and after a failed boot BOOTST alone (R424). That a write has
its effect only once the functions stand on the links is log entry 20. -/
def Sys2Proof.Claims.RegisterWrites : Prop :=
  ∀ (s : State) (f : Nat) (v : Dword),
    let wr (off width : Nat) := exec (.registerWrite f off width v) s
    (s.presented = true → f < 2 → ∀ c, c < 4096 → let o := 0x1000000 + 0x400 * c
      let x := s.ctx c
      wr o 8 = .next (s.setCtx c { x with root := v.toNat / 2 ^ 12 % 2 ^ 40 * 2 ^ 12 }) ∧
      wr (o + 4) 4 = .next (s.setCtx c { x with root := v.toNat % 2 ^ 20 * 2 ^ 32 + x.root % 2 ^ 32 / 2 ^ 12 * 2 ^ 12 }) ∧
      wr (o + 0x28) 8 = .next (s.setCtx c { x with stop := x.stop && !v.getLsbD 0, hwign := x.hwign && !v.getLsbD 1 }) ∧
      wr (o + 0x38) 8 = exec (.ctxfnWrite c v) s ∧
      (s.ctxResident c = true → wr (o + 0x08) 8 = .next (s.setCtx c { x with hwign := true })) ∧
      (s.ctxResident c = false → wr (o + 0x08) 8 = .next (s.setCtx c { x with hbase := v.toNat / 2 ^ 16 % 2 ^ 36 }))) ∧
    (s.presented = true → f < 2 → ∀ m, m < 256 → let o := 0x2000000 + 0x1000 * m
      let q := s.part m
      wr (o + 0x08) 8 = exec (.frbaseWrite m v) s ∧ wr (o + 0x20) 8 = exec (.frtailWrite m v) s ∧
      wr (o + 0x30) 8 = exec (.fresumeWrite m v) s ∧ wr (o + 0x34) 4 = .next s ∧
      (∀ j, j < 14 → wr (o + 0x200 + 8 * j) 8 = exec (.prtunitWrite m j v) s) ∧
      (10 ≤ v.toNat % 2 ^ 14 → v.toNat % 2 ^ 14 ≤ 10000 → wr (o + 0x58) 8 = .next (s.setPart m { q with drlim := v.toNat % 2 ^ 14 })) ∧
      (v.toNat % 2 ^ 14 < 10 ∨ 10000 < v.toNat % 2 ^ 14 → wr (o + 0x58) 8 = .next s)) ∧
    (s.presented = true → f < 2 → ∀ g q, g < 514 → q < 8 → wr (0x3000000 + 0x200 * g + 0x40 * q) 8 =
      .next (s.setLq g q { s.lq g q with base := v.toNat / 2 ^ 12 % 2 ^ 40 * 2 ^ 12 })) ∧
    (s.presented = true → f < 2 → wr 0x28 8 = exec (.timesetWrite v) s ∧ wr 0x30 8 = exec (.tlbinvWrite v) s ∧
      wr 0x58 8 = exec (.unfenceWrite v) s ∧ wr 0x5C 4 = .next s ∧ wr 0x78 8 = exec (.tepochWrite v none) s ∧ wr 0x08 8 = exec (.pcapWrite v) s ∧
      wr 0x100 8 = exec (.dlbaseWrite v) s ∧ wr 0x118 8 = exec (.dltailWrite v) s ∧ wr 0x00 8 = .next s) ∧
    (s.presented = true → 2 ≤ f → ∀ i c, (s.ctxsOf f)[i]? = some c → i < 8 → let o := 0x1000 + 0x400 * i
      wr o 8 = .next (s.setCtx c { s.ctx c with root := v.toNat / 2 ^ 12 % 2 ^ 40 * 2 ^ 12 }) ∧ wr (o + 0x38) 8 = .next s) ∧
    (∀ off width, s.presented = false ∨ (width ≠ 4 ∧ width ≠ 8) ∨ off % width ≠ 0 → wr off width = .next s) ∧
    (∀ off width, (width ≠ 4 ∧ width ≠ 8) ∨ off % width ≠ 0 → s.regRead f off width = 0) ∧
    (s.presented = true → ∀ off, off % 8 = 0 → (s.regAt f off = none → s.regRead f off 8 = 0) ∧
      (∀ r, s.regAt f off = some r → s.regRead f off 8 = BitVec.ofNat 64 (s.regValue r)) ∧
      (s.regRead f off 4).toNat = (s.regRead f off 8).toNat % 2 ^ 32 ∧
      (s.regRead f (off + 4) 4).toNat = (s.regRead f off 8).toNat / 2 ^ 32) ∧
    (s.presented = false → ∀ off, s.regRead f off 8 = if s.sys.bootErr ≠ 0 ∧ f = 0 ∧ off = 0 then BitVec.ofNat 64 (s.pkgValue 0) else 0)

/-- CTXFN makes a context live with %seed 0 and gives it an owner, but a VF's ninth context; PRTUNIT takes the units that are neither
fenced out nor another partition's, while the partition is not busy; neither acts after a failed boot or a thermal trip (R35, R417,
R424, R427). -/
def Sys2Proof.Claims.OwnershipRegisters : Prop :=
  (∀ (s : State) (c : Nat) (v : Dword), let x := s.ctx c
    let f := v.toNat % 2 ^ 10
    let others := (s.ctxsOf f).filter (fun d => d != c)
    (s.deaf = true → exec (.ctxfnWrite c v) s = .next s) ∧ (s.deaf = false →
    (v.getLsbD 63 = true → x.en = false → (f < 2 ∨ others.length < 8) →
      exec (.ctxfnWrite c v) s = .next (s.setCtx c { x with en := true, fn := f, seed := 0, seedNew := [] })) ∧
    (v.getLsbD 63 = true → x.en = true → (f < 2 ∨ others.length < 8) →
      exec (.ctxfnWrite c v) s = .next (s.setCtx c { x with fn := f })) ∧
    (v.getLsbD 63 = true → 2 ≤ f → 8 ≤ others.length → exec (.ctxfnWrite c v) s = .next s) ∧
    (v.getLsbD 63 = false → exec (.ctxfnWrite c v) s = .next (s.setCtx c { x with en := false, fn := f })))) ∧
  (∀ (s : State) (p j : Nat) (v : Dword), let q := s.part p
    (q.isBusy = true ∨ s.deaf = true → exec (.prtunitWrite p j v) s = .next s) ∧
    (s.deaf = false → q.isBusy = false → j < 14 → twf {} s.parts = true → ∃ t : State, exec (.prtunitWrite p j v) s = .next t ∧
      (∀ b, b < 64 → (t.part p).has (64 * j + b) =
        (v.getLsbD b && !(s.unitSt (64 * j + b)).fenced && s.parts.all (fun x => x.1 == p || !x.2.has (64 * j + b)))) ∧
      (∀ u, u / 64 ≠ j → (t.part p).has u = q.has u) ∧ (∀ m, m ≠ p → t.part m = s.part m)))

/-- A read of LQRESV of 8 bytes allocates the next index of a queue that is not full and returns it, and else bit 63; a narrower read
allocates nothing, nor does any before the functions stand on the links (R384, R424). Through BAR2 the host reads at a physical address what its home holds,
and at a virtual address too, where it is translated; a byte that cannot be read is a completer abort, which leaves no record. What it
writes at a physical address it reads back there, and no other byte changes; a write to an absent WO granule writes it once (R203,
R415). -/
def Obligations.HostAccesses : Prop :=
  (∀ (s : State) (f n : Nat), s.presented = true → let q := s.lq f n
    let told (t : State) (v : Dword) : State := { t with sys := { t.sys with reply := some (f, v) } }
    n < 8 →
    (q.full = false → exec (.lqresvRead f n 8) s = .next (told (s.setLq f n { q with prod := q.prod + 1 }) (q.prod.setWidth 64))) ∧
    (q.full = true → exec (.lqresvRead f n 8) s = .next (told (s.setLq f n q) (1#64 <<< 63))) ∧
    (∀ w, w ≠ 8 → exec (.lqresvRead f n w) s = .next (told s 0))) ∧
  (∀ (s : State) (f n w : Nat), s.presented = false → n < 8 →
    exec (.lqresvRead f n w) s = .next { s with sys := { s.sys with reply := some (f, 0) } }) ∧
  (∀ (s : State) (f off : Nat) (data : List Byte), s.presented = true → f < 2 → (tget 0 s.sys.pfwin 0).getLsbD 1 = false →
    let pa := (tget 0 s.sys.pfwin 0).toNat / 2 ^ 30 % 2 ^ 22 * 2 ^ 30 + off
    off + data.length ≤ 2 ^ 39 → pa + data.length ≤ 2 ^ 39 → (∀ i, i < data.length → s.mem.homeBad (pa + i) = false) →
    ∃ t u : State, exec (.hostBar2Write f off data) s = .next t ∧ exec (.hostBar2Read f off data.length) t = .next u ∧
      u.sys.barRead = some (f, some data) ∧ u.mem = t.mem ∧
      (∀ a, a < pa ∨ pa + data.length ≤ a → t.mem.homeByte a = s.mem.homeByte a) ∧ t.mem.present = s.mem.present) ∧
  (∀ (s : State) (f off n : Nat), s.presented = true → f < 2 → (tget 0 s.sys.pfwin 0).getLsbD 1 = false →
    let pa := (tget 0 s.sys.pfwin 0).toNat / 2 ^ 30 % 2 ^ 22 * 2 ^ 30 + off
    let ok := pa + n ≤ 2 ^ 39 ∧ ∀ i, i < n → s.mem.homeBad (pa + i) = false
    let read (v : Option (List Byte)) := exec (.hostBar2Read f off n) s = .next { s with sys := { s.sys with barRead := some (f, v) } }
    (off + n ≤ 2 ^ 39 → ok → read (some (s.mem.homeBytes pa n))) ∧ (off + n ≤ 2 ^ 39 → ¬ok → read none) ∧
    (2 ^ 39 < off + n → exec (.hostBar2Read f off n) s = .next s)) ∧
  (∀ (s t : State) (f off c va n : Nat) (tr : Tr), s.presented = true → off + n ≤ barSize f →
    s.barTarget f off = .inr (c, va) → hvTarget (s.ctx c) va = none → 0 < n → va % 8 + n ≤ 8 →
    let read (v : Option (List Byte)) : Prop := ∃ u : State, exec (.hostBar2Read f off n) s = .next u ∧ u.sys.barRead = some (f, v) ∧
      ∀ p, (u.part p).ring = (s.part p).ring
    (∀ e, translate s 0 c va = .error e → read none) ∧
    (translate s 0 c va = .ok (t, tr) →
      (tr.r = false → read none) ∧
      (tr.kind = .wo → t.mem.isPresent (tr.pa / 8) = false → read none) ∧
      (tr.r = true → tr.kind ≠ .wo → t.mem.homeBad tr.pa = true → read none) ∧
      (tr.r = true → tr.kind ≠ .wo → Coherent t.mem → t.mem.homeBad tr.pa = false → read (some (t.mem.homeBytes tr.pa n))))) ∧
  (∀ (s t : State) (f off c va : Nat) (data : List Byte) (tr : Tr), s.presented = true → off + 8 ≤ barSize f →
    s.barTarget f off = .inr (c, va) → hvTarget (s.ctx c) va = none → translate s 0 c va = .ok (t, tr) → va % 8 = 0 →
    data.length = 8 → tr.w = true → tr.kind = .wo → t.mem.isPresent (tr.pa / 8) = false → twf 0 t.mem.hbm = true →
    ∃ u : State, exec (.hostBar2Write f off data) s = .next u ∧ u.mem.isPresent (tr.pa / 8) = true ∧
      u.mem.homeBytes tr.pa 8 = data ∧ ∀ a, a < tr.pa ∨ tr.pa + 8 ≤ a → u.mem.homeByte a = t.mem.homeByte a)

/-! ### Time, energy and temperature -/

/-- TIMESET moves the timer forward while no forme is resident, TEPOCH sets it to the TAI time of the epoch, which the time master gives
once every link that is up is locked, and what they refuse sets PSTAT.TSIGN; a moved timer or another epoch ends the locks of the
links; neither acts after a failed boot or a thermal trip; a timer at its greatest value saturates (R32, R408, R423, R424, R427; the count 2^64 of a TEPOCH exactly 2^60 ns back and the sign of
HVSYNC.OFS are log entry 25). -/
def Sys2Proof.Claims.TimerRegisters : Prop :=
  ∀ (s : State) (v : Dword) (src : Option Nat),
    let refused : State := { s with sys := { s.sys with tsign := true } }
    let e := v.toNat % 2 ^ 48 * (16 * 10 ^ 9)
    let own : Nat := s.sys.tepoch * (16 * 10 ^ 9) + s.timer.toNat
    let now := src.getD (if s.allLocked then ((own : Int) + 16 * s.sys.hvofs.toInt).toNat else own)
    (s.deaf = true → exec (.timesetWrite v) s = .next s ∧ exec (.tepochWrite v src) s = .next s) ∧ (s.deaf = false →
    (s.resident = false → s.timer.toNat ≤ v.toNat → ∃ t : State, exec (.timesetWrite v) s = .next t ∧ t.timer = v ∧ t.mem = s.mem ∧
      (v = s.timer → (∀ n, (tget {} s.sys.links n : HvLink).lock = true → (tget {} s.sys.links n : HvLink).peer = s.sys.tepoch) →
        ∀ n, tget {} t.sys.links n = tget {} s.sys.links n) ∧
      (v ≠ s.timer → ∀ n, tget {} t.sys.links n = { (tget {} s.sys.links n : HvLink) with lock := false })) ∧
    (s.resident = true ∨ v.toNat < s.timer.toNat → exec (.timesetWrite v) s = .next refused) ∧
    (s.resident = false → e ≤ now → now - e ≤ 16 * 2 ^ 60 → ∃ t : State, exec (.tepochWrite v src) s = .next t ∧
      t.timer = BitVec.ofNat 64 (min (now - e) (2 ^ 64 - 1)) ∧ t.sys.tepoch = v.toNat % 2 ^ 48 ∧ t.sys.tsat = false ∧ t.mem = s.mem ∧
      ∀ n, let l : HvLink := tget {} s.sys.links n
        tget {} t.sys.links n = { l with lock := l.lock && decide (l.peer = v.toNat % 2 ^ 48) }) ∧
    (s.resident = true ∨ now < e ∨ 16 * 2 ^ 60 < now - e → exec (.tepochWrite v src) s = .next refused)) ∧
    (s.timer = BitVec.allOnes 64 → exec .timerSaturate s = .next { s with sys := { s.sys with tsat := true } }) ∧
    (s.timer ≠ BitVec.allOnes 64 → exec .timerSaturate s = .next s)

/-- A charge raises its context's energy by its count of units of its class, in pJ. Each microsecond the slots' charges are posted, each
to the context of its partition, and the static power is shared out: a context's counter grows by what its slots owed and by its
share, and PIDLEEN by what no context takes (R197, R405, R406). -/
def Sys2Proof.Claims.StaticEnergy : Prop :=
  ∀ (s : State), twf {} s.ctxs = true →
    let total (s : State) (c : Nat) : Nat := 1000 * (s.ctx c).nj + (s.ctx c).pj
    (∀ c cls n, total s c + n * s.sys.weight cls < 1000 * 2 ^ 48 →
      total (s.charge c cls n) c = total s c + n * s.sys.weight cls ∧ ∀ d, d ≠ c → (s.charge c cls n).ctx d = s.ctx d) ∧
    ∃ t : State, exec .staticEnergyTick s = .next t ∧ (∀ x ∈ t.slot :: t.others, x.owed = []) ∧
      t.sys.pidle = (s.sys.pidle + (Config.statmw.toNat - (s.partCtxs.map s.staticNj).sum)) % 2 ^ 64 ∧
      ∀ c, let owed := ((s.slots.filter (fun x => (s.part x.prt).ctx == c)).flatMap (fun x => x.owed)).map (fun e => e.2 * s.sys.weight e.1)
        let more := owed.sum + 1000 * (if s.partCtxs.contains c then s.staticNj c else 0)
        total s c + more < 1000 * 2 ^ 48 → total t c = total s c + more

/-- Each millisecond the hottest die is told, and the thermal cap falls by 50 W to no less than 500 W when a die is at its upper
threshold, and rises by 50 W to no more than 2,200 W on each tenth one when every die was below the lower in all of the last ten; at
115 °C every partition stops and the dies are held in reset (R427). -/
def Sys2Proof.Claims.ThermalLimits : Prop :=
  (∀ (s : State) (a b c d : Nat) (tenth : Bool), let temps := [a, b, c, d]
    let hi := s.sys.tthr.toNat % 2 ^ 8
    let lo := s.sys.tthr.toNat / 2 ^ 8
    let top := max (max a b) (max c d)
    let cool := if top < lo then min 10 (s.sys.cool + 1) else 0
    ∃ k cap, exec (.thermalTick temps tenth) s = .next { s with sys :=
        { s.sys with tempC := min 255 top, tempDie := k, tcap := cap, cool := cool } } ∧
      temps[k]? = some top ∧
      (hi ≤ top → cap = max 500 (s.sys.tcap - 50)) ∧
      (top < hi → tenth = true → cool = 10 → cap = min 2200 (s.sys.tcap + 50)) ∧
      (top < hi → (tenth = false ∨ cool ≠ 10) → cap = s.sys.tcap)) ∧
  (∀ (s : State), (s.sys.tempC < 115 → exec .thermalTrip s = .next s) ∧
    (115 ≤ s.sys.tempC → twf {} s.parts = true → ∃ t : State, exec .thermalTrip s = .next t ∧ t.sys.held = true ∧
      ∀ p, (s.part p).en = true → (t.part p).phase = .ended ∧ (t.part p).stopCode = true ∧ ∀ x ∈ t.slots, x.prt ≠ p))

/-! ### Other packages, boot and attestation -/

/-- Accesses between packages over a link that is up, and none over one that is down: a reply brings its values to the request it
answers, and a fault found there is raised here with INFO[63]; a load, store, atomic or double atomic of another package is located
in a context of this one, tested as at home, and performed at the home, a read of an absent granule waiting (R204, R240, R243, R419, R420). -/
def Sys2Proof.Claims.RemoteAccesses : Prop :=
  ∀ (s : State) (link : Nat),
    let run (a : RemoteAccess) := exec (.holvorRemoteAccess ⟨link, a⟩) s
    (s.linkUp link = false → ∀ a, run a = .next s) ∧
    (s.linkUp link = true →
      (∀ (c : Coord) (x : Waiter) (vs : List Dword), s.mem.waits = [x] → x.place = c → x.isRemote = true → vs.length = x.width →
        let ty := (x.data.headD 0).toNat
        ∃ t : State, run (.reply c vs) = .next t ∧ t.slot = s.slot ∧
          t.mem.waits = [{ x with done := some (vs.map (fun v => if ty = 0 then v else loaded ty v.toNat)) }]) ∧
      (∀ (c : Coord) (code : Nat) (addr info : Dword), (∃ x ∈ s.mem.waits, x.place = c ∧ x.isRemote = true) →
        code ∈ [0x01, 0x02, 0x20, 0x22, 0x23, 0x24, 0x25, 0x29, 0x4F] →
        run (.faulted c code addr info) = .next (s.raiseAt c { code := code, addr := addr, info := info ||| (1#64 <<< 63) })) ∧
      (∀ (ctx : Nat) (va : Dword) (n : Nat) (once : Bool) (f : Flt), s.inbound ctx va n (if once then .wo else .mu) true false = .error f →
        ∃ u : State, run (.load ctx va n once) = .next u ∧ u.sys.answer = some { code := f.code, addr := f.addr, info := f.info } ∧
          u.mem = s.mem) ∧
      (∀ (ctx : Nat) (va : Dword) (n : Nat) (k : PageKind) (r w : Bool), (n = 0 ∨ 8 < n ∨ va.toNat % n ≠ 0) →
        s.inbound ctx va n k r w = .error { code := 0x20, addr := va }) ∧
      (∀ (t : State) (ctx : Nat) (va : Dword) (n pa : Nat) (once : Bool),
        s.inbound ctx va n (if once then .wo else .mu) true false = .ok (t, pa) →
        (once = true → t.mem.isPresent (pa / 8) = false → run (.load ctx va n once) = .next s) ∧
        ((once = true → t.mem.isPresent (pa / 8) = true) → let m := t.mem.homeLook ctx (pa / 128)
          (m.homeBad pa = false → ∃ u : State, run (.load ctx va n once) = .next u ∧ u.mem = m ∧
            u.sys.answer = some { values := [BitVec.ofNat 64 (bytesToNat (m.homeBytes pa n))] }) ∧
          (m.homeBad pa = true → ∃ u : State, run (.load ctx va n once) = .next u ∧ u.mem = m ∧
            u.sys.answer = some { code := 0x25, addr := va }))) ∧
      (∀ (t : State) (pkg src ctx : Nat) (va : Dword) (bs : List Byte) (pa : Nat), s.winAt ctx va.toNat = none →
        (s.inbound ctx va bs.length .mu false true = .ok (t, pa) → pa % 128 + bs.length ≤ 128 → Coherent t.mem →
          ∃ u : State, run (.store pkg src ctx va bs false) = .next u ∧ u.sys.answer = some {} ∧
            ∀ a, u.mem.homeByte a = if pa ≤ a ∧ a < pa + bs.length then bs.getD (a - pa) 0 else t.mem.homeByte a) ∧
        (s.inbound ctx va bs.length .wo false true = .ok (t, pa) → bs.length = 8 →
          (t.mem.isPresent (pa / 8) = true → ∃ u : State, run (.store pkg src ctx va bs true) = .next u ∧ u.mem = t.mem ∧
            u.sys.answer = some { code := 0x24, addr := va }) ∧
          (t.mem.isPresent (pa / 8) = false → ∃ u : State, run (.store pkg src ctx va bs true) = .next u ∧
            u.mem = (t.mem.woPut (pa / 8) (bytesToNat bs)).note (.energy ctx 6 1) ∧ u.sys.answer = some {}))) ∧
      (∀ (t : State) (ctx : Nat) (va b c : Dword) (pa : Nat), s.inbound ctx va 8 .mu true true = .ok (t, pa) → pa % 8 = 0 →
        let m := t.mem.homeLook ctx (pa / 128)
        let old := bytesToNat (m.homeBytes pa 8)
        m.homeBad pa = false → ∃ u : State, run (.atomic ctx va 0xA0 15 false b c) = .next u ∧
          u.sys.answer = some { values := [BitVec.ofNat 64 old] } ∧ bytesToNat (u.mem.homeBytes pa 8) = (old + b.toNat) % 2 ^ 64) ∧
      (∀ (t : State) (ctx : Nat) (p q : Dword) (op : BitVec 8) (ty : BitVec 6) (cs : List Dword) (tp tq : Nat × Tr),
        op = 0xA9 ∨ op = 0xAA → let n := wBytes ty.toNat
        pairAligned s p q n = .ok () → translateAll s 0 ctx [p.toNat, q.toNat] = .ok (t, [tp, tq]) →
        admitPair tp.2 tq.2 p.toNat q.toNat = .ok () →
        let m := (t.mem.homeLook ctx (tp.2.pa / 128)).homeLook ctx (tq.2.pa / 128)
        m.homeBad tp.2.pa = false → m.homeBad tq.2.pa = false → ∃ u : State, run (.double ctx p q op ty cs) = .next u ∧
          u.sys.answer = some { values := [loaded ty.toNat (bytesToNat (m.homeBytes tp.2.pa n)),
            loaded ty.toNat (bytesToNat (m.homeBytes tq.2.pa n))] }) ∧
      (∀ (ctx : Nat) (va : Dword) (w : Bool) (bs : List Byte), (hvTarget (s.ctx ctx) va.toNat).isSome = true →
        s.mem.waits = [] → run (.engReply ctx va w bs) = .next { s with hvReplies := s.hvReplies ++
          [{ ctx := ctx, va := va.toNat, write := w, code := 0, addr := 0, info := 0, bytes := bs }] }))

/-- A reduction window merges a granule once all participants have contributed it, in any order, and writes it once; over a link that is
down nothing completes; a contribution that R421 excludes is discarded with the reduction fault, and the reset of a participant ends the round, whether it has contributed
or not, with status 2 and the round's number written at RWINCVA (R419, R421, R422). -/
def Sys2Proof.Claims.ReductionWindows : Prop :=
  ∀ (s : State) (link w pkg ctx g : Nat) (data : List Byte), let x := s.rwin w
    let run := exec (.reductionContribution w pkg ctx (8 * g) ⟨link, data⟩) s
    (s.linkUp link = false → run = .next s) ∧ (s.linkUp link = true →
    let v : Dword := BitVec.ofNat 64 (bytesToNat data)
    let had := (x.held.filter (fun h => h.1 == g)).map (fun h => h.2.2.2)
    let peers := if x.peers.contains (pkg, ctx) then x.peers else x.peers ++ [(pkg, ctx)]
    (x.on = false → run = .next s) ∧
    (x.on = true → data ≠ [] → x.refuses pkg ctx (8 * g) data.length = false → had.length + 1 < x.n →
      run = .next ((s.setRwin w { x with held := x.held ++ [(g, pkg, ctx, v)], peers := peers }).answered {})) ∧
    (∀ (t : State) (tr : Tr), x.on = true → x.ty = 15 → data ≠ [] → x.refuses pkg ctx (8 * g) data.length = false →
      had.length + 1 = x.n → x.merged.length + 1 < x.granules →
      translate s 0 (x.cfg.toNat % 2 ^ 12) (x.base.toNat + 8 * g) = .ok (t, tr) →
      tr.w = true → tr.kind = .wo → t.mem.isPresent (tr.pa / 8) = false →
      ∃ u : State, run = .next u ∧ u.mem = (t.mem.woPut (tr.pa / 8) (((had.map BitVec.toNat).sum + v.toNat) % 2 ^ 64)).note (.energy (x.cfg.toNat % 2 ^ 12) 6 1) ∧
        u.rwin w = { x with held := x.held.filter (fun h => h.1 != g), merged := g :: x.merged, peers := peers } ∧
        u.sys.answer = some {}) ∧
    (x.on = true → data ≠ [] → x.refuses pkg ctx (8 * g) data.length = true →
      let va : Dword := BitVec.ofNat 64 (x.base.toNat + 8 * g)
      (pkg ≠ s.sys.hvpkg.toNat → run = .next { s with sys := { s.sys with answer := some { code := 0x4F, addr := va } } }) ∧
      (∀ c, pkg = s.sys.hvpkg.toNat → s.contributor ctx (x.base.toNat + 8 * g) = some c →
        run = .next (s.raiseAt c { code := 0x4F, addr := va, info := 1#64 <<< 63 }))) ∧
    (x.on = true → data = [] → (pkg, ctx) ∈ x.peers ∨ x.peers.length < x.n →
      let cleared := s.setRwin w { x with round := x.round + 1, held := [], merged := [], peers := [] }
      let va := x.cva.toNat / 2 ^ 3 % 2 ^ 49 * 8 + 8 * (x.round.toNat % 512)
      ∃ u : State, run = .next u ∧ u.rwin w = { x with round := x.round + 1, held := [], merged := [], peers := [] } ∧
        ∀ (t : State) (tr : Tr), translate cleared 0 (x.cfg.toNat % 2 ^ 12) va = .ok (t, tr) → tr.kind = .wo → tr.w = true →
          t.mem.isPresent (tr.pa / 8) = false → u.mem = t.mem.woPut (tr.pa / 8) (x.round.toNat + 2 * 2 ^ 32)) ∧
    (x.on = true → data = [] → (pkg, ctx) ∉ x.peers → x.n ≤ x.peers.length → run = .next s))

/-- A Holvor link's state, and its time lock: within 12 ns for the time asked and from the same epoch; over a link that is down no time sync
runs. The package takes its offset from an external source where there is one, else from the master, the connected package of the
lowest HVSYNC.PKG, which itself has the offset 0 (R418, R419, R423; the register's value away from the master is log entry 25). -/
def Sys2Proof.Claims.HolvorLinks : Prop :=
  ∀ (s : State) (n : Nat), let l : HvLink := tget {} s.sys.links n
    (∀ up train, exec (.holvorLinkState n up train) s = .next { s with sys := { s.sys with
      links := tput {} s.sys.links n ⟨up, train, l.lock && up, l.peer, l.low⟩ } }) ∧
    (∀ (ofs : BitVec 16) (steady : Bool) (peer : TimePeer), let run := exec (.timeSyncLock n ofs steady peer) s
      (l.up = false → run = .next s) ∧
      (l.up = true → ∃ t : State, run = .next t ∧ t.mem = s.mem ∧ t.sys.links = tput {} s.sys.links n ⟨true, l.train,
          steady && decide (-12 ≤ ofs.toInt) && decide (ofs.toInt ≤ 12) && decide (peer.epoch = s.sys.tepoch), peer.epoch, peer.lowest⟩ ∧
        let own := s.sys.hvpkg.toNat
        let known := (t.sys.links.filter (fun k => k.2.up)).map (fun k => k.2.low.toNat)
        (∀ e, peer.external = some e → t.sys.hvofs = e) ∧
        (peer.external = none → (∀ p ∈ known, own ≤ p) → t.sys.hvofs = 0) ∧
        (peer.external = none → peer.lowest.toNat < own → (∀ p ∈ known, peer.lowest.toNat ≤ p) → t.sys.hvofs = ofs) ∧
        (peer.external = none → (∃ p ∈ known, p < own ∧ p < peer.lowest.toNat) → t.sys.hvofs = s.sys.hvofs)))

/-- The boot stages run in order up to the first that fails, which is told with its cause; the firmware's signature is accepted only under
the one parameter set, with a key of 68 bytes whose digest is the fused one and a signature of 2,820 bytes, and its version only from
the fused minimum on; a package that has failed, or that runs but is held in reset after a thermal trip, starts again from its reset
state, and one that runs is not booted again (R424, R425, R427). That a boot is one step is log entry 20, the digest of a key is log
entry 13. -/
def Sys2Proof.Claims.BootStages : Prop :=
  ∀ (s : State) (x : BootFinding),
    let signed := x.sigSet = .xmssShake256h20 ∧ x.key.length = 68 ∧ shake256 x.key 32 = fusedKey ∧ x.signature.length = 2820 ∧
      x.verifies = true
    let recent := Config.fusedSvn.toNat ≤ x.svn.toNat
    let from' : State := if s.sys.stage = 0 then s else State.reset
    (s.sys.stage = 5 → s.sys.bootErr = 0 → s.sys.held = false → exec (.boot x) s = .next s) ∧
    (s.sys.stage ≠ 5 ∨ s.sys.held = true → ∃ t : State, exec (.boot x) s = .next t ∧ t.mem = from'.mem ∧ t.parts = from'.parts ∧
      t.ctxs = from'.ctxs ∧ t.slots = from'.slots ∧ t.cmds = from'.cmds ∧ t.lqs = from'.lqs ∧ t.sys.xmss = s.sys.xmss ∧ t.sys.held = false ∧
      (x.romOk = false → t.sys.stage = 1 ∧ t.sys.bootErr = 1) ∧
      (x.romOk = true → ¬signed → t.sys.stage = 2 ∧ t.sys.bootErr = 2) ∧
      (x.romOk = true → signed → ¬recent → t.sys.stage = 3 ∧ t.sys.bootErr = 3) ∧
      (x.romOk = true → signed → recent → x.trainingOk = false → t.sys.stage = 4 ∧ t.sys.bootErr = 4) ∧
      (t.sys.stage < 5 → t.presented = false ∧ ∀ u, t.unitSt u = from'.unitSt u) ∧
      (x.romOk = true → signed → recent → x.trainingOk = true →
        t.sys.stage = 5 ∧ t.sys.bootErr = 0 ∧ t.sys.svn = x.svn ∧ t.presented = true ∧
        t.sys.digests = x.images.map (fun b => shake256 b 32) ∧ ∀ u, (t.unitSt u).absent = true ↔ u ∈ x.absent ∨ (from'.unitSt u).absent = true))

/-- A quote commits the next XMSS index before it releases a signature of 2,820 bytes that begins with that index behind what it
states: the nonce, the digests of the images, BOOTST and USABLE; no index is used twice, and once they are spent the request completes
exhausted (R425, R426; the layout of what is stated and the byte order of the index are log entry 13). -/
def Sys2Proof.Claims.AttestationQuotes : Prop :=
  ∀ (s : State) (nonce : List Byte), s.presented = true → nonce.length = 32 →
    let body := nonce ++ s.sys.digests.flatten ++ natToBytes 8 (s.pkgValue 0) ++ natToBytes 8 s.usableWord
    (s.sys.xmss < 2 ^ 20 → ∃ (t : State) (sig : List Byte), exec (.attestationQuote nonce) s = .next t ∧ t.sys.xmss = s.sys.xmss + 1 ∧
      t.sys.quote = some (s.sys.xmss, some (body ++ sig)) ∧ sig.length = 2820 ∧
      bytesToNat (sig.take 4).reverse = s.sys.xmss ∧ t.mem = s.mem) ∧
    (2 ^ 20 ≤ s.sys.xmss → exec (.attestationQuote nonce) s = .next { s with sys := { s.sys with quote := some (s.sys.xmss, none) } })

/-! ### Coded video -/

/-- A frame whose bytes are accepted is parsed for the oldest request: its bytes are consumed and its packets stand ready once the state of
its picture is written; it waits while that is not acknowledged, and a fault met there abandons the request. With a stream error its
error packet stands ready; at the end of the stream the oldest request completes, and bytes that cannot be read are error 7.
A packet published takes the next ring slot, stands in it and makes it full; after a frame's last one the next frame is in hand,
after an error's no request is left (R202, R311, R316, R319, R323, R324). -/
def Sys2Proof.Claims.VideoEvents : Prop :=
  ∀ (s : State) (ctx : Nat) (st : Dword) (x : Strm) (c : Cmd),
    s.strms.find? (fun y => y.ctx == ctx && y.handle == st && y.engine.isSome) = some x → s.strmCmd x = some c →
    let r := s.queueBytes c.unit x
    let bs := r.2.1
    let k := x.frameBytes bs r.2.2
    let left (t : State) (z : Strm) : Prop := z ∈ t.strms ∧ z.ctx = ctx ∧ z.handle = st
    (x.status = none → x.err = 0 → ¬(bs = [] ∧ x.queue = [] ∧ x.eosFed = true) → 0 < k →
      let y := Config.parseFrame x.codec r.1.freeCount (bs.take k)
      let x' : Strm := { x with queue := dropBytes k x.queue, consumed := x.consumed + k }
      let taken := State.takeFrame { r.1 with freeCount := r.1.freeCount + 1 } c.unit x' y
      (x'.errorOf y = 0 → (y.shows.isSome = true ∨ y.cells = [] → ∃ t z, taken = .ok (t, z)) ∧
        (∀ v w, taken = .ok (v, w) → ∃ t z, exec (.frameParse ⟨ctx, st⟩) s = .next t ∧ left t z ∧ t.mem = v.mem ∧
          z.consumed = x.consumed + k ∧ z.queue = x'.queue ∧ z.status = some 0 ∧ z.packets ≠ [] ∧ z.reqs = x.reqs) ∧
        (taken = .error .absent → exec (.frameParse ⟨ctx, st⟩) s = .next s) ∧
        (∀ f, taken = .error (.flt f) → exec (.frameParse ⟨ctx, st⟩) s = .next
          ((s.putStrm { x with reqs := x.reqs.tail }).failCmd c (engImgc (handleEng st / 8) (640 + handleEng st % 8) 0) f))) ∧
      (x'.errorOf y ≠ 0 → ∃ t z, exec (.frameParse ⟨ctx, st⟩) s = .next t ∧ left t z ∧ z.err = x'.errorOf y ∧ z.status = some 2 ∧
        z.packets = [errorPacket x'])) ∧
    (x.status = none → x.err = 0 → bs = [] → x.queue = [] → x.eosFed = true →
      ∃ t z, exec (.frameParse ⟨ctx, st⟩) s = .next t ∧ left t z ∧ z.eos = true ∧ z.reqs = x.reqs.tail) ∧
    (∀ f, x.status = none → x.err = 0 → k = 0 → x.queue ≠ [] → r.2.2 = some (.flt f) →
      ∃ t z, exec (.frameParse ⟨ctx, st⟩) s = .next t ∧ left t z ∧ z.err = 7 ∧ z.status = some 2 ∧ z.packets = [errorPacket x]) ∧
    (∀ pk rest u, x.packets = pk :: rest → ringUnit s c.prt c.unit x.ring = .ok u → s.mem.waits = [] → twf {} s.mts = true →
      twf {} (s.mt u).side = true → twf {} (s.mt u).rings = true →
      let m := (s.mt u).latch x.ring
      let i := (m.ring x.ring).next.toNat % hNslot x.ring
      (m.canAcquire x.ring = false → exec (.packetPublish ⟨ctx, st⟩) s = .next s) ∧
      (m.canAcquire x.ring = true → ∃ t z, exec (.packetPublish ⟨ctx, st⟩) s = .next t ∧ left t z ∧ z.packets = rest ∧
        t.mem.sram = writeBytes s.mem.sram (spAddr u (128 * hLine x.ring i)) pk ∧
        ((t.mt u).sideOf x.ring i).st = .full ∧ ((t.mt u).ring x.ring).next = (m.ring x.ring).next + 1 ∧
        (rest = [] → x.status = some 0 → z.frame = x.frame + 1 ∧ z.reqs = x.reqs.tail) ∧
        (rest = [] → x.status = some 2 → z.reqs = [])))

/-- A frame of stream error 0 obeys its standard's syntax, uses the tools of its codec, has a size within R307 and the stream's own
limits, a free picture slot and all its references; the slot taken is the free one of lowest number: no picture that stays
holds it, and one released while frame f was parsed is free again once the request for frame f + LAG has issued (R306, R307,
R318, R319). -/
def Sys2Proof.Claims.FramesAndSlots : Prop :=
  ∀ (x : Strm) (y : Config.FrameSyntax),
    let free (p : Nat) : Prop := (∀ h ∈ x.pics, y.before.contains h.frame = false → h.slot ≠ p) ∧
      (∀ h ∈ x.pics, y.before.contains h.frame = true → h.slot = p → x.frame + x.lag < x.frame + x.reqs.length) ∧
      ∀ f ∈ x.freed, f.1 = p → (∀ h ∈ x.pics, y.before.contains h.frame = true → h.slot ≠ p) → f.2 + x.lag < x.frame + x.reqs.length
    (x.errorOf y = 0 → y.wellFormed = true ∧ toolsOk x.codec y = true ∧ (x.codec = 3 → y.fieldCoded = false) ∧
      y.width ≤ 8192 ∧ y.height ≤ 8192 ∧ y.width * y.height ≤ 35651584 ∧ y.width ≤ x.maxw ∧ y.height ≤ x.maxh ∧
      y.refs0.length ≤ 8 ∧ y.refs1.length ≤ 8 ∧ (y.shows = none → ∃ p, x.newSlot y = some p) ∧
      ∀ f, (y.shows = none ∧ (f ∈ y.refs0 ∨ f ∈ y.refs1) ∨ y.shows = some f) → ∃ h ∈ x.pics, h.frame = f ∧ y.before.contains f = false) ∧
    (y.wellFormed = false → x.errorOf y = 1) ∧ (toolsOk x.codec y = false → 1 ≤ x.errorOf y ∧ x.errorOf y ≤ 2) ∧
    (8192 < y.width ∨ 8192 < y.height ∨ 35651584 < y.width * y.height ∨ x.maxw < y.width ∨ x.maxh < y.height →
      1 ≤ x.errorOf y ∧ x.errorOf y ≤ 4) ∧
    (y.shows = none → x.newSlot y = none → 1 ≤ x.errorOf y ∧ x.errorOf y ≤ 5) ∧ x.errorOf y ≤ 6 ∧
    (∀ p, x.newSlot y = some p ↔ p < x.nst ∧ free p ∧ ∀ q < p, ¬free q)

/-- A packet: its header fields, then its records, vectors and coefficients; the coefficients of a transform block are held within
i16, and ENERGY is the sum of the squares of the dequantised ones up to 2^32 − 1. The state of a cell is Q·s·Qᵀ in units of 2^−4,
rounded once to nearest, ties away from zero, within i32, and its signal is Qᵀ·(S/16)·Q (R312, R315, R316). -/
def Sys2Proof.Claims.PacketsAndCells : Prop :=
  (∀ (x : Strm) (y : Config.FrameSyntax) (staddr idx : Nat) (last : Bool) (a : Parts), let p := packetBytes x y staddr idx last a
    let at' (off n : Nat) : Nat := bytesToNat ((p.drop off).take n)
    let flags := (if idx = 0 then 1 else 0) + (if last then 2 else 0) + (if y.shows.isSome then 8 else 0) + (if y.isRef then 16 else 0)
    p.length = 128 + 32 * a.recs.length + 4 * a.mvs.length + 2 * a.cos.length ∧
    at' 0 4 = x.frame % 2 ^ 32 ∧ at' 8 4 = a.recs.length % 2 ^ 32 ∧ at' 0xC 4 = a.mvs.length % 2 ^ 32 ∧ at' 0x10 4 = a.cos.length % 2 ^ 32 ∧
    at' 0x14 2 = flags ∧ at' 0x18 4 = idx % 2 ^ 32 ∧ at' 0x1C 2 = y.width % 2 ^ 16 ∧ at' 0x1E 2 = y.height % 2 ^ 16 ∧
    at' 0x20 8 = staddr % 2 ^ 64 ∧ (∀ i, i < 8 → at' (0x30 + 4 * i) 4 = y.refs0.getD i (2 ^ 32 - 1) % 2 ^ 32 ∧
      at' (0x50 + 4 * i) 4 = y.refs1.getD i (2 ^ 32 - 1) % 2 ^ 32) ∧ at' 0x70 16 = 0 ∧ at' 0x17 1 = 0 ∧
    ∀ i v, a.recs[i]? = some v → at' (0x80 + 32 * i) 32 = v % 2 ^ 256) ∧
  (∀ (t : Config.TransformBlock) (levels : Bool), let vs := if levels then t.levels else t.deq
    (coeffsOf levels t).length = t.w * t.h ∧
    (∀ i, i < t.w * t.h → (coeffsOf levels t).getD i 0 = max (-32768) (min 32767 (vs.getD i 0))) ∧
    (energyOf t : Int) = min (((coeffsOf false t).map (fun v => v * v)).sum) (2 ^ 32 - 1)) ∧
  (∀ v : Rat, (|16 * v - (rna16 v).1| ≤ 1 / 2 ∧ (|16 * v - (rna16 v).1| = 1 / 2 → |16 * v| ≤ |((rna16 v).1 : Rat)|) ∧ (rna16 v).2 = false) ∨
    ((rna16 v).2 = true ∧ ((rna16 v).1 = 2 ^ 31 - 1 ∧ 2 ^ 31 - 1 / 2 ≤ 16 * v ∨ (rna16 v).1 = -2 ^ 31 ∧ 16 * v ≤ -2 ^ 31 - 1 / 2))) ∧
  (∀ q : Nat → Nat → Rat, (q = fun k n => (([[8192, 8192, 8192, 8192], [10703, 4433, -4433, -10703], [8192, -8192, -8192, 8192],
      [4433, -10703, 10703, -4433]] : List (List Rat)).getD k []).getD n 0) →
    (∀ (sig : Nat → Nat → Rat) (k l : Nat), k < 4 → l < 4 → (fwdCell sig).1.getD (4 * k + l) 0 =
      (rna16 ((∑ r ∈ Finset.range 4, ∑ c ∈ Finset.range 4, q k r * sig r c * q l c) / 2 ^ 28)).1) ∧
    (∀ (st : List Int) (r c : Nat), r < 4 → c < 4 → sigAt st r c =
      (∑ k ∈ Finset.range 4, ∑ l ∈ Finset.range 4, q k r * ((st.getD (4 * k + l) 0 : Int) / 16 : Rat) * q l c) / 2 ^ 28))

/-! ### Reset and the form of memory -/

/-- What reset leaves where the spec gives it (R281, R409, R418): registers at their reset values, no forme resident, no task in a slot.
That no byte of memory reads other than 0 and no granule is present is the model's choice (log entries 3 and 4). -/
def Obligations.ResetValues : Prop :=
  let s := State.reset
  (∀ c, (s.ctx c).root = 0 ∧ (s.ctx c).hlim = 0 ∧ (s.ctx c).stop = false ∧ (s.ctx c).hwign = false ∧ (s.ctx c).en = false) ∧
  (∀ p, (s.part p).en = false ∧ (s.part p).phase = .idle ∧ (s.part p).drlim = 1000 ∧ (s.part p).weight = 1 ∧
    (s.part p).floor = ⟨4, 4, 4⟩ ∧ (s.part p).pslice = 0 ∧ (s.part p).ring = { base := 0, n := 6, head := 0, tail := 0 } ∧
    ∀ u, (s.part p).has u = false) ∧
  (∀ f q, (s.lq f q).en = false ∧ (s.lq f q).log2 = 4 ∧ (s.lq f q).prio = 7 ∧ (s.lq f q).prod = 0 ∧ (s.lq f q).head = 0) ∧
  (∀ u, (s.mt u).mtcfg = 8 ∧ (s.mt u).driftReg.dmax = 0x7F800000 ∧ (s.mt u).driftReg.lmax = 0x20) ∧
  s.sys.pcap = 2200 ∧ s.sys.tthr = 0x5F64 ∧ s.sys.stage = 0 ∧ s.timer = 0 ∧ s.slots = [] ∧
  (∀ pa, s.mem.homeByte pa = 0 ∧ s.mem.isPresent (pa / 8) = false) ∧ s.mem.wf = true

/-- The canonical form of memory (log entry 4) is kept: from every state whose memory has it, a step that goes on leaves a memory that has it. -/
def Obligations.MemoryStaysCanonical : Prop :=
  ∀ s t : State, s.mem.wf = true → step s = .next t → t.mem.wf = true

/-! ### What the engines do -/

/-- One access of an engine within a granule of this package: a write to an MU page changes the bytes it names at their home and no
other, a write to a WO page is a whole granule written once, and a read brings what the home holds; each takes the fault of the
first condition that fails, the alignment of a write-once write before its permission, and a read of an absent granule waits; the note
that a write-once write leaves after a FENCE of system scope, and what a read finds of it, are log entry 22 (R202, R203, R210, R221,
R265). -/
def Sys2Proof.Claims.EngineAccesses : Prop :=
  ∀ (s t : State) (u ctx va n : Nat) (bs : List Byte) (tr : Tr), hvTarget (s.ctx ctx) va = none → translate s u ctx va = .ok (t, tr) →
    let flt (code : Nat) : Flt := { code := code, addr := BitVec.ofNat 64 va }
    (tr.w = true → tr.kind = .mu → Coherent t.mem → bs ≠ [] → tr.pa % 128 + bs.length ≤ 128 → ∃ v, engPut s u ctx va bs false = .ok v ∧
      Coherent v.mem ∧ v.mem.l1 = t.mem.l1 ∧ v.mem.present = t.mem.present ∧
      ∀ a, v.mem.homeByte a = if tr.pa ≤ a ∧ a < tr.pa + bs.length then bs.getD (a - tr.pa) 0 else t.mem.homeByte a) ∧
    (tr.kind = .wo →
      (va % 8 ≠ 0 ∨ bs.length ≠ 8 → engPut s u ctx va bs false = .error (.flt (flt 0x20))) ∧
      (tr.w = true → va % 8 = 0 → bs.length = 8 → t.mem.isPresent (tr.pa / 8) = true →
        engPut s u ctx va bs false = .error (.flt (flt 0x24))) ∧
      (tr.w = true → va % 8 = 0 → bs.length = 8 → t.mem.isPresent (tr.pa / 8) = false → ∃ v, engPut s u ctx va bs false = .ok v ∧
        v.mem = ((t.mem.woPut (tr.pa / 8) (bytesToNat bs)).tagFence (tr.pa / 8) (t.fenceTag u ctx)).note (.energy ctx 6 1))) ∧
    (tr.w = false → tr.kind = .wo → va % 8 = 0 → bs.length = 8 → engPut s u ctx va bs false = .error (.flt { flt 0x23 with info := tr.pte })) ∧
    (tr.w = false → tr.kind ≠ .wo → engPut s u ctx va bs false = .error (.flt { flt 0x23 with info := tr.pte })) ∧
    (tr.r = false → engGet s u ctx va n = .error (.flt { flt 0x23 with info := tr.pte })) ∧
    (tr.r = true → tr.kind = .wo → (∃ i < n, t.mem.isPresent ((tr.pa + i) / 8) = false) → engGet s u ctx va n = .error .absent) ∧
    (tr.r = true → tr.kind = .wo → (∀ i < n, t.mem.isPresent ((tr.pa + i) / 8) = true) → ∃ v, engGet s u ctx va n =
      .ok (v, v.mem.homeBytes tr.pa n, v.mem.homeBad tr.pa) ∧ v.mem = (t.crossRead u ctx tr n).mem.homeLook ctx (tr.pa / 128)) ∧
    (tr.r = true → tr.kind ≠ .wo → Coherent t.mem →
      ∃ v, engGet s u ctx va n = .ok (v, t.mem.homeBytes tr.pa n, t.mem.homeBad tr.pa) ∧ Coherent v.mem ∧
        ∀ a, v.mem.homeByte a = t.mem.homeByte a)

namespace Sys2Proof.Claims

/-- A command in hand at its engine that owes no token, with the slot that issued it in focus. -/
def Served (s : State) (c : Cmd) : Prop :=
  s.cmds.find? (fun x => x.id == c.id) = some c ∧ c.done = none ∧ c.port = none ∧ s.slot.at c.place = true ∧ s.slot.st ≠ .retired

/-- The states that a gather passes through, element by element: an element marked at issue, one that meets a fault and a poisoned one
fail and fill their slot; any other brings its bytes (R296). -/
def GatherRun (c : Cmd) (ctx u off sz ty : Nat) (nan : Bool) (b : Dword) (xs : List Nat) (z : Nat → State) (got : Nat → List Byte)
    (cause : Nat → Option Nat) : Prop :=
  ∀ j x, xs[j]? = some x →
    let a := (b + BitVec.ofNat 64 (sz * x)).toNat
    let mark := (c.block.getD j 0).toNat
    let fill := fillBytes nan ty sz
    let put (t : State) : State := { t with mem := t.mem.spPut u (off + sz * j) (got j) }
    (mark ≠ 0 ∧ cause j = some mark ∧ got j = fill ∧ z (j + 1) = put (z j)) ∨
    (mark = 0 ∧ ∃ f, engRead (z j) c.unit ctx a sz = .error (.flt f) ∧ cause j = some f.code ∧ got j = fill ∧
      z (j + 1) = put ((z j).hvDrop ctx a sz false)) ∨
    (mark = 0 ∧ ∃ t bs bad, engRead (z j) c.unit ctx a sz = .ok (t, bs, bad) ∧ z (j + 1) = put t ∧
      ((bad.any id = true ∧ cause j = some 0x25 ∧ got j = fill) ∨ (bad.any id = false ∧ cause j = none ∧ got j = bs)))

/-- The states that a scatter passes through whose elements do not fail: the bytes of each slot, or the sums of their lanes with
those at the home, are written at its element (R296). -/
def ScatterRun (c : Cmd) (ctx u off sz ty : Nat) (add : Bool) (b : Dword) (xs : List Nat) (z : Nat → State) : Prop :=
  ∀ j x, xs[j]? = some x →
    let a := (b + BitVec.ofNat 64 (sz * x)).toNat
    let slot := (z j).mem.spBytes u (off + sz * j) sz
    (c.block.getD j 0).toNat = 0 ∧ slot.2.any id = false ∧ hvTarget ((z j).ctx ctx) a = none ∧
    ((add = false ∧ engWrite (z j) c.unit ctx a slot.1 = (z (j + 1), none)) ∨
     (add = true ∧ ∃ t old, engReadOk (z j) c.unit ctx a sz = .ok (t, old) ∧
       engWrite t c.unit ctx a (lanesAdd ty (sz / wBytes ty) old slot.1) = (z (j + 1), none)))

end Sys2Proof.Claims

/-- A gather packs its elements in their order, a failed one filled, and a scatter writes each slot to its element; the command then
leaves its engine, and where D names a register the fibre over the failures is opened on it. Integer lanes that SCATA adds
wrap (R296, R297). -/
def Sys2Proof.Claims.GatherEngine : Prop :=
  (∀ (s : State) (c : Cmd), Served s c →
    let run := exec (.engineCommandComplete c.id) s
    let ctx := (s.part c.prt).ctx
    (∀ nan ty e b cc xs reg u off z got cause, c.kind = .gath nan ty e b cc xs reg → s.cmdSp c cc (2 ^ e * xs.length) = .ok (u, off) →
      z 0 = s → GatherRun c ctx u off (2 ^ e) ty.toNat nan b xs z got cause → twf 0 s.mem.sram = true →
      ∃ t : State, run = .next t ∧ (∀ x ∈ t.cmds, x.id ≠ c.id) ∧
        (reg = none → ∀ j i, j < xs.length → i < 2 ^ e → tget 0 t.mem.sram (spAddr u (off + 2 ^ e * j + i)) = (got j).getD i 0) ∧
        (∀ k : Fin 8, reg = some (k.val, false) → ∃ d p, t.slot.fbs[k] = .opened d 0 p ∧ d.ext = xs.length ∧
          d.n = ((List.range xs.length).filter (fun j => (cause j).isSome)).length ∧
          p = ((List.range xs.length).find? (fun j => (cause j).isSome)).getD xs.length)) ∧
    (∀ add ty e b cc xs u off z, c.kind = .scat add ty e b cc xs none → s.cmdSp c cc (2 ^ e * xs.length) = .ok (u, off) →
      z 0 = s → ScatterRun c ctx u off (2 ^ e) ty.toNat add b xs z →
      ∃ t : State, run = .next t ∧ (∀ x ∈ t.cmds, x.id ≠ c.id) ∧ t.mem = (z xs.length).mem)) ∧
  (∀ (ty n : Nat) (old v : List Byte), tIsFlt ty = false → old.length = n * wBytes ty → v.length = n * wBytes ty →
    (lanesAdd ty n old v).length = n * wBytes ty ∧ ∀ i, i < n →
      let lane (bs : List Byte) : Nat := bytesToNat ((bs.drop (wBytes ty * i)).take (wBytes ty))
      lane (lanesAdd ty n old v) = (lane old + lane v) % 2 ^ tWidth ty)

/-- KVAPP appends a token to its page and sends its new count, KVLD brings the keys or values of a page into scratchpad and sends the
count, PGSEL writes the chosen entries in rising order with their bounds and opens the fibre over them (R303 to R305). -/
def Sys2Proof.Claims.PageEngines : Prop :=
  (∀ (s : State) (c : Cmd) (k : BitVec 3), InService s c k →
    let run := exec (.engineCommandComplete c.id) s
    let ctx := (s.part c.prt).ctx
    (∀ page key value s1 s2 s3 s4 bs ks vs, c.kind = .kvapp page key value → engReadOk s c.unit ctx page.toNat (2 ^ 14) = .ok (s1, bs) →
      let h := bytesToNat (bs.take 64)
      let vec (b : List Byte) : List FV := (List.range (pgDim h)).map (fun j => decF 4 (bytesToNat ((b.drop (2 * j)).take 2)))
      (pgLegal h = true → pgCount h < 64 → engReadOk s1 c.unit ctx key.toNat (2 * pgDim h) = .ok (s2, ks) →
        engReadOk s2 c.unit ctx value.toNat (2 * pgDim h) = .ok (s3, vs) →
        engWrite s3 c.unit ctx page.toNat (kvAppend bs (vec ks) (vec vs)) = (s4, none) →
        ∃ t : State, run = .next t ∧ Informed s t k (BitVec.ofNat 64 (pgCount h + 1)) ∧ t.mem = s4.mem) ∧
      (pgLegal h = false ∨ pgCount h = 64 → run = .next (s.failCmd c (s.mtImgc c.prt c.unit 4) { code := 0x45 }))) ∧
    (∀ page dst vals f32 s1 bs u off, c.kind = .kvld page dst vals f32 → engReadOk s c.unit ctx page.toNat (2 ^ 14) = .ok (s1, bs) →
      let h := bytesToNat (bs.take 64)
      let w := if f32 then 4 else 2
      let n := pgCount h * pgDim h
      pgLegal h = true → s1.cmdSp c dst (w * n) = .ok (u, off) → twf 0 s.mem.sram = true →
      ∃ t : State, run = .next t ∧ Informed s t k (BitVec.ofNat 64 (pgCount h)) ∧
        ∀ i, i < n → t.mem.spGet u (off + w * i) w = (let ty := if f32 then 2 else 4
          encF ty (rneF ty (if vals then valAt bs (i / pgDim h) (i % pgDim h) else keyAt bs (i / pgDim h) (i % pgDim h)))))) ∧
  (∀ (page : List Byte) (xs ys : List FV), page.length = 2 ^ 14 → let h := bytesToNat (page.take 64)
    let n := pgCount h
    pgLegal h = true → n < 64 → xs.length = pgDim h → ys.length = pgDim h →
    let p := kvAppend page xs ys
    let byte (q : List Byte) (i : Nat) : Nat := (q.getD i 0).toNat
    p.length = 2 ^ 14 ∧ pgCount (bytesToNat (p.take 64)) = n + 1 ∧ pgDim (bytesToNat (p.take 64)) = pgDim h ∧
    pgLegal (bytesToNat (p.take 64)) = true ∧ byte p (0x140 + n) = blockScale 7 xs ∧
    (∀ j x, xs[j]? = some x → byte p (0x400 + 96 * n + j) = (keyCode (blockScale 7 xs) x).toNat) ∧
    (∀ j y, ys[j]? = some y → let sc := blockScale 7 ((ys.drop (j / 32 * 32)).take 32)
      byte p (0x180 + 3 * n + j / 32) = sc ∧ byte p (0x1C00 + 96 * n + j) = (blockCode sc y).toNat) ∧
    (∀ v, v < n → byte p (0x140 + v) = byte page (0x140 + v) ∧ (∀ i, i < 3 → byte p (0x180 + 3 * v + i) = byte page (0x180 + 3 * v + i)) ∧
      ∀ j, j < 96 → byte p (0x400 + 96 * v + j) = byte page (0x400 + 96 * v + j) ∧
        byte p (0x1C00 + 96 * v + j) = byte page (0x1C00 + 96 * v + j)) ∧
    (∀ j, j < pgDim h → bytesToNat ((p.drop (0x40 + 2 * j)).take 2) = encF 4 (rneF 4 (divF
      ((List.range (n + 1)).foldl (fun a v => addF a (keyAt p v j)) (.fin false 0 0)) (n + 1))))) ∧
  (∀ (s : State) (c : Cmd) (out v : Dword) (fb : Fin 8) (s1 : State) (bs : List (Option FV)) (u off u' off' : Nat), Served s c →
    c.kind = .pgsel v fb.val →
    let b := PgBlock.ofNat ((c.block.take 4).foldr (fun w a => w.toNat + 2 ^ 64 * a) 0)
    s.cmdSp c b.qaddr (2 * b.dim) = .ok (u, off) → s.cmdSp c b.out (8 * b.k) = .ok (u', off') →
    let q := (List.range b.dim).map (fun i => decF 4 (s.mem.spGet u (off + 2 * i) 2))
    pgBounds c (s.part c.prt).ctx b.dim q (sqrtF (q.foldl (fun a x => mulAddF a x x) (.fin false 0 0))) s
      ((c.block.drop 4).map BitVec.toNat) = .ok (s1, bs) → b.out = out → out.toNat % 8 = 0 → twf 0 s.mem.sram = true →
    let xs := pgChoose b.k bs
    (∃ t : State, exec (.engineCommandComplete c.id) s = .next t ∧ (∀ x ∈ t.cmds, x.id ≠ c.id) ∧
      (∀ i x, xs[i]? = some x → t.mem.spGet u' (off' + 4 * b.k + 4 * i) 4 = encF 2 x.2) ∧
      (xs.length ≤ b.k → ∀ i x, xs[i]? = some x → x.1 < 2 ^ 32 → t.mem.spGet u' (off' + 4 * i) 4 = x.1) ∧
      ∃ d p, t.slot.fbs[fb] = .opened d 0 p ∧ d.n = xs.length ∧ d.ext = b.n ∧ d.pbase = out ∧ d.vbase = out + BitVec.ofNat 64 (4 * b.k)) ∧
    xs.Pairwise (fun x y => x.1 < y.1) ∧
    ∀ i x, (i, x) ∈ xs ↔ bs[i]? = some (some x) ∧
      ((List.range bs.length).filter (fun j => match bs.getD j none with
        | some y => ltV x y || (!ltV y x && decide (j < i))
        | none => false)).length < b.k)

/-- FWARP writes to every cell of its block the weighted taps it read, rounded once, and the greatest drift and age, the count of
clamped and outside references and the misalignment into its command block; RFMARK brings the cells of a block into scratchpad and
clears its drift words (R330, R334). -/
def Sys2Proof.Claims.WarpEngines : Prop :=
  ∀ (s : State) (c : Cmd) (k : BitVec 3), InService s c k → twf 0 s.mem.sram = true →
    let run := exec (.engineCommandComplete c.id) s
    let ctx := (s.part c.prt).ctx
    (∀ a s1 s2 s3 rs ds each u off, c.kind = .fwarp a →
      let b := WarpBlock.ofNat (blockNat c.block)
      let n := b.ch * wBytes b.ty
      let cells := blockCells b
      let taps := cells.flatMap (fun x => cellTaps b x.1 x.2)
      let dtaps := taps.filter (fun t => b.drf t.r != 0)
      readsAt c.unit ctx n s (taps.map (fun t => cellAddr (b.src t.r) b.gw n t.x t.y)) = .ok (s1, rs) →
      readsAt c.unit ctx 8 s1 (dtaps.map (fun t => cellAddr (b.drf t.r) b.gw 8 t.x t.y)) = .ok (s2, ds) →
      each.length = cells.length →
      (∀ i x, cells[i]? = some x → let before := ((cells.take i).map (fun y => (cellTaps b y.1 y.2).length)).sum
        let ts := cellTaps b x.1 x.2
        each[i]? = some (cellAddr b.dst b.gw n x.1 x.2,
          (List.range b.ch).flatMap (fun ch => natToBytes (wBytes b.ty) (warpElem b ts ((rs.drop before).take ts.length) ch)))) →
      writesAt c.unit ctx s2 each = (s3, none) → s3.cmdSp c a 128 = .ok (u, off) →
      let refs := List.range (if b.bi then 2 else 1)
      let clamped := (refs.map (fun r => b.mv r / 2 ^ 32 % 2 ^ 16)).sum + (taps.filter (fun t => t.out)).length
      let odd := refs.any (fun r => b.mv r % 64 != 0 || b.mv r / 2 ^ 16 % 64 != 0)
      let res1 := clamped % 2 ^ 32 + (if odd then 2 ^ 32 else 0)
      ∃ t : State, run = .next t ∧ Informed s t k (BitVec.ofNat 64 res1) ∧ t.mem.hbm = s3.mem.hbm ∧ t.mem.l2 = s3.mem.l2 ∧
        t.mem.spGet u (off + 0x50) 8 = res1 ∧
        t.mem.spGet u (off + 0x4C) 4 = (ds.map bytesToNat).foldl (fun x d => max x (d / 2 ^ 32 % 2 ^ 16)) 0 ∧
        t.mem.spGet u (off + 0x48) 4 = encF 2 ((ds.map bytesToNat).foldl (fun x d => fmaxNan x (decF 2 d)) (.fin false 0 0))) ∧
    (∀ a s1 s2 rs u off, c.kind = .rfmark a →
      let b := MarkBlock.ofNat (blockNat c.block)
      let cells := markCells b
      readsAt c.unit ctx 64 s cells = .ok (s1, rs) → s1.cmdSp c b.dsp (64 * cells.length) = .ok (u, off) →
      writesAt c.unit ctx { s1 with mem := s1.mem.spPut u off (rs.flatMap (markCell b.f32)) }
        ((markDrift b).map (fun a => (a, List.replicate 8 0))) = (s2, none) →
      ∃ t : State, run = .next t ∧ Informed s t k (BitVec.ofNat 64 cells.length) ∧ t.mem = s2.mem ∧
        ∀ i r j, rs[i]? = some r → j < 16 → let v := bytesToNat ((r.drop (4 * j)).take 4)
          s2.mem.spGet u (off + 64 * i + 4 * j) 4 =
            if b.f32 then encF 2 (rneF 2 (match FV.ofInt (signed 32 v) with
              | .fin g m e => .fin g m (e - 4)
              | w => w)) else v)

/-! ### Statements of several parts -/

/-- A task instruction issues only from a slot in a firing with no request waiting; an idle PE changes nothing
(NoIssueWithoutFiring, IdlePeChangesNothing). -/
def Obligations.IssueNeedsReadySlots : Prop := Claims.NoIssueWithoutFiring ∧ Claims.IdlePeChangesNothing

/-- Integer values read back as written, and DIV and REM satisfy a = q·b + r (IntegerValuesRoundTrip, DivisionIdentity). -/
def Obligations.IntegerValuesAndDivision : Prop := Claims.IntegerValuesRoundTrip ∧ Claims.DivisionIdentity

/-- CMP, MOVI, MOVL, LEA, BFX, SEGR, MOVL.hi and BFI write what their rules say (MoveInstructions, InsertInstructions). -/
def Obligations.MoveAndInsertInstructions : Prop := Claims.MoveInstructions ∧ Claims.InsertInstructions

/-- Float instructions round once, mark invalid operations, and FMIN to FCLASS are exact without a flag (RoundedFloatInstructions,
ExactFloatInstructions). -/
def Obligations.FloatInstructions : Prop := Claims.RoundedFloatInstructions ∧ Claims.ExactFloatInstructions

/-- Float codes survive decoding and encoding, sums and products are exact, and rounding takes a neighbour (FloatCodesRoundTrip,
RoundToIntegerIsNear, RoundToFloatIsNear, ExactSumsAndProducts). -/
def Obligations.FloatCodesAndRounding : Prop := Claims.FloatCodesRoundTrip ∧ Claims.RoundToIntegerIsNear ∧ Claims.RoundToFloatIsNear ∧ Claims.ExactSumsAndProducts

/-- Registers read back what was written, and operands come from where their fields say (RegisterReadAfterWrite, OperandSources,
OperandOrder). -/
def Obligations.RegistersAndOperands : Prop := Claims.RegisterReadAfterWrite ∧ Claims.OperandSources ∧ Claims.OperandOrder

/-- The loop test at retirement, branches that leave loops, and CALL and RET with their stack (RetirementLoopTest,
BranchInstructions, CallAndReturn). -/
def Obligations.LoopTestBranchesAndCalls : Prop := Claims.RetirementLoopTest ∧ Claims.BranchInstructions ∧ Claims.CallAndReturn

/-- NOP and VRHINT only retire, WAIT waits for what it covers, HALT ends the firing (NopHintAndWait, HaltEndsTheFiring). -/
def Obligations.NopWaitAndHalt : Prop := Claims.NopHintAndWait ∧ Claims.HaltEndsTheFiring

/-- TRAP takes the program trap, and a fatal fault stops its context (TrapTakesTheProgramTrap, FatalFaultStopsTheContext). -/
def Obligations.TrapAndFatalFaults : Prop := Claims.TrapTakesTheProgramTrap ∧ Claims.FatalFaultStopsTheContext

/-- PEEK, FWD, MKR and MKT move tokens and markers, DROP consumes them (PeekForwardAndMarkers, DropConsumes). -/
def Obligations.PeekForwardDropAndMarkers : Prop := Claims.PeekForwardAndMarkers ∧ Claims.DropConsumes

/-- STEER sends its token by its control, MERGE takes its token by its control or waits for it (SteerRoutes, MergeSelects,
MergePastTheCount). -/
def Obligations.SteerAndMerge : Prop := Claims.SteerRoutes ∧ Claims.MergeSelects ∧ Claims.MergePastTheCount

/-- RWSET, SYSRD, SYSWR, TIME and ENRD read and write the special registers (WindowTimerAndEnergy, SpecialRegistersReadBack). -/
def Obligations.SpecialRegisters : Prop := Claims.WindowTimerAndEnergy ∧ Claims.SpecialRegistersReadBack

/-- LD and ST of scratchpads and of virtual memory (ScratchpadLoadAndStore, VirtualLoadAndStore). -/
def Obligations.LoadsAndStores : Prop := Claims.ScratchpadLoadAndStore ∧ Claims.VirtualLoadAndStore

/-- A store through an L1 changes the bytes it stores, and a load reads them back (CachedStoreFrame, CachedLoadAfterStore,
CachedLoadReads). -/
def Obligations.CachedStores : Prop := Claims.CachedStoreFrame ∧ Claims.CachedLoadAfterStore ∧ Claims.CachedLoadReads

/-- An access takes the fault of the first test that fails (AccessFaultOrder, TranslationFaults). -/
def Obligations.AccessFaultOrder : Prop := Claims.AccessFaultOrder ∧ Claims.TranslationFaults

/-- LDW, LDC, STE, FESET and FETEST on full/empty words (FullEmptyInstructions, TagWaiters). -/
def Obligations.FullEmptyInstructions : Prop := Claims.FullEmptyInstructions ∧ Claims.TagWaiters

/-- LDP, STO and PTEST on write-once granules, and PCLR (WriteOnceInstructions, ClearPresence). -/
def Obligations.WriteOnceMemory : Prop := Claims.WriteOnceInstructions ∧ Claims.ClearPresence

/-- The cache instructions, and what they leave at a line's home and in the L1s (CacheInstructions, LineMovements). -/
def Obligations.CacheInstructions : Prop := Claims.CacheInstructions ∧ Claims.LineMovements

/-- Atomics, double atomics and the counter instructions (AtomicInstructions, DoubleAtomics, CounterInstructions). -/
def Obligations.AtomicsAndCounters : Prop := Claims.AtomicInstructions ∧ Claims.DoubleAtomics ∧ Claims.CounterInstructions

/-- CPY hands its copy over; the ring instructions follow the ring protocol (CopyCommand, RingInstructions, RingTransitions,
RingWaiters). -/
def Obligations.CopiesAndRings : Prop := Claims.CopyCommand ∧ Claims.RingInstructions ∧ Claims.RingTransitions ∧ Claims.RingWaiters

/-- Fibre and stream cursors: open, test, advance, read, seek and intersect (CursorInstructions, SeekAndIntersect). -/
def Obligations.CursorsAndIntersections : Prop := Claims.CursorInstructions ∧ Claims.SeekAndIntersect

/-- NZSCAN writes the live indices; GATH and SCAT hand over their commands, which their engine performs (NonzeroScan,
GatherCommands, GatherEngine). -/
def Obligations.ScansAndGathers : Prop := Claims.NonzeroScan ∧ Claims.GatherCommands ∧ Claims.GatherEngine

/-- PDEC and PENC are inverse pattern maps; PERM writes its permutation's element (PatternNumbers, PatternsInverse,
PermInstruction). -/
def Obligations.PatternsAndPermutations : Prop := Claims.PatternNumbers ∧ Claims.PatternsInverse ∧ Claims.PermInstruction

/-- The key-value page and frame-warp instructions hand over their commands, which their engines perform (PageAndWarpCommands,
PageEngines, WarpEngines). -/
def Obligations.PagesAndWarps : Prop := Claims.PageAndWarpCommands ∧ Claims.PageEngines ∧ Claims.WarpEngines

/-- The coded-video instructions, the parse of a frame and the publication of its packets (VideoInstructions, VideoEvents,
FramesAndSlots, PacketsAndCells). -/
def Obligations.VideoStreams : Prop := Claims.VideoInstructions ∧ Claims.VideoEvents ∧ Claims.FramesAndSlots ∧ Claims.PacketsAndCells

/-- The matrix and ternary instructions check and hand over their commands (MatrixInstructions, TernaryInstructions). -/
def Obligations.MatrixAndTernaryInstructions : Prop := Claims.MatrixInstructions ∧ Claims.TernaryInstructions

/-- Delta queues and hash indices: put, get, consolidate, look up and update (QueueInstructions, ConsolidationKeepsSums,
IndexInstructions). -/
def Obligations.QueuesAndIndices : Prop := Claims.QueueInstructions ∧ Claims.ConsolidationKeepsSums ∧ Claims.IndexInstructions

/-- LAUNCH and the launch-control instructions (LaunchInstruction, LaunchControlInstructions). -/
def Obligations.LaunchInstructions : Prop := Claims.LaunchInstruction ∧ Claims.LaunchControlInstructions

/-- A matrix island performs its commands and its armed tiles (IslandCommands, ArmedTile). -/
def Obligations.IslandSteps : Prop := Claims.IslandCommands ∧ Claims.ArmedTile

/-- The sequencer's steps, pre-emption, and the end of an imposition (SequencerSteps, PreemptionAndCompletion). -/
def Obligations.SequencerAndCompletion : Prop := Claims.SequencerSteps ∧ Claims.PreemptionAndCompletion

/-- The arbiter grants the first queue; the power arbiter grants clock steps within the budget (ArbiterGrantsTheFirstQueue,
ClockGrants). -/
def Obligations.ArbiterAndClockGrants : Prop := Claims.ArbiterGrantsTheFirstQueue ∧ Claims.ClockGrants

/-- A task fires when its tokens and slots are there, and a control register is filled from its save word (TaskFiring,
RegisterFillBringsTheRegister). -/
def Obligations.FiringAndRegisterFill : Prop := Claims.TaskFiring ∧ Claims.RegisterFillBringsTheRegister

/-- Tokens cross links in order, and elastic stages deal and collect them (LinkTransfers, ElasticStages). -/
def Obligations.LinksAndStages : Prop := Claims.LinkTransfers ∧ Claims.ElasticStages

/-- Draining: sections, bridges and units (DrainSteps, BridgeDrainComesLast). -/
def Obligations.DrainSteps : Prop := Claims.DrainSteps ∧ Claims.BridgeDrainComesLast

/-- Waiting requests reach their slots, and engine commands complete with their tokens (WaitingRequests, EngineCommands,
EngineAccesses). -/
def Obligations.RequestsAndEngines : Prop := Claims.WaitingRequests ∧ Claims.EngineCommands ∧ Claims.EngineAccesses

/-- Evictions write back, walks install translations and invalidations drop them (EvictionWritesBack, CachesStayCoherent,
WalksAndInvalidations). -/
def Obligations.EvictionsAndTranslations : Prop := Claims.EvictionWritesBack ∧ Claims.CachesStayCoherent ∧ Claims.WalksAndInvalidations

/-- A suspended task resumes at FRESUME; the fault rings' base and tail registers (SuspendAndResume, FaultRingRegisters). -/
def Obligations.SuspensionAndFaultRings : Prop := Claims.SuspendAndResume ∧ Claims.FaultRingRegisters

/-- A VF reset clears its function; errors poison words and fence units (VfResetClearsTheFunction, UnitErrorsFence). -/
def Obligations.ResetsAndUnitErrors : Prop := Claims.VfResetClearsTheFunction ∧ Claims.UnitErrorsFence

/-- Writes of the register space by place, width and function; ownership registers (RegisterWrites, OwnershipRegisters). -/
def Obligations.RegisterSpace : Prop := Claims.RegisterWrites ∧ Claims.OwnershipRegisters

/-- The timer registers, the static energy of a microsecond, and the thermal cap and trip (TimerRegisters, StaticEnergy,
ThermalLimits). -/
def Obligations.TimeEnergyAndHeat : Prop := Claims.TimerRegisters ∧ Claims.StaticEnergy ∧ Claims.ThermalLimits

/-- Accesses between packages, reductions and Holvor links (RemoteAccesses, ReductionWindows, HolvorLinks). -/
def Obligations.OtherPackages : Prop := Claims.RemoteAccesses ∧ Claims.ReductionWindows ∧ Claims.HolvorLinks

/-- The boot stages, and quotes that never use an index twice (BootStages, AttestationQuotes). -/
def Obligations.BootAndAttestation : Prop := Claims.BootStages ∧ Claims.AttestationQuotes
end

