-- ==== Sys2Proof/Laws/PerInstr.lean ====
section
/-! SUPPORT. One lemma per constructor of `Instr`: the table of the decoder gives a well-formed task instruction back from its
opcode and its fields (R108, R114 to R116), and a device step has no words. -/

namespace Sys2Proof.Laws.Lookup

open Sys2Proof Sys2Proof.Machine

/-- What holds of every instruction: among the rows of its opcode its own is the one found, or it has no words. -/
def Statement (i : Instr) : Prop :=
  match fieldsOf i with
  | some (r, o) => Instr.wfFields r o = true → lookupInstr r.e.op o = some i
  | none => encode i = []

/-- Two rows that no form and no F selection have in common. -/
def apart (q r : Row) : Bool :=
  [Form.s, .i, .l, .w].all (fun fm => !(q.forms.contains fm && r.forms.contains fm)) ||
  (List.range 16).all (fun n => !(q.e.fsel (BitVec.ofNat 4 n) && r.e.fsel (BitVec.ofNat 4 n)))

/-- A word group that one of two rows apart admits, the other does not. -/
theorem not_wf_of_apart {q r : Row} {o : Ops} (h : apart q r = true) (hr : Instr.wfFields r o = true) :
    Instr.wfFields q o = false := by
  simp only [Instr.wfFields, Bool.and_eq_true] at hr
  obtain ⟨⟨hf, hs⟩, -⟩ := hr
  simp only [apart, Bool.or_eq_true, List.all_eq_true] at h
  rcases h with h | h
  · have := h o.form (by cases o.form <;> decide)
    simp_all [Instr.wfFields]
  · have := h o.f.toNat (List.mem_range.mpr o.f.isLt)
    simp_all [Instr.wfFields]

/-- The row of an instruction is found after rows that are apart from it. -/
theorem lookup_found {op : BitVec 8} {r : Row} {o : Ops} (pre : List Row) {post : List Row}
    (hr : rowsOf op = pre ++ r :: post) (ha : pre.all (fun q => apart q r) = true) (h : Instr.wfFields r o = true) :
    lookupInstr op o = some (r.ctor o) := by
  have hp : pre.find? (fun q => Instr.wfFields q o) = none := by
    simp only [List.find?_eq_none]
    intro q hq
    simp [not_wf_of_apart (List.all_eq_true.mp ha q hq) h]
  simp [lookupInstr, hr, List.find?_append, hp, h]

theorem nop (o : Ops) : Statement (.nop o) := lookup_found [] rfl (by decide)
theorem halt (o : Ops) : Statement (.halt o) := lookup_found [] rfl (by decide)
theorem wait (o : Ops) : Statement (.wait o) := lookup_found [] rfl (by decide)
theorem br (o : Ops) : Statement (.br o) := lookup_found [] rfl (by decide)
theorem bz (o : Ops) : Statement (.bz o) := lookup_found [] rfl (by decide)
theorem bnz (o : Ops) : Statement (.bnz o) := lookup_found [] rfl (by decide)
theorem blt (o : Ops) : Statement (.blt o) := lookup_found [] rfl (by decide)
theorem bge (o : Ops) : Statement (.bge o) := lookup_found [] rfl (by decide)
theorem bmk (o : Ops) : Statement (.bmk o) := lookup_found [] rfl (by decide)
theorem call (o : Ops) : Statement (.call o) := lookup_found [] rfl (by decide)
theorem ret (o : Ops) : Statement (.ret o) := lookup_found [] rfl (by decide)
theorem loopi (o : Ops) : Statement (.loopi o) := lookup_found [] rfl (by decide)
theorem loopr (o : Ops) : Statement (.loopr o) := lookup_found [] rfl (by decide)
theorem trap (o : Ops) : Statement (.trap o) := lookup_found [] rfl (by decide)
theorem add (o : Ops) : Statement (.add o) := lookup_found [] rfl (by decide)
theorem addLong (o : Ops) : Statement (.addLong o) := lookup_found [⟨eAdd, [.s], .add⟩] rfl (by decide)
theorem addi (o : Ops) : Statement (.addi o) := lookup_found [] rfl (by decide)
theorem addiLong (o : Ops) : Statement (.addiLong o) := lookup_found [⟨eAddi, [.i], .addi⟩] rfl (by decide)
theorem sub (o : Ops) : Statement (.sub o) := lookup_found [] rfl (by decide)
theorem subLong (o : Ops) : Statement (.subLong o) := lookup_found [⟨eSub, [.s], .sub⟩] rfl (by decide)
theorem mul (o : Ops) : Statement (.mul o) := lookup_found [] rfl (by decide)
theorem mulLong (o : Ops) : Statement (.mulLong o) := lookup_found [⟨eMul, [.s], .mul⟩] rfl (by decide)
theorem mulh (o : Ops) : Statement (.mulh o) := lookup_found [] rfl (by decide)
theorem mulhLong (o : Ops) : Statement (.mulhLong o) := lookup_found [⟨eMulh, [.s], .mulh⟩] rfl (by decide)
theorem div (o : Ops) : Statement (.div o) := lookup_found [] rfl (by decide)
theorem divLong (o : Ops) : Statement (.divLong o) := lookup_found [⟨eDiv, [.s], .div⟩] rfl (by decide)
theorem rem (o : Ops) : Statement (.rem o) := lookup_found [] rfl (by decide)
theorem remLong (o : Ops) : Statement (.remLong o) := lookup_found [⟨eRem, [.s], .rem⟩] rfl (by decide)
theorem and (o : Ops) : Statement (.and o) := lookup_found [] rfl (by decide)
theorem andLong (o : Ops) : Statement (.andLong o) := lookup_found [⟨eAnd, [.s], .and⟩] rfl (by decide)
theorem or (o : Ops) : Statement (.or o) := lookup_found [] rfl (by decide)
theorem orLong (o : Ops) : Statement (.orLong o) := lookup_found [⟨eOr, [.s], .or⟩] rfl (by decide)
theorem xor (o : Ops) : Statement (.xor o) := lookup_found [] rfl (by decide)
theorem xorLong (o : Ops) : Statement (.xorLong o) := lookup_found [⟨eXor, [.s], .xor⟩] rfl (by decide)
theorem xori (o : Ops) : Statement (.xori o) := lookup_found [] rfl (by decide)
theorem xoriLong (o : Ops) : Statement (.xoriLong o) := lookup_found [⟨eXori, [.i], .xori⟩] rfl (by decide)
theorem shl (o : Ops) : Statement (.shl o) := lookup_found [] rfl (by decide)
theorem shlLong (o : Ops) : Statement (.shlLong o) := lookup_found [⟨eShl, [.s], .shl⟩] rfl (by decide)
theorem shr (o : Ops) : Statement (.shr o) := lookup_found [] rfl (by decide)
theorem shrLong (o : Ops) : Statement (.shrLong o) := lookup_found [⟨eShr, [.s], .shr⟩] rfl (by decide)
theorem sar (o : Ops) : Statement (.sar o) := lookup_found [] rfl (by decide)
theorem sarLong (o : Ops) : Statement (.sarLong o) := lookup_found [⟨eSar, [.s], .sar⟩] rfl (by decide)
theorem rot (o : Ops) : Statement (.rot o) := lookup_found [] rfl (by decide)
theorem rotLong (o : Ops) : Statement (.rotLong o) := lookup_found [⟨eRot, [.s], .rot⟩] rfl (by decide)
theorem clz (o : Ops) : Statement (.clz o) := lookup_found [] rfl (by decide)
theorem clzLong (o : Ops) : Statement (.clzLong o) := lookup_found [⟨eClz, [.s], .clz⟩] rfl (by decide)
theorem popc (o : Ops) : Statement (.popc o) := lookup_found [] rfl (by decide)
theorem popcLong (o : Ops) : Statement (.popcLong o) := lookup_found [⟨ePopc, [.s], .popc⟩] rfl (by decide)
theorem min (o : Ops) : Statement (.min o) := lookup_found [] rfl (by decide)
theorem minLong (o : Ops) : Statement (.minLong o) := lookup_found [⟨eMin, [.s], .min⟩] rfl (by decide)
theorem max (o : Ops) : Statement (.max o) := lookup_found [] rfl (by decide)
theorem maxLong (o : Ops) : Statement (.maxLong o) := lookup_found [⟨eMax, [.s], .max⟩] rfl (by decide)
theorem abs (o : Ops) : Statement (.abs o) := lookup_found [] rfl (by decide)
theorem absLong (o : Ops) : Statement (.absLong o) := lookup_found [⟨eAbs, [.s], .abs⟩] rfl (by decide)
theorem neg (o : Ops) : Statement (.neg o) := lookup_found [] rfl (by decide)
theorem negLong (o : Ops) : Statement (.negLong o) := lookup_found [⟨eNeg, [.s], .neg⟩] rfl (by decide)
theorem cmp (o : Ops) : Statement (.cmp o) := lookup_found [] rfl (by decide)
theorem cmpLong (o : Ops) : Statement (.cmpLong o) := lookup_found [⟨eCmp, [.s], .cmp⟩] rfl (by decide)
theorem movi (o : Ops) : Statement (.movi o) := lookup_found [] rfl (by decide)
theorem moviLong (o : Ops) : Statement (.moviLong o) := lookup_found [⟨eMovi, [.i], .movi⟩] rfl (by decide)
theorem movl (o : Ops) : Statement (.movl o) := lookup_found [] rfl (by decide)
theorem movlHi (o : Ops) : Statement (.movlHi o) := lookup_found [⟨eMovl, eMovl.forms, .movl⟩] rfl (by decide)
theorem lea (o : Ops) : Statement (.lea o) := lookup_found [] rfl (by decide)
theorem bfx (o : Ops) : Statement (.bfx o) := lookup_found [] rfl (by decide)
theorem bfi (o : Ops) : Statement (.bfi o) := lookup_found [] rfl (by decide)
theorem fadd (o : Ops) : Statement (.fadd o) := lookup_found [] rfl (by decide)
theorem faddLong (o : Ops) : Statement (.faddLong o) := lookup_found [⟨eFadd, [.s], .fadd⟩] rfl (by decide)
theorem fsub (o : Ops) : Statement (.fsub o) := lookup_found [] rfl (by decide)
theorem fsubLong (o : Ops) : Statement (.fsubLong o) := lookup_found [⟨eFsub, [.s], .fsub⟩] rfl (by decide)
theorem fmul (o : Ops) : Statement (.fmul o) := lookup_found [] rfl (by decide)
theorem fmulLong (o : Ops) : Statement (.fmulLong o) := lookup_found [⟨eFmul, [.s], .fmul⟩] rfl (by decide)
theorem fma (o : Ops) : Statement (.fma o) := lookup_found [] rfl (by decide)
theorem fmin (o : Ops) : Statement (.fmin o) := lookup_found [] rfl (by decide)
theorem fminLong (o : Ops) : Statement (.fminLong o) := lookup_found [⟨eFmin, [.s], .fmin⟩] rfl (by decide)
theorem fmax (o : Ops) : Statement (.fmax o) := lookup_found [] rfl (by decide)
theorem fmaxLong (o : Ops) : Statement (.fmaxLong o) := lookup_found [⟨eFmax, [.s], .fmax⟩] rfl (by decide)
theorem fabs (o : Ops) : Statement (.fabs o) := lookup_found [] rfl (by decide)
theorem fabsLong (o : Ops) : Statement (.fabsLong o) := lookup_found [⟨eFabs, [.s], .fabs⟩] rfl (by decide)
theorem fneg (o : Ops) : Statement (.fneg o) := lookup_found [] rfl (by decide)
theorem fnegLong (o : Ops) : Statement (.fnegLong o) := lookup_found [⟨eFneg, [.s], .fneg⟩] rfl (by decide)
theorem fcmp (o : Ops) : Statement (.fcmp o) := lookup_found [] rfl (by decide)
theorem fcmpLong (o : Ops) : Statement (.fcmpLong o) := lookup_found [⟨eFcmp, [.s], .fcmp⟩] rfl (by decide)
theorem fclass (o : Ops) : Statement (.fclass o) := lookup_found [] rfl (by decide)
theorem fclassLong (o : Ops) : Statement (.fclassLong o) := lookup_found [⟨eFclass, [.s], .fclass⟩] rfl (by decide)
theorem fcvt (o : Ops) : Statement (.fcvt o) := lookup_found [] rfl (by decide)
theorem fcvtLong (o : Ops) : Statement (.fcvtLong o) := lookup_found [⟨eFcvt, [.s], .fcvt⟩] rfl (by decide)
theorem icvt (o : Ops) : Statement (.icvt o) := lookup_found [] rfl (by decide)
theorem icvtLong (o : Ops) : Statement (.icvtLong o) := lookup_found [⟨eIcvt, [.s], .icvt⟩] rfl (by decide)
theorem frcp (o : Ops) : Statement (.frcp o) := lookup_found [] rfl (by decide)
theorem frcpLong (o : Ops) : Statement (.frcpLong o) := lookup_found [⟨eFrcp, [.s], .frcp⟩] rfl (by decide)
theorem frsq (o : Ops) : Statement (.frsq o) := lookup_found [] rfl (by decide)
theorem frsqLong (o : Ops) : Statement (.frsqLong o) := lookup_found [⟨eFrsq, [.s], .frsq⟩] rfl (by decide)
theorem fsqrt (o : Ops) : Statement (.fsqrt o) := lookup_found [] rfl (by decide)
theorem fsqrtLong (o : Ops) : Statement (.fsqrtLong o) := lookup_found [⟨eFsqrt, [.s], .fsqrt⟩] rfl (by decide)
theorem fex2 (o : Ops) : Statement (.fex2 o) := lookup_found [] rfl (by decide)
theorem fex2Long (o : Ops) : Statement (.fex2Long o) := lookup_found [⟨eFex2, [.s], .fex2⟩] rfl (by decide)
theorem flg2 (o : Ops) : Statement (.flg2 o) := lookup_found [] rfl (by decide)
theorem flg2Long (o : Ops) : Statement (.flg2Long o) := lookup_found [⟨eFlg2, [.s], .flg2⟩] rfl (by decide)
theorem fsinp (o : Ops) : Statement (.fsinp o) := lookup_found [] rfl (by decide)
theorem fsinpLong (o : Ops) : Statement (.fsinpLong o) := lookup_found [⟨eFsinp, [.s], .fsinp⟩] rfl (by decide)
theorem fcosp (o : Ops) : Statement (.fcosp o) := lookup_found [] rfl (by decide)
theorem fcospLong (o : Ops) : Statement (.fcospLong o) := lookup_found [⟨eFcosp, [.s], .fcosp⟩] rfl (by decide)
theorem ftnh (o : Ops) : Statement (.ftnh o) := lookup_found [] rfl (by decide)
theorem ftnhLong (o : Ops) : Statement (.ftnhLong o) := lookup_found [⟨eFtnh, [.s], .ftnh⟩] rfl (by decide)
theorem peek (o : Ops) : Statement (.peek o) := lookup_found [] rfl (by decide)
theorem drop (o : Ops) : Statement (.drop o) := lookup_found [] rfl (by decide)
theorem fwd (o : Ops) : Statement (.fwd o) := lookup_found [] rfl (by decide)
theorem mkr (o : Ops) : Statement (.mkr o) := lookup_found [] rfl (by decide)
theorem mkt (o : Ops) : Statement (.mkt o) := lookup_found [] rfl (by decide)
theorem steer (o : Ops) : Statement (.steer o) := lookup_found [] rfl (by decide)
theorem steerLong (o : Ops) : Statement (.steerLong o) := lookup_found [⟨eSteer, [.s], .steer⟩] rfl (by decide)
theorem merge (o : Ops) : Statement (.merge o) := lookup_found [] rfl (by decide)
theorem racc (o : Ops) : Statement (.racc o) := lookup_found [] rfl (by decide)
theorem raccLong (o : Ops) : Statement (.raccLong o) := lookup_found [⟨eRacc, [.s], .racc⟩] rfl (by decide)
theorem segr (o : Ops) : Statement (.segr o) := lookup_found [] rfl (by decide)
theorem segrLong (o : Ops) : Statement (.segrLong o) := lookup_found [⟨eSegr, [.s], .segr⟩] rfl (by decide)
theorem rwset (o : Ops) : Statement (.rwset o) := lookup_found [] rfl (by decide)
theorem vrhint (o : Ops) : Statement (.vrhint o) := lookup_found [] rfl (by decide)
theorem sysrd (o : Ops) : Statement (.sysrd o) := lookup_found [] rfl (by decide)
theorem syswr (o : Ops) : Statement (.syswr o) := lookup_found [] rfl (by decide)
theorem time (o : Ops) : Statement (.time o) := lookup_found [] rfl (by decide)
theorem enrd (o : Ops) : Statement (.enrd o) := lookup_found [] rfl (by decide)
theorem ld (o : Ops) : Statement (.ld o) := lookup_found [] rfl (by decide)
theorem ldImm (o : Ops) : Statement (.ldImm o) := lookup_found [⟨eLd, [.s], .ld⟩] rfl (by decide)
theorem ldLong (o : Ops) : Statement (.ldLong o) := lookup_found [⟨eLd, [.s], .ld⟩, ⟨eLd, [.i], .ldImm⟩] rfl (by decide)
theorem st (o : Ops) : Statement (.st o) := lookup_found [] rfl (by decide)
theorem stLong (o : Ops) : Statement (.stLong o) := lookup_found [⟨eSt, [.s], .st⟩] rfl (by decide)
theorem ldw (o : Ops) : Statement (.ldw o) := lookup_found [] rfl (by decide)
theorem ldwLong (o : Ops) : Statement (.ldwLong o) := lookup_found [⟨eLdw, [.s], .ldw⟩] rfl (by decide)
theorem ldc (o : Ops) : Statement (.ldc o) := lookup_found [] rfl (by decide)
theorem ldcLong (o : Ops) : Statement (.ldcLong o) := lookup_found [⟨eLdc, [.s], .ldc⟩] rfl (by decide)
theorem ste (o : Ops) : Statement (.ste o) := lookup_found [] rfl (by decide)
theorem steLong (o : Ops) : Statement (.steLong o) := lookup_found [⟨eSte, [.s], .ste⟩] rfl (by decide)
theorem feset (o : Ops) : Statement (.feset o) := lookup_found [] rfl (by decide)
theorem fesetLong (o : Ops) : Statement (.fesetLong o) := lookup_found [⟨eFeset, [.s], .feset⟩] rfl (by decide)
theorem fetest (o : Ops) : Statement (.fetest o) := lookup_found [] rfl (by decide)
theorem fetestLong (o : Ops) : Statement (.fetestLong o) := lookup_found [⟨eFetest, [.s], .fetest⟩] rfl (by decide)
theorem ldp (o : Ops) : Statement (.ldp o) := lookup_found [] rfl (by decide)
theorem ldpImm (o : Ops) : Statement (.ldpImm o) := lookup_found [⟨eLdp, [.s], .ldp⟩] rfl (by decide)
theorem ldpLong (o : Ops) : Statement (.ldpLong o) := lookup_found [⟨eLdp, [.s], .ldp⟩, ⟨eLdp, [.i], .ldpImm⟩] rfl (by decide)
theorem sto (o : Ops) : Statement (.sto o) := lookup_found [] rfl (by decide)
theorem stoLong (o : Ops) : Statement (.stoLong o) := lookup_found [⟨eSto, [.s], .sto⟩] rfl (by decide)
theorem ptest (o : Ops) : Statement (.ptest o) := lookup_found [] rfl (by decide)
theorem ptestImm (o : Ops) : Statement (.ptestImm o) := lookup_found [⟨ePtest, [.s], .ptest⟩] rfl (by decide)
theorem ptestLong (o : Ops) : Statement (.ptestLong o) := lookup_found [⟨ePtest, [.s], .ptest⟩, ⟨ePtest, [.i], .ptestImm⟩] rfl (by decide)
theorem pclr (o : Ops) : Statement (.pclr o) := lookup_found [] rfl (by decide)
theorem pft (o : Ops) : Statement (.pft o) := lookup_found [] rfl (by decide)
theorem pftImm (o : Ops) : Statement (.pftImm o) := lookup_found [⟨ePft, [.s], .pft⟩] rfl (by decide)
theorem pftLong (o : Ops) : Statement (.pftLong o) := lookup_found [⟨ePft, [.s], .pft⟩, ⟨ePft, [.i], .pftImm⟩] rfl (by decide)
theorem clwb (o : Ops) : Statement (.clwb o) := lookup_found [] rfl (by decide)
theorem clwbImm (o : Ops) : Statement (.clwbImm o) := lookup_found [⟨eClwb, [.s], .clwb⟩] rfl (by decide)
theorem clwbLong (o : Ops) : Statement (.clwbLong o) := lookup_found [⟨eClwb, [.s], .clwb⟩, ⟨eClwb, [.i], .clwbImm⟩] rfl (by decide)
theorem clinv (o : Ops) : Statement (.clinv o) := lookup_found [] rfl (by decide)
theorem clinvImm (o : Ops) : Statement (.clinvImm o) := lookup_found [⟨eClinv, [.s], .clinv⟩] rfl (by decide)
theorem clinvLong (o : Ops) : Statement (.clinvLong o) := lookup_found [⟨eClinv, [.s], .clinv⟩, ⟨eClinv, [.i], .clinvImm⟩] rfl (by decide)
theorem fence (o : Ops) : Statement (.fence o) := lookup_found [] rfl (by decide)
theorem aadd (o : Ops) : Statement (.aadd o) := lookup_found [] rfl (by decide)
theorem aaddLong (o : Ops) : Statement (.aaddLong o) := lookup_found [⟨eAadd, [.s], .aadd⟩] rfl (by decide)
theorem aand (o : Ops) : Statement (.aand o) := lookup_found [] rfl (by decide)
theorem aandLong (o : Ops) : Statement (.aandLong o) := lookup_found [⟨eAand, [.s], .aand⟩] rfl (by decide)
theorem aor (o : Ops) : Statement (.aor o) := lookup_found [] rfl (by decide)
theorem aorLong (o : Ops) : Statement (.aorLong o) := lookup_found [⟨eAor, [.s], .aor⟩] rfl (by decide)
theorem axor (o : Ops) : Statement (.axor o) := lookup_found [] rfl (by decide)
theorem axorLong (o : Ops) : Statement (.axorLong o) := lookup_found [⟨eAxor, [.s], .axor⟩] rfl (by decide)
theorem amin (o : Ops) : Statement (.amin o) := lookup_found [] rfl (by decide)
theorem aminLong (o : Ops) : Statement (.aminLong o) := lookup_found [⟨eAmin, [.s], .amin⟩] rfl (by decide)
theorem amax (o : Ops) : Statement (.amax o) := lookup_found [] rfl (by decide)
theorem amaxLong (o : Ops) : Statement (.amaxLong o) := lookup_found [⟨eAmax, [.s], .amax⟩] rfl (by decide)
theorem axchg (o : Ops) : Statement (.axchg o) := lookup_found [] rfl (by decide)
theorem axchgLong (o : Ops) : Statement (.axchgLong o) := lookup_found [⟨eAxchg, [.s], .axchg⟩] rfl (by decide)
theorem acas (o : Ops) : Statement (.acas o) := lookup_found [] rfl (by decide)
theorem afadd (o : Ops) : Statement (.afadd o) := lookup_found [] rfl (by decide)
theorem afaddLong (o : Ops) : Statement (.afaddLong o) := lookup_found [⟨eAfadd, [.s], .afadd⟩] rfl (by decide)
theorem dcas (o : Ops) : Statement (.dcas o) := lookup_found [] rfl (by decide)
theorem amov2 (o : Ops) : Statement (.amov2 o) := lookup_found [] rfl (by decide)
theorem cbinc (o : Ops) : Statement (.cbinc o) := lookup_found [] rfl (by decide)
theorem cbincLong (o : Ops) : Statement (.cbincLong o) := lookup_found [⟨eCbinc, [.s], .cbinc⟩] rfl (by decide)
theorem cbsnap (o : Ops) : Statement (.cbsnap o) := lookup_found [] rfl (by decide)
theorem cpy (o : Ops) : Statement (.cpy o) := lookup_found [] rfl (by decide)
theorem rsacq (o : Ops) : Statement (.rsacq o) := lookup_found [] rfl (by decide)
theorem rspub (o : Ops) : Statement (.rspub o) := lookup_found [] rfl (by decide)
theorem rstake (o : Ops) : Statement (.rstake o) := lookup_found [] rfl (by decide)
theorem rsrel (o : Ops) : Statement (.rsrel o) := lookup_found [] rfl (by decide)
theorem fbopn (o : Ops) : Statement (.fbopn o) := lookup_found [] rfl (by decide)
theorem smopn (o : Ops) : Statement (.smopn o) := lookup_found [⟨eFbopn, eFbopn.forms, .fbopn⟩] rfl (by decide)
theorem fbadv (o : Ops) : Statement (.fbadv o) := lookup_found [] rfl (by decide)
theorem smadv (o : Ops) : Statement (.smadv o) := lookup_found [⟨eFbadv, eFbadv.forms, .fbadv⟩] rfl (by decide)
theorem fbend (o : Ops) : Statement (.fbend o) := lookup_found [] rfl (by decide)
theorem smend (o : Ops) : Statement (.smend o) := lookup_found [⟨eFbend, eFbend.forms, .fbend⟩] rfl (by decide)
theorem fbcls (o : Ops) : Statement (.fbcls o) := lookup_found [] rfl (by decide)
theorem smcls (o : Ops) : Statement (.smcls o) := lookup_found [⟨eFbcls, eFbcls.forms, .fbcls⟩] rfl (by decide)
theorem fbpos (o : Ops) : Statement (.fbpos o) := lookup_found [] rfl (by decide)
theorem fbval (o : Ops) : Statement (.fbval o) := lookup_found [] rfl (by decide)
theorem fbsek (o : Ops) : Statement (.fbsek o) := lookup_found [] rfl (by decide)
theorem fbisx (o : Ops) : Statement (.fbisx o) := lookup_found [] rfl (by decide)
theorem nzscan (o : Ops) : Statement (.nzscan o) := lookup_found [] rfl (by decide)
theorem pdec (o : Ops) : Statement (.pdec o) := lookup_found [] rfl (by decide)
theorem penc (o : Ops) : Statement (.penc o) := lookup_found [] rfl (by decide)
theorem gath (o : Ops) : Statement (.gath o) := lookup_found [] rfl (by decide)
theorem scat (o : Ops) : Statement (.scat o) := lookup_found [⟨eGath, eGath.forms, .gath⟩] rfl (by decide)
theorem scata (o : Ops) : Statement (.scata o) := lookup_found [⟨eGath, eGath.forms, .gath⟩, ⟨eScat, eScat.forms, .scat⟩] rfl (by decide)
theorem pgsel (o : Ops) : Statement (.pgsel o) := lookup_found [] rfl (by decide)
theorem kvapp (o : Ops) : Statement (.kvapp o) := lookup_found [] rfl (by decide)
theorem kvld (o : Ops) : Statement (.kvld o) := lookup_found [] rfl (by decide)
theorem perm (o : Ops) : Statement (.perm o) := lookup_found [] rfl (by decide)
theorem sxcfg (o : Ops) : Statement (.sxcfg o) := lookup_found [] rfl (by decide)
theorem sxstat (o : Ops) : Statement (.sxstat o) := lookup_found [⟨eSxcfg, eSxcfg.forms, .sxcfg⟩] rfl (by decide)
theorem sxfeed (o : Ops) : Statement (.sxfeed o) := lookup_found [] rfl (by decide)
theorem sxfrm (o : Ops) : Statement (.sxfrm o) := lookup_found [] rfl (by decide)
theorem blkopn (o : Ops) : Statement (.blkopn o) := lookup_found [] rfl (by decide)
theorem mvclp (o : Ops) : Statement (.mvclp o) := lookup_found [] rfl (by decide)
theorem fwarp (o : Ops) : Statement (.fwarp o) := lookup_found [] rfl (by decide)
theorem drift (o : Ops) : Statement (.drift o) := lookup_found [] rfl (by decide)
theorem drchk (o : Ops) : Statement (.drchk o) := lookup_found [⟨eDrift, eDrift.forms, .drift⟩] rfl (by decide)
theorem rfmark (o : Ops) : Statement (.rfmark o) := lookup_found [] rfl (by decide)
theorem chuck (o : Ops) : Statement (.chuck o) := lookup_found [] rfl (by decide)
theorem mswap (o : Ops) : Statement (.mswap o) := lookup_found [] rfl (by decide)
theorem mfeed (o : Ops) : Statement (.mfeed o) := lookup_found [] rfl (by decide)
theorem mdraw (o : Ops) : Statement (.mdraw o) := lookup_found [] rfl (by decide)
theorem mzero (o : Ops) : Statement (.mzero o) := lookup_found [] rfl (by decide)
theorem tchuck (o : Ops) : Statement (.tchuck o) := lookup_found [] rfl (by decide)
theorem tfeed (o : Ops) : Statement (.tfeed o) := lookup_found [] rfl (by decide)
theorem tfeedLong (o : Ops) : Statement (.tfeedLong o) := lookup_found [⟨eTfeed, [.s], .tfeed⟩] rfl (by decide)
theorem tdraw (o : Ops) : Statement (.tdraw o) := lookup_found [] rfl (by decide)
theorem dqput (o : Ops) : Statement (.dqput o) := lookup_found [] rfl (by decide)
theorem dqget (o : Ops) : Statement (.dqget o) := lookup_found [] rfl (by decide)
theorem dqcon (o : Ops) : Statement (.dqcon o) := lookup_found [] rfl (by decide)
theorem dqfrn (o : Ops) : Statement (.dqfrn o) := lookup_found [] rfl (by decide)
theorem dqqsc (o : Ops) : Statement (.dqqsc o) := lookup_found [] rfl (by decide)
theorem ixget (o : Ops) : Statement (.ixget o) := lookup_found [] rfl (by decide)
theorem ixupd (o : Ops) : Statement (.ixupd o) := lookup_found [] rfl (by decide)
theorem ixitr (o : Ops) : Statement (.ixitr o) := lookup_found [] rfl (by decide)
theorem ixclr (o : Ops) : Statement (.ixclr o) := lookup_found [] rfl (by decide)
theorem ixspl (o : Ops) : Statement (.ixspl o) := lookup_found [] rfl (by decide)
theorem launch (o : Ops) : Statement (.launch o) := lookup_found [] rfl (by decide)
theorem gsarm (o : Ops) : Statement (.gsarm o) := lookup_found [] rfl (by decide)
theorem rqrat (o : Ops) : Statement (.rqrat o) := lookup_found [] rfl (by decide)
theorem rdrat (o : Ops) : Statement (.rdrat o) := lookup_found [] rfl (by decide)
theorem evtake (o : Ops) : Statement (.evtake o) := lookup_found [] rfl (by decide)
theorem drq (o : Ops) : Statement (.drq o) := lookup_found [] rfl (by decide)
theorem qpri (o : Ops) : Statement (.qpri o) := lookup_found [] rfl (by decide)
theorem islandChuck (isl : Nat) : Statement (.islandChuck isl) := rfl
theorem islandMswap (isl : Nat) : Statement (.islandMswap isl) := rfl
theorem islandMfeed (isl : Nat) : Statement (.islandMfeed isl) := rfl
theorem islandMfeedTransposed (isl : Nat) : Statement (.islandMfeedTransposed isl) := rfl
theorem islandMdraw (isl : Nat) : Statement (.islandMdraw isl) := rfl
theorem islandMzero (isl : Nat) : Statement (.islandMzero isl) := rfl
theorem islandArmedTile (isl : Nat) : Statement (.islandArmedTile isl) := rfl
theorem recordRead (p : Nat) : Statement (.recordRead p) := rfl
theorem dependenceGranulesPresent (p : Nat) : Statement (.dependenceGranulesPresent p) := rfl
theorem imageFetch (p : Nat) : Statement (.imageFetch p) := rfl
theorem startToken (p : Nat) : Statement (.startToken p) := rfl
theorem taskFire (place : Coord) : Statement (.taskFire place) := rfl
theorem registerFill (place : Coord) (v : Nat) : Statement (.registerFill place v) := rfl
theorem linkTokenArrival (src : End) : Statement (.linkTokenArrival src) := rfl
theorem slotFreeVisible (src : End) : Statement (.slotFreeVisible src) := rfl
theorem elasticSample (u stg : Nat) : Statement (.elasticSample u stg) := rfl
theorem replicaPark (u stg rep : Nat) : Statement (.replicaPark u stg rep) := rfl
theorem elasticDeal (u stg : Nat) : Statement (.elasticDeal u stg) := rfl
theorem elasticCollect (u stg : Nat) : Statement (.elasticCollect u stg) := rfl
theorem sectionCountExpiry (p sect : Nat) : Statement (.sectionCountExpiry p sect) := rfl
theorem taskDrain (place : Coord) : Statement (.taskDrain place) := rfl
theorem engineDrain (e : Engine) : Statement (.engineDrain e) := rfl
theorem bridgeDrain (src : End) : Statement (.bridgeDrain src) := rfl
theorem tileDrained (p u : Nat) : Statement (.tileDrained p u) := rfl
theorem drainReport (p u : Nat) : Statement (.drainReport p u) := rfl
theorem preemptRequest (p : Nat) : Statement (.preemptRequest p) := rfl
theorem drainLimitExpiry (p : Nat) : Statement (.drainLimitExpiry p) := rfl
theorem contextRestore (p : Nat) : Statement (.contextRestore p) := rfl
theorem memoryAccessComplete (place : Coord) : Statement (.memoryAccessComplete place) := rfl
theorem deferralRetry (place : Coord) : Statement (.deferralRetry place) := rfl
theorem l1Eviction (c : CacheId) (line : Nat) (bad : Bool) : Statement (.l1Eviction c line bad) := rfl
theorem engineCommandComplete (cmd : Nat) : Statement (.engineCommandComplete cmd) := rfl
theorem pageWalk (u ctx : Nat) (va : Dword) : Statement (.pageWalk u ctx va) := rfl
theorem tlbinvWrite (v : Dword) : Statement (.tlbinvWrite v) := rfl
theorem tlbInvalidateComplete : Statement (.tlbInvalidateComplete) := rfl
theorem frbaseWrite (p : Nat) (v : Dword) : Statement (.frbaseWrite p v) := rfl
theorem frtailWrite (p : Nat) (v : Dword) : Statement (.frtailWrite p v) := rfl
theorem fresumeWrite (p : Nat) (v : Dword) : Statement (.fresumeWrite p v) := rfl
theorem vfReset (f : Nat) : Statement (.vfReset f) := rfl
theorem unitError (u : Nat) (words : List Nat) : Statement (.unitError u words) := rfl
theorem unfenceWrite (v : Dword) : Statement (.unfenceWrite v) := rfl
theorem frameParse (st : StrmName) : Statement (.frameParse st) := rfl
theorem packetPublish (st : StrmName) : Statement (.packetPublish st) := rfl
theorem lqresvRead (f q width : Nat) : Statement (.lqresvRead f q width) := rfl
theorem hostBar2Write (f off : Nat) (data : List Byte) : Statement (.hostBar2Write f off data) := rfl
theorem hostBar2Read (f off n : Nat) : Statement (.hostBar2Read f off n) := rfl
theorem arbiterGrant (p : Nat) : Statement (.arbiterGrant p) := rfl
theorem impositionComplete (p : Nat) : Statement (.impositionComplete p) := rfl
theorem sliceExpiry (p : Nat) : Statement (.sliceExpiry p) := rfl
theorem grantRecompute (p : Nat) : Statement (.grantRecompute p) := rfl
theorem pcapWrite (v : Dword) : Statement (.pcapWrite v) := rfl
theorem staticEnergyTick : Statement (.staticEnergyTick) := rfl
theorem timerSaturate : Statement (.timerSaturate) := rfl
theorem timesetWrite (v : Dword) : Statement (.timesetWrite v) := rfl
theorem tepochWrite (v : Dword) (tai : Option Nat) : Statement (.tepochWrite v tai) := rfl
theorem registerWrite (f off width : Nat) (v : Dword) : Statement (.registerWrite f off width v) := rfl
theorem ctxfnWrite (c : Nat) (v : Dword) : Statement (.ctxfnWrite c v) := rfl
theorem prtunitWrite (p j : Nat) (v : Dword) : Statement (.prtunitWrite p j v) := rfl
theorem dltailWrite (v : Dword) : Statement (.dltailWrite v) := rfl
theorem holvorRemoteAccess (a : LinkAccess) : Statement (.holvorRemoteAccess a) := rfl
theorem reductionContribution (w pkg ctx off : Nat) (sent : Contribution) : Statement (.reductionContribution w pkg ctx off sent) := rfl
theorem holvorLinkState (n : Nat) (up train : Bool) : Statement (.holvorLinkState n up train) := rfl
theorem timeSyncLock (n : Nat) (ofs : BitVec 16) (steady : Bool) (peer : TimePeer) : Statement (.timeSyncLock n ofs steady peer) := rfl
theorem boot (found : BootFinding) : Statement (.boot found) := rfl
theorem attestationQuote (nonce : List Byte) : Statement (.attestationQuote nonce) := rfl
theorem thermalTick (temps : List Nat) (tenth : Bool) : Statement (.thermalTick temps tenth) := rfl
theorem thermalTrip : Statement (.thermalTrip) := rfl
theorem dlbaseWrite (v : Dword) : Statement (.dlbaseWrite v) := rfl

end Sys2Proof.Laws.Lookup
end

