-- ==== Sys2Proof/Laws/Decode.lean ====
section
/-! SUPPORT. The layouts of R108 and R110 lose no bit: operand codes and instruction words decode from their encodings and
encode from what they decode to; the rows of the opcode map stand at their opcodes. -/

namespace Sys2Proof.Laws

open Sys2Proof Sys2Proof.Machine

theorem decodeOpd_encodeOpd (d : Opd) : decodeOpd (encodeOpd d) = d := by
  rcases d with r | k | k | k | c | m | _
  case reg => revert r; decide
  case inp => revert k; decide
  case alt => revert k; decide
  case cur => revert k; decide
  case con => cases c <;> decide
  case mrk => cases m <;> decide
  case absent => decide

theorem encodeOpd_decodeOpd (c : BitVec 6) : encodeOpd (decodeOpd c) = c := by revert c; decide

/-! ### Fields of concatenations -/

theorem extract_hi {a b : Nat} (x : BitVec a) (y : BitVec b) (i n : Nat) (h : b ≤ i) :
    (x ++ y).extractLsb' i n = x.extractLsb' (i - b) n := by
  apply BitVec.eq_of_getLsbD_eq
  intro k hk
  simp only [BitVec.getLsbD_extractLsb', hk, decide_true, Bool.true_and, BitVec.getLsbD_append]
  rw [if_neg (by omega)]
  congr 1
  omega

theorem extract_lo {a b : Nat} (x : BitVec a) (y : BitVec b) (i n : Nat) (h : i + n ≤ b) :
    (x ++ y).extractLsb' i n = y.extractLsb' i n := by
  apply BitVec.eq_of_getLsbD_eq
  intro k hk
  simp only [BitVec.getLsbD_extractLsb', hk, decide_true, Bool.true_and, BitVec.getLsbD_append]
  rw [if_pos (by omega)]

theorem extract_all {a : Nat} (x : BitVec a) : x.extractLsb' 0 a = x := BitVec.extractLsb'_eq_self

theorem bit_hi {a b : Nat} (x : BitVec a) (y : BitVec b) (i : Nat) (h : b ≤ i) : (x ++ y).getLsbD i = x.getLsbD (i - b) := by
  rw [BitVec.getLsbD_append, if_neg (by omega)]

theorem bit_lo {a b : Nat} (x : BitVec a) (y : BitVec b) (i : Nat) (h : i < b) : (x ++ y).getLsbD i = y.getLsbD i := by
  rw [BitVec.getLsbD_append, if_pos h]

/-- A concatenation is put together again from its two parts. -/
theorem append_extract {a b : Nat} (w : BitVec (a + b)) : w.extractLsb' b a ++ w.extractLsb' 0 b = w := by
  apply BitVec.eq_of_getLsbD_eq
  intro k hk
  rw [BitVec.getLsbD_append]
  split
  · simp [*]
  · simp only [BitVec.getLsbD_extractLsb']
    have : k - b < a := by omega
    simp only [this, decide_true, Bool.true_and]
    congr 1
    omega

/-! ### Words -/

/-- A first word in register form decodes to the fields it was made of. -/
theorem split_w0 (op : BitVec 8) (o : Ops) (len : BitVec 2) (fm : Form) :
    wordOp (encodeW0 op o len) = op ∧ (encodeW0 op o len).extractLsb' 0 2 = len ∧
    fieldsS fm (encodeW0 op o len) = { form := fm, f := o.f, d := o.d, a := o.a, b := o.b } := by
  refine ⟨?_, ?_, ?_⟩
  · unfold wordOp encodeW0
    rw [extract_hi _ _ _ _ (by decide), extract_lo _ _ _ _ (by decide), extract_all]
  · unfold encodeW0
    rw [extract_lo _ _ _ _ (by decide), extract_all]
  · unfold fieldsS encodeW0
    congr 1
    · rw [extract_hi _ _ _ _ (by decide), extract_hi _ _ _ _ (by decide), extract_hi _ _ _ _ (by decide),
        extract_hi _ _ _ _ (by decide), extract_hi _ _ _ _ (by decide), extract_all]
    · rw [extract_hi _ _ _ _ (by decide), extract_hi _ _ _ _ (by decide), extract_lo _ _ _ _ (by decide), extract_all,
        decodeOpd_encodeOpd]
    · rw [extract_hi _ _ _ _ (by decide), extract_hi _ _ _ _ (by decide), extract_hi _ _ _ _ (by decide),
        extract_lo _ _ _ _ (by decide), extract_all, decodeOpd_encodeOpd]
    · rw [extract_hi _ _ _ _ (by decide), extract_hi _ _ _ _ (by decide), extract_hi _ _ _ _ (by decide),
        extract_hi _ _ _ _ (by decide), extract_lo _ _ _ _ (by decide), extract_all, decodeOpd_encodeOpd]

/-- A word in immediate form decodes to the fields it was made of. -/
theorem split_i (op : BitVec 8) (o : Ops) :
    wordOp (encodeI op o) = op ∧ (encodeI op o).extractLsb' 0 2 = 1 ∧
    fieldsI (encodeI op o) = { form := .i, d := o.d, a := o.a, imm10 := o.imm10 } := by
  refine ⟨?_, ?_, ?_⟩
  · unfold wordOp encodeI
    rw [extract_hi _ _ _ _ (by decide), extract_lo _ _ _ _ (by decide), extract_all]
  · unfold encodeI
    rw [extract_lo _ _ _ _ (by decide), extract_all]
    rfl
  · unfold fieldsI encodeI
    congr 1
    · rw [extract_hi _ _ _ _ (by decide), extract_hi _ _ _ _ (by decide), extract_lo _ _ _ _ (by decide), extract_all,
        decodeOpd_encodeOpd]
    · rw [extract_hi _ _ _ _ (by decide), extract_hi _ _ _ _ (by decide), extract_hi _ _ _ _ (by decide),
        extract_lo _ _ _ _ (by decide), extract_all, decodeOpd_encodeOpd]
    · rw [extract_hi _ _ _ _ (by decide), extract_hi _ _ _ _ (by decide), extract_hi _ _ _ _ (by decide),
        extract_hi _ _ _ _ (by decide), extract_all]

/-- Word 1 adds the fields it was made of. -/
theorem addWord1_encode (o p : Ops) :
    addWord1 p (encodeW1 o) = { p with c := o.c, t := o.t, rm := o.rm, sat := o.sat, x := o.x, imm12 := o.imm12 } := by
  unfold addWord1 encodeW1
  congr 1
  · rw [extract_lo _ _ _ _ (by decide), extract_all, decodeOpd_encodeOpd]
  · rw [extract_hi _ _ _ _ (by decide), extract_hi _ _ _ _ (by decide), extract_hi _ _ _ _ (by decide),
      extract_hi _ _ _ _ (by decide), extract_hi _ _ _ _ (by decide), extract_all]
  · rw [extract_hi _ _ _ _ (by decide), extract_hi _ _ _ _ (by decide), extract_hi _ _ _ _ (by decide),
      extract_hi _ _ _ _ (by decide), extract_lo _ _ _ _ (by decide), extract_all]
  · rw [bit_hi _ _ _ (by decide), bit_hi _ _ _ (by decide), bit_hi _ _ _ (by decide), bit_lo _ _ _ (by decide)]
    simp
  · rw [extract_hi _ _ _ _ (by decide), extract_hi _ _ _ _ (by decide), extract_lo _ _ _ _ (by decide), extract_all]
  · rw [extract_hi _ _ _ _ (by decide), extract_lo _ _ _ _ (by decide), extract_all]

/-- The words of an opcode and its fields split into them again, whatever words follow. -/
theorem splitWords_encodeOps (op : BitVec 8) (o : Ops) (rest : List Word) (h : opsShaped o = true) :
    splitWords (encodeOps op o ++ rest) = some (op, o, rest) := by
  obtain ⟨form, f, d, a, b, c, imm10, imm12, x, sat, rm, t, lit⟩ := o
  cases form <;> simp only [opsShaped, Bool.and_eq_true, beq_iff_eq, Bool.not_eq_true'] at h
  · obtain ⟨⟨⟨⟨⟨⟨⟨rfl, rfl⟩, rfl⟩, rfl⟩, rfl⟩, rfl⟩, rfl⟩, rfl⟩ := h
    obtain ⟨h1, h2, h3⟩ := split_w0 op ⟨.s, f, d, a, b, .absent, 0, 0, 0, false, 0, 0, 0⟩ 0 .s
    simp only [encodeOps, List.cons_append, List.nil_append, splitWords, wordForm, h1, h2, h3]
    rfl
  · obtain ⟨⟨⟨⟨⟨⟨⟨⟨rfl, rfl⟩, rfl⟩, rfl⟩, rfl⟩, rfl⟩, rfl⟩, rfl⟩, rfl⟩ := h
    obtain ⟨h1, h2, h3⟩ := split_i op ⟨.i, 0, d, a, .absent, .absent, imm10, 0, 0, false, 0, 0, 0⟩
    simp only [encodeOps, List.cons_append, List.nil_append, splitWords, wordForm, h1, h2, h3]
    rfl
  · obtain ⟨rfl, rfl⟩ := h
    obtain ⟨h1, h2, h3⟩ := split_w0 op ⟨.l, f, d, a, b, c, 0, imm12, x, sat, rm, t, 0⟩ 2 .l
    simp only [encodeOps, List.cons_append, List.nil_append, splitWords, wordForm, h1, h2, h3, addWord1_encode]
    rfl
  · subst h
    obtain ⟨h1, h2, h3⟩ := split_w0 op ⟨.w, f, d, a, b, c, 0, imm12, x, sat, rm, t, lit⟩ 3 .w
    simp only [encodeOps, List.cons_append, List.nil_append, splitWords, wordForm, h1, h2, h3, addWord1_encode]
    rfl

/-- A first word in register form is made of the fields it decodes to. -/
theorem encodeW0_fields (w : Word) (p : Ops) (hp : p.f = w.extractLsb' 28 4 ∧ p.d = decodeOpd (w.extractLsb' 10 6) ∧
    p.a = decodeOpd (w.extractLsb' 16 6) ∧ p.b = decodeOpd (w.extractLsb' 22 6)) :
    encodeW0 (wordOp w) p (w.extractLsb' 0 2) = w := by
  obtain ⟨h1, h2, h3, h4⟩ := hp
  unfold encodeW0 wordOp
  rw [h1, h2, h3, h4, encodeOpd_decodeOpd, encodeOpd_decodeOpd, encodeOpd_decodeOpd]
  apply BitVec.eq_of_getLsbD_eq
  intro k hk
  simp only [BitVec.getLsbD_append, BitVec.getLsbD_extractLsb']
  repeat' split
  all_goals first
    | (simp only [*, decide_true, Bool.true_and]
       congr 1
       omega)
    | (rw [decide_eq_true (by omega), Bool.true_and]
       congr 1
       omega)

/-- A word in immediate form is made of the fields it decodes to. -/
theorem encodeI_fields (w : Word) (h : w.extractLsb' 0 2 = 1) : encodeI (wordOp w) (fieldsI w) = w := by
  unfold encodeI wordOp fieldsI
  dsimp only
  rw [encodeOpd_decodeOpd, encodeOpd_decodeOpd, show (1#2 : BitVec 2) = w.extractLsb' 0 2 from h.symm]
  apply BitVec.eq_of_getLsbD_eq
  intro k hk
  simp only [BitVec.getLsbD_append, BitVec.getLsbD_extractLsb']
  repeat' split
  all_goals first
    | (simp only [*, decide_true, Bool.true_and]
       congr 1
       omega)
    | (rw [decide_eq_true (by omega), Bool.true_and]
       congr 1
       omega)

/-- Word 1 is made of the fields it adds. -/
theorem encodeW1_addWord1 (p : Ops) (w : Word) : encodeW1 (addWord1 p w) = w := by
  unfold encodeW1 addWord1
  dsimp only
  rw [encodeOpd_decodeOpd, show BitVec.ofBool (w.getLsbD 15) = w.extractLsb' 15 1 from by
    apply BitVec.eq_of_getLsbD_eq
    intro k hk
    have : k = 0 := by omega
    subst this
    simp]
  apply BitVec.eq_of_getLsbD_eq
  intro k hk
  simp only [BitVec.getLsbD_append, BitVec.getLsbD_extractLsb']
  repeat' split
  all_goals first
    | (simp only [*, decide_true, Bool.true_and]
       congr 1
       omega)
    | (rw [decide_eq_true (by omega), Bool.true_and]
       congr 1
       omega)

/-- What words split into is shaped as its form, and its own words are those split. -/
theorem splitWords_spec {ws rest : List Word} {op : BitVec 8} {o : Ops} (h : splitWords ws = some (op, o, rest)) :
    ws = encodeOps op o ++ rest := by
  unfold splitWords at h
  split at h
  · simp at h
  · rename_i w ws'
    split at h
    · rename_i hf
      simp only [Option.some.injEq, Prod.mk.injEq] at h
      obtain ⟨rfl, rfl, rfl⟩ := h
      have h0 : w.extractLsb' 0 2 = 0 := by
        unfold wordForm at hf
        split at hf <;> simp_all
      have := encodeW0_fields w (fieldsS .s w) ⟨rfl, rfl, rfl, rfl⟩
      rw [h0] at this
      simp [encodeOps, fieldsS] at this ⊢
      exact this.symm
    · rename_i hf
      simp only [Option.some.injEq, Prod.mk.injEq] at h
      obtain ⟨rfl, rfl, rfl⟩ := h
      have h0 : w.extractLsb' 0 2 = 1 := by
        unfold wordForm at hf
        split at hf <;> simp_all
      have := encodeI_fields w h0
      simp [encodeOps, fieldsI] at this ⊢
      exact this.symm
    · rename_i hf
      have h0 : w.extractLsb' 0 2 = 2 := by
        unfold wordForm at hf
        split at hf <;> simp_all
      split at h
      · rename_i w1 rest'
        simp only [Option.some.injEq, Prod.mk.injEq] at h
        obtain ⟨rfl, rfl, rfl⟩ := h
        have e := encodeW0_fields w (addWord1 (fieldsS .l w) w1) ⟨rfl, rfl, rfl, rfl⟩
        rw [h0] at e
        show w :: w1 :: rest' = _
        simp only [encodeOps, show (addWord1 (fieldsS .l w) w1).form = Form.l from rfl, encodeW1_addWord1]
        rw [e]
        rfl
      · simp at h
    · rename_i hf
      have h0 : w.extractLsb' 0 2 = 3 := by
        unfold wordForm at hf
        split at hf
        · simp_all
        · simp_all
        · simp_all
        · rename_i h1 h2 h3
          revert h1 h2 h3
          generalize w.extractLsb' 0 2 = v
          revert v
          decide
      split at h
      · rename_i w1 lit rest'
        simp only [Option.some.injEq, Prod.mk.injEq] at h
        obtain ⟨rfl, rfl, rfl⟩ := h
        have e := encodeW0_fields w { addWord1 (fieldsS .w w) w1 with lit := lit } ⟨rfl, rfl, rfl, rfl⟩
        rw [h0] at e
        show w :: w1 :: lit :: rest' = [encodeW0 (wordOp w) { addWord1 (fieldsS .w w) w1 with lit := lit } 3,
          encodeW1 { addWord1 (fieldsS .w w) w1 with lit := lit }, lit] ++ rest'
        rw [e, show encodeW1 { addWord1 (fieldsS .w w) w1 with lit := lit } = w1 from encodeW1_addWord1 (fieldsS .w w) w1]
        rfl
      · simp at h

/-! ### The rows of the opcode map (R114, R115) -/

/-- A row stands at its opcode, and the instruction it makes has its fields. -/
def rowFits (op : BitVec 8) (r : Row) : Prop := r.e.op = op ∧ ∀ o, fieldsOf (r.ctor o) = some (r, o)

theorem fit_nil {op : BitVec 8} : ∀ r ∈ ([] : List Row), rowFits op r := by simp

theorem fit_cons {op : BitVec 8} {r : Row} {rs : List Row} (h : rowFits op r) (hs : ∀ q ∈ rs, rowFits op q) :
    ∀ q ∈ r :: rs, rowFits op q := by
  intro q hq
  rcases List.mem_cons.1 hq with rfl | hq
  · exact h
  · exact hs q hq

theorem rows0_fit (lo : Nat) : ∀ r ∈ rows0 lo, rowFits (BitVec.ofNat 8 (0 + lo)) r := by
  unfold rows0
  split <;> (repeat refine fit_cons ⟨rfl, fun _ => rfl⟩ ?_) <;> exact fit_nil

theorem rows1_fit (lo : Nat) : ∀ r ∈ rows1 lo, rowFits (BitVec.ofNat 8 (16 + lo)) r := by
  unfold rows1
  split <;> (repeat refine fit_cons ⟨rfl, fun _ => rfl⟩ ?_) <;> exact fit_nil

theorem rows2_fit (lo : Nat) : ∀ r ∈ rows2 lo, rowFits (BitVec.ofNat 8 (32 + lo)) r := by
  unfold rows2
  split <;> (repeat refine fit_cons ⟨rfl, fun _ => rfl⟩ ?_) <;> exact fit_nil

theorem rows3_fit (lo : Nat) : ∀ r ∈ rows3 lo, rowFits (BitVec.ofNat 8 (48 + lo)) r := by
  unfold rows3
  exact fit_nil

theorem rows4_fit (lo : Nat) : ∀ r ∈ rows4 lo, rowFits (BitVec.ofNat 8 (64 + lo)) r := by
  unfold rows4
  split <;> (repeat refine fit_cons ⟨rfl, fun _ => rfl⟩ ?_) <;> exact fit_nil

theorem rows5_fit (lo : Nat) : ∀ r ∈ rows5 lo, rowFits (BitVec.ofNat 8 (80 + lo)) r := by
  unfold rows5
  split <;> (repeat refine fit_cons ⟨rfl, fun _ => rfl⟩ ?_) <;> exact fit_nil

theorem rows6_fit (lo : Nat) : ∀ r ∈ rows6 lo, rowFits (BitVec.ofNat 8 (96 + lo)) r := by
  unfold rows6
  exact fit_nil

theorem rows7_fit (lo : Nat) : ∀ r ∈ rows7 lo, rowFits (BitVec.ofNat 8 (112 + lo)) r := by
  unfold rows7
  split <;> (repeat refine fit_cons ⟨rfl, fun _ => rfl⟩ ?_) <;> exact fit_nil

theorem rows8_fit (lo : Nat) : ∀ r ∈ rows8 lo, rowFits (BitVec.ofNat 8 (128 + lo)) r := by
  unfold rows8
  split <;> (repeat refine fit_cons ⟨rfl, fun _ => rfl⟩ ?_) <;> exact fit_nil

theorem rows9_fit (lo : Nat) : ∀ r ∈ rows9 lo, rowFits (BitVec.ofNat 8 (144 + lo)) r := by
  unfold rows9
  split <;> (repeat refine fit_cons ⟨rfl, fun _ => rfl⟩ ?_) <;> exact fit_nil

theorem rowsA_fit (lo : Nat) : ∀ r ∈ rowsA lo, rowFits (BitVec.ofNat 8 (160 + lo)) r := by
  unfold rowsA
  split <;> (repeat refine fit_cons ⟨rfl, fun _ => rfl⟩ ?_) <;> exact fit_nil

theorem rowsB_fit (lo : Nat) : ∀ r ∈ rowsB lo, rowFits (BitVec.ofNat 8 (176 + lo)) r := by
  unfold rowsB
  split <;> (repeat refine fit_cons ⟨rfl, fun _ => rfl⟩ ?_) <;> exact fit_nil

theorem rowsC_fit (lo : Nat) : ∀ r ∈ rowsC lo, rowFits (BitVec.ofNat 8 (192 + lo)) r := by
  unfold rowsC
  split <;> (repeat refine fit_cons ⟨rfl, fun _ => rfl⟩ ?_) <;> exact fit_nil

theorem rowsD_fit (lo : Nat) : ∀ r ∈ rowsD lo, rowFits (BitVec.ofNat 8 (208 + lo)) r := by
  unfold rowsD
  split <;> (repeat refine fit_cons ⟨rfl, fun _ => rfl⟩ ?_) <;> exact fit_nil

theorem rowsE_fit (lo : Nat) : ∀ r ∈ rowsE lo, rowFits (BitVec.ofNat 8 (224 + lo)) r := by
  unfold rowsE
  split <;> (repeat refine fit_cons ⟨rfl, fun _ => rfl⟩ ?_) <;> exact fit_nil

theorem rowsF_fit (lo : Nat) : ∀ r ∈ rowsF lo, rowFits (BitVec.ofNat 8 (240 + lo)) r := by
  unfold rowsF
  split <;> (repeat refine fit_cons ⟨rfl, fun _ => rfl⟩ ?_) <;> exact fit_nil

/-- Every row of the map stands at its opcode. -/
theorem rows_fit (op : BitVec 8) : ∀ r ∈ rowsOf op, rowFits op r := by
  have hlt : op.toNat < 256 := op.isLt
  have e : ∀ n, op.toNat / 16 = n → BitVec.ofNat 8 (16 * n + op.toNat % 16) = op := by
    intro n hn
    rw [← hn, Nat.div_add_mod]
    simp
  unfold rowsOf
  dsimp only
  split
  · rename_i h
    have := rows0_fit (op.toNat % 16)
    rwa [show BitVec.ofNat 8 (_ + op.toNat % 16) = op from e _ h] at this
  · rename_i h
    have := rows1_fit (op.toNat % 16)
    rwa [show BitVec.ofNat 8 (_ + op.toNat % 16) = op from e _ h] at this
  · rename_i h
    have := rows2_fit (op.toNat % 16)
    rwa [show BitVec.ofNat 8 (_ + op.toNat % 16) = op from e _ h] at this
  · rename_i h
    have := rows3_fit (op.toNat % 16)
    rwa [show BitVec.ofNat 8 (_ + op.toNat % 16) = op from e _ h] at this
  · rename_i h
    have := rows4_fit (op.toNat % 16)
    rwa [show BitVec.ofNat 8 (_ + op.toNat % 16) = op from e _ h] at this
  · rename_i h
    have := rows5_fit (op.toNat % 16)
    rwa [show BitVec.ofNat 8 (_ + op.toNat % 16) = op from e _ h] at this
  · rename_i h
    have := rows6_fit (op.toNat % 16)
    rwa [show BitVec.ofNat 8 (_ + op.toNat % 16) = op from e _ h] at this
  · rename_i h
    have := rows7_fit (op.toNat % 16)
    rwa [show BitVec.ofNat 8 (_ + op.toNat % 16) = op from e _ h] at this
  · rename_i h
    have := rows8_fit (op.toNat % 16)
    rwa [show BitVec.ofNat 8 (_ + op.toNat % 16) = op from e _ h] at this
  · rename_i h
    have := rows9_fit (op.toNat % 16)
    rwa [show BitVec.ofNat 8 (_ + op.toNat % 16) = op from e _ h] at this
  · rename_i h
    have := rowsA_fit (op.toNat % 16)
    rwa [show BitVec.ofNat 8 (_ + op.toNat % 16) = op from e _ h] at this
  · rename_i h
    have := rowsB_fit (op.toNat % 16)
    rwa [show BitVec.ofNat 8 (_ + op.toNat % 16) = op from e _ h] at this
  · rename_i h
    have := rowsC_fit (op.toNat % 16)
    rwa [show BitVec.ofNat 8 (_ + op.toNat % 16) = op from e _ h] at this
  · rename_i h
    have := rowsD_fit (op.toNat % 16)
    rwa [show BitVec.ofNat 8 (_ + op.toNat % 16) = op from e _ h] at this
  · rename_i h
    have := rowsE_fit (op.toNat % 16)
    rwa [show BitVec.ofNat 8 (_ + op.toNat % 16) = op from e _ h] at this
  · rename_i h
    have := rowsF_fit (op.toNat % 16)
    rwa [show BitVec.ofNat 8 (_ + op.toNat % 16) = op from e _ h] at this
  · simp

/-- What the map gives for an opcode and its fields is well-formed, and has them. -/
theorem lookupInstr_spec {op : BitVec 8} {o : Ops} {i : Instr} (h : lookupInstr op o = some i) :
    ∃ r, r.e.op = op ∧ fieldsOf i = some (r, o) ∧ Instr.wfFields r o = true := by
  unfold lookupInstr at h
  cases hf : (rowsOf op).find? (fun r => Instr.wfFields r o) with
  | none => simp [hf] at h
  | some r =>
    simp only [hf, Option.map_some, Option.some.injEq] at h
    subst h
    obtain ⟨h1, h2⟩ := rows_fit op r (List.mem_of_find?_eq_some hf)
    exact ⟨r, h1, h2 o, by simpa using List.find?_some hf⟩

/-- The fields that an entry admits are shaped as their form. -/
theorem wfFields_shaped {r : Row} {o : Ops} (h : Instr.wfFields r o = true) : opsShaped o = true := by
  simp only [Instr.wfFields, Entry.ok, Bool.and_eq_true] at h
  exact h.2.1

end Sys2Proof.Laws
end

