-- ==== Sys2Proof/Laws/Tables.lean ====
section
/-! SUPPORT. Sparse tables: reading after writing, the canonical form that every operation keeps, and that tables in that form which
read alike are equal; byte strings stored in a table. -/

namespace Sys2Proof.Laws

open Sys2Proof Sys2Proof.Machine

variable {α : Type} [DecidableEq α] {d : α}

/-! ### Reading after writing -/

theorem twfFrom_le {t : Tbl α} {lo hi : Nat} (h : twfFrom d hi t = true) (hl : lo ≤ hi) : twfFrom d lo t = true := by
  cases t with
  | nil => rfl
  | cons p t =>
    simp only [twfFrom, Bool.and_eq_true, decide_eq_true_eq] at h ⊢
    exact ⟨⟨by omega, h.1.2⟩, h.2⟩

/-- A key below every listed one reads as the default. -/
theorem tget_below {t : Tbl α} {lo k : Nat} (h : twfFrom d lo t = true) (hk : k < lo) : tget d t k = d := by
  induction t generalizing lo with
  | nil => rfl
  | cons p t ih =>
    simp only [twfFrom, Bool.and_eq_true, decide_eq_true_eq] at h
    have : k ≠ p.1 := by omega
    show (if k = p.1 then p.2 else tget d t k) = d
    rw [if_neg this]
    exact ih h.2 (by omega)

/-- A write is read back, and leaves every other key alone. -/
theorem tget_tput_from {t : Tbl α} {lo : Nat} (h : twfFrom d lo t = true) (k j : Nat) (v : α) :
    tget d (tput d t k v) j = if j = k then v else tget d t j := by
  induction t generalizing lo with
  | nil =>
    by_cases hv : v = d
    · simp [tput, hv, tget]
    · simp [tput, hv, tget]
  | cons p t ih =>
    obtain ⟨q, w⟩ := p
    simp only [twfFrom, Bool.and_eq_true, decide_eq_true_eq] at h
    have hb : ∀ i, i ≤ q → tget d t i = d := fun i hi => tget_below h.2 (by omega)
    simp only [tput]
    split
    · rename_i hk
      split
      · rename_i hv
        simp only [tget]
        by_cases hj : j = k
        · subst hj; simp [show ¬j = q by omega, hb j (by omega), hv]
        · simp [hj]
      · simp [tget]
    · split
      · rename_i hk; subst hk
        split
        · rename_i hv
          simp only [tget]
          by_cases hj : j = k
          · subst hj; simp [hb j (by omega), hv]
          · simp [hj]
        · simp only [tget]
          by_cases hj : j = k <;> simp [hj]
      · simp only [tget]
        by_cases hj : j = q
        · subst hj; simp [show ¬j = k by omega]
        · simp only [hj, if_false]
          exact ih h.2

@[simp] theorem tget_tput_self {t : Tbl α} (h : twf d t = true) (k : Nat) (v : α) : tget d (tput d t k v) k = v := by
  simp [tget_tput_from h]

theorem tget_tput {t : Tbl α} (h : twf d t = true) (k j : Nat) (v : α) : tget d (tput d t k v) j = if j = k then v else tget d t j :=
  tget_tput_from h k j v

/-! ### The canonical form -/

theorem twfFrom_tput {t : Tbl α} {lo : Nat} (h : twfFrom d lo t = true) (k : Nat) (v : α) (hk : lo ≤ k) : twfFrom d lo (tput d t k v) = true := by
  induction t generalizing lo with
  | nil =>
    by_cases hv : v = d <;> simp [tput, hv, twfFrom, hk]
  | cons p t ih =>
    obtain ⟨q, w⟩ := p
    simp only [twfFrom, Bool.and_eq_true, decide_eq_true_eq, bne_iff_ne, ne_eq] at h
    simp only [tput]
    split
    · split
      · simp only [twfFrom, Bool.and_eq_true, decide_eq_true_eq, bne_iff_ne, ne_eq]; exact h
      · simp only [twfFrom, Bool.and_eq_true, decide_eq_true_eq, bne_iff_ne, ne_eq]
        exact ⟨⟨hk, by assumption⟩, ⟨by omega, h.1.2⟩, h.2⟩
    · split
      · split
        · exact twfFrom_le h.2 (by omega)
        · simp only [twfFrom, Bool.and_eq_true, decide_eq_true_eq, bne_iff_ne, ne_eq]
          rename_i he hv
          subst he
          exact ⟨⟨hk, hv⟩, h.2⟩
      · simp only [twfFrom, Bool.and_eq_true, decide_eq_true_eq, bne_iff_ne, ne_eq]
        exact ⟨h.1, ih h.2 (by omega)⟩

theorem twf_tput {t : Tbl α} (h : twf d t = true) (k : Nat) (v : α) : twf d (tput d t k v) = true := twfFrom_tput h k v (Nat.zero_le _)

theorem twfFrom_filter {t : Tbl α} {lo : Nat} (h : twfFrom d lo t = true) (f : Nat × α → Bool) : twfFrom d lo (t.filter f) = true := by
  induction t generalizing lo with
  | nil => rfl
  | cons p t ih =>
    simp only [twfFrom, Bool.and_eq_true, decide_eq_true_eq] at h
    by_cases hf : f p = true
    · rw [List.filter_cons_of_pos hf]
      simp only [twfFrom, Bool.and_eq_true, decide_eq_true_eq]
      exact ⟨h.1, ih h.2⟩
    · rw [List.filter_cons_of_neg (by simpa using hf)]
      exact twfFrom_le (ih h.2) (by omega)

theorem twf_tdrop {t : Tbl α} (h : twf d t = true) (lo hi : Nat) : twf d (tdrop t lo hi) = true := twfFrom_filter h _

/-- Keys dropped read as the default, and every other key as before. -/
theorem tget_tdrop {t : Tbl α} (h : twf d t = true) (lo hi j : Nat) :
    tget d (tdrop t lo hi) j = if lo ≤ j ∧ j < hi then d else tget d t j := by
  have key : ∀ (t : Tbl α) (b : Nat), twfFrom d b t = true → tget d (tdrop t lo hi) j = if lo ≤ j ∧ j < hi then d else tget d t j := by
    intro t
    induction t with
    | nil => intro b _; simp [tdrop, tget]
    | cons p t ih =>
      intro b hb
      simp only [twfFrom, Bool.and_eq_true, decide_eq_true_eq] at hb
      have hr := ih _ hb.2
      have hn : tget d t p.1 = d := tget_below hb.2 (by omega)
      simp only [tdrop] at hr ⊢
      rw [List.filter_cons]
      split
      · rename_i hp
        simp only [Bool.not_eq_true', Bool.and_eq_false_iff, decide_eq_false_iff_not] at hp
        simp only [tget, hr]
        by_cases hj : j = p.1
        · subst hj
          simp only [if_true]
          rw [if_neg (by omega)]
        · simp [hj]
      · rename_i hp
        simp only [Bool.not_eq_true', Bool.and_eq_false_iff, decide_eq_false_iff_not] at hp
        rw [hr]
        by_cases hj : j = p.1
        · subst hj
          rw [if_pos (by omega), if_pos (by omega)]
        · simp [tget, hj]
  exact key t 0 h

/-- Tables in canonical form that read alike at every key are equal. -/
theorem tbl_ext {t u : Tbl α} (ht : twf d t = true) (hu : twf d u = true) (h : ∀ k, tget d t k = tget d u k) : t = u := by
  have key : ∀ (t u : Tbl α) (a : Nat), twfFrom d a t = true → twfFrom d a u = true → (∀ k, tget d t k = tget d u k) → t = u := by
    intro t
    induction t with
    | nil =>
      intro u a _ hu h
      cases u with
      | nil => rfl
      | cons p u =>
        simp only [twfFrom, Bool.and_eq_true, decide_eq_true_eq, bne_iff_ne] at hu
        exact absurd (by simpa [tget] using (h p.1).symm) hu.1.2
    | cons p t ih =>
      intro u a ht hu h
      simp only [twfFrom, Bool.and_eq_true, decide_eq_true_eq, bne_iff_ne] at ht
      cases u with
      | nil => exact absurd (by simpa [tget] using h p.1) ht.1.2
      | cons q u =>
        simp only [twfFrom, Bool.and_eq_true, decide_eq_true_eq, bne_iff_ne] at hu
        have e1 : p.1 = q.1 := by
          rcases Nat.lt_trichotomy p.1 q.1 with hlt | heq | hgt
          · have := h p.1
            simp only [tget, if_true, if_neg (show ¬p.1 = q.1 by omega)] at this
            exact absurd (this.trans (tget_below hu.2 (by omega))) ht.1.2
          · exact heq
          · have := (h q.1).symm
            simp only [tget, if_true, if_neg (show ¬q.1 = p.1 by omega)] at this
            exact absurd (this.trans (tget_below ht.2 (by omega))) hu.1.2
        have e2 : p.2 = q.2 := by simpa [tget, e1] using h p.1
        have hpq : p = q := Prod.ext e1 e2
        subst hpq
        congr 1
        refine ih u _ ht.2 hu.2 (fun k => ?_)
        by_cases hk : k = p.1
        · rw [hk, tget_below ht.2 (by omega), tget_below hu.2 (by omega)]
        · simpa [tget, hk] using h k
  exact key t u 0 ht hu h

/-- Writing what a key reads as already changes nothing. -/
theorem tput_tget {t : Tbl α} (h : twf d t = true) (k : Nat) : tput d t k (tget d t k) = t := by
  refine tbl_ext (twf_tput h _ _) h (fun j => ?_)
  rw [tget_tput h]
  split
  · rename_i e; rw [e]
  · rfl

/-- Several keys written keep the canonical form. -/
theorem twf_foldl {β : Type} (f : Tbl α → β → Tbl α) (hf : ∀ t x, twf d t = true → twf d (f t x) = true) (xs : List β) (t : Tbl α)
    (h : twf d t = true) : twf d (xs.foldl f t) = true := by
  induction xs generalizing t with
  | nil => exact h
  | cons x xs ih => exact ih _ (hf _ _ h)

/-! ### Byte strings -/

theorem twf_writeBytes (bs : List Byte) (t : Tbl Byte) (a : Nat) (h : twf 0 t = true) : twf 0 (writeBytes t a bs) = true := by
  induction bs generalizing t a with
  | nil => exact h
  | cons b bs ih => exact ih _ _ (twf_tput h _ _)

/-- A stored byte string is read back byte for byte, and every other address as before. -/
theorem tget_writeBytes (bs : List Byte) (t : Tbl Byte) (a j : Nat) (h : twf 0 t = true) :
    tget 0 (writeBytes t a bs) j = if a ≤ j ∧ j < a + bs.length then bs.getD (j - a) 0 else tget 0 t j := by
  induction bs generalizing t a with
  | nil => simp [writeBytes]
  | cons b bs ih =>
    simp only [writeBytes]
    rw [ih _ _ (twf_tput h _ _), tget_tput h]
    by_cases h1 : a + 1 ≤ j ∧ j < a + 1 + bs.length
    · rw [if_pos h1, if_pos (by simp only [List.length_cons]; omega)]
      obtain ⟨n, rfl⟩ : ∃ n, j = a + 1 + n := ⟨j - (a + 1), by omega⟩
      rw [show a + 1 + n - (a + 1) = n by omega, show a + 1 + n - a = n + 1 by omega]
      rfl
    · rw [if_neg h1]
      by_cases h2 : j = a
      · subst h2; simp
      · rw [if_neg h2, if_neg (by simp only [List.length_cons]; omega)]

@[simp] theorem readBytes_length (t : Tbl Byte) (a n : Nat) : (readBytes t a n).length = n := by
  induction n generalizing a with
  | zero => rfl
  | succ n ih => simp [readBytes, ih]

theorem readBytes_congr {t u : Tbl Byte} {a n : Nat} (h : ∀ i, a ≤ i → i < a + n → tget 0 t i = tget 0 u i) : readBytes t a n = readBytes u a n := by
  induction n generalizing a with
  | zero => rfl
  | succ n ih =>
    simp only [readBytes]
    rw [h a (Nat.le_refl _) (by omega), ih (fun i h1 h2 => h i (by omega) (by omega))]

/-- A byte string stored is read back whole. -/
theorem readBytes_writeBytes (bs : List Byte) (t : Tbl Byte) (a : Nat) (h : twf 0 t = true) : readBytes (writeBytes t a bs) a bs.length = bs := by
  induction bs generalizing t a with
  | nil => rfl
  | cons b bs ih =>
    simp only [writeBytes, List.length_cons, readBytes]
    rw [ih _ _ (twf_tput h _ _), tget_writeBytes _ _ _ _ (twf_tput h _ _), if_neg (by omega), tget_tput_self h]

/-- A byte string that no stored byte meets reads as before. -/
theorem readBytes_writeBytes_apart (bs : List Byte) (t : Tbl Byte) (a b n : Nat) (h : twf 0 t = true) (hd : b + n ≤ a ∨ a + bs.length ≤ b) :
    readBytes (writeBytes t a bs) b n = readBytes t b n := by
  refine readBytes_congr (fun i h1 h2 => ?_)
  rw [tget_writeBytes _ _ _ _ h, if_neg (by omega)]

@[simp] theorem natToBytes_length (n v : Nat) : (natToBytes n v).length = n := by
  induction n generalizing v with
  | zero => rfl
  | succ n ih => simp [natToBytes, ih]

/-- A number stored in n bytes comes back modulo 2^(8n). -/
theorem bytesToNat_natToBytes (n v : Nat) : bytesToNat (natToBytes n v) = v % 256 ^ n := by
  induction n generalizing v with
  | zero => simp [natToBytes, bytesToNat, Nat.mod_one]
  | succ n ih =>
    simp only [natToBytes, bytesToNat, ih, BitVec.toNat_ofNat]
    rw [show 256 ^ (n + 1) = 256 * 256 ^ n from Nat.pow_succ', Nat.mod_mul]

end Sys2Proof.Laws
end

