-- ==== Sys2Proof/Laws/Memory.lean ====
section
/-! SUPPORT. The operations of memory: each keeps the canonical form, translation changes nothing but the TLBs, and what a store
through the caches changes. -/

namespace Sys2Proof.Laws

open Sys2Proof Sys2Proof.Machine

variable {m : Mem}

/-! ### The canonical form -/

theorem wf_iff (m : Mem) : m.wf = true ↔ twf 0 m.hbm = true ∧ twf 0 m.sram = true ∧ twf false m.present = true ∧ twf false m.full = true ∧
    twf false m.badLine = true ∧ twf false m.badWord = true := by
  simp [Mem.wf, and_assoc]

/-- The canonical form speaks of the six tables alone. -/
theorem wf_congr {n : Mem} (h : m.wf = true) (h1 : n.hbm = m.hbm) (h2 : n.sram = m.sram) (h3 : n.present = m.present) (h4 : n.full = m.full)
    (h5 : n.badLine = m.badLine) (h6 : n.badWord = m.badWord) : n.wf = true := by
  simpa [Mem.wf, h1, h2, h3, h4, h5, h6] using h

theorem reset_wf : State.reset.mem.wf = true := rfl

theorem twf_putMasked {t : Tbl Byte} (h : twf 0 t = true) (base : Nat) (d : BitVec 1024) (mask : BitVec 128) : twf 0 (putMasked t base d mask) = true := by
  refine twf_foldl _ (fun t i ht => ?_) _ _ h
  split
  · exact twf_tput ht _ _
  · exact ht

theorem note_wf (h : m.wf = true) (x : MemNote) : (m.note x).wf = true := h

theorem setBad_wf (h : m.wf = true) (line : Nat) (bad : Bool) : (m.setBad line bad).wf = true := by
  obtain ⟨h1, h2, h3, h4, h5, h6⟩ := (wf_iff m).1 h
  exact (wf_iff _).2 ⟨h1, h2, h3, h4, twf_tput h5 _ _, h6⟩

/-- HBM rewritten in canonical form. -/
theorem hbmUpd_wf (h : m.wf = true) {t : Tbl Byte} (ht : twf 0 t = true) (ls : List Line) : ({ m with hbm := t, l2 := ls } : Mem).wf = true := by
  obtain ⟨_, h2, h3, h4, h5, h6⟩ := (wf_iff m).1 h
  exact (wf_iff _).2 ⟨ht, h2, h3, h4, h5, h6⟩

theorem l2Flush_wf (h : m.wf = true) (line : Nat) : (m.l2Flush line).wf = true := by
  unfold Mem.l2Flush
  split
  · exact h
  · rename_i l _
    have hp := hbmUpd_wf h (twf_putMasked ((wf_iff m).1 h).1 (128 * line) l.data l.dirty) (m.l2.filter (fun x => x.line != line))
    dsimp only
    split
    · exact hp
    · exact note_wf hp (.energy l.ctx 7 1)

theorem l2Evict_wf (h : m.wf = true) (line : Nat) (bad : Bool) (req : Nat) : (m.l2Evict line bad req).wf = true := by
  unfold Mem.l2Evict
  split
  · exact h
  · dsimp only
    split
    · exact note_wf (setBad_wf (l2Flush_wf h _) _ _) _
    · exact l2Flush_wf h _

theorem l2Sync_wf (h : m.wf = true) (ctx line : Nat) : (m.l2Sync ctx line).wf = true := by
  unfold Mem.l2Sync
  split
  · split
    · exact h
    · exact l2Evict_wf h _ _ _
  · exact h

theorem l2Room_wf (h : m.wf = true) (line req : Nat) : (m.l2Room line req).wf = true := by
  unfold Mem.l2Room
  split
  · exact h
  · split
    · exact h
    · exact l2Evict_wf h _ _ _

theorem l2Fill_wf (h : m.wf = true) (ctx line : Nat) : (m.l2Fill ctx line).wf = true := by
  unfold Mem.l2Fill
  dsimp only
  split
  · exact l2Sync_wf h _ _
  · exact note_wf (wf_congr (l2Room_wf (l2Sync_wf h _ _) _ _) rfl rfl rfl rfl rfl rfl) (.energy ctx 7 1)

theorem homeLook_wf (h : m.wf = true) (ctx line : Nat) : (m.homeLook ctx line).wf = true := note_wf (l2Fill_wf h ctx line) _

/-- A home line rewritten: L2 changes, and the poison of a line rewritten whole. -/
theorem homeUpd_wf (h : m.wf = true) (f : List Line → List Line) (line : Nat) (p : Prop) [Decidable p] :
    ({ m with l2 := f m.l2, badLine := if p then tput false m.badLine line false else m.badLine } : Mem).wf = true := by
  obtain ⟨h1, h2, h3, h4, h5, h6⟩ := (wf_iff m).1 h
  refine (wf_iff _).2 ⟨h1, h2, h3, h4, ?_, h6⟩
  dsimp only
  split
  · exact twf_tput h5 _ _
  · exact h5

theorem homePut_wf (h : m.wf = true) (ctx pa : Nat) (bs : List Byte) : (m.homePut ctx pa bs).wf = true :=
  homeUpd_wf (l2Fill_wf h _ _) (fun l => l.map _) _ _

theorem physPut_wf (h : m.wf = true) (pa : Nat) (bs : List Byte) : (m.physPut pa bs).wf = true := by
  obtain ⟨h1, h2, h3, h4, h5, h6⟩ := (wf_iff m).1 h
  exact (wf_iff _).2 ⟨twf_writeBytes _ _ _ h1, h2, h3, h4, h5, h6⟩

theorem homeMasked_wf (h : m.wf = true) (ctx line : Nat) (d : BitVec 1024) (mask : BitVec 128) : (homeMasked m ctx line d mask).wf = true := by
  unfold homeMasked
  split
  · exact h
  · exact homeUpd_wf (l2Fill_wf h _ _) (fun l => l.map _) _ _

theorem l1WriteBack_wf (h : m.wf = true) (l : Line) (req : Nat) : (m.l1WriteBack l req).wf = true := by
  unfold Mem.l1WriteBack
  have hm := note_wf (homeMasked_wf h l.ctx l.line l.data l.dirty) (.energy l.ctx 6 1)
  split
  · exact h
  · dsimp only
    split
    · exact hm
    · exact note_wf (setBad_wf (l2Flush_wf hm _) _ _) _

theorem l1Clean_wf (h : m.wf = true) (u line req : Nat) : (m.l1Clean u line req).wf = true := by
  unfold Mem.l1Clean
  split
  · exact h
  · exact wf_congr (l1WriteBack_wf h _ _) rfl rfl rfl rfl rfl rfl

theorem l1Drop_wf (h : m.wf = true) (u line req : Nat) : (m.l1Drop u line req).wf = true :=
  wf_congr (l1Clean_wf h u line req) rfl rfl rfl rfl rfl rfl

theorem l1Drops_wf (h : m.wf = true) (u req : Nat) (ls : List Line) : (ls.foldl (fun m l => m.l1Drop u l.line req) m).wf = true := by
  induction ls generalizing m with
  | nil => exact h
  | cons l ls ih => exact ih (l1Drop_wf h _ _ _)

theorem l1DropAll_wf (h : m.wf = true) (u : Nat) (sel : Line → Bool) (req : Nat) : (m.l1DropAll u sel req).wf = true := l1Drops_wf h u req _

theorem l1DropUnits_wf (h : m.wf = true) (us : List Nat) (sel : Line → Bool) (req : Nat) : (m.l1DropUnits us sel req).wf = true := by
  unfold Mem.l1DropUnits
  induction us generalizing m with
  | nil => exact h
  | cons u us ih => exact ih (l1DropAll_wf h _ _ _)

theorem l1Trim_wf (h : m.wf = true) (u cap req : Nat) : (m.l1Trim u cap req).wf = true := l1Drops_wf h u req _

theorem l1Fetch_wf (h : m.wf = true) (u ctx line : Nat) : (m.l1Fetch u ctx line).wf = true :=
  note_wf (wf_congr (l2Fill_wf h ctx line) rfl rfl rfl rfl rfl rfl) (.energy ctx 6 1)

theorem l1Fill_wf (h : m.wf = true) (u ctx line : Nat) : (m.l1Fill u ctx line).wf = true := by
  unfold Mem.l1Fill
  split
  · split
    · exact h
    · exact l1Fetch_wf (l1Drop_wf h u line ctx) _ _ _
  · exact l1Fetch_wf h _ _ _

theorem l1Read_wf (h : m.wf = true) (u ctx pa n : Nat) : (m.l1Read u ctx pa n).1.wf = true := by
  unfold Mem.l1Read
  dsimp only
  split <;> exact l1Fill_wf h _ _ _

theorem l1Write_wf (h : m.wf = true) (u ctx pa : Nat) (bs : List Byte) : (m.l1Write u ctx pa bs).wf = true :=
  wf_congr (l1Fill_wf h u ctx (pa / 128)) rfl rfl rfl rfl rfl rfl

theorem spPut_wf (h : m.wf = true) (u off : Nat) (bs : List Byte) : (m.spPut u off bs).wf = true := by
  obtain ⟨h1, h2, h3, h4, h5, h6⟩ := (wf_iff m).1 h
  exact (wf_iff _).2 ⟨h1, twf_writeBytes _ _ _ h2, h3, h4, h5, twf_foldl _ (fun t i ht => twf_tput ht _ _) _ _ h6⟩

theorem setTags_wf (h : m.wf = true) (ws : List Nat) (v : Bool) : (m.setTags ws v).wf = true := by
  obtain ⟨h1, h2, h3, h4, h5, h6⟩ := (wf_iff m).1 h
  exact (wf_iff _).2 ⟨h1, h2, h3, twf_foldl _ (fun t i ht => twf_tput ht _ _) _ _ h4, h5, h6⟩

theorem tagStep_wf (h : m.wf = true) (t : Nat) (x : Waiter) : (x.tagStep m t).1.wf = true := by
  unfold Waiter.tagStep
  dsimp only
  split
  · exact setTags_wf h _ _
  · exact setTags_wf (spPut_wf h _ _ _) _ _
  · exact h

theorem serveFirst_wf (tyOf : Waiter → Nat) (h : m.wf = true) (ws done : List Waiter) {n : Mem} (hs : serveFirst tyOf m done ws = some n) : n.wf = true := by
  induction ws generalizing done with
  | nil => cases hs
  | cons x xs ih =>
    simp only [serveFirst] at hs
    split at hs
    · split at hs <;> cases hs
      · exact wf_congr h rfl rfl rfl rfl rfl rfl
      · exact wf_congr (tagStep_wf h _ x) rfl rfl rfl rfl rfl rfl
    · exact ih _ hs

theorem serveTags_wf (h : m.wf = true) (k : Nat) : (m.serveTags k).wf = true := by
  induction k generalizing m with
  | zero => exact h
  | succ k ih =>
    simp only [Mem.serveTags]
    split
    · exact h
    · rename_i n hn
      exact ih (serveFirst_wf _ h _ _ hn)

theorem tagChange_wf (h : m.wf = true) (ws : List Nat) (v : Bool) : (m.tagChange ws v).wf = true := serveTags_wf (setTags_wf h _ _) _

theorem woPut_wf (h : m.wf = true) (g v : Nat) : (m.woPut g v).wf = true := by
  obtain ⟨h1, h2, h3, h4, h5, h6⟩ := (wf_iff _).1 (physPut_wf h (8 * g) (natToBytes 8 v))
  exact (wf_iff _).2 ⟨h1, h2, twf_tput h3 _ _, h4, h5, h6⟩

/-! ### Translation -/

/-- A walk reads page-table entries at their home and changes memory by the write-backs that this takes. -/
theorem walk_wf (ctx va : Nat) {m n : Mem} {e : Tlbe} (level node : Nat) (h : m.wf = true) (hw : walk m ctx va level node = .ok (n, e)) : n.wf = true := by
  induction level generalizing m node with
  | zero => cases hw
  | succ k ih =>
    unfold walk at hw
    extract_lets a q pte at hw
    have hq : q.wf = true := homeLook_wf h _ _
    clear_value a q pte
    split at hw
    · cases hw
    · split at hw
      · cases hw
      · split at hw
        · cases hw
        · split at hw
          · split at hw
            · cases hw
            · rename_i pte' r b _ _ _ _ _
              have hr : r.wf = true := by
                show (if bit pte 7 then q else q.homePut ctx a (natToBytes 8 pte')).wf = true
                clear_value pte'
                cases bit pte 7
                · exact homePut_wf hq _ _ _
                · exact hq
              clear_value pte' r b
              cases hw
              exact hr
          · exact ih _ hq hw

/-- A state that differs from another in memory and in the answers of other packages taken alone, and whose memory keeps the
canonical form. -/
def MemOnly (s t : State) : Prop := (∃ r : List HvReply, t = { s with mem := t.mem, hvReplies := r }) ∧ (s.mem.wf = true → t.mem.wf = true)

theorem memOnly_refl (s : State) : MemOnly s s := ⟨⟨s.hvReplies, rfl⟩, id⟩

theorem memOnly_trans {s t u : State} (h : MemOnly s t) (k : MemOnly t u) : MemOnly s u := by
  obtain ⟨⟨c, hc⟩, hw⟩ := h
  obtain ⟨⟨d, hd⟩, kw⟩ := k
  refine ⟨⟨d, ?_⟩, fun hm => kw (hw hm)⟩
  rw [hd, hc]

theorem memOnly_mem (s : State) (m : Mem) (h : s.mem.wf = true → m.wf = true) : MemOnly s { s with mem := m } := ⟨⟨s.hvReplies, rfl⟩, h⟩

/-- A translation by the tables changes memory alone, and keeps its canonical form (R207, R262). -/
theorem translateTables_frame {s t : State} {u ctx va : Nat} {tr : Tr} (h : translateTables s u ctx va = .ok (t, tr)) :
    t = { s with mem := t.mem } ∧ (s.mem.wf = true → t.mem.wf = true) := by
  unfold translateTables at h
  dsimp only at h
  repeat' split at h
  all_goals first
    | (cases h; done)
    | (cases h; exact ⟨rfl, id⟩)
    | (rename_i hw; cases h; exact ⟨rfl, fun hm => wf_congr (walk_wf _ _ _ _ hm hw) rfl rfl rfl rfl rfl rfl⟩)

/-- Translation changes memory alone, and keeps its canonical form (R207, R262). -/
theorem translate_frame {s t : State} {u ctx va : Nat} {tr : Tr} (h : Machine.translate s u ctx va = .ok (t, tr)) :
    t = { s with mem := t.mem } ∧ (s.mem.wf = true → t.mem.wf = true) := by
  unfold Machine.translate at h
  split at h
  · split at h
    · cases h
    · cases h; exact ⟨rfl, id⟩
  · exact translateTables_frame h

theorem translate_memOnly {s t : State} {u ctx va : Nat} {tr : Tr} (h : Machine.translate s u ctx va = .ok (t, tr)) : MemOnly s t :=
  ⟨⟨s.hvReplies, (translate_frame h).1⟩, (translate_frame h).2⟩

theorem translateAll_memOnly {u ctx : Nat} {vas : List Nat} {s t : State} {ts : List (Nat × Tr)} (h : translateAll s u ctx vas = .ok (t, ts)) :
    MemOnly s t := by
  induction vas generalizing s ts with
  | nil => cases h; exact memOnly_refl _
  | cons va vas ih =>
    rw [translateAll] at h
    split at h
    · exact ih h
    · split at h
      · cases h
      · rename_i htr
        split at h
        · cases h
        · rename_i hall
          cases h
          exact memOnly_trans (translate_memOnly htr) (ih hall)

/-! ### Engines -/

/-- A granule read by an engine of another launch drops copies, and changes memory alone (R221). -/
theorem crossPart_memOnly (s : State) (q : Part) (pa : Nat) : MemOnly s (s.crossPart q pa) := by
  unfold State.crossPart
  dsimp only
  split
  · exact memOnly_refl _
  · exact memOnly_mem _ _ (fun hm => l1DropUnits_wf hm _ _ _)

theorem crossEng_memOnly (s : State) (u ctx pa : Nat) : MemOnly s (s.crossEng u ctx pa) := by
  unfold State.crossEng
  split
  · exact memOnly_refl _
  · exact crossPart_memOnly _ _ _

theorem crossEngs_memOnly (s : State) (u ctx : Nat) (gs : List Nat) : MemOnly s (gs.foldl (fun s g => s.crossEng u ctx (8 * g)) s) := by
  induction gs generalizing s with
  | nil => exact memOnly_refl _
  | cons g gs ih => exact memOnly_trans (crossEng_memOnly _ _ _ _) (ih _)

theorem crossRead_memOnly (s : State) (u ctx : Nat) (t : Tr) (n : Nat) : MemOnly s (s.crossRead u ctx t n) := by
  unfold State.crossRead
  split
  · exact crossEngs_memOnly _ _ _ _
  · exact memOnly_refl _

theorem tagFence_wf (h : m.wf = true) (g tag : Nat) : (m.tagFence g tag).wf = true := wf_congr h rfl rfl rfl rfl rfl rfl

theorem homeGet_memOnly {u ctx va n : Nat} {s t : State} {bs : List Byte} {bad : Bool} (h : homeGet s u ctx va n = .ok (t, bs, bad)) :
    MemOnly s t := by
  unfold homeGet at h
  split at h
  · cases h
  · rename_i htr
    split at h
    · cases h
    · split at h
      · cases h
      · cases h
        refine memOnly_trans (translate_memOnly htr) (memOnly_trans (crossRead_memOnly _ _ _ _ _) (memOnly_mem _ _ (fun hm => homeLook_wf hm _ _)))

theorem homeSet_memOnly {u ctx va : Nat} {bs : List Byte} {bad : Bool} {s t : State} (h : homeSet s u ctx va bs bad = .ok t) : MemOnly s t := by
  unfold homeSet at h
  split at h
  · cases h
  · rename_i htr
    have ht := translate_memOnly htr
    split at h
    · cases h
    · split at h
      · cases h
      · split at h
        · split at h
          · cases h
          · cases h
            refine memOnly_trans ht (memOnly_mem _ _ (fun hm => note_wf (tagFence_wf (woPut_wf ?_ _ _) _ _) _))
            split
            · exact setBad_wf hm _ _
            · exact hm
        · cases h
          refine memOnly_trans ht (memOnly_mem _ _ (fun hm => ?_))
          split
          · exact setBad_wf (note_wf (homePut_wf hm _ _ _) _) _ _
          · exact note_wf (homePut_wf hm _ _ _) _

theorem hvTake_memOnly {ctx va : Nat} {w : Bool} {s t : State} {bs : List Byte} (h : s.hvTake ctx va w = .ok (t, bs)) : MemOnly s t := by
  unfold State.hvTake at h
  dsimp only at h
  split at h
  · cases h
  · split at h <;> cases h
    exact ⟨⟨_, rfl⟩, id⟩

theorem hvTakes_memOnly {ctx : Nat} {w : Bool} {ps : List (Nat × Nat)} {s t : State} {bs : List Byte} (h : hvTakes ctx w s ps = .ok (t, bs)) :
    MemOnly s t := by
  induction ps generalizing s bs with
  | nil => cases h; exact memOnly_refl _
  | cons p ps ih =>
    rw [hvTakes] at h
    split at h
    · cases h
    · rename_i hg
      split at h
      · cases h
      · rename_i hr
        cases h
        exact memOnly_trans (hvTake_memOnly hg) (ih hr)

theorem engGet_memOnly {u ctx va n : Nat} {s t : State} {bs : List Byte} {bad : Bool} (h : engGet s u ctx va n = .ok (t, bs, bad)) : MemOnly s t := by
  unfold engGet at h
  split at h
  · split at h
    · cases h
    · rename_i hr
      cases h
      exact hvTakes_memOnly hr
  · exact homeGet_memOnly h

theorem engPut_memOnly {u ctx va : Nat} {bs : List Byte} {bad : Bool} {s t : State} (h : engPut s u ctx va bs bad = .ok t) : MemOnly s t := by
  unfold engPut at h
  split at h
  · split at h
    · cases h
    · rename_i hr
      cases h
      exact hvTake_memOnly hr
  · exact homeSet_memOnly h

theorem engGets_memOnly {u ctx : Nat} {ps : List (Nat × Nat)} {s t : State} {bs : List Byte} {bad : List Bool}
    (h : engGets s u ctx ps = .ok (t, bs, bad)) : MemOnly s t := by
  induction ps generalizing s bs bad with
  | nil => cases h; exact memOnly_refl _
  | cons p ps ih =>
    rw [engGets] at h
    split at h
    · cases h
    · rename_i hg
      split at h
      · cases h
      · rename_i hr
        cases h
        exact memOnly_trans (engGet_memOnly hg) (ih hr)

theorem engRead_memOnly {u ctx va n : Nat} {s t : State} {bs : List Byte} {bad : List Bool} (h : engRead s u ctx va n = .ok (t, bs, bad)) : MemOnly s t :=
  engGets_memOnly h

theorem engReadOk_memOnly {u ctx va n : Nat} {s t : State} {bs : List Byte} (h : engReadOk s u ctx va n = .ok (t, bs)) : MemOnly s t := by
  rw [engReadOk] at h
  split at h
  · cases h
  · rename_i hr
    split at h
    · cases h
    · cases h
      exact engRead_memOnly hr

theorem engPuts_memOnly (u ctx : Nat) (ps : List (Nat × Nat)) (s : State) (bs : List Byte) (bad : List Bool) :
    MemOnly s (engPuts s u ctx ps bs bad).1 := by
  induction ps generalizing s bs bad with
  | nil => exact memOnly_refl _
  | cons p ps ih =>
    rw [engPuts]
    split
    · exact memOnly_refl _
    · rename_i t ht
      exact memOnly_trans (engPut_memOnly ht) (ih _ _ _)

theorem engLines_memOnly (u ctx : Nat) (ps : List (Nat × Nat)) (s : State) (bs : List Byte) (bad : List Bool) :
    MemOnly s (engLines s u ctx ps bs bad).1 := by
  induction ps generalizing s bs bad with
  | nil => exact memOnly_refl _
  | cons p ps ih =>
    rw [engLines]
    have hp := engPuts_memOnly u ctx (if oneAccess s u ctx p.1 then [(p.1, p.2)] else pieces p.2 p.1 p.2) s (bs.take p.2) (bad.take p.2)
    split <;> rename_i he <;> rw [he] at hp
    · exact hp
    · exact memOnly_trans hp (ih _ _ _)

theorem engWrite_memOnly (s : State) (u ctx va : Nat) (bs : List Byte) : MemOnly s (engWrite s u ctx va bs).1 := engLines_memOnly _ _ _ _ _ _

end Sys2Proof.Laws
end

