-- ==== Sys2Proof/Laws/State.lean ====
section
/-! SUPPORT. The updates of the state: what each changes, field by field, and what is read after it. -/

namespace Sys2Proof.Laws

open Sys2Proof Sys2Proof.Machine

variable (s : State)

/-! ### A memory tile replaced -/

@[simp] theorem setMt_slot (u : Nat) (x : Mt) : (s.setMt u x).slot = s.slot := rfl
@[simp] theorem setMt_others (u : Nat) (x : Mt) : (s.setMt u x).others = s.others := rfl
@[simp] theorem setMt_pes (u : Nat) (x : Mt) : (s.setMt u x).pes = s.pes := rfl
@[simp] theorem setMt_mem (u : Nat) (x : Mt) : (s.setMt u x).mem = s.mem := rfl
@[simp] theorem setMt_islands (u : Nat) (x : Mt) : (s.setMt u x).islands = s.islands := rfl
@[simp] theorem setMt_terns (u : Nat) (x : Mt) : (s.setMt u x).terns = s.terns := rfl
@[simp] theorem setMt_strms (u : Nat) (x : Mt) : (s.setMt u x).strms = s.strms := rfl
@[simp] theorem setMt_cmds (u : Nat) (x : Mt) : (s.setMt u x).cmds = s.cmds := rfl
@[simp] theorem setMt_nextCmd (u : Nat) (x : Mt) : (s.setMt u x).nextCmd = s.nextCmd := rfl
@[simp] theorem setMt_ctxs (u : Nat) (x : Mt) : (s.setMt u x).ctxs = s.ctxs := rfl
@[simp] theorem setMt_parts (u : Nat) (x : Mt) : (s.setMt u x).parts = s.parts := rfl
@[simp] theorem setMt_lqs (u : Nat) (x : Mt) : (s.setMt u x).lqs = s.lqs := rfl
@[simp] theorem setMt_sys (u : Nat) (x : Mt) : (s.setMt u x).sys = s.sys := rfl
@[simp] theorem setMt_edges (u : Nat) (x : Mt) : (s.setMt u x).edges = s.edges := rfl
@[simp] theorem setMt_hvReplies (u : Nat) (x : Mt) : (s.setMt u x).hvReplies = s.hvReplies := rfl
@[simp] theorem setMt_timer (u : Nat) (x : Mt) : (s.setMt u x).timer = s.timer := rfl
@[simp] theorem setMt_agenda (u : Nat) (x : Mt) : (s.setMt u x).agenda = s.agenda := rfl
@[simp] theorem setMt_stall (u : Nat) (x : Mt) : (s.setMt u x).stall = s.stall := rfl
@[simp] theorem setMt_freeCount (u : Nat) (x : Mt) : (s.setMt u x).freeCount = s.freeCount := rfl

/-- What is read after a memory tile is replaced. -/
theorem mt_setMt (h : twf {} s.mts = true) (k j : Nat) (x : Mt) : (s.setMt k x).mt j = if j = k then x else s.mt j := tget_tput h _ _ _
@[simp] theorem mt_setMt_self (h : twf {} s.mts = true) (k : Nat) (x : Mt) : (s.setMt k x).mt k = x := by simp [mt_setMt s h]

@[simp] theorem part_setMt (u : Nat) (x : Mt) (k : Nat) : (s.setMt u x).part k = s.part k := rfl
@[simp] theorem ctx_setMt (u : Nat) (x : Mt) (k : Nat) : (s.setMt u x).ctx k = s.ctx k := rfl
@[simp] theorem lq_setMt (u : Nat) (x : Mt) (f' q' : Nat) : (s.setMt u x).lq f' q' = s.lq f' q' := rfl
@[simp] theorem isl_setMt (u : Nat) (x : Mt) (k : Nat) : (s.setMt u x).isl k = s.isl k := rfl
@[simp] theorem tern_setMt (u : Nat) (x : Mt) (k : Nat) : (s.setMt u x).tern k = s.tern k := rfl

/-! ### A partition replaced -/

@[simp] theorem setPart_slot (p : Nat) (x : Part) : (s.setPart p x).slot = s.slot := rfl
@[simp] theorem setPart_others (p : Nat) (x : Part) : (s.setPart p x).others = s.others := rfl
@[simp] theorem setPart_pes (p : Nat) (x : Part) : (s.setPart p x).pes = s.pes := rfl
@[simp] theorem setPart_mem (p : Nat) (x : Part) : (s.setPart p x).mem = s.mem := rfl
@[simp] theorem setPart_mts (p : Nat) (x : Part) : (s.setPart p x).mts = s.mts := rfl
@[simp] theorem setPart_islands (p : Nat) (x : Part) : (s.setPart p x).islands = s.islands := rfl
@[simp] theorem setPart_terns (p : Nat) (x : Part) : (s.setPart p x).terns = s.terns := rfl
@[simp] theorem setPart_strms (p : Nat) (x : Part) : (s.setPart p x).strms = s.strms := rfl
@[simp] theorem setPart_cmds (p : Nat) (x : Part) : (s.setPart p x).cmds = s.cmds := rfl
@[simp] theorem setPart_nextCmd (p : Nat) (x : Part) : (s.setPart p x).nextCmd = s.nextCmd := rfl
@[simp] theorem setPart_ctxs (p : Nat) (x : Part) : (s.setPart p x).ctxs = s.ctxs := rfl
@[simp] theorem setPart_lqs (p : Nat) (x : Part) : (s.setPart p x).lqs = s.lqs := rfl
@[simp] theorem setPart_sys (p : Nat) (x : Part) : (s.setPart p x).sys = s.sys := rfl
@[simp] theorem setPart_edges (p : Nat) (x : Part) : (s.setPart p x).edges = s.edges := rfl
@[simp] theorem setPart_hvReplies (p : Nat) (x : Part) : (s.setPart p x).hvReplies = s.hvReplies := rfl
@[simp] theorem setPart_timer (p : Nat) (x : Part) : (s.setPart p x).timer = s.timer := rfl
@[simp] theorem setPart_agenda (p : Nat) (x : Part) : (s.setPart p x).agenda = s.agenda := rfl
@[simp] theorem setPart_stall (p : Nat) (x : Part) : (s.setPart p x).stall = s.stall := rfl
@[simp] theorem setPart_freeCount (p : Nat) (x : Part) : (s.setPart p x).freeCount = s.freeCount := rfl

/-- What is read after a partition is replaced. -/
theorem part_setPart (h : twf {} s.parts = true) (k j : Nat) (x : Part) : (s.setPart k x).part j = if j = k then x else s.part j := tget_tput h _ _ _
@[simp] theorem part_setPart_self (h : twf {} s.parts = true) (k : Nat) (x : Part) : (s.setPart k x).part k = x := by simp [part_setPart s h]

@[simp] theorem mt_setPart (p : Nat) (x : Part) (k : Nat) : (s.setPart p x).mt k = s.mt k := rfl
@[simp] theorem ctx_setPart (p : Nat) (x : Part) (k : Nat) : (s.setPart p x).ctx k = s.ctx k := rfl
@[simp] theorem lq_setPart (p : Nat) (x : Part) (f' q' : Nat) : (s.setPart p x).lq f' q' = s.lq f' q' := rfl
@[simp] theorem isl_setPart (p : Nat) (x : Part) (k : Nat) : (s.setPart p x).isl k = s.isl k := rfl
@[simp] theorem tern_setPart (p : Nat) (x : Part) (k : Nat) : (s.setPart p x).tern k = s.tern k := rfl

/-! ### A context replaced -/

@[simp] theorem setCtx_slot (c : Nat) (x : Ctx) : (s.setCtx c x).slot = s.slot := rfl
@[simp] theorem setCtx_others (c : Nat) (x : Ctx) : (s.setCtx c x).others = s.others := rfl
@[simp] theorem setCtx_pes (c : Nat) (x : Ctx) : (s.setCtx c x).pes = s.pes := rfl
@[simp] theorem setCtx_mem (c : Nat) (x : Ctx) : (s.setCtx c x).mem = s.mem := rfl
@[simp] theorem setCtx_mts (c : Nat) (x : Ctx) : (s.setCtx c x).mts = s.mts := rfl
@[simp] theorem setCtx_islands (c : Nat) (x : Ctx) : (s.setCtx c x).islands = s.islands := rfl
@[simp] theorem setCtx_terns (c : Nat) (x : Ctx) : (s.setCtx c x).terns = s.terns := rfl
@[simp] theorem setCtx_strms (c : Nat) (x : Ctx) : (s.setCtx c x).strms = s.strms := rfl
@[simp] theorem setCtx_cmds (c : Nat) (x : Ctx) : (s.setCtx c x).cmds = s.cmds := rfl
@[simp] theorem setCtx_nextCmd (c : Nat) (x : Ctx) : (s.setCtx c x).nextCmd = s.nextCmd := rfl
@[simp] theorem setCtx_parts (c : Nat) (x : Ctx) : (s.setCtx c x).parts = s.parts := rfl
@[simp] theorem setCtx_lqs (c : Nat) (x : Ctx) : (s.setCtx c x).lqs = s.lqs := rfl
@[simp] theorem setCtx_sys (c : Nat) (x : Ctx) : (s.setCtx c x).sys = s.sys := rfl
@[simp] theorem setCtx_edges (c : Nat) (x : Ctx) : (s.setCtx c x).edges = s.edges := rfl
@[simp] theorem setCtx_hvReplies (c : Nat) (x : Ctx) : (s.setCtx c x).hvReplies = s.hvReplies := rfl
@[simp] theorem setCtx_timer (c : Nat) (x : Ctx) : (s.setCtx c x).timer = s.timer := rfl
@[simp] theorem setCtx_agenda (c : Nat) (x : Ctx) : (s.setCtx c x).agenda = s.agenda := rfl
@[simp] theorem setCtx_stall (c : Nat) (x : Ctx) : (s.setCtx c x).stall = s.stall := rfl
@[simp] theorem setCtx_freeCount (c : Nat) (x : Ctx) : (s.setCtx c x).freeCount = s.freeCount := rfl

/-- What is read after a context is replaced. -/
theorem ctx_setCtx (h : twf {} s.ctxs = true) (k j : Nat) (x : Ctx) : (s.setCtx k x).ctx j = if j = k then x else s.ctx j := tget_tput h _ _ _
@[simp] theorem ctx_setCtx_self (h : twf {} s.ctxs = true) (k : Nat) (x : Ctx) : (s.setCtx k x).ctx k = x := by simp [ctx_setCtx s h]

@[simp] theorem mt_setCtx (c : Nat) (x : Ctx) (k : Nat) : (s.setCtx c x).mt k = s.mt k := rfl
@[simp] theorem part_setCtx (c : Nat) (x : Ctx) (k : Nat) : (s.setCtx c x).part k = s.part k := rfl
@[simp] theorem lq_setCtx (c : Nat) (x : Ctx) (f' q' : Nat) : (s.setCtx c x).lq f' q' = s.lq f' q' := rfl
@[simp] theorem isl_setCtx (c : Nat) (x : Ctx) (k : Nat) : (s.setCtx c x).isl k = s.isl k := rfl
@[simp] theorem tern_setCtx (c : Nat) (x : Ctx) (k : Nat) : (s.setCtx c x).tern k = s.tern k := rfl

/-! ### A launch queue replaced -/

@[simp] theorem setLq_slot (f q : Nat) (x : Lq) : (s.setLq f q x).slot = s.slot := rfl
@[simp] theorem setLq_others (f q : Nat) (x : Lq) : (s.setLq f q x).others = s.others := rfl
@[simp] theorem setLq_pes (f q : Nat) (x : Lq) : (s.setLq f q x).pes = s.pes := rfl
@[simp] theorem setLq_mem (f q : Nat) (x : Lq) : (s.setLq f q x).mem = s.mem := rfl
@[simp] theorem setLq_mts (f q : Nat) (x : Lq) : (s.setLq f q x).mts = s.mts := rfl
@[simp] theorem setLq_islands (f q : Nat) (x : Lq) : (s.setLq f q x).islands = s.islands := rfl
@[simp] theorem setLq_terns (f q : Nat) (x : Lq) : (s.setLq f q x).terns = s.terns := rfl
@[simp] theorem setLq_strms (f q : Nat) (x : Lq) : (s.setLq f q x).strms = s.strms := rfl
@[simp] theorem setLq_cmds (f q : Nat) (x : Lq) : (s.setLq f q x).cmds = s.cmds := rfl
@[simp] theorem setLq_nextCmd (f q : Nat) (x : Lq) : (s.setLq f q x).nextCmd = s.nextCmd := rfl
@[simp] theorem setLq_ctxs (f q : Nat) (x : Lq) : (s.setLq f q x).ctxs = s.ctxs := rfl
@[simp] theorem setLq_parts (f q : Nat) (x : Lq) : (s.setLq f q x).parts = s.parts := rfl
@[simp] theorem setLq_sys (f q : Nat) (x : Lq) : (s.setLq f q x).sys = s.sys := rfl
@[simp] theorem setLq_edges (f q : Nat) (x : Lq) : (s.setLq f q x).edges = s.edges := rfl
@[simp] theorem setLq_hvReplies (f q : Nat) (x : Lq) : (s.setLq f q x).hvReplies = s.hvReplies := rfl
@[simp] theorem setLq_timer (f q : Nat) (x : Lq) : (s.setLq f q x).timer = s.timer := rfl
@[simp] theorem setLq_agenda (f q : Nat) (x : Lq) : (s.setLq f q x).agenda = s.agenda := rfl
@[simp] theorem setLq_stall (f q : Nat) (x : Lq) : (s.setLq f q x).stall = s.stall := rfl
@[simp] theorem setLq_freeCount (f q : Nat) (x : Lq) : (s.setLq f q x).freeCount = s.freeCount := rfl

/-- What is read after a launch queue is replaced. -/
theorem lq_setLq (h : twf {} s.lqs = true) (f q : Nat) (x : Lq) (f' q' : Nat) :
    (s.setLq f q x).lq f' q' = if 8 * f' + q' = 8 * f + q then x else s.lq f' q' := tget_tput h _ _ _
@[simp] theorem lq_setLq_self (h : twf {} s.lqs = true) (f q : Nat) (x : Lq) : (s.setLq f q x).lq f q = x := by simp [lq_setLq s h]

@[simp] theorem mt_setLq (f q : Nat) (x : Lq) (k : Nat) : (s.setLq f q x).mt k = s.mt k := rfl
@[simp] theorem part_setLq (f q : Nat) (x : Lq) (k : Nat) : (s.setLq f q x).part k = s.part k := rfl
@[simp] theorem ctx_setLq (f q : Nat) (x : Lq) (k : Nat) : (s.setLq f q x).ctx k = s.ctx k := rfl
@[simp] theorem isl_setLq (f q : Nat) (x : Lq) (k : Nat) : (s.setLq f q x).isl k = s.isl k := rfl
@[simp] theorem tern_setLq (f q : Nat) (x : Lq) (k : Nat) : (s.setLq f q x).tern k = s.tern k := rfl

/-! ### An island replaced -/

@[simp] theorem setIsl_slot (n : Nat) (x : Island) : (s.setIsl n x).slot = s.slot := rfl
@[simp] theorem setIsl_others (n : Nat) (x : Island) : (s.setIsl n x).others = s.others := rfl
@[simp] theorem setIsl_pes (n : Nat) (x : Island) : (s.setIsl n x).pes = s.pes := rfl
@[simp] theorem setIsl_mem (n : Nat) (x : Island) : (s.setIsl n x).mem = s.mem := rfl
@[simp] theorem setIsl_mts (n : Nat) (x : Island) : (s.setIsl n x).mts = s.mts := rfl
@[simp] theorem setIsl_terns (n : Nat) (x : Island) : (s.setIsl n x).terns = s.terns := rfl
@[simp] theorem setIsl_strms (n : Nat) (x : Island) : (s.setIsl n x).strms = s.strms := rfl
@[simp] theorem setIsl_cmds (n : Nat) (x : Island) : (s.setIsl n x).cmds = s.cmds := rfl
@[simp] theorem setIsl_nextCmd (n : Nat) (x : Island) : (s.setIsl n x).nextCmd = s.nextCmd := rfl
@[simp] theorem setIsl_ctxs (n : Nat) (x : Island) : (s.setIsl n x).ctxs = s.ctxs := rfl
@[simp] theorem setIsl_parts (n : Nat) (x : Island) : (s.setIsl n x).parts = s.parts := rfl
@[simp] theorem setIsl_lqs (n : Nat) (x : Island) : (s.setIsl n x).lqs = s.lqs := rfl
@[simp] theorem setIsl_sys (n : Nat) (x : Island) : (s.setIsl n x).sys = s.sys := rfl
@[simp] theorem setIsl_edges (n : Nat) (x : Island) : (s.setIsl n x).edges = s.edges := rfl
@[simp] theorem setIsl_hvReplies (n : Nat) (x : Island) : (s.setIsl n x).hvReplies = s.hvReplies := rfl
@[simp] theorem setIsl_timer (n : Nat) (x : Island) : (s.setIsl n x).timer = s.timer := rfl
@[simp] theorem setIsl_agenda (n : Nat) (x : Island) : (s.setIsl n x).agenda = s.agenda := rfl
@[simp] theorem setIsl_stall (n : Nat) (x : Island) : (s.setIsl n x).stall = s.stall := rfl
@[simp] theorem setIsl_freeCount (n : Nat) (x : Island) : (s.setIsl n x).freeCount = s.freeCount := rfl

/-- What is read after an island is replaced. -/
theorem isl_setIsl (h : twf {} s.islands = true) (k j : Nat) (x : Island) : (s.setIsl k x).isl j = if j = k then x else s.isl j := tget_tput h _ _ _
@[simp] theorem isl_setIsl_self (h : twf {} s.islands = true) (k : Nat) (x : Island) : (s.setIsl k x).isl k = x := by simp [isl_setIsl s h]

@[simp] theorem mt_setIsl (n : Nat) (x : Island) (k : Nat) : (s.setIsl n x).mt k = s.mt k := rfl
@[simp] theorem part_setIsl (n : Nat) (x : Island) (k : Nat) : (s.setIsl n x).part k = s.part k := rfl
@[simp] theorem ctx_setIsl (n : Nat) (x : Island) (k : Nat) : (s.setIsl n x).ctx k = s.ctx k := rfl
@[simp] theorem lq_setIsl (n : Nat) (x : Island) (f' q' : Nat) : (s.setIsl n x).lq f' q' = s.lq f' q' := rfl
@[simp] theorem tern_setIsl (n : Nat) (x : Island) (k : Nat) : (s.setIsl n x).tern k = s.tern k := rfl

/-! ### A ternary array replaced -/

@[simp] theorem setTern_slot (u : Nat) (x : Ternary) : (s.setTern u x).slot = s.slot := rfl
@[simp] theorem setTern_others (u : Nat) (x : Ternary) : (s.setTern u x).others = s.others := rfl
@[simp] theorem setTern_pes (u : Nat) (x : Ternary) : (s.setTern u x).pes = s.pes := rfl
@[simp] theorem setTern_mem (u : Nat) (x : Ternary) : (s.setTern u x).mem = s.mem := rfl
@[simp] theorem setTern_mts (u : Nat) (x : Ternary) : (s.setTern u x).mts = s.mts := rfl
@[simp] theorem setTern_islands (u : Nat) (x : Ternary) : (s.setTern u x).islands = s.islands := rfl
@[simp] theorem setTern_strms (u : Nat) (x : Ternary) : (s.setTern u x).strms = s.strms := rfl
@[simp] theorem setTern_cmds (u : Nat) (x : Ternary) : (s.setTern u x).cmds = s.cmds := rfl
@[simp] theorem setTern_nextCmd (u : Nat) (x : Ternary) : (s.setTern u x).nextCmd = s.nextCmd := rfl
@[simp] theorem setTern_ctxs (u : Nat) (x : Ternary) : (s.setTern u x).ctxs = s.ctxs := rfl
@[simp] theorem setTern_parts (u : Nat) (x : Ternary) : (s.setTern u x).parts = s.parts := rfl
@[simp] theorem setTern_lqs (u : Nat) (x : Ternary) : (s.setTern u x).lqs = s.lqs := rfl
@[simp] theorem setTern_sys (u : Nat) (x : Ternary) : (s.setTern u x).sys = s.sys := rfl
@[simp] theorem setTern_edges (u : Nat) (x : Ternary) : (s.setTern u x).edges = s.edges := rfl
@[simp] theorem setTern_hvReplies (u : Nat) (x : Ternary) : (s.setTern u x).hvReplies = s.hvReplies := rfl
@[simp] theorem setTern_timer (u : Nat) (x : Ternary) : (s.setTern u x).timer = s.timer := rfl
@[simp] theorem setTern_agenda (u : Nat) (x : Ternary) : (s.setTern u x).agenda = s.agenda := rfl
@[simp] theorem setTern_stall (u : Nat) (x : Ternary) : (s.setTern u x).stall = s.stall := rfl
@[simp] theorem setTern_freeCount (u : Nat) (x : Ternary) : (s.setTern u x).freeCount = s.freeCount := rfl

/-- What is read after a ternary array is replaced. -/
theorem tern_setTern (h : twf {} s.terns = true) (k j : Nat) (x : Ternary) : (s.setTern k x).tern j = if j = k then x else s.tern j := tget_tput h _ _ _
@[simp] theorem tern_setTern_self (h : twf {} s.terns = true) (k : Nat) (x : Ternary) : (s.setTern k x).tern k = x := by simp [tern_setTern s h]

@[simp] theorem mt_setTern (u : Nat) (x : Ternary) (k : Nat) : (s.setTern u x).mt k = s.mt k := rfl
@[simp] theorem part_setTern (u : Nat) (x : Ternary) (k : Nat) : (s.setTern u x).part k = s.part k := rfl
@[simp] theorem ctx_setTern (u : Nat) (x : Ternary) (k : Nat) : (s.setTern u x).ctx k = s.ctx k := rfl
@[simp] theorem lq_setTern (u : Nat) (x : Ternary) (f' q' : Nat) : (s.setTern u x).lq f' q' = s.lq f' q' := rfl
@[simp] theorem isl_setTern (u : Nat) (x : Ternary) (k : Nat) : (s.setTern u x).isl k = s.isl k := rfl

/-! ### A processing element replaced -/

@[simp] theorem setPe_slot (x : Pe) : (s.setPe x).slot = s.slot := rfl
@[simp] theorem setPe_others (x : Pe) : (s.setPe x).others = s.others := rfl
@[simp] theorem setPe_mem (x : Pe) : (s.setPe x).mem = s.mem := rfl
@[simp] theorem setPe_mts (x : Pe) : (s.setPe x).mts = s.mts := rfl
@[simp] theorem setPe_islands (x : Pe) : (s.setPe x).islands = s.islands := rfl
@[simp] theorem setPe_terns (x : Pe) : (s.setPe x).terns = s.terns := rfl
@[simp] theorem setPe_strms (x : Pe) : (s.setPe x).strms = s.strms := rfl
@[simp] theorem setPe_cmds (x : Pe) : (s.setPe x).cmds = s.cmds := rfl
@[simp] theorem setPe_nextCmd (x : Pe) : (s.setPe x).nextCmd = s.nextCmd := rfl
@[simp] theorem setPe_ctxs (x : Pe) : (s.setPe x).ctxs = s.ctxs := rfl
@[simp] theorem setPe_parts (x : Pe) : (s.setPe x).parts = s.parts := rfl
@[simp] theorem setPe_lqs (x : Pe) : (s.setPe x).lqs = s.lqs := rfl
@[simp] theorem setPe_sys (x : Pe) : (s.setPe x).sys = s.sys := rfl
@[simp] theorem setPe_edges (x : Pe) : (s.setPe x).edges = s.edges := rfl
@[simp] theorem setPe_hvReplies (x : Pe) : (s.setPe x).hvReplies = s.hvReplies := rfl
@[simp] theorem setPe_timer (x : Pe) : (s.setPe x).timer = s.timer := rfl
@[simp] theorem setPe_agenda (x : Pe) : (s.setPe x).agenda = s.agenda := rfl
@[simp] theorem setPe_stall (x : Pe) : (s.setPe x).stall = s.stall := rfl
@[simp] theorem setPe_freeCount (x : Pe) : (s.setPe x).freeCount = s.freeCount := rfl

/-! ### Slots changed -/

@[simp] theorem mapSlots_pes (f : Slot → Slot) : (s.mapSlots f).pes = s.pes := rfl
@[simp] theorem mapSlots_mem (f : Slot → Slot) : (s.mapSlots f).mem = s.mem := rfl
@[simp] theorem mapSlots_mts (f : Slot → Slot) : (s.mapSlots f).mts = s.mts := rfl
@[simp] theorem mapSlots_islands (f : Slot → Slot) : (s.mapSlots f).islands = s.islands := rfl
@[simp] theorem mapSlots_terns (f : Slot → Slot) : (s.mapSlots f).terns = s.terns := rfl
@[simp] theorem mapSlots_strms (f : Slot → Slot) : (s.mapSlots f).strms = s.strms := rfl
@[simp] theorem mapSlots_cmds (f : Slot → Slot) : (s.mapSlots f).cmds = s.cmds := rfl
@[simp] theorem mapSlots_nextCmd (f : Slot → Slot) : (s.mapSlots f).nextCmd = s.nextCmd := rfl
@[simp] theorem mapSlots_ctxs (f : Slot → Slot) : (s.mapSlots f).ctxs = s.ctxs := rfl
@[simp] theorem mapSlots_parts (f : Slot → Slot) : (s.mapSlots f).parts = s.parts := rfl
@[simp] theorem mapSlots_lqs (f : Slot → Slot) : (s.mapSlots f).lqs = s.lqs := rfl
@[simp] theorem mapSlots_sys (f : Slot → Slot) : (s.mapSlots f).sys = s.sys := rfl
@[simp] theorem mapSlots_edges (f : Slot → Slot) : (s.mapSlots f).edges = s.edges := rfl
@[simp] theorem mapSlots_hvReplies (f : Slot → Slot) : (s.mapSlots f).hvReplies = s.hvReplies := rfl
@[simp] theorem mapSlots_timer (f : Slot → Slot) : (s.mapSlots f).timer = s.timer := rfl
@[simp] theorem mapSlots_agenda (f : Slot → Slot) : (s.mapSlots f).agenda = s.agenda := rfl
@[simp] theorem mapSlots_stall (f : Slot → Slot) : (s.mapSlots f).stall = s.stall := rfl
@[simp] theorem mapSlots_freeCount (f : Slot → Slot) : (s.mapSlots f).freeCount = s.freeCount := rfl
@[simp] theorem mapSlots_slot (f : Slot → Slot) : (s.mapSlots f).slot = f s.slot := rfl
@[simp] theorem mapSlots_others (f : Slot → Slot) : (s.mapSlots f).others = s.others.map f := rfl

@[simp] theorem updSlot_pes (c : Coord) (f : Slot → Slot) : (s.updSlot c f).pes = s.pes := by unfold State.updSlot; split <;> rfl
@[simp] theorem updSlot_mem (c : Coord) (f : Slot → Slot) : (s.updSlot c f).mem = s.mem := by unfold State.updSlot; split <;> rfl
@[simp] theorem updSlot_mts (c : Coord) (f : Slot → Slot) : (s.updSlot c f).mts = s.mts := by unfold State.updSlot; split <;> rfl
@[simp] theorem updSlot_islands (c : Coord) (f : Slot → Slot) : (s.updSlot c f).islands = s.islands := by unfold State.updSlot; split <;> rfl
@[simp] theorem updSlot_terns (c : Coord) (f : Slot → Slot) : (s.updSlot c f).terns = s.terns := by unfold State.updSlot; split <;> rfl
@[simp] theorem updSlot_strms (c : Coord) (f : Slot → Slot) : (s.updSlot c f).strms = s.strms := by unfold State.updSlot; split <;> rfl
@[simp] theorem updSlot_cmds (c : Coord) (f : Slot → Slot) : (s.updSlot c f).cmds = s.cmds := by unfold State.updSlot; split <;> rfl
@[simp] theorem updSlot_nextCmd (c : Coord) (f : Slot → Slot) : (s.updSlot c f).nextCmd = s.nextCmd := by unfold State.updSlot; split <;> rfl
@[simp] theorem updSlot_ctxs (c : Coord) (f : Slot → Slot) : (s.updSlot c f).ctxs = s.ctxs := by unfold State.updSlot; split <;> rfl
@[simp] theorem updSlot_parts (c : Coord) (f : Slot → Slot) : (s.updSlot c f).parts = s.parts := by unfold State.updSlot; split <;> rfl
@[simp] theorem updSlot_lqs (c : Coord) (f : Slot → Slot) : (s.updSlot c f).lqs = s.lqs := by unfold State.updSlot; split <;> rfl
@[simp] theorem updSlot_sys (c : Coord) (f : Slot → Slot) : (s.updSlot c f).sys = s.sys := by unfold State.updSlot; split <;> rfl
@[simp] theorem updSlot_edges (c : Coord) (f : Slot → Slot) : (s.updSlot c f).edges = s.edges := by unfold State.updSlot; split <;> rfl
@[simp] theorem updSlot_hvReplies (c : Coord) (f : Slot → Slot) : (s.updSlot c f).hvReplies = s.hvReplies := by unfold State.updSlot; split <;> rfl
@[simp] theorem updSlot_timer (c : Coord) (f : Slot → Slot) : (s.updSlot c f).timer = s.timer := by unfold State.updSlot; split <;> rfl
@[simp] theorem updSlot_agenda (c : Coord) (f : Slot → Slot) : (s.updSlot c f).agenda = s.agenda := by unfold State.updSlot; split <;> rfl
@[simp] theorem updSlot_stall (c : Coord) (f : Slot → Slot) : (s.updSlot c f).stall = s.stall := by unfold State.updSlot; split <;> rfl
@[simp] theorem updSlot_freeCount (c : Coord) (f : Slot → Slot) : (s.updSlot c f).freeCount = s.freeCount := by unfold State.updSlot; split <;> rfl

@[simp] theorem focus_pes (c : Coord) : (s.focus c).pes = s.pes := by unfold State.focus; split <;> first | rfl | (split <;> rfl)
@[simp] theorem focus_mem (c : Coord) : (s.focus c).mem = s.mem := by unfold State.focus; split <;> first | rfl | (split <;> rfl)
@[simp] theorem focus_mts (c : Coord) : (s.focus c).mts = s.mts := by unfold State.focus; split <;> first | rfl | (split <;> rfl)
@[simp] theorem focus_islands (c : Coord) : (s.focus c).islands = s.islands := by unfold State.focus; split <;> first | rfl | (split <;> rfl)
@[simp] theorem focus_terns (c : Coord) : (s.focus c).terns = s.terns := by unfold State.focus; split <;> first | rfl | (split <;> rfl)
@[simp] theorem focus_strms (c : Coord) : (s.focus c).strms = s.strms := by unfold State.focus; split <;> first | rfl | (split <;> rfl)
@[simp] theorem focus_cmds (c : Coord) : (s.focus c).cmds = s.cmds := by unfold State.focus; split <;> first | rfl | (split <;> rfl)
@[simp] theorem focus_nextCmd (c : Coord) : (s.focus c).nextCmd = s.nextCmd := by unfold State.focus; split <;> first | rfl | (split <;> rfl)
@[simp] theorem focus_ctxs (c : Coord) : (s.focus c).ctxs = s.ctxs := by unfold State.focus; split <;> first | rfl | (split <;> rfl)
@[simp] theorem focus_parts (c : Coord) : (s.focus c).parts = s.parts := by unfold State.focus; split <;> first | rfl | (split <;> rfl)
@[simp] theorem focus_lqs (c : Coord) : (s.focus c).lqs = s.lqs := by unfold State.focus; split <;> first | rfl | (split <;> rfl)
@[simp] theorem focus_sys (c : Coord) : (s.focus c).sys = s.sys := by unfold State.focus; split <;> first | rfl | (split <;> rfl)
@[simp] theorem focus_edges (c : Coord) : (s.focus c).edges = s.edges := by unfold State.focus; split <;> first | rfl | (split <;> rfl)
@[simp] theorem focus_hvReplies (c : Coord) : (s.focus c).hvReplies = s.hvReplies := by unfold State.focus; split <;> first | rfl | (split <;> rfl)
@[simp] theorem focus_timer (c : Coord) : (s.focus c).timer = s.timer := by unfold State.focus; split <;> first | rfl | (split <;> rfl)
@[simp] theorem focus_agenda (c : Coord) : (s.focus c).agenda = s.agenda := by unfold State.focus; split <;> first | rfl | (split <;> rfl)
@[simp] theorem focus_stall (c : Coord) : (s.focus c).stall = s.stall := by unfold State.focus; split <;> first | rfl | (split <;> rfl)
@[simp] theorem focus_freeCount (c : Coord) : (s.focus c).freeCount = s.freeCount := by unfold State.focus; split <;> first | rfl | (split <;> rfl)

/-- The slot in focus changed, when it is the one that coordinates name. -/
theorem updSlot_at {c : Coord} (h : s.slot.at c = true) (f : Slot → Slot) : s.updSlot c f = { s with slot := f s.slot } := by simp [State.updSlot, h]

/-- Focus stays on a slot that has it. -/
theorem focus_at {c : Coord} (h : s.slot.at c = true) : s.focus c = s := by simp [State.focus, h]

/-! ### Energy, and an instruction done -/

@[simp] theorem done_others (o : Ops) (v : Option Dword) (cls n : Nat) : (s.done o v cls n).others = s.others := by cases v <;> rfl
@[simp] theorem done_pes (o : Ops) (v : Option Dword) (cls n : Nat) : (s.done o v cls n).pes = s.pes := by cases v <;> rfl
@[simp] theorem done_mem (o : Ops) (v : Option Dword) (cls n : Nat) : (s.done o v cls n).mem = s.mem := by cases v <;> rfl
@[simp] theorem done_mts (o : Ops) (v : Option Dword) (cls n : Nat) : (s.done o v cls n).mts = s.mts := by cases v <;> rfl
@[simp] theorem done_islands (o : Ops) (v : Option Dword) (cls n : Nat) : (s.done o v cls n).islands = s.islands := by cases v <;> rfl
@[simp] theorem done_terns (o : Ops) (v : Option Dword) (cls n : Nat) : (s.done o v cls n).terns = s.terns := by cases v <;> rfl
@[simp] theorem done_strms (o : Ops) (v : Option Dword) (cls n : Nat) : (s.done o v cls n).strms = s.strms := by cases v <;> rfl
@[simp] theorem done_cmds (o : Ops) (v : Option Dword) (cls n : Nat) : (s.done o v cls n).cmds = s.cmds := by cases v <;> rfl
@[simp] theorem done_nextCmd (o : Ops) (v : Option Dword) (cls n : Nat) : (s.done o v cls n).nextCmd = s.nextCmd := by cases v <;> rfl
@[simp] theorem done_ctxs (o : Ops) (v : Option Dword) (cls n : Nat) : (s.done o v cls n).ctxs = s.ctxs := by cases v <;> rfl
@[simp] theorem done_parts (o : Ops) (v : Option Dword) (cls n : Nat) : (s.done o v cls n).parts = s.parts := by cases v <;> rfl
@[simp] theorem done_lqs (o : Ops) (v : Option Dword) (cls n : Nat) : (s.done o v cls n).lqs = s.lqs := by cases v <;> rfl
@[simp] theorem done_sys (o : Ops) (v : Option Dword) (cls n : Nat) : (s.done o v cls n).sys = s.sys := by cases v <;> rfl
@[simp] theorem done_edges (o : Ops) (v : Option Dword) (cls n : Nat) : (s.done o v cls n).edges = s.edges := by cases v <;> rfl
@[simp] theorem done_hvReplies (o : Ops) (v : Option Dword) (cls n : Nat) : (s.done o v cls n).hvReplies = s.hvReplies := by cases v <;> rfl
@[simp] theorem done_timer (o : Ops) (v : Option Dword) (cls n : Nat) : (s.done o v cls n).timer = s.timer := by cases v <;> rfl
@[simp] theorem done_agenda (o : Ops) (v : Option Dword) (cls n : Nat) : (s.done o v cls n).agenda = s.agenda := by cases v <;> rfl
@[simp] theorem done_stall (o : Ops) (v : Option Dword) (cls n : Nat) : (s.done o v cls n).stall = s.stall := by cases v <;> rfl
@[simp] theorem done_freeCount (o : Ops) (v : Option Dword) (cls n : Nat) : (s.done o v cls n).freeCount = s.freeCount := by cases v <;> rfl

/-- An instruction done with a value: it is written, the instruction retires, and its energy is owed. -/
theorem done_some (o : Ops) (v : Dword) (cls n : Nat) : s.done o (some v) cls n = { s with slot := ((s.slot.writeD o v).retire o).owe cls n } := rfl
theorem done_none (o : Ops) (cls n : Nat) : s.done o none cls n = { s with slot := (s.slot.retire o).owe cls n } := rfl

end Sys2Proof.Laws
end

