-- ==== Sys2Proof/Laws/Faults.lean ====
section
/-! SUPPORT. Taking a fault: what a record changes, that memory keeps its canonical form through every part of it, and what each
class of fault leaves. -/

namespace Sys2Proof.Laws

open Sys2Proof Sys2Proof.Machine

variable {s : State}

/-! ### The fault ring -/

theorem foldl_wf {β : Type} (f : Mem → β → Mem) (hf : ∀ m x, m.wf = true → (f m x).wf = true) (xs : List β) {m : Mem} (h : m.wf = true) :
    (xs.foldl f m).wf = true := by
  induction xs generalizing m with
  | nil => exact h
  | cons x xs ih => exact ih (hf _ _ h)

theorem write_wf (r : FRing) {m : Mem} (h : m.wf = true) (seq : Word) (x : FRec) : (r.write m seq x).1.wf = true :=
  foldl_wf _ (fun _ _ hm => woPut_wf hm _ _) _ h

theorem take_wf (r : FRing) {m : Mem} (h : m.wf = true) (x : FRec) : (r.take m x).1.wf = true := by
  unfold FRing.take
  split
  · exact write_wf r h _ _
  · split <;> exact h

theorem flush_wf (r : FRing) {m : Mem} (h : m.wf = true) (xs : List (Word × FRec)) : (r.flush m xs).1.wf = true := by
  induction xs generalizing r m with
  | nil => exact h
  | cons x xs ih =>
    unfold FRing.flush
    split
    · exact h
    · exact ih _ (write_wf r h _ _)

theorem tdrop_present_wf {m : Mem} (h : m.wf = true) (lo hi : Nat) : ({ m with present := tdrop m.present lo hi } : Mem).wf = true := by
  obtain ⟨h1, h2, h3, h4, h5, h6⟩ := (wf_iff m).1 h
  exact (wf_iff _).2 ⟨h1, h2, twf_tdrop h3 _ _, h4, h5, h6⟩

theorem reclaim_wf (r : FRing) {m : Mem} (h : m.wf = true) (tail : Word) : (r.reclaim m tail).1.wf = true := by
  unfold FRing.reclaim
  split
  · exact h
  · exact flush_wf _ (foldl_wf _ (fun _ _ hm => tdrop_present_wf hm _ _) _ h) _

/-- A record sent to a ring changes memory and the ring of its partition alone. -/
theorem emit_eq (s : State) (p : Nat) (x : FRec) : s.emit p x =
    ({ s with mem := ((s.part p).ring.take s.mem x).1 } : State).setPart p { s.part p with ring := ((s.part p).ring.take s.mem x).2 } := rfl

@[simp] theorem emit_mem (s : State) (p : Nat) (x : FRec) : (s.emit p x).mem = ((s.part p).ring.take s.mem x).1 := rfl
@[simp] theorem emit_slot (s : State) (p : Nat) (x : FRec) : (s.emit p x).slot = s.slot := rfl
@[simp] theorem emit_others (s : State) (p : Nat) (x : FRec) : (s.emit p x).others = s.others := rfl
@[simp] theorem emit_pes (s : State) (p : Nat) (x : FRec) : (s.emit p x).pes = s.pes := rfl
@[simp] theorem emit_ctxs (s : State) (p : Nat) (x : FRec) : (s.emit p x).ctxs = s.ctxs := rfl
@[simp] theorem emit_lqs (s : State) (p : Nat) (x : FRec) : (s.emit p x).lqs = s.lqs := rfl
@[simp] theorem emit_mts (s : State) (p : Nat) (x : FRec) : (s.emit p x).mts = s.mts := rfl
@[simp] theorem emit_cmds (s : State) (p : Nat) (x : FRec) : (s.emit p x).cmds = s.cmds := rfl

theorem emit_wf (h : s.mem.wf = true) (p : Nat) (x : FRec) : (s.emit p x).mem.wf = true := take_wf _ h x

theorem emitDev_wf (h : s.mem.wf = true) (x : FRec) : (s.emitDev x).mem.wf = true := take_wf _ h x

/-! ### Registers written back -/

theorem l1Settle_wf (h : s.mem.wf = true) (u req : Nat) : (s.l1Settle u req).mem.wf = true := l1Trim_wf h _ _ _

theorem spill_wf {n : Nat} {v : Dword} {t : State} (h : s.mem.wf = true) (hs : s.spill n v = .ok t) : t.mem.wf = true := by
  unfold State.spill at hs
  extract_lets va at hs
  split at hs
  · cases ht : s.hvTake s.slotCtx va true with
    | error e => rw [ht] at hs; cases hs
    | ok r => rw [ht] at hs; cases hs; exact (hvTake_memOnly ht).2 h
  · split at hs
    · cases hs
    · rename_i htr
      split at hs
      · cases hs
      · injection hs with hs
        subst hs
        exact l1Settle_wf (l1Write_wf ((translate_frame htr).2 h) _ _ _ _) _ _

theorem spillAll_wf (es : List VEntry) (h : s.mem.wf = true) : (s.spillAll es).mem.wf = true := by
  induction es generalizing s with
  | nil => exact h
  | cons e es ih =>
    unfold State.spillAll
    apply ih
    dsimp only
    split
    · split
      · rename_i hs
        have := spill_wf h hs
        exact this
      · exact h
    · exact h

/-! ### The classes of fault (R264) -/

/-- Requests withdrawn leave memory with the other requests (R269). -/
@[simp] theorem withdraw_mem (c : Coord) : (s.withdraw c).mem = { s.mem with waits := s.mem.waits.filter (fun w => w.place != c) } := by
  have key : ∀ (ws : List Waiter) (t : State), (ws.foldl (fun s w => s.updSlot c (fun x => x.untake w.took)) t).mem = t.mem := by
    intro ws
    induction ws with
    | nil => exact fun t => rfl
    | cons w ws ih => exact fun t => (ih _).trans (updSlot_mem _ _ _)
  unfold State.withdraw
  dsimp only
  rw [key]

theorem suspend_wf (h : s.mem.wf = true) (f : Flt) : (s.suspend f).mem.wf = true := by
  have h1 : (s.withdraw s.slot.place).mem.wf = true := by
    rw [withdraw_mem]
    exact wf_congr h rfl rfl rfl rfl rfl rfl
  unfold State.suspend
  dsimp only
  refine emit_wf ?_ _ _
  refine physPut_wf ?_ _ _
  show (if (s.withdraw s.slot.place).slot.ctl = true then (s.withdraw s.slot.place).spillAll (s.withdraw s.slot.place).slot.vcache
    else s.withdraw s.slot.place).mem.wf = true
  split
  · exact spillAll_wf _ h1
  · exact h1

theorem chargeNj_mem (s : State) (c n : Nat) : (s.chargeNj c n).mem = s.mem := by
  unfold State.chargeNj
  dsimp only
  split <;> rfl

theorem charge_mem (s : State) (c cls n : Nat) : (s.charge c cls n).mem = s.mem := by
  unfold State.charge
  dsimp only
  split
  · rfl
  · exact chargeNj_mem _ _ _

theorem postSlot_mem (x : Slot) : (s.postSlot x).mem = s.mem := by
  unfold State.postSlot
  induction x.owed generalizing s with
  | nil => rfl
  | cons e es ih => exact ih.trans (charge_mem _ _ _ _)

theorem dropForme_wf (h : s.mem.wf = true) (p : Nat) : (s.dropForme p).mem.wf = true := by
  have key : ∀ (xs : List Slot) (t : State), (xs.foldl (fun s x => s.postSlot x) t).mem = t.mem := by
    intro xs
    induction xs with
    | nil => intro t; rfl
    | cons x xs ih => intro t; exact (ih _).trans (postSlot_mem x)
  unfold State.dropForme
  refine wf_congr h ?_ ?_ ?_ ?_ ?_ ?_ <;> simp [key]

theorem stopPart_wf (h : s.mem.wf = true) (p : Nat) : (s.stopPart p).mem.wf = true := by
  have key := l1DropUnits_wf h (s.part p).cus (fun _ => true) (s.part p).ctx
  unfold State.stopPart
  generalize s.mem.l1DropUnits _ _ _ = m at key ⊢
  exact wf_congr (dropForme_wf (s := { s with mem := m }) key p) rfl rfl rfl rfl rfl rfl

@[simp] theorem hvFresh_mem (s : State) (ctx : Nat) : (s.hvFresh ctx).mem = s.mem := rfl
@[simp] theorem hvFresh_slot (s : State) (ctx : Nat) : (s.hvFresh ctx).slot = s.slot := rfl
@[simp] theorem hvFresh_parts (s : State) (ctx : Nat) : (s.hvFresh ctx).parts = s.parts := rfl

theorem raise_wf (h : s.mem.wf = true) (f : Flt) : (s.raise f).mem.wf = true := by
  have hf : (s.hvFresh s.slotCtx).mem.wf = true := h
  unfold State.raise
  generalize s.hvFresh s.slotCtx = t at hf
  dsimp only
  split
  · exact suspend_wf hf f
  · split
    · exact stopPart_wf (emit_wf hf _ _) _
    · exact emit_wf hf _ _

theorem raiseEngine_wf (h : s.mem.wf = true) (p imgc : Nat) (f : Flt) : (s.raiseEngine p imgc f).mem.wf = true := by
  have hf : (s.hvFresh (s.part p).ctx).mem.wf = true := h
  unfold State.raiseEngine
  generalize s.hvFresh (s.part p).ctx = t at hf
  dsimp only
  split
  · exact stopPart_wf (emit_wf hf _ _) _
  · exact emit_wf hf _ _

theorem raiseSeq_wf (h : s.mem.wf = true) (p : Nat) (f : Flt) : (s.raiseSeq p f).mem.wf = true := stopPart_wf (emit_wf h _ _) _

theorem stopBy_wf {e : Stop × State} (h : e.2.mem.wf = true) : (State.stopBy e).mem.wf = true := by
  obtain ⟨e, s⟩ := e
  cases e with
  | wait => exact h
  | flt f => exact raise_wf h f

/-- A step that goes on keeps the canonical form when what it computes, or the state of its stop, has it. -/
theorem finish_wf {r : Res State} {t : State} (ho : ∀ u, r = .ok u → u.mem.wf = true) (he : ∀ e, r = .error e → e.2.mem.wf = true)
    (h : finish r = .next t) : t.mem.wf = true := by
  cases r with
  | ok v => cases h; exact ho t rfl
  | error e => cases h; exact stopBy_wf (he e rfl)

theorem faultAt_wf {t : State} (hs : s.mem.wf = true) (ht : t.mem.wf = true) (f : Flt) : (faultAt s t f).2.mem.wf = true := by
  obtain ⟨_, h2, h3, h4, _, h6⟩ := (wf_iff _).1 hs
  obtain ⟨k1, _, _, _, k5, _⟩ := (wf_iff _).1 ht
  exact (wf_iff _).2 ⟨k1, h2, h3, h4, k5, h6⟩

/-- The class of a fault says what it does: suspend-and-save, the stop of the context, or its record alone. -/
theorem raise_suspend {f : Flt} (h : fltClass f.code = 0) : s.raise f = (s.hvFresh s.slotCtx).suspend f := by simp [State.raise, h]
theorem raise_fatal {f : Flt} (h : fltClass f.code = 2) :
    s.raise f = ((s.hvFresh s.slotCtx).emit s.slot.prt ((s.hvFresh s.slotCtx).slotRec f)).stopPart s.slot.prt := by simp [State.raise, h]
theorem raise_record {f : Flt} (h : fltClass f.code = 1 ∨ fltClass f.code = 3) :
    s.raise f = (s.hvFresh s.slotCtx).emit s.slot.prt ((s.hvFresh s.slotCtx).slotRec f) := by
  rcases h with h | h <;> simp [State.raise, h]

end Sys2Proof.Laws
end

