-- ==== Sys2Proof/Laws/Numbers.lean ====
section
/-! SUPPORT. What the integer values of R126 and R152 are as bit vectors, and the shifts of R171. -/

namespace Sys2Proof.Laws

open Sys2Proof Sys2Proof.Machine

theorem tWidth_pos (t : Nat) : 0 < tWidth t := by unfold tWidth; split <;> decide

theorem tWidth_le (t : Nat) : tWidth t ≤ 64 := by unfold tWidth; split <;> decide

theorem bit_eq_testBit (v i : Nat) : bit v i = v.testBit i := by
  rw [bit, Nat.testBit_eq_decide_div_mod_eq]
  rfl

/-- The two's-complement value of a number is that of its bit vector. -/
theorem signed_eq_toInt (w v : Nat) (hw : 0 < w) : signed w v = (BitVec.ofNat w v).toInt := by
  unfold signed
  rw [bit_eq_testBit, BitVec.toInt_eq_msb_cond, BitVec.msb_eq_getLsbD_last, BitVec.getLsbD_ofNat, BitVec.toNat_ofNat]
  simp [hw]

/-- The pattern of a type written as a 64-bit value, as a bit vector: sign-copied or zero-extended (R152). -/
theorem putBits_eq (t v : Nat) :
    putBits t v = if tSigned t then (BitVec.ofNat (tWidth t) v).signExtend 64 else (BitVec.ofNat (tWidth t) v).setWidth 64 := by
  unfold putBits
  split
  · rw [signed_eq_toInt _ _ (tWidth_pos t)]
    rfl
  · apply BitVec.eq_of_toNat_eq
    simp

/-- The integer written in a type, as a bit vector (R126, R152). -/
theorem putI_eq (t : Nat) (y : Int) :
    putI t y = if tSigned t then (BitVec.ofInt (tWidth t) y).signExtend 64 else (BitVec.ofInt (tWidth t) y).setWidth 64 := by
  unfold putI
  rw [putBits_eq]
  have h : BitVec.ofNat (tWidth t) (y % 2 ^ tWidth t).toNat = BitVec.ofInt (tWidth t) y := by
    apply BitVec.eq_of_toNat_eq
    rw [BitVec.toNat_ofNat, BitVec.toNat_ofInt]
    have : (y % 2 ^ tWidth t).toNat < 2 ^ tWidth t := by
      have h0 := Int.emod_nonneg y (b := 2 ^ tWidth t) (by positivity)
      have h1 := Int.emod_lt_of_pos y (b := 2 ^ tWidth t) (by positivity)
      zify
      rw [Int.toNat_of_nonneg h0]
      exact h1
    rw [Nat.mod_eq_of_lt this]
    simp
  rw [h]

/-- The integer that a value holds in a type, as a bit vector (R152). -/
theorem valI_eq (t : Nat) (v : Dword) :
    valI t v = if tSigned t then (v.setWidth (tWidth t)).toInt else ((v.setWidth (tWidth t)).toNat : Int) := by
  unfold valI
  split
  · rw [signed_eq_toInt _ _ (tWidth_pos t)]
    rw [show BitVec.ofNat (tWidth t) v.toNat = v.setWidth (tWidth t) from BitVec.eq_of_toNat_eq (by simp)]
  · simp [*]

theorem low_eq (t : Nat) (v : Dword) : low t v = (v.setWidth (tWidth t)).toNat := by simp [low]

/-! ### Shifts and counts (R171) -/

theorem shlP_eq {w : Nat} (a : BitVec w) (n : Nat) : shlP w a.toNat n = (a <<< n).toNat := by
  unfold shlP
  split
  · rename_i h
    rw [BitVec.shiftLeft_eq_zero h]
    simp
  · rw [BitVec.toNat_shiftLeft, Nat.shiftLeft_eq]

theorem shrP_eq {w : Nat} (a : BitVec w) (n : Nat) : shrP w a.toNat n = (a >>> n).toNat := by
  unfold shrP
  rw [BitVec.toNat_ushiftRight, Nat.shiftRight_eq_div_pow]
  split
  · rename_i h
    rw [Nat.div_eq_of_lt]
    exact lt_of_lt_of_le a.isLt (Nat.pow_le_pow_right (by decide) h)
  · rfl

theorem sarP_eq {w : Nat} (a : BitVec w) (n : Nat) : sarP w a.toNat n = (a.sshiftRight n).toNat := by
  unfold sarP
  rw [bit_eq_testBit, BitVec.testBit_toNat, ← BitVec.msb_eq_getLsbD_last]
  cases h : a.msb
  · simp only [Bool.false_eq_true, if_false]
    rw [BitVec.sshiftRight_eq_of_msb_false h, BitVec.toNat_ushiftRight, Nat.shiftRight_eq_div_pow]
    split
    · rename_i h'
      rw [Nat.div_eq_of_lt]
      exact lt_of_lt_of_le a.isLt (Nat.pow_le_pow_right (by decide) h')
    · rfl
  · simp only [if_true]
    rw [BitVec.sshiftRight_eq_of_msb_true h, BitVec.toNat_not, BitVec.toNat_ushiftRight, BitVec.toNat_not,
      Nat.shiftRight_eq_div_pow]
    have ha := a.isLt
    split
    · rename_i h'
      rw [Nat.div_eq_of_lt (lt_of_le_of_lt (Nat.sub_le _ _) (lt_of_lt_of_le (Nat.sub_lt (by positivity) (by decide))
        (Nat.pow_le_pow_right (by decide) h')))]
      simp
    · rename_i h'
      have hn : n < w := by omega
      have e : 2 ^ w = 2 ^ n * 2 ^ (w - n) := by rw [← pow_add]; congr 1; omega
      have hd := Nat.div_add_mod a.toNat (2 ^ n)
      have hm : a.toNat % 2 ^ n < 2 ^ n := Nat.mod_lt _ (by positivity)
      have key : (2 ^ w - 1 - a.toNat) / 2 ^ n = 2 ^ (w - n) - 1 - a.toNat / 2 ^ n := by
        have hq : a.toNat / 2 ^ n < 2 ^ (w - n) := by
          apply Nat.div_lt_of_lt_mul
          rw [← e]
          exact ha
        rw [Nat.div_eq_iff (by positivity)]
        have e2 : 2 ^ n * (2 ^ (w - n) - 1 - a.toNat / 2 ^ n) = 2 ^ w - 2 ^ n - 2 ^ n * (a.toNat / 2 ^ n) := by
          rw [Nat.mul_sub, Nat.mul_sub, ← e]
          simp
        rw [Nat.mul_comm _ (2 ^ n), e2]
        have : 2 ^ n * (a.toNat / 2 ^ n) + 2 ^ n ≤ 2 ^ w := by
          rw [e, ← Nat.mul_succ]
          exact Nat.mul_le_mul_left _ hq
        omega
      rw [key]
      have hq : a.toNat / 2 ^ n < 2 ^ (w - n) := by
        apply Nat.div_lt_of_lt_mul
        rw [← e]
        exact ha
      have h3 : 2 ^ (w - n) ≤ 2 ^ w := Nat.pow_le_pow_right (by decide) (by omega)
      generalize a.toNat / 2 ^ n = q at hq
      generalize 2 ^ (w - n) = x at *
      generalize 2 ^ w = z at *
      omega

theorem rotP_eq {w : Nat} (hw : 0 < w) (a : BitVec w) (n : Nat) : rotP w a.toNat n = (a.rotateLeft n).toNat := by
  unfold rotP
  rw [BitVec.rotateLeft_def, BitVec.toNat_or, BitVec.toNat_shiftLeft, BitVec.toNat_ushiftRight, Nat.shiftLeft_eq,
    Nat.shiftRight_eq_div_pow]
  have hk : n % w < w := Nat.mod_lt _ hw
  rw [Nat.add_comm, Nat.or_comm]
  have ha := a.isLt
  generalize n % w = k at hk ⊢
  have e : 2 ^ w = 2 ^ (w - k) * 2 ^ k := by rw [← pow_add]; congr 1; omega
  have h1 : a.toNat / 2 ^ (w - k) < 2 ^ k := by
    apply Nat.div_lt_of_lt_mul
    rw [← e]
    exact ha
  have h2 : a.toNat * 2 ^ k % 2 ^ w = (a.toNat % 2 ^ (w - k)) <<< k := by
    rw [e, Nat.mul_mod_mul_right, Nat.shiftLeft_eq]
  rw [h2, Nat.or_comm, ← Nat.shiftLeft_add_eq_or_of_lt h1, Nat.add_comm]

/-- CLZ counts the bits above the highest one. -/
theorem clzP_eq {w : Nat} (a : BitVec w) :
    clzP w a.toNat = ((List.range w).find? (fun i => a.getMsbD i)).getD w := by
  unfold clzP
  split
  · rename_i h
    have : a = 0 := BitVec.eq_of_toNat_eq (by simpa using h)
    subst this
    have : (List.range w).find? (fun i => (0 : BitVec w).getMsbD i) = none := by simp [List.find?_eq_none]
    rw [this]
    rfl
  · rename_i h
    have hl : Nat.log2 a.toNat < w := (Nat.log2_lt h).2 a.isLt
    have hset : a.toNat.testBit (Nat.log2 a.toNat) = true := by
      rw [Nat.testBit_eq_decide_div_mod_eq]
      have h1 := Nat.log2_self_le h
      have h2 := Nat.lt_log2_self (n := a.toNat)
      have : a.toNat / 2 ^ Nat.log2 a.toNat = 1 := by
        apply Nat.div_eq_of_lt_le
        · simpa using h1
        · simpa [Nat.pow_succ, Nat.mul_comm] using h2
      simp [this]
    have : (List.range w).find? (fun i => a.getMsbD i) = some (w - 1 - Nat.log2 a.toNat) := by
      rw [List.find?_range_eq_some]
      refine ⟨?_, ?_, ?_⟩
      · rw [BitVec.getMsbD_eq_getLsbD, ← BitVec.testBit_toNat]
        have e : w - 1 - (w - 1 - Nat.log2 a.toNat) = Nat.log2 a.toNat := by omega
        simp [e, hset]
        omega
      · simp
        omega
      · intro j hj
        rw [BitVec.getMsbD_eq_getLsbD, ← BitVec.testBit_toNat]
        have : a.toNat < 2 ^ (w - 1 - j) := lt_of_lt_of_le Nat.lt_log2_self (Nat.pow_le_pow_right (by decide) (by omega))
        simp [Nat.testBit_lt_two_pow this]
    rw [this]
    rfl

theorem popP_eq (w : Nat) : ∀ a : Nat, popP w a = (List.range w).countP (fun i => a.testBit i) := by
  induction w with
  | zero => intro a; rfl
  | succ n ih =>
    intro a
    rw [List.range_succ_eq_map, List.countP_cons, List.countP_map, popP, ih]
    have : (fun i => (a / 2).testBit i) = (fun i => a.testBit i) ∘ Nat.succ := by
      funext i
      simp [Nat.testBit_succ]
    rw [this]
    have h0 : a % 2 = if a.testBit 0 then 1 else 0 := by
      rw [Nat.testBit_zero]
      rcases Nat.mod_two_eq_zero_or_one a with h | h <;> simp [h]
    rw [h0]
    omega

end Sys2Proof.Laws
end

