-- ==== Sys2Proof/Laws/Operands.lean ====
section
/-! SUPPORT. What reading operands, writing a destination and retiring can do to a slot: each says once which fields change. -/

namespace Sys2Proof.Laws

open Sys2Proof Sys2Proof.Machine

/-! ### Reading operands -/

/-- A slot with other input ports and marker counts. -/
def withIns (x : Slot) (ins : Vector InPort 8) (a b c : Nat) : Slot := { x with ins := ins, mkSeg := a, mkRow := b, mkTen := c }

/-- A consuming read changes its port and, for a marker, the marker counts. -/
theorem take_spec (x : Slot) (k : BitVec 3) :
    ∃ p a b c, (x.take k).2 = withIns x (x.ins.set k.toNat p k.isLt) a b c ∧
      ((x.take k).1.tok.kind = .elem → a = x.mkSeg ∧ b = x.mkRow ∧ c = x.mkTen) := by
  generalize hr : x.take k = r
  unfold Slot.take at hr
  dsimp only at hr
  split at hr
  · subst hr
    exact ⟨_, x.mkSeg, x.mkRow, x.mkTen, rfl, fun _ => ⟨rfl, rfl, rfl⟩⟩
  · split at hr
    · subst hr
      exact ⟨_, x.mkSeg, x.mkRow, x.mkTen, rfl, fun _ => ⟨rfl, rfl, rfl⟩⟩
    · rename_i t q _
      split at hr
      · subst hr
        exact ⟨_, x.mkSeg, x.mkRow, x.mkTen, rfl, fun _ => ⟨rfl, rfl, rfl⟩⟩
      · subst hr
        obtain ⟨v, kd⟩ := t
        rcases kd with _ | m
        · exact ⟨_, x.mkSeg, x.mkRow, x.mkTen, rfl, fun _ => ⟨rfl, rfl, rfl⟩⟩
        · cases m <;> exact ⟨_, _, _, _, rfl, fun h => by simp [Rd.tok] at h⟩

/-- The port that an operand consumes from. -/
def consumed : Opd → Option (BitVec 3)
  | .inp k => some k
  | _ => none

/-- Reading a source changes the port it consumes from, when it names one, and for a marker the marker counts. -/
theorem readSrc_spec (x : Slot) (o : Ops) (d : Opd) :
    ∃ ins a b c, (x.readSrc o d).2 = withIns x ins a b c ∧
      (∀ j : Fin 8, consumed d ≠ some (BitVec.ofNat 3 j) → ins[j] = x.ins[j]) ∧
      ((isPort d = true → (x.readSrc o d).1.tok.kind = .elem) → a = x.mkSeg ∧ b = x.mkRow ∧ c = x.mkTen) := by
  rcases d with r | k | k | k | k | m | _
  case inp =>
    obtain ⟨p, a, b, c, h, h'⟩ := take_spec x k
    refine ⟨_, a, b, c, h, ?_, fun e => h' (e rfl)⟩
    intro j hj
    have : k.toNat ≠ j.val := by
      intro e
      apply hj
      simp only [consumed]
      congr 1
      rw [← e]
      simp
    show (x.ins.set k.toNat p k.isLt)[j.val] = x.ins[j.val]
    rw [Vector.getElem_set_ne _ _ this]
  all_goals exact ⟨x.ins, x.mkSeg, x.mkRow, x.mkTen, rfl, fun _ _ => rfl, fun _ => ⟨rfl, rfl, rfl⟩⟩

/-- The tokens that operands hold when no marker passes in class P or Z are elements. -/
theorem markRule_none {cls : MkClass} {ts : List Tok} (h : markRule cls ts = .ok none) (hc : cls ≠ .o) :
    ∀ t ∈ ts, t.kind = .elem := by
  unfold markRule at h
  split at h
  · exact absurd rfl hc
  · split at h
    · rename_i h'
      simpa using h'
    · simp at h
  · split at h
    · simp
    · split at h
      · rename_i h'
        simpa using h'
      · split at h
        · split at h <;> simp at h
        · simp at h

/-- Reading the operands of an instruction changes the input ports it consumes from and the marker counts, nothing else. -/
theorem readsWith_spec {x y : Slot} {o : Ops} {cls : MkClass} {wr : Wr} {g : Got} (h : x.readsWith o cls wr = .ok (g, y)) :
    ∃ ins a b c, y = withIns x ins a b c ∧
      (∀ j : Fin 8, consumed o.a ≠ some (BitVec.ofNat 3 j) → consumed o.b ≠ some (BitVec.ofNat 3 j) →
        consumed o.c ≠ some (BitVec.ofNat 3 j) → ins[j] = x.ins[j]) ∧
      (g.pass = none → cls ≠ .o → a = x.mkSeg ∧ b = x.mkRow ∧ c = x.mkTen) := by
  unfold Slot.readsWith at h
  obtain ⟨i1, a1, b1, c1, e1, f1, m1⟩ := readSrc_spec x o o.a
  obtain ⟨i2, a2, b2, c2, e2, f2, m2⟩ := readSrc_spec (x.readSrc o o.a).2 o o.b
  obtain ⟨i3, a3, b3, c3, e3, f3, m3⟩ := readSrc_spec ((x.readSrc o o.a).2.readSrc o o.b).2 o o.c
  simp only at h
  split at h
  · simp at h
  · split at h
    · simp at h
    · split at h
      · simp at h
      · split at h
        · simp at h
        · rename_i pass hm
          simp only [Except.ok.injEq, Prod.mk.injEq] at h
          obtain ⟨rfl, rfl⟩ := h
          refine ⟨i3, a3, b3, c3, ?_, ?_, ?_⟩
          · rw [e3, e2, e1]
            rfl
          · intro j ha hb hc
            have h1 := f1 j ha
            have h2 := f2 j hb
            have h3 := f3 j hc
            rw [h3, e2]
            show i2[j] = x.ins[j]
            rw [h2, e1]
            exact h1
          · intro hp hc
            simp only at hp
            subst hp
            have hall := markRule_none hm hc
            have k1 := m1 (fun e => hall _ (by simp [portToks, e]))
            have k2 := m2 (fun e => hall _ (by simp [portToks, e]))
            have k3 := m3 (fun e => hall _ (by simp [portToks, e]))
            rw [e1] at k2
            rw [e2, e1] at k3
            simp only [withIns] at k2 k3
            obtain ⟨rfl, rfl, rfl⟩ := k1
            obtain ⟨rfl, rfl, rfl⟩ := k2
            exact k3

/-- Fetching succeeds exactly when the operands are read and the registers are at hand. -/
theorem fetchWith_ok {x y : Slot} {o : Ops} {cls : MkClass} {wr : Wr} {g : Got} :
    x.fetchWith o cls wr = .ok (g, y) ↔ x.readsWith o cls wr = .ok (g, y) ∧ x.regsHeld o = true := by
  unfold Slot.fetchWith
  constructor
  · intro h
    split at h
    · simp at h
    · rename_i r hr
      split at h
      · rename_i hh
        simp only [Except.ok.injEq] at h
        exact ⟨by rw [hr, h], hh⟩
      · simp at h
  · rintro ⟨h, hh⟩
    rw [h]
    simp [hh]

/-- B comes from the instruction word when its field is empty (R153). -/
theorem readsWith_imm {x y : Slot} {o : Ops} {cls : MkClass} {wr : Wr} {g : Got} (h : x.readsWith o cls wr = .ok (g, y))
    (hb : o.b = .absent) : g.b = ⟨immVal o, .elem⟩ := by
  unfold Slot.readsWith at h
  simp only at h
  split at h
  · simp at h
  · split at h
    · simp at h
    · split at h
      · simp at h
      · split at h
        · simp at h
        · simp only [Except.ok.injEq, Prod.mk.injEq] at h
          obtain ⟨rfl, rfl⟩ := h
          simp [bTok, hb]

/-! ### Writing a destination -/

/-- A slot with other registers. -/
def withRegs (x : Slot) (p : Vector Dword 64) (v : List VEntry) : Slot := { x with phys := p, vcache := v }

theorem find_map_put (vs : List VEntry) (n k : Nat) (v : Dword) (h : k ≠ n) :
    ((vs.map (fun e => if e.reg == n then ⟨n, v, true⟩ else e)).find? (fun e => e.reg == k)).map (fun e => e.val)
      = (vs.find? (fun e => e.reg == k)).map (fun e => e.val) := by
  induction vs with
  | nil => rfl
  | cons e es ih =>
    by_cases hn : e.reg = n
    · have hk : e.reg ≠ k := fun q => h (q ▸ hn)
      simp [hn, Ne.symm h] at ih ⊢
      exact ih
    · simp [hn]
      by_cases hk : e.reg = k
      · simp [hk]
      · simpa [hk] using ih

theorem find_map_self (vs : List VEntry) (n : Nat) (v : Dword) (h : vs.any (fun e => e.reg == n) = true) :
    ((vs.map (fun e => if e.reg == n then ⟨n, v, true⟩ else e)).find? (fun e => e.reg == n)).map (fun e => e.val) = some v := by
  induction vs with
  | nil => simp at h
  | cons e es ih =>
    by_cases hn : e.reg = n
    · simp [hn]
    · simp [hn] at h
      have := ih (by simpa using h)
      simpa [hn] using this

/-- Writing a register changes the registers only: a data task's the one behind its window, a control task's the one its
code and bank name (R36, R111). -/
theorem setReg_spec (x : Slot) (o : Ops) (c : BitVec 5) (v : Dword) :
    ∃ p vs, x.setReg o c v = withRegs x p vs ∧
      (x.ctl = true → p = x.phys) ∧ (x.ctl = false → vs = x.vcache) ∧
      (∀ n : Fin 64, n.val ≠ (x.wbase.toNat + c.toNat) % 64 → p[n] = x.phys[n]) ∧
      (∀ n, n ≠ vDst o c → (withRegs x p vs).vreg? n = x.vreg? n) := by
  unfold Slot.setReg
  split
  · rename_i hc
    refine ⟨x.phys, _, rfl, fun _ => rfl, fun h => absurd hc (by simp [h]), fun _ _ => rfl, ?_⟩
    intro n hn
    show Option.map _ (List.find? _ (if _ then _ else _)) = _
    split
    · exact find_map_put x.vcache (vDst o c) n v hn
    · rw [List.find?_append]
      have : ([⟨vDst o c, v, true⟩] : List VEntry).find? (fun e => e.reg == n) = none := by simp [Ne.symm hn]
      rw [this]
      simp [Slot.vreg?]
  · rename_i hc
    refine ⟨_, x.vcache, rfl, fun h => absurd h hc, fun _ => rfl, ?_, fun _ _ => rfl⟩
    intro n hn
    show (x.phys.set _ v _)[n.val] = x.phys[n.val]
    rw [Vector.getElem_set_ne]
    omega

/-- A register reads back as what was written to it. -/
theorem setReg_dstReg (x : Slot) (o : Ops) (c : BitVec 5) (v : Dword) : (x.setReg o c v).dstReg o c = v := by
  unfold Slot.setReg Slot.dstReg
  split
  · rename_i hc
    simp only [hc]
    show (Option.map _ (List.find? _ (if _ then _ else _))).getD 0 = v
    split
    · rename_i ha
      rw [find_map_self _ _ _ ha]
      rfl
    · rename_i ha
      rw [List.find?_append]
      have : x.vcache.find? (fun e => e.reg == vDst o c) = none := by
        rw [List.find?_eq_none]
        intro e he q
        exact ha (List.any_eq_true.2 ⟨e, he, q⟩)
      rw [this]
      simp
  · rename_i hc
    simp [Slot.areg]

/-- Sending a token changes its output port only. -/
theorem send_spec (x : Slot) (k : BitVec 3) (t : Tok) : ∃ p, x.send k t = { x with outs := x.outs.set k.toNat p k.isLt } :=
  ⟨_, rfl⟩

end Sys2Proof.Laws
end

