-- ==== Sys2Proof/Laws/Shape.lean ====
section
/-! SUPPORT. The shared shapes of the task instructions: what they answer when they retire, when their slot is not ready, and
when they meet a fault. -/

namespace Sys2Proof.Laws

open Sys2Proof Sys2Proof.Machine

variable {s : State} {o : Ops} {cls : Nat} {g : Got} {y : Slot}

/-! ### Instructions that change their slot only -/

theorem runSlot_ok {f : Slot → Except Stop Slot} {x : Slot} (hi : s.canIssue = true) (h : f s.slot = .ok x) :
    s.runSlot cls f = .next { s with slot := x.owe cls 1 } := by
  simp [State.runSlot, hi, h]

theorem runSlot_wait {f : Slot → Except Stop Slot} (hi : s.canIssue = true) (h : f s.slot = .error .wait) :
    s.runSlot cls f = .next { s with stall := true } := by
  simp [State.runSlot, hi, h, State.stopBy]

theorem runSlot_flt {f : Slot → Except Stop Slot} {e : Flt} (hi : s.canIssue = true) (h : f s.slot = .error (.flt e)) :
    s.runSlot cls f = .next (s.raise e) := by
  simp [State.runSlot, hi, h, State.stopBy]

theorem runSlot_not {f : Slot → Except Stop Slot} (hi : s.canIssue = false) :
    s.runSlot cls f = .next { s with stall := true } := by
  simp [State.runSlot, hi]

/-- Whatever it does, an instruction that changes its slot answers a next state. -/
theorem runSlot_next (s : State) (cls : Nat) (f : Slot → Except Stop Slot) : ∃ t, s.runSlot cls f = .next t := by
  unfold State.runSlot
  split
  · split <;> exact ⟨_, rfl⟩
  · exact ⟨_, rfl⟩

theorem run_next (s : State) (f : State → Res State) : ∃ t, s.run f = .next t := by
  unfold State.run finish
  split
  · split <;> exact ⟨_, rfl⟩
  · exact ⟨_, rfl⟩

theorem run_ok {f : State → Res State} {t : State} (hi : s.canIssue = true) (h : f s = .ok t) : s.run f = .next t := by
  simp [State.run, hi, h, finish]

theorem run_flt {f : State → Res State} {t : State} {e : Flt} (hi : s.canIssue = true) (h : f s = .error (.flt e, t)) :
    s.run f = .next (t.raise e) := by
  simp [State.run, hi, h, finish, State.stopBy]

theorem run_wait {f : State → Res State} {t : State} (hi : s.canIssue = true) (h : f s = .error (.wait, t)) :
    s.run f = .next { t with stall := true } := by
  simp [State.run, hi, h, finish, State.stopBy]

theorem run_not {f : State → Res State} (hi : s.canIssue = false) : s.run f = .next { s with stall := true } := by
  simp [State.run, hi]

/-- A slot that is not in a firing, or has a request waiting, may not issue (R40). -/
theorem canIssue_false (h : s.slot.st ≠ .firing ∨ s.slot.busy = true) : s.canIssue = false := by
  rcases h with h | h <;> simp [State.canIssue, h]

/-! ### Arithmetic -/

theorem alu_ok {f : Got → Slot → Dword × Slot} (hi : s.canIssue = true) (h : s.slot.fetch o .p = .ok (g, y)) (hp : g.pass = none) :
    s.alu o cls f = .next { s with slot := (((f g y).2.writeD o (f g y).1).retire o).owe cls 1 } := by
  apply runSlot_ok hi
  simp [Slot.arith, h, hp]

theorem alu_pass {f : Got → Slot → Dword × Slot} {m : Marker} (hi : s.canIssue = true) (h : s.slot.fetch o .p = .ok (g, y))
    (hp : g.pass = some m) :
    s.alu o cls f = .next { s with slot := ((y.writeTok o ⟨0, .mrk m⟩).retire o).owe cls 1 } := by
  apply runSlot_ok hi
  simp [Slot.arith, h, hp]

theorem alu_flt {f : Got → Slot → Dword × Slot} {e : Flt} (hi : s.canIssue = true) (h : s.slot.fetch o .p = .error (.flt e)) :
    s.alu o cls f = .next (s.raise e) := by
  apply runSlot_flt hi
  simp [Slot.arith, h]

theorem fetch_error {x : Slot} {mk : MkClass} {e : Stop} (h : x.reads o mk = .error e) : x.fetch o mk = .error e := by
  unfold Slot.fetch Slot.fetchWith
  unfold Slot.reads at h
  rw [h]

theorem plain_ok {f : Got → Slot → Except Stop Slot} {x : Slot} (h : x.fetch o .z = .ok (g, y)) : Slot.plain o f x = f g y := by
  simp [Slot.plain, h]

/-! ### Guarded instructions and memory accesses -/

theorem operands_ok (h : s.slot.fetch o .z = .ok (g, y)) :
    s.operandsWith o (s.slot.dstCheck o.d) = .ok (g, { s with slot := y }) := by
  unfold Slot.fetch at h
  simp [State.operandsWith, h]

theorem operandsCmd_ok (h : s.slot.fetchWith o .z (s.slot.cmdCheck o.d) = .ok (g, y)) :
    s.operandsWith o (s.slot.cmdCheck o.d) = .ok (g, { s with slot := y }) := by
  simp [State.operandsWith, h]

theorem guarded_ok {f : Got → State → Res State} {t : State} (h : s.slot.fetch o .z = .ok (g, y))
    (hf : f g { s with slot := y } = .ok t) : s.guarded o f = .ok t := by
  unfold State.guarded State.guardedWith
  rw [operands_ok h]
  simp [hf]

/-- A fault of a guarded instruction leaves what the instruction had not changed (R264). -/
theorem guarded_flt {f : Got → State → Res State} {t : State} {x : Flt} (h : s.slot.fetch o .z = .ok (g, y))
    (hf : f g { s with slot := y } = .error (.flt x, t)) : s.guarded o f = .error (faultAt s t x) := by
  unfold State.guarded State.guardedWith
  rw [operands_ok h]
  simp [hf]

theorem guardedCmd_ok {f : Got → State → Res State} {t : State} (h : s.slot.fetchWith o .z (s.slot.cmdCheck o.d) = .ok (g, y))
    (hf : f g { s with slot := y } = .ok t) : s.guardedWith o (s.slot.cmdCheck o.d) f = .ok t := by
  unfold State.guardedWith
  rw [operandsCmd_ok h]
  simp [hf]

theorem memory_ok {f : Got → State → Acc State} {t : State} (h : s.slot.fetch o .z = .ok (g, y))
    (hf : f g { s with slot := y } = .ok t) : s.memory o f = .ok t := by
  unfold State.memory State.memoryWith
  rw [operands_ok h]
  simp [hf]

/-- An access that faults before it changes memory leaves the state as it was. -/
theorem memory_flt {f : Got → State → Acc State} {x : Flt} (h : s.slot.fetch o .z = .ok (g, y))
    (hf : f g { s with slot := y } = .error (x, { s with slot := y })) : s.memory o f = .error (.flt x, s) := by
  unfold State.memory State.memoryWith
  rw [operands_ok h]
  simp [hf]
  rfl

theorem memoryCmd_ok {f : Got → State → Acc State} {t : State} (h : s.slot.fetchWith o .z (s.slot.cmdCheck o.d) = .ok (g, y))
    (hf : f g { s with slot := y } = .ok t) : s.memoryWith o (s.slot.cmdCheck o.d) f = .ok t := by
  unfold State.memoryWith
  rw [operandsCmd_ok h]
  simp [hf]

theorem memoryCmd_flt {f : Got → State → Acc State} {x : Flt} (h : s.slot.fetchWith o .z (s.slot.cmdCheck o.d) = .ok (g, y))
    (hf : f g { s with slot := y } = .error (x, { s with slot := y })) :
    s.memoryWith o (s.slot.cmdCheck o.d) f = .error (.flt x, s) := by
  unfold State.memoryWith
  rw [operandsCmd_ok h]
  simp [hf]
  rfl

/-! ### Writing and retiring -/

/-- A slot with other registers and output ports. -/
def withDest (x : Slot) (p : Vector Dword 64) (v : List VEntry) (outs : Vector OutPort 8) : Slot :=
  { x with phys := p, vcache := v, outs := outs }

/-- Writing a destination changes the register or the output port that it names (R48, R151). -/
theorem writeTok_spec (x : Slot) (o : Ops) (t : Tok) :
    ∃ p vs outs, x.writeTok o t = withDest x p vs outs ∧
      (∀ n : Fin 64, x.ctl = true ∨ (∀ c, o.d = .reg c → n.val ≠ (x.wbase.toNat + c.toNat) % 64) → p[n] = x.phys[n]) ∧
      (∀ n, x.ctl = false ∨ (∀ c, o.d = .reg c → n ≠ vDst o c) → (withDest x p vs outs).vreg? n = x.vreg? n) ∧
      (∀ k : Fin 8, o.d ≠ .alt (BitVec.ofNat 3 k) → outs[k] = x.outs[k]) := by
  unfold Slot.writeTok
  split
  · rename_i c hd
    split
    · obtain ⟨p, vs, h, h1, h2, h3, h4⟩ := setReg_spec x o c t.val
      refine ⟨p, vs, x.outs, h.trans rfl, ?_, ?_, fun _ _ => rfl⟩
      · rintro n (hc | hn)
        · rw [h1 hc]
        · exact h3 n (hn c hd)
      · rintro n (hc | hn)
        · rw [h2 hc]
          rfl
        · exact h4 n (hn c hd)
    · exact ⟨_, _, _, rfl, fun _ _ => rfl, fun _ _ => rfl, fun _ _ => rfl⟩
  · rename_i k hd
    refine ⟨_, _, _, rfl, fun _ _ => rfl, fun _ _ => rfl, ?_⟩
    intro j hj
    have : k.toNat ≠ j.val := by
      intro e
      apply hj
      rw [hd, ← e]
      simp
    show (x.outs.set k.toNat _ k.isLt)[j.val] = x.outs[j.val]
    rw [Vector.getElem_set_ne _ _ this]
  · exact ⟨_, _, _, rfl, fun _ _ => rfl, fun _ _ => rfl, fun _ _ => rfl⟩

end Sys2Proof.Laws
end

