-- ==== Sys2Proof/Tests/Slice0.lean ====
section
/-! SUPPORT. Tests: what WellFormed refuses, words of the spec decoded, results of the spec's worked examples and of hand
calculation, and for every statement a state and operands that meet its hypotheses, clause by clause. -/

namespace Sys2Proof.Tests

open Sys2Proof Sys2Proof.Machine Sys2Proof.Claims

/-! ### Well-formedness: an ill-formed term for each check -/

theorem test_wf_unused_operand : Instr.wf (.nop { form := .s, d := .reg 0 }) = false := by decide
theorem test_wf_form : Instr.wf (.addi { form := .s, d := .reg 0, a := .reg 1 }) = false := by decide
theorem test_wf_f_field : Instr.wf (.cmp { form := .s, f := 6, d := .reg 0, a := .reg 1, b := .reg 2 }) = false := by decide
theorem test_wf_variant : Instr.wf (.movl { form := .w, f := 1, d := .reg 0 }) = false := by decide
theorem test_wf_dest_constant : Instr.wf (.add { form := .s, d := .con .zero, a := .reg 1, b := .reg 2 }) = false := by decide
theorem test_wf_third_source : Instr.wf (.addLong { form := .l, d := .reg 0, a := .reg 1, b := .reg 2, c := .reg 3 }) = false := by decide
theorem test_wf_type : Instr.wf (.addLong { form := .l, d := .reg 0, a := .reg 1, b := .reg 2, t := 2 }) = false := by decide
theorem test_wf_saturation : Instr.wf (.divLong { form := .l, d := .reg 0, a := .reg 1, b := .reg 2, t := 11, sat := true }) = false := by decide
theorem test_wf_rounding : Instr.wf (.faddLong { form := .l, d := .reg 0, a := .reg 1, b := .reg 2, rm := 7 }) = false := by decide
theorem test_wf_immediate_beside_b : Instr.wf (.addLong { form := .l, d := .reg 0, a := .reg 1, b := .reg 2, imm12 := 5 }) = false := by decide
theorem test_wf_shape : Instr.wf (.add { form := .s, d := .reg 0, a := .reg 1, b := .reg 2, lit := 1 }) = false := by decide
theorem test_wf_bank : Instr.wf (.wait { form := .l, x := 9 }) = false := by decide
theorem test_wf_marker : Instr.wf (.mkt { form := .s, d := .reg 0, a := .reg 0, b := .mrk .seg }) = false := by decide
theorem test_wf_accumulator_key : Instr.wf (.racc { form := .s, f := 0, d := .alt 0, a := .inp 0, b := .reg 5 }) = false := by decide
theorem test_wf_island : Instr.wf (.islandMswap 64) = false := by decide
theorem test_wf_partition : Instr.wf (.recordRead 256) = false := by decide
theorem test_wf_register : Instr.wf (.registerFill ⟨0, 0, 0, 0⟩ 256) = false := by decide
theorem test_wf_link_end : Instr.wf (.linkTokenArrival (.island 0 3)) = false := by decide
theorem test_wf_stream_end : Instr.wf (.slotFreeVisible (.stream 768 0)) = false := by decide
theorem test_wf_bridge_end : Instr.wf (.bridgeDrain (.coll 0 0 4)) = false := by decide
theorem test_wf_queue_end : Instr.wf (.linkTokenArrival (.queue 0 256)) = false := by decide
theorem test_wf_stage : Instr.wf (.elasticSample 0 256) = false := by decide
theorem test_wf_replica : Instr.wf (.replicaPark 0 0 4) = false := by decide
theorem test_wf_section : Instr.wf (.sectionCountExpiry 0 4) = false := by decide
theorem test_wf_engine : Instr.wf (.engineDrain (.stream 0 8)) = false := by decide
theorem test_wf_engine_island : Instr.wf (.engineDrain (.island 64)) = false := by decide
theorem test_wf_unit : Instr.wf (.tileDrained 0 864) = false := by decide
theorem test_wf_cache : Instr.wf (.l1Eviction (.l1 768) 0 false) = false := by decide
theorem test_wf_context : Instr.wf (.pageWalk 0 4096 0) = false := by decide
theorem test_wf_function : Instr.wf (.vfReset 1) = false := by decide
theorem test_wf_error_unit : Instr.wf (.unitError 864 []) = false := by decide
theorem test_wf_queue_read : Instr.wf (.lqresvRead 0 0 2) = false := by decide
theorem test_wf_bar_function : Instr.wf (.hostBar2Read 514 0 4) = false := by decide
theorem test_wf_register_function : Instr.wf (.registerWrite 514 0 8 0) = false := by decide
theorem test_wf_context_number : Instr.wf (.ctxfnWrite 4096 0) = false := by decide
theorem test_wf_unit_word : Instr.wf (.prtunitWrite 0 14 0) = false := by decide
theorem test_wf_window : Instr.wf (.reductionContribution 16 0 0 0 ⟨0, []⟩) = false := by decide
theorem test_wf_link : Instr.wf (.holvorLinkState 36 true true) = false := by decide
theorem test_wf_nonce : Instr.wf (.attestationQuote []) = false := by decide
theorem test_wf_temperatures : Instr.wf (.thermalTick [0] true) = false := by decide

/-! ### Words of the spec's worked examples -/

/-- Section 05: `ADDI a5, a5, -3`. -/
theorem test_decode_addi : decodeWords [0xFF451445] = some (.addi { form := .i, d := .reg 5, a := .reg 5, imm10 := -3 }, []) := by decide
/-- Section 05: `FMA.f32.rna a3, a1, a2, a4`. -/
theorem test_decode_fma : decodeWords [0x00810D0E, 0x00005084] =
    some (.fma { form := .l, d := .reg 3, a := .reg 1, b := .reg 2, c := .reg 4, t := 2, rm := 5 }, []) := by decide
/-- The window example of R167: `LOOPR a8, last, 1`, `ADD a0, i0, zero`, `ADD o0, a0, a1`, `HALT`. -/
theorem test_decode_loopr : decodeWords [0x1FC8FC32, 0x0030003F] = some (.loopr { form := .l, f := 1, a := .reg 8, imm12 := 3 }, []) := by decide
theorem test_decode_add_port : decodeWords [0x0E200040] = some (.add { form := .s, d := .reg 0, a := .inp 0, b := .con .zero }, []) := by decide
theorem test_decode_add_out : decodeWords [0x0040A040] = some (.add { form := .s, d := .alt 0, a := .reg 0, b := .reg 1 }, []) := by decide
theorem test_decode_halt : decodeWords [0x0FFFFC04] = some (.halt { form := .s }, []) := by decide
/-- Section 09: `SYSRD a3, %amax`. -/
theorem test_decode_sysrd : decodeWords [0x01FF0E01] = some (.sysrd { form := .i, d := .reg 3, imm10 := 7 }, []) := by decide
/-- Section 11: `LD a4, [a2 + 16]`, `STE [a1], a3`, `AADD.n32.sp a0, [a5 + 8], one`, `FENCE.package`, `RSTAKE.k1 a6, a2`. -/
theorem test_decode_ld : decodeWords [0x04021241] = some (.ldImm { form := .i, d := .reg 4, a := .reg 2, imm10 := 16 }, []) := by decide
theorem test_decode_ste : decodeWords [0x00C1FE50] = some (.ste { form := .s, a := .reg 1, b := .reg 3 }, []) := by decide
theorem test_decode_aadd : decodeWords [0x1E450282, 0x008003BF] =
    some (.aaddLong { form := .l, f := 1, d := .reg 0, a := .reg 5, b := .con .one, t := 14, imm12 := 8 }, []) := by decide
theorem test_decode_fence : decodeWords [0x3FFFFE7C] = some (.fence { form := .s, f := 3 }, []) := by decide
theorem test_decode_rstake : decodeWords [0x1FC21AE8] = some (.rstake { form := .s, f := 1, d := .reg 6, a := .reg 2 }, []) := by decide
/-- Section 13: `CBINC [a3], one`, `CBSNAP [v1], v3, ne`, `STO [v23], v24`. -/
theorem test_decode_cbinc : decodeWords [0x0E43FEC0] = some (.cbinc { form := .s, a := .reg 3, b := .con .one }, []) := by decide
theorem test_decode_cbsnap : decodeWords [0x00C1FEC6, 0x0100003F] =
    some (.cbsnap { form := .l, a := .reg 1, b := .reg 3, imm12 := 16 }, []) := by decide
theorem test_decode_sto : decodeWords [0x0617FE64] = some (.sto { form := .s, a := .reg 23, b := .reg 24 }, []) := by decide
/-- Section 15: `ADD v40, v41, v42`, in bank 1. -/
theorem test_decode_bank : decodeWords [0x02892042, 0x0001003F] =
    some (.addLong { form := .l, d := .reg 8, a := .reg 9, b := .reg 10, x := 1 }, []) := by decide
/-- Section 16: `PDEC.g8k4 a5, a4`, `GATH.f16.e16 fb1, fb0, a2, a3`, `NZSCAN.f16 fb0, a2, a11, a10`, `FBOPN fb1, a16`, `FBEND a6, fb2`. -/
theorem test_decode_pdec : decodeWords [0x1FC41724] = some (.pdec { form := .s, f := 1, d := .reg 5, a := .reg 4 }, []) := by decide
theorem test_decode_gath : decodeWords [0x00B0C72E, 0x004000C3] =
    some (.gath { form := .l, d := .cur 1, a := .cur 0, b := .reg 2, c := .reg 3, t := 3, imm12 := 4 }, []) := by decide
theorem test_decode_nzscan : decodeWords [0x02C2C322, 0x000000CA] =
    some (.nzscan { form := .l, d := .cur 0, a := .reg 2, b := .reg 11, c := .reg 10, t := 3 }, []) := by decide
theorem test_decode_fbopn : decodeWords [0x0FD0C700] = some (.fbopn { form := .s, d := .cur 1, a := .reg 16 }, []) := by decide
theorem test_decode_fbend : decodeWords [0x0FF21B08] = some (.fbend { form := .s, d := .reg 6, a := .cur 2 }, []) := by decide
/-- Sections 17 and 18: `DRIFT a7, a4, a5, a6`, `DRCHK a8, a7, a3`, `FWARP o1, a2`, `MVCLP a16, a15, a9, a8`, `RFMARK a24`. -/
theorem test_decode_drift : decodeWords [0x01441F5A, 0x00000006] =
    some (.drift { form := .l, d := .reg 7, a := .reg 4, b := .reg 5, c := .reg 6 }, []) := by decide
theorem test_decode_drchk : decodeWords [0x10C72358] = some (.drchk { form := .s, f := 1, d := .reg 8, a := .reg 7, b := .reg 3 }, []) := by decide
theorem test_decode_fwarp : decodeWords [0x0FC2A754] = some (.fwarp { form := .s, d := .alt 1, a := .reg 2 }, []) := by decide
theorem test_decode_mvclp : decodeWords [0x024F4352, 0x00000008] =
    some (.mvclp { form := .l, d := .reg 16, a := .reg 15, b := .reg 9, c := .reg 8 }, []) := by decide
theorem test_decode_rfmark : decodeWords [0x0FD8FF5C] = some (.rfmark { form := .s, a := .reg 24 }, []) := by decide
/-- Sections 19 and 20: `CHUCK o0, a4`, `MSWAP o0`, `MFEED.t o0, a5`, `TFEED.sat a2, a3`, `ICVT.i8.from_i64.sat a5, a5`, `TDRAW a11, a12`,
`FCVT.x8e4.from_f32.amax a17, a17`. -/
theorem test_decode_chuck : decodeWords [0x0FC4A360] = some (.chuck { form := .s, d := .alt 0, a := .reg 4 }, []) := by decide
theorem test_decode_mswap : decodeWords [0x0FFFA364] = some (.mswap { form := .s, d := .alt 0 }, []) := by decide
theorem test_decode_mfeed : decodeWords [0x1FC5A368] = some (.mfeed { form := .s, f := 1, d := .alt 0, a := .reg 5 }, []) := by decide
theorem test_decode_tfeed : decodeWords [0x00C2FF86, 0x0000803F] =
    some (.tfeedLong { form := .l, a := .reg 2, b := .reg 3, sat := true }, []) := by decide
theorem test_decode_icvt : decodeWords [0x0FC5152E, 0x00B0823F] =
    some (.icvtLong { form := .l, d := .reg 5, a := .reg 5, t := 8, sat := true, imm12 := 11 }, []) := by decide
theorem test_decode_tdraw : decodeWords [0x030BFF88] = some (.tdraw { form := .s, a := .reg 11, b := .reg 12 }, []) := by decide
theorem test_decode_fcvt : decodeWords [0x1FD1452A, 0x0020017F] =
    some (.fcvtLong { form := .l, f := 1, d := .reg 17, a := .reg 17, t := 5, imm12 := 2 }, []) := by decide
/-- Section 21: `DQPUT.p1 a8, a1`, `DQGET a4, a1`, `DQFRN.p0 a1, a5`. -/
theorem test_decode_dqput : decodeWords [0x1048FFA0] = some (.dqput { form := .s, f := 1, a := .reg 8, b := .reg 1 }, []) := by decide
theorem test_decode_dqget : decodeWords [0x0FC113A4] = some (.dqget { form := .s, d := .reg 4, a := .reg 1 }, []) := by decide
theorem test_decode_dqfrn : decodeWords [0x0141FFAC] = some (.dqfrn { form := .s, a := .reg 1, b := .reg 5 }, []) := by decide
/-- R167: the all-zero word is not NOP. -/
theorem test_decode_zero : decodeWords [0] = none := by decide

end Sys2Proof.Tests

/-! ### A small machine: one task on CT 0 of die 0, in partition 0 of context 0 -/

namespace Sys2Proof.Tests

set_option Elab.async false

open Sys2Proof Sys2Proof.Machine Sys2Proof.Claims

/-- Registers with the listed values. -/
def regs (l : List (Nat × Dword)) : Vector Dword 64 :=
  l.foldl (fun v p => if h : p.1 < 64 then v.set p.1 p.2 h else v) (Vector.replicate 64 0)

/-- The slot of the tests, in a firing. -/
def slotOf (l : List (Nat × Dword)) : Slot := { st := .firing, phys := regs l }

/-- Partition 0: compute unit 0, island 0, a running forme placed where its image says, launched from queue 0. -/
def part0 : Part :=
  let m : Vector Dword 14 := (Vector.replicate 14 0).set 0 1
  { en := true, map := m.set 12 1, cand := (Vector.replicate 4 none).set 0 (some 0), phase := .run, launch := some ⟨0, 0, 0, 0, 15, 0⟩ }

/-- Context 0: a heap of 64 KiB at 0x10000, which is MU memory at the same physical address. -/
def ctx0 : Ctx := { en := true, hbase := 1, hlim := 1, hperm := 3 }

/-- TLB entries of unit 0: a WO page at 0x20000 and a read-only MU page at 0x30000. -/
def tlb0 : List Tlbe := [⟨0, 0x20000, 16, 0x20000, .wo, true, true, 0x20035⟩, ⟨0, 0x30000, 16, 0x30000, .mu, false, false, 0x30001⟩]

/-- The machine of the tests with the registers listed. -/
def machine (l : List (Nat × Dword)) : State :=
  { slot := slotOf l, parts := [(0, part0)], ctxs := [(0, ctx0)], mem := { mtTlb := [(0, tlb0)] } }

/-- The machine with its slot changed. -/
def with' (l : List (Nat × Dword)) (f : Slot → Slot) : State := { machine l with slot := f (slotOf l) }

/-- Three register operands. -/
def abc : Ops := { form := .l, d := .reg 0, a := .reg 1, b := .reg 2, c := .reg 3 }

/-- An input port that may consume 4 tokens and holds some. -/
def inPort (q : List Tok) : InPort := { bound := true, rate := 4, queue := q }
/-- An output port that may send 4 tokens. -/
def outPort : OutPort := { bound := true, rate := 4, cap := 4, credit := 4, reserved := 4 }
/-- The slot with the same tokens at every input port. -/
def Slot.fed (x : Slot) (q : List Tok) : Slot := { x with ins := Vector.replicate 8 (inPort q), outs := Vector.replicate 8 outPort }

/-- The value of a computation that succeeds. -/
def okOf {ε α : Type} (d : α) : Except ε α → α
  | .ok a => a
  | .error _ => d

/-- The operands that the slot in focus reads, and the slot behind them. -/
def gotOf (s : State) (o : Ops) (cls : MkClass) : Got × Slot := okOf (⟨{}, {}, {}, none⟩, {}) (s.slot.fetch o cls)

/-- What register a0 holds after an instruction. -/
def a0After (i : Instr) (s : State) : Option Dword :=
  match exec i s with
  | .next t => some (t.slot.areg 0)
  | _ => none

/-- The state behind the operands, and behind the translation of the address they give. -/
def readOf (s : State) (o : Ops) : State := behind s (gotOf s o .z).2
def locOf (s : State) (o : Ops) (kind : PageKind) (r w : Bool) : State × Loc :=
  okOf (s, .mem 0) ((readOf s o).locateVa ((gotOf s o .z).1.a.val + immVal o) kind r w)

/-- The scratchpad base of the task's own unit. -/
abbrev home : Dword := 0x100000000

/-- The machine with bytes at the base of the task's scratchpad. -/
def stored (l : List (Nat × Dword)) (bs : List Byte) : State :=
  let m := machine l
  { m with mem := { m.mem with sram := writeBytes [] 0 bs } }
/-- The operands that a command reads, and the slot behind them. -/
def cmdOf (s : State) (o : Ops) : Got × Slot := okOf (⟨{}, {}, {}, none⟩, {}) (s.slot.fetchWith o .z (s.slot.cmdCheck o.d))
def cmdAt (s : State) (o : Ops) : State := behind s (cmdOf s o).2
def cmdOps : Ops := { form := .l, a := .reg 1, b := .reg 2, c := .reg 3 }
/-- The handle of a ring of one slot of one line at the base of the task's scratchpad, one consumer. -/
def ring1 : Dword := 0x10100000000

def lookOps : Ops := { form := .s, d := .reg 0, a := .reg 1 }
theorem pair_of {α β : Type} (x : α × β) (b : β) (h : x.2 = b) : x = (x.1, b) := by cases x; cases h; rfl
/-- A computation that succeeds gives its value. -/
theorem ok_of {ε α : Type} (d : α) (x : Except ε α) (h : x.isOk = true) : x = .ok (okOf d x) := by
  cases x with
  | error e => cases h
  | ok a => rfl

theorem ok_pair {ε α β : Type} (d : α × β) (x : Except ε (α × β)) (h : x.isOk = true) : x = .ok ((okOf d x).1, (okOf d x).2) := ok_of d x h
theorem ok_triple {ε α β γ : Type} (d : α × β × γ) (x : Except ε (α × β × γ)) (h : x.isOk = true) :
    x = .ok ((okOf d x).1, (okOf d x).2.1, (okOf d x).2.2) := ok_of d x h

/-- An access by the address in a1 with data in a2: scratchpad, or virtual. -/
def spOps : Ops := { form := .l, f := 1, d := .reg 0, a := .reg 1, b := .reg 2 }
def vaOps : Ops := { form := .l, d := .reg 0, a := .reg 1, b := .reg 2 }

/-- A stream of context 0 with the context address 0x10000 on engine 0. -/
def strm0 : Strm := { ctx := 0, handle := 0x10000, ring := ring1, stbase := 0x12000, codec := 1, levels := false, lag := 2, nst := 1, maxw := 64, maxh := 64,
                      engine := none, queue := [], fed := 0, consumed := 0, eosFed := false, eos := false, sat := false, err := 0, frame := 0,
                      pics := [], freed := [], reqs := [], packets := [], status := none }
def streaming (x : Strm) (l : List (Nat × Dword)) : State := { machine l with strms := [x] }
/-- The coordinates of a second slot, and one on another die. -/
def place1 : Coord := ⟨0, 0, 1, 0⟩
def place2 : Coord := ⟨1, 0, 0, 0⟩

/-! ### Results by hand calculation or from the spec's examples -/

theorem test_add_wraps : a0After (.add { form := .s, d := .reg 0, a := .reg 1, b := .reg 2 }) (machine [(1, 0xFFFFFFFFFFFFFFFF), (2, 2)]) = some 1 := by decide
theorem test_add_saturates : a0After (.addLong { form := .l, d := .reg 0, a := .reg 1, b := .reg 2, t := 8, sat := true })
    (machine [(1, 100), (2, 100)]) = some 127 := by decide
theorem test_sub_narrow : a0After (.subLong { form := .l, d := .reg 0, a := .reg 1, b := .reg 2, t := 13 })
    (machine [(1, 1), (2, 2)]) = some 0xFFFF := by decide
theorem test_mulh : a0After (.mulh { form := .s, d := .reg 0, a := .reg 1, b := .reg 2 }) (machine [(1, -1), (2, 1)]) = some (-1) := by decide
/-- R170: a divisor of 0 gives −1, the least value over −1 itself, and REM the sign of a. -/
theorem test_div_by_zero : a0After (.div { form := .s, d := .reg 0, a := .reg 1, b := .reg 2 }) (machine [(1, 7)]) = some (-1) := by decide
theorem test_div_least : a0After (.div { form := .s, d := .reg 0, a := .reg 1, b := .reg 2 })
    (machine [(1, 0x8000000000000000), (2, -1)]) = some 0x8000000000000000 := by decide
theorem test_rem_sign : a0After (.rem { form := .s, d := .reg 0, a := .reg 1, b := .reg 2 }) (machine [(1, -7), (2, 2)]) = some (-1) := by decide
/-- R171: a shift by the width or more. -/
theorem test_shl_wide : a0After (.shl { form := .s, d := .reg 0, a := .reg 1, b := .reg 2 }) (machine [(1, 1), (2, 64)]) = some 0 := by decide
theorem test_sar_wide : a0After (.sar { form := .s, d := .reg 0, a := .reg 1, b := .reg 2 }) (machine [(1, -8), (2, 100)]) = some (-1) := by decide
theorem test_rot : a0After (.rot { form := .s, d := .reg 0, a := .reg 1, b := .reg 2 }) (machine [(1, 0x8000000000000001), (2, 65)]) = some 3 := by decide
theorem test_clz_zero : a0After (.clz { form := .s, d := .reg 0, a := .reg 1 }) (machine []) = some 64 := by decide
theorem test_cmp_signed : a0After (.cmp { form := .s, f := 2, d := .reg 0, a := .reg 1, b := .reg 2 }) (machine [(1, -1), (2, 0)]) = some 1 := by decide
theorem test_movi_sign : a0After (.movi { form := .i, d := .reg 0, imm10 := -3 }) (machine []) = some (-3) := by decide
theorem test_movl_hi : a0After (.movlHi { form := .w, f := 1, d := .reg 0, lit := 5 }) (machine [(0, 9)]) = some 0x500000009 := by decide
/-- 1.5 + 2.25 = 3.75 and 2 · 3 + 1 = 7 in binary32; the square root of 2 rounded to nearest. -/
theorem test_fadd : a0After (.fadd { form := .s, d := .reg 0, a := .reg 1, b := .reg 2 }) (machine [(1, 0x3FC00000), (2, 0x40100000)]) = some 0x40700000 := by decide
theorem test_fma : a0After (.fma { form := .l, d := .reg 0, a := .reg 1, b := .reg 2, c := .reg 3 })
    (machine [(1, 0x40000000), (2, 0x40400000), (3, 0x3F800000)]) = some 0x40E00000 := by decide
theorem test_fsqrt : a0After (.fsqrt { form := .s, d := .reg 0, a := .reg 1 }) (machine [(1, 0x40000000)]) = some 0x3FB504F3 := by decide
theorem test_fmin_zero : a0After (.fmin { form := .s, d := .reg 0, a := .reg 1, b := .reg 2 }) (machine [(2, 0x80000000)]) = some 0x80000000 := by decide
theorem test_fclass_subnormal : a0After (.fclass { form := .s, d := .reg 0, a := .reg 1 }) (machine [(1, 1)]) = some 32 := by decide
/-- Section 20: ICVT.i8 with SAT clamps 300 to 127. -/
theorem test_icvt_clamps : a0After (.icvtLong { form := .l, d := .reg 0, a := .reg 1, t := 8, sat := true, imm12 := 11 }) (machine [(1, 300)]) = some 127 := by decide
/-- R292: number 12 of (8, 2) is the positions 2 and 5; the positions 0, 3, 4, 7 of (8, 4), mask 0x99, are number 42. -/
theorem test_pdec : a0After (.pdec { form := .s, f := 0, d := .reg 0, a := .reg 1 }) (machine [(1, 12)]) = some 0x24 := by decide
theorem test_penc : a0After (.penc { form := .s, f := 1, d := .reg 0, a := .reg 1 }) (machine [(1, 0x99)]) = some 42 := by decide
/-- R298: PERM of one element, and of none. -/
theorem test_perm_one : a0After (.perm { form := .l, d := .reg 0, a := .reg 1, b := .reg 2, c := .reg 3 }) (machine [(2, 1)]) = some 0 := by decide
theorem test_perm_none : a0After (.perm { form := .l, d := .reg 0, a := .reg 1, b := .reg 2, c := .reg 3 }) (machine []) = some (-1) := by decide

end Sys2Proof.Tests

/-! ### Hypotheses met: the step, decoding, arithmetic -/

namespace Sys2Proof.Tests

set_option Elab.async false

open Sys2Proof Sys2Proof.Machine Sys2Proof.Claims

/-- The machine with one PE that holds the words of ADD a0, a0, a0 and an agenda. -/
def loaded1 (ag : List Action) : State :=
  { machine [] with pes := [⟨⟨0, 0, 0, 0⟩, [0x00000040], 3⟩], agenda := ag }

theorem witness_StepRunsTheDecodedInstruction : ∃ (s : State) (pe : Coord) (rest : List Action) (pre ns : List Nat) (n : Nat) (i : Instr)
    (ws : List Word) (t : State), s.agenda = .issue pe :: rest ∧ issueOrder (s.pe pe).last = pre ++ n :: ns ∧
    (∀ k ∈ pre, (s.slotAt (peSlot pe k)).any Slot.mayIssue = false) ∧ (s.slotAt (peSlot pe n)).any Slot.mayIssue = true ∧
    decodeWords (((s.focus (peSlot pe n)).pe (s.focus (peSlot pe n)).slot.place).words.drop (s.focus (peSlot pe n)).slot.pc.toNat)
      = some (i, ws) ∧ exec i (({ s with agenda := rest } : State).readied (peSlot pe n)) = .next t ∧ t.stall = false ∧
    ((({ s with agenda := rest } : State).issuing (peSlot pe n)).slot.onZero = false) :=
  ⟨loaded1 [.issue ⟨0, 0, 0, 0⟩], ⟨0, 0, 0, 0⟩, [], [], [1, 2, 3], 0, .add { form := .s, d := .reg 0, a := .reg 0, b := .reg 0 }, [], _,
    rfl, by decide, by decide, by decide, by decide, rfl, by decide, by decide⟩

theorem witness_StepTakesTheAgendaHead : (∃ s : State, s.agenda = .event .timerSaturate :: []) ∧ (∃ s : State, s.agenda = []) ∧
    (∃ s : State, s.agenda = .elapse 0 :: [] ∧ s.timer = BitVec.allOnes 64) :=
  ⟨⟨loaded1 [.event .timerSaturate], rfl⟩, ⟨loaded1 [], rfl⟩, ⟨{ loaded1 [.elapse 0] with timer := BitVec.allOnes 64 }, rfl, rfl⟩⟩

theorem witness_NoIssueWithoutFiring : (∃ (i : Instr) (s : State), (fieldsOf i).isSome = true ∧ s.slot.st ≠ .firing) ∧
    (∃ (i : Instr) (s : State), (fieldsOf i).isSome = true ∧ s.slot.busy = true) :=
  ⟨⟨.nop { form := .s }, State.reset, by decide, by decide⟩, ⟨.nop { form := .s }, with' [] (fun x => { x with busy := true }), by decide, rfl⟩⟩

theorem witness_IdlePeChangesNothing : ∃ (s : State) (pe : Coord), ∀ k < 4, (s.slotAt (peSlot pe k)).any Slot.mayIssue = false :=
  ⟨State.reset, ⟨0, 0, 0, 0⟩, by decide⟩

theorem witness_DecodeOfEncode : ∃ i : Instr, (fieldsOf i).isSome = true ∧ i.wf = true :=
  ⟨.addLong { form := .w, d := .reg 31, a := .con .mone, lit := 0xFFFFFFFF, t := 15 }, by decide, by decide⟩

theorem witness_EncodeOfDecode : ∃ (ws rest : List Word) (i : Instr), decodeWords ws = some (i, rest) ∧ rest ≠ [] :=
  ⟨[0x00000040, 5], [5], .add { form := .s, d := .reg 0, a := .reg 0, b := .reg 0 }, by decide, by decide⟩

/-- The hypotheses shared by IntegerInstructions, ShiftAndBitInstructions (PatternInstructions and the parts after it),
RoundedFloatInstructions and ArithmeticFrame: operands that are read, with and without SAT, and a marker that passes. -/
theorem witness_fetches_p : ∃ (s : State) (o : Ops) (g : Got) (y : Slot), Fetches s o .p g y ∧ g.pass = none ∧ o.sat = true ∧ intTypeOk o.t ∧
    o.f.toNat < 3 :=
  ⟨machine [(1, 5), (2, 3)], { abc with sat := true, t := 8 }, _, _, ⟨by decide, rfl⟩, rfl, rfl, .inr (by decide), by decide⟩

theorem witness_fetches_p_wraps : ∃ (s : State) (o : Ops) (g : Got) (y : Slot), Fetches s o .p g y ∧ g.pass = none ∧ o.sat = false ∧
    intTypeOk o.t ∧ o.f.getLsbD 0 = false :=
  ⟨machine [(1, -1), (2, 127)], abc, _, _, ⟨by decide, rfl⟩, rfl, rfl, .inl rfl, by decide⟩

theorem witness_fetches_p_marker : ∃ (s : State) (o : Ops) (g : Got) (y : Slot), Fetches s o .p g y ∧ g.pass = some .seg :=
  ⟨with' [] (fun x => Slot.fed x [⟨0, .mrk .seg⟩]), { abc with d := .alt 0, a := .inp 0, b := .inp 1, c := .absent }, _, _, ⟨by decide, rfl⟩, rfl⟩

theorem witness_IntegerValuesRoundTrip : ∃ (t : Nat) (r : Int), 8 ≤ t ∧ t ≤ 15 ∧ minI t ≤ r ∧ r ≤ maxI t ∧ r = -2 ^ 63 :=
  ⟨11, -2 ^ 63, by decide, by decide, by decide, by decide, rfl⟩

theorem witness_DivisionIdentity : ∃ (t : Nat) (a b : Int), b ≠ 0 ∧ a ≤ 0 ∧ t = 11 := ⟨11, -7, 2, by decide, by decide, rfl⟩

theorem witness_MoveInstructions : ∃ (s : State) (o : Ops) (g : Got) (y : Slot), Fetches s o .p g y ∧ g.pass = none ∧
    ∃ p ∈ moveTable o g, p.1.wf = true :=
  ⟨machine [(1, 5), (2, 3)], { form := .s, f := 5, d := .reg 0, a := .reg 1, b := .reg 2 }, _, _, ⟨by decide, rfl⟩, rfl, _, .head _, by decide⟩

theorem witness_InsertInstructions : ∃ (s : State) (o : Ops) (c : BitVec 5) (g : Got) (y : Slot), InsertReads s o c g y :=
  ⟨machine [(0, 5), (1, 3)], { form := .l, d := .reg 0, a := .reg 1, imm12 := 0xFC0 }, 0, _, _, by decide, rfl, rfl, rfl, by decide, by decide⟩

theorem witness_ExactFloatInstructions : ∃ (s : State) (o : Ops) (g : Got) (y : Slot), Fetches s o .p g y ∧ g.pass = none ∧
    ∃ p ∈ exactTable o g, p.1.wf = true :=
  ⟨machine [(1, 0x7FC00000), (2, 3)], { form := .s, d := .reg 0, a := .reg 1, b := .reg 2 }, _, _, ⟨by decide, rfl⟩, rfl, _, .head _, by decide⟩

theorem witness_ConversionInstructions : ∃ o : Ops, tIsFlt (fltT o) = true ∧ o.f.getLsbD 0 = true := ⟨{ abc with f := 1, t := 3 }, by decide, by decide⟩

theorem witness_FloatCodesRoundTrip : ∃ t x : Nat, 1 ≤ t ∧ t ≤ 7 ∧ x < 2 ^ tWidth t ∧ decF t x ≠ .nan := ⟨3, 0x7BFF, by decide⟩

theorem witness_RoundToIntegerIsNear : (∃ t rm m k : Nat, 8 ≤ t ∧ t ≤ 15 ∧ 1 ≤ rm ∧ rm ≤ 6 ∧ 0 < m ∧ (m : Int) / 2 ^ k + 1 ≤ maxI t ∧
      minI t ≤ -((m : Int) / 2 ^ k + 1) ∧ m % 2 ^ k = 0) ∧
    (∃ t rm m k : Nat, 8 ≤ t ∧ t ≤ 15 ∧ rm = 1 ∧ 0 < m ∧ (m : Int) / 2 ^ k + 1 ≤ maxI t ∧ m % 2 ^ k ≠ 0 ∧ 2 * (m % 2 ^ k) < 2 ^ k) ∧
    (∃ t rm m k : Nat, 8 ≤ t ∧ t ≤ 15 ∧ rm = 1 ∧ 0 < m ∧ (m : Int) / 2 ^ k + 1 ≤ maxI t ∧ 2 ^ k < 2 * (m % 2 ^ k)) :=
  ⟨⟨8, 2, 126, 0, by decide⟩, ⟨8, 1, 505, 2, by decide⟩, ⟨12, 1, 1019, 2, by decide⟩⟩
/-- A half in each mode, of either sign. -/
theorem witness_RoundToIntegerIsNear_modes : ∀ rm ∈ [1, 3, 4, 5], ∀ neg : Bool, ∃ t m k : Nat, 8 ≤ t ∧ t ≤ 15 ∧ 1 ≤ rm ∧ rm ≤ 6 ∧ 0 < m ∧ (m : Int) / 2 ^ k + 1 ≤ maxI t ∧
    (neg = true → minI t ≤ -((m : Int) / 2 ^ k + 1)) ∧ 2 * (m % 2 ^ k) = 2 ^ k := by
  intro rm h neg
  refine ⟨8, 253, 1, by decide, by decide, ?_, ?_, by decide, by decide, fun _ => by decide, by decide⟩ <;> revert rm <;> decide

theorem witness_MarkersPassOrSkew : ∃ (s : State) (o : Ops), s.canIssue = true ∧ s.slot.reads o .p = .error (.flt { code := 0x31 }) :=
  ⟨with' [] (fun x => { Slot.fed x [⟨0, .mrk .seg⟩] with ins := (Vector.replicate 8 (inPort [⟨0, .mrk .seg⟩])).set 1 (inPort [⟨7, .elem⟩]) }),
    { abc with d := .alt 0, a := .inp 0, b := .inp 1, c := .absent }, by decide, by decide⟩

theorem witness_marker_lists : (∃ ts : List Tok, ts ≠ [] ∧ ∀ t ∈ ts, t.kind = .elem) ∧ (∃ ts : List Tok, ts ≠ [] ∧ ∀ t ∈ ts, t.kind = .mrk .row) ∧
    (∃ ts : List Tok, (∃ t ∈ ts, t.kind ≠ .elem) ∧ ∀ m, ∃ t ∈ ts, t.kind ≠ .mrk m) :=
  ⟨⟨[⟨1, .elem⟩], by decide, by decide⟩, ⟨[⟨0, .mrk .row⟩], by decide, by decide⟩, ⟨[⟨0, .mrk .row⟩, ⟨1, .elem⟩], by decide, fun m => ⟨⟨1, .elem⟩, by simp, by simp⟩⟩⟩

theorem witness_RegisterReadAfterWrite : ∃ (x : Slot) (c d : BitVec 5), x.ctl = false ∧ d ≠ c := ⟨{}, 0, 31, rfl, by decide⟩

theorem witness_OperandSources : ∃ (x : Slot) (k : BitVec 3) (t : Tok) (q : List Tok), x.ctl = false ∧ x.ins[k.toNat].queue = t :: q ∧
    x.ins[k.toNat].taken < x.ins[k.toNat].rate ∧ t.kind ≠ .mrk .drn :=
  ⟨Slot.fed {} [⟨1, .elem⟩], 7, ⟨1, .elem⟩, [], rfl, by decide, by decide, by decide⟩

theorem witness_OperandSources_immediate : ∃ (x : Slot) (o : Ops) (g : Got) (y : Slot), x.readsWith o .p .room = .ok (g, y) ∧ o.b = .absent :=
  ⟨slotOf [], { form := .i, d := .reg 0, a := .reg 1, imm10 := -1 }, _, _, rfl, rfl⟩

theorem witness_OperandSources_control : ∃ (x : Slot) (o : Ops) (c : BitVec 5), x.ctl = true ∧ o.x.getLsbD 3 = false ∧ x.vreg? (32 * (o.x.toNat % 8) + c.toNat) = some 9 :=
  ⟨{ ({} : Slot) with ctl := true, vcache := [⟨40, 9, true⟩] }, { form := .l, x := 1 }, 8, rfl, by decide, by decide⟩
theorem witness_OperandSources_low_bank : ∃ (x : Slot) (o : Ops) (c : BitVec 5), x.ctl = true ∧ o.x.getLsbD 3 = true ∧ x.vreg? c.toNat = some 9 :=
  ⟨{ ({} : Slot) with ctl := true, vcache := [⟨8, 9, true⟩] }, { form := .l, x := 9 }, 8, rfl, by decide, by decide⟩

/-- A slot that reads three tokens of its port 0. -/
def ordered : Slot := { slotOf [] with ins := Vector.replicate 8 (inPort [⟨1, .elem⟩, ⟨2, .elem⟩, ⟨3, .elem⟩]) }
theorem witness_OperandOrder : (∃ (o : Ops) (g : Got) (y : Slot), ordered.readsWith o .p .room = .ok (g, y) ∧ o.a = .inp 0 ∧ o.b = .inp 0 ∧ o.c ≠ .inp 0) ∧
    (∃ (o : Ops) (g : Got) (y : Slot), ordered.readsWith o .p .room = .ok (g, y) ∧ o.a = .inp 0 ∧ o.b ≠ .inp 0 ∧ o.c = .inp 0) ∧
    (∃ (o : Ops) (g : Got) (y : Slot), ordered.readsWith o .p .room = .ok (g, y) ∧ o.a ≠ .inp 0 ∧ o.b = .inp 0 ∧ o.c = .inp 0) ∧
    (∃ (o : Ops) (g : Got) (y : Slot), ordered.readsWith o .p .room = .ok (g, y) ∧ o.a = .inp 0 ∧ o.b = .inp 0 ∧ o.c = .inp 0) ∧
    (∃ (o : Ops) (g : Got) (y : Slot), ordered.readsWith o .p .room = .ok (g, y) ∧ o.a = .inp 0 ∧ o.b = .alt 0 ∧ o.c ≠ .inp 0) ∧
    (∃ (o : Ops) (g : Got) (y : Slot), ordered.readsWith o .p .room = .ok (g, y) ∧ o.a = .alt 0 ∧ o.b = .inp 0 ∧ o.c ≠ .inp 0) ∧
    (∃ (o : Ops) (g : Got) (y : Slot), ordered.readsWith o .p .room = .ok (g, y) ∧ o.a ≠ .inp 0 ∧ o.b ≠ .inp 0 ∧ o.c ≠ .inp 0) ∧
    ordered.ins[0].queue.length = 3 :=
  ⟨⟨{ form := .l, a := .inp 0, b := .inp 0, c := .reg 1 }, _, _, rfl, by decide, by decide, by decide⟩, ⟨{ form := .l, a := .inp 0, b := .reg 1, c := .inp 0 }, _, _, rfl, by decide, by decide, by decide⟩,
   ⟨{ form := .l, a := .reg 1, b := .inp 0, c := .inp 0 }, _, _, rfl, by decide, by decide, by decide⟩, ⟨{ form := .l, a := .inp 0, b := .inp 0, c := .inp 0 }, _, _, rfl, by decide, by decide, by decide⟩,
   ⟨{ form := .s, a := .inp 0, b := .alt 0 }, _, _, rfl, by decide, by decide, by decide⟩, ⟨{ form := .s, a := .alt 0, b := .inp 0 }, _, _, rfl, by decide, by decide, by decide⟩,
   ⟨{ form := .s, a := .reg 0, b := .inp 1 }, _, _, rfl, by decide, by decide, by decide⟩, rfl⟩
/-- R149: the operands of a subtraction of one port take its first token and its second. -/
theorem test_operand_order : (match exec (.sub { form := .s, d := .reg 0, a := .inp 0, b := .inp 0 }) { machine [] with slot := ordered } with
    | .next t => some (t.slot.areg 0)
    | _ => none) = some (-1) := by decide

/-- A value of f16 within its range that it does not hold, and one beyond it. -/
theorem witness_RoundToFloatIsNear : |fval (.fin false 4097 (-12))| ≤ fval (maxfV 3 false) ∧ (2 : Rat) ^ ((fEmax 3 : Int) - fBias 3 + 1) ≤ |fval (.fin true 1 16)| := by
  have h : maxfV 3 false = .fin false 2047 5 := by decide
  have e : (fEmax 3 : Int) - fBias 3 + 1 = 16 := by decide
  rw [h, e]
  constructor <;> norm_num [fval]

end Sys2Proof.Tests

/-! ### Hypotheses met: control instructions, streams, special registers -/

namespace Sys2Proof.Tests

set_option Elab.async false

open Sys2Proof Sys2Proof.Machine Sys2Proof.Claims

theorem witness_RetirementLoopTest : (∃ (x : Slot), ∀ l ls, x.loops = l :: ls → l.stop ≠ x.pc) ∧
    (∃ (x : Slot) (l : Loop) (ls : List Loop), x.loops = l :: ls ∧ l.stop = x.pc ∧ l.rem - 1 ≠ 0) ∧
    (∃ (x : Slot) (l : Loop) (ls : List Loop), x.loops = l :: ls ∧ l.stop = x.pc ∧ l.rem - 1 = 0) :=
  ⟨⟨{}, by simp⟩, ⟨{ loops := [⟨0, 0, 2, 1⟩] }, ⟨0, 0, 2, 1⟩, [], rfl, rfl, by decide⟩, ⟨{ loops := [⟨0, 0, 1, 1⟩] }, ⟨0, 0, 1, 1⟩, [], rfl, rfl, by decide⟩⟩

theorem witness_fetches_z : ∃ (s : State) (o : Ops) (g : Got) (y : Slot), Fetches s o .z g y ∧ s.canIssue = true ∧ (∀ w ∈ s.mem.waits, w.place ≠ s.slot.place) :=
  ⟨machine [(1, 5), (2, 3)], abc, _, _, ⟨by decide, rfl⟩, by decide, by decide⟩

theorem witness_BranchInstructions_mark : ∃ (s : State) (o : Ops) (k : BitVec 3) (m : Marker) (t : Tok) (q : List Tok), s.canIssue = true ∧
    o.a = .alt k ∧ o.b = .mrk m ∧ s.slot.ins[k.toNat].queue = t :: q :=
  ⟨with' [] (fun x => Slot.fed x [⟨0, .mrk .seg⟩]), { form := .l, a := .alt 0, b := .mrk .seg }, 0, .seg, ⟨0, .mrk .seg⟩, [], by decide, rfl, rfl, by decide⟩

theorem witness_CallAndReturn : (∃ s : State, s.canIssue = true ∧ s.slot.calls.length = 3) ∧ (∃ s : State, s.canIssue = true ∧ s.slot.calls.length = 4) ∧
    (∃ s : State, s.canIssue = true ∧ s.slot.calls = []) :=
  ⟨⟨with' [] (fun x => { x with calls := [1, 2, 3] }), by decide, rfl⟩, ⟨with' [] (fun x => { x with calls := [1, 2, 3, 4] }), by decide, rfl⟩, ⟨machine [], by decide, rfl⟩⟩

/-- R163: a taken branch leaves the loops around it, but pops none inside a called routine. -/
theorem test_branch_leaves_loops :
    (({ loops := [⟨1, 2, 3, 0⟩, ⟨1, 9, 3, 0⟩] } : Slot).jump 9).loops = [⟨1, 9, 3, 0⟩] ∧
    (({ loops := [⟨1, 2, 3, 0⟩], calls := [4] } : Slot).jump 9).loops = [⟨1, 2, 3, 0⟩] := by decide

theorem witness_LoopInstructions : ∃ (s : State) (o : Ops) (g : Got) (y : Slot), Fetches s o .z g y ∧ o.a = .absent ∧ o.lit ≠ 0 ∧ y.loops.length < 2 :=
  ⟨machine [], { form := .w, imm12 := 3, lit := 0xFFFFFFFF }, _, _, ⟨by decide, rfl⟩, rfl, by decide, by decide⟩
theorem witness_LoopInstructions_zero : ∃ (s : State) (o : Ops) (g : Got) (y : Slot), Fetches s o .z g y ∧ o.a ≠ .absent ∧ g.a.val.setWidth 32 = (0 : Word) :=
  ⟨machine [(1, 0x100000000)], { form := .l, a := .reg 1, imm12 := 3 }, _, _, ⟨by decide, rfl⟩, by decide, by decide⟩
theorem witness_LoopInstructions_deep : ∃ (s : State) (o : Ops) (g : Got) (y : Slot), Fetches s o .z g y ∧ o.a ≠ .absent ∧ g.a.val.setWidth 32 ≠ (0 : Word) ∧
    2 ≤ y.loops.length :=
  ⟨with' [(1, 4)] (fun x => { x with loops := [⟨0, 9, 1, 0⟩, ⟨0, 9, 1, 0⟩] }), { form := .l, a := .reg 1, imm12 := 3 }, _, _, ⟨by decide, rfl⟩, by decide, by decide, by decide⟩

/-- A request that waits for the task of the tests. -/
def waiter0 : Waiter :=
  { place := ⟨0, 0, 0, 0⟩, op := { form := .s, d := .reg 0, a := .reg 1 }, what := .ldw, unit := 0, addr := 0, width := 4, data := [],
    ea := 0, took := [], refused := none, done := none, err := false }

theorem witness_NopHintAndWait : (∃ (s : State) (o : Ops), s.canIssue = true ∧ o.f ≠ 2 ∧ ∃ w ∈ s.mem.waits, w.place = s.slot.place) ∧
    (∃ (s : State) (o : Ops), s.canIssue = true ∧ o.f = 0 ∧ (∀ w ∈ s.mem.waits, w.place ≠ s.slot.place) ∧ s.engineBusy s.slot = false) :=
  ⟨⟨{ machine [] with mem := { waits := [waiter0] } }, { form := .s }, by decide, by decide, waiter0, by decide, rfl⟩,
   ⟨machine [], { form := .s }, by decide, rfl, by decide, by decide⟩⟩

theorem witness_HaltEndsTheFiring : (∃ s : State, s.canIssue = true ∧ s.slot.miscount = none) ∧ (∃ (s : State) (p : Nat), s.canIssue = true ∧ s.slot.miscount = some p) :=
  ⟨⟨machine [], by decide, by decide⟩, ⟨with' [] (fun x => Slot.fed x []), 0, by decide, by decide⟩⟩

theorem witness_TrapTakesTheProgramTrap : ∃ (s : State) (o : Ops) (g : Got) (y : Slot), Fetches s o .z g y ∧ o.a = .absent :=
  ⟨machine [], { form := .i, imm10 := 511 }, _, _, ⟨by decide, rfl⟩, rfl⟩

theorem witness_FatalFaultStopsTheContext : ∃ (s : State) (f : Flt), fltClass f.code = 2 ∧ s.slot.st ≠ .noTask ∧ RingFree s s.slot.prt ∧ twf {} s.parts = true :=
  ⟨machine [], { code := 0x30 }, by decide, by decide, ⟨by decide, by decide⟩, by decide⟩

theorem witness_PeekForwardAndMarkers : ∃ (s : State) (o : Ops) (k : BitVec 3) (t : Tok), s.canIssue = true ∧ s.slot.dstCheck o.d = .room ∧ s.slot.regsHeld o = true ∧
    o.a = .alt k ∧ s.slot.peekAt k o.imm10.toNat = .got t ∧ s.slot.ins[k.toNat].queue ≠ [] :=
  ⟨with' [] (fun x => Slot.fed x [⟨7, .elem⟩]), { form := .i, d := .reg 0, a := .alt 3 }, 3, _, by decide, by decide, by decide, rfl, rfl, by decide⟩
theorem witness_PeekForwardAndMarkers_mkr : ∃ (s : State) (o : Ops) (m : Marker), s.canIssue = true ∧ s.slot.dstCheck o.d = .room ∧ s.slot.regsHeld o = true ∧
    o.a = .mrk m ∧ o.d = .alt 0 :=
  ⟨with' [] (fun x => Slot.fed x []), { form := .s, d := .alt 0, a := .mrk .ten }, .ten, by decide, by decide, by decide, rfl, rfl⟩
theorem witness_PeekForwardAndMarkers_mkt : ∃ (s : State) (o : Ops) (k : BitVec 3) (m : Marker) (t : Tok) (q : List Tok), s.canIssue = true ∧
    s.slot.dstCheck o.d = .room ∧ s.slot.regsHeld o = true ∧ o.a = .alt k ∧ o.b = .mrk m ∧ s.slot.ins[k.toNat].queue = t :: q :=
  ⟨with' [] (fun x => Slot.fed x [⟨7, .elem⟩]), { form := .s, d := .reg 0, a := .alt 0, b := .mrk .drn }, 0, .drn, ⟨7, .elem⟩, [], by decide, by decide, by decide, rfl, rfl, by decide⟩
theorem witness_PeekForwardAndMarkers_fwd : ∃ (s : State) (o : Ops) (g : Got) (y : Slot), s.canIssue = true ∧ s.slot.fetch o .o = .ok (g, y) :=
  ⟨with' [] (fun x => Slot.fed x [⟨0, .mrk .row⟩]), { form := .s, d := .alt 0, a := .inp 0 }, _, _, by decide, rfl⟩

theorem witness_DropConsumes : ∃ (s : State) (o : Ops) (k : BitVec 3), s.canIssue = true ∧ o.a = .inp k ∧ o.imm10.toNat = s.slot.ins[k.toNat].queue.length ∧
    s.slot.ins[k.toNat].taken + o.imm10.toNat = s.slot.ins[k.toNat].rate ∧ ∀ t ∈ s.slot.ins[k.toNat].queue, t.kind ≠ .mrk .drn :=
  ⟨with' [] (fun x => Slot.fed x [⟨0, .elem⟩, ⟨0, .elem⟩, ⟨0, .mrk .row⟩, ⟨0, .elem⟩]), { form := .i, a := .inp 2, imm10 := 4 }, 2, by decide, rfl, by decide, by decide, by decide⟩
theorem witness_DropConsumes_waits : ∃ (s : State) (o : Ops) (k : BitVec 3), s.canIssue = true ∧ o.a = .inp k ∧ s.slot.ins[k.toNat].queue.length < o.imm10.toNat ∧
    s.slot.ins[k.toNat].taken + s.slot.ins[k.toNat].queue.length < s.slot.ins[k.toNat].rate ∧ ∀ t ∈ s.slot.ins[k.toNat].queue, t.kind ≠ .mrk .drn :=
  ⟨with' [] (fun x => Slot.fed x [⟨0, .elem⟩]), { form := .i, a := .inp 2, imm10 := 2 }, 2, by decide, rfl, by decide, by decide, by decide⟩

theorem witness_SteerRoutes : ∃ (s : State) (o : Ops) (k : BitVec 3) (g : Got) (y : Slot), s.canIssue = true ∧ o.d = .alt k ∧
    s.slot.reads { o with d := .absent } .o = .ok (g, y) ∧ s.slot.regsHeld { o with d := .absent } = true ∧ s.slot.outCheck k = .room ∧
    falsePort o = some 1 ∧ s.slot.outCheck 1 = .room ∧ g.a.kind = .elem ∧ g.b.kind = .elem :=
  ⟨with' [] (fun x => Slot.fed x [⟨7, .elem⟩]), { form := .l, d := .alt 0, a := .inp 0, b := .inp 1, imm12 := 9 }, 0, _, _, by decide, rfl, rfl, by decide⟩
theorem witness_SteerRoutes_markers : ∃ (s : State) (o : Ops) (k : BitVec 3) (g : Got) (y : Slot), s.canIssue = true ∧ o.d = .alt k ∧
    s.slot.reads { o with d := .absent } .o = .ok (g, y) ∧ s.slot.regsHeld { o with d := .absent } = true ∧ s.slot.outCheck k = .room ∧
    falsePort o = none ∧ g.a.kind = .mrk .seg ∧ g.b.kind = .elem :=
  ⟨with' [] (fun x => Slot.fed x [⟨0, .mrk .seg⟩]), { form := .s, d := .alt 0, a := .inp 0, b := .reg 1 }, 0, _, _, by decide, rfl, rfl, by decide⟩

theorem witness_SteerRoutes_short : ∃ (s : State) (o : Ops) (k : BitVec 3) (g : Got) (y : Slot), s.canIssue = true ∧ o.d = .alt k ∧
    s.slot.reads { o with d := .absent } .o = .ok (g, y) ∧ s.slot.regsHeld { o with d := .absent } = true ∧ s.slot.outCheck k = .room ∧
    falsePort o = some k ∧ s.slot.outs[k.toNat].rate ≤ s.slot.outs[k.toNat].sent + 1 :=
  ⟨with' [] (fun x => { Slot.fed x [⟨7, .elem⟩] with outs := Vector.replicate 8 { outPort with rate := 1 } }), { form := .l, d := .alt 0, a := .inp 0, b := .inp 1, imm12 := 8 }, 0, _, _,
   by decide, rfl, rfl, by decide⟩

/-- A slot whose ports 0 and 1 hold the same tokens at rate 0, and port 2 a control token. -/
def merging (ts : List Tok) (c : Tok) : State :=
  with' [] (fun x => { x with ins := ((Vector.replicate 8 ({ bound := true, queue := ts } : InPort)).set 2 (inPort [c])), outs := Vector.replicate 8 outPort })
/-- MERGE of ports 0 and 1 by port 2. -/
def mergeOps : Ops := { form := .l, d := .alt 0, a := .inp 0, b := .inp 1, c := .inp 2 }

theorem witness_MergeSelects : ∃ (s : State) (o : Ops) (ka kb : BitVec 3) (g : Got) (y : Slot) (t : Tok) (q : List Tok), s.canIssue = true ∧ o.a = .inp ka ∧ o.b = .inp kb ∧
    s.slot.reads { o with a := .absent, b := .absent } .o = .ok (g, y) ∧ s.slot.regsHeld { o with a := .absent, b := .absent } = true ∧
    g.c.kind = .elem ∧ g.c.val ≠ 0 ∧ t.kind = .elem ∧ y.ins[ka.toNat].queue = t :: q :=
  ⟨merging [⟨9, .elem⟩] ⟨1, .elem⟩, mergeOps, 0, 1, _, _, ⟨9, .elem⟩, [], by decide, rfl, rfl, rfl, by decide, by decide, by decide, rfl, by decide⟩
theorem witness_MergeSelects_b : ∃ (s : State) (o : Ops) (ka kb : BitVec 3) (g : Got) (y : Slot) (t : Tok) (q : List Tok), s.canIssue = true ∧ o.a = .inp ka ∧ o.b = .inp kb ∧
    s.slot.reads { o with a := .absent, b := .absent } .o = .ok (g, y) ∧ g.c.kind = .elem ∧ g.c.val = 0 ∧ t.kind = .elem ∧ y.ins[kb.toNat].queue = t :: q :=
  ⟨merging [⟨9, .elem⟩] ⟨0, .elem⟩, mergeOps, 0, 1, _, _, ⟨9, .elem⟩, [], by decide, rfl, rfl, rfl, by decide, by decide, rfl, by decide⟩
theorem witness_MergeSelects_markers : ∃ (s : State) (o : Ops) (ka kb : BitVec 3) (g : Got) (y : Slot) (u v : Tok), s.canIssue = true ∧ o.a = .inp ka ∧ o.b = .inp kb ∧
    s.slot.reads { o with a := .absent, b := .absent } .o = .ok (g, y) ∧ g.c.kind = .mrk .row ∧ y.ins[ka.toNat].queue = [u] ∧ y.ins[kb.toNat].queue = [v] ∧
    u.kind = .mrk .row ∧ v.kind = .mrk .row :=
  ⟨merging [⟨0, .mrk .row⟩] ⟨0, .mrk .row⟩, mergeOps, 0, 1, _, _, ⟨0, .mrk .row⟩, ⟨0, .mrk .row⟩, by decide, rfl, rfl, rfl, by decide, by decide, by decide, rfl, rfl⟩
theorem witness_MergeSelects_skew : ∃ (s : State) (o : Ops) (ka : BitVec 3) (g : Got) (y : Slot) (t : Tok) (q : List Tok), s.canIssue = true ∧ o.a = .inp ka ∧
    s.slot.reads { o with a := .absent, b := .absent } .o = .ok (g, y) ∧ g.c.kind = .elem ∧ g.c.val ≠ 0 ∧ y.ins[ka.toNat].queue = t :: q ∧
    t.kind ≠ .elem ∧ t.kind ≠ .mrk .drn :=
  ⟨merging [⟨0, .mrk .seg⟩] ⟨1, .elem⟩, mergeOps, 0, _, _, ⟨0, .mrk .seg⟩, [], by decide, rfl, rfl, by decide⟩
theorem witness_MergeSelects_empty : ∃ (s : State) (o : Ops) (ka : BitVec 3) (g : Got) (y : Slot), s.canIssue = true ∧ o.a = .inp ka ∧
    s.slot.reads { o with a := .absent, b := .absent } .o = .ok (g, y) ∧ g.c.kind = .elem ∧ g.c.val ≠ 0 ∧ y.ins[ka.toNat].queue = [] :=
  ⟨merging [] ⟨1, .elem⟩, mergeOps, 0, _, _, by decide, rfl, rfl, by decide, by decide, by decide⟩
theorem witness_MergeSelects_skew_b : ∃ (s : State) (o : Ops) (kb : BitVec 3) (g : Got) (y : Slot) (t : Tok) (q : List Tok), s.canIssue = true ∧ o.b = .inp kb ∧
    s.slot.reads { o with a := .absent, b := .absent } .o = .ok (g, y) ∧ s.slot.regsHeld { o with a := .absent, b := .absent } = true ∧ g.c.kind = .elem ∧ g.c.val = 0 ∧
    y.ins[kb.toNat].queue = t :: q ∧ t.kind ≠ .elem ∧ t.kind ≠ .mrk .drn :=
  ⟨merging [⟨0, .mrk .seg⟩] ⟨0, .elem⟩, mergeOps, 1, _, _, ⟨0, .mrk .seg⟩, [], by decide, rfl, rfl, by decide⟩
theorem witness_MergeSelects_empty_b : ∃ (s : State) (o : Ops) (kb : BitVec 3) (g : Got) (y : Slot), s.canIssue = true ∧ o.b = .inp kb ∧
    s.slot.reads { o with a := .absent, b := .absent } .o = .ok (g, y) ∧ s.slot.regsHeld { o with a := .absent, b := .absent } = true ∧ g.c.kind = .elem ∧ g.c.val = 0 ∧
    y.ins[kb.toNat].queue = [] :=
  ⟨merging [] ⟨0, .elem⟩, mergeOps, 1, _, _, by decide, rfl, rfl, by decide⟩
/-- A MERGE whose destination port has sent its one token, with and without a token at the chosen port. -/
def mergePast (ts : List Tok) : State :=
  { merging ts ⟨1, .elem⟩ with slot := { (merging ts ⟨1, .elem⟩).slot with outs := Vector.replicate 8 { outPort with rate := 1, sent := 1 } } }
theorem witness_MergePastTheCount : ∃ (s u : State) (o : Ops) (ka kb : BitVec 3) (g gu : Got) (y yu : Slot) (p : Nat) (t : Tok) (q : List Tok),
    (s.canIssue = true ∧ o.a = .inp ka ∧ o.b = .inp kb ∧ s.slot.dstCheck o.d = .over p ∧ s.slot.readsWith { o with a := .absent, b := .absent } .o .room = .ok (g, y) ∧
      s.slot.regsHeld { o with a := .absent, b := .absent } = true ∧ g.c.kind = .elem ∧ g.c.val ≠ 0 ∧ y.ins[ka.toNat].queue = []) ∧
    (u.canIssue = true ∧ u.slot.dstCheck o.d = .over p ∧ u.slot.readsWith { o with a := .absent, b := .absent } .o .room = .ok (gu, yu) ∧
      u.slot.regsHeld { o with a := .absent, b := .absent } = true ∧ gu.c.kind = .elem ∧ gu.c.val ≠ 0 ∧ yu.ins[ka.toNat].queue = t :: q ∧ t.kind ≠ .mrk .drn) :=
  ⟨mergePast [], mergePast [⟨9, .elem⟩], mergeOps, 0, 1, _, _, _, _, 8, ⟨9, .elem⟩, [], ⟨by decide, rfl, rfl, by decide, rfl, by decide⟩, by decide, by decide, rfl, by decide⟩

theorem witness_AccumulateRegister : ∃ (s : State) (o : Ops) (c : BitVec 5) (g : Got) (y : Slot), s.canIssue = true ∧ o.b = .reg c ∧
    s.slot.reads { o with d := .absent } .o = .ok (g, y) ∧ s.slot.regsHeld o = true ∧ g.a.kind = .elem ∧ tIsFlt (accT o) = false ∧ o.sat = false :=
  ⟨with' [] (fun x => Slot.fed x [⟨7, .elem⟩]), { form := .l, f := 4, d := .alt 0, a := .inp 0, b := .reg 5, t := 8 }, 5, _, _, by decide, rfl, rfl, by decide, by decide, by decide, rfl⟩
theorem witness_AccumulateRegister_float : ∃ (s : State) (o : Ops) (c : BitVec 5) (g : Got) (y : Slot), s.canIssue = true ∧ o.b = .reg c ∧
    s.slot.reads { o with d := .absent } .o = .ok (g, y) ∧ s.slot.regsHeld o = true ∧ g.a.kind = .elem ∧ tIsFlt (accT o) = true ∧ o.f.toNat % 4 = 0 :=
  ⟨with' [] (fun x => Slot.fed x [⟨7, .elem⟩]), { form := .s, f := 4, d := .alt 0, a := .inp 0, b := .reg 5 }, 5, _, _, by decide, rfl, rfl, by decide⟩
theorem witness_AccumulateRegister_key : ∃ (s : State) (o : Ops) (c : BitVec 5) (g : Got) (y : Slot) (m : Marker), s.canIssue = true ∧ o.b = .reg c ∧
    s.slot.reads { o with d := .absent } .o = .ok (g, y) ∧ s.slot.regsHeld o = true ∧ g.a.kind = .mrk m ∧ m = accKey o ∧ s.slot.dstCheck o.d = .room :=
  ⟨with' [] (fun x => Slot.fed x [⟨0, .mrk .seg⟩]), { form := .s, f := 4, d := .alt 0, a := .inp 0, b := .reg 5 }, 5, _, _, .seg, by decide, rfl, rfl, by decide⟩
theorem witness_AccumulateRegister_skew : ∃ (s : State) (o : Ops) (c : BitVec 5) (g : Got) (y : Slot) (m : Marker), s.canIssue = true ∧ o.b = .reg c ∧
    s.slot.reads { o with d := .absent } .o = .ok (g, y) ∧ s.slot.regsHeld o = true ∧ g.a.kind = .mrk m ∧ m ≠ accKey o :=
  ⟨with' [] (fun x => Slot.fed x [⟨0, .mrk .ten⟩]), { form := .s, f := 4, d := .alt 0, a := .inp 0, b := .reg 5 }, 5, _, _, .ten, by decide, rfl, rfl, by decide, by decide, by decide⟩

theorem witness_SpecialRegistersReadBack : (∃ (s : State) (o : Ops) (g : Got) (y : Slot), Fetches s o .z g y ∧ o.imm10.toNat = 9) ∧
    (∃ (s : State) (o : Ops) (g : Got) (y : Slot), Fetches s o .z g y ∧ o.imm10.toNat ≠ 9 ∧ o.imm10.toNat ∉ [4, 5, 6, 7, 8] ∧
      (s.ctx (s.part s.slot.prt).ctx).nj < 2 ^ 48) :=
  ⟨⟨machine [(1, 7)], { form := .i, a := .reg 1, imm10 := 9 }, _, _, ⟨by decide, rfl⟩, by decide⟩,
   ⟨machine [(1, 7)], { form := .i, a := .reg 1, imm10 := 3 }, _, _, ⟨by decide, rfl⟩, by decide, by decide, by decide⟩⟩

/-- A control task's slot with one clean and one dirty register held. -/
def control : Slot := { slotOf [] with ctl := true, vcache := [⟨1, 7, false⟩, ⟨2, 9, true⟩] }
theorem witness_NopHintAndWait_hint : ∃ (s : State) (o : Ops) (c : BitVec 5), s.canIssue = true ∧ s.slot.ctl = true ∧ o.a = .reg c ∧ o.f ≠ 0 ∧ o.imm12.toNat = 1 ∧
    vSrc o c = 1 ∧ (∀ e ∈ s.slot.vcache, e.reg = 1 → e.dirty = false) ∧ s.slot.vreg? 2 = some 9 :=
  ⟨{ machine [] with slot := control }, { form := .l, f := 1, a := .reg 1, imm12 := 1 }, 1, by decide, rfl, rfl, by decide, rfl, by decide, by decide, by decide⟩
theorem witness_NopHintAndWait_fill : ∃ (s : State) (o : Ops) (c : BitVec 5), s.canIssue = true ∧ s.slot.ctl = true ∧ o.a = .reg c ∧ o.f = 0 ∧ o.imm12.toNat = 1 ∧
    s.slot.vcache.length + o.imm12.toNat ≤ 32 ∧ vSrc o c = 3 ∧ s.slot.vreg? 3 = none ∧ s.slot.vsaved.getLsbD 3 = false :=
  ⟨{ machine [] with slot := control }, { form := .l, a := .reg 3, imm12 := 1 }, 3, by decide, rfl, rfl, rfl, rfl, by decide⟩
theorem witness_NopHintAndWait_engine : ∃ (s : State) (o : Ops), s.canIssue = true ∧ o.f ≠ 1 ∧ s.engineBusy s.slot = true :=
  ⟨{ machine [] with cmds := [{ id := 0, place := ⟨0, 0, 0, 0⟩, prt := 0, unit := 0, pc := 0, port := none, block := [], kind := .pclr 0 8 }] }, { form := .s, f := 2 },
    by decide, by decide, by decide⟩

theorem witness_PeekForwardAndMarkers_beyond : ∃ (s : State) (o : Ops) (k : BitVec 3), s.canIssue = true ∧ s.slot.dstCheck o.d = .room ∧ s.slot.regsHeld o = true ∧
    o.a = .alt k ∧ s.slot.ins[k.toNat].rate - s.slot.ins[k.toNat].taken = o.imm10.toNat ∧ o.imm10.toNat = 4 :=
  ⟨with' [] (fun x => Slot.fed x [⟨7, .elem⟩]), { form := .i, d := .reg 0, a := .alt 3, imm10 := 4 }, 3, by decide, by decide, by decide, rfl, by decide, by decide⟩
theorem witness_DropConsumes_beyond : ∃ (s : State) (o : Ops) (k : BitVec 3), s.canIssue = true ∧ o.a = .inp k ∧ 0 < o.imm10.toNat ∧
    s.slot.ins[k.toNat].rate + 1 = s.slot.ins[k.toNat].taken + o.imm10.toNat ∧ s.slot.ins[k.toNat].rate - s.slot.ins[k.toNat].taken ≤ s.slot.ins[k.toNat].queue.length ∧
    ∀ t ∈ s.slot.ins[k.toNat].queue.take (s.slot.ins[k.toNat].rate - s.slot.ins[k.toNat].taken), t.kind ≠ .mrk .drn :=
  ⟨with' [] (fun x => Slot.fed x [⟨0, .elem⟩, ⟨0, .elem⟩, ⟨0, .mrk .row⟩, ⟨0, .elem⟩]), { form := .i, a := .inp 2, imm10 := 5 }, 2, by decide, rfl, by decide⟩

theorem witness_MergeSelects_one_port : ∃ (s : State) (o : Ops) (ka : BitVec 3) (g : Got) (y : Slot) (u v : Tok), s.canIssue = true ∧ o.a = .inp ka ∧ o.b = .inp ka ∧
    s.slot.reads { o with a := .absent, b := .absent } .o = .ok (g, y) ∧ s.slot.regsHeld { o with a := .absent, b := .absent } = true ∧ g.c.kind = .mrk .row ∧
    y.ins[ka.toNat].queue = [u, v] ∧ u.kind = .mrk .row ∧ v.kind = .mrk .row :=
  ⟨merging [⟨0, .mrk .row⟩, ⟨0, .mrk .row⟩] ⟨0, .mrk .row⟩, { mergeOps with b := .inp 0 }, 0, _, _, _, _, by decide, rfl, rfl, rfl, by decide, by decide, rfl, rfl, rfl⟩
theorem witness_MergeSelects_marker_skew : ∃ (s : State) (o : Ops) (ka kb : BitVec 3) (g : Got) (y : Slot) (u : Tok), s.canIssue = true ∧ o.a = .inp ka ∧ o.b = .inp kb ∧
    s.slot.reads { o with a := .absent, b := .absent } .o = .ok (g, y) ∧ g.c.kind = .mrk .row ∧ u.kind = .elem ∧ ka ≠ kb ∧ y.ins[kb.toNat].queue = [u] :=
  ⟨merging [⟨4, .elem⟩] ⟨0, .mrk .row⟩, mergeOps, 0, 1, _, _, _, by decide, rfl, rfl, rfl, by decide, by decide, by decide, rfl⟩

theorem witness_AccumulateRegister_clamped : ∃ (s : State) (o : Ops) (c : BitVec 5) (g : Got) (y : Slot), s.canIssue = true ∧ o.b = .reg c ∧
    s.slot.reads { o with d := .absent } .o = .ok (g, y) ∧ s.slot.regsHeld o = true ∧ g.a.kind = .elem ∧ tIsFlt (accT o) = false ∧ o.sat = true ∧
    maxI (accT o) < accInt (o.f.toNat % 4) (valI (accT o) g.b.val) (valI (accT o) g.a.val) :=
  ⟨with' [(5, 127)] (fun x => Slot.fed x [⟨1, .elem⟩]), { form := .l, f := 4, d := .alt 0, a := .inp 0, b := .reg 5, t := 8, sat := true }, 5, _, _, by decide, rfl, rfl, by decide, by decide,
    by decide, rfl, by decide⟩
theorem witness_AccumulateRegister_extremes : (∃ (s : State) (o : Ops) (g : Got) (y : Slot), s.canIssue = true ∧ o.b = .reg 5 ∧
      s.slot.reads { o with d := .absent } .o = .ok (g, y) ∧ s.slot.regsHeld o = true ∧ g.a.kind = .elem ∧ tIsFlt (accT o) = true ∧ o.f.toNat % 4 = 1) ∧
    (∃ (s : State) (o : Ops) (g : Got) (y : Slot), s.canIssue = true ∧ o.b = .reg 5 ∧
      s.slot.reads { o with d := .absent } .o = .ok (g, y) ∧ s.slot.regsHeld o = true ∧ g.a.kind = .elem ∧ tIsFlt (accT o) = true ∧ o.f.toNat % 4 = 2) :=
  let s := with' [] (fun x => Slot.fed x [⟨7, .elem⟩])
  ⟨⟨s, { form := .s, f := 5, d := .alt 0, a := .inp 0, b := .reg 5 }, _, _, by decide, rfl, rfl, by decide⟩,
   ⟨s, { form := .s, f := 6, d := .alt 0, a := .inp 0, b := .reg 5 }, _, _, by decide, rfl, rfl, by decide⟩⟩

theorem witness_WindowTimerAndEnergy : (∃ (s : State) (o : Ops) (g : Got) (y : Slot), Fetches s o .z g y ∧ s.slot.loops = [] ∧ s.slot.calls.length ≤ 4 ∧
      (s.ctx (s.part s.slot.prt).ctx).nj < 2 ^ 48 ∧ (s.part s.slot.prt).grant.mx < 2 ^ 5 ∧ (s.part s.slot.prt).grant.mm < 2 ^ 5 ∧ (∀ y ∈ s.slots, (s.part y.prt).grant.vc < 2 ^ 5) ∧
      (∀ y ∈ s.slots, tget 1 (s.part y.prt).divs (16 * s.slot.place.die.toNat + s.slot.place.tile.toNat / 24) < 2 ^ 3)) ∧
    (∃ (s : State) (o : Ops) (g : Got) (y : Slot) (l : Loop), Fetches s o .z g y ∧ s.slot.loops = [l]) :=
  ⟨⟨machine [], { form := .s, d := .reg 0 }, _, _, ⟨by decide, rfl⟩, rfl, by decide⟩,
   ⟨with' [] (fun x => { x with loops := [⟨0, 9, 5, 0⟩] }), { form := .s, d := .reg 0 }, _, _, _, ⟨by decide, rfl⟩, rfl⟩⟩

end Sys2Proof.Tests

/-! ### Hypotheses met: memory, atomics, copies and rings -/

namespace Sys2Proof.Tests

set_option Elab.async false

open Sys2Proof Sys2Proof.Machine Sys2Proof.Claims

/-- The error of a computation that fails. -/
def errOf {ε α : Type} (d : ε) : Except ε α → ε
  | .error e => e
  | .ok _ => d
theorem err_of {ε α : Type} (d : ε) (x : Except ε α) (h : x.isOk = false) : x = .error (errOf d x) := by
  cases x with
  | error e => rfl
  | ok a => cases h
theorem not_ok {ε α : Type} (x : Except ε α) (h : x.isOk = false) (a : α) : x ≠ .ok a := by
  intro e
  rw [e] at h
  cases h
def lineOps : Ops := { form := .s, a := .reg 1 }
/-- A poisoned line, and a granule that is present. -/
def poisoned : State := { machine [(1, 0x10000)] with mem := { badLine := [(512, true)] } }
def presented : State := { machine [(1, 0x20008)] with mem := { mtTlb := [(0, tlb0)], present := [(0x4001, true)] } }

theorem witness_ScratchpadLoadAndStore : ∃ (s : State) (o : Ops) (g : Got) (y : Slot) (u off : Nat), isSp o = true ∧ 0 < wBytes (tyOf o 11) ∧
    SpAccess s o (wBytes (tyOf o 11)) g y u off ∧ s.mem.spBad u off (wBytes (tyOf o 11)) = false ∧ twf 0 s.mem.sram = true :=
  ⟨machine [(1, home + 0xFFFF8), (2, 5)], spOps, _, _, 0, 0xFFFF8, by decide +kernel, by decide +kernel, ⟨⟨by decide +kernel, rfl⟩, by decide +kernel, by decide +kernel⟩, by decide +kernel, by decide +kernel⟩
theorem witness_ScratchpadLoadAndStore_poison : ∃ (s : State) (o : Ops) (g : Got) (y : Slot) (u off : Nat), isSp o = true ∧
    SpAccess s o (wBytes (tyOf o 11)) g y u off ∧ s.mem.spBad u off (wBytes (tyOf o 11)) = true :=
  ⟨{ machine [(1, home)] with mem := { badWord := [(0, true)] } }, spOps, _, _, 0, 0, by decide +kernel, ⟨⟨by decide +kernel, rfl⟩, by decide +kernel, by decide +kernel⟩, by decide +kernel⟩

theorem witness_VirtualLoadAndStore : ∃ (s t : State) (o : Ops) (g : Got) (y : Slot) (pa : Nat), isSp o = false ∧ 0 < wBytes (tyOf o 11) ∧
    VaAccess s o (wBytes (tyOf o 11)) .mu true false g y t pa ∧ (t.mem.l1Read t.slotUnit t.slotCtx pa (wBytes (tyOf o 11))).2.2 = false ∧
    VaAccess s o (wBytes (tyOf o 11)) .mu false true g y t pa ∧ VaAccess s o (wBytes (tyOf o 11)) .mu true true g y t pa :=
  ⟨machine [(1, 0x1FFF8)], (locOf (machine [(1, 0x1FFF8)]) vaOps .mu true false).1, vaOps, (gotOf (machine [(1, 0x1FFF8)]) vaOps .z).1, (gotOf (machine [(1, 0x1FFF8)]) vaOps .z).2, 0x1FFF8, by decide +kernel, by decide +kernel, ⟨⟨(by decide +kernel), by decide +kernel⟩, by decide +kernel, (by decide +kernel)⟩, by decide +kernel, ⟨⟨by decide +kernel, (by decide +kernel)⟩, by decide +kernel, by decide +kernel⟩, ⟨⟨(by decide +kernel), by decide +kernel⟩, by decide +kernel, (by decide +kernel)⟩⟩
theorem witness_VirtualLoadAndStore_poison : ∃ (s t : State) (o : Ops) (g : Got) (y : Slot) (pa : Nat), isSp o = false ∧
    VaAccess s o (wBytes (tyOf o 11)) .mu true false g y t pa ∧ (t.mem.l1Read t.slotUnit t.slotCtx pa (wBytes (tyOf o 11))).2.2 = true :=
  ⟨poisoned, (locOf (poisoned) vaOps .mu true false).1, vaOps, (gotOf (poisoned) vaOps .z).1, (gotOf (poisoned) vaOps .z).2, 0x10000, by decide +kernel, ⟨⟨by decide +kernel, (by decide +kernel)⟩, by decide +kernel, by decide +kernel⟩, (by decide +kernel)⟩

/-- A line of context 0 in the L1 of unit 0, its first byte dirty, and a dirty line of the L2. -/
def line0 : Line := { unit := 0, ctx := 0, line := 512, data := 5, dirty := 1, bad := 0 }
def cached : Mem := { l1 := [line0], l2 := [line0] }
theorem coherent_cached : Coherent cached := by
  refine ⟨rfl, ?_⟩
  intro l hl i hi hd
  obtain rfl : l = line0 := by simpa [cached] using hl
  interval_cases i <;> first | exact absurd hd (by decide +kernel) | decide +kernel
theorem witness_CachedStoreFrame : ∃ (m : Mem) (u ctx pa : Nat) (bs : List Byte), Coherent m ∧ pa % 128 + bs.length ≤ 128 ∧
    (∀ l, m.l1At u (pa / 128) = some l → l.ctx = ctx) ∧ pa % 128 = 120 ∧ (m.l1At u (pa / 128)).isSome = true :=
  ⟨cached, 0, 0, 65656, [1, 2, 3, 4, 5, 6, 7, 8], coherent_cached, by decide +kernel, fun l h => by cases h; rfl, by decide, by decide +kernel⟩
theorem witness_CachedLoadReads : Coherent cached ∧ (65656 % 128 + 8 ≤ 128 ∧ ∀ l, cached.l1At 0 (65656 / 128) = some l → l.ctx = 0) ∧
    cached.l1At 1 (65656 / 128) = none ∧ (∃ l, cached.l1At 0 (65656 / 128) = some l ∧ l.ctx ≠ 3) :=
  ⟨coherent_cached, ⟨by decide, fun l h => by cases h; rfl⟩, by decide +kernel, line0, by decide +kernel, by decide⟩
theorem witness_LineMovements : (∀ l, cached.l1At 0 512 = some l → l.ctx = 0) ∧ cached.l1At 0 512 = some line0 ∧ (cached.l1.filter (fun l => l.unit == 0)).length = 1 :=
  ⟨fun l h => by cases h; rfl, by decide +kernel, by decide⟩
/-- A store into a line leaves the home as it was and shows to the storing unit alone (R206). -/
theorem test_store_stays_in_its_cache : let m := cached.l1Write 0 0 65536 [9]
    seen m 0 65536 = 9 ∧ seen m 1 65536 = 5 ∧ m.homeByte 65536 = 5 := by decide +kernel
theorem witness_CachedLoadAfterStore : ∃ pa n : Nat, pa % 128 + n ≤ 128 ∧ n = 8 := ⟨120, 8, by decide +kernel, rfl⟩

theorem witness_AccessFaultOrder_misaligned : ∃ (s : State) (o : Ops) (g : Got) (y : Slot), Fetches s o .z g y ∧ wBytes (tyOf o 11) ≠ 0 ∧
    (g.a.val + immVal o).toNat % wBytes (tyOf o 11) ≠ 0 :=
  ⟨machine [(1, home + 4)], spOps, _, _, ⟨by decide +kernel, rfl⟩, by decide +kernel, by decide +kernel⟩
theorem witness_AccessFaultOrder_range : ∃ (s : State) (o : Ops) (g : Got) (y : Slot) (f : Flt), Fetches s o .z g y ∧ isSp o = true ∧
    (g.a.val + immVal o).toNat % wBytes (tyOf o 11) = 0 ∧
    spRange (behind s y) y.prt (behind s y).slotUnit (g.a.val + immVal o) (wBytes (tyOf o 11)) = .error f :=
  ⟨machine [(1, home + 0x100000)], spOps, _, _, _, ⟨by decide +kernel, rfl⟩, by decide +kernel, by decide +kernel, rfl⟩
theorem witness_AccessFaultOrder_kind : ∃ (s t : State) (o : Ops) (g : Got) (y : Slot) (tr : Tr), Fetches s o .z g y ∧ isSp o = false ∧
    (g.a.val + immVal o).toNat % wBytes (tyOf o 11) = 0 ∧ hvTarget (s.ctx s.slotCtx) (g.a.val + immVal o).toNat = none ∧
    translate (behind s y) (behind s y).slotUnit s.slotCtx (g.a.val + immVal o).toNat = .ok (t, tr) ∧ tr.kind ≠ .mu :=
  ⟨machine [(1, 0x20000)], _, vaOps, _, _, _, ⟨by decide +kernel, rfl⟩, by decide +kernel, by decide +kernel, by decide +kernel, rfl, by decide +kernel⟩
theorem witness_AccessFaultOrder_permission : ∃ (s t : State) (o : Ops) (g : Got) (y : Slot) (tr : Tr), Fetches s o .z g y ∧ isSp o = false ∧
    (g.a.val + immVal o).toNat % wBytes (tyOf o 11) = 0 ∧ hvTarget (s.ctx s.slotCtx) (g.a.val + immVal o).toNat = none ∧
    translate (behind s y) (behind s y).slotUnit s.slotCtx (g.a.val + immVal o).toNat = .ok (t, tr) ∧ tr.kind = .mu ∧ tr.r = false ∧ tr.w = false :=
  ⟨machine [(1, 0x3FFF8)], _, vaOps, _, _, _, ⟨by decide +kernel, rfl⟩, by decide +kernel, by decide +kernel, by decide +kernel, rfl, by decide +kernel⟩
/-- The machine with a page at 0x50000 that may only be written and one at 0x60000 that may only be read. -/
def halfPages (a : Dword) : State :=
  { machine [(1, a)] with mem := { mtTlb := [(0, [⟨0, 0x50000, 16, 0x50000, .mu, false, true, 0x50061⟩, ⟨0, 0x60000, 16, 0x60000, .mu, true, false, 0x60051⟩])] } }
def unmapped : State := machine [(1, 0x40000)]
def pageFind (s : State) : Except Flt (State × Tr) := translate (readOf s vaOps) (readOf s vaOps).slotUnit s.slotCtx ((gotOf s vaOps .z).1.a.val + immVal vaOps).toNat
def pageTr (s : State) : State × Tr := okOf (s, ⟨0, .mu, false, false, 0⟩) (pageFind s)
theorem witness_AccessFaultOrder_load : ∃ (s t : State) (o : Ops) (g : Got) (y : Slot) (tr : Tr), Fetches s o .z g y ∧ isSp o = false ∧
    (g.a.val + immVal o).toNat % wBytes (tyOf o 11) = 0 ∧ hvTarget (s.ctx s.slotCtx) (g.a.val + immVal o).toNat = none ∧
    translate (behind s y) (behind s y).slotUnit s.slotCtx (g.a.val + immVal o).toNat = .ok (t, tr) ∧ tr.kind = .mu ∧ tr.r = false ∧ tr.w = true :=
  let s := halfPages 0x50008
  ⟨s, (pageTr s).1, vaOps, (gotOf s vaOps .z).1, (gotOf s vaOps .z).2, (pageTr s).2, ⟨by decide +kernel, by decide +kernel⟩, by decide, by decide +kernel, by decide +kernel,
   ok_pair (s, _) _ (by decide +kernel), by decide +kernel⟩
theorem witness_AccessFaultOrder_store : ∃ (s t : State) (o : Ops) (g : Got) (y : Slot) (tr : Tr), Fetches s o .z g y ∧ isSp o = false ∧
    (g.a.val + immVal o).toNat % wBytes (tyOf o 11) = 0 ∧ hvTarget (s.ctx s.slotCtx) (g.a.val + immVal o).toNat = none ∧
    translate (behind s y) (behind s y).slotUnit s.slotCtx (g.a.val + immVal o).toNat = .ok (t, tr) ∧ tr.kind = .mu ∧ tr.r = true ∧ tr.w = false :=
  let s := halfPages 0x6FFF8
  ⟨s, (pageTr s).1, vaOps, (gotOf s vaOps .z).1, (gotOf s vaOps .z).2, (pageTr s).2, ⟨by decide +kernel, by decide +kernel⟩, by decide, by decide +kernel, by decide +kernel,
   ok_pair (s, _) _ (by decide +kernel), by decide +kernel⟩
theorem witness_AccessFaultOrder_translation : ∃ (s : State) (o : Ops) (g : Got) (y : Slot) (f : Flt), Fetches s o .z g y ∧ isSp o = false ∧
    (g.a.val + immVal o).toNat % wBytes (tyOf o 11) = 0 ∧ hvTarget (s.ctx s.slotCtx) (g.a.val + immVal o).toNat = none ∧
    translate (behind s y) (behind s y).slotUnit s.slotCtx (g.a.val + immVal o).toNat = .error f :=
  ⟨unmapped, vaOps, (gotOf unmapped vaOps .z).1, (gotOf unmapped vaOps .z).2, errOf { code := 0 } (pageFind unmapped), ⟨by decide +kernel, by decide +kernel⟩, by decide, by decide +kernel, by decide +kernel,
   err_of _ _ (by decide +kernel)⟩
theorem witness_AccessFaultOrder_beyond : ∃ (s : State) (o : Ops) (g : Got) (y : Slot), Fetches s o .z g y ∧ isSp o = false ∧
    (g.a.val + immVal o).toNat % wBytes (tyOf o 11) = 0 ∧ hvTarget (s.ctx s.slotCtx) (g.a.val + immVal o).toNat = none ∧ (g.a.val + immVal o).toNat = 2 ^ 52 :=
  ⟨machine [(1, 0x10000000000000)], vaOps, _, _, ⟨by decide +kernel, rfl⟩, by decide, by decide +kernel⟩

/-- A context whose heap ends beyond the physical space, and memory with a page-table entry at 0x1000. -/
def farHeap : State := { machine [] with ctxs := [(0, { ctx0 with hoff := 2 ^ 39 - 0x10000 })] }
def tabled (pte : Nat) : Mem := { hbm := writeBytes [] 0x1000 (natToBytes 8 pte) }
def pteOf (m : Mem) : Dword := BitVec.ofNat 64 (bytesToNat ((m.homeLook 0 (0x1000 / 128)).homeBytes 0x1000 8))
theorem witness_TranslationFaults : (∃ pa, heapTr (farHeap.ctx 0) 0x10000 = some pa ∧ 2 ^ 39 ≤ pa) ∧
    (∃ f, heapTr ((machine []).ctx 0) 0x40000 = none ∧ (∀ e ∈ tget [] (machine []).mem.mtTlb 0, e.hits 0 0x40000 = false) ∧
      (∀ e ∈ tget [] (machine []).mem.dieTlb (dieOf 0), e.hits 0 0x40000 = false) ∧ walk (machine []).mem 0 0x40000 4 ((machine []).ctx 0).root = .error f) :=
  ⟨⟨2 ^ 39, by decide +kernel⟩, ⟨errOf { code := 0 } _, by decide +kernel, by decide +kernel, by decide +kernel, err_of _ _ (by decide +kernel)⟩⟩
/-- Entries not valid, with a reserved bit, of a FAR page, of a table and of an MU page. -/
theorem witness_TranslationFaults_walk : (∀ p ∈ [0, 0x43, 0x49, 0x2001, 0x30071], ((tabled p).homeLook 0 (0x1000 / 128)).homeBad 0x1000 = false ∧ (pteOf (tabled p)).toNat = p) ∧
    (0x1000 + 8 * (0x5008 / 2 ^ (16 + 9 * 0) % 512) = 0x1000 ∧ 0x1000 + 8 * (0x5008 / 2 ^ (16 + 9 * 3) % 512) = 0x1000) ∧
    (let p : Dword := 0x30071
     p.getLsbD 0 = true ∧ p.getLsbD 6 = true ∧ p.extractLsb' 2 2 = 0 ∧ p.extractLsb' 52 8 = 0 ∧ p.extractLsb' 8 4 = 0 ∧ p.getLsbD 1 = false ∧
      (p.extractLsb' 12 40).toNat * 2 ^ 12 = 0x30000 ∧ 0x30000 % 2 ^ 16 = 0 ∧ 0x30000 + 2 ^ 16 ≤ 2 ^ 39) := by decide +kernel

theorem witness_FullEmptyInstructions_empty : ∃ (s : State) (o : Ops) (g : Got) (y : Slot) (u off : Nat), 0 < wBytes (tyOf o 14) ∧
    SpAccess s o (wBytes (tyOf o 14)) g y u off ∧ (∀ x ∈ spWords u off (wBytes (tyOf o 14)), s.mem.tag x = false) ∧
    (∃ x ∈ spWords u off (wBytes (tyOf o 14)), s.mem.tag x ≠ true) :=
  ⟨machine [(1, home + 8), (2, 5)], { spOps with f := 0, t := 15 }, _, _, 0, 8, by decide +kernel, ⟨⟨by decide +kernel, rfl⟩, by decide +kernel, by decide +kernel⟩, by decide +kernel, 2, by decide +kernel, by decide +kernel⟩
theorem witness_FullEmptyInstructions_full : ∃ (s : State) (o : Ops) (g : Got) (y : Slot) (u off : Nat), 0 < wBytes (tyOf o 14) ∧
    SpAccess s o (wBytes (tyOf o 14)) g y u off ∧ (∀ x ∈ spWords u off (wBytes (tyOf o 14)), s.mem.tag x = true) ∧
    s.mem.spBad u off (wBytes (tyOf o 14)) = false ∧ (∃ x ∈ spWords u off (wBytes (tyOf o 14)), s.mem.tag x ≠ false) ∧ SpAccess s o 4 g y u off :=
  ⟨{ machine [(1, home + 8)] with mem := { full := [(2, true)] } }, { spOps with f := 0 }, _, _, 0, 8, by decide +kernel, ⟨⟨by decide +kernel, rfl⟩, by decide +kernel, by decide +kernel⟩, by decide +kernel,
    by decide +kernel, ⟨2, by decide +kernel, by decide +kernel⟩, ⟨⟨by decide +kernel, rfl⟩, by decide +kernel, by decide +kernel⟩⟩

theorem witness_WriteOnceInstructions_absent : ∃ (s t : State) (o : Ops) (g : Got) (y : Slot) (pa : Nat), wBytes (tyOf o 15) = 8 ∧
    VaAccess s o 8 .wo true false g y t pa ∧ t.mem.isPresent (pa / 8) = false ∧ VaAccess s o 8 .wo false true g y t pa ∧ VaAccess s o 1 .wo true false g y t pa :=
  ⟨machine [(1, 0x20008), (2, 5)], (locOf (machine [(1, 0x20008), (2, 5)]) vaOps .wo true false).1, vaOps, (gotOf (machine [(1, 0x20008), (2, 5)]) vaOps .z).1, (gotOf (machine [(1, 0x20008), (2, 5)]) vaOps .z).2, 0x20008, by decide +kernel, ⟨⟨by decide +kernel, (by decide +kernel)⟩, by decide +kernel, by decide +kernel⟩, (by decide +kernel), ⟨⟨by decide +kernel, by decide +kernel⟩, (by decide +kernel), by decide +kernel⟩, ⟨⟨by decide +kernel, (by decide +kernel)⟩, by decide +kernel, by decide +kernel⟩⟩
theorem witness_WriteOnceInstructions_present : ∃ (s t : State) (o : Ops) (g : Got) (y : Slot) (pa : Nat), wBytes (tyOf o 15) = 8 ∧
    VaAccess s o 8 .wo true false g y t pa ∧ t.mem.isPresent (pa / 8) = true ∧ t.mem.homeBad pa = false ∧ VaAccess s o 8 .wo false true g y t pa :=
  ⟨presented, (locOf (presented) vaOps .wo true false).1, vaOps, (gotOf (presented) vaOps .z).1, (gotOf (presented) vaOps .z).2, 0x20008, by decide +kernel, ⟨⟨by decide +kernel, (by decide +kernel)⟩, by decide +kernel, by decide +kernel⟩, (by decide +kernel), by decide +kernel, ⟨⟨by decide +kernel, (by decide +kernel)⟩, by decide +kernel, by decide +kernel⟩⟩

theorem witness_ClearPresence : ∃ (s t : State) (o : Ops) (g : Got) (y : Slot) (rs : List (Nat × Nat)), Fetches s o .z g y ∧
    g.a.val.toNat % 8 = 0 ∧ g.b.val.toNat % 8 = 0 ∧ 8 ≤ g.b.val.toNat ∧ g.b.val.toNat ≤ 2 ^ 34 ∧
    clearRanges (behind s y) (behind s y).slotUnit (behind s y).slotCtx (pagePieces g.a.val.toNat g.b.val.toNat) = .ok (t, rs) :=
  ⟨machine [(1, 0x20008), (2, 8)], _, { form := .s, a := .reg 1, b := .reg 2 }, _, _, _, ⟨by decide +kernel, rfl⟩, by decide +kernel, by decide +kernel, by decide +kernel, by decide +kernel, rfl⟩

theorem witness_CacheInstructions : ∃ (s t : State) (o : Ops) (g : Got) (y : Slot) (pa : Nat), Fetches s o .z g y ∧
    (behind s y).locateVa (g.a.val + immVal o) .mu false false = .ok (t, .mem pa) ∧ s.canIssue = true ∧ (∀ w ∈ s.mem.waits, w.place ≠ s.slot.place) :=
  ⟨machine [(1, 0x10000)], (locOf (machine [(1, 0x10000)]) lineOps .mu false false).1, lineOps, (gotOf (machine [(1, 0x10000)]) lineOps .z).1, (gotOf (machine [(1, 0x10000)]) lineOps .z).2, 0x10000, ⟨by decide +kernel, by decide +kernel⟩, by decide +kernel⟩
theorem witness_CacheInstructions_fence : ∃ s : State, s.canIssue = true ∧ ∃ w ∈ s.mem.waits, w.place = s.slot.place :=
  ⟨{ machine [] with mem := { waits := [{ waiter0 with what := .ldp }] } },
    by decide +kernel, _, .head _, rfl⟩

theorem witness_AtomicInstructions : (∃ (s : State) (o : Ops) (g : Got) (y : Slot) (u off : Nat), 0 < wBytes (tyOf o 11) ∧ isSp o = true ∧
      SpAccess s o (wBytes (tyOf o 11)) g y u off ∧ s.mem.spBad u off (wBytes (tyOf o 11)) = false) ∧
    (∃ (s t : State) (o : Ops) (g : Got) (y : Slot) (pa : Nat), 0 < wBytes (tyOf o 2) ∧ isSp o = false ∧
      VaAccess s o (wBytes (tyOf o 2)) .mu true true g y t pa ∧ ((t.mem.l1Drop t.slotUnit (pa / 128) t.slotCtx).l2Fill t.slotCtx (pa / 128)).homeBad pa = false) :=
  ⟨⟨machine [(1, home + 8), (2, 5)], { spOps with t := 10, sat := true }, _, _, 0, 8, by decide +kernel, by decide +kernel, ⟨⟨by decide +kernel, rfl⟩, by decide +kernel, by decide +kernel⟩, by decide +kernel⟩,
   ⟨machine [(1, 0x10004), (2, 5)], (locOf (machine [(1, 0x10004), (2, 5)]) vaOps .mu true true).1, vaOps, (gotOf (machine [(1, 0x10004), (2, 5)]) vaOps .z).1, (gotOf (machine [(1, 0x10004), (2, 5)]) vaOps .z).2, 0x10004, by decide +kernel, by decide +kernel, ⟨⟨(by decide +kernel), by decide +kernel⟩, by decide +kernel, (by decide +kernel)⟩, by decide +kernel⟩⟩

theorem witness_DoubleAtomics : ∃ (s t : State) (o : Ops) (g : Got) (y : Slot) (pp pq : Nat), Fetches s o .z g y ∧ 0 < wBytes (tyOf o 11) ∧
    g.a.val.toNat % wBytes (tyOf o 11) = 0 ∧ g.b.val.toNat % wBytes (tyOf o 11) = 0 ∧ g.a.val.toNat + wBytes (tyOf o 11) ≤ g.b.val.toNat ∧
    hvTarget (s.ctx s.slotCtx) g.a.val.toNat = none ∧ hvTarget (s.ctx s.slotCtx) g.b.val.toNat = none ∧
    (behind s y).locatePair g.a.val g.b.val = .ok (t, pp, pq) ∧ s.slot.pairHeld o 4 = true ∧ s.slot.pairHeld o 2 = true ∧
    t.mem.homeBad pp = false ∧ t.mem.homeBad pq = false :=
  ⟨machine [(1, 0x10000), (2, 0x10008)], _, { form := .l, d := .reg 4, a := .reg 1, b := .reg 2, c := .reg 8 }, _, _, _, _, ⟨by decide +kernel, rfl⟩, by decide +kernel, by decide +kernel, (by decide +kernel),
    by decide +kernel, by decide +kernel, (by decide +kernel), rfl, by decide +kernel⟩

theorem witness_CounterInstructions : (∃ (s : State) (o : Ops) (g : Got) (y : Slot) (u j : Nat), Fetches s o .z g y ∧ o.sat = true ∧
      (behind s y).counterAt (g.a.val + immVal o) 1 = .ok (u, j)) ∧
    (∃ (s : State) (o : Ops) (g : Got) (y : Slot) (u j v off : Nat), Fetches s o .z g y ∧ g.a.val.toNat % 4 = 0 ∧ g.b.val.toNat % 4 = 0 ∧
      (behind s y).counterAt g.a.val o.imm12.toNat = .ok (u, j) ∧ (behind s y).locateSp g.b.val (4 * o.imm12.toNat) = .ok (v, off)) :=
  ⟨⟨machine [(1, home), (2, 5)], { form := .l, a := .reg 1, b := .reg 2, sat := true, imm12 := 1020 }, _, _, 0, 255, ⟨by decide +kernel, rfl⟩, rfl, by decide +kernel⟩,
   ⟨machine [(1, home), (2, home + 0x40)], { form := .l, a := .reg 1, b := .reg 2, imm12 := 256 }, _, _, 0, 0, 0, 0x40, ⟨by decide +kernel, rfl⟩, by decide +kernel, by decide +kernel, rfl, rfl⟩⟩

theorem witness_CopyCommand : ∃ (s t : State) (o : Ops) (g : Got) (y : Slot) (p : Option (Nat × Dword × Nat)), CommandReads s o g y ∧
    g.c.val.toNat ≤ 2 ^ 24 ∧ 0 < g.c.val.toNat ∧ ((cpyForm o).full = true → g.a.val.toNat % 4 = 0 ∧ g.c.val.toNat % 4 = 0) ∧
    cpyRanges (behind s y) (cpyForm o) g.a.val g.b.val g.c.val.toNat = .ok () ∧
    cpyPages (behind s y) (cpyForm o) g.a.val g.b.val g.c.val.toNat = .ok t ∧ cpySlot t (cpyForm o) g.a.val g.b.val g.c.val.toNat = .ok p :=
  ⟨machine [(1, home), (2, 0x10000), (3, 64)], _, { abc with f := 9, d := .absent }, _, _, none, ⟨by decide +kernel, rfl⟩, by decide +kernel, by decide +kernel, by decide +kernel, rfl, rfl, rfl⟩
theorem witness_CopyCommand_nothing : ∃ (s t : State) (o : Ops) (g : Got) (y : Slot), CommandReads s o g y ∧ g.c.val.toNat = 0 ∧ o.d = .absent ∧
    cpyRanges (behind s y) (cpyForm o) g.a.val g.b.val g.c.val.toNat = .ok () ∧
    cpyPages (behind s y) (cpyForm o) g.a.val g.b.val g.c.val.toNat = .ok t ∧ cpySlot t (cpyForm o) g.a.val g.b.val g.c.val.toNat = .ok none :=
  ⟨machine [(1, home), (2, 0x10000)], _, { abc with f := 1, d := .absent }, _, _, ⟨by decide +kernel, rfl⟩, by decide +kernel, rfl, rfl, rfl, rfl⟩
theorem witness_CopyCommand_nothing_port : ∃ (s t : State) (o : Ops) (g : Got) (y : Slot) (k : BitVec 3), CommandReads s o g y ∧ g.c.val.toNat = 0 ∧ o.d = .alt k ∧
    cpyRanges (behind s y) (cpyForm o) g.a.val g.b.val g.c.val.toNat = .ok () ∧ cpyPages (behind s y) (cpyForm o) g.a.val g.b.val g.c.val.toNat = .ok t ∧
    cpySlot t (cpyForm o) g.a.val g.b.val g.c.val.toNat = .ok none ∧ s.cmds = [] ∧ s.slot.st ≠ .noTask :=
  ⟨with' [(1, home), (2, 0x10000)] (fun x => { x with outs := Vector.replicate 8 outPort }), _, { abc with f := 1, d := .alt 7 }, _, _, 7, ⟨by decide +kernel, rfl⟩, by decide +kernel, rfl, rfl, rfl, rfl, rfl,
   by decide⟩

/-- The machine with the ring's handle in a1, its slot address in a2, and a memory tile. -/
def ringed (m : Mt) : State := { machine [(1, ring1), (2, home)] with mts := [(0, m)] }
/-- The tile once the slot is acquired, published, taken. -/
def mtAcq : Mt := ((({} : Mt).latch ring1).acquire ring1).1
def mtPub : Mt := mtAcq.publish ring1 0
def mtTook : Mt := (mtPub.takeSlot ring1 0).1

theorem witness_RingInstructions : ∃ (s : State) (o : Ops) (g : Got) (y : Slot) (u : Nat), Fetches s o .z g y ∧
    ringUnit (behind s y) y.prt (behind s y).slotUnit g.a.val = .ok u ∧ ((s.mt u).latch g.a.val).canAcquire g.a.val = true ∧
    o.f.toNat % 4 < hConsumers g.a.val ∧ (((s.mt u).latch g.a.val).ring g.a.val).takenAt (o.f.toNat % 4) = false :=
  ⟨machine [(1, ring1)], { form := .s, d := .reg 0, a := .reg 1 }, _, _, 0, ⟨by decide +kernel, rfl⟩, by decide +kernel⟩
theorem witness_RingInstructions_publish : ∃ (s : State) (o : Ops) (g : Got) (y : Slot) (u off i : Nat), Fetches s o .z g y ∧
    ringUnit (behind s y) y.prt (behind s y).slotUnit g.a.val = .ok u ∧ ((s.mt u).latch g.a.val).canAcquire g.a.val = false ∧
    spResolve (behind s y) y.prt (behind s y).slotUnit g.b.val.toNat = some (u, off) ∧ ((s.mt u).latch g.a.val).fillingAt g.a.val off = some i :=
  ⟨ringed mtAcq, { form := .s, a := .reg 1, b := .reg 2 }, _, _, 0, 0, 0, ⟨by decide +kernel, rfl⟩, by decide +kernel⟩
theorem witness_CopyCommand_nothing_slot : ∃ (s t : State) (o : Ops) (g : Got) (y : Slot) (v : Nat) (h : Dword) (i : Nat), CommandReads s o g y ∧ g.c.val.toNat = 0 ∧
    cpyRanges (behind s y) (cpyForm o) g.a.val g.b.val g.c.val.toNat = .ok () ∧ cpyPages (behind s y) (cpyForm o) g.a.val g.b.val g.c.val.toNat = .ok t ∧
    cpySlot t (cpyForm o) g.a.val g.b.val g.c.val.toNat = .ok (some (v, h, i)) ∧ s.mem.waits = [] ∧ twf {} s.mts = true ∧ twf {} (s.mt v).side = true :=
  ⟨{ machine [(1, home), (2, home)] with mts := [(0, mtAcq)] }, _, { abc with f := 7, d := .absent }, _, _, 0, ring1, 0, ⟨by decide +kernel, rfl⟩, by decide +kernel, rfl, rfl, by decide +kernel⟩
theorem witness_RingInstructions_unfilled : ∃ (s : State) (o : Ops) (g : Got) (y : Slot) (u : Nat), Fetches s o .z g y ∧
    ringUnit (behind s y) y.prt (behind s y).slotUnit g.a.val = .ok u ∧
    ∀ off, spResolve (behind s y) y.prt (behind s y).slotUnit g.b.val.toNat = some (u, off) → ((s.mt u).latch g.a.val).fillingAt g.a.val off = none := by
  refine ⟨ringed mtPub, { form := .s, a := .reg 1, b := .reg 2 }, _, _, 0, ⟨by decide +kernel, rfl⟩, by decide +kernel, ?_⟩
  intro off h
  have e : spResolve (readOf (ringed mtPub) { form := .s, a := .reg 1, b := .reg 2 }) 0 0 home.toNat = some (0, 0) := by decide +kernel
  obtain rfl : 0 = off := congrArg Prod.snd (Option.some.inj (e.symm.trans h))
  decide +kernel
theorem witness_RingInstructions_wait : ∃ (s : State) (o : Ops) (g : Got) (y : Slot) (u : Nat), Fetches s o .z g y ∧
    ringUnit (behind s y) y.prt (behind s y).slotUnit g.a.val = .ok u ∧ o.f.toNat % 4 < hConsumers g.a.val ∧
    (((s.mt u).latch g.a.val).ring g.a.val).takenAt (o.f.toNat % 4) = false ∧ ((s.mt u).latch g.a.val).canTake g.a.val (o.f.toNat % 4) = false :=
  ⟨ringed mtAcq, { form := .s, d := .reg 0, a := .reg 1 }, _, _, 0, ⟨by decide +kernel, rfl⟩, by decide +kernel⟩
theorem witness_RingInstructions_beyond : ∃ (s : State) (o : Ops) (g : Got) (y : Slot) (u : Nat), Fetches s o .z g y ∧
    ringUnit (behind s y) y.prt (behind s y).slotUnit g.a.val = .ok u ∧ hConsumers g.a.val ≤ o.f.toNat % 4 :=
  ⟨ringed mtPub, { form := .s, f := 1, d := .reg 0, a := .reg 1 }, _, _, 0, ⟨by decide +kernel, rfl⟩, by decide +kernel⟩
theorem witness_RingInstructions_take : ∃ (s : State) (o : Ops) (g : Got) (y : Slot) (u : Nat), Fetches s o .z g y ∧
    ringUnit (behind s y) y.prt (behind s y).slotUnit g.a.val = .ok u ∧ o.f.toNat % 4 < hConsumers g.a.val ∧
    (((s.mt u).latch g.a.val).ring g.a.val).takenAt (o.f.toNat % 4) = false ∧ ((s.mt u).latch g.a.val).canTake g.a.val (o.f.toNat % 4) = true :=
  ⟨ringed mtPub, { form := .s, d := .reg 0, a := .reg 1 }, _, _, 0, ⟨by decide +kernel, rfl⟩, by decide +kernel⟩
theorem witness_RingInstructions_release : ∃ (s : State) (o : Ops) (g : Got) (y : Slot) (u : Nat), Fetches s o .z g y ∧
    ringUnit (behind s y) y.prt (behind s y).slotUnit g.a.val = .ok u ∧ o.f.toNat % 4 < hConsumers g.a.val ∧
    (((s.mt u).latch g.a.val).ring g.a.val).takenAt (o.f.toNat % 4) = true :=
  ⟨ringed mtTook, { form := .s, a := .reg 1 }, _, _, 0, ⟨by decide +kernel, rfl⟩, by decide +kernel⟩

theorem witness_TagWaiters_full : ∃ (m : Mem) (x : Waiter), m.waits = [{ waiter0 with what := .ste }, x] ∧ x.what = .ldc ∧ x.refused = none ∧ x.done = none ∧
    (∀ k ∈ spWords x.unit x.addr x.width, m.tag k = true) ∧ m.spBad x.unit x.addr x.width = false :=
  ⟨{ waits := [{ waiter0 with what := .ste }, { waiter0 with what := .ldc }], full := [(0, true)] }, _, rfl, rfl, rfl, rfl, by decide, by decide⟩
theorem witness_TagWaiters_poisoned : ∃ (m : Mem) (x : Waiter), m.waits = [x] ∧ x.what = .ldw ∧ x.refused = none ∧ x.done = none ∧
    (∀ k ∈ spWords x.unit x.addr x.width, m.tag k = true) ∧ m.spBad x.unit x.addr x.width = true :=
  ⟨{ waits := [waiter0], full := [(0, true)], badWord := [(0, true)] }, _, rfl, rfl, rfl, rfl, by decide, by decide⟩
theorem witness_TagWaiters_empty : ∃ (m : Mem) (x : Waiter), m.waits = [waiter0, x] ∧ x.what = .ste ∧ x.refused = none ∧ x.done = none ∧
    (∀ k ∈ spWords x.unit x.addr x.width, m.tag k = false) :=
  ⟨{ waits := [waiter0, { waiter0 with what := .ste, data := [7] }] }, _, rfl, rfl, rfl, rfl, by decide⟩
/-- R231: a STE onto an empty word serves the LDC that waits for it, and the word is empty again. -/
theorem test_ste_serves_ldc : let m : Mem := ({ waits := [{ waiter0 with what := .ldc }] } : Mem).tagChange [0] true
    m.tag 0 = false ∧ m.waits.map (fun x => x.done) = [some [0]] := by decide +kernel

theorem witness_WriteOnceInstructions_fenced : ∃ (s t : State) (o : Ops) (g : Got) (y : Slot) (pa : Nat), wBytes (tyOf o 15) = 8 ∧
    VaAccess s o 8 .wo true false g y t pa ∧ t.mem.isPresent (pa / 8) = true ∧ t.mem.homeBad pa = false ∧ tget 0 t.mem.fenced (pa / 8) = 3 ∧
    (s.part s.slot.prt).launch = some ⟨0, 0, 0, 0, 15, 0⟩ :=
  let s : State := { presented with mem := { presented.mem with fenced := [(0x4001, 3)] } }
  ⟨s, (locOf s vaOps .wo true false).1, vaOps, (gotOf s vaOps .z).1, (gotOf s vaOps .z).2, 0x20008, by decide +kernel, ⟨⟨by decide +kernel, (by decide +kernel)⟩, by decide +kernel, by decide +kernel⟩,
   (by decide +kernel)⟩
theorem witness_WriteOnceInstructions_poison : ∃ (s t : State) (o : Ops) (g : Got) (y : Slot) (pa : Nat), wBytes (tyOf o 15) = 8 ∧
    VaAccess s o 8 .wo true false g y t pa ∧ t.mem.isPresent (pa / 8) = true ∧ t.mem.homeBad pa = true :=
  let s : State := { presented with mem := { presented.mem with badLine := [(0x400, true)] } }
  ⟨s, (locOf s vaOps .wo true false).1, vaOps, (gotOf s vaOps .z).1, (gotOf s vaOps .z).2, 0x20008, by decide +kernel, ⟨⟨by decide +kernel, (by decide +kernel)⟩, by decide +kernel, by decide +kernel⟩,
   (by decide +kernel), by decide +kernel⟩
theorem witness_WriteOnceInstructions_waiting : ∃ (s t : State) (o : Ops) (g : Got) (y : Slot) (pa : Nat) (x : Waiter), wBytes (tyOf o 15) = 8 ∧
    VaAccess s o 8 .wo false true g y t pa ∧ t.mem.isPresent (pa / 8) = false ∧ x ∈ t.mem.waits ∧ x.what = .ldp ∧ x.done = none ∧ x.refused = none ∧ x.addr / 8 = pa / 8 ∧
    t.mem.homeBad x.addr = false ∧ twf false t.mem.present = true :=
  let x : Waiter := { waiter0 with what := .ldp, place := place1, addr := 0x2000C, op := { waiter0.op with t := 14 } }
  let s : State := { machine [(1, 0x20008), (2, 5)] with mem := { mtTlb := [(0, tlb0)], waits := [x] } }
  ⟨s, (locOf s vaOps .wo false true).1, vaOps, (gotOf s vaOps .z).1, (gotOf s vaOps .z).2, 0x20008, x, by decide +kernel, ⟨⟨by decide +kernel, (by decide +kernel)⟩, by decide +kernel, by decide +kernel⟩,
   (by decide +kernel), by decide +kernel, rfl, rfl, rfl, by decide, by decide +kernel, by decide +kernel⟩

/-- A prefetch on an MU page, and one on a WO page whose granule is present: without and with F[0]. -/
theorem witness_CacheInstructions_prefetch : ∃ (s t : State) (o : Ops) (g : Got) (y : Slot) (pa : Nat), Fetches s o .z g y ∧ o.f.getLsbD 0 = false ∧ (s.mt s.slotUnit).split < 16 ∧
    (behind s y).locateVa (g.a.val + immVal o) .mu false false = .ok (t, .mem pa) :=
  ⟨machine [(1, 0x10000)], (locOf (machine [(1, 0x10000)]) lineOps .mu false false).1, lineOps, (gotOf (machine [(1, 0x10000)]) lineOps .z).1, (gotOf (machine [(1, 0x10000)]) lineOps .z).2, 0x10000,
   ⟨by decide +kernel, by decide +kernel⟩, rfl, by decide +kernel, by decide +kernel⟩
def l2Ops : Ops := { lineOps with f := 1 }
theorem witness_CacheInstructions_l2 : ∃ (s t : State) (o : Ops) (g : Got) (y : Slot) (pa : Nat), Fetches s o .z g y ∧ o.f.getLsbD 0 = true ∧
    (∀ t pa, (behind s y).locateVa (g.a.val + immVal o) .mu false false ≠ .ok (t, .mem pa)) ∧
    (behind s y).locateVa (g.a.val + immVal o) .wo false false = .ok (t, .mem pa) ∧ t.mem.isPresent (pa / 8) = true :=
  ⟨presented, (locOf presented l2Ops .wo false false).1, l2Ops, (gotOf presented l2Ops .z).1, (gotOf presented l2Ops .z).2, 0x20008, ⟨by decide +kernel, by decide +kernel⟩, rfl, fun _ _ => not_ok _ (by decide +kernel) _,
   by decide +kernel, by decide +kernel⟩
theorem witness_CacheInstructions_dropped : ∃ (s : State) (o : Ops) (g : Got) (y : Slot), Fetches s o .z g y ∧
    (∀ t pa, (behind s y).locateVa (g.a.val + immVal o) .mu false false ≠ .ok (t, .mem pa)) ∧
    (∀ t pa, (behind s y).locateVa (g.a.val + immVal o) .wo false false ≠ .ok (t, .mem pa)) :=
  ⟨unmapped, lineOps, (gotOf unmapped lineOps .z).1, (gotOf unmapped lineOps .z).2, ⟨by decide +kernel, by decide +kernel⟩, fun _ _ => not_ok _ (by decide +kernel) _, fun _ _ => not_ok _ (by decide +kernel) _⟩
theorem witness_CacheInstructions_no_l1 : ∃ (s t : State) (o : Ops) (g : Got) (y : Slot) (pa : Nat), Fetches s o .z g y ∧ o.f.getLsbD 0 = false ∧ 16 ≤ (s.mt s.slotUnit).split ∧
    (behind s y).locateVa (g.a.val + immVal o) .mu false false = .ok (t, .mem pa) :=
  let s : State := { machine [(1, 0x10000)] with mts := [(0, { ({} : Mt) with split := 16 })] }
  ⟨s, (locOf s lineOps .mu false false).1, lineOps, (gotOf s lineOps .z).1, (gotOf s lineOps .z).2, 0x10000, ⟨by decide +kernel, by decide +kernel⟩, rfl, by decide +kernel, by decide +kernel⟩

theorem witness_RingTransitions : twf {} mtTook.side = true ∧ twf {} mtTook.rings = true ∧ (mtTook.ring ring1).takenAt 0 = true ∧ hConsumers ring1 = 1 ∧
    (∃ i, (mtTook.sideOf ring1 i).st = .draining) ∧ mtTook.canAcquire ring1 = false ∧ mtPub.canTake ring1 0 = true :=
  ⟨by decide +kernel, by decide +kernel, by decide +kernel, by decide +kernel, ⟨0, by decide +kernel⟩, by decide +kernel, by decide +kernel⟩
/-- R254: one slot's way through the ring of one consumer: acquired, published, taken, released and empty again. -/
theorem test_ring_round : (mtAcq.sideOf ring1 0).st = .filling ∧ (mtPub.sideOf ring1 0).st = .full ∧ (mtTook.sideOf ring1 0).st = .draining ∧
    ((mtTook.release ring1 0).sideOf ring1 0).st = .empty := by decide +kernel
/-- A request that waits for a slot of the ring, and one that waits to take one. -/
def acquirer : Waiter := { waiter0 with what := .rsacq, data := [ring1] }
def taker : Waiter := { waiter0 with what := .rstake 0, data := [ring1], place := place1 }
theorem witness_RingWaiters : (∃ s : State, s.mem.waits = [taker, acquirer] ∧ (s.mt taker.unit).canTake ring1 0 = false ∧ (s.mt acquirer.unit).canAcquire ring1 = true ∧
      acquirer.refused = none ∧ acquirer.done = none) ∧
    (∃ s : State, s.mem.waits = [acquirer, taker] ∧ (s.mt acquirer.unit).canAcquire ring1 = false ∧ (s.mt taker.unit).canTake ring1 0 = true ∧
      ((s.mt taker.unit).ring ring1).takenAt 0 = false) :=
  ⟨⟨{ machine [] with mem := { waits := [taker, acquirer] }, mts := [(0, ({} : Mt).latch ring1)] }, rfl, by decide +kernel, by decide +kernel, rfl, rfl⟩,
   ⟨{ machine [] with mem := { waits := [acquirer, taker] }, mts := [(0, mtPub)] }, rfl, by decide +kernel⟩⟩

end Sys2Proof.Tests

/-! ### Hypotheses met: fibres, patterns, gathers, pages, warps, video -/

namespace Sys2Proof.Tests

set_option Elab.async false

open Sys2Proof Sys2Proof.Machine Sys2Proof.Claims

/-- A compressed level of one entry, at position 5 of 9, its position list at offset 32 and its values at 40. -/
def level1 : Desc := { vbase := home + 40, pbase := home + 32, n := 1, ext := 9, vt := 13, gk := 0, fmt := 1 }
/-- Its descriptor as R284 lays it out, and the level behind it. -/

def descNat : Nat := 1 + 13 * 2 ^ 16 + 9 * 2 ^ 64 + 1 * 2 ^ 96 + (home + 32).toNat * 2 ^ 128 + (home + 40).toNat * 2 ^ 192
def levelMem : List Byte := natToBytes 32 descNat ++ natToBytes 8 5 ++ natToBytes 8 77
/-- The machine with the level in its scratchpad, its descriptor's address in a1, and a cursor in f0. -/
def onLevel (c : Cursor) : State :=
  let s := stored [(1, home)] levelMem
  { s with slot := { s.slot with fbs := s.slot.fbs.set 0 c } }
/-- A level with every position from 0 to n − 1. -/
def dense (n : Nat) : Desc := { vbase := home, pbase := home, n := n, ext := n, vt := 15, gk := 0, fmt := 0 }
def fbOps : Ops := { form := .s, d := .cur 0, a := .reg 1 }
def fbaOps : Ops := { form := .s, d := .reg 0, a := .cur 0, b := .reg 2 }
/-- What a level read gives. -/
def lvlOf (s : State) (sm : Bool) (a : Dword) (n : Nat) : State × Nat := okOf (s, 0) (lvlRead sm s a n)

theorem witness_CursorInstructions_open : ∃ (s : State) (o : Ops) (g : Got) (y : Slot) (t1 t2 : State) (v p : Nat), Fetches s o .z g y ∧
    (behind s y).openable (o.f.getLsbD 3) (curReg o.d) = .ok () ∧ g.a.val.toNat % 32 = 0 ∧
    lvlRead (o.f.getLsbD 3) (behind s y) g.a.val 32 = .ok (t1, v) ∧ Desc.legal v = true ∧
    curPos (o.f.getLsbD 3) t1 (Desc.ofNat v) 0 = .ok (t2, p) ∧ p = 5 :=
  let s := onLevel .closed
  ⟨s, fbOps, (gotOf s fbOps .z).1, (gotOf s fbOps .z).2, readOf s fbOps, readOf s fbOps, descNat, 5, ⟨by decide +kernel, by decide +kernel⟩,
   (by decide +kernel), by decide +kernel, by decide +kernel, (by decide +kernel), by decide +kernel, rfl⟩
theorem witness_CursorInstructions_advance : ∃ (s : State) (o : Ops) (g : Got) (y : Slot) (d : Desc) (e p : Nat), Fetches s o .z g y ∧
    (behind s y).cursor (o.f.getLsbD 3) (curReg o.d) = .opened d e p ∧
    curPos (o.f.getLsbD 3) (behind s y) d (if e < d.entries then e + 1 else e) = .ok (behind s y, d.ext) :=
  let s := onLevel (.opened level1 0 5)
  ⟨s, fbOps, (gotOf s fbOps .z).1, (gotOf s fbOps .z).2, level1, 0, 5, ⟨by decide +kernel, by decide +kernel⟩, by decide +kernel, by decide +kernel⟩
theorem witness_CursorInstructions_value : ∃ (s : State) (o : Ops) (g : Got) (y : Slot) (d : Desc) (e p : Nat), Fetches s o .z g y ∧
    (behind s y).cursor (o.f.getLsbD 3) (curReg o.a) = .opened d e p ∧ e < d.entries ∧
    valueOf (o.f.getLsbD 3) (behind s y) d e p = .ok (behind s y, 77) :=
  let s := onLevel (.opened level1 0 5)
  ⟨s, fbaOps, (gotOf s fbaOps .z).1, (gotOf s fbaOps .z).2, level1, 0, 5, ⟨by decide +kernel, by decide +kernel⟩, by decide +kernel⟩
theorem witness_CursorInstructions_end : ∃ (s : State) (o : Ops) (g : Got) (y : Slot) (d : Desc) (e p : Nat), Fetches s o .z g y ∧
    (behind s y).cursor (o.f.getLsbD 3) (curReg o.a) = .opened d e p ∧ d.entries ≤ e :=
  let s := onLevel (.opened level1 1 9)
  ⟨s, fbaOps, (gotOf s fbaOps .z).1, (gotOf s fbaOps .z).2, level1, 1, 9, ⟨by decide +kernel, by decide +kernel⟩, by decide +kernel, by decide +kernel⟩
theorem witness_CursorInstructions_closed : ∃ (s : State) (o : Ops) (g : Got) (y : Slot), Fetches s o .z g y ∧
    (behind s y).cursor (o.f.getLsbD 3) (curReg o.a) = .closed :=
  ⟨machine [], fbaOps, _, _, ⟨by decide +kernel, rfl⟩, by decide +kernel⟩

/-- The machine with the cursors in f0 and f1 and a target in a2. -/
def onDense (c0 c1 : Cursor) : State :=
  let s := machine [(2, 7)]
  { s with slot := { s.slot with fbs := (s.slot.fbs.set 0 c0).set 1 c1 } }
theorem witness_SeekAndIntersect_seek : ∃ (s : State) (o : Ops) (g : Got) (y : Slot) (d : Desc) (e : Nat), Fetches s o .z g y ∧
    (behind s y).cursor (o.f.getLsbD 3) (curReg o.a) = .opened d e e ∧ d.fmt = 0 ∧ d.ext = d.n ∧ e ≤ d.n ∧ g.b.val.toNat = d.n :=
  ⟨onDense (.opened (dense 7) 2 2) .closed, fbaOps, _, _, dense 7, 2, ⟨by decide +kernel, rfl⟩, by decide +kernel, rfl, rfl, by decide, by decide +kernel⟩
theorem witness_SeekAndIntersect_intersect : ∃ (s : State) (o : Ops) (g : Got) (y : Slot) (da db : Desc) (ea eb : Nat), Fetches s o .z g y ∧
    (behind s y).cursor (o.f.getLsbD 3) (curReg o.a) = .opened da ea ea ∧ (behind s y).cursor (o.f.getLsbD 2) (curReg o.b) = .opened db eb eb ∧
    (o.f.getLsbD 3 ≠ o.f.getLsbD 2 ∨ curReg o.a ≠ curReg o.b) ∧ da.fmt = 0 ∧ db.fmt = 0 ∧ da.ext = da.n ∧ db.ext = db.n ∧ ea < da.n ∧
    eb < db.n ∧ max ea eb < min da.n db.n :=
  ⟨onDense (.opened (dense 7) 2 2) (.opened (dense 9) 6 6), { fbaOps with b := .cur 1 }, _, _, dense 7, dense 9, 2, 6, ⟨by decide +kernel, rfl⟩,
   by decide +kernel, by decide +kernel, .inr (by decide), rfl, rfl, rfl, rfl, by decide, by decide, by decide⟩
theorem witness_SeekAndIntersect_same : ∃ (s : State) (o : Ops) (g : Got) (y : Slot) (d : Desc) (e p : Nat), Fetches s o .z g y ∧
    (behind s y).cursor (o.f.getLsbD 3) (curReg o.a) = .opened d e p ∧ o.f.getLsbD 3 = o.f.getLsbD 2 ∧ curReg o.a = curReg o.b :=
  ⟨onDense (.opened (dense 7) 2 2) .closed, { fbaOps with b := .cur 0 }, _, _, dense 7, 2, 2, ⟨by decide +kernel, rfl⟩, by decide +kernel, rfl, rfl⟩
theorem witness_SeekAndIntersect_past : ∃ (s : State) (o : Ops) (g : Got) (y : Slot) (da db : Desc) (ea eb : Nat), Fetches s o .z g y ∧
    (behind s y).cursor (o.f.getLsbD 3) (curReg o.a) = .opened da ea ea ∧ (behind s y).cursor (o.f.getLsbD 2) (curReg o.b) = .opened db eb eb ∧
    (o.f.getLsbD 3 ≠ o.f.getLsbD 2 ∨ curReg o.a ≠ curReg o.b) ∧ da.fmt = 0 ∧ db.fmt = 0 ∧ da.ext = da.n ∧ db.ext = db.n ∧ ea ≤ da.n ∧ eb ≤ db.n ∧ min da.n db.n ≤ max ea eb :=
  ⟨onDense (.opened (dense 7) 2 2) (.opened (dense 9) 7 7), { fbaOps with b := .cur 1 }, _, _, dense 7, dense 9, 2, 7, ⟨by decide +kernel, rfl⟩, by decide +kernel⟩
/-- Two levels of coordinates (FMT 1) in scratchpad: 3 and 9, and 9 alone. -/
def coords (k n : Nat) : Desc := { dense n with fmt := 1, ext := 20, pbase := home + BitVec.ofNat 64 (4 * k) }
def onCoords (c0 c1 : Cursor) : State :=
  let s := onDense c0 c1
  { s with mem := { s.mem with sram := writeBytes [] 0 (natToBytes 8 (3 + 9 * 2 ^ 32)) } }
/-- The positions of the levels, entry by entry. -/
def coordAt (n : Nat) : Nat → Nat × Nat
  | 0 => (0, 3)
  | 1 => (1, if n = 1 then 20 else 9)
  | k => (k, 20)
theorem adv_coords (s : State) (n : Nat) (h : curPos false s (coords 0 n) 1 = .ok (s, (coordAt n 1).2)) (hn : 0 < n) : adv false (coords 0 n) s s (coordAt n 0) (coordAt n 1) := ⟨hn, rfl, h⟩
theorem witness_SeekAndIntersect_step : ∃ (s : State) (o : Ops) (g : Got) (y : Slot) (d : Desc) (z : Nat → State) (x : Nat → Nat × Nat), Fetches s o .z g y ∧
    (behind s y).cursor (o.f.getLsbD 3) (curReg o.a) = .opened d (x 0).1 (x 0).2 ∧ z 0 = behind s y ∧
    (∀ i < 1, (x i).2 < g.b.val.toNat ∧ adv (o.f.getLsbD 3) d (z i) (z (i + 1)) (x i) (x (i + 1))) ∧ g.b.val.toNat ≤ (x 1).2 := by
  let s := onCoords (.opened (coords 0 2) 0 3) .closed
  refine ⟨s, fbaOps, (gotOf s fbaOps .z).1, (gotOf s fbaOps .z).2, coords 0 2, fun _ => readOf s fbaOps, coordAt 2, ⟨by decide +kernel, by decide +kernel⟩, by decide +kernel, rfl, ?_, by decide +kernel⟩
  intro i hi
  obtain rfl : i = 0 := by omega
  exact ⟨by decide +kernel, adv_coords _ 2 (by decide +kernel) (by decide)⟩
def meetOps : Ops := { fbaOps with b := .cur 1 }
/-- Two levels that meet at 9, and two of which the first ends. -/
theorem witness_SeekAndIntersect_meet : ∀ n ∈ [1, 2], ∃ (s : State) (o : Ops) (g : Got) (y : Slot) (da db : Desc) (z : Nat → State) (x w : Nat → Nat × Nat), Fetches s o .z g y ∧
    (o.f.getLsbD 3 ≠ o.f.getLsbD 2 ∨ curReg o.a ≠ curReg o.b) ∧ (behind s y).cursor (o.f.getLsbD 3) (curReg o.a) = .opened da (x 0).1 (x 0).2 ∧
    (behind s y).cursor (o.f.getLsbD 2) (curReg o.b) = .opened db (w 0).1 (w 0).2 ∧ z 0 = behind s y ∧ (x 0).1 ≤ da.entries ∧ (w 0).1 ≤ db.entries ∧
    (∀ i < 1, (x i).1 < da.entries ∧ (w i).1 < db.entries ∧ ((x i).2 < (w i).2 ∧ w (i + 1) = w i ∧ adv (o.f.getLsbD 3) da (z i) (z (i + 1)) (x i) (x (i + 1)))) ∧
    (n = 1 → (x 1).1 = da.entries) ∧ (n = 2 → (x 1).1 ≠ da.entries ∧ (w 1).1 ≠ db.entries ∧ (x 1).2 = (w 1).2) := by
  intro n hn
  let s (n : Nat) : State := onCoords (.opened (coords 0 n) 0 3) (.opened (coords 1 1) 0 9)
  have h : ∀ n ∈ [1, 2], (s n).slot.fetch meetOps .z = .ok (gotOf (s n) meetOps .z) ∧ (s n).canIssue = true ∧ (readOf (s n) meetOps).cursor false 0 = .opened (coords 0 n) 0 3 ∧
      (readOf (s n) meetOps).cursor false 1 = .opened (coords 1 1) 0 9 ∧ curPos false (readOf (s n) meetOps) (coords 0 n) 1 = .ok (readOf (s n) meetOps, (coordAt n 1).2) ∧ 0 < n ∧
      (n = 1 → 1 = (coords 0 n).entries) ∧ (n = 2 → 1 ≠ (coords 0 n).entries ∧ (coordAt n 1).2 = 9) := by decide +kernel
  obtain ⟨hf, hc, ha, hb, hp, h0, h1, h2⟩ := h n hn
  refine ⟨s n, meetOps, _, _, coords 0 n, coords 1 1, fun _ => readOf (s n) meetOps, coordAt n, fun _ => (0, 9), ⟨hc, hf⟩, .inr (by decide), ha, hb, rfl, Nat.zero_le _, Nat.zero_le _, ?_, h1,
    fun e => ⟨(h2 e).1, by decide, (h2 e).2⟩⟩
  intro i hi
  obtain rfl : i = 0 := by omega
  exact ⟨h0, by decide, show 3 < 9 by decide, rfl, adv_coords _ n hp h0⟩

theorem witness_NonzeroScan : ∃ (s : State) (o : Ops) (g : Got) (y : Slot), Fetches s o .z g y ∧
    (behind s y).openable false (curReg o.d) = .ok () ∧ g.a.val.toNat % wBytes (tyOf o 2) = 0 ∧ g.c.val.toNat % 4 = 0 ∧ 1 ≤ g.b.val.toNat ∧
    g.b.val.toNat ≤ 65536 ∧ spRange (behind s y) y.prt (behind s y).slotUnit g.a.val (wBytes (tyOf o 2) * g.b.val.toNat) = .ok (0, 0) ∧
    spRange (behind s y) y.prt (behind s y).slotUnit g.c.val 4 = .ok (0, 64) ∧ s.mem.spBad 0 0 (wBytes (tyOf o 2) * g.b.val.toNat) = false :=
  let s := stored [(1, home), (2, 3), (3, home + 64)] (natToBytes 12 (2 ^ 32))
  let o : Ops := { form := .l, d := .cur 0, a := .reg 1, b := .reg 2, c := .reg 3 }
  ⟨s, o, (gotOf s o .z).1, (gotOf s o .z).2, ⟨by decide +kernel, by decide +kernel⟩, by decide +kernel⟩

theorem witness_PatternNumbers_number : ∃ (s t : State) (o : Ops) (g h : Got) (y z : Slot), Fetches s o .p g y ∧ g.pass = none ∧ o.f.toNat < 3 ∧
    g.a.val.toNat + 1 = patterns o.f.toNat ∧ Fetches t o .p h z ∧ h.pass = none ∧ h.a.val.toNat = patterns o.f.toNat :=
  ⟨machine [(1, 27)], machine [(1, 28)], { form := .s, d := .reg 0, a := .reg 1 }, _, _, _, _, ⟨by decide +kernel, rfl⟩, rfl, by decide, by decide +kernel,
   ⟨by decide +kernel, rfl⟩, rfl, by decide +kernel⟩
theorem witness_PatternNumbers_mask : ∃ (s t : State) (o : Ops) (g h : Got) (y z : Slot), Fetches s o .p g y ∧ g.pass = none ∧ o.f.toNat < 3 ∧
    g.a.val.toNat < 2 ^ (gkOf o.f.toNat).1 ∧ maskCount (gkOf o.f.toNat).1 g.a.val.toNat = (gkOf o.f.toNat).2 ∧
    Fetches t o .p h z ∧ h.pass = none ∧ maskCount (gkOf o.f.toNat).1 h.a.val.toNat ≠ (gkOf o.f.toNat).2 :=
  ⟨machine [(1, 0xC0)], machine [(1, 0xC1)], { form := .s, d := .reg 0, a := .reg 1 }, _, _, _, _, ⟨by decide +kernel, rfl⟩, rfl, by decide, by decide +kernel, by decide +kernel,
   ⟨by decide +kernel, rfl⟩, rfl, by decide +kernel⟩
theorem witness_PatternsInverse : 2 < 3 ∧ 1819 < patterns 2 ∧ 0xF000 < 2 ^ (gkOf 2).1 ∧ maskCount (gkOf 2).1 0xF000 = (gkOf 2).2 := by decide +kernel
theorem witness_PermInstruction : ∃ (s : State) (o : Ops) (g : Got) (y : Slot), Fetches s o .z g y ∧ g.b.val.toNat ≤ g.a.val.toNat :=
  ⟨machine [(1, 3), (2, 3)], abc, _, _, ⟨by decide +kernel, rfl⟩, by decide +kernel⟩
theorem witness_PermIsAPermutation : ∃ n i j : Nat, 0 < n ∧ n ≤ 2 ^ 40 ∧ i < n ∧ j < n ∧ permVal i n 0 0 = permVal j n 0 0 := ⟨2 ^ 40, 0, 0, by decide, by decide, by decide, by decide, rfl⟩

def gathOps : Ops := { form := .l, a := .cur 0, b := .reg 2, c := .reg 3 }
/-- The machine with a level in f0, an array at 0x10000 and a packed area at offset 64. -/
def gathering (d : Desc) : State :=
  let s := machine [(2, 0x10000), (3, home + 64)]
  { s with slot := { s.slot with fbs := s.slot.fbs.set 0 (.opened d 0 0) } }
theorem witness_GatherCommands : ∃ (s t1 t2 : State) (o : Ops) (g : Got) (y : Slot) (d : Desc) (e p : Nat) (xs : List Nat), Fetches s o .z g y ∧
    (behind s y).cursor (o.f.getLsbD 3) (curReg o.a) = .opened d e p ∧ o.d = .absent ∧ g.c.val.toNat % 2 ^ (o.imm12.toNat % 8) = 0 ∧
    0 < d.entries ∧ d.entries ≤ 2 ^ 20 ∧ gatherAreas (behind s y) o g.c.val (2 ^ (o.imm12.toNat % 8)) d.entries = .ok () ∧
    positions (o.f.getLsbD 3) d d.entries (behind s y) 0 = .ok (t1, xs) ∧
    elemPages t1.slotUnit t1.slotCtx (2 ^ (o.imm12.toNat % 8)) g.b.val t1 xs = .ok t2 :=
  let s := gathering (dense 2)
  ⟨s, readOf s gathOps, okOf s (elemPages 0 0 1 0x10000 (readOf s gathOps) [0, 1]), gathOps, (gotOf s gathOps .z).1, (gotOf s gathOps .z).2, dense 2, 0, 0, [0, 1], ⟨by decide +kernel, by decide +kernel⟩,
   by decide +kernel, rfl, by decide +kernel, by decide, by decide, by decide +kernel⟩
theorem witness_GatherCommands_status : ∃ (s t1 t2 : State) (o : Ops) (g : Got) (y : Slot) (d : Desc) (e p : Nat) (xs : List Nat), Fetches s o .z g y ∧
    (behind s y).cursor (o.f.getLsbD 3) (curReg o.a) = .opened d e p ∧ o.d ≠ .absent ∧ (behind s y).openable false (curReg o.d) = .ok () ∧
    g.c.val.toNat % 2 ^ (o.imm12.toNat % 8) = 0 ∧
    0 < d.entries ∧ gatherAreas (behind s y) o g.c.val (2 ^ (o.imm12.toNat % 8)) d.entries = .ok () ∧
    positions (o.f.getLsbD 3) d d.entries (behind s y) 0 = .ok (t1, xs) ∧
    elemPages t1.slotUnit t1.slotCtx (2 ^ (o.imm12.toNat % 8)) g.b.val t1 xs = .ok t2 :=
  let s := gathering (dense 2)
  let o : Ops := { gathOps with d := .cur 1, f := 1 }
  ⟨s, readOf s o, okOf s (elemPages 0 0 1 0x10000 (readOf s o) [0, 1]), o, (gotOf s o .z).1, (gotOf s o .z).2, dense 2, 0, 0, [0, 1], ⟨by decide +kernel, by decide +kernel⟩,
   by decide +kernel, by decide, by decide +kernel, by decide +kernel, by decide, by decide +kernel⟩
/-- An element at a misaligned address, and one on a read-only page of a scatter. -/
theorem witness_GatherCommands_marks : (∃ (b : Dword) (x sz : Nat), sz = 8 ∧ (b + BitVec.ofNat 64 (sz * x)).toNat % min sz 8 ≠ 0) ∧
    (∃ (u t3 : State) (ts : List (Nat × Tr)) (a : Dword), a.toNat % min 8 8 = 0 ∧ translateAll u u.slotUnit u.slotCtx (pagesOf a.toNat 8) = .ok (t3, ts) ∧
      ∃ z ∈ ts, z.2.w = false ∧ z.2.kind = .mu) ∧
    (∃ (u t3 : State) (ts : List (Nat × Tr)) (a : Dword), a.toNat % min 4 8 = 0 ∧ translateAll u u.slotUnit u.slotCtx (pagesOf a.toNat 4) = .ok (t3, ts) ∧
      ∃ z ∈ ts, z.2.w = true ∧ z.2.kind = .wo) :=
  let x (a n : Nat) : State × List (Nat × Tr) := okOf (machine [], []) (translateAll (machine []) 0 0 (pagesOf a n))
  ⟨⟨0x10004, 1, 8, rfl, by decide⟩, ⟨machine [], (x 0x30008 8).1, (x 0x30008 8).2, 0x30008, by decide, by decide +kernel, _, .head _, by decide +kernel, by decide +kernel⟩,
   ⟨machine [], (x 0x20004 4).1, (x 0x20004 4).2, 0x20004, by decide, by decide +kernel, _, .head _, by decide +kernel, by decide +kernel⟩⟩
theorem witness_GatherCommands_nothing : ∃ (s : State) (o : Ops) (g : Got) (y : Slot) (d : Desc) (e p : Nat), Fetches s o .z g y ∧
    (behind s y).cursor (o.f.getLsbD 3) (curReg o.a) = .opened d e p ∧ o.d = .absent ∧ g.c.val.toNat % 2 ^ (o.imm12.toNat % 8) = 0 ∧ d.entries = 0 :=
  ⟨gathering (dense 0), gathOps, _, _, dense 0, 0, 0, ⟨by decide +kernel, rfl⟩, by decide +kernel, rfl, by decide +kernel, rfl⟩

/-- A page header of dimension 96 at 0x10000. -/
def paged : State :=
  let s := machine [(1, 0x10000), (2, 0x14000), (3, 0x14100)]
  { s with mem := { s.mem with hbm := writeBytes [] 0x10003 [96] } }
theorem witness_PageAndWarpCommands_kvapp : ∃ (s t1 t2 : State) (o : Ops) (g : Got) (y : Slot) (r : State × List Byte), CommandReads s o g y ∧ g.a.val.toNat % 2 ^ 14 = 0 ∧
    kvPages (behind s y) [(g.a.val.toNat, 2 ^ 14)] true = .ok t1 ∧ engReadOk t1 t1.slotUnit t1.slotCtx g.a.val.toNat 64 = .ok r ∧ bytesToNat r.2 / 2 ^ 24 % 2 ^ 8 = 96 ∧
    kvPages t1 [(g.b.val.toNat, 192), (g.c.val.toNat, 192)] false = .ok t2 :=
  let s := paged
  let t := okOf s (kvPages (cmdAt s cmdOps) [(0x10000, 2 ^ 14)] true)
  ⟨s, t, okOf s (kvPages t [(0x14000, 192), (0x14100, 192)] false), cmdOps, (cmdOf s cmdOps).1, (cmdOf s cmdOps).2, okOf (s, []) (engReadOk t t.slotUnit t.slotCtx 0x10000 64),
   ⟨by decide +kernel, by decide +kernel⟩, by decide +kernel⟩
theorem witness_PageAndWarpCommands_kvld : ∃ (s t1 : State) (o : Ops) (g : Got) (y : Slot), CommandReads s o g y ∧ g.a.val.toNat % 2 ^ 14 = 0 ∧
    g.b.val.toNat % (if o.f.getLsbD 1 then 4 else 2) = 0 ∧ kvPages (behind s y) [(g.a.val.toNat, 2 ^ 14)] false = .ok t1 :=
  let s := machine [(1, 0x10000), (2, home + 2)]
  ⟨s, okOf s (kvPages (cmdAt s cmdOps) [(0x10000, 2 ^ 14)] false), cmdOps, (cmdOf s cmdOps).1, (cmdOf s cmdOps).2, ⟨by decide +kernel, by decide +kernel⟩,
   by decide +kernel⟩
/-- A warp of one cell of one binary32 channel from 0x11000 to 0x12000, without drift words. -/
def warpNat : Nat := 0x12000 + 0x11000 * 2 ^ 64 + (1 + 1 * 2 ^ 16 + 2 * 2 ^ 42) * 2 ^ (8 * 0x38) + (1 * 2 ^ 32 + 1 * 2 ^ 48) * 2 ^ (8 * 0x40)
theorem witness_PageAndWarpCommands_fwarp : ∃ (s t1 t2 : State) (o : Ops) (g : Got) (y : Slot) (v : Nat), CommandReads s o g y ∧
    blockRead (behind s y) g.a.val 128 = .ok (t1, v) ∧ warpLegal (v % 2 ^ 576 + v / 2 ^ 704 % 2 ^ 320 * 2 ^ 704) = true ∧
    issuePages t1 (warpPages (WarpBlock.ofNat v)).1 (warpPages (WarpBlock.ofNat v)).2 = .ok t2 :=
  let s := stored [(1, home)] (natToBytes 128 warpNat)
  let t := cmdAt s cmdOps
  ⟨s, t, okOf s (issuePages t (warpPages (WarpBlock.ofNat warpNat)).1 (warpPages (WarpBlock.ofNat warpNat)).2), cmdOps, (cmdOf s cmdOps).1, (cmdOf s cmdOps).2, warpNat,
   ⟨by decide +kernel, by decide +kernel⟩, by decide +kernel⟩
/-- A refresh of the one cell of the first component at 0x10000. -/
def markNat : Nat := 0x10000 + (home + 0x100).toNat * 2 ^ 128 + (1 + 1 * 2 ^ 16 + 1 * 2 ^ 32) * 2 ^ (8 * 0x18) + (1 * 2 ^ 32 + 1 * 2 ^ 48) * 2 ^ (8 * 0x20)
theorem witness_PageAndWarpCommands_rfmark : ∃ (s t1 t2 : State) (o : Ops) (g : Got) (y : Slot) (v : Nat) (r : Nat × Nat), CommandReads s o g y ∧
    blockRead (behind s y) g.a.val 64 = .ok (t1, v) ∧ markLegal v = true ∧
    spRange t1 t1.slot.prt t1.slotUnit (MarkBlock.ofNat v).dsp (64 * (markCells (MarkBlock.ofNat v)).length) = .ok r ∧
    issuePages t1 ((markCells (MarkBlock.ofNat v)).flatMap (fun a => pagesOf a 64)) ((markDrift (MarkBlock.ofNat v)).flatMap (fun a => pagesOf a 8)) = .ok t2 :=
  let s := stored [(1, home)] (natToBytes 64 markNat)
  let t := cmdAt s cmdOps
  ⟨s, t, okOf s (issuePages t ((markCells (MarkBlock.ofNat markNat)).flatMap (fun a => pagesOf a 64)) []), cmdOps, (cmdOf s cmdOps).1, (cmdOf s cmdOps).2, markNat, (0, 0x100),
   ⟨by decide +kernel, by decide +kernel⟩, by decide +kernel⟩
/-- A selection of 1 page of a list of 1 page at 0x10000; the page's record is at 0. -/
def pgselNat : Nat := (home + 0x200).toNat + 0x10000 * 2 ^ 64 + 1 * 2 ^ 128 + 1 * 2 ^ 160 + 32 * 2 ^ 176 + (home + 0x100).toNat * 2 ^ 192
def selecting : State :=
  let s := stored [(1, home)] (natToBytes 32 pgselNat)
  { s with mem := { s.mem with hbm := writeBytes [] 0x10000 (natToBytes 8 0x11000) } }
def selOps : Ops := { form := .s, d := .cur 0, a := .reg 1 }
theorem witness_PageAndWarpCommands_pgsel : ∃ (s t1 t2 t3 t4 : State) (o : Ops) (g : Got) (y : Slot) (v : Nat) (bs : List Byte), Fetches s o .z g y ∧
    (behind s y).openable false (curReg o.d) = .ok () ∧ lvlRead false (behind s y) g.a.val 32 = .ok (t1, v) ∧ PgBlock.ok v = true ∧
    pgAreas t1 (PgBlock.ofNat v) = .ok () ∧ kvPages t1 [((PgBlock.ofNat v).list.toNat, 8 * (PgBlock.ofNat v).n)] false = .ok t2 ∧
    engReadOk t2 t2.slotUnit t2.slotCtx (PgBlock.ofNat v).list.toNat (8 * (PgBlock.ofNat v).n) = .ok (t3, bs) ∧
    (∀ r ∈ words64 (PgBlock.ofNat v).n bs, r % 64 = 0) ∧ kvPages t3 ((words64 (PgBlock.ofNat v).n bs).map (fun r => (r, 0x140))) false = .ok t4 :=
  let s := selecting
  let t1 := readOf s selOps
  let t2 := okOf s (kvPages t1 [(0x10000, 8)] false)
  let t3 := (okOf (s, []) (engReadOk t2 0 0 0x10000 8)).1
  ⟨s, t1, t2, t3, okOf s (kvPages t3 [(0x11000, 0x140)] false), selOps, (gotOf s selOps .z).1, (gotOf s selOps .z).2, pgselNat, natToBytes 8 0x11000,
   ⟨by decide +kernel, by decide +kernel⟩, by decide +kernel⟩

/-- A state with a stream taken by engine 0. -/
def taken0 (t : State) (x : Strm) : State := t.putStrm { x with engine := some 0 }
def fedPages (s : State) (x : Strm) : State × List (Nat × Tr) := okOf (s, []) (translateAll (taken0 (cmdAt s cmdOps) x) 0 0 (pagesOf 0x14000 128))
theorem witness_VideoInstructions_feed : ∃ (s t1 : State) (o : Ops) (g : Got) (y : Slot) (x : Strm) (ts : List (Nat × Tr)), CommandReads s o g y ∧
    (behind s y).strmOf g.a.val = some x ∧ g.c.val.toNat ≤ 2 ^ 24 ∧ 0 < g.c.val.toNat ∧
    translateAll ((behind s y).putStrm { x with engine := some (handleEng g.a.val) }) (behind s y).slotUnit (behind s y).slotCtx
      (pagesOf g.b.val.toNat g.c.val.toNat) = .ok (t1, ts) ∧ permAll true false ts = .ok () ∧ x.queue.length = 7 :=
  let x : Strm := { strm0 with queue := List.replicate 7 (0x14000, 128) }
  let s := streaming x [(1, 0x10000), (2, 0x14000), (3, 128)]
  ⟨s, (fedPages s x).1, cmdOps, (cmdOf s cmdOps).1, (cmdOf s cmdOps).2, x, (fedPages s x).2, ⟨by decide +kernel, by decide +kernel⟩, (by decide +kernel), by decide +kernel,
   by decide +kernel, (by decide +kernel), by decide +kernel, by decide⟩
theorem witness_VideoInstructions_full : ∃ (s t1 : State) (o : Ops) (g : Got) (y : Slot) (x : Strm) (ts : List (Nat × Tr)), CommandReads s o g y ∧
    (behind s y).strmOf g.a.val = some x ∧ g.c.val.toNat ≤ 2 ^ 24 ∧ 0 < g.c.val.toNat ∧
    translateAll ((behind s y).putStrm { x with engine := some (handleEng g.a.val) }) (behind s y).slotUnit (behind s y).slotCtx
      (pagesOf g.b.val.toNat g.c.val.toNat) = .ok (t1, ts) ∧ permAll true false ts = .ok () ∧ x.queue.length = 8 ∧ x.reqs.length = 4 :=
  let x : Strm := { strm0 with queue := List.replicate 8 (0x14000, 128), reqs := [1, 2, 3, 4] }
  let s := streaming x [(1, 0x10000), (2, 0x14000), (3, 128)]
  ⟨s, (fedPages s x).1, cmdOps, (cmdOf s cmdOps).1, (cmdOf s cmdOps).2, x, (fedPages s x).2, ⟨by decide +kernel, by decide +kernel⟩, (by decide +kernel), by decide +kernel,
   by decide +kernel, (by decide +kernel), by decide +kernel, by decide, by decide⟩
theorem witness_VideoInstructions_request : ∃ (s : State) (o : Ops) (g : Got) (y : Slot) (x : Strm), CommandReads s o g y ∧ Fetches s o .z g y ∧
    (behind s y).strmOf g.a.val = some x ∧ x.reqs.length = 3 ∧ x.consumed < 2 ^ 48 ∧ x.err < 2 ^ 7 :=
  ⟨streaming { strm0 with reqs := [1, 2, 3] } [(1, 0x10000)], cmdOps, _, _, _, ⟨by decide +kernel, rfl⟩, ⟨by decide +kernel, rfl⟩, rfl, rfl, by decide, by decide⟩
theorem witness_VideoInstructions_unnamed : ∃ (s : State) (o : Ops) (g : Got) (y : Slot), Fetches s o .z g y ∧ (behind s y).strmOf g.a.val = none :=
  ⟨machine [(1, 0x10000)], lookOps, _, _, ⟨by decide +kernel, rfl⟩, rfl⟩
theorem witness_VideoInstructions_block : ∃ (s t1 : State) (o : Ops) (g : Got) (y : Slot) (n : Nat), Fetches s o .z g y ∧
    (behind s y).openable false (curReg o.d) = .ok () ∧ g.a.val.toNat % 128 = 0 ∧ lvlRead false (behind s y) (g.a.val + 8) 4 = .ok (t1, n) ∧ n = 3 :=
  let s := stored [(1, home)] (natToBytes 16 (3 * 2 ^ 64))
  ⟨s, readOf s fbOps, fbOps, (gotOf s fbOps .z).1, (gotOf s fbOps .z).2, 3, ⟨by decide +kernel, by decide +kernel⟩, (by decide +kernel), by decide +kernel, by decide +kernel, rfl⟩

/-- A legal configuration block: codec 3, ring of lines of 512 bytes, state at 0x11000, window of 64 by 64. -/
def sxNat : Nat := 0x10000 + (ring1.toNat + 2 * 2 ^ 37) * 2 ^ 64 + 0x11000 * 2 ^ 128 + (3 + 2 * 2 ^ 16 + 1 * 2 ^ 24) * 2 ^ (8 * 0x18) +
  (64 + 64 * 2 ^ 16) * 2 ^ (8 * 0x20)
def configuring : State :=
  let s := stored [(1, home)] (natToBytes 64 sxNat)
  { s with parts := [(0, { part0 with map := part0.map.set 13 1 })] }
def configuring1 : State := readOf configuring lookOps
def configuring2 : State × List (Nat × Tr) := okOf (configuring, []) (translateAll configuring1 0 0 [0x10000, 0x11000])
def configuring3 : State × Option EErr :=
  engWrite (configuring2.1.privateBytes 4096).2 configuring2.1.slotUnit configuring2.1.slotCtx (fieldAt sxNat 0 8) (configuring2.1.privateBytes 4096).1
theorem configuring3_ok : configuring3.2 = none := by decide +kernel
theorem witness_VideoInstructions_configure : ∃ (s t1 t2 t3 : State) (o : Ops) (g : Got) (y : Slot) (v u : Nat) (ts : List (Nat × Tr)), Fetches s o .z g y ∧
    g.a.val.toNat % 64 = 0 ∧ lvlRead false (behind s y) g.a.val 64 = .ok (t1, v) ∧ sxFields v = true ∧
    t1.engineUnit t1.slot.prt (fieldAt v 0x1D 1) (fieldAt v 0x1C 1) ≠ none ∧
    ringUnit t1 t1.slot.prt t1.slotUnit (BitVec.ofNat 64 (fieldAt v 8 8)) = .ok u ∧
    translateAll t1 t1.slotUnit t1.slotCtx [fieldAt v 0 8, fieldAt v 0x10 8] = .ok (t2, ts) ∧ kindAll .mu ts = .ok () ∧ permAll true true ts = .ok () ∧
    engWrite (t2.privateBytes 4096).2 t2.slotUnit t2.slotCtx (fieldAt v 0 8) (t2.privateBytes 4096).1 = (t3, none) :=
  ⟨configuring, configuring1, configuring2.1, configuring3.1, lookOps, (gotOf configuring lookOps .z).1, (gotOf configuring lookOps .z).2, sxNat, 0, configuring2.2,
   ⟨by decide +kernel, by decide +kernel⟩, (by decide +kernel), by decide +kernel, by decide +kernel, (by decide +kernel), by decide +kernel, by decide +kernel,
   (by decide +kernel), by decide +kernel, pair_of configuring3 none configuring3_ok⟩

theorem witness_MotionAndDrift : ∃ (s : State) (o : Ops) (g : Got) (y : Slot), Fetches s o .p g y ∧ g.pass = none :=
  ⟨machine [(1, 3), (2, 3)], abc, _, _, ⟨by decide +kernel, rfl⟩, rfl⟩
theorem witness_MotionAndDrift_clamp : ∃ d x w p : Int, 0 ≤ x ∧ 0 < w ∧ x ≤ p ∧ -16 * (x + w + 16) ≤ d ∧ d = 16 * (p + 16 - x) := ⟨256, 0, 4, 0, by decide⟩

end Sys2Proof.Tests

/-! ### Hypotheses met: islands and arrays, queues and indices, launches -/

namespace Sys2Proof.Tests

set_option Elab.async false

open Sys2Proof Sys2Proof.Machine Sys2Proof.Claims

/-- The two operands of most instructions here. -/
def twoOps : Ops := { form := .s, d := .reg 0, a := .reg 1, b := .reg 2 }

theorem witness_MatrixInstructions_rows : ∃ (s t : State) (o : Ops) (g h : Got) (y z : Slot), Fetches s o .z g y ∧ Fetches t o .z h z ∧
    (g.a.val.toNat / 2 ^ 13 = 0 ∧ 1 ≤ g.a.val.toNat / 2 ^ 6 ∧ g.a.val.toNat % 2 ^ 6 + g.a.val.toNat / 2 ^ 6 = 64) ∧
    ¬(h.a.val.toNat % 2 ^ 6 + h.a.val.toNat / 2 ^ 6 ≤ 64) :=
  ⟨machine [(1, 0x1000)], machine [(1, 0x1001)], twoOps, _, _, _, _, ⟨by decide +kernel, rfl⟩, ⟨by decide +kernel, rfl⟩, by decide +kernel, by decide +kernel⟩
theorem witness_MatrixInstructions_address : ∃ (s t : State) (o : Ops) (g h : Got) (y z : Slot), Fetches s o .z g y ∧ Fetches t o .z h z ∧
    g.a.val.toNat % 8 = 0 ∧ g.a.val.toNat + 8 = 2 ^ 32 ∧ h.a.val.toNat % 8 = 0 ∧ h.a.val.toNat = 2 ^ 33 :=
  ⟨machine [(1, 0xFFFFFFF8)], machine [(1, 0x200000000)], twoOps, _, _, _, _, ⟨by decide +kernel, rfl⟩, ⟨by decide +kernel, rfl⟩, by decide +kernel⟩
theorem witness_MatrixInstructions_home : ∃ (s t : State) (o : Ops) (g h : Got) (y z : Slot), Fetches s o .z g y ∧ Fetches t o .z h z ∧
    g.a.val.toNat % 8 = 0 ∧ g.a.val.toNat = 2 ^ 32 ∧
    (s.part y.prt).imageOf (dieOf (coordUnit y.place)) (mtTile (coordUnit y.place)) = some (0, mtTile 0) ∧ h.a.val.toNat % 8 ≠ 0 :=
  ⟨machine [(1, home)], machine [(1, 4)], twoOps, _, _, _, _, ⟨by decide +kernel, rfl⟩, ⟨by decide +kernel, rfl⟩, by decide +kernel⟩

theorem witness_TernaryInstructions_load : ∃ (s : State) (o : Ops) (g : Got) (y : Slot), CommandReads s o g y ∧ g.a.val.toNat % 4 = 0 ∧
    spRange (behind s y) y.prt (behind s y).slotUnit g.a.val 205 = .ok (0, 64) ∧
    (g.b.val.toNat < 2 ^ 11 ∧ 1 ≤ g.b.val.toNat / 32 % 64 ∧ g.b.val.toNat % 32 + g.b.val.toNat / 32 % 64 = 32) ∧
    spRange (behind s y) y.prt (behind s y).slotUnit g.a.val (32 * 32) = .ok (0, 64) ∧
    spRange (behind s y) y.prt (behind s y).slotUnit g.a.val (128 * 32) = .ok (0, 64) :=
  let s := machine [(1, home + 64), (2, 32 * 32)]
  ⟨s, cmdOps, (cmdOf s cmdOps).1, (cmdOf s cmdOps).2, ⟨by decide +kernel, by decide +kernel⟩, by decide +kernel⟩
theorem witness_TernaryInstructions_rows : ∃ (s t : State) (o : Ops) (g h : Got) (y z : Slot), CommandReads s o g y ∧ CommandReads t o h z ∧
    g.a.val.toNat % 4 = 0 ∧ g.b.val.toNat / 32 % 64 = 0 ∧ spRange (behind s y) y.prt (behind s y).slotUnit g.a.val 0 = .ok (0, 64) ∧
    h.a.val.toNat % 4 = 0 ∧ 32 < h.b.val.toNat % 32 + h.b.val.toNat / 32 % 64 ∧ spRange (behind t z) z.prt (behind t z).slotUnit h.a.val 0 = .ok (0, 64) :=
  let s := machine [(1, home + 64), (2, 3)]
  let t := machine [(1, home + 64), (2, 1 + 32 * 32)]
  ⟨s, t, cmdOps, (cmdOf s cmdOps).1, (cmdOf t cmdOps).1, (cmdOf s cmdOps).2, (cmdOf t cmdOps).2, ⟨by decide +kernel, by decide +kernel⟩, ⟨(by decide +kernel), by decide +kernel⟩, by decide +kernel⟩

/-- A queue of 4 records at the base of the scratchpad, and an index of 2 buckets behind it. -/
def queue0 : Region := { idx := false, lcap := 2, sbase := 0, spillA := 0, spillN := 0 }
def index0 : Region := { idx := true, lcap := 1, sbase := 2, spillA := 0, spillN := 0 }
/-- The same index with a spill area at 0x10000. -/
def index1 : Region := { index0 with spillA := 0x200, spillN := 1 }
/-- The scratchpad of a queue with its sequences, one frontier for its lanes and one record in every slot, and of an index whose
bucket 0 holds key 0 with a value. -/
def galleyRam (head cons tail front rec value : Nat) : Tbl Byte :=
  let h := writeBytes [] 8 (natToBytes 4 head ++ natToBytes 4 cons ++ natToBytes 4 tail)
  let f := writeBytes h 24 (natToBytes 16 (front * (1 + 2 ^ 32 + 2 ^ 64 + 2 ^ 96)))
  let r := (List.range 4).foldl (fun m i => writeBytes m (128 + 32 * i) (natToBytes 9 rec)) f
  writeBytes r 408 (natToBytes 1 value)
/-- The machine with both regions declared, as numbers 1 and 2 of its memory tile. -/
def galley (l : List (Nat × Dword)) (ix : Region) (head cons tail front rec value : Nat) : State :=
  let s := machine l
  { s with mem := { s.mem with sram := galleyRam head cons tail front rec value },
           mts := [(0, { ({} : Mt) with regions := [(1, queue0), (2, ix)] })] }
def q1 : Rg := ⟨0, 0, 1, queue0, home + 1⟩
def i1 (ix : Region) : Rg := ⟨0, 0, 2, ix, home + 2⟩

/-- Whether a region is the one named. -/
def isRegion (x : Acc Rg) (r : Rg) : Bool :=
  match x with
  | .ok q => q.p == r.p && q.u == r.u && q.r == r.r && q.decl == r.decl && q.addr == r.addr
  | .error _ => false
theorem region_of (x : Acc Rg) (r : Rg) (h : isRegion x r = true) : x = .ok r := by
  rcases x with e | ⟨p, u, n, d, a⟩
  · cases h
  · obtain ⟨p', u', n', d', a'⟩ := r
    simp only [isRegion, Bool.and_eq_true, beq_iff_eq] at h
    obtain ⟨⟨⟨⟨rfl, rfl⟩, rfl⟩, rfl⟩, rfl⟩ := h
    rfl

def putOps : Ops := { form := .s, a := .reg 4, b := .reg 2 }
def getOps : Ops := { form := .s, d := .reg 8, a := .reg 1, b := .reg 2 }
/-- A record of time t and multiplicity 1 in registers 4 to 7, and the queue's address in a2. -/
def recRegs (t : Dword) : List (Nat × Dword) := [(2, home + 1), (4, t + 0x100000000), (5, 9)]

theorem witness_QueueInstructions_put : ∃ (s t : State) (g h : Got) (y z : Slot) (r : Rg), Fetches s putOps .z g y ∧ twf 0 s.mem.sram = true ∧
    QueueSound (behind s y) r ∧ s.slot.groupsHeld putOps 4 0 = true ∧ (behind s y).regionOf g.b.val false = .ok r ∧
    seqDist (r.qhead (behind s y)).tail (r.qhead (behind s y)).head + 1 = 2 ^ r.decl.lcap ∧
    r.frontier (behind s y) 0 = recTime (wordsRec (s.slot.recordOf putOps)) ∧ recTime (wordsRec (s.slot.recordOf putOps)) ≤ 0xFFFFFFFD ∧
    Fetches t putOps .z h z ∧ QueueSound (behind t z) r ∧ (behind t z).regionOf h.b.val false = .ok r ∧ t.slot.groupsHeld putOps 4 0 = true ∧
    seqDist (r.qhead (behind t z)).tail (r.qhead (behind t z)).head < 2 ^ r.decl.lcap ∧ recTime (wordsRec (t.slot.recordOf putOps)) < r.frontier (behind t z) 0 :=
  let s := galley (recRegs 3) index0 0xFFFFFFFE 0 1 3 0 0
  let t := galley (recRegs 2) index0 0 0 0 3 0 0
  ⟨s, t, (gotOf s putOps .z).1, (gotOf t putOps .z).1, (gotOf s putOps .z).2, (gotOf t putOps .z).2, q1, ⟨by decide +kernel, by decide +kernel⟩, (by decide +kernel),
   ⟨by decide +kernel, by decide +kernel⟩, (by decide +kernel), region_of _ _ (by decide +kernel), by decide +kernel, by decide +kernel, (by decide +kernel),
   ⟨by decide +kernel, by decide +kernel⟩, ⟨(by decide +kernel), by decide +kernel⟩, region_of _ _ (by decide +kernel), by decide +kernel⟩
theorem witness_QueueInstructions_full : ∃ (s : State) (g : Got) (y : Slot) (r : Rg), Fetches s putOps .z g y ∧ twf 0 s.mem.sram = true ∧
    QueueSound (behind s y) r ∧ s.slot.groupsHeld putOps 4 0 = true ∧ (behind s y).regionOf g.b.val false = .ok r ∧
    2 ^ r.decl.lcap ≤ seqDist (r.qhead (behind s y)).tail (r.qhead (behind s y)).head :=
  let s := galley (recRegs 3) index0 0xFFFFFFFE 0 2 3 0 0
  ⟨s, (gotOf s putOps .z).1, (gotOf s putOps .z).2, q1, ⟨by decide +kernel, by decide +kernel⟩, (by decide +kernel),
   ⟨by decide +kernel, by decide +kernel⟩, (by decide +kernel), region_of _ _ (by decide +kernel), by decide +kernel⟩
theorem witness_QueueInstructions_get : ∃ (s : State) (g : Got) (y : Slot) (r : Rg), Fetches s getOps .z g y ∧ twf 0 s.mem.sram = true ∧
    QueueSound (behind s y) r ∧ (behind s y).regionOf g.a.val false = .ok r ∧ s.slot.groupsHeld getOps 1 4 = true ∧
    (r.qhead (behind s y)).cons ≠ (r.qhead (behind s y)).head ∧ r.bad (behind s y) (r.recAt (r.qhead (behind s y)).head) 32 = false ∧
    ∀ k < seqDist (r.qhead (behind s y)).tail (r.qhead (behind s y)).cons, r.bad (behind s y) (r.recAt ((r.qhead (behind s y)).cons + k)) 32 = false :=
  let s := galley [(1, home + 1)] index0 1 2 4 3 7 0
  ⟨s, (gotOf s getOps .z).1, (gotOf s getOps .z).2, q1, ⟨by decide +kernel, by decide +kernel⟩, (by decide +kernel),
   ⟨by decide +kernel, by decide +kernel⟩, region_of _ _ (by decide +kernel), by decide +kernel⟩
theorem witness_QueueInstructions_none : ∃ (s t : State) (g h : Got) (y z : Slot) (r : Rg), Fetches s getOps .z g y ∧ QueueSound (behind s y) r ∧
    (behind s y).regionOf g.a.val false = .ok r ∧ s.slot.groupsHeld getOps 1 4 = true ∧
    (r.qhead (behind s y)).cons = (r.qhead (behind s y)).head ∧ r.fIn (behind s y) = 0xFFFFFFFF ∧ (r.qhead (behind s y)).head = (r.qhead (behind s y)).tail ∧
    Fetches t getOps .z h z ∧ QueueSound (behind t z) r ∧ (behind t z).regionOf h.a.val false = .ok r ∧ t.slot.groupsHeld getOps 1 4 = true ∧
    (r.qhead (behind t z)).cons = (r.qhead (behind t z)).head ∧ ¬(r.fIn (behind t z) = 0xFFFFFFFF ∧ (r.qhead (behind t z)).head = (r.qhead (behind t z)).tail) :=
  let s := galley [(1, home + 1)] index0 2 2 2 0xFFFFFFFF 0 0
  let t := galley [(1, home + 1)] index0 2 2 3 0xFFFFFFFF 0 0
  ⟨s, t, (gotOf s getOps .z).1, (gotOf t getOps .z).1, (gotOf s getOps .z).2, (gotOf t getOps .z).2, q1, ⟨by decide +kernel, by decide +kernel⟩,
   ⟨by decide +kernel, by decide +kernel⟩, region_of _ _ (by decide +kernel), by decide +kernel, by decide +kernel, (by decide +kernel), by decide +kernel,
   ⟨by decide +kernel, (by decide +kernel)⟩, ⟨by decide +kernel, by decide +kernel⟩, region_of _ _ (by decide +kernel), by decide +kernel⟩
theorem witness_ConsolidationKeepsSums : ∃ xs : List Nat, xs = [0x7FFFFFFF00000001] ∧ (∀ x ∈ xs, inI32 (tripleSum xs x) = true) :=
  ⟨_, rfl, by decide +kernel⟩

theorem witness_IndexInstructions_get : ∃ (s t : State) (g h : Got) (y z : Slot) (r : Rg), Fetches s getOps .z g y ∧ twf 0 s.mem.sram = true ∧
    (behind s y).regionOf g.a.val true = .ok r ∧ r.bad (behind s y) (r.head 0) r.decl.size = false ∧ 1 ≤ r.decl.lcap ∧
    bFind (r.bucket (behind s y) (r.home g.b.val.toNat)) g.b.val.toNat = some 0 ∧
    Fetches t getOps .z h z ∧ (behind t z).regionOf h.a.val true = .ok r ∧ bFind (r.bucket (behind t z) (r.home h.b.val.toNat)) h.b.val.toNat = none ∧
    bSpilled (r.bucket (behind t z) (r.home h.b.val.toNat)) = false :=
  let s := galley [(1, home + 2)] index0 0 0 0 0 0 5
  let t := galley [(1, home + 2), (2, 1)] index0 0 0 0 0 0 5
  ⟨s, t, (gotOf s getOps .z).1, (gotOf t getOps .z).1, (gotOf s getOps .z).2, (gotOf t getOps .z).2, i1 index0, ⟨by decide +kernel, by decide +kernel⟩, by decide +kernel,
   region_of _ _ (by decide +kernel), by decide +kernel, by decide +kernel, (by decide +kernel), ⟨by decide +kernel, by decide +kernel⟩, region_of _ _ (by decide +kernel), by decide +kernel, by decide +kernel⟩
theorem witness_IndexInstructions_iterate : ∃ (s t : State) (g h : Got) (y z : Slot) (r : Rg), Fetches s getOps .z g y ∧
    (behind s y).regionOf g.a.val true = .ok r ∧ s.slot.groupsHeld getOps 1 3 = true ∧ g.b.val.toNat ≤ 0 ∧ bVal (r.bucket (behind s y) 0) 0 ≠ 0 ∧
    Fetches t getOps .z h z ∧ (behind t z).regionOf h.a.val true = .ok r ∧ r.decl.spillN = 0 ∧ h.b.val.toNat = 1 ∧
    (∀ k < 6, h.b.val.toNat ≤ k → bVal (r.bucket (behind t z) (k / 3)) (k % 3) = 0) :=
  let s := galley [(1, home + 2)] index0 0 0 0 0 0 5
  let t := galley [(1, home + 2), (2, 1)] index0 0 0 0 0 0 5
  ⟨s, t, (gotOf s getOps .z).1, (gotOf t getOps .z).1, (gotOf s getOps .z).2, (gotOf t getOps .z).2, i1 index0, ⟨by decide +kernel, by decide +kernel⟩,
   region_of _ _ (by decide +kernel), by decide +kernel, by decide +kernel, (by decide +kernel), ⟨by decide +kernel, by decide +kernel⟩, region_of _ _ (by decide +kernel), by decide +kernel⟩

/-- What a performed operation at a region leaves and brings. -/
def doneOf (d : State) : RegOut → State × List Dword
  | .done s vs => (s, vs)
  | _ => (d, [])
def isDone : RegOut → Bool
  | .done _ _ => true
  | _ => false
theorem done_of (d : State) (x : RegOut) (h : isDone x = true) : x = .done (doneOf d x).1 (doneOf d x).2 := by
  cases x with
  | done s vs => rfl
  | wait => cases h
  | held => cases h
  | fault f s => cases h

theorem witness_IndexInstructions_spill : ∃ (s t1 t : State) (vs : List Dword) (g h : Got) (y z : Slot) (r : Rg), Fetches s getOps .z g y ∧
    (behind s y).regionOf g.a.val true = .ok r ∧ r.bad (behind s y) (r.head 0) r.decl.size = false ∧ ixsplStep (behind s y) r = .done t1 vs ∧
    (r.residents (behind s y)).length = 1 ∧
    Fetches t getOps .z h z ∧ (behind t z).regionOf h.a.val true = .ok r ∧ r.residents (behind t z) = [] :=
  let s := galley [(1, home + 2)] index1 0 0 0 0 0 5
  let t := galley [(1, home + 2)] index1 0 0 0 0 0 0
  let x := ixsplStep (readOf s getOps) (i1 index1)
  ⟨s, (doneOf s x).1, t, (doneOf s x).2, (gotOf s getOps .z).1, (gotOf t getOps .z).1, (gotOf s getOps .z).2, (gotOf t getOps .z).2, i1 index1, ⟨by decide +kernel, by decide +kernel⟩,
   region_of _ _ (by decide +kernel), by decide +kernel, done_of s x (by decide +kernel), by decide +kernel, ⟨by decide +kernel, by decide +kernel⟩, region_of _ _ (by decide +kernel), by decide +kernel⟩
theorem witness_IndexInstructions_clear : ∃ (s t : State) (g h : Got) (y z : Slot) (r q : Rg), Fetches s getOps .z g y ∧
    (behind s y).anyRegion g.a.val = .ok r ∧ r.decl.idx = true ∧ 1 ≤ r.decl.lcap ∧
    Fetches t getOps .z h z ∧ (behind t z).anyRegion h.a.val = .ok q ∧ q.decl.idx = false :=
  let s := galley [(1, home + 2)] index0 0 0 0 0 0 5
  let t := galley [(1, home + 1)] index0 0 0 0 0 0 5
  ⟨s, t, (gotOf s getOps .z).1, (gotOf t getOps .z).1, (gotOf s getOps .z).2, (gotOf t getOps .z).2, i1 index0, q1, ⟨by decide +kernel, by decide +kernel⟩,
   region_of _ _ (by decide +kernel), rfl, by decide +kernel, ⟨by decide +kernel, by decide +kernel⟩, region_of _ _ (by decide +kernel), rfl⟩
theorem witness_IndexInstructions_update : ∃ (s : State) (g : Got) (y : Slot) (r q : Rg), Fetches s getOps .z g y ∧ twf 0 s.mem.sram = true ∧
    (behind s y).regionOf g.a.val false = .ok q ∧ (behind s y).regionOf g.b.val true = .ok r ∧ q.u = r.u ∧ QueueSound (behind s y) q ∧
    s.slot.groupsHeld getOps 1 4 = true ∧ q.decl.sbase * 128 + q.decl.size ≤ r.decl.sbase * 128 ∧ 1 ≤ r.decl.lcap ∧ 2 ≤ q.decl.lcap ∧
    (q.qhead (behind s y)).cons ≠ (q.qhead (behind s y)).head ∧ q.bad (behind s y) (q.recAt (q.qhead (behind s y)).head) 32 = false ∧
    r.bad (behind s y) (r.head 0) r.decl.size = false ∧
    bFind (r.bucket (behind s y) (r.home 0)) 0 = some 0 ∧ recKey (q.record (behind s y) (q.qhead (behind s y)).head) = 0 :=
  let s := galley [(1, home + 1), (2, home + 2)] index0 0 1 1 0 (2 ^ 32) 5
  ⟨s, (gotOf s getOps .z).1, (gotOf s getOps .z).2, i1 index0, q1, ⟨by decide +kernel, by decide +kernel⟩, by decide +kernel,
   region_of _ _ (by decide +kernel), region_of _ _ (by decide +kernel), rfl, ⟨by decide +kernel, by decide +kernel⟩, by decide +kernel⟩
theorem witness_IndexInstructions_insert : ∃ (s : State) (g : Got) (y : Slot) (r q : Rg), Fetches s getOps .z g y ∧
    (behind s y).regionOf g.a.val false = .ok q ∧ (behind s y).regionOf g.b.val true = .ok r ∧ QueueSound (behind s y) q ∧
    (q.qhead (behind s y)).cons ≠ (q.qhead (behind s y)).head ∧ recKey (q.record (behind s y) (q.qhead (behind s y)).head) = 0 ∧
    bFind (r.bucket (behind s y) (r.home 0)) 0 = none ∧ bSpilled (r.bucket (behind s y) (r.home 0)) = false ∧
    bFree (r.bucket (behind s y) (r.home 0)) = some 0 ∧ recMult (q.record (behind s y) (q.qhead (behind s y)).head) % 2 ^ 64 ≠ 0 :=
  let s := galley [(1, home + 1), (2, home + 2)] index0 0 1 1 0 (2 ^ 32) 0
  ⟨s, (gotOf s getOps .z).1, (gotOf s getOps .z).2, i1 index0, q1, ⟨by decide +kernel, by decide +kernel⟩,
   region_of _ _ (by decide +kernel), region_of _ _ (by decide +kernel), ⟨by decide +kernel, by decide +kernel⟩, by decide +kernel⟩
theorem witness_IndexInstructions_drained : ∃ (s : State) (g : Got) (y : Slot) (r q : Rg), Fetches s getOps .z g y ∧
    (behind s y).regionOf g.a.val false = .ok q ∧ (behind s y).regionOf g.b.val true = .ok r ∧ QueueSound (behind s y) q ∧
    (q.qhead (behind s y)).cons = (q.qhead (behind s y)).head ∧ q.fIn (behind s y) = 0xFFFFFFFF ∧ (q.qhead (behind s y)).head = (q.qhead (behind s y)).tail :=
  let s := galley [(1, home + 1), (2, home + 2)] index0 1 1 1 0xFFFFFFFF 0 0
  ⟨s, (gotOf s getOps .z).1, (gotOf s getOps .z).2, i1 index0, q1, ⟨by decide +kernel, by decide +kernel⟩,
   region_of _ _ (by decide +kernel), region_of _ _ (by decide +kernel), ⟨by decide +kernel, by decide +kernel⟩, by decide +kernel⟩

/-- A launch queue of 16 slots in the write-once page at 0x20000, and the machine with it as queue 0 and legal operands. -/
def lq0 : Lq := { base := 0x20000, en := true }
def launching (q : Lq) : State := { machine [(1, 0), (2, 0x40), (3, 0x10000)] with lqs := [(0, q)] }
def slotPage (s : State) : State × Tr := okOf (s, ⟨0, .mu, false, false, 0⟩) (translate (readOf s abc).fencePackage 0 0 0x20000)
theorem witness_LaunchInstruction : ∃ (s t1 : State) (g : Got) (y : Slot) (tr : Tr), Fetches s abc .z g y ∧ (∀ w ∈ s.mem.waits, w.place ≠ s.slot.place) ∧
    (g.a.val.toNat ≤ 7 ∧ (s.lq (s.part y.prt).fn g.a.val.toNat).en = true ∧ g.b.val.toNat < 2 ^ 52 ∧ g.b.val.toNat / 2 ^ 4 % 4 = 0 ∧ g.b.val.toNat / 2 ^ 6 ≠ 0 ∧
      g.c.val.toNat < 2 ^ 52 ∧ g.c.val.toNat % 8 = 0) ∧
    ((s.lq 0 0).prod - (s.lq 0 0).head).toNat + 1 = 2 ^ (s.lq 0 0).log2 ∧ hvTarget (s.ctx (s.part (s.lq 0 0).prt).ctx) ((s.lq 0 0).slotVa (s.lq 0 0).prod) = none ∧
    translate (behind s y).fencePackage (behind s y).fencePackage.slotUnit (s.part (s.lq 0 0).prt).ctx ((s.lq 0 0).slotVa (s.lq 0 0).prod) = .ok (t1, tr) ∧
    permitPage tr ((s.lq 0 0).slotVa (s.lq 0 0).prod) .wo false true = .ok () ∧ t1.mem.isPresent (tr.pa / 8) = false ∧ t1.mem.isPresent (tr.pa / 8 + 1) = false :=
  let s := launching { lq0 with prod := 0, head := 0xFFFFFFF1 }
  ⟨s, (slotPage s).1, (gotOf s abc .z).1, (gotOf s abc .z).2, (slotPage s).2, ⟨by decide +kernel, by decide +kernel⟩, by decide +kernel⟩
theorem witness_LaunchInstruction_turned : ∃ (s t : State) (g h : Got) (y z : Slot), Fetches s abc .z g y ∧ (∀ w ∈ s.mem.waits, w.place ≠ s.slot.place) ∧
    (g.a.val.toNat ≤ 7 ∧ (s.lq 0 g.a.val.toNat).en = true ∧ g.b.val.toNat < 2 ^ 52 ∧ g.b.val.toNat / 2 ^ 4 % 4 = 0 ∧ g.b.val.toNat / 2 ^ 6 ≠ 0 ∧
      g.c.val.toNat < 2 ^ 52 ∧ g.c.val.toNat % 8 = 0) ∧ 2 ^ (s.lq 0 0).log2 ≤ ((s.lq 0 0).prod - (s.lq 0 0).head).toNat ∧
    Fetches t abc .z h z ∧ (t.lq 0 h.a.val.toNat).en = false :=
  let s := launching { lq0 with prod := 0, head := 0xFFFFFFF0 }
  let t := launching { lq0 with en := false }
  ⟨s, t, (gotOf s abc .z).1, (gotOf t abc .z).1, (gotOf s abc .z).2, (gotOf t abc .z).2, ⟨by decide +kernel, by decide +kernel⟩, (by decide +kernel), by decide +kernel, by decide +kernel,
   ⟨(by decide +kernel), by decide +kernel⟩, by decide +kernel⟩
/-- A launch queue whose slots lie in a Holvor window, before and after the other package has answered. -/
def remoteQueue (rs : List HvReply) : State :=
  { launching lq0 with ctxs := [(0, { ctx0 with hvwins := [(0, { base := 0x20000, size := 1, rva := 0x10000, tgt := 0x300000007 })] })], hvReplies := rs }
def answered (va : Nat) : HvReply := ⟨0, va, true, 0, 0, 0, []⟩
theorem witness_LaunchInstruction_remote : ∀ rs ∈ [[], [answered 0x20000, answered 0x20008]], ∃ (s : State) (g : Got) (y : Slot), Fetches s abc .z g y ∧ s.hvReplies = rs ∧
    (∀ w ∈ s.mem.waits, w.place ≠ s.slot.place) ∧ (g.a.val.toNat ≤ 7 ∧ (s.lq (s.part y.prt).fn g.a.val.toNat).en = true ∧ g.b.val.toNat < 2 ^ 52 ∧ g.b.val.toNat / 2 ^ 4 % 4 = 0 ∧
      g.b.val.toNat / 2 ^ 6 ≠ 0 ∧ g.c.val.toNat < 2 ^ 52 ∧ g.c.val.toNat % 8 = 0) ∧ ((s.lq 0 0).prod - (s.lq 0 0).head).toNat < 2 ^ (s.lq 0 0).log2 ∧
    (hvTarget (s.ctx (s.part (s.lq 0 0).prt).ctx) ((s.lq 0 0).slotVa (s.lq 0 0).prod)).isSome = true ∧
    (match hvTakes 0 true (behind s y).fencePackage [(0x20000, 8), (0x20008, 8)] with
      | .ok _ => !rs.isEmpty
      | .error .absent => rs.isEmpty
      | .error _ => false) = true := by
  intro rs h
  have e : ∀ rs ∈ [[], [answered 0x20000, answered 0x20008]], (remoteQueue rs).slot.fetch abc .z = .ok (gotOf (remoteQueue rs) abc .z) ∧ (remoteQueue rs).canIssue = true := by decide +kernel
  refine ⟨remoteQueue rs, (gotOf (remoteQueue rs) abc .z).1, (gotOf (remoteQueue rs) abc .z).2, ⟨(e rs h).2, (e rs h).1⟩, rfl, ?_⟩
  revert rs
  decide +kernel

/-- The machine with an island bound in section 3. -/
def sectioned (l : List (Nat × Dword)) : State :=
  { machine l with islands := [(0, { ({} : Island) with bound := true, sect := 3, feed := { ({} : InPort) with bound := true }, drawLnk := true })] }
/-- The machine with partition 0 changed. -/
def parted (l : List (Nat × Dword)) (q : Part) : State := { machine l with parts := [(0, q)] }
theorem witness_LaunchControlInstructions_gsarm : ∃ (s t : State) (g h : Got) (y z : Slot), Fetches s abc .z g y ∧ Fetches t abc .z h z ∧
    ¬(3 < g.a.val.toNat ∨ g.b.val.toNat % 2 ^ 32 = 0 ∨ s.sectHeld 0 g.a.val.toNat = false ∨ ((s.part 0).sect g.a.val.toNat).expired = true ∨
      (((s.part 0).sect g.a.val.toNat).armed = false ∧ ((s.part 0).sect g.a.val.toNat).drn = true)) ∧
    (∀ n ∈ s.sectIslands 0 g.a.val.toNat, (s.isl n).feed.bound = true ∧ (s.isl n).drawLnk = true) ∧ 3 < h.a.val.toNat :=
  ⟨sectioned [(1, 3), (2, 0xFFFFFFFF)], machine [(1, 4), (2, 1)], _, _, _, _, ⟨by decide +kernel, rfl⟩, ⟨by decide +kernel, rfl⟩, by decide +kernel⟩
theorem witness_LaunchControlInstructions_request : ∃ (s t : State) (g h : Got) (y z : Slot), Fetches s abc .z g y ∧ Fetches t abc .z h z ∧
    (g.a.val.toNat < 2 ^ 21 ∧ (4 ≤ g.a.val.toNat / 2 ^ 16 ∧ g.a.val.toNat / 2 ^ 16 ≤ 24) ∧ g.a.val.toNat / 2 ^ 13 % 2 ^ 3 = 0 ∧ g.a.val.toNat / 2 ^ 8 % 2 ^ 5 = 0 ∧
      g.a.val.toNat / 2 ^ 5 % 2 ^ 3 = 0 ∧ g.a.val.toNat % 2 ^ 5 = 24) ∧ ¬(h.a.val.toNat % 2 ^ 5 = 0 ∨ (4 ≤ h.a.val.toNat % 2 ^ 5 ∧ h.a.val.toNat % 2 ^ 5 ≤ 24)) :=
  ⟨machine [(1, 0x40018)], machine [(1, 0x40019)], _, _, _, _, ⟨by decide +kernel, rfl⟩, ⟨by decide +kernel, rfl⟩, by decide +kernel, by decide +kernel⟩
theorem witness_LaunchControlInstructions_event : ∃ (s t : State) (g h : Got) (y z : Slot), Fetches s abc .z g y ∧ Fetches t abc .z h z ∧
    (s.part 0).evq = [] ∧ (t.part 0).evq = [1, 2] ∧ (({ t with slot := z } : State).rowDiv (rowOf z.place) < 8) :=
  ⟨machine [], parted [] { part0 with evq := [1, 2] }, _, _, _, _, ⟨by decide +kernel, rfl⟩, ⟨by decide +kernel, rfl⟩, by decide +kernel⟩
theorem witness_LaunchControlInstructions_preempt : ∃ (s t : State) (g h : Got) (y z : Slot), Fetches s abc .z g y ∧ Fetches t abc .z h z ∧
    (s.part 0).preempt = false ∧ (s.part 0).launch = some ⟨0, 0, 0, 0, 15, 0⟩ ∧ (t.part 0).preempt = true :=
  ⟨machine [], parted [] { part0 with preempt := true }, _, _, _, _, ⟨by decide +kernel, rfl⟩, ⟨by decide +kernel, rfl⟩, by decide +kernel⟩
theorem witness_LaunchControlInstructions_priority : ∃ (s t : State) (g h : Got) (y z : Slot), Fetches s abc .z g y ∧ Fetches t abc .z h z ∧
    (g.a.val.toNat ≤ 7 ∧ (s.lq 0 g.a.val.toNat).en = true ∧ g.b.val.toNat = 7) ∧ 7 < h.b.val.toNat ∧
    (s.part 0).grant.mx < 2 ^ 13 ∧ (s.part 0).grant.vc < 2 ^ 5 ∧ (s.part 0).grant.mm < 2 ^ 5 :=
  ⟨{ machine [(2, 7)] with lqs := [(0, lq0)] }, { machine [(2, 8)] with lqs := [(0, lq0)] }, _, _, _, _, ⟨by decide +kernel, rfl⟩, ⟨by decide +kernel, rfl⟩, by decide +kernel⟩

theorem witness_LaunchInstruction_present : ∃ (s t1 u : State) (tr : Tr), ((s.lq 0 0).prod - (s.lq 0 0).head).toNat < 2 ^ (s.lq 0 0).log2 ∧
    translate (readOf s abc).fencePackage 0 0 0x20000 = .ok (t1, tr) ∧ t1.mem.isPresent (tr.pa / 8) = true ∧
    (slotPage u).1.mem.isPresent ((slotPage u).2.pa / 8) = false ∧ (slotPage u).1.mem.isPresent ((slotPage u).2.pa / 8 + 1) = true ∧ twf 0 t1.mem.hbm = true :=
  let with' (p : Tbl Bool) : State := let s := launching lq0; { s with mem := { s.mem with present := p } }
  ⟨with' [(0x4000, true)], (slotPage (with' [(0x4000, true)])).1, with' [(0x4001, true)], (slotPage (with' [(0x4000, true)])).2, by decide +kernel⟩
theorem witness_LaunchControlInstructions_armed : ∃ (s : State) (g : Got) (y : Slot), Fetches s abc .z g y ∧
    ¬(3 < g.a.val.toNat ∨ g.b.val.toNat % 2 ^ 32 = 0 ∨ s.sectHeld 0 g.a.val.toNat = false ∨ ((s.part 0).sect g.a.val.toNat).expired = true ∨
      (((s.part 0).sect g.a.val.toNat).armed = false ∧ ((s.part 0).sect g.a.val.toNat).drn = true)) ∧
    (∀ n ∈ s.sectIslands 0 g.a.val.toNat, (s.isl n).feed.bound = true ∧ (s.isl n).drawLnk = true) ∧ s.sectIslands 0 3 = [0] ∧
    ((s.part 0).sect 3).armed = true ∧ s.tilesLeft (s.slot.prt) 3 = 5 ∧ (s.sectPorts 0 3).Nodup :=
  let s : State := sectioned [(1, 3), (2, 0xFFFFFFFF)]
  let s : State := { s with islands := s.islands.map (fun p => (p.1, { p.2 with todo := 5 })), parts := [(0, part0.setSect 3 { ({} : Sect) with armed := true, rem := 7 })] }
  ⟨s, _, _, ⟨by decide +kernel, rfl⟩, by decide +kernel⟩

end Sys2Proof.Tests

/-! ### Hypotheses met: islands, the sequencer and the arbiter, firing and links, drain -/

namespace Sys2Proof.Tests

set_option Elab.async false

open Sys2Proof Sys2Proof.Machine Sys2Proof.Claims

/-- An island of binary32 elements with a command word and its block: one row, the last, at the base of the scratchpad; the second
block takes it from a channel instead. -/
def islRow : Nat := mtTile 0 * 2 ^ 21 + (63 + 64) * 2 ^ 160 + 2 ^ 176
def islChan : Nat := (63 + 64) * 2 ^ 160 + 2 ^ 177
def isl0 (kind v : Nat) (taken : List Tok) : Island :=
  { bound := true, ty := 2, cur := some (BitVec.ofNat 64 (kind * 2 ^ 60), v), taken := taken, draw := { ({} : OutPort) with credit := 66 } }
def islanded (x : Island) : State := { machine [] with islands := [(0, x)] }
def rowsOf (s : State) (v : Nat) : State × List (List Byte) × List (List Byte) := okOf (s, [], []) (s.islRows 0 (IslBlock.ofNat v))

theorem witness_IslandCommands : ∀ k ∈ [2, 6, 5], ∃ (s : State) (w : Dword) (v : Nat), (s.isl 0).bound = true ∧ (s.isl 0).cur = some (w, v) ∧ (s.isl 0).feedMarked = false ∧ w.toNat / 2 ^ 60 = k ∧
    (IslBlock.ofNat v).chan = true ∧ (s.isl 0).pend = [] ∧ 65 * (IslBlock.ofNat v).cnt + 1 ≤ (s.isl 0).draw.credit := by
  intro k hk
  exact ⟨islanded (isl0 k islChan []), BitVec.ofNat 64 (k * 2 ^ 60), islChan, rfl, rfl, rfl, by revert k; decide +kernel, by decide +kernel, rfl, by revert k; decide +kernel⟩
theorem witness_IslandCommands_rows : ∀ k ∈ [1, 3, 4], ∃ (s t : State) (w : Dword) (v : Nat) (rs ss : List (List Byte)), (s.isl 0).bound = true ∧
    (s.isl 0).cur = some (w, v) ∧ (s.isl 0).feedMarked = false ∧ w.toNat / 2 ^ 60 = k ∧ (IslBlock.ofNat v).chan = false ∧ s.islRows 0 (IslBlock.ofNat v) = .ok (t, rs, ss) ∧
    twf 0 (s.isl 0).shadow = true ∧ twf 127 (s.isl 0).sscale = true ∧ twf 0 (s.isl 0).acc = true ∧ (IslBlock.ofNat v).row0 + (IslBlock.ofNat v).cnt = 64 := by
  intro k hk
  exact ⟨islanded (isl0 k islRow []), (rowsOf (islanded (isl0 k islRow [])) islRow).1, BitVec.ofNat 64 (k * 2 ^ 60), islRow, (rowsOf (islanded (isl0 k islRow [])) islRow).2.1,
    (rowsOf (islanded (isl0 k islRow [])) islRow).2.2, rfl, rfl, rfl, by revert k; decide +kernel, by decide +kernel, ok_triple (islanded (isl0 k islRow []), [], []) _ (by revert k; decide +kernel), rfl, rfl, rfl, by decide +kernel⟩
theorem witness_IslandCommands_channel : ∃ (s : State) (w : Dword) (v : Nat), (s.isl 0).bound = true ∧ (s.isl 0).cur = some (w, v) ∧ (s.isl 0).feedMarked = false ∧ w.toNat / 2 ^ 60 = 3 ∧
    (IslBlock.ofNat v).chan = true ∧ (s.isl 0).taken.length = 64 * (IslBlock.ofNat v).cnt ∧ twf 0 (s.isl 0).acc = true :=
  ⟨islanded (isl0 3 islChan (List.replicate 64 {})), BitVec.ofNat 64 (3 * 2 ^ 60), islChan, rfl, rfl, rfl, by decide +kernel, by decide +kernel, by decide +kernel, rfl⟩
/-- An island without a command in service: one whose section has a tile left, one without a command, and one to which MSWAP is sent. -/
theorem witness_IslandCommands_take : ∃ (s t u : State) (w : Dword), (∀ x ∈ [s, t, u], (x.isl 0).bound = true ∧ (x.isl 0).feedMarked = false ∧ (x.isl 0).cur = none) ∧
    s.tilesLeft (s.isl 0).prt (s.isl 0).sect ≠ 0 ∧ (s.isl 0).todo = 0 ∧ (t.isl 0).cmd.queue = [] ∧ u.tilesLeft (u.isl 0).prt (u.isl 0).sect = 0 ∧
    (u.isl 0).cmd.queue = [⟨w, .elem⟩] ∧ w.toNat = 2 * 2 ^ 60 :=
  let x : Island := { bound := true, ty := 2, cmd := inPort [⟨0x2000000000000000, .elem⟩] }
  ⟨{ islanded x with islands := [(0, x), (1, { x with todo := 5 })] }, islanded { x with cmd := inPort [] }, islanded x, 0x2000000000000000, by decide +kernel⟩
theorem witness_IslandCommands_marked : ∃ (s : State) (w : Dword) (v : Nat), (s.isl 0).bound = true ∧ (s.isl 0).cur = some (w, v) ∧ (s.isl 0).feedMarked = true :=
  ⟨islanded { isl0 3 islChan [] with feed := inPort [⟨0, .mrk .row⟩] }, _, islChan, rfl, rfl, by decide +kernel⟩
/-- MDRAW of the last row to the scratchpad of the island's unit, to the heap, and to a Holvor window that has not answered. -/
def drawTo (a sp : Nat) : Nat := a + 256 * 2 ^ 128 + (63 + 64) * 2 ^ 160 + sp * 2 ^ 176
def drawing (v : Nat) : State := islanded (isl0 5 v [])
def drawRow (x : Island) (v i : Nat) : List Byte :=
  let ot := outT x.ty.toNat (IslBlock.ofNat v).otype
  (List.range 64).flatMap (fun j => natToBytes (wBytes ot) (x.drawn ot ((IslBlock.ofNat v).row0 + i) j))
def drawOut (s : State) (v : Nat) : State × Option EErr :=
  let b := IslBlock.ofNat v
  State.islWrites 0 b.sp s ((List.range b.cnt).map (fun i => (b.addr + i * b.pitch, drawRow (s.isl 0) v i)))
theorem witness_IslandCommands_draw : ∀ v ∈ [drawTo (mtTile 0 * 2 ^ 21) 1, drawTo 0x10000 0], ∃ (s : State) (w : Dword), (s.isl 0).bound = true ∧ (s.isl 0).cur = some (w, v) ∧
    (s.isl 0).feedMarked = false ∧ w.toNat / 2 ^ 60 = 5 ∧ (IslBlock.ofNat v).chan = false ∧ drawOut s v = ((drawOut s v).1, none) := by
  intro v hv
  refine ⟨drawing v, _, rfl, rfl, rfl, by decide +kernel, ?_, pair_of _ none ?_⟩ <;> revert v <;> decide +kernel
def farDraw : State := { drawing (drawTo 0x50000 0) with ctxs := [(0, { ctx0 with hvwins := [(0, { base := 0x50000, size := 1, rva := 0x10000, tgt := 0x300000007 })] })] }
theorem witness_IslandCommands_draw_waits : ∃ (s : State) (w : Dword) (v : Nat), (s.isl 0).bound = true ∧ (s.isl 0).cur = some (w, v) ∧ (s.isl 0).feedMarked = false ∧ w.toNat / 2 ^ 60 = 5 ∧
    (IslBlock.ofNat v).chan = false ∧ drawOut s v = ((drawOut s v).1, some EErr.absent) :=
  ⟨farDraw, _, drawTo 0x50000 0, rfl, rfl, rfl, by decide +kernel, by decide +kernel, pair_of _ (some EErr.absent) (by decide +kernel)⟩
theorem witness_IslandCommands_draw_home : let s := drawing (drawTo (mtTile 0 * 2 ^ 21) 1)
    let b := IslBlock.ofNat (drawTo (mtTile 0 * 2 ^ 21) 1)
    b.sp = true ∧ 64 * wBytes (outT 2 b.otype) ≤ b.pitch ∧ twf 0 s.mem.sram = true ∧
    ∀ i < b.cnt, spRange s (s.isl 0).prt (s.islUnit 0) (BitVec.ofNat 64 (b.addr + i * b.pitch)) (64 * wBytes (outT 2 b.otype)) = .ok (0, 0 + i * b.pitch) := by decide +kernel
theorem witness_ArmedTile : ∃ (s : State) (n : Nat), (s.isl n).bound = true ∧ (s.isl n).feedMarked = false ∧ (s.isl n).cur = none ∧ (s.isl n).todo ≠ 0 ∧ (s.isl n).pend = [] ∧
    (s.isl n).taken.length = 4096 ∧ 4161 ≤ (s.isl n).draw.credit :=
  ⟨islanded { bound := true, ty := 2, todo := 1, taken := List.replicate 4096 {}, draw := { ({} : OutPort) with credit := 4161 } }, 0, rfl, rfl, rfl, by decide, rfl,
   List.length_replicate .., by decide⟩

/-- A launch from queue 0 of function 0, its first record at 0x10000. -/
def launch0 : Launch := ⟨0, 0, 0x10000, 0, 15, 0⟩
/-- An imposition record: an image of one frame at 0x10080; `deps` dependences at 0x20000. -/
def record0 (deps : Nat) : Nat := 0x10080 + 2 ^ 64 + (0x20000 / 8) * 2 ^ 259 + deps * 2 ^ 312
/-- The end-of-image frame of an image that holds nothing else. -/
def endFrame : Nat := 15 + 2 ^ 32
/-- The machine with the record and the image in memory and its partition in a phase. -/
def sequencing (ph : Phase) (rec deps : Nat) : State :=
  let s := machine []
  { s with mem := { s.mem with hbm := writeBytes (writeBytes [] 0x10000 (natToBytes 64 rec)) 0x10080 (natToBytes 8 endFrame) },
           parts := [(0, { part0 with phase := ph, launch := some launch0, record := BitVec.ofNat 512 (record0 deps) })] }
def seqOf (s : State) (va : Nat) (wo : Bool) (n : Nat) : State × Nat := okOf (s, 0) (seqReads s 0 va wo 0 n)

def depsOf (s : State) : State × Nat :=
  okOf (s, 0) (seqReads s 0 (bits (s.part 0).record.toNat 307 259 * 8) true 0 (bits (s.part 0).record.toNat 319 312))

theorem witness_SequencerSteps_record : ∃ (s t : State) (l : Launch) (v : Nat), (s.part 0).phase = .read ∧ (s.part 0).launch = some l ∧
    seqReads s 0 (l.reca + 64 * (s.part 0).ridx) false 0 8 = .ok (t, v) ∧ recordErrs (s.part 0).ridx v = [] :=
  let s := sequencing .read (record0 0) 0
  ⟨s, (seqOf s 0x10000 false 8).1, launch0, (seqOf s 0x10000 false 8).2, rfl, rfl, ok_pair (s, 0) _ (by decide +kernel), by decide +kernel⟩
theorem witness_SequencerSteps_record_illegal : ∃ (s t : State) (l : Launch) (v : Nat) (e : LErr), (s.part 0).phase = .read ∧ (s.part 0).launch = some l ∧
    seqReads s 0 (l.reca + 64 * (s.part 0).ridx) false 0 8 = .ok (t, v) ∧ leastErr (recordErrs (s.part 0).ridx v) = some e :=
  let s := sequencing .read (record0 0 + 3 * 2 ^ 320) 0
  ⟨s, (seqOf s 0x10000 false 8).1, launch0, (seqOf s 0x10000 false 8).2, (0x31, 0, 0), rfl, rfl, ok_pair (s, 0) _ (by decide +kernel), by decide +kernel⟩
theorem witness_SequencerSteps_dependences : ∃ (s t : State) (v : Nat), (s.part 0).phase = .deps ∧
    seqReads s 0 (bits (s.part 0).record.toNat 307 259 * 8) true 0 (bits (s.part 0).record.toNat 319 312) = .ok (t, v) ∧ bits (s.part 0).record.toNat 319 312 = 1 :=
  let s : State := sequencing .deps 0 1
  let t : State := { s with mem := { s.mem with present := [(0x4000, true)] } }
  ⟨t, (depsOf t).1, (depsOf t).2, rfl, ok_pair (t, 0) _ (by decide +kernel), by decide +kernel⟩
/-- What a read of the sequencer waits at. -/
def waitOf {α : Type} : Except (SeqErr × Nat) α → Option Nat
  | .error (.wait, i) => some i
  | _ => none
theorem wait_of {α : Type} (x : Except (SeqErr × Nat) α) (i : Nat) (h : waitOf x = some i) : x = .error (.wait, i) := by
  rcases x with ⟨e, j⟩ | a
  · cases e <;> simp [waitOf] at h ⊢
    exact h
  · simp [waitOf] at h
theorem witness_SequencerSteps_wait : ∃ (s : State) (i : Nat), (s.part 0).phase = .deps ∧
    seqReads s 0 (bits (s.part 0).record.toNat 307 259 * 8) true 0 (bits (s.part 0).record.toNat 319 312) = .error (.wait, i) :=
  ⟨sequencing .deps 0 1, 0, rfl, wait_of _ _ (by decide +kernel)⟩
/-- An image of six frames: a store frame of one HALT, its task, a queue and a window of the memory tile beside it, an island, and the end. -/
def frames0 : List Nat := [0xffffc040000020000000001, 0x2, 0x800040108, 0x1000000001000000000106, 0x20400200020007, 0x6b10bee6000000060000000f]
/-- The machine that fetches that image. -/
def fetching : State :=
  let s := sequencing .fetch 0 0
  { s with mem := { s.mem with hbm := writeBytes s.mem.hbm 0x10080 (frames0.flatMap (natToBytes 32)) },
           parts := [(0, { s.part 0 with record := BitVec.ofNat 512 (0x10080 + 6 * 2 ^ 64), place := (s.part 0).place.set 0 0x8000000000000000 })] }
def fetchedOf (s : State) : State × List (Nat × Nat) × List Nat := okOf (s, [], []) (fetchFrames s 0 (bits (s.part 0).record.toNat 51 5 * 32) 0 (bits (s.part 0).record.toNat 87 64))
theorem witness_SequencerSteps_image : ∃ (s t : State) (fs : List (Nat × Nat)), (s.part 0).phase = .fetch ∧
    fetchFrames s 0 (bits (s.part 0).record.toNat 51 5 * 32) 0 (bits (s.part 0).record.toNat 87 64) = .ok (t, fs, []) ∧
    leastErr (t.loadErrs (t.part 0) fs (bits (t.part 0).record.toNat 87 64)).2 = none ∧ fs = (List.range 6).zip frames0 ∧
    (imgTasks fs).map (fun x => x.key) = [⟨0, 0, 0, 0⟩] ∧ imgPes fs ≠ [] ∧ imgMts fs ≠ [] ∧ imgIslands fs ≠ [] ∧ twf {} t.mts = true :=
  let s := fetching
  ⟨s, (fetchedOf s).1, (List.range 6).zip frames0, rfl, (ok_of (s, [], []) _ (by decide +kernel)).trans (congrArg Except.ok (pair_of (fetchedOf s) ((List.range 6).zip frames0, []) (by decide +kernel))),
   by decide +kernel, rfl, by decide +kernel⟩
/-- R54, R95, R101 to R103: what the delivery of that image leaves, read off its frames. -/
theorem test_image_delivers : (match exec (.imageFetch 0) fetching with
    | .next t => (t.part 0).phase == .loaded && t.slots.any (fun x => x.st == .idle && x.id == ⟨0, 0, 0, 0⟩) && (t.pes.map (fun e => e.words)) == [[0x0FFFFC04]] &&
        tget queue0 (t.mt 0).regions 1 == { queue0 with lcap := 4 } && (t.isl 0).bound && (t.isl 0).ty == 2 && (t.part 0).owed == [0, 768]
    | _ => false) = true := by decide +kernel
/-- A forme delivered, with the units that owe its drain. -/
def delivered0 (owed : List Nat) (rec : BitVec 512) : State :=
  let s := sequencing .loaded 0 0
  { s with parts := [(0, { s.part 0 with owed := owed, record := rec })] }
theorem witness_SequencerSteps_start : ∃ s : State, (s.part 0).phase = .loaded ∧ (s.part 0).restore = none ∧ (s.part 0).record.extractLsb' 128 128 = 0 ∧
    (s.ctx (s.part 0).ctx).seedNew = [] ∧ (s.part 0).owed ≠ [] ∧ (∃ x ∈ s.slots, x.prt = 0) := ⟨delivered0 [0] 0, by decide +kernel⟩
/-- A forme without a unit, not the last and the last of its launch. -/
theorem witness_SequencerSteps_empty : (∃ s : State, (s.part 0).phase = .loaded ∧ (s.part 0).restore = none ∧ (s.part 0).record.extractLsb' 128 128 = 0 ∧
      (s.ctx (s.part 0).ctx).seedNew = [] ∧ (s.part 0).owed = [] ∧ (s.part 0).toReport = [] ∧ (s.part 0).launch.isSome = true ∧ (s.part 0).preempt = false ∧ (s.part 0).record.getLsbD 96 = false) ∧
    (∃ s : State, (s.part 0).phase = .loaded ∧ (s.part 0).restore = none ∧ (s.part 0).record.extractLsb' 128 128 = 0 ∧
      (s.ctx (s.part 0).ctx).seedNew = [] ∧ (s.part 0).owed = [] ∧ (s.part 0).toReport = [] ∧ (s.part 0).launch.isSome = true ∧ (s.part 0).preempt = false ∧ (s.part 0).record.getLsbD 96 = true) :=
  ⟨⟨delivered0 [] 0, by decide +kernel⟩,
   ⟨delivered0 [] (1 <<< 96), by decide +kernel⟩⟩

/-- The machine with an idle partition and a launch queue whose head slot names the record at 0x10000. -/
def arbitrating (q : Lq) : State :=
  let s := sequencing .idle (record0 0) 0
  { s with mem := { s.mem with hbm := writeBytes s.mem.hbm 0x20000 (natToBytes 4 0x10000), present := [(0x4000, true), (0x4001, true)] }, lqs := [(0, q)] }
theorem witness_ArbiterGrantsTheFirstQueue : ∃ (s t : State), s.badSlot 0 = none ∧ (s.part 0).phase = .idle ∧ s.sys.held = false ∧ s.readyQueues 0 = [(0, 0)] ∧
    (s.lq 0 0).kept = none ∧ t.badSlot 0 = none ∧ (t.part 0).phase = .idle ∧ t.sys.held = false ∧ t.readyQueues 0 = [] :=
  ⟨arbitrating { base := 0x20000, en := true, prod := 1 }, arbitrating { base := 0x20010, en := true, prod := 1 }, by decide +kernel, rfl, rfl, by decide +kernel, rfl,
   by decide +kernel, rfl, rfl, by decide +kernel⟩
theorem witness_ArbiterGrantsTheFirstQueue_kept : ∃ (s : State) (k : Kept), s.badSlot 0 = none ∧ (s.part 0).phase = .idle ∧ s.sys.held = false ∧ s.readyQueues 0 = [(0, 0)] ∧
    (s.lq 0 0).kept = some k :=
  let k : Kept := { ridx := 2, drained := 2, evq := [5], evLost := false, req := ⟨4, 5, 6⟩, snap := none }
  ⟨arbitrating { base := 0x20010, en := true, prod := 1, kept := some k }, k, by decide +kernel, rfl, rfl, by decide +kernel, rfl⟩

/-- The machine with a running launch of queue 0 and queue 1 ready with a priority, at a time. -/
def contended (prio slice : Nat) (pre : Bool) (time : Dword) : State :=
  let k : Kept := { ridx := 0, drained := 0, evq := [], evLost := false, req := ⟨4, 5, 6⟩, snap := none }
  { machine [] with timer := time, parts := [(0, { part0 with pslice := slice, preempt := pre })], lqs := [(0, { en := true, prio := 3 }), (1, { en := true, prio := prio, kept := some k })] }
theorem witness_PreemptionAndCompletion_preempt : ∃ (s t : State) (l : Launch), (s.part 0).launch = some l ∧ twf {} s.parts = true ∧ twf {} s.lqs = true ∧
    (s.part 0).phase = .run ∧ (s.part 0).preempt = false ∧ (∃ y ∈ s.otherReady 0, (s.lq y.1 y.2).prio < (s.lq l.fn l.q).prio) ∧
    (t.part 0).launch = some l ∧ twf {} t.parts = true ∧ twf {} t.lqs = true ∧ (t.part 0).phase = .run ∧ (t.part 0).preempt = false ∧
    (∃ y ∈ t.otherReady 0, (t.lq y.1 y.2).prio = (t.lq l.fn l.q).prio) ∧ (t.part 0).pslice ≠ 0 ∧
    (t.part 0).grantAt.toNat + 16000 * (t.part 0).pslice ≤ t.timer.toNat :=
  ⟨contended 2 0 false 0, contended 3 2 false 32000, ⟨0, 0, 0, 0, 15, 0⟩, rfl, by decide +kernel, by decide +kernel, rfl, rfl, by decide +kernel, rfl, by decide +kernel, by decide +kernel, rfl, rfl,
   by decide +kernel⟩
theorem witness_PreemptionAndCompletion_limit : ∃ (s t : State) (l : Launch), (s.part 0).launch = some l ∧ (s.part 0).phase = .run ∧ (s.part 0).preempt = true ∧
    (s.part 0).preAt.toNat + 16000 * (s.part 0).drlim = s.timer.toNat ∧ (t.part 0).launch = some l ∧ (t.part 0).phase = .run ∧
    t.timer.toNat + 1 = (t.part 0).preAt.toNat + 16000 * (t.part 0).drlim ∧ t.otherReady 0 ≠ [] ∧ (machine []).otherReady 0 = [] ∧
    twf {} s.parts = true ∧ twf {} s.lqs = true ∧ (t.part 0).preempt = true ∧ (s.part 0).formeCus = [0] :=
  ⟨let s := contended 2 0 true 16000000; { s with parts := [(0, { s.part 0 with formeCus := [0] })] }, contended 2 0 true 15999999, ⟨0, 0, 0, 0, 15, 0⟩, rfl, rfl, rfl, by decide +kernel, rfl, rfl, by decide +kernel, by decide +kernel, (by decide +kernel), by decide +kernel, by decide +kernel, rfl, by decide +kernel⟩
/-- A snapshot of a forme without units or islands. -/
def snap0 : Snap := { units := [], islands := [], edges := [], engines := 0, cmds := [], strms := [], sects := Vector.replicate 4 {}, clears := [], record := 0 }
theorem homeBytes_zero (m : Mem) (n : Nat) : ∀ pa k, (∀ i < n, m.homeByte (pa + i) = 0) → m.homeBytes pa (n + k) = List.replicate n 0 ++ m.homeBytes (pa + n) k := by
  induction n with
  | zero => intro pa k _; simp
  | succ n ih =>
    intro pa k h
    have h0 := h 0 (by omega)
    have := ih (pa + 1) k (fun i hi => by have := h (i + 1) (by omega); rwa [show pa + (i + 1) = pa + 1 + i by omega] at this)
    rw [show n + 1 + k = (n + k) + 1 by omega, List.replicate_succ, List.cons_append, show pa + (n + 1) = pa + 1 + n by omega, ← this]
    simp only [Mem.homeBytes]
    rw [show m.homeByte pa = 0 from h0]

theorem crcBit_lt (c : Nat) (h : c < 2 ^ 32) : crcBit c < 2 ^ 32 := by
  unfold crcBit
  split
  · exact Nat.xor_lt_two_pow (by omega) (by decide)
  · omega
theorem crcByte_lt (c : Nat) (b : Byte) (h : c < 2 ^ 32) : crcByte c b < 2 ^ 32 := by
  have h0 : Nat.xor c b.toNat < 2 ^ 32 := Nat.xor_lt_two_pow h (by have := b.isLt; omega)
  simp only [crcByte, List.range, List.range.loop, List.foldl]
  exact crcBit_lt _ (crcBit_lt _ (crcBit_lt _ (crcBit_lt _ (crcBit_lt _ (crcBit_lt _ (crcBit_lt _ (crcBit_lt _ h0)))))))
theorem crc32_lt (bs : List Byte) : crc32 bs < 2 ^ 32 := by
  have : ∀ c, c < 2 ^ 32 → bs.foldl crcByte c < 2 ^ 32 := by
    induction bs with
    | nil => exact fun c h => h
    | cons b bs ih => exact fun c h => ih _ (crcByte_lt c b h)
  exact Nat.xor_lt_two_pow (this _ (by decide)) (by decide)

/-- Memory that holds zeros and, in the last word of a block, a number added to the block's CRC. -/
def blockRam (pa n v : Nat) : Mem := { hbm := writeBytes [] (pa + n) (natToBytes 4 (crc32 (List.replicate n 0) + v)) }
theorem blockRam_block (pa n v : Nat) : crc32 (((blockRam pa n v).homeBytes pa (n + 4)).take n) = crc32 (List.replicate n 0) ∧
    bytesToNat (((blockRam pa n v).homeBytes pa (n + 4)).drop n) = (crc32 (List.replicate n 0) + v) % 2 ^ 32 := by
  have hw : twf (0 : Byte) [] = true := rfl
  have h : (blockRam pa n v).homeBytes pa (n + 4) = List.replicate n 0 ++ (blockRam pa n v).homeBytes (pa + n) 4 := by
    refine homeBytes_zero (blockRam pa n v) n pa 4 (fun i hi => ?_)
    show tget 0 (writeBytes [] (pa + n) (natToBytes 4 (crc32 (List.replicate n 0) + v))) (pa + i) = 0
    rw [Laws.tget_writeBytes _ _ _ _ hw, if_neg (by rw [Laws.natToBytes_length]; omega)]
    rfl
  have h4 : (blockRam pa n v).homeBytes (pa + n) 4 = natToBytes 4 (crc32 (List.replicate n 0) + v) := by
    have := Laws.readBytes_writeBytes (natToBytes 4 (crc32 (List.replicate n 0) + v)) [] (pa + n) hw
    rw [Laws.natToBytes_length] at this
    exact this
  rw [h, h4, List.take_left' List.length_replicate, List.drop_left' List.length_replicate, Laws.bytesToNat_natToBytes]
  exact ⟨rfl, rfl⟩
/-- A save of one block at `pa` is sound when that block ends with its CRC, and bad when it does not. -/
theorem badBlock_one (s : State) (p : Nat) (x : Snap) (pa n v : Nat) (hm : s.mem = blockRam pa n v)
    (hb : blockAddrs (s.part p).savebase x.units.length (x.islands.length + x.engines) = [(pa, n + 4)]) :
    s.badBlock p x = if v % 2 ^ 32 = 0 then none else some pa := by
  unfold State.badBlock
  rw [hb, hm]
  obtain ⟨h1, h2⟩ := blockRam_block pa n v
  have hl := crc32_lt (List.replicate n (0 : Byte))
  simp only [List.find?_cons, List.find?_nil, Nat.add_sub_cancel, h1, h2]
  by_cases hv : v % 2 ^ 32 = 0
  · rw [if_pos hv, show (crc32 (List.replicate n (0 : Byte)) + v) % 2 ^ 32 = crc32 (List.replicate n 0) by omega, bne_self_eq_false]
    rfl
  · rw [if_neg hv, show (crc32 (List.replicate n (0 : Byte)) != (crc32 (List.replicate n 0) + v) % 2 ^ 32) = true from bne_iff_ne.mpr (by omega)]
    rfl

/-- A completion word in a Holvor window, before and after the other package has answered. -/
theorem witness_PreemptionAndCompletion_far : ∀ b ∈ [false, true], ∃ (s : State) (l : Launch), (s.part 0).launch = some l ∧ twf {} s.parts = true ∧ twf {} s.lqs = true ∧ (s.part 0).phase = .ended ∧
    l.cmpl ≠ 0 ∧ (hvTarget (s.ctx (s.part 0).ctx) l.cmpl).isSome = true ∧ s.hvReplies.any (fun r => r.ctx == (s.part 0).ctx && r.va == l.cmpl && r.write) = b := by
  intro b hb
  refine ⟨{ machine [] with parts := [(0, { part0 with phase := .ended, launch := some { launch0 with cmpl := 0x50008 } })], hvReplies := if b then [⟨0, 0x50008, true, 0, 0, 0, []⟩] else [],
                            ctxs := [(0, { ctx0 with hvwins := [(0, { base := 0x50000, size := 1, rva := 0x10000, tgt := 0x300000007 })] })] }, { launch0 with cmpl := 0x50008 }, rfl, rfl, rfl, rfl, by decide, ?_⟩
  revert b
  decide +kernel
/-- A snapshot of a forme of one unit, whose one task stands at pc 3. -/
def snapR : Snap := { snap0 with units := [⟨0, [{ slotOf [(1, 5)] with pc := 3, ins := Vector.replicate 8 (inPort [⟨7, .elem⟩]) }], {}, [], [], [], {}⟩] }
def restoring : State :=
  { machine [] with mem := blockRam 0x10000 49148 0, parts := [(0, { part0 with phase := .loaded, restore := some snapR, savebase := 0x10000, xsavebase := 0x40000 })] }
theorem restoring_sound : restoring.badBlock 0 snapR = none := badBlock_one restoring 0 snapR 0x10000 49148 0 rfl rfl
theorem witness_PreemptionAndCompletion_restore : ∃ (s : State) (l : Launch) (x : Snap) (e : UnitSave) (old y : Slot), (s.part 0).launch = some l ∧ twf {} s.parts = true ∧
    (s.part 0).phase = .loaded ∧ (s.part 0).restore = some x ∧ s.badBlock 0 x = none ∧ x.units = [e] ∧ e.slots = [old] ∧ old.st ≠ .noTask ∧ y ∈ s.slots ∧ y.prt = 0 ∧ y.id = old.id ∧
    s.mem.l1 = [] ∧ twf {} s.mts = true ∧ twf {} s.terns = true ∧ twf 0 s.mem.sram = true ∧ e.mt.split ≤ 16 :=
  ⟨restoring, _, snapR, _, _, restoring.slot, rfl, by decide +kernel, rfl, rfl, restoring_sound, rfl, rfl, by decide, .head _, rfl, rfl, rfl, rfl, rfl, rfl, by decide⟩
/-- The same forme with the image of another unit placed, which context 5 used last. -/
theorem witness_PreemptionAndCompletion_wiped : ∃ (q : Part) (e : UnitSave) (v : Nat) (m : Mt), snapR.units = [e] ∧ v ∈ q.placedUnits ∧ q.unitOfImage e.img ≠ v ∧ m.lastCtx ≠ some q.ctx ∧ e.mt.split ≤ 16 :=
  ⟨{ part0 with map := part0.map.set 0 3 }, _, 1, { lastCtx := some 5 }, rfl, by decide +kernel, by decide +kernel, by decide, by decide⟩
/-- A save of a forme whose only block, an engine's, has lost its CRC. -/
theorem witness_PreemptionAndCompletion_bad : ∃ (s : State) (l : Launch) (x : Snap), (s.part 0).launch = some l ∧ twf {} s.parts = true ∧
    (s.part 0).phase = .loaded ∧ (s.part 0).restore = some x ∧ s.badBlock 0 x = some 0x10000 :=
  let x : Snap := { snap0 with engines := 1 }
  let s : State := { machine [] with mem := blockRam 0x10000 4092 1, parts := [(0, { part0 with phase := .loaded, restore := some x, savebase := 0x10000 })] }
  ⟨s, _, x, rfl, by decide +kernel, rfl, rfl, badBlock_one s 0 x 0x10000 4092 1 rfl rfl⟩
theorem witness_PreemptionAndCompletion_end : ∃ (s t1 : State) (l : Launch) (tr : Tr), (s.part 0).launch = some l ∧ twf {} s.parts = true ∧ twf {} s.lqs = true ∧
    (s.part 0).phase = .ended ∧ l.cmpl ≠ 0 ∧ (hvTarget (s.ctx (s.part 0).ctx) l.cmpl).isSome = false ∧ translate s (s.part 0).seqUnit (s.part 0).ctx l.cmpl = .ok (t1, tr) ∧ permitPage tr l.cmpl .wo false true = .ok () ∧
    t1.mem.isPresent (tr.pa / 8) = false :=
  let s : State := { machine [] with parts := [(0, { part0 with phase := .ended, launch := some { launch0 with cmpl := 0x20008 } })] }
  let x : State × Tr := okOf (s, ⟨0, .mu, false, false, 0⟩) (translate s 0 0 0x20008)
  ⟨s, x.1, _, x.2, rfl, by decide +kernel, by decide +kernel, rfl, by decide +kernel⟩

theorem witness_ClockGrants : ∃ s : State, (s.part 0).launch.isSome = true ∧ (s.floorSum : Int) ≤ s.budget := by
  refine ⟨{ machine [] with parts := [(0, { part0 with floor := ⟨0, 0, 0⟩ })], sys := { ({} : Sys) with pcap := 2 ^ 32, tcap := 2 ^ 32 } }, rfl, ?_⟩
  have h := Config.idlef.isLt
  simp [State.floorSum, State.holding, State.budget, Part.low, Steps.power, part0]
  omega
theorem witness_ClockGrants_none : ∃ s : State, (s.part 0).launch = none ∧ 0 < s.budget := by
  refine ⟨{ machine [] with parts := [(0, { part0 with launch := none })], sys := { ({} : Sys) with pcap := 2 ^ 32, tcap := 2 ^ 32 } }, rfl, ?_⟩
  have h := Config.idlef.isLt
  simp [State.budget]
  omega
theorem witness_ClockGrants_unreachable : ∃ s : State, (s.part 0).launch.isSome = true ∧ s.budget ≤ 0 :=
  ⟨{ machine [] with sys := { ({} : Sys) with pcap := 0, tcap := 0 } }, rfl, by simp [State.budget]⟩
/-- A budget of at most 1 W, and a floor of 2^33 steps. -/
def breached : State :=
  { machine [] with
    parts := [(0, { part0 with floor := ⟨2000, 0, 0⟩, req := ⟨2000, 0, 0⟩ })]
    sys := { ({} : Sys) with pcap := Config.idlef.toNat / 1000 + 1, tcap := Config.idlef.toNat / 1000 + 1 } }
/-- Below the floors, where the free coefficients of the device draw any power at all. -/
theorem witness_ClockGrants_below : ∃ s : State, (s.part 0).launch.isSome = true ∧ 0 < s.budget ∧ ((s.part 0).coef 0 ≠ 0 → s.budget < (s.floorSum : Int)) := by
  have hb : breached.budget = ((Config.idlef.toNat / 1000 + 1) * 1000 : Nat) - (Config.idlef.toNat : Int) := by
    simp only [State.budget, breached, Nat.min_self]
  refine ⟨breached, rfl, by omega, fun hc => ?_⟩
  have hl : breached.holding = [breached.part 0] := rfl
  have hm : (breached.part 0).low.mx = 2000 := by decide
  have hc' : 1 * 2000 ≤ (breached.part 0).coef 0 * 2000 := Nat.mul_le_mul_right _ (Nat.one_le_iff_ne_zero.mpr hc)
  rw [hb, State.floorSum, hl]
  simp only [List.map_cons, List.map_nil, List.foldl_cons, List.foldl_nil, Steps.power, Part.coefs, hm]
  omega

/-- Two tasks linked from port 7 of the one in focus to port 0 of the other. -/
def linked (c : Coord) (x : Slot) (q : InPort) : State :=
  { machine [] with slot := x, others := [{ st := .idle, place := c, ins := (Vector.replicate 8 {}).set 0 q }] }
def sender (c : Coord) (ts : List Tok) : Slot :=
  { slotOf [] with st := .idle, outs := (Vector.replicate 8 {}).set 7 { ({} : OutPort) with bound := true, rate := 2, cap := 4, credit := 2, dst := some (.task c 0), flight := ts } }

theorem witness_TaskFiring : ∃ (s t : State) (c : Coord) (x y : Slot), s.slotAt c = some x ∧ (s.part x.prt).phase = .run ∧ s.canFire x = true ∧
    x.outs[7].bound = true ∧ x.outs[7].cap ≠ 0 ∧ x.outs[7].rate = x.outs[7].credit ∧ t.slotAt c = some y ∧ (t.part y.prt).phase = .run ∧ t.canFire y = false :=
  ⟨linked place1 (sender place1 []) {}, linked place1 { sender place1 [] with st := .firing } {}, ⟨0, 0, 0, 0⟩, _, _, rfl, rfl, by decide +kernel, by decide +kernel, by decide +kernel,
   by decide +kernel, rfl, rfl, by decide +kernel⟩
/-- A control task whose next instruction reads register 1. -/
def filling (x : Slot) : State :=
  { machine [] with slot := { x with ctl := true }, pes := [⟨⟨0, 0, 0, 0⟩, [(encode (.clz lookOps)).getD 0 0], 0⟩] }
theorem witness_RegisterFillBringsTheRegister : ∃ (s : State) (i : Instr), s.slot.ctl = true ∧ s.slot.mayIssue = true ∧ s.fetched = some i ∧ (neededRegs i).contains 1 = true ∧
    s.slot.vcache.length < 32 ∧ s.slot.vcache.any (fun e => e.reg == 1) = false ∧ s.slot.vsaved.getLsbD 1 = false ∧ (s.fill 1).isOk = true :=
  ⟨filling (slotOf []), .clz lookOps, rfl, rfl, by rfl, by decide +kernel⟩
theorem witness_RegisterFillBringsTheRegister_held : ∃ (s : State) (i : Instr), s.slot.ctl = true ∧ s.slot.mayIssue = true ∧ s.fetched = some i ∧ (neededRegs i).contains 1 = true ∧
    s.slot.vcache.any (fun e => e.reg == 1) = true :=
  ⟨filling { slotOf [] with vcache := [⟨1, 5, false⟩] }, .clz lookOps, rfl, rfl, by rfl, by decide +kernel, by decide +kernel⟩
/-- The same task with register 1 written back in this forme, its save words at 0x18000, and memory; and the find of that word. -/
def savedTask (x : Slot) (m : Mem) (c : Ctx) (base : Nat) (rs : List HvReply) : State :=
  { filling { x with vsaved := 2 } with mem := m, ctxs := [(0, c)], parts := [(0, { part0 with rsabase := base })], hvReplies := rs }
def savedMem : Mem := { mtTlb := [(0, tlb0)], hbm := writeBytes [] 0x18008 (natToBytes 8 7) }
def savedAt (m : Mem) (base : Nat) : State := savedTask (slotOf []) m ctx0 base []
def saveFind (s : State) : Except Flt (State × Tr) := translate s s.slotUnit s.slotCtx (s.saveVa 1)
def saveTr (s : State) : State × Tr := okOf (s, ⟨0, .mu, false, false, 0⟩) (saveFind s)
def saveRead (s : State) : Mem × Nat × Bool := (saveTr s).1.mem.l1Read s.slotUnit s.slotCtx (saveTr s).2.pa 8
/-- What the clauses on a register that was written back ask of the task. -/
def Refilled (s : State) : Prop :=
  s.slot.ctl = true ∧ s.slot.mayIssue = true ∧ s.fetched = some (.clz lookOps) ∧ (neededRegs (.clz lookOps)).contains 1 = true ∧ s.slot.vcache.any (fun e => e.reg == 1) = false ∧
    s.slot.vcache.length < 32 ∧ s.slot.vsaved.getLsbD 1 = true
theorem fetched_clz (s : State) (h : (s.fetched == some (.clz lookOps)) = true) : s.fetched = some (.clz lookOps) := eq_of_beq h
theorem witness_RegisterFillBringsTheRegister_saved : ∃ (s t : State) (tr : Tr), Refilled s ∧ hvTarget (s.ctx s.slotCtx) (s.saveVa 1) = none ∧
    translate s s.slotUnit s.slotCtx (s.saveVa 1) = .ok (t, tr) ∧ tr.kind = .mu ∧ tr.r = true ∧ (t.mem.l1Read s.slotUnit s.slotCtx tr.pa 8).2 = (7, false) :=
  let s := savedAt savedMem 0x18000
  ⟨s, (saveTr s).1, (saveTr s).2, ⟨rfl, rfl, fetched_clz s (by decide +kernel), by decide +kernel⟩, by decide +kernel, ok_pair (s, _) (saveFind s) (by decide +kernel), by decide +kernel⟩
/-- Save words on a WO page, on a page without read permission, with an uncorrectable error, and without a translation. -/
theorem witness_RegisterFillBringsTheRegister_stops : ∃ s t u : State, (∀ x ∈ [s, t, u], x.slot.passes (.clz lookOps) = true ∧ x.slot.firstMissing (.clz lookOps) 1 = true ∧
      hvTarget (x.ctx x.slotCtx) (x.saveVa 1) = none ∧ (saveFind x).isOk = true) ∧
    (saveTr s).2.kind = .wo ∧ (saveTr t).2.r = false ∧ (saveRead u).2.2 = true ∧ Refilled s ∧ Refilled t ∧ Refilled u :=
  ⟨savedAt savedMem 0x20000, savedAt savedMem 0x30000, savedAt { savedMem with badLine := [(0x300, true)] } 0x18000, by decide +kernel, by decide +kernel, by decide +kernel, by decide +kernel,
   ⟨rfl, rfl, fetched_clz _ (by decide +kernel), by decide +kernel⟩, ⟨rfl, rfl, fetched_clz _ (by decide +kernel), by decide +kernel⟩, ⟨rfl, rfl, fetched_clz _ (by decide +kernel), by decide +kernel⟩⟩
theorem witness_RegisterFillBringsTheRegister_unmapped : ∃ (s : State) (f : Flt), Refilled s ∧ s.slot.passes (.clz lookOps) = true ∧ s.slot.firstMissing (.clz lookOps) 1 = true ∧
    hvTarget (s.ctx s.slotCtx) (s.saveVa 1) = none ∧ translate s s.slotUnit s.slotCtx (s.saveVa 1) = .error f :=
  let s := savedAt savedMem 0x40000
  ⟨s, errOf { code := 0 } (saveFind s), ⟨rfl, rfl, fetched_clz s (by decide +kernel), by decide +kernel⟩, by decide +kernel, by decide +kernel, by decide +kernel, err_of _ _ (by decide +kernel)⟩
/-- Without a page for its save word, an instruction whose other operand has not come. -/
theorem witness_RegisterFillBringsTheRegister_behind : ∃ (s : State) (i : Instr), s.slot.ctl = true ∧ s.slot.mayIssue = true ∧ s.fetched = some i ∧ (neededRegs i).contains 1 = true ∧
    s.slot.vcache = [] ∧ s.slot.vsaved.getLsbD 1 = true ∧ hvTarget (s.ctx s.slotCtx) (s.saveVa 1) = none ∧ s.slot.passes i = false ∧ ∀ t, s.savedWord 1 ≠ .ok t :=
  let i : Instr := .add { form := .s, d := .reg 0, a := .inp 0, b := .reg 1 }
  let s : State := { savedAt savedMem 0x40000 with pes := [⟨⟨0, 0, 0, 0⟩, [(encode i).getD 0 0], 0⟩], slot := { slotOf [] with ctl := true, vsaved := 2, ins := Vector.replicate 8 (inPort []) } }
  ⟨s, i, rfl, rfl, eq_of_beq (by decide +kernel), by decide +kernel, rfl, by decide +kernel, by decide +kernel, by decide +kernel, fun t => not_ok _ (by decide +kernel) t⟩
/-- A save word in a Holvor window: without an answer, with one, and with a fault. -/
def farSaved (rs : List HvReply) : State :=
  savedTask (slotOf []) savedMem { ctx0 with hvwins := [(0, { base := 0x50000, size := 1, rva := 0x10000, tgt := 0x300000007 })] } 0x50000 rs
theorem witness_RegisterFillBringsTheRegister_remote : ∀ rs ∈ [[], [⟨0, 0x50008, false, 0, 0, 0, [7]⟩], [⟨0, 0x50008, false, 0x23, 0, 0, []⟩]], ∃ s : State, s.hvReplies = rs ∧ Refilled s ∧
    (hvTarget (s.ctx s.slotCtx) (s.saveVa 1)).isSome = true ∧ s.hvReplies.find? (fun r => r.ctx == s.slotCtx && r.va == s.saveVa 1 && r.write == false) = rs.head? ∧
    s.slot.passes (.clz lookOps) = true ∧ s.slot.firstMissing (.clz lookOps) 1 = true := by
  intro rs h
  have e : ∀ rs ∈ [[], [⟨0, 0x50008, false, 0, 0, 0, [7]⟩], [⟨0, 0x50008, false, 0x23, 0, 0, []⟩]], ((farSaved rs).fetched == some (.clz lookOps)) = true := by decide +kernel
  refine ⟨farSaved rs, rfl, ⟨rfl, rfl, fetched_clz _ (e rs h), ?_⟩, ?_⟩ <;> revert rs <;>   decide +kernel
/-- A full cache whose oldest entry is clean, dirty, or dirty with a save word that cannot be written. -/
def fullTask (dirty : Bool) (base : Nat) : State :=
  { filling { slotOf [] with vcache := ⟨9, 4, dirty⟩ :: List.replicate 31 ⟨8, 0, false⟩ } with mem := savedMem, parts := [(0, { part0 with rsabase := base })] }
theorem witness_RegisterFillBringsTheRegister_full : ∀ x ∈ [(false, 0x18000), (true, 0x18000), (true, 0x40000)], ∃ (s : State) (e : VEntry) (es : List VEntry), s.slot.ctl = true ∧
    s.slot.mayIssue = true ∧ s.fetched = some (.clz lookOps) ∧ s.slot.vcache.any (fun e => e.reg == 1) = false ∧ s.slot.vcache = e :: es ∧ 32 ≤ s.slot.vcache.length ∧ e.dirty = x.1 ∧
    s.slot.vsaved.getLsbD 1 = false ∧ ((s.spill e.reg e.val).isOk = true ↔ x.2 = 0x18000) ∧ s.slot.passes (.clz lookOps) = true ∧ s.slot.firstMissing (.clz lookOps) 1 = true := by
  intro x h
  have e : ∀ x ∈ [(false, 0x18000), (true, 0x18000), (true, 0x40000)], ((fullTask x.1 x.2).fetched == some (.clz lookOps)) = true := by decide +kernel
  refine ⟨fullTask x.1 x.2, ⟨9, 4, x.1⟩, List.replicate 31 ⟨8, 0, false⟩, rfl, rfl, fetched_clz _ (e x h), ?_, rfl, ?_, rfl, ?_⟩ <;> revert x <;> decide +kernel
theorem witness_LinkTransfers : ∃ (s : State) (c d : Coord) (x y : Slot) (t : Tok) (ts : List Tok), c ≠ d ∧ s.slotAt c = some x ∧ s.slotAt d = some y ∧
    x.outs[7].dst = some (.task d 0) ∧ x.outs[7].cap ≠ 0 ∧ x.outs[7].flight = t :: ts ∧ t.kind ≠ .mrk .drn ∧ 0 < y.ins[0].freed :=
  ⟨linked place1 (sender place1 [⟨7, .elem⟩]) { ({} : InPort) with freed := 1 }, ⟨0, 0, 0, 0⟩, place1, _, _, ⟨7, .elem⟩, [], by decide, rfl, rfl, by decide +kernel, by decide +kernel, by decide +kernel,
   by decide, by decide +kernel⟩
theorem witness_LinkTransfers_none : ∃ (s : State) (c d : Coord) (x y : Slot), c ≠ d ∧ s.slotAt c = some x ∧ s.slotAt d = some y ∧
    x.outs[7].dst = some (.task d 0) ∧ x.outs[7].cap ≠ 0 ∧ x.outs[7].flight = [] ∧ y.ins[0].freed = 0 :=
  ⟨linked place1 (sender place1 []) {}, ⟨0, 0, 0, 0⟩, place1, _, _, by decide, rfl, rfl, by decide +kernel⟩
theorem witness_LinkTransfers_drn : ∃ (s : State) (c d : Coord) (x y : Slot) (t : Tok) (ts : List Tok), c ≠ d ∧ s.slotAt c = some x ∧ s.slotAt d = some y ∧
    x.outs[7].dst = some (.task d 0) ∧ x.outs[7].cap ≠ 0 ∧ x.outs[7].flight = t :: ts ∧ t.kind = .mrk .drn ∧ x.outs[7].bridges = [] :=
  ⟨linked place1 (sender place1 [⟨0, .mrk .drn⟩]) {}, ⟨0, 0, 0, 0⟩, place1, _, _, ⟨0, .mrk .drn⟩, [], by decide, rfl, rfl, by decide +kernel, by decide +kernel, by decide +kernel,
   rfl, by decide +kernel⟩
/-- DRN on its way to another die, with or without another token of the forme on that bridge. -/
def bridged (ts : List Tok) : State :=
  let x := sender place2 [⟨0, .mrk .drn⟩]
  let o : OutPort := { x.outs[7] with bridges := [(0, 1)] }
  linked place2 { x with outs := (x.outs.set 7 o).set 6 { ({} : OutPort) with bound := true, cap := 4, dst := some (.task place2 1), flight := ts, bridges := [(0, 1), (1, 2)] } } {}
theorem witness_BridgeDrainComesLast : ∃ (s t : State) (c d : Coord) (x y z w : Slot), c ≠ d ∧ s.slotAt c = some x ∧ s.slotAt d = some y ∧
    x.outs[7].dst = some (.task d 0) ∧ x.outs[7].flight = [⟨0, .mrk .drn⟩] ∧ x.outs[7].bridges ≠ [] ∧
    (∀ e ∈ s.partEnds x.prt, ∀ r, s.outAt e = some r → ∀ u ∈ r.flight, u.kind = .mrk .drn) ∧
    t.slotAt c = some z ∧ t.slotAt d = some w ∧ z.outs[7].dst = some (.task d 0) ∧ z.outs[7].flight = [⟨0, .mrk .drn⟩] ∧ z.outs[7].bridges = [(0, 1)] ∧
    (∃ e ∈ t.partEnds z.prt, ∃ r, t.outAt e = some r ∧ (∃ b ∈ r.bridges, b = (0, 1)) ∧ ∃ u ∈ r.flight, u.kind ≠ .mrk .drn) := by
  refine ⟨bridged [], bridged [⟨1, .elem⟩], ⟨0, 0, 0, 0⟩, place2, _, _, _, _, by decide, rfl, rfl, by decide +kernel, by decide +kernel, by decide +kernel, ?_, rfl, rfl, by decide +kernel,
   by decide +kernel, by decide +kernel, .task ⟨0, 0, 0, 0⟩ 6, by decide +kernel, _, rfl, ⟨(0, 1), .head _, rfl⟩, ⟨1, .elem⟩, .head _, by decide⟩
  have h : (((bridged []).partEnds 0).all (fun e => ((((bridged []).outAt e).map (fun r => r.flight.all (fun u => u.kind == .mrk .drn))).getD true))) = true := by decide +kernel
  intro e he r hr u hu
  have := List.all_eq_true.mp h e he
  rw [hr] at this
  simpa using List.all_eq_true.mp this u hu

/-- An elastic stage of one compute unit with its replicas. -/
def staged (x : Stage) (y : Slot) : State := { machine [] with slot := y, mts := [(0, { ({} : Mt) with stages := [(0, x)] })] }
def rep0 (a p : Bool) : Replica := { active := a, park := p, deal := { ({} : OutPort) with credit := 2 } }
def toks (n : Nat) : List Tok := List.replicate n {}
theorem witness_ElasticStages_sample : ∃ (s : State) (o : Nat) (f : Bool) (r : Nat), (s.mt 0).stages.any (fun x => x.1 == 0) = true ∧ (s.stage 0 0).last = some (o, f) ∧
    3 * (s.stage 0 0).cap = 4 * (s.stage 0 0).queue.queue.length ∧ 3 * (s.stage 0 0).cap ≤ 4 * o ∧ (s.stage 0 0).outFull = false ∧
    (List.range (s.stage 0 0).reps.length).find? (fun k => (((s.stage 0 0).reps[k]?).map (fun y => !y.active)).getD false) = some r :=
  ⟨staged { cap := 4, queue := { ({} : InPort) with queue := toks 3 }, last := some (3, false), reps := [rep0 true false, rep0 false false] } (slotOf []), 3, false, 1, rfl, rfl,
   by decide +kernel⟩
/-- Two empty readings, and two full outputs, with two replicas active and a floor of one. -/
theorem witness_ElasticStages_low : (∃ s : State, (s.mt 0).stages.any (fun x => x.1 == 0) = true ∧ (s.stage 0 0).last = some (1, false) ∧ (s.stage 0 0).queue.queue.length = 1 ∧ (s.stage 0 0).cap = 4 ∧
      (s.stage 0 0).reps[1]? = some (rep0 true false) ∧ (s.stage 0 0).floor < (s.stage 0 0).live.length ∧ (s.stage 0 0).reps[2]? = none) ∧
    (∃ s : State, (s.mt 0).stages.any (fun x => x.1 == 0) = true ∧ (s.stage 0 0).last = some (4, true) ∧ (s.stage 0 0).outFull = true ∧
      (s.stage 0 0).reps[1]? = some (rep0 true false) ∧ (s.stage 0 0).floor < (s.stage 0 0).live.length ∧ (s.stage 0 0).reps[2]? = none) ∧
    (∃ s : State, (s.mt 0).stages.any (fun x => x.1 == 0) = true ∧ (s.stage 0 0).last = some (1, false) ∧ (s.stage 0 0).queue.queue.length = 1 ∧ (s.stage 0 0).live.length ≤ (s.stage 0 0).floor) :=
  ⟨⟨staged { cap := 4, queue := { ({} : InPort) with queue := toks 1 }, last := some (1, false), reps := [rep0 true false, rep0 true false] } (slotOf []), rfl, rfl, rfl, rfl, rfl, by decide +kernel, rfl⟩,
   ⟨staged { cap := 4, queue := { ({} : InPort) with queue := toks 4 }, last := some (4, true), leave := some {}, reps := [rep0 true false, rep0 true false] } (slotOf []), rfl, rfl, by decide +kernel, rfl,
     by decide +kernel, rfl⟩,
   ⟨staged { cap := 4, queue := { ({} : InPort) with queue := toks 1 }, last := some (1, false), reps := [rep0 true false] } (slotOf []), rfl, rfl, rfl, by decide +kernel⟩⟩
theorem witness_ElasticStages_deal : ∃ (s : State) (r : Nat) (y : Replica), (s.mt 0).stages.any (fun x => x.1 == 0) = true ∧ (s.stage 0 0).nextDeal = some r ∧
    (s.stage 0 0).reps[r]? = some y ∧ y.need ≤ leading (s.stage 0 0).queue.queue ∧ y.need = y.deal.credit ∧ (s.stage 0 0).last = none ∧ (s.stage 0 0).dealt = [] :=
  ⟨staged { cap := 4, queue := { ({} : InPort) with queue := toks 3 }, reps := [{ rep0 true false with need := 2 }] } (slotOf []), 0, _, rfl, rfl, rfl, by decide +kernel, by decide +kernel, rfl, rfl⟩
theorem witness_ElasticStages_park : ∃ (s : State) (y : Replica), (s.mt 0).stages.any (fun x => x.1 == 0) = true ∧ (s.stage 0 0).reps[0]? = some y ∧ y.active = true ∧
    y.park = true ∧ s.replicaQuiet y = true :=
  ⟨staged { reps := [rep0 true true] } (slotOf []), rep0 true true, rfl, rfl, rfl, rfl, by decide +kernel⟩
/-- The last task of replica 0, whose port 7 leads to the collector. -/
def leaver0 : Slot :=
  { slotOf [] with outs := (Vector.replicate 8 {}).set 7 { ({} : OutPort) with bound := true, dst := some (.coll 0 0 0), counts := [1, 1] } }
theorem witness_ElasticStages_collect : ∃ (s : State) (r n : Nat) (rs ns : List Nat) (y : Replica) (c : Coord) (k : BitVec 3) (p : OutPort) (q : InPort) (out : OutPort),
    (s.mt 0).stages.any (fun x => x.1 == 0) = true ∧ (s.stage 0 0).dealt = r :: rs ∧ (s.stage 0 0).reps[r]? = some y ∧ s.leavePort 0 0 r y = some (c, k, p) ∧ y.coll = some q ∧
    (s.stage 0 0).leave = some out ∧ p.counts = n :: ns :=
  let y : Replica := { rep0 true false with leaver := some ⟨0, 0, 0, 0⟩, coll := some {} }
  ⟨staged { reps := [y], dealt := [0], leave := some {} } leaver0, 0, 1, [], [1], y, ⟨0, 0, 0, 0⟩, 7, leaver0.outs[7], {}, {}, rfl, rfl, rfl, by decide +kernel, rfl, rfl, by decide +kernel⟩

/-- The machine with stream port 0 a node of section 3 that has tiles left. -/
def nodePort (todo : Nat) : State :=
  { machine [] with parts := [(0, { part0 with sects := part0.sects.set 3 { armed := true, rem := 1 } })],
                    mts := [(0, { ({} : Mt) with ports := [(0, { ({} : StreamPort) with node := true, sect := 3, todo := todo })] })] }
theorem witness_DrainSteps_section : ∃ s t : State, (s.part 0).phase = .run ∧ twf {} s.parts = true ∧ ((s.part 0).sect 3).armed = true ∧ ((s.part 0).sect 3).expired = false ∧
    s.sectPorts 0 3 ≠ [] ∧ (∀ k ∈ s.sectPorts 0 3, (s.port k.1 k.2).todo = 0) ∧
    (t.part 0).phase = .run ∧ twf {} t.parts = true ∧ ((t.part 0).sect 3).armed = true ∧ ((t.part 0).sect 3).expired = false ∧ (∃ k ∈ t.sectPorts 0 3, (t.port k.1 k.2).todo ≠ 0) :=
  ⟨nodePort 0, nodePort 1, rfl, by decide +kernel, by decide +kernel, (by decide +kernel), by decide +kernel, by decide +kernel, rfl, by decide +kernel⟩
/-- An armed section that holds no node, and a stream port without a route whose section has expired. -/
theorem witness_DrainSteps_empty : ∃ s t : State, (s.part 0).phase = .run ∧ twf {} s.parts = true ∧ ((s.part 0).sect 2).armed = true ∧ ((s.part 0).sect 2).expired = false ∧ s.sectPorts 0 2 = [] ∧
    s.sectIslands 0 2 = [] ∧ s.sectHeld 0 2 = false ∧ (t.part 0).phase = .run ∧ twf {} t.parts = true ∧ t.endPart (.stream 0 0) = 0 ∧ (t.port 0 0).node = true ∧ (t.port 0 0).drn = false ∧
    (t.port 0 0).todo = 0 ∧ (t.port 0 0).out.bound = false ∧ (t.port 0 0).out.canDrn = true ∧ t.sourceEnds 0 (t.port 0 0).sect = true :=
  let n (x : Bool) : State := { nodePort 0 with parts := [(0, { part0 with sects := (part0.sects.set 3 { armed := true, rem := 1, expired := x }).set 2 { armed := true, rem := 1 } })] }
  ⟨n false, n true, rfl, by decide +kernel⟩
/-- An idle task with DRN at the head of its one input. -/
def drainer : Slot :=
  { sender place1 [] with ins := (Vector.replicate 8 {}).set 0 { ({} : InPort) with bound := true, queue := [⟨0, .mrk .drn⟩] } }
theorem witness_DrainSteps_task : ∃ (s t : State) (c : Coord) (x y : Slot), (s.part 0).phase = .run ∧ twf {} s.parts = true ∧ s.slotAt c = some x ∧ x.prt = 0 ∧ x.st = .idle ∧
    (∃ k : Fin 8, x.ins[k].bound = true) ∧ (∀ k : Fin 8, x.ins[k].bound = true → headDrn x.ins[k].queue = true) ∧
    (∀ k : Fin 8, x.outs[k].bound = true → x.outs[k].promised = 0 ∧ x.outs[k].cap ≠ 0 ∧ 0 < x.outs[k].credit) ∧ (∃ k : Fin 8, x.outs[k].bound = true) ∧
    t.slotAt c = some y ∧ y.prt = 0 ∧ y.st ≠ .idle :=
  ⟨linked place1 drainer {}, machine [], ⟨0, 0, 0, 0⟩, _, _, rfl, by decide +kernel, rfl, rfl, rfl, by decide +kernel, by decide +kernel, by decide +kernel, by decide +kernel, rfl, rfl, by decide⟩
theorem witness_DrainSteps_island : ∃ s : State, (s.part 0).phase = .run ∧ twf {} s.parts = true ∧ s.islandEnds 0 = true ∧ s.islandEnds 1 = false :=
  ⟨islanded { bound := true, feed := { ({} : InPort) with bound := true, queue := [⟨0, .mrk .drn⟩] } }, rfl, by decide +kernel⟩
theorem witness_DrainSteps_unit : ∃ s t : State, (s.part 0).phase = .run ∧ twf {} s.parts = true ∧ (s.part 0).owed.contains 0 = true ∧ s.unitDrained 0 = true ∧
    (t.part 0).phase = .run ∧ twf {} t.parts = true ∧ (t.part 0).owed.contains 0 = true ∧ t.unitDrained 0 = false :=
  let t : State := { machine [] with parts := [(0, { part0 with owed := [0] })] }
  ⟨{ t with slot := { t.slot with st := .retired } }, t, rfl, by decide +kernel, by decide +kernel, by decide +kernel, rfl, by decide +kernel⟩
theorem witness_DrainSteps_report : ∀ b ∈ [false, true], ∃ s : State, (s.part 0).phase = .run ∧ twf {} s.parts = true ∧ (s.part 0).toReport.contains 0 = true ∧ (s.part 0).launch.isSome = true ∧
    (s.part 0).toReport.filter (fun v => v != 0) = [] ∧ (s.part 0).owed = [] ∧ (s.part 0).record.getLsbD 96 = false ∧ (s.part 0).preempt = b := by
  intro b hb
  exact ⟨{ machine [] with parts := [(0, { part0 with toReport := [0], preempt := b })] }, rfl, by revert b; decide +kernel, by revert b; decide +kernel, rfl, by revert b; decide +kernel, rfl, by revert b; decide +kernel, rfl⟩
theorem witness_DrainSteps_more : ∃ s t : State, (s.part 0).phase = .run ∧ twf {} s.parts = true ∧ (s.part 0).toReport.contains 0 = true ∧ (s.part 0).launch.isSome = true ∧
    (s.part 0).owed ≠ [] ∧ (t.part 0).phase = .run ∧ (t.part 0).toReport.contains 0 = true ∧ (t.part 0).toReport.filter (fun v => v != 0) = [] ∧ (t.part 0).owed = [] ∧
    (t.part 0).launch.isSome = true ∧ (t.part 0).record.getLsbD 96 = true :=
  ⟨{ machine [] with parts := [(0, { part0 with toReport := [0], owed := [1] })] }, { machine [] with parts := [(0, { part0 with toReport := [0], record := 1 <<< 96 })] },
   rfl, by decide +kernel, by decide +kernel, rfl, by decide +kernel, rfl, by decide +kernel, by decide +kernel, rfl, rfl, by decide +kernel⟩

/-- An armed section of islands alone that is expired, and one whose islands have tiles left. -/
theorem witness_DrainSteps_islands : ∃ s t : State, (s.part 0).phase = .run ∧ twf {} s.parts = true ∧ ((s.part 0).sect 3).armed = true ∧ ((s.part 0).sect 3).expired = false ∧
    s.sectPorts 0 3 = [] ∧ (s.sectIslands 0 3).filter (fun m => !((s.isl m).cmd.bound || (s.isl m).feed.bound)) = [] ∧ s.sectIslands 0 3 = [0] ∧ (s.isl 0).todo = 0 ∧
    ((t.part 0).sect 3).armed = true ∧ (t.sectIslands 0 3).filter (fun m => !((t.isl m).cmd.bound || (t.isl m).feed.bound)) = [0] ∧ (t.isl 0).todo ≠ 0 :=
  let m (x : Island) : State := { islanded x with parts := [(0, { part0 with sects := part0.sects.set 3 { armed := true, rem := 1 } })] }
  ⟨m { bound := true, sect := 3, feed := { ({} : InPort) with bound := true } }, m { bound := true, sect := 3, todo := 1 }, rfl, by decide +kernel, by decide +kernel, (by decide +kernel), by decide +kernel, by decide +kernel,
   (by decide +kernel), rfl, by decide +kernel, by decide +kernel, by decide⟩
/-- A stream port whose section has expired, bound; and one that has ended. -/
def streamPort (drn : Bool) : State :=
  { machine [] with parts := [(0, { part0 with sects := part0.sects.set 3 { armed := true, rem := 1, expired := true } })],
                    mts := [(0, { ({} : Mt) with ports := [(0, { ({} : StreamPort) with node := true, sect := 3, drn := drn, out := { outPort with flight := [] } })] })] }
theorem witness_DrainSteps_stream : ∃ s t : State, (s.part 0).phase = .run ∧ twf {} s.parts = true ∧ s.endPart (.stream 0 0) = 0 ∧ (s.port 0 0).node = true ∧ (s.port 0 0).drn = false ∧
    (s.port 0 0).todo = 0 ∧ (s.port 0 0).out.canDrn = true ∧ s.sourceEnds 0 (s.port 0 0).sect = true ∧ (s.port 0 0).out.bound = true ∧ t.endPart (.stream 0 0) = 0 ∧ (t.port 0 0).drn = true :=
  ⟨streamPort false, streamPort true, rfl, by decide +kernel⟩
def drnQueue : InPort := { inPort [⟨0, .mrk .drn⟩] with rate := 1 }
theorem witness_DrainSteps_stage : ∃ s t : State, (s.part 0).phase = .run ∧ twf {} s.parts = true ∧ (s.mt 0).stages.any (fun x => x.1 == 0) = true ∧ (s.stage 0 0).drn = false ∧
    headDrn (s.stage 0 0).queue.queue = true ∧ (∀ y ∈ (s.stage 0 0).reps, y.deal.canDrn = true) ∧ (∃ y ∈ (s.stage 0 0).reps, y.deal.bound = true) ∧
    (t.mt 0).stages.any (fun x => x.1 == 0) = true ∧ (t.stage 0 0).drn = true ∧ (t.stage 0 0).leave = some outPort ∧ (t.stage 0 0).queue.queue ≠ [] ∧ outPort.bound = true ∧ outPort.canDrn = true ∧
    (∀ y ∈ (t.stage 0 0).reps, ∀ c, y.coll = some c → c.bound = true → headDrn c.queue = true) ∧ headDrn (({} : Stage).queue.queue) = false :=
  let r : Replica := { active := true, deal := outPort, coll := some drnQueue }
  ⟨staged { queue := drnQueue, leave := some outPort, reps := [r] } (slotOf []), staged { queue := drnQueue, leave := some outPort, reps := [r], drn := true } (slotOf []), rfl, by decide +kernel, rfl, rfl, by decide +kernel,
   by decide +kernel, by decide +kernel, rfl, rfl, rfl, by decide +kernel, rfl, by decide, by intro y hy c hc _; obtain rfl : y = r := List.mem_singleton.mp hy; cases hc; rfl, rfl⟩
/-- A syntax engine's unit with DRN at its one input and an output. -/
def edged (x : Edge) : State := { machine [] with edges := [(832, x)] }
theorem witness_DrainSteps_edge : ∃ s t : State, (s.part 0).phase = .run ∧ twf {} s.parts = true ∧ s.edgeEnds 832 = true ∧ (0, outPort) ∈ (s.edge 832).outs ∧ outPort.bound = true ∧
    t.edgeEnds 832 = false :=
  ⟨edged { ins := [(0, drnQueue)], outs := [(0, outPort)] }, edged { ins := [(0, inPort [])], outs := [(0, outPort)] }, rfl, by decide +kernel, by decide +kernel, .head _, rfl, by decide +kernel⟩
theorem witness_DrainSteps_engines : ∃ s : State, (s.part 0).phase = .run ∧ twf {} s.parts = true ∧ (s.part 0).owed.contains 768 = true ∧ (s.part 0).owed.contains 832 = true ∧
    s.islandDrained 0 = true ∧ s.edgeDrained 832 = true :=
  ⟨{ edged { drn := true, outs := [(0, outPort)] } with islands := [(0, { ({} : Island) with bound := true, drn := true })], parts := [(0, { part0 with owed := [768, 832] })] }, rfl, by decide +kernel⟩
/-- The last report with presence to be cleared at the forme boundary. -/
theorem witness_DrainSteps_clears : ∃ s : State, (s.part 0).phase = .run ∧ twf {} s.parts = true ∧ (s.part 0).toReport.contains 0 = true ∧ (s.part 0).launch.isSome = true ∧
    (s.part 0).toReport.filter (fun v => v != 0) = [] ∧ (s.part 0).owed = [] ∧ s.strms = [] ∧ (∃ c ∈ s.mem.clears, c.1 = 0 ∧ c.2.1 ≤ 5 ∧ 5 < c.2.1 + c.2.2) ∧ s.mem.isPresent 5 = true :=
  ⟨{ machine [] with parts := [(0, { part0 with toReport := [0] })], mem := { present := [(5, true)], clears := [(0, 4, 2)] } }, rfl, by decide +kernel, by decide +kernel, rfl, by decide +kernel, rfl, rfl,
   ⟨(0, 4, 2), .head _, rfl, by decide, by decide⟩, by decide +kernel⟩

end Sys2Proof.Tests

/-! ### Hypotheses met: events, faults, registers, other packages -/

namespace Sys2Proof.Tests

set_option Elab.async false

open Sys2Proof Sys2Proof.Machine Sys2Proof.Claims

/-- A request of the slot in focus that waits at the first word of its scratchpad, and one of another slot. -/
def wait0 : Waiter := { waiter0 with op := spOps, width := 8 }
def wait1 : Waiter := { wait0 with place := place1 }
def waiting (ws : List Waiter) : State := { machine [] with mem := { waits := ws } }
theorem witness_WaitingRequests_done : ∃ (s : State) (c : Coord) (x : Waiter) (vs : List Dword), s.waiterOf c = some x ∧ x.done = some vs ∧ x.err = false ∧
    vs.length = 1 ∧ s.slot.at c = true :=
  ⟨waiting [{ wait0 with done := some [7] }], ⟨0, 0, 0, 0⟩, _, [7], rfl, rfl, rfl, rfl, rfl⟩
theorem witness_WaitingRequests_poisoned : ∃ (s : State) (c : Coord) (x : Waiter), s.waiterOf c = some x ∧ x.done = some [] ∧ x.err = true :=
  ⟨waiting [{ wait0 with done := some [], err := true }], ⟨0, 0, 0, 0⟩, _, rfl, rfl, rfl⟩
theorem witness_WaitingRequests_still : ∃ (s : State) (c : Coord) (x : Waiter), s.waiterOf c = some x ∧ x.done = none ∧ x.refused = none :=
  ⟨waiting [wait0], ⟨0, 0, 0, 0⟩, _, rfl, rfl, rfl⟩
theorem witness_WaitingRequests_refused : ∃ (s t : State) (c : Coord) (x : Waiter), s.waiterOf c = some x ∧ x.refused = some 4096 ∧
    ({ s.mem with waits := s.mem.waits.filter (fun w => w.place != c) } : Mem).hasRoom { x with refused := none } = false ∧
    t.waiterOf c = some x ∧ ({ t.mem with waits := t.mem.waits.filter (fun w => w.place != c) } : Mem).hasRoom { x with refused := none } = true :=
  ⟨waiting ({ wait0 with refused := some 4096 } :: List.replicate 64 wait1), waiting ({ wait0 with refused := some 4096 } :: List.replicate 63 wait1), ⟨0, 0, 0, 0⟩, _, rfl, rfl,
   by decide +kernel, rfl, by decide +kernel⟩
/-- A refused read of the granule at 0x20008, which has come, with and without an uncorrectable error there. -/
def wait2 : Waiter := { wait0 with what := .ldp, addr := 0x20008, refused := some 16 }
def granted (bad : Bool) : State :=
  { machine [] with mem := { waits := [wait2], present := [(0x4001, true)], badLine := if bad then [(0x400, true)] else [] } }
theorem witness_WaitingRequests_retry : ∃ (s t : State) (c : Coord) (x : Waiter), s.waiterOf c = some x ∧ t.waiterOf c = some x ∧ x.refused = some 16 ∧
    ({ s.mem with waits := s.mem.waits.filter (fun w => w.place != c) } : Mem).hasRoom { x with refused := none } = true ∧ x.what = .ldp ∧
    ({ t.mem with waits := t.mem.waits.filter (fun w => w.place != c) } : Mem).hasRoom { x with refused := none } = true ∧
    s.mem.isPresent (x.addr / 8) = true ∧ s.mem.homeBad x.addr = false ∧ t.mem.isPresent (x.addr / 8) = true ∧ t.mem.homeBad x.addr = true ∧ Coherent s.mem :=
  ⟨granted false, granted true, ⟨0, 0, 0, 0⟩, wait2, rfl, rfl, rfl, by decide +kernel, rfl, by decide +kernel, by decide +kernel, (by decide +kernel), by decide +kernel, by decide +kernel, rfl, fun l hl => by cases hl⟩

theorem witness_EvictionWritesBack : ∃ (s : State) (l : Line), Coherent s.mem ∧ s.mem.l1At 0 512 = some l ∧ l.dirty ≠ 0 ∧ s.mem.l2At 512 = some l ∧
    s.mem.l1At 1 512 = none ∧ s.mem.l2At 513 = none :=
  ⟨{ machine [] with mem := cached }, line0, coherent_cached, rfl, by decide, rfl, rfl, rfl⟩
/-- A dirty line of the L1 with an uncorrectable error. -/
def spoiled : Mem := { l1 := [{ line0 with bad := 1 }] }
theorem witness_EvictionWritesBack_bad : ∃ (s : State) (l : Line), Coherent s.mem ∧ s.mem.l1At 0 512 = some l ∧ l.dirty ≠ 0 ∧ l.bad ≠ 0 :=
  ⟨{ machine [] with mem := spoiled }, _, ⟨rfl, fun l hl => by cases hl⟩, rfl, by decide, by decide⟩
theorem witness_EvictionWritesBack_record : ∃ (s : State) (c p : Nat), s.ctxPart c = some p ∧ RingFree s p ∧ twf {} s.parts = true :=
  ⟨machine [], 0, 0, by decide, ⟨rfl, rfl⟩, by decide +kernel⟩

/-- What a translation of the tests gives, or the fault it meets. -/
def trOf (s : State) (va : Nat) : State × Tr := okOf (s, ⟨0, .mu, false, false, 0⟩) (translate s 0 0 va)
def trErr (s : State) (va : Nat) : Flt := errOf { code := 0 } (translate s 0 0 va)
theorem tr_of (s : State) (va : Nat) (h : (translate s 0 0 va).isOk = true) : translate s 0 0 va = .ok ((trOf s va).1, (trOf s va).2) := ok_pair (s, _) _ h
theorem tr_err (s : State) (va : Nat) (h : (translate s 0 0 va).isOk = false) : translate s 0 0 va = .error (trErr s va) := err_of _ _ h
theorem witness_WalksAndInvalidations_walk : ∃ (s t : State) (tr : Tr) (f : Flt), translate s 0 0 (0x20008 : Dword).toNat = .ok (t, tr) ∧
    translate s 0 0 (0x40000 : Dword).toNat = .error f :=
  ⟨machine [], (trOf (machine []) 0x20008).1, (trOf (machine []) 0x20008).2, trErr (machine []) 0x40000, tr_of _ _ (by decide +kernel), tr_err _ _ (by decide +kernel)⟩
/-- A package whose boot has failed. -/
def failed : State := { machine [] with sys := { ({} : Sys) with stage := 2, bootErr := 2 } }
theorem witness_WalksAndInvalidations_invalidate : ∃ (s : State) (v w : Dword), s.sys.tlbBusy = some v ∧ s.invPending v = false ∧ twf [] s.mem.mtTlb = true ∧ twf [] s.mem.dieTlb = true ∧
    s.sys.tlbHeld = [w] ∧ (machine []).sys.tlbBusy = none ∧ s.deaf = false ∧ failed.deaf = true :=
  ⟨{ machine [] with sys := { ({} : Sys) with tlbBusy := some 0x250, tlbHeld := [1] } }, 0x250, 1, rfl, by decide +kernel⟩

end Sys2Proof.Tests

namespace Sys2Proof.Tests

set_option Elab.async false

open Sys2Proof Sys2Proof.Machine Sys2Proof.Claims

/-- A command of the slot in focus that owes its token to port 0, and the machine with it at its engine. -/
def cmd0 (k : CmdKind) : Cmd := { id := 3, place := ⟨0, 0, 0, 0⟩, prt := 0, unit := 0, port := some 0, pc := 0, kind := k, block := [] }
def serving (k : CmdKind) : State := { machine [] with cmds := [cmd0 k] }
theorem inService_serving (k : CmdKind) : InService (serving k) (cmd0 k) 0 := ⟨rfl, rfl, rfl, rfl, rfl⟩
/-- The machine whose ring of one slot is being filled, with a command in hand. -/
def fillingRing (k : CmdKind) : State :=
  { serving k with mts := [(0, { rings := [(0, { handle := some ring1 })], side := [(0, { st := .filling })] })] }
theorem witness_EngineCommands_copy : ∃ (s : State) (c : Cmd) (dst src : Dword) (n du d su o : Nat), InService s c 0 ∧ c.kind = .cpy dst src n true true true false ∧
    s.cmdSp c src n = .ok (su, o) ∧ s.cmdSp c dst n = .ok (du, d) ∧ s.mem.spBad su o n = false ∧ twf 0 s.mem.sram = true ∧
    s.cmdSp c dst 0 = .ok (du, d) ∧ (s.mt du).fillingSlot d = some (ring1, 0) ∧ s.mem.waits = [] ∧ twf {} s.mts = true ∧ twf {} (s.mt du).side = true :=
  ⟨fillingRing (.cpy home (home + 256) 3 true true true false), cmd0 (.cpy home (home + 256) 3 true true true false), home, home + 256, 3, 0, 0, 0, 256, ⟨rfl, rfl, rfl, rfl, rfl⟩, rfl,
   by decide +kernel, by decide +kernel, (by decide +kernel), by decide +kernel,
   by decide +kernel, (by decide +kernel), rfl, by decide +kernel, by decide +kernel⟩
/-- What an engine reads. -/
def engOf (s : State) (va n : Nat) : State × List Byte × List Bool := okOf (s, [], []) (engRead s 0 0 va n)
/-- Copies of 12 bytes out of memory, into it and within it; the heap of context 0 lies at 0x10000. -/
def cpyIn : CmdKind := .cpy home 0x10004 12 true false false false
def cpyOut : CmdKind := .cpy 0x10004 home 12 false true false false
def cpyMem : CmdKind := .cpy 0x10014 0x10004 12 false false false false
theorem witness_EngineCommands_memory : ∃ (s : State) (c : Cmd) (dst src : Dword) (n du d : Nat) (t1 : State) (bs : List Byte) (bad : List Bool), InService s c 0 ∧
    c.kind = .cpy dst src n true false false false ∧ engRead s c.unit 0 src.toNat n = .ok (t1, bs, bad) ∧ t1.cmdSp c dst n = .ok (du, d) ∧ bad.any id = false :=
  ⟨serving cpyIn, cmd0 cpyIn, home, 0x10004, 12, 0, 0, (engOf (serving cpyIn) 0x10004 12).1, (engOf (serving cpyIn) 0x10004 12).2.1, (engOf (serving cpyIn) 0x10004 12).2.2, inService_serving _, rfl,
   ok_triple (machine [], [], []) _ (by decide +kernel), by decide +kernel, by decide +kernel⟩
theorem witness_EngineCommands_store : ∃ (s : State) (c : Cmd) (dst src : Dword) (n su o : Nat) (t1 : State), InService s c 0 ∧
    c.kind = .cpy dst src n false true false false ∧ s.cmdSp c src n = .ok (su, o) ∧ s.mem.spBad su o n = false ∧
    engWrite s c.unit 0 dst.toNat (readBytes s.mem.sram (spAddr su o) n) = (t1, none) :=
  ⟨serving cpyOut, cmd0 cpyOut, 0x10004, home, 12, 0, 0, _, inService_serving _, rfl, by decide +kernel, by decide +kernel, pair_of _ none (by decide +kernel)⟩
theorem witness_EngineCommands_move : ∃ (s : State) (c : Cmd) (dst src : Dword) (n : Nat) (t1 t2 : State) (bs : List Byte) (bad : List Bool), InService s c 0 ∧
    c.kind = .cpy dst src n false false false false ∧ engRead s c.unit 0 src.toNat n = .ok (t1, bs, bad) ∧ bad.any id = false ∧
    engWrite t1 c.unit 0 dst.toNat bs = (t2, none) :=
  ⟨serving cpyMem, cmd0 cpyMem, 0x10014, 0x10004, 12, (engOf (serving cpyMem) 0x10004 12).1, _, (engOf (serving cpyMem) 0x10004 12).2.1, (engOf (serving cpyMem) 0x10004 12).2.2, inService_serving _, rfl,
   ok_triple (machine [], [], []) _ (by decide +kernel), by decide +kernel, pair_of _ none (by decide +kernel)⟩
theorem witness_EngineCommands_others : ∃ (s : State) (c : Cmd), InService s c 0 ∧ c.kind = .sxfeed 0x10000 0x10040 16 true := ⟨_, _, inService_serving _, rfl⟩
/-- What a read of the ternary engine brings. -/
def ternOf (s : State) (c : Cmd) (a : Dword) (n : Nat) : List Byte := okOf [] (s.ternRead c a n)
/-- TCHUCK of a block of zeros, and of one whose first byte is no group of five trits. -/
def chucking (bs : List Byte) : State := { serving (.tchuck home) with mem := { (machine []).mem with sram := writeBytes [] 0 bs } }
theorem witness_EngineCommands_chuck : ∃ (s t : State) (c : Cmd) (a : Dword) (bs cs : List Byte), InService s c 0 ∧ InService t c 0 ∧ c.kind = .tchuck a ∧ s.ternFirst c = true ∧
    s.ternRead c a 205 = .ok bs ∧ twf {} s.terns = true ∧ (∀ x ∈ bs, x.toNat < 243) ∧ t.ternFirst c = true ∧ t.ternRead c a 205 = .ok cs ∧ twf {} t.terns = true ∧
    243 ≤ (cs.getD 0 0).toNat :=
  ⟨chucking [], chucking [243], cmd0 (.tchuck home), home, ternOf (chucking []) (cmd0 (.tchuck home)) home 205, ternOf (chucking [243]) (cmd0 (.tchuck home)) home 205,
   ⟨rfl, rfl, rfl, rfl, rfl⟩, ⟨rfl, rfl, rfl, rfl, rfl⟩, rfl, by decide +kernel, ok_of [] _ (by decide +kernel), by decide +kernel, by decide +kernel, by decide +kernel, ok_of [] _ (by decide +kernel),
   by decide +kernel, by decide +kernel⟩
theorem witness_EngineCommands_feed : ∃ (s : State) (c : Cmd) (a : Dword) (bs : List Byte), InService s c 0 ∧ c.kind = .tfeed a 31 1 true ∧ s.ternFirst c = true ∧
    s.ternRead c a (32 * 1) = .ok bs ∧ twf 0 (s.tern c.unit).acc = true ∧ twf {} s.terns = true :=
  ⟨serving (.tfeed home 31 1 true), cmd0 (.tfeed home 31 1 true), home, ternOf (serving (.tfeed home 31 1 true)) (cmd0 (.tfeed home 31 1 true)) home (32 * 1), inService_serving _, rfl, by decide +kernel,
   ok_of [] _ (by decide +kernel), by decide +kernel, by decide +kernel⟩
theorem witness_EngineCommands_draw : ∃ (s : State) (c : Cmd) (a : Dword) (u o : Nat), InService s c 0 ∧ c.kind = .tdraw a 31 1 true ∧ s.ternFirst c = true ∧
    s.cmdSp c a (128 * 1) = .ok (u, o) ∧ twf 0 s.mem.sram = true ∧ twf 0 (s.tern c.unit).acc = true ∧ twf {} s.terns = true :=
  ⟨serving (.tdraw home 31 1 true), cmd0 (.tdraw home 31 1 true), home, 0, 0, inService_serving _, rfl, by decide +kernel, by rfl, by decide +kernel⟩
/-- How a command ends that is not performed: 0 it waits, or its fault's code. -/
def cmdStop : Except EErr State → Option Nat
  | .ok _ => none
  | .error .absent => some 0
  | .error (.flt f) => some f.code
theorem flt_of (x : Except EErr State) (c : Nat) (hc : c ≠ 0) (h : cmdStop x = some c) : ∃ f, x = .error (.flt f) ∧ f.code = c := by
  rcases x with (_ | f) | a
  · simp [cmdStop] at h; exact absurd h.symm hc
  · simp [cmdStop] at h; exact ⟨f, rfl, h⟩
  · simp [cmdStop] at h
def isAbsent : Except EErr State → Bool
  | .error .absent => true
  | _ => false
theorem absent_of (x : Except EErr State) (h : isAbsent x = true) : x = .error .absent := by
  rcases x with (_ | f) | a
  · rfl
  · cases h
  · cases h
theorem witness_EngineCommands_wait : ∃ (s : State) (c : Cmd), InService s c 0 ∧ doCmd s c = .error .absent :=
  ⟨{ machine [] with cmds := [{ cmd0 (.tchuck home) with id := 1, port := none }, cmd0 (.tfeed home 31 1 true)] }, cmd0 (.tfeed home 31 1 true), ⟨rfl, rfl, rfl, rfl, rfl⟩,
   absent_of _ (by decide +kernel)⟩
theorem witness_EngineCommands_fault : ∃ (s : State) (c : Cmd) (f : Flt), InService s c 0 ∧ doCmd s c = .error (.flt f) ∧ fltClass f.code = 2 := by
  obtain ⟨f, h, hf⟩ := flt_of (doCmd (serving (.tfeed 0 31 1 true)) (cmd0 (.tfeed 0 31 1 true))) 0x21 (by decide) (by decide +kernel)
  exact ⟨_, _, f, inService_serving _, h, by rw [hf]; rfl⟩


end Sys2Proof.Tests

namespace Sys2Proof.Tests

set_option Elab.async false

open Sys2Proof Sys2Proof.Machine Sys2Proof.Claims

theorem witness_SuspendAndResume : ∃ (s : State) (f : Flt) (v w : Dword), fltClass f.code = 0 ∧ s.slot.ctl = false ∧ s.slot.st = .firing ∧ RingFree s s.slot.prt ∧
    twf {} s.parts = true ∧ s.others = [] ∧ (s.part s.slot.prt).restore = none ∧ s.lqs = [] ∧ v.setWidth 32 = (s.part s.slot.prt).ring.head ∧ w.setWidth 32 ≠ (s.part s.slot.prt).ring.head ∧ s.deaf = false :=
  ⟨machine [], { code := 0x01 }, 0, 1, rfl, rfl, rfl, ⟨rfl, rfl⟩, by decide +kernel, rfl, rfl, rfl, rfl, by decide +kernel⟩
theorem witness_SuspendAndResume_deaf : ∃ (s : State) (f : Flt), fltClass f.code = 0 ∧ s.slot.ctl = false ∧ s.slot.st = .firing ∧ RingFree s s.slot.prt ∧ twf {} s.parts = true ∧ s.deaf = true :=
  ⟨failed, { code := 0x01 }, rfl, rfl, rfl, ⟨rfl, rfl⟩, by decide +kernel⟩
/-- The same with a request that waits, whose instruction had consumed a token at port 0. -/
def tookOne : Waiter := { wait0 with took := [[⟨5, .elem⟩]] }
theorem witness_SuspendAndResume_waiting : ∃ (s : State) (f : Flt), fltClass f.code = 0 ∧ s.slot.ctl = false ∧ s.slot.st = .firing ∧ RingFree s s.slot.prt ∧
    twf {} s.parts = true ∧ s.mem.waits.filter (fun w => w.place == s.slot.place) = [tookOne] :=
  ⟨{ waiting [tookOne] with slot := { slotOf [] with busy := true } }, { code := 0x01 }, rfl, rfl, rfl, ⟨rfl, by decide +kernel⟩, by decide +kernel, by decide +kernel⟩
/-- The machine with a partition's ring that holds one record still unread. -/
def ringing (r : FRing) : State := { machine [] with parts := [(0, { part0 with ring := r })], sys := { ({} : Sys) with dlog := r } }
theorem witness_FaultRingRegisters : ∃ (s : State) (v w : Dword), twf {} s.parts = true ∧ (s.part 0).ring.held = [] ∧ s.sys.dlog = (s.part 0).ring ∧
    (v.setWidth 32 - (s.part 0).ring.tail).toNat = ((s.part 0).ring.head - (s.part 0).ring.tail).toNat ∧ ((s.part 0).ring.head - (s.part 0).ring.tail).toNat ≤ 2 ^ (s.part 0).ring.n ∧
    ¬(w.setWidth 32 - (s.part 0).ring.tail).toNat ≤ ((s.part 0).ring.head - (s.part 0).ring.tail).toNat ∧ s.deaf = false ∧ failed.deaf = true :=
  ⟨ringing { head := 0, tail := 0xFFFFFFFF }, 0, 1, by decide +kernel, rfl, rfl, by decide +kernel⟩
theorem witness_VfResetClearsTheFunction : ∃ (s : State) (f p : Nat), s.deaf = false ∧ failed.deaf = true ∧ twf {} s.parts = true ∧ twf {} s.lqs = true ∧ (∀ w, (s.rwin w).on = false) ∧ (s.part p).en = true ∧ (s.part p).fn = f ∧
    (∀ n, n < 8 → (s.lq f n).prod = (s.lq f n).head) ∧ (∀ x ∈ s.mem.l1, x.ctx ∈ s.ctxsOf f) ∧ s.mem.l1 = [line0] ∧ 0 ∈ s.ctxsOf f :=
  ⟨{ machine [] with mem := cached }, 0, 0, rfl, rfl, by decide +kernel, rfl, fun _ => (by decide +kernel : ({} : RedWin).on = false), rfl, rfl, fun _ _ => rfl, by decide +kernel, rfl, by decide +kernel⟩
theorem witness_UnitErrorsFence : ∃ s t : State, (∀ p, s.holder 0 = some p → (s.part p).phase = .idle) ∧ twf {} s.parts = true ∧ s.holder 0 = some 0 ∧ (s.unitSt 0).fenced = false ∧
    8 ≤ ((s.unitSt 0).errors.filter (fun e => s.timer.toNat < e + 16 * 10 ^ 9) ++ [s.timer.toNat]).length ∧
    (t.unitSt 0).fenced = true ∧ (t.unitSt 0).absent = false ∧ twf {} t.sys.units = true ∧ t.deaf = false := by
  refine ⟨{ machine [] with parts := [(0, { part0 with phase := .idle })], sys := { ({} : Sys) with units := [(0, { errors := List.replicate 7 0 })] } },
    { machine [] with sys := { ({} : Sys) with units := [(0, { fenced := true })] } }, ?_, by decide +kernel⟩
  intro p hp
  have h0 : p = 0 := by
    have : State.holder { machine [] with parts := [(0, { part0 with phase := .idle })], sys := { ({} : Sys) with units := [(0, { errors := List.replicate 7 0 })] } } 0 = some 0 := by decide +kernel
    exact (Option.some.inj (this.symm.trans hp)).symm
  subst h0; rfl

/-- The machine once its functions stand on the links. -/
def booted : State := { machine [] with sys := { ({} : Sys) with stage := 5 } }
theorem witness_deaf : failed.deaf = true ∧ ({ booted with sys := { booted.sys with held := true } } : State).deaf = true ∧ booted.deaf = false := by decide +kernel
theorem witness_RegisterWrites : ∃ (s t : State) (v w : Dword), s.presented = true ∧ s.ctxResident 0 = true ∧ (s.ctxsOf 0)[0]? = some 0 ∧ v.toNat % 2 ^ 14 = 10 ∧ w.toNat % 2 ^ 14 = 9 ∧
    t.presented = false ∧ s.ctxResident 1 = false := ⟨booted, machine [], 10, 9, by decide +kernel, by decide +kernel, by decide +kernel, by decide, by decide, by decide +kernel, by decide +kernel⟩
/-- Offsets that no register and that BOOTST occupies, and a boot that has failed. -/
theorem witness_RegisterWrites_reads : ∃ (s t : State) (r : Reg), s.presented = true ∧ s.regAt 0 0x800000 = none ∧ s.regAt 0 0 = some r ∧ t.presented = false ∧ t.sys.bootErr ≠ 0 :=
  ⟨booted, { machine [] with sys := { ({} : Sys) with stage := 2, bootErr := 2 } }, .pkg 0, by decide +kernel, by decide +kernel, by decide +kernel, by decide +kernel, by decide⟩
/-- Function 5 with a context. -/
theorem witness_RegisterWrites_vf : ∃ s : State, s.presented = true ∧ (s.ctxsOf 5)[0]? = some 0 :=
  ⟨{ booted with ctxs := [(0, { ctx0 with fn := 5 })] }, by decide +kernel, by decide +kernel⟩
/-- Eight contexts of function 5. -/
def eight : Tbl Ctx := (List.range 8).map (fun i => (i, { ctx0 with fn := 5 }))
theorem witness_OwnershipRegisters_context : ∃ (s : State) (v w x : Dword), v.getLsbD 63 = true ∧ (s.ctx 8).en = false ∧ v.toNat % 2 ^ 10 = 5 ∧
    ((s.ctxsOf 5).filter (fun d => d != 8)).length = 8 ∧ (s.ctx 7).en = true ∧ ((s.ctxsOf 5).filter (fun d => d != 7)).length = 7 ∧ w.getLsbD 63 = false ∧
    x.getLsbD 63 = true ∧ x.toNat % 2 ^ 10 < 2 ∧ s.deaf = false :=
  ⟨{ booted with ctxs := eight }, 0x8000000000000005, 5, 0x8000000000000001, by decide +kernel⟩
theorem witness_OwnershipRegisters_units : ∃ s t : State, (s.part 0).isBusy = true ∧ t.deaf = false ∧ (t.part 0).isBusy = false ∧ twf {} t.parts = true ∧ t.parts.all (fun x => x.1 == 0 || !x.2.has 0) = true :=
  ⟨booted, { booted with parts := [(0, { part0 with phase := .idle, launch := none })] }, by decide +kernel⟩
theorem witness_HostAccesses_reserve : ∃ s t : State, s.presented = true ∧ t.presented = false ∧ (s.lq 0 0).full = false ∧ (s.lq 0 1).full = true :=
  ⟨{ booted with lqs := [(0, { prod := 15 }), (1, { prod := 16 })] }, machine [], by decide +kernel⟩
theorem witness_HostAccesses_physical : ∃ (s : State) (off : Nat) (data : List Byte), s.presented = true ∧ (tget 0 s.sys.pfwin 0).getLsbD 1 = false ∧
    (tget 0 s.sys.pfwin 0).toNat / 2 ^ 30 % 2 ^ 22 * 2 ^ 30 + off + data.length = 2 ^ 39 ∧ off + data.length ≤ 2 ^ 39 ∧
    (∀ i, i < data.length → s.mem.homeBad ((tget 0 s.sys.pfwin 0).toNat / 2 ^ 30 % 2 ^ 22 * 2 ^ 30 + off + i) = false) :=
  ⟨{ booted with sys := { booted.sys with pfwin := [(0, 0x40000000)] } }, 2 ^ 39 - 2 ^ 30 - 3, [1, 2, 3], by decide +kernel, by decide +kernel, by decide +kernel, by decide, by decide +kernel⟩
/-- Reads of a physical address: of the last bytes, of bytes past the end of memory, and past the window; and of a line with an uncorrectable error. -/
theorem witness_HostAccesses_physical_reads : ∃ s t : State, (∀ x ∈ [s, t], x.presented = true ∧ (tget 0 x.sys.pfwin 0).getLsbD 1 = false ∧ (tget 0 x.sys.pfwin 0).toNat / 2 ^ 30 % 2 ^ 22 = 511) ∧
    (511 * 2 ^ 30 + (2 ^ 30 - 3) + 3 ≤ 2 ^ 39 ∧ ∀ i, i < 3 → s.mem.homeBad (511 * 2 ^ 30 + (2 ^ 30 - 3) + i) = false) ∧ (∀ i, i < 8 → t.mem.homeBad (511 * 2 ^ 30 + i) = true) ∧
    ¬(511 * 2 ^ 30 + (2 ^ 30 - 3) + 4 ≤ 2 ^ 39) ∧ 2 ^ 39 < (2 ^ 39 - 3) + 4 :=
  ⟨{ booted with sys := { booted.sys with pfwin := [(0, 0x7FC0000000)] } }, { booted with mem := { badLine := [(511 * 2 ^ 23, true)] }, sys := { booted.sys with pfwin := [(0, 0x7FC0000000)] } }, by decide +kernel⟩
/-- Reads through the tables of context 0: of a clean and of a poisoned word, of one without read permission, of an absent granule and without a translation. -/
def hosting (bad : Tbl Bool) : State := { booted with mem := { mtTlb := [(0, tlb0)], badLine := bad }, sys := { booted.sys with pfwin := [(0, 2)] } }
theorem coherent_plain (m : Mem) (h1 : m.l2 = []) (h2 : twf 0 m.hbm = true) : Coherent m := ⟨h2, fun l hl => by rw [h1] at hl; cases hl⟩
theorem witness_HostAccesses_virtual : ∃ s t : State, (∀ x ∈ [s, t], x.presented = true ∧ (∀ a ∈ [0x10078, 0x30000, 0x20008, 0x40000], a + 8 ≤ barSize 0 ∧ x.barTarget 0 a = .inr (0, a) ∧
      hvTarget (x.ctx 0) a = none ∧ a % 8 + 8 ≤ 8)) ∧
    (∃ u tr, translate s 0 0 0x10078 = .ok (u, tr) ∧ tr.r = true ∧ tr.kind ≠ .wo ∧ Coherent u.mem ∧ u.mem.homeBad tr.pa = false) ∧
    (∃ u tr, translate t 0 0 0x10078 = .ok (u, tr) ∧ tr.r = true ∧ tr.kind ≠ .wo ∧ u.mem.homeBad tr.pa = true) ∧
    (∃ u tr, translate s 0 0 0x30000 = .ok (u, tr) ∧ tr.r = false) ∧ (∃ u tr, translate s 0 0 0x20008 = .ok (u, tr) ∧ tr.kind = .wo ∧ u.mem.isPresent (tr.pa / 8) = false) ∧
    ∃ e, translate s 0 0 0x40000 = .error e :=
  ⟨hosting [], hosting [(512, true)], by decide +kernel,
   ⟨_, _, tr_of (hosting []) 0x10078 (by decide +kernel), by decide +kernel, by decide +kernel, coherent_plain _ (by decide +kernel) (by decide +kernel), by decide +kernel⟩,
   ⟨_, _, tr_of (hosting [(512, true)]) 0x10078 (by decide +kernel), by decide +kernel⟩, ⟨_, _, tr_of (hosting []) 0x30000 (by decide +kernel), by decide +kernel⟩,
   ⟨_, _, tr_of (hosting []) 0x20008 (by decide +kernel), by decide +kernel⟩, ⟨_, tr_err (hosting []) 0x40000 (by decide +kernel)⟩⟩
theorem witness_HostAccesses_once : ∃ (s t : State) (off : Nat) (data : List Byte) (tr : Tr), s.presented = true ∧ off + 8 ≤ barSize 0 ∧ s.barTarget 0 off = .inr (0, 0x20008) ∧
    hvTarget (s.ctx 0) 0x20008 = none ∧ translate s 0 0 0x20008 = .ok (t, tr) ∧ data.length = 8 ∧ tr.w = true ∧ tr.kind = .wo ∧ t.mem.isPresent (tr.pa / 8) = false ∧ twf 0 t.mem.hbm = true :=
  let s : State := { booted with sys := { booted.sys with pfwin := [(0, 2)] } }
  let x : State × Tr := okOf (s, ⟨0, .mu, false, false, 0⟩) (translate s 0 0 0x20008)
  ⟨s, x.1, 0x20008, natToBytes 8 5, x.2, by decide +kernel, by decide, by decide +kernel, by decide +kernel, ok_pair (s, _) _ (by decide +kernel), by decide, by decide +kernel⟩

/-- No forme resident, the timer at 5, link 0 up and locked to a peer of the same epoch. -/
def idleAt (v : Dword) : State := { machine [] with parts := [], timer := v, sys := { ({} : Sys) with links := [(0, ⟨true, false, true, 0, 0⟩)] } }
theorem witness_TimerRegisters : ∃ (s t u : State) (v w x : Dword), s.resident = false ∧ v = s.timer ∧ s.timer.toNat ≤ w.toNat ∧ w ≠ s.timer ∧ x.toNat < s.timer.toNat ∧
    (∀ n, (tget {} s.sys.links n : HvLink).lock = true → (tget {} s.sys.links n : HvLink).peer = s.sys.tepoch) ∧ s.allLocked = true ∧
    (0 : Dword).toNat % 2 ^ 48 * (16 * 10 ^ 9) ≤ 7 ∧ 7 < (1 : Dword).toNat % 2 ^ 48 * (16 * 10 ^ 9) ∧ 7 - 0 ≤ 16 * 2 ^ 60 ∧ t.resident = true ∧ u.timer = BitVec.allOnes 64 ∧ (∀ y ∈ [s, t, u], y.deaf = false) := by
  refine ⟨idleAt 5, machine [], idleAt (BitVec.allOnes 64), 5, 6, 4, by decide +kernel, rfl, by decide, by decide, by decide, ?_, by decide +kernel, by decide, by decide, by decide, by decide +kernel, rfl, by decide +kernel⟩
  intro n h
  rcases n with _ | n
  · rfl
  · cases h
/-- A slot that owes 3 units of class 5. -/
def owing : State := with' [] (fun x => x.owe 5 3)
theorem witness_StaticEnergy : ∃ s : State, twf {} s.ctxs = true ∧ s.slot.owed = [(5, 3)] ∧ s.partCtxs = [0] ∧ 1000 * (s.ctx 0).nj + (s.ctx 0).pj + 3 * s.sys.weight 5 < 1000 * 2 ^ 48 ∧
    (((s.slots.filter (fun x => (s.part x.prt).ctx == 0)).flatMap (fun x => x.owed)).map (fun e => e.2 * s.sys.weight e.1)).sum + 1000 * s.staticNj 0 < 1000 * 2 ^ 48 := by
  have hw : owing.sys.weight 5 < 2 ^ 16 := (Config.enwt 5).isLt
  have hs : owing.staticNj 0 < 2 ^ 19 := Nat.lt_of_le_of_lt (Nat.div_le_of_le_mul (Nat.mul_le_mul_left _ (by decide +kernel : owing.unitsOf 0 ≤ 1) |>.trans (by omega))) Config.statmw.isLt
  have ho : owing.slots.filter (fun x => (owing.part x.prt).ctx == 0) = [owing.slot] := by decide +kernel
  have he : owing.slot.owed = [(5, 3)] := by decide +kernel
  refine ⟨owing, by decide +kernel, he, by decide +kernel, ?_, ?_⟩
  · have h0 : (owing.ctx 0).nj = 0 ∧ (owing.ctx 0).pj = 0 := by decide +kernel
    omega
  · rw [ho]
    simp only [List.flatMap_cons, List.flatMap_nil, he, List.append_nil, List.map_cons, List.map_nil, List.sum_cons, List.sum_nil]
    omega
theorem witness_ThermalLimits : ∃ s : State, 115 ≤ s.sys.tempC ∧ twf {} s.parts = true ∧ s.sys.tthr.toNat % 2 ^ 8 = 100 ∧ s.sys.tthr.toNat / 2 ^ 8 = 95 ∧ (s.part 0).en = true :=
  ⟨{ machine [] with sys := { ({} : Sys) with tempC := 115 } }, by decide, by decide +kernel, by decide +kernel, by decide +kernel, rfl⟩


end Sys2Proof.Tests

namespace Sys2Proof.Tests

set_option Elab.async false

open Sys2Proof Sys2Proof.Machine Sys2Proof.Claims

/-- The machine with link 0 up and some requests that wait. -/
def linkedUp (ws : List Waiter) : State := { machine [] with mem := { (machine []).mem with waits := ws }, sys := { ({} : Sys) with links := [(0, ⟨true, false, false, 0, 0⟩)] } }
theorem witness_RemoteAccesses_down : (linkedUp []).linkUp 1 = false ∧ (linkedUp []).linkUp 0 = true := by decide +kernel
/-- A load from package 3 that waits for its answer. -/
def waitFar : Waiter := { wait0 with what := .remote false 3 7, width := 1 }
theorem witness_RemoteAccesses_reply : ∃ (s : State) (c : Coord) (x : Waiter) (vs : List Dword), s.linkUp 0 = true ∧ s.mem.waits = [x] ∧ x.place = c ∧ x.isRemote = true ∧
    vs.length = x.width := ⟨linkedUp [waitFar], ⟨0, 0, 0, 0⟩, _, [9], rfl, rfl, rfl, rfl, rfl⟩
theorem witness_RemoteAccesses_faulted : ∃ (s : State) (c : Coord), s.linkUp 0 = true ∧ (∃ x ∈ s.mem.waits, x.place = c ∧ x.isRemote = true) :=
  ⟨linkedUp [waitFar], ⟨0, 0, 0, 0⟩, rfl, waitFar, .head _, rfl, rfl⟩
/-- What an access of another package is located at. -/
def inOf (s : State) (va : Dword) (n : Nat) (k : PageKind) (r w : Bool) : State × Nat := okOf (s, 0) (s.inbound 0 va n k r w)
/-- The same machine with the granule at 0x20008 present, and with the lines of both pages poisoned. -/
def linkedTo (ps : Tbl Bool) (bad : Tbl Bool) : State :=
  { machine [] with mem := { (machine []).mem with mtTlb := [(0, tlb0)], present := ps, badLine := bad }, sys := { ({} : Sys) with links := [(0, ⟨true, false, false, 0, 0⟩)] } }
theorem witness_RemoteAccesses_load : ∃ (s t u : State) (pa pb : Nat), s.linkUp 0 = true ∧ s.inbound 0 0x10078 8 .mu true false = .ok (t, pa) ∧ (t.mem.homeLook 0 (pa / 128)).homeBad pa = false ∧
    s.inbound 0 0x20008 8 .wo true false = .ok (u, pb) ∧ u.mem.isPresent (pb / 8) = false :=
  let s := linkedTo [] []
  ⟨s, (inOf s 0x10078 8 .mu true false).1, (inOf s 0x20008 8 .wo true false).1, (inOf s 0x10078 8 .mu true false).2, (inOf s 0x20008 8 .wo true false).2, by decide +kernel,
   ok_pair (s, 0) _ (by decide +kernel), by decide +kernel, ok_pair (s, 0) _ (by decide +kernel), by decide +kernel⟩
theorem witness_RemoteAccesses_present : ∃ (s t u : State) (pa pb : Nat), s.linkUp 0 = true ∧ s.inbound 0 0x10078 8 .mu true false = .ok (t, pa) ∧ (t.mem.homeLook 0 (pa / 128)).homeBad pa = true ∧
    s.inbound 0 0x20008 8 .wo true false = .ok (u, pb) ∧ u.mem.isPresent (pb / 8) = true :=
  let s := linkedTo [(0x4001, true)] [(512, true)]
  ⟨s, (inOf s 0x10078 8 .mu true false).1, (inOf s 0x20008 8 .wo true false).1, (inOf s 0x10078 8 .mu true false).2, (inOf s 0x20008 8 .wo true false).2, by decide +kernel,
   ok_pair (s, 0) _ (by decide +kernel), by decide +kernel, ok_pair (s, 0) _ (by decide +kernel), by decide +kernel⟩
theorem witness_RemoteAccesses_refused : ∃ (s : State) (f : Flt), s.linkUp 0 = true ∧ s.inbound 0 0x40000 8 .mu true false = .error f ∧ ¬((0x10079 : Dword).toNat % 8 = 0) :=
  ⟨linkedTo [] [], errOf ({ code := 0 } : Flt) ((linkedTo [] []).inbound 0 0x40000 8 .mu true false), by decide +kernel, err_of ({ code := 0 } : Flt) _ (by decide +kernel), by decide⟩
theorem witness_RemoteAccesses_store : ∃ (s t u v : State) (pa pb pc : Nat), s.linkUp 0 = true ∧ s.winAt 0 0x10078 = none ∧ s.inbound 0 0x10078 8 .mu false true = .ok (t, pa) ∧
    pa % 128 + 8 ≤ 128 ∧ Coherent t.mem ∧ s.winAt 0 0x20008 = none ∧ s.inbound 0 0x20008 8 .wo false true = .ok (u, pb) ∧ u.mem.isPresent (pb / 8) = true ∧
    s.inbound 0 0x20010 8 .wo false true = .ok (v, pc) ∧ v.mem.isPresent (pc / 8) = false :=
  let s := linkedTo [(0x4001, true)] []
  ⟨s, (inOf s 0x10078 8 .mu false true).1, (inOf s 0x20008 8 .wo false true).1, (inOf s 0x20010 8 .wo false true).1, (inOf s 0x10078 8 .mu false true).2, (inOf s 0x20008 8 .wo false true).2,
   (inOf s 0x20010 8 .wo false true).2, by decide +kernel, by decide +kernel, ok_pair (s, 0) _ (by decide +kernel), by decide +kernel,
   ⟨by decide +kernel, fun l hl => by rw [show (inOf s 0x10078 8 .mu false true).1.mem.l2 = [] by decide +kernel] at hl; cases hl⟩, by decide +kernel,
   ok_pair (s, 0) _ (by decide +kernel), by decide +kernel, ok_pair (s, 0) _ (by decide +kernel), by decide +kernel⟩
theorem witness_RemoteAccesses_atomic : ∃ (s t : State) (pa : Nat), s.linkUp 0 = true ∧ s.inbound 0 0x10078 8 .mu true true = .ok (t, pa) ∧ pa % 8 = 0 ∧
    (t.mem.homeLook 0 (pa / 128)).homeBad pa = false :=
  let s := linkedTo [] []
  ⟨s, (inOf s 0x10078 8 .mu true true).1, (inOf s 0x10078 8 .mu true true).2, by decide +kernel, ok_pair (s, 0) _ (by decide +kernel), by decide +kernel, by decide +kernel⟩
/-- The pair of granules at 0x10000 and 0x10008 as they are located. -/
def pairOf (s : State) : State × List (Nat × Tr) := okOf (s, []) (translateAll s 0 0 [0x10000, 0x10008])
theorem witness_RemoteAccesses_double : ∃ (s t : State) (tp tq : Nat × Tr), s.linkUp 0 = true ∧ pairAligned s 0x10000 0x10008 (wBytes 15) = .ok () ∧
    translateAll s 0 0 [0x10000, 0x10008] = .ok (t, [tp, tq]) ∧ admitPair tp.2 tq.2 0x10000 0x10008 = .ok () ∧
    ((t.mem.homeLook 0 (tp.2.pa / 128)).homeLook 0 (tq.2.pa / 128)).homeBad tp.2.pa = false ∧ ((t.mem.homeLook 0 (tp.2.pa / 128)).homeLook 0 (tq.2.pa / 128)).homeBad tq.2.pa = false := by
  let s := linkedTo [] []
  let l := (pairOf s).2
  have h : translateAll s 0 0 [0x10000, 0x10008] = .ok ((pairOf s).1, [l.getD 0 (0, ⟨0, .mu, false, false, 0⟩), l.getD 1 (0, ⟨0, .mu, false, false, 0⟩)]) := by
    have e : (pairOf s).2 = [l.getD 0 (0, ⟨0, .mu, false, false, 0⟩), l.getD 1 (0, ⟨0, .mu, false, false, 0⟩)] := by decide +kernel
    rw [← e]; exact ok_pair (s, []) _ (by decide +kernel)
  exact ⟨s, _, _, _, by decide +kernel, by rfl, h, ok_of () _ (by decide +kernel), by decide +kernel, by decide +kernel⟩
/-- Context 0 with a window of one page to package 3. -/
theorem witness_RemoteAccesses_engine : ∃ s : State, s.linkUp 0 = true ∧ s.mem.waits = [] ∧ (hvTarget (s.ctx 0) (0x50000 : Dword).toNat).isSome = true :=
  ⟨{ linkedUp [] with ctxs := [(0, { ctx0 with hvwins := [(0, { base := 0x50000, size := 1, rva := 0x10000, tgt := 0x300000007 })] })] }, by decide +kernel, rfl, by decide +kernel⟩

/-- An enabled window of two participants for 64-bit sums over the page at 0x20000, with a contribution held and its
completion granules at 0x28000. -/
def rwin0 : RedWin := { base := 0x20000, size := 1, cfg := 0x8F02000000000000, cva := 0x28000, held := [(3, 1, 0, 5)], peers := [(1, 0)] }
def reducing (x : RedWin) : State := { machine [] with sys := { ({} : Sys) with rwins := [(0, x)], links := [(0, ⟨true, false, false, 0, 0⟩)] } }
theorem witness_ReductionWindows_link (x : RedWin) : (reducing x).linkUp 0 = true ∧ (reducing x).linkUp 1 = false := ⟨rfl, rfl⟩
theorem witness_ReductionWindows_merge : ∃ (s t : State) (tr : Tr) (data : List Byte), s.linkUp 0 = true ∧ (s.rwin 0).on = true ∧ (s.rwin 0).ty = 15 ∧ data ≠ [] ∧ (s.rwin 0).refuses 2 0 24 data.length = false ∧
    ((s.rwin 0).held.filter (fun h => h.1 == 3)).length + 1 = (s.rwin 0).n ∧ (s.rwin 0).merged.length + 1 < (s.rwin 0).granules ∧
    translate s 0 ((s.rwin 0).cfg.toNat % 2 ^ 12) ((s.rwin 0).base.toNat + 8 * 3) = .ok (t, tr) ∧ tr.w = true ∧ tr.kind = .wo ∧ t.mem.isPresent (tr.pa / 8) = false :=
  let s := reducing rwin0
  let x : State × Tr := okOf (s, ⟨0, .mu, false, false, 0⟩) (translate s 0 ((s.rwin 0).cfg.toNat % 2 ^ 12) ((s.rwin 0).base.toNat + 8 * 3))
  ⟨s, x.1, x.2, natToBytes 8 7, by decide +kernel, by decide +kernel, by decide +kernel, by decide, by decide +kernel, by decide +kernel, by decide +kernel, ok_pair (s, _) _ (by decide +kernel), by decide +kernel⟩
theorem witness_ReductionWindows_hold : ∃ (s : State) (data : List Byte), s.linkUp 0 = true ∧ (s.rwin 0).on = true ∧ data ≠ [] ∧ (s.rwin 0).refuses 2 0 (8 * 2) data.length = false ∧
    ((s.rwin 0).held.filter (fun h => h.1 == 2)).length + 1 < (s.rwin 0).n ∧ (s.rwin 0).refuses 1 0 (8 * 3) data.length = true ∧ 1 ≠ s.sys.hvpkg.toNat ∧
    (s.rwin 1).on = false :=
  ⟨reducing rwin0, natToBytes 8 7, rfl, by decide +kernel, by decide, by decide +kernel⟩
/-- A store of this package to a granule of its own window that has come, waiting for its answer. -/
def contributing : State := { reducing { rwin0 with merged := [3] } with mem := { waits := [{ wait0 with what := .remote true 0 0, addr := 0x20018 }] } }
theorem witness_ReductionWindows_own : ∃ (s : State) (data : List Byte) (c : Coord), s.linkUp 0 = true ∧ (s.rwin 0).on = true ∧ data ≠ [] ∧ (s.rwin 0).refuses 0 0 (8 * 3) data.length = true ∧ 0 = s.sys.hvpkg.toNat ∧
    s.contributor 0 ((s.rwin 0).base.toNat + 8 * 3) = some c :=
  ⟨contributing, natToBytes 8 7, ⟨0, 0, 0, 0⟩, rfl, by decide +kernel, by decide, by decide +kernel⟩
theorem witness_ReductionWindows_ended : ∃ (s t : State) (tr : Tr), s.linkUp 0 = true ∧ (s.rwin 0).on = true ∧ (1, 0) ∈ (s.rwin 0).peers ∧ (s.rwin 0).peers.length < (s.rwin 0).n ∧
    translate (s.setRwin 0 { s.rwin 0 with round := (s.rwin 0).round + 1, held := [], merged := [], peers := [] }) 0 ((s.rwin 0).cfg.toNat % 2 ^ 12)
      ((s.rwin 0).cva.toNat / 2 ^ 3 % 2 ^ 49 * 8 + 8 * ((s.rwin 0).round.toNat % 512)) = .ok (t, tr) ∧ tr.kind = .wo ∧ tr.w = true ∧ t.mem.isPresent (tr.pa / 8) = false :=
  let s := reducing rwin0
  let y := s.setRwin 0 { s.rwin 0 with round := (s.rwin 0).round + 1, held := [], merged := [], peers := [] }
  let x : State × Tr := okOf (y, ⟨0, .mu, false, false, 0⟩) (translate y 0 ((s.rwin 0).cfg.toNat % 2 ^ 12) ((s.rwin 0).cva.toNat / 2 ^ 3 % 2 ^ 49 * 8 + 8 * ((s.rwin 0).round.toNat % 512)))
  ⟨s, x.1, x.2, rfl, by decide +kernel, by decide +kernel, by decide +kernel, ok_pair (y, _) _ (by decide +kernel), by decide +kernel⟩
theorem witness_ReductionWindows_full : ∃ s : State, s.linkUp 0 = true ∧ (s.rwin 0).on = true ∧ (3, 0) ∉ (s.rwin 0).peers ∧ (s.rwin 0).n ≤ (s.rwin 0).peers.length :=
  ⟨reducing { rwin0 with peers := [(1, 0), (2, 0)] }, by decide +kernel⟩

/-- Package 5 on an up link: with an external source, as the master, behind a master at this link, behind one at another, and over a link that is down. -/
theorem witness_HolvorLinks : ∃ (s : State) (a b c d : TimePeer), (tget {} s.sys.links 0 : HvLink).up = true ∧ (tget {} s.sys.links 1 : HvLink).up = false ∧ s.sys.hvpkg.toNat = 5 ∧
    a.external = some 3 ∧ b.external = none ∧ c.external = none ∧ d.external = none ∧
    (let known (p : TimePeer) : List Nat := ((tput {} s.sys.links 0 ⟨true, false, false, p.epoch, p.lowest⟩).filter (fun k => k.2.up)).map (fun k => k.2.low.toNat)
     (∀ p ∈ known b, 5 ≤ p) ∧ c.lowest.toNat < 5 ∧ (∀ p ∈ known c, c.lowest.toNat ≤ p) ∧
     (∃ p ∈ ((tput {} [(0, ⟨true, false, false, 0, 6⟩), (2, (⟨true, false, false, 0, 1⟩ : HvLink))] 0 ⟨true, false, false, d.epoch, d.lowest⟩).filter (fun k => k.2.up)).map (fun k => k.2.low.toNat), p < 5 ∧ p < d.lowest.toNat)) :=
  ⟨{ machine [] with sys := { ({} : Sys) with hvpkg := 5, links := [(0, ⟨true, false, false, 0, 6⟩)] } }, ⟨0, 6, some 3⟩, ⟨0, 6, none⟩, ⟨0, 2, none⟩, ⟨0, 7, none⟩, by decide +kernel⟩

/-- What a boot finds: nothing amiss. -/
def finding : BootFinding :=
  { romOk := true, sigSet := .xmssShake256h20, key := Config.imageKey.toList, signature := List.replicate 2820 2, verifies := true, trainingOk := true, svn := Config.fusedSvn, absent := [0, 767], images := [[1, 2]] }
theorem finding_key : finding.key.length = 68 ∧ shake256 finding.key 32 = fusedKey := ⟨Vector.length_toList, rfl⟩
theorem finding_recent : Config.fusedSvn.toNat ≤ finding.svn.toNat := Nat.le_refl _
/-- A package at its stage 4, and one held in reset by a thermal trip. -/
def training : State := { machine [] with sys := { ({} : Sys) with stage := 4, bootErr := 4 } }
def tripped : State := { booted with sys := { booted.sys with held := true } }
theorem witness_BootStages : ∃ (s t u v : State) (x : BootFinding), s.sys.stage = 0 ∧ x.romOk = true ∧ x.sigSet = .xmssShake256h20 ∧ x.key.length = 68 ∧ shake256 x.key 32 = fusedKey ∧
    x.signature.length = 2820 ∧ x.verifies = true ∧ Config.fusedSvn.toNat ≤ x.svn.toNat ∧ x.trainingOk = true ∧ t.sys.stage = 5 ∧ t.sys.bootErr = 0 ∧ t.sys.held = false ∧
    0 < u.sys.stage ∧ u.sys.stage < 5 ∧ v.sys.stage = 5 ∧ v.sys.held = true :=
  ⟨machine [], booted, training, tripped, finding, rfl, rfl, rfl, finding_key.1, finding_key.2, List.length_replicate, rfl, finding_recent, rfl, rfl, rfl, rfl, by decide, by decide, rfl, rfl⟩
/-- A version below the fused minimum, whatever that is. -/
theorem witness_BootStages_old (v : Word) (h : v.toNat < Config.fusedSvn.toNat) : ∃ x : BootFinding, x.romOk = true ∧ x.key.length = 68 ∧ shake256 x.key 32 = fusedKey ∧ x.signature.length = 2820 ∧
    x.verifies = true ∧ ¬Config.fusedSvn.toNat ≤ x.svn.toNat :=
  ⟨{ finding with svn := v }, rfl, finding_key.1, finding_key.2, List.length_replicate, rfl, Nat.not_le_of_lt h⟩
theorem witness_BootStages_fails : ∃ x y z : BootFinding, x.romOk = false ∧ y.romOk = true ∧ y.verifies = false ∧ z.romOk = true ∧ z.key.length = 68 ∧ shake256 z.key 32 = fusedKey ∧
    z.signature.length = 2820 ∧ z.verifies = true ∧ Config.fusedSvn.toNat ≤ z.svn.toNat ∧ z.trainingOk = false :=
  ⟨{ finding with romOk := false }, { finding with verifies := false }, { finding with trainingOk := false }, rfl, rfl, rfl, rfl, finding_key.1, finding_key.2, List.length_replicate, rfl, finding_recent, rfl⟩
theorem witness_AttestationQuotes : ∃ (s t : State) (nonce : List Byte), s.presented = true ∧ nonce.length = 32 ∧ s.sys.xmss + 1 = 2 ^ 20 ∧ t.presented = true ∧ t.sys.xmss = 2 ^ 20 :=
  ⟨{ booted with sys := { booted.sys with xmss := 2 ^ 20 - 1 } }, { booted with sys := { booted.sys with xmss := 2 ^ 20 } }, List.replicate 32 7, by decide +kernel, by decide, rfl, by decide +kernel, rfl⟩

end Sys2Proof.Tests

namespace Sys2Proof.Tests

set_option Elab.async false

open Sys2Proof Sys2Proof.Machine Sys2Proof.Claims

/-- A stream at engine 0 of its tile with a request for the command in hand, 16 bytes queued at 0x10040, and one whose bytes are not mapped. -/
def strm1 : Strm := { strm0 with engine := some (0, 0), reqs := [3], queue := [(0x10040, 16)], eosFed := true }
def strmOff : Strm := { strm1 with queue := [(0x40000, 8)] }
def parsing (x : Strm) : State := { streaming x [] with cmds := [cmd0 (.sxfrm 0x10000)] }
/-- With all its bytes fed, a stream with bytes to read has a frame. (What they parse to is free, so that the clauses on its error rest on a free value.) -/
theorem witness_VideoEvents_parse : ∃ (s : State) (x : Strm) (c : Cmd), s.strms.find? (fun y => y.ctx == 0 && y.handle == 0x10000 && y.engine.isSome) = some x ∧ s.strmCmd x = some c ∧
    x.status = none ∧ x.err = 0 ∧ ¬((s.queueBytes c.unit x).2.1 = [] ∧ x.queue = [] ∧ x.eosFed = true) ∧
    0 < x.frameBytes (s.queueBytes c.unit x).2.1 (s.queueBytes c.unit x).2.2 := by
  refine ⟨parsing strm1, strm1, cmd0 (.sxfrm 0x10000), by decide +kernel, by decide +kernel, rfl, rfl, by decide +kernel, ?_⟩
  have hl : ((parsing strm1).queueBytes (cmd0 (.sxfrm 0x10000)).unit strm1).2.1.length = 16 := by decide +kernel
  have hs : ((parsing strm1).queueBytes (cmd0 (.sxfrm 0x10000)).unit strm1).2.2 = none := by
    have : ((parsing strm1).queueBytes (cmd0 (.sxfrm 0x10000)).unit strm1).2.2.isNone = true := by decide +kernel
    exact Option.isNone_iff_eq_none.mp this
  rw [hs]
  simp only [Strm.frameBytes]
  rw [hl]
  split
  · decide
  · rename_i h
    rw [show strm1.eosFed = true from rfl] at h
    simp only [Bool.and_true, Option.isNone_none, decide_eq_true_eq] at h
    exact Nat.pos_of_ne_zero h
theorem witness_VideoEvents_end : ∃ (s : State) (x : Strm) (c : Cmd), s.strms.find? (fun y => y.ctx == 0 && y.handle == 0x10000 && y.engine.isSome) = some x ∧ s.strmCmd x = some c ∧
    x.status = none ∧ x.err = 0 ∧ (s.queueBytes c.unit x).2.1 = [] ∧ x.queue = [] ∧ x.eosFed = true :=
  ⟨parsing { strm1 with queue := [] }, { strm1 with queue := [] }, cmd0 (.sxfrm 0x10000), by decide +kernel, by decide +kernel, rfl, rfl, by decide +kernel, rfl, rfl⟩
theorem witness_VideoEvents_unreadable : ∃ (s : State) (x : Strm) (c : Cmd) (f : Flt), s.strms.find? (fun y => y.ctx == 0 && y.handle == 0x10000 && y.engine.isSome) = some x ∧
    s.strmCmd x = some c ∧ x.status = none ∧ x.err = 0 ∧ x.frameBytes (s.queueBytes c.unit x).2.1 (s.queueBytes c.unit x).2.2 = 0 ∧ x.queue ≠ [] ∧ (s.queueBytes c.unit x).2.2 = some (.flt f) := by
  have hb : ((parsing strmOff).queueBytes (cmd0 (.sxfrm 0x10000)).unit strmOff).2.1 = [] := by decide +kernel
  have hf : ∃ f, ((parsing strmOff).queueBytes (cmd0 (.sxfrm 0x10000)).unit strmOff).2.2 = some (.flt f) := by
    have h : (match ((parsing strmOff).queueBytes (cmd0 (.sxfrm 0x10000)).unit strmOff).2.2 with
      | some (.flt _) => true
      | _ => false) = true := by decide +kernel
    revert h
    rcases ((parsing strmOff).queueBytes (cmd0 (.sxfrm 0x10000)).unit strmOff).2.2 with _ | (_ | f)
    · exact fun h => by cases h
    · exact fun h => by cases h
    · exact fun _ => ⟨f, rfl⟩
  obtain ⟨f, hf⟩ := hf
  refine ⟨parsing strmOff, strmOff, cmd0 (.sxfrm 0x10000), f, by decide +kernel, by decide +kernel, rfl, rfl, ?_, by decide, hf⟩
  rw [hb, hf]
  simp [Strm.frameBytes, strmOff]
/-- What the stream of a frame with cells stores: taken, waiting for another package, and at a fault. -/
def cell0 : Config.CellSyntax := { (default : Config.CellSyntax) with cx := 0, cy := 0, comp := 0 }
def frameC : Config.FrameSyntax :=
  { (default : Config.FrameSyntax) with width := 16, height := 16, cells := [cell0] }
def takenAs (stbase : Nat) (c : Ctx) (y : Config.FrameSyntax) : Nat :=
  match State.takeFrame { streaming { strm1 with stbase := stbase } [] with ctxs := [(0, c)] } 0 { strm1 with stbase := stbase } y with
  | .ok _ => 1
  | .error .absent => 2
  | .error (.flt _) => 3
theorem witness_VideoEvents_taken : takenAs 0x12000 ctx0 { frameC with cells := [] } = 1 ∧ takenAs 0x12000 ctx0 { frameC with shows := some 0 } = 1 ∧ takenAs 0x12000 ctx0 frameC = 1 ∧
    takenAs 0x50000 { ctx0 with hvwins := [(0, { base := 0x50000, size := 1, rva := 0x10000, tgt := 0x300000007 })] } frameC = 2 ∧ takenAs 0x40000 ctx0 frameC = 3 := by decide +kernel
/-- A stream whose last packet stands ready, at a ring of one slot, which is empty or full. -/
def strmPub : Strm := { strm1 with packets := [[1, 2]], status := some 0 }
def ringBusy : State := { parsing strmPub with mts := [(0, { rings := [(0, { handle := some ring1 })], side := [(0, { st := .full })] })] }
theorem witness_VideoEvents_publish : ∃ (s t : State) (x : Strm) (c : Cmd), s.strms.find? (fun y => y.ctx == 0 && y.handle == 0x10000 && y.engine.isSome) = some x ∧ s.strmCmd x = some c ∧
    x.packets = [[1, 2]] ∧ x.status = some 0 ∧ ringUnit s c.prt c.unit x.ring = .ok 0 ∧ s.mem.waits = [] ∧ twf {} s.mts = true ∧ twf {} (s.mt 0).side = true ∧
    twf {} (s.mt 0).rings = true ∧ ((s.mt 0).latch x.ring).canAcquire x.ring = true ∧ t.strms.find? (fun y => y.ctx == 0 && y.handle == 0x10000 && y.engine.isSome) = some x ∧
    ringUnit t c.prt c.unit x.ring = .ok 0 ∧ twf {} t.mts = true ∧ twf {} (t.mt 0).side = true ∧ twf {} (t.mt 0).rings = true ∧ ((t.mt 0).latch x.ring).canAcquire x.ring = false :=
  ⟨parsing strmPub, ringBusy, strmPub, cmd0 (.sxfrm 0x10000), by decide +kernel, by decide +kernel, rfl, rfl, ok_of 0 _ (by decide +kernel), rfl, by decide +kernel, by decide +kernel, (by decide +kernel),
   by decide +kernel, by decide +kernel, ok_of 0 _ (by decide +kernel), by decide +kernel⟩

/-- A frame of H.265 Main of 16 by 16 luma samples without references. -/
def frame0 : Config.FrameSyntax :=
  { wellFormed := true, profile := .h265Main, level := 40, bitDepth := 8, chroma420 := true, extensions := false, superRes := false, fieldCoded := false, width := 16, height := 16,
    order := 0, lists := 0, isRef := true, shows := none, refs0 := [], refs1 := [], before := [], after := [], tbs := [], blocks := [], cells := [], bins := 0 }
theorem witness_FramesAndSlots : strm0.errorOf frame0 = 0 ∧ frame0.shows = none ∧ strm0.newSlot frame0 = some 0 ∧ toolsOk strm0.codec { frame0 with bitDepth := 10 } = false ∧
    ({ frame0 with width := 8193 } : Config.FrameSyntax).width > 8192 ∧ ({ strm0 with pics := [⟨7, 0, 16, 16⟩] } : Strm).newSlot frame0 = none := by decide +kernel
/-- R318: picture slot 0, released while frame 0 was parsed, is free for frame 3 of a stream of LAG 2 once the request for frame 2 has issued. -/
theorem test_slot_held_for_lag : ({ strm0 with frame := 1, freed := [(0, 0)], reqs := [3] } : Strm).newSlot frame0 = none ∧
    ({ strm0 with frame := 1, freed := [(0, 0)], reqs := [3, 4] } : Strm).newSlot frame0 = some 0 := by decide +kernel
theorem witness_PacketsAndCells : ∃ (a : Parts) (t : Config.TransformBlock) (v : Rat), a.recs[0]? = some 5 ∧ 0 < t.w * t.h ∧ |16 * v - (rna16 v).1| = 1 / 2 ∧ (rna16 v).1 = 1 := by
  refine ⟨{ recs := [5] }, { (default : Config.TransformBlock) with w := 4, h := 4 }, 1 / 32, rfl, by decide, ?_, by decide +kernel⟩
  rw [show (rna16 (1 / 32)).1 = 1 by decide +kernel]
  norm_num

theorem witness_EngineAccesses_memory : ∃ (s t : State) (tr : Tr), hvTarget (s.ctx 0) 0x10078 = none ∧ translate s 0 0 0x10078 = .ok (t, tr) ∧ tr.w = true ∧ tr.r = true ∧ tr.kind = .mu ∧
    Coherent t.mem ∧ tr.pa % 128 + [1, 2, 3, 4, 5, 6, 7, (8 : Byte)].length = 128 :=
  ⟨machine [], (trOf (machine []) 0x10078).1, (trOf (machine []) 0x10078).2, by decide +kernel, tr_of _ _ (by decide +kernel), by decide +kernel, by decide +kernel, by decide +kernel,
   ⟨by decide +kernel, fun l hl => by rw [show (trOf (machine []) 0x10078).1.mem.l2 = [] by decide +kernel] at hl; cases hl⟩, by decide +kernel⟩
theorem witness_EngineAccesses_once : ∃ (s s' t u : State) (tr tq : Tr), hvTarget (s.ctx 0) 0x20008 = none ∧ translate s 0 0 0x20008 = .ok (t, tr) ∧ tr.w = true ∧ tr.r = true ∧ tr.kind = .wo ∧
    t.mem.isPresent (tr.pa / 8) = false ∧ hvTarget (s'.ctx 0) 0x20008 = none ∧ translate s' 0 0 0x20008 = .ok (u, tq) ∧ tq.w = true ∧ tq.r = true ∧ tq.kind = .wo ∧ u.mem.isPresent (tq.pa / 8) = true ∧
    Coherent u.mem ∧ (0x2000C % 8 ≠ 0) :=
  ⟨machine [], presented, (trOf (machine []) 0x20008).1, (trOf presented 0x20008).1, (trOf (machine []) 0x20008).2, (trOf presented 0x20008).2, by decide +kernel, tr_of _ _ (by decide +kernel),
   by decide +kernel, by decide +kernel, (by decide +kernel), by decide +kernel, by decide +kernel, tr_of _ _ (by decide +kernel), by decide +kernel, by decide +kernel, (by decide +kernel), by decide +kernel,
   ⟨by decide +kernel, fun l hl => by rw [show (trOf presented 0x20008).1.mem.l2 = [] by decide +kernel] at hl; cases hl⟩, by decide⟩
theorem witness_EngineAccesses_read : (∃ i < 8, (trOf (machine []) 0x20008).1.mem.isPresent (((trOf (machine []) 0x20008).2.pa + i) / 8) = false) ∧
    (∀ i < 8, (trOf presented 0x20008).1.mem.isPresent (((trOf presented 0x20008).2.pa + i) / 8) = true) := by decide +kernel
/-- A WO page that may not be written: a misaligned write meets its alignment first. -/
def sealedPage : State := { machine [] with mem := { mtTlb := [(0, [⟨0, 0x20000, 16, 0x20000, .wo, true, false, 0x20015⟩])] } }
theorem witness_EngineAccesses_misaligned : ∃ (s t : State) (tr : Tr), hvTarget (s.ctx 0) 0x20008 = none ∧ translate s 0 0 0x20008 = .ok (t, tr) ∧ tr.w = false ∧ tr.kind = .wo ∧ 0x20008 % 8 = 0 ∧
    ([1, 2, 3] : List Byte).length ≠ 8 :=
  ⟨sealedPage, (trOf sealedPage 0x20008).1, (trOf sealedPage 0x20008).2, by decide +kernel, tr_of _ _ (by decide +kernel), by decide +kernel⟩
theorem witness_EngineAccesses_denied : ∃ (s t : State) (tr : Tr), hvTarget (s.ctx 0) 0x30000 = none ∧ translate s 0 0 0x30000 = .ok (t, tr) ∧ tr.w = false ∧ tr.r = false ∧ tr.kind ≠ .wo :=
  ⟨machine [], (trOf (machine []) 0x30000).1, (trOf (machine []) 0x30000).2, by decide +kernel, tr_of _ _ (by decide +kernel), by decide +kernel, by decide +kernel⟩

/-- A command that owes no token, with a block, and the machine with it at its engine, line 513 poisoned. -/
def cmd1 (k : CmdKind) (b : List Dword) : Cmd := { cmd0 k with port := none, block := b }
def engaged (k : CmdKind) (b : List Dword) : State := { machine [] with cmds := [cmd1 k b], mem := { (machine []).mem with badLine := [(513, true)] } }
theorem served_engaged (k : CmdKind) (b : List Dword) : Served (engaged k b) (cmd1 k b) := ⟨rfl, rfl, rfl, rfl, fun h => by cases h⟩
/-- A gather of four doublewords of the heap: one marked at issue, one not mapped, one poisoned, and one that is brought. -/
def gathXs : List Nat := [5, 0x6000, 16, 2]
def gathKind : CmdKind := .gath false 15 3 0x10000 home gathXs (some (1, false))
def gathBlock : List Dword := [0x22, 0, 0, 0]
def gathPut (t : State) (j : Nat) (bs : List Byte) : State := { t with mem := t.mem.spPut 0 (0 + 8 * j) bs }
def gath1 : State := gathPut (engaged gathKind gathBlock) 0 (fillBytes false 15 8)
def gath2 : State := gathPut gath1 1 (fillBytes false 15 8)
def gath3 : State := gathPut (engOf gath2 0x10080 8).1 2 (fillBytes false 15 8)
def gathState : Nat → State
  | 0 => engaged gathKind gathBlock
  | 1 => gath1
  | 2 => gath2
  | 3 => gath3
  | _ => gathPut (engOf gath3 0x10010 8).1 3 (engOf gath3 0x10010 8).2.1
def gathGot (j : Nat) : List Byte := if j = 3 then (engOf gath3 0x10010 8).2.1 else fillBytes false 15 8
/-- The code of the fault that an engine's read meets, 0 without one. -/
def engFault : Except EErr (State × List Byte × List Bool) → Nat
  | .error (.flt f) => f.code
  | _ => 0
def gathCause : Nat → Option Nat
  | 0 => some 0x22
  | 1 => some (engFault (engRead gath1 0 0 0x40000 8))
  | 2 => some 0x25
  | _ => none
theorem flt_is (x : Except EErr (State × List Byte × List Bool)) (h : engFault x ≠ 0) : ∃ f, x = .error (.flt f) ∧ engFault x = f.code := by
  rcases x with (_ | f) | a
  · exact absurd rfl h
  · exact ⟨f, rfl, rfl⟩
  · exact absurd rfl h
theorem witness_GatherEngine_gather : ∃ (s : State) (c : Cmd) (z : Nat → State) (got : Nat → List Byte) (cause : Nat → Option Nat), Served s c ∧
    c.kind = .gath false 15 3 0x10000 home gathXs (some (1, false)) ∧ s.cmdSp c home (2 ^ 3 * gathXs.length) = .ok (0, 0) ∧ z 0 = s ∧
    GatherRun c ((s.part c.prt).ctx) 0 0 (2 ^ 3) 15 false 0x10000 gathXs z got cause ∧ twf 0 s.mem.sram = true := by
  refine ⟨engaged gathKind gathBlock, cmd1 gathKind gathBlock, gathState, gathGot, gathCause, served_engaged _ _, rfl, by decide +kernel, rfl, ?_, by decide +kernel⟩
  intro j x h
  rcases j with _ | _ | _ | _ | n
  · obtain rfl : 5 = x := Option.some.inj h
    exact .inl ⟨by decide, rfl, rfl, rfl⟩
  · obtain rfl : 0x6000 = x := Option.some.inj h
    obtain ⟨f, hf, hc⟩ := flt_is (engRead gath1 0 0 0x40000 8) (by decide +kernel)
    exact .inr (.inl ⟨by decide, f, hf, congrArg some hc, rfl, rfl⟩)
  · obtain rfl : 16 = x := Option.some.inj h
    refine .inr (.inr ⟨by decide, (engOf gath2 0x10080 8).1, (engOf gath2 0x10080 8).2.1, (engOf gath2 0x10080 8).2.2,
      ok_triple (gath2, [], []) _ (by decide +kernel), rfl, .inl ⟨by decide +kernel, rfl, rfl⟩⟩)
  · obtain rfl : 2 = x := Option.some.inj h
    refine .inr (.inr ⟨by decide, (engOf gath3 0x10010 8).1, (engOf gath3 0x10010 8).2.1, (engOf gath3 0x10010 8).2.2,
      ok_triple (gath3, [], []) _ (by decide +kernel), rfl, .inr ⟨by decide +kernel, rfl, rfl⟩⟩)
  · cases h

/-- Scatters of two doublewords, as they stand or added. -/
def scatKind (add : Bool) : CmdKind := .scat add 15 3 0x10000 home [1, 2] none
def scatStep (add : Bool) (t : State) (j a : Nat) : State :=
  let v := (t.mem.spBytes 0 (0 + 8 * j) 8).1
  if add then (engWrite (okOf (t, []) (engReadOk t 0 0 a 8)).1 0 0 a (lanesAdd 15 1 (okOf (t, []) (engReadOk t 0 0 a 8)).2 v)).1 else (engWrite t 0 0 a v).1
def scat1 (add : Bool) : State := scatStep add (engaged (scatKind add) [0, 0]) 0 0x10008
def scatState (add : Bool) : Nat → State
  | 0 => engaged (scatKind add) [0, 0]
  | 1 => scat1 add
  | _ => scatStep add (scat1 add) 1 0x10010
theorem witness_GatherEngine_scatter : ∃ (s : State) (c : Cmd) (z : Nat → State), Served s c ∧ c.kind = .scat false 15 3 0x10000 home [1, 2] none ∧ s.cmdSp c home (2 ^ 3 * [1, 2].length) = .ok (0, 0) ∧
    z 0 = s ∧ ScatterRun c ((s.part c.prt).ctx) 0 0 (2 ^ 3) 15 false 0x10000 [1, 2] z := by
  refine ⟨engaged (scatKind false) [0, 0], cmd1 (scatKind false) [0, 0], scatState false, served_engaged _ _, rfl, by decide +kernel, rfl, ?_⟩
  intro j x h
  rcases j with _ | _ | n
  · obtain rfl : 1 = x := Option.some.inj h
    exact ⟨by decide, by decide +kernel, by decide +kernel, .inl ⟨rfl, pair_of _ none (by decide +kernel)⟩⟩
  · obtain rfl : 2 = x := Option.some.inj h
    exact ⟨by decide, by decide +kernel, by decide +kernel, .inl ⟨rfl, pair_of _ none (by decide +kernel)⟩⟩
  · cases h
theorem witness_GatherEngine_add : ∃ (s : State) (c : Cmd) (z : Nat → State), Served s c ∧ c.kind = .scat true 15 3 0x10000 home [1, 2] none ∧ s.cmdSp c home (2 ^ 3 * [1, 2].length) = .ok (0, 0) ∧
    z 0 = s ∧ ScatterRun c ((s.part c.prt).ctx) 0 0 (2 ^ 3) 15 true 0x10000 [1, 2] z := by
  refine ⟨engaged (scatKind true) [0, 0], cmd1 (scatKind true) [0, 0], scatState true, served_engaged _ _, rfl, by decide +kernel, rfl, ?_⟩
  intro j x h
  rcases j with _ | _ | n
  · obtain rfl : 1 = x := Option.some.inj h
    exact ⟨by decide, by decide +kernel, by decide +kernel, .inr ⟨rfl, _, _, ok_pair (scatState true 0, []) _ (by decide +kernel), pair_of _ none (by decide +kernel)⟩⟩
  · obtain rfl : 2 = x := Option.some.inj h
    exact ⟨by decide, by decide +kernel, by decide +kernel, .inr ⟨rfl, _, _, ok_pair (scatState true 1, []) _ (by decide +kernel), pair_of _ none (by decide +kernel)⟩⟩
  · cases h
theorem witness_GatherEngine_lanes : ∃ (ty n : Nat) (old v : List Byte), tIsFlt ty = false ∧ old.length = n * wBytes ty ∧ v.length = n * wBytes ty ∧ ty = 8 ∧ n = 2 :=
  ⟨8, 2, [255, 0], [1, 2], by decide +kernel, by decide +kernel, by decide +kernel, rfl, rfl⟩

end Sys2Proof.Tests

namespace Sys2Proof.Tests

set_option Elab.async false

open Sys2Proof Sys2Proof.Machine Sys2Proof.Claims

/-! The heap of context 0, as an engine finds it: a write there succeeds. -/

theorem heap_at (va : Nat) (lo : 0x10000 ≤ va) (hi : va < 0x20000) : heapTr ctx0 va = some va := by
  have h : (decide (va < 2 ^ 52) && decide (ctx0.hlim ≠ 0) && decide (ctx0.hbase * 2 ^ 16 ≤ va) && decide (va < (ctx0.hbase + ctx0.hlim) * 2 ^ 16)) = true := by
    rw [show ctx0.hlim = 1 from rfl, show ctx0.hbase = 1 from rfl]
    simp only [Bool.and_eq_true, decide_eq_true_eq]
    omega
  have h0 : (va + ctx0.hoff.toNat) % 2 ^ 64 = va := by rw [show ctx0.hoff.toNat = 0 from rfl]; omega
  unfold heapTr
  rw [h0]
  exact if_pos h
theorem heap_tr (s : State) (va : Nat) (hc : s.ctx 0 = ctx0) (lo : 0x10000 ≤ va) (hi : va < 0x20000) : Machine.translate s 0 0 va = .ok (s, ⟨va, .mu, true, true, 0⟩) := by
  unfold Machine.translate
  rw [hc, heap_at va lo hi]
  have e : (ctx0.hperm.getLsbD 0, ctx0.hperm.getLsbD 1) = (true, true) := by decide
  obtain ⟨e1, e2⟩ := Prod.mk.inj e
  simp only [if_neg (show ¬(2 ^ 39 ≤ va) by omega), e1, e2]
theorem heap_none (s : State) (va : Nat) (hc : s.ctx 0 = ctx0) : hvTarget (s.ctx 0) va = none := by
  rw [hc]
  simp [hvTarget, ctx0, tget, bits]
theorem heap_put (s : State) (va : Nat) (bs : List Byte) (bad : Bool) (hc : s.ctx 0 = ctx0) (lo : 0x10000 ≤ va) (hi : va < 0x20000) :
    ∃ t, engPut s 0 0 va bs bad = .ok t ∧ t.ctxs = s.ctxs := by
  unfold engPut
  simp [heap_none s va hc, homeSet, heap_tr s va hc lo hi]
theorem heap_lines (ps : List (Nat × Nat)) (h : ∀ x ∈ ps, 0x10000 ≤ x.1 ∧ x.1 < 0x20000) : ∀ (s : State) (bs : List Byte) (bad : List Bool), s.ctx 0 = ctx0 →
    (engLines s 0 0 ps bs bad).2 = none := by
  induction ps with
  | nil => intro s bs bad hc; rfl
  | cons x ps ih =>
    intro s bs bad hc
    obtain ⟨a, n⟩ := x
    have hx := h (a, n) (.head _)
    have one : oneAccess s 0 0 a = true := by simp [oneAccess, heap_none s a hc, heap_tr s a hc hx.1 hx.2]
    obtain ⟨t, e, ht⟩ := heap_put s a ((bs.take n).take n) (((bad.take n).take n).any id) hc hx.1 hx.2
    simp only [engLines, one, if_true, engPuts, e]
    exact ih (fun y hy => h y (.tail _ hy)) t _ _ (by rw [← hc]; simp only [State.ctx, ht])
theorem cuts_within (w : Nat) (hw : 0 < w) (f : Nat) : ∀ a n : Nat, ∀ x ∈ cuts w f a n, a ≤ x.1 ∧ x.1 < a + n := by
  induction f with
  | zero => intro a n x h; cases h
  | succ f ih =>
    intro a n x h
    unfold cuts at h
    split at h
    · cases h
    · rcases List.mem_cons.mp h with rfl | h
      · exact ⟨Nat.le_refl _, by omega⟩
      · have hm := ih _ _ x h
        have hk : 0 < w - a % w := Nat.sub_pos_of_lt (Nat.mod_lt _ hw)
        omega
theorem heap_write (s : State) (va : Nat) (bs : List Byte) (hc : s.ctx 0 = ctx0) (lo : 0x10000 ≤ va) (hi : va + bs.length ≤ 0x20000) :
    engWrite s 0 0 va bs = ((engWrite s 0 0 va bs).1, none) :=
  pair_of _ none (heap_lines _ (fun x hx => by have := cuts_within 128 (by decide) _ _ _ x hx; omega) s bs [] hc)

/-! The engines of key and value pages: what they read of the heap of context 0. -/

/-- A key and value page at 0x10000 of dimension 32 with n tokens: its header. -/
def pgHead (n : Nat) : List Byte := natToBytes 4 (n + 0x10000 + 32 * 2 ^ 24)
def paging (k : CmdKind) (n : Nat) : State := { serving k with mem := { (machine []).mem with hbm := writeBytes [] 0x10000 (pgHead n) } }
/-- A computation that succeeds with a pair that passes a check has such a pair. -/
def okWith {ε α β : Type} (p : α → β → Bool) : Except ε (α × β) → Bool
  | .ok (a, b) => p a b
  | .error _ => false
theorem ok_with {ε α β : Type} (p : α → β → Bool) (x : Except ε (α × β)) (h : okWith p x = true) : ∃ a b, x = .ok (a, b) ∧ p a b = true := by
  rcases x with _ | ⟨a, b⟩
  · cases h
  · exact ⟨a, b, rfl, h⟩
def kvKind : CmdKind := .kvapp 0x10000 0x18000 0x18040
def kv0 : State := paging kvKind 2
def pgIs (n : Nat) (b : List Byte) : Bool := pgLegal (bytesToNat (b.take 64)) && pgCount (bytesToNat (b.take 64)) == n && pgDim (bytesToNat (b.take 64)) == 32 && b.length == 2 ^ 14
theorem pg_is (n : Nat) (b : List Byte) (h : pgIs n b = true) : pgLegal (bytesToNat (b.take 64)) = true ∧ pgCount (bytesToNat (b.take 64)) = n ∧ pgDim (bytesToNat (b.take 64)) = 32 ∧ b.length = 2 ^ 14 := by
  simp only [pgIs, Bool.and_eq_true, beq_iff_eq] at h
  exact ⟨h.1.1.1, h.1.1.2, h.1.2, h.2⟩
/-- A page with two tokens, and then a key and a value, read by an engine. -/
def kvReads : Bool := okWith (fun s1 b => pgIs 2 b && okWith (fun s2 _ => okWith (fun s3 _ => decide (s3.ctx 0 = ctx0)) (engReadOk s2 0 0 0x18040 64)) (engReadOk s1 0 0 0x18000 64)) (engReadOk kv0 0 0 0x10000 (2 ^ 14))
theorem kv_reads : kvReads = true := by decide +kernel
theorem page_full : okWith (fun _ b => pgIs 64 b) (engReadOk (paging kvKind 64) 0 0 0x10000 (2 ^ 14)) = true := by decide +kernel
def kldKind : CmdKind := .kvld 0x10000 home false true
theorem page_load : okWith (fun s b => pgIs 2 b && decide (s.cmdSp (cmd0 kldKind) home (4 * (2 * 32)) = .ok (0, 0))) (engReadOk (paging kldKind 2) 0 0 0x10000 (2 ^ 14)) = true := by decide +kernel
def kvVec (b : List Byte) : List FV := (List.range 32).map (fun j => decF 4 (bytesToNat ((b.drop (2 * j)).take 2)))
theorem overlay_le (p : List Byte) (off : Nat) (bs : List Byte) (n : Nat) (hp : p.length ≤ n) (hb : off + bs.length ≤ n) : (overlay p off bs).length ≤ n := by
  simp only [overlay, List.length_append, List.length_take, List.length_drop]
  omega
/-- A page with a token appended is no longer than a page. -/
theorem kv_length (p : List Byte) (xs ys : List FV) (hp : p.length ≤ 2 ^ 14) (hc : pgCount (bytesToNat (p.take 64)) = 2) (hd : pgDim (bytesToNat (p.take 64)) = 32) (hx : xs.length = 32) :
    (kvAppend p xs ys).length ≤ 2 ^ 14 := by
  have hn : ∀ k v, (natToBytes k v).length = k := fun k v => by simp
  unfold kvAppend
  simp only [hc, hd]
  refine overlay_le _ _ _ _ (overlay_le _ _ _ _ (overlay_le _ _ _ _ ?_ ?_) ?_) ?_
  · refine overlay_le _ _ _ _ (overlay_le _ _ _ _ (overlay_le _ _ _ _ (overlay_le _ _ _ _ hp ?_) ?_) ?_) ?_
    · simp [hx]
    · simp
    · simp; omega
    · simp
  · simp [hn]
  · simp [hn, Function.comp_def]
  · simp [hn]
theorem witness_PageEngines_append : ∃ (s : State) (c : Cmd) (s1 s2 s3 s4 : State) (bs ks vs : List Byte), InService s c 0 ∧ c.kind = .kvapp 0x10000 0x18000 0x18040 ∧
    engReadOk s 0 0 0x10000 (2 ^ 14) = .ok (s1, bs) ∧ pgLegal (bytesToNat (bs.take 64)) = true ∧ pgCount (bytesToNat (bs.take 64)) = 2 ∧ pgDim (bytesToNat (bs.take 64)) = 32 ∧
    engReadOk s1 0 0 0x18000 64 = .ok (s2, ks) ∧ engReadOk s2 0 0 0x18040 64 = .ok (s3, vs) ∧
    engWrite s3 0 0 0x10000 (kvAppend bs (kvVec ks) (kvVec vs)) = (s4, none) := by
    obtain ⟨s1, b, h1, h⟩ := ok_with _ _ kv_reads
    obtain ⟨hb, h⟩ := (Bool.and_eq_true _ _).mp h
    obtain ⟨s2, ks, h2, h⟩ := ok_with _ _ h
    obtain ⟨s3, vs, h3, h⟩ := ok_with _ _ h
    obtain ⟨hl, hn, hd, len⟩ := pg_is 2 b hb
    refine ⟨kv0, cmd0 kvKind, s1, s2, s3, _, b, ks, vs, ⟨rfl, rfl, rfl, rfl, rfl⟩, rfl, h1, hl, hn, hd, h2, h3, heap_write s3 0x10000 _ (of_decide_eq_true h) (by decide) ?_⟩
    have := kv_length b (kvVec ks) (kvVec vs) (Nat.le_of_eq len) hn hd (by simp [kvVec])
    omega
theorem witness_PageEngines_full : ∃ (s s1 : State) (c : Cmd) (bs : List Byte), InService s c 0 ∧ c.kind = .kvapp 0x10000 0x18000 0x18040 ∧ engReadOk s 0 0 0x10000 (2 ^ 14) = .ok (s1, bs) ∧
    pgCount (bytesToNat (bs.take 64)) = 64 :=
  have ⟨s1, b, h1, h⟩ := ok_with _ _ page_full
  ⟨paging kvKind 64, s1, cmd0 kvKind, b, ⟨rfl, rfl, rfl, rfl, rfl⟩, rfl, h1, (pg_is 64 b h).2.1⟩
theorem witness_PageEngines_load : ∃ (s s1 : State) (c : Cmd) (bs : List Byte), InService s c 0 ∧ c.kind = .kvld 0x10000 home false true ∧ engReadOk s 0 0 0x10000 (2 ^ 14) = .ok (s1, bs) ∧
    pgLegal (bytesToNat (bs.take 64)) = true ∧ s1.cmdSp c home (4 * (pgCount (bytesToNat (bs.take 64)) * pgDim (bytesToNat (bs.take 64)))) = .ok (0, 0) ∧ twf 0 s.mem.sram = true :=
  have ⟨s1, b, h1, h⟩ := ok_with _ _ page_load
  have ⟨hb, hs⟩ := (Bool.and_eq_true _ _).mp h
  have ⟨hl, hn, hd, _⟩ := pg_is 2 b hb
  ⟨paging kldKind 2, s1, cmd0 kldKind, b, ⟨rfl, rfl, rfl, rfl, rfl⟩, rfl, h1, hl, by rw [hn, hd]; exact of_decide_eq_true hs, by decide +kernel⟩
theorem witness_PageEngines_page : ∃ (p : List Byte) (xs ys : List FV), p.length = 2 ^ 14 ∧ pgLegal (bytesToNat (p.take 64)) = true ∧ pgCount (bytesToNat (p.take 64)) < 64 ∧
    xs.length = pgDim (bytesToNat (p.take 64)) ∧ ys.length = pgDim (bytesToNat (p.take 64)) :=
  have ⟨_, b, _, h⟩ := ok_with _ _ kv_reads
  have ⟨hl, hn, hd, len⟩ := pg_is 2 b ((Bool.and_eq_true _ _).mp h).1
  ⟨b, kvVec [], kvVec [], len, hl, by rw [hn]; decide, by rw [hd]; simp [kvVec], by rw [hd]; simp [kvVec]⟩
/-- PGSEL of one of one page at 0x10000: its query at home, its result at home + 0x100. -/
def selBlock : List Dword := [home, 0x11000, 1 + 1 * 2 ^ 32 + 32 * 2 ^ 48, home + 0x100, 0x10000]
def selKind : CmdKind := .pgsel 0 0
def selCmd : Cmd := { cmd0 selKind with port := none, block := selBlock }
def selectingPages : State := { paging selKind 2 with cmds := [selCmd] }
def selBounds : Except EErr (State × List (Option FV)) :=
  let q := (List.range 32).map (fun i => decF 4 (selectingPages.mem.spGet 0 (0 + 2 * i) 2))
  pgBounds selCmd 0 32 q (sqrtF (q.foldl (fun a x => mulAddF a x x) (.fin false 0 0))) selectingPages [0x10000]
theorem sel_ok : selBounds.isOk = true := by decide +kernel
theorem witness_PageEngines_select : ∃ (s : State) (c : Cmd) (s1 : State) (bs : List (Option FV)), Served s c ∧ c.kind = .pgsel 0 0 ∧
    let b := PgBlock.ofNat ((c.block.take 4).foldr (fun w a => w.toNat + 2 ^ 64 * a) 0)
    let q := (List.range b.dim).map (fun i => decF 4 (s.mem.spGet 0 (0 + 2 * i) 2))
    s.cmdSp c b.qaddr (2 * b.dim) = .ok (0, 0) ∧ s.cmdSp c b.out (8 * b.k) = .ok (0, 0x100) ∧
    pgBounds c (s.part c.prt).ctx b.dim q (sqrtF (q.foldl (fun a x => mulAddF a x x) (.fin false 0 0))) s ((c.block.drop 4).map BitVec.toNat) = .ok (s1, bs) ∧
    b.out.toNat % 8 = 0 ∧ twf 0 s.mem.sram = true := by
  refine ⟨selectingPages, selCmd, (okOf (selectingPages, []) selBounds).1, (okOf (selectingPages, []) selBounds).2, ⟨rfl, rfl, rfl, rfl, fun h => by cases h⟩, rfl, by decide +kernel, by decide +kernel, ?_, by decide +kernel, by decide +kernel⟩
  exact ok_pair (selectingPages, []) selBounds sel_ok

end Sys2Proof.Tests

namespace Sys2Proof.Tests

set_option Elab.async false

open Sys2Proof Sys2Proof.Machine Sys2Proof.Claims

/-- A warp of a grid of one cell of one f32 channel, and a mark of one. -/
def warpWords : List Dword := [0x10000, 0x11000, 0, 0x12000, 0, 0, 0, 1 + 2 ^ 16 + 2 ^ 43, 2 ^ 32 + 2 ^ 48]
def warpKind : CmdKind := .fwarp home
def warpCmd : Cmd := { cmd0 warpKind with block := warpWords }
def warping : State := { machine [] with cmds := [warpCmd] }
def warpB : WarpBlock := WarpBlock.ofNat (blockNat warpWords)
def warpTaps : List Tap := (blockCells warpB).flatMap (fun x => cellTaps warpB x.1 x.2)
def warpSrc : List Nat := warpTaps.map (fun t => cellAddr (warpB.src t.r) warpB.gw (warpB.ch * wBytes warpB.ty) t.x t.y)
def warpDrf : List Nat := (warpTaps.filter (fun t => warpB.drf t.r != 0)).map (fun t => cellAddr (warpB.drf t.r) warpB.gw 8 t.x t.y)
def reads (s : State) (n : Nat) (as : List Nat) : State × List (List Byte) := okOf (s, []) (readsAt 0 0 n s as)
theorem reads_of (s : State) (n : Nat) (as : List Nat) (h : (readsAt 0 0 n s as).isOk = true) : readsAt 0 0 n s as = .ok ((reads s n as).1, (reads s n as).2) := ok_pair (s, []) _ h
def warp1 : State := (reads warping 4 warpSrc).1
def warp2 : State := (reads warp1 8 warpDrf).1
def warpOut : List (Nat × List Byte) :=
  [(cellAddr warpB.dst warpB.gw 4 0 0, (List.range warpB.ch).flatMap (fun ch => natToBytes (wBytes warpB.ty) (warpElem warpB (cellTaps warpB 0 0) (reads warping 4 warpSrc).2 ch)))]
theorem warp_cells : blockCells warpB = [(0, 0)] ∧ (cellTaps warpB 0 0).length = 1 ∧ warpB.ch * wBytes warpB.ty = 4 ∧ warpDrf = [0x12000] := by decide +kernel
theorem warp_reads : (readsAt 0 0 4 warping warpSrc).isOk = true ∧ (readsAt 0 0 8 warp1 warpDrf).isOk = true ∧ (reads warping 4 warpSrc).2.length = 1 := by decide +kernel
theorem witness_WarpEngines_warp : ∃ (s : State) (c : Cmd) (s1 s2 s3 : State) (rs ds : List (List Byte)) (each : List (Nat × List Byte)), InService s c 0 ∧ twf 0 s.mem.sram = true ∧ c.kind = .fwarp home ∧
    let b := WarpBlock.ofNat (blockNat c.block)
    let n := b.ch * wBytes b.ty
    let cells := blockCells b
    let taps := cells.flatMap (fun x => cellTaps b x.1 x.2)
    let dtaps := taps.filter (fun t => b.drf t.r != 0)
    readsAt 0 0 n s (taps.map (fun t => cellAddr (b.src t.r) b.gw n t.x t.y)) = .ok (s1, rs) ∧
    readsAt 0 0 8 s1 (dtaps.map (fun t => cellAddr (b.drf t.r) b.gw 8 t.x t.y)) = .ok (s2, ds) ∧ each.length = cells.length ∧
    (∀ i x, cells[i]? = some x → let before := ((cells.take i).map (fun y => (cellTaps b y.1 y.2).length)).sum
      let ts := cellTaps b x.1 x.2
      each[i]? = some (cellAddr b.dst b.gw n x.1 x.2,
        (List.range b.ch).flatMap (fun ch => natToBytes (wBytes b.ty) (warpElem b ts ((rs.drop before).take ts.length) ch)))) ∧
    writesAt 0 0 s2 each = (s3, none) ∧ s3.cmdSp c home 128 = .ok (0, 0) := by
  have hn : warpB.ch * wBytes warpB.ty = 4 := warp_cells.2.2.1
  have hr : readsAt 0 0 (warpB.ch * wBytes warpB.ty) warping warpSrc = .ok ((reads warping 4 warpSrc).1, (reads warping 4 warpSrc).2) := by
    rw [hn]; exact reads_of warping 4 warpSrc warp_reads.1
  refine ⟨warping, warpCmd, warp1, warp2, (writesAt 0 0 warp2 warpOut).1, (reads warping 4 warpSrc).2, (reads warp1 8 warpDrf).2, warpOut, ⟨rfl, rfl, rfl, rfl, rfl⟩, by decide +kernel, rfl,
    hr, reads_of warp1 8 warpDrf warp_reads.2.1, ?_, ?_, pair_of _ none (by decide +kernel), by decide +kernel⟩
  · show warpOut.length = (blockCells warpB).length
    rw [warp_cells.1]; rfl
  · show ∀ i x, (blockCells warpB)[i]? = some x → _
    rw [warp_cells.1]
    intro i x h
    rcases i with _ | i
    · obtain rfl : ((0, 0) : Nat × Nat) = x := Option.some.inj h
      have ht : (reads warping 4 warpSrc).2.take (cellTaps warpB 0 0).length = (reads warping 4 warpSrc).2 := List.take_of_length_le (by rw [warp_cells.2.1, warp_reads.2.2])
      show warpOut[0]? = some (cellAddr warpB.dst warpB.gw (warpB.ch * wBytes warpB.ty) 0 0, (List.range warpB.ch).flatMap (fun ch => natToBytes (wBytes warpB.ty)
        (warpElem warpB (cellTaps warpB 0 0) ((reads warping 4 warpSrc).2.take (cellTaps warpB 0 0).length) ch)))
      rw [ht, hn]
      rfl
    · cases h

def markWords : List Dword := [0x10000, 0x12000, home, 1 + 2 ^ 16 + 2 ^ 32, 2 ^ 32 + 2 ^ 48]
def markKind : CmdKind := .rfmark home
def markCmd : Cmd := { cmd0 markKind with block := markWords }
def marking : State := { machine [] with cmds := [markCmd] }
def markB : MarkBlock := MarkBlock.ofNat (blockNat markWords)
def mark1 : State := (reads marking 64 (markCells markB)).1
def markPut : State := { mark1 with mem := mark1.mem.spPut 0 0 ((reads marking 64 (markCells markB)).2.flatMap (markCell markB.f32)) }
theorem mark_cells : markCells markB = [0x10000] ∧ (readsAt 0 0 64 marking (markCells markB)).isOk = true := by decide +kernel
theorem witness_WarpEngines_mark : ∃ (s : State) (c : Cmd) (s1 s2 : State) (rs : List (List Byte)), InService s c 0 ∧ twf 0 s.mem.sram = true ∧ c.kind = .rfmark home ∧
    let b := MarkBlock.ofNat (blockNat c.block)
    let cells := markCells b
    cells = [0x10000] ∧ readsAt 0 0 64 s cells = .ok (s1, rs) ∧ s1.cmdSp c b.dsp (64 * cells.length) = .ok (0, 0) ∧
    writesAt 0 0 { s1 with mem := s1.mem.spPut 0 0 (rs.flatMap (markCell b.f32)) } ((markDrift b).map (fun a => (a, List.replicate 8 0))) = (s2, none) :=
  ⟨marking, markCmd, mark1, (writesAt 0 0 markPut ((markDrift markB).map (fun a => (a, List.replicate 8 0)))).1, (reads marking 64 (markCells markB)).2, ⟨rfl, rfl, rfl, rfl, rfl⟩, by decide +kernel, rfl,
   mark_cells.1, reads_of marking 64 (markCells markB) mark_cells.2, by decide +kernel, pair_of _ none (by decide +kernel)⟩

theorem witness_MemoryStaysCanonical : ∃ s t : State, s.mem.wf = true ∧ s.agenda = [.elapse 5] ∧ step s = .next t :=
  ⟨{ machine [] with agenda := [.elapse 5] }, _, by decide +kernel, rfl, rfl⟩

end Sys2Proof.Tests
end

section
/-! SUPPORT. Facts about sparse tables, event queues and energy charges that the statements on the organisation of the package
share: what a table reads after a write whatever its order, what an event changes of a partition, and what a charge changes. -/

namespace Sys2Proof.Organisation

open Sys2Proof Sys2Proof.Machine Sys2Proof.Laws

/-! ### Sparse tables in any order -/

variable {α : Type} [DecidableEq α] {d : α}

/-- A written value other than the default is read back, in canonical form or not. -/
theorem tget_tput_of_ne_default (t : Tbl α) (k : Nat) {v : α} (hv : v ≠ d) : tget d (tput d t k v) k = v := by
  induction t with
  | nil => simp [tput, hv, tget]
  | cons p t ih =>
    simp only [tput, hv, if_false]
    split
    · simp [tget]
    · split
      · simp [tget]
      · rename_i hne
        simpa [tget, hne] using ih

/-- A write leaves every other key as it was, in canonical form or not. -/
theorem tget_tput_of_ne (t : Tbl α) {j k : Nat} (hjk : j ≠ k) (v : α) : tget d (tput d t k v) j = tget d t j := by
  induction t with
  | nil => by_cases hv : v = d <;> simp [tput, hv, tget, hjk]
  | cons p t ih =>
    simp only [tput]
    split
    · split <;> simp [tget, hjk]
    · split
      · rename_i hk
        subst hk
        split <;> simp [tget, hjk]
      · simp [tget, ih]

omit [DecidableEq α] in
/-- A table whose values are all mapped reads as the mapped value, where the default is mapped to itself. -/
theorem tget_map (f : α → α) (hd : f d = d) (t : Tbl α) (k : Nat) : tget d (t.map (fun p => (p.1, f p.2))) k = f (tget d t k) := by
  induction t with
  | nil => exact hd.symm
  | cons p t ih =>
    simp only [List.map_cons, tget]
    split
    · rfl
    · exact ih

omit [DecidableEq α] in
/-- A key that does not read as the default is listed with its value. -/
theorem mem_of_tget_ne {t : Tbl α} {k : Nat} (h : tget d t k ≠ d) : (k, tget d t k) ∈ t := by
  induction t with
  | nil => exact absurd rfl h
  | cons p t ih =>
    simp only [tget] at h ⊢
    split at h
    · rename_i hk
      rw [if_pos hk, hk]
      exact List.mem_cons_self
    · rename_i hk
      rw [if_neg hk]
      exact List.mem_cons_of_mem _ (ih h)

/-- A replaced partition that differs from an unused one is read back. -/
theorem part_setPart_of_ne_default (s : State) (p : Nat) {q : Part} (hq : q ≠ {}) : (s.setPart p q).part p = q :=
  tget_tput_of_ne_default _ _ hq

theorem part_setPart_of_ne (s : State) {j p : Nat} (h : j ≠ p) (q : Part) : (s.setPart p q).part j = s.part j :=
  tget_tput_of_ne _ h _

/-- The sum that the model folds is the sum of the list. -/
theorem foldl_add_eq_sum (xs : List Nat) : xs.foldl (fun a b => a + b) 0 = xs.sum := List.sum_eq_foldl.symm

/-! ### Events -/

/-- A partition without its queue of events. -/
def quiet (q : Part) : Part := { q with evq := [], evLost := false }

/-- An event changes nothing of a partition but its queue of events (R402). -/
@[simp] theorem quiet_event (q : Part) (kind : Nat) : quiet (q.event kind) = quiet q := by
  unfold Part.event
  split
  · rfl
  · split
    · rfl
    · split <;> rfl

@[simp] theorem quiet_cus (q : Part) : (quiet q).cus = q.cus := by
  have hh : (quiet q).has = q.has := rfl
  rw [Part.cus, hh, Part.cus]

/-- The partitions without their queues of events. -/
def quietParts (ps : Tbl Part) : Tbl Part := ps.map (fun p => (p.1, quiet p.2))

/-! ### What a charge leaves unchanged -/

/-- The second state differs from the first in energy counters and queued events alone. -/
structure OnlyCharged (s t : State) : Prop where
  rest : t = { s with ctxs := t.ctxs, parts := t.parts }
  parts : quietParts t.parts = quietParts s.parts

namespace OnlyCharged

variable {s t u : State}

theorem refl (s : State) : OnlyCharged s s := ⟨rfl, rfl⟩

theorem trans (h : OnlyCharged s t) (k : OnlyCharged t u) : OnlyCharged s u :=
  ⟨k.rest.trans (by rw [h.rest]), k.parts.trans h.parts⟩

theorem slot (h : OnlyCharged s t) : t.slot = s.slot := (congrArg State.slot h.rest :)
theorem others (h : OnlyCharged s t) : t.others = s.others := (congrArg State.others h.rest :)
theorem sys (h : OnlyCharged s t) : t.sys = s.sys := (congrArg State.sys h.rest :)

/-- Each partition is as it was, but for its queue of events. -/
theorem quiet_part (h : OnlyCharged s t) (p : Nat) : quiet (t.part p) = quiet (s.part p) := by
  have key (ps : Tbl Part) : quiet (tget {} ps p) = tget {} (quietParts ps) p := (tget_map quiet rfl ps p).symm
  exact (key t.parts).trans ((congrArg (fun ps => tget {} ps p) h.parts).trans (key s.parts).symm)

theorem part_ctx (h : OnlyCharged s t) (p : Nat) : (t.part p).ctx = (s.part p).ctx := (congrArg Part.ctx (h.quiet_part p) :)

/-- The contexts that a partition names do not depend on queued events. -/
theorem partCtxs (h : OnlyCharged s t) : t.partCtxs = s.partCtxs := by
  have key (v : State) : v.partCtxs = (((quietParts v.parts).filter (fun q => q.2.en)).map (fun q => q.2.ctx)).eraseDups := by
    simp only [State.partCtxs, quietParts, List.filter_map, List.map_map]
    rfl
  rw [key, key, h.parts]

/-- The static energy of a context does not depend on queued events. -/
theorem staticNj (h : OnlyCharged s t) (c : Nat) : t.staticNj c = s.staticNj c := by
  have key (v : State) : v.unitsOf c =
      (((quietParts v.parts).filter (fun q => q.2.en && q.2.ctx == c)).map (fun q => q.2.cus.length)).foldl (fun a b => a + b) 0 := by
    simp only [State.unitsOf, quietParts, List.filter_map, List.map_map, Function.comp_def, quiet_cus]
    rfl
  simp only [State.staticNj, key, h.parts]

/-- Steps that only charge, taken in turn, only charge. -/
theorem foldl {β : Type} {f : State → β → State} (hf : ∀ t x, OnlyCharged t (f t x)) (xs : List β) (s : State) :
    OnlyCharged s (xs.foldl f s) := by
  induction xs generalizing s with
  | nil => exact refl s
  | cons x xs ih => exact (hf s x).trans (ih _)

end OnlyCharged

theorem onlyCharged_setCtx (s : State) (c : Nat) (x : Ctx) : OnlyCharged s (s.setCtx c x) := ⟨rfl, rfl⟩

/-- A charge in nJ replaces its context, and tells a saturation to the partitions of the context (R407). -/
theorem onlyCharged_chargeNj (s : State) (c n : Nat) : OnlyCharged s (s.chargeNj c n) := by
  unfold State.chargeNj
  dsimp only
  split
  · refine ⟨rfl, ?_⟩
    simp only [quietParts, setCtx_parts, List.map_map]
    refine List.map_congr_left (fun p _ => ?_)
    simp only [Function.comp_apply]
    split <;> simp
  · exact onlyCharged_setCtx s c _

theorem onlyCharged_charge (s : State) (c cls n : Nat) : OnlyCharged s (s.charge c cls n) := by
  unfold State.charge
  dsimp only
  split
  · exact onlyCharged_setCtx s c _
  · exact (onlyCharged_setCtx s c _).trans (onlyCharged_chargeNj _ c _)

theorem onlyCharged_postSlot (s : State) (x : Slot) : OnlyCharged s (s.postSlot x) := by
  unfold State.postSlot
  exact OnlyCharged.foldl (fun t e => onlyCharged_charge t _ _ _) _ s

theorem onlyCharged_postSlots (s : State) (xs : List Slot) : OnlyCharged s (xs.foldl (fun s x => s.postSlot x) s) :=
  OnlyCharged.foldl onlyCharged_postSlot xs s

/-! ### What a charge adds -/

/-- The energy of a context in pJ (R405, R407). -/
def energy (s : State) (c : Nat) : Nat := 1000 * (s.ctx c).nj + (s.ctx c).pj

@[simp] theorem chargeNj_ctxs (s : State) (c n : Nat) : (s.chargeNj c n).ctxs = tput {} s.ctxs c ((s.ctx c).addNj n).1 := by
  unfold State.chargeNj
  dsimp only
  split <;> rfl

theorem chargeNj_ctx (s : State) (h : twf {} s.ctxs = true) (c n d : Nat) :
    (s.chargeNj c n).ctx d = if d = c then ((s.ctx c).addNj n).1 else s.ctx d := by
  simp only [State.ctx, chargeNj_ctxs]
  exact tget_tput h _ _ _

theorem twf_chargeNj {s : State} (h : twf {} s.ctxs = true) (c n : Nat) : twf {} (s.chargeNj c n).ctxs = true := by
  rw [chargeNj_ctxs]
  exact twf_tput h _ _

/-- Below its greatest value the counter of nJ grows by what is added (R407). -/
theorem addNj_of_lt (x : Ctx) {n : Nat} (h : x.nj + n < 2 ^ 48) : (x.addNj n).1 = { x with nj := x.nj + n } := by
  simp only [Ctx.addNj]
  rw [if_neg (by omega)]

theorem twf_charge {s : State} (h : twf {} s.ctxs = true) (c cls n : Nat) : twf {} (s.charge c cls n).ctxs = true := by
  unfold State.charge
  dsimp only
  split
  · exact twf_tput h _ _
  · exact twf_chargeNj (s := s.setCtx c _) (twf_tput h _ _) _ _

theorem energy_chargeNj_self {s : State} (h : twf {} s.ctxs = true) (c n : Nat) (hb : energy s c + 1000 * n < 1000 * 2 ^ 48) :
    energy (s.chargeNj c n) c = energy s c + 1000 * n := by
  unfold energy at hb ⊢
  rw [chargeNj_ctx s h, if_pos rfl, addNj_of_lt _ (by omega)]
  dsimp only
  omega

theorem ctx_charge_of_ne {s : State} (h : twf {} s.ctxs = true) {c d : Nat} (hd : d ≠ c) (cls n : Nat) :
    (s.charge c cls n).ctx d = s.ctx d := by
  unfold State.charge
  dsimp only
  split
  · rw [ctx_setCtx s h, if_neg hd]
  · rw [chargeNj_ctx _ (twf_tput h _ _), if_neg hd, ctx_setCtx s h, if_neg hd]

/-- A charge raises the energy of its context by its units, in pJ (R197, R405). -/
theorem energy_charge_self {s : State} (h : twf {} s.ctxs = true) (c cls n : Nat)
    (hb : energy s c + n * s.sys.weight cls < 1000 * 2 ^ 48) : energy (s.charge c cls n) c = energy s c + n * s.sys.weight cls := by
  unfold State.charge
  dsimp only
  generalize n * s.sys.weight cls = e at hb ⊢
  have hs (x : Ctx) : (s.setCtx c x).ctx c = x := ctx_setCtx_self s h c x
  split
  · unfold energy at hb ⊢
    rw [hs]
    dsimp only
    omega
  · have hn (x : Ctx) : energy (s.setCtx c x) c = 1000 * x.nj + x.pj := by rw [energy, hs]
    unfold energy at hb
    rw [energy_chargeNj_self (twf_tput h _ _), hn]
    · dsimp only [energy]
      omega
    · rw [hn]
      dsimp only
      omega

/-- The second state is the first with charges posted that add `n` pJ to context `c`. -/
structure Adds (c n : Nat) (s t : State) : Prop where
  only : OnlyCharged s t
  canon : twf {} t.ctxs = true
  total : energy s c + n < 1000 * 2 ^ 48 → energy t c = energy s c + n

theorem Adds.refl {s : State} (h : twf {} s.ctxs = true) (c : Nat) : Adds c 0 s s := ⟨.refl s, h, fun _ => rfl⟩

theorem Adds.trans {c m n : Nat} {s t u : State} (h : Adds c m s t) (k : Adds c n t u) : Adds c (m + n) s u where
  only := h.only.trans k.only
  canon := k.canon
  total hb := by
    have ht := h.total (by omega)
    rw [k.total (by omega), ht, Nat.add_assoc]

/-- Steps that each add what one of the listed items is worth add the sum. -/
theorem Adds.foldl {β : Type} {c : Nat} {s : State} {f : State → β → State} {worth : β → Nat}
    (hf : ∀ t x, OnlyCharged s t → twf {} t.ctxs = true → Adds c (worth x) t (f t x)) (xs : List β) {t : State}
    (ht : OnlyCharged s t) (hw : twf {} t.ctxs = true) : Adds c (xs.map worth).sum t (xs.foldl f t) := by
  induction xs generalizing t with
  | nil => exact Adds.refl hw c
  | cons x xs ih =>
    have hx := hf t x ht hw
    exact hx.trans (ih (ht.trans hx.only) hx.canon)

theorem adds_charge {s : State} (h : twf {} s.ctxs = true) (c e cls n : Nat) :
    Adds c (if e = c then n * s.sys.weight cls else 0) s (s.charge e cls n) where
  only := onlyCharged_charge s e cls n
  canon := twf_charge h e cls n
  total hb := by
    split at hb
    · rename_i he
      subst he
      rw [energy_charge_self h e cls n hb, if_pos rfl]
    · rename_i he
      rw [energy, ctx_charge_of_ne h (Ne.symm he), if_neg he]
      rfl

theorem adds_chargeNj {s : State} (h : twf {} s.ctxs = true) (c e n : Nat) :
    Adds c (if e = c then 1000 * n else 0) s (s.chargeNj e n) where
  only := onlyCharged_chargeNj s e n
  canon := twf_chargeNj h e n
  total hb := by
    split at hb
    · rename_i he
      subst he
      rw [energy_chargeNj_self h e n hb, if_pos rfl]
    · rename_i he
      rw [energy, chargeNj_ctx s h, if_neg (Ne.symm he), if_neg he]
      rfl

end Sys2Proof.Organisation
end

section
/-! SUPPORT. O2: a step takes the head of the agenda, and ends with what the caches have to report. -/

namespace Sys2Proof.Organisation

open Sys2Proof Sys2Proof.Machine Sys2Proof.Laws

/-! ### Reports of the caches (R209, R277, R405) -/

/-- A record written to its ring slot leaves what the caches have to report. -/
theorem notes_write (r : FRing) (m : Mem) (seq : Word) (x : FRec) : (r.write m seq x).1.notes = m.notes := by
  have key (g v : Nat → Nat) (xs : List Nat) (m : Mem) : (xs.foldl (fun m i => m.woPut (g i) (v i)) m).notes = m.notes := by
    induction xs generalizing m with
    | nil => rfl
    | cons i xs ih => exact ih _
  exact key _ _ _ _

theorem notes_take (r : FRing) (m : Mem) (x : FRec) : (r.take m x).1.notes = m.notes := by
  unfold FRing.take
  split
  · exact notes_write r m _ x
  · split <;> rfl

/-- Taking a report, whether a charge or a record, adds no report. -/
theorem notes_takeNote (s : State) (n : MemNote) : (s.takeNote n).mem.notes = s.mem.notes := by
  cases n with
  | energy c cls n => exact congrArg Mem.notes (charge_mem s c cls n)
  | poisoned line c req =>
    simp only [State.takeNote, State.emitCtx]
    split
    · exact notes_take _ _ _
    · exact notes_take _ _ _

/-- Nothing is left to report at the end of a step. -/
theorem notes_settleNotes (s : State) : s.settleNotes.mem.notes = [] := by
  have key (ns : List MemNote) (t : State) : (ns.foldl State.takeNote t).mem.notes = t.mem.notes := by
    induction ns generalizing t with
    | nil => rfl
    | cons n ns ih => exact (ih _).trans (notes_takeNote t n)
  exact key _ _

/-- A state with nothing to report stays as it is. -/
theorem settleNotes_of_nil {s : State} (h : s.mem.notes = []) : s.settleNotes = s := by
  unfold State.settleNotes
  rw [h, List.foldl_nil, ← h]

/-- A single energy report is a charge. -/
theorem settleNotes_energy {s : State} {c cls n : Nat} (h : s.mem.notes = [.energy c cls n]) :
    s.settleNotes = ({ s with mem := { s.mem with notes := [] } } : State).charge c cls n := by
  unfold State.settleNotes
  rw [h]
  rfl

/-! ### The passage of time (R32) -/

theorem elapse_timer (s : State) (n : Nat) : (s.elapse n).timer.toNat = min (s.timer.toNat + n) (2 ^ 64 - 1) := by
  unfold State.elapse
  split
  · rw [BitVec.toNat_ofNat]
    omega
  · rw [BitVec.toNat_add, BitVec.toNat_ofNat]
    omega

theorem elapse_tsat (s : State) (n : Nat) : (s.elapse n).sys.tsat = (s.sys.tsat || decide (2 ^ 64 - 1 < s.timer.toNat + n)) := by
  unfold State.elapse
  split
  · rename_i hlast
    rw [decide_eq_true hlast, Bool.or_true]
  · rename_i hbefore
    rw [decide_eq_false hbefore, Bool.or_false]

/-- Time changes the timer and PSTAT.TSAT alone. -/
theorem elapse_frame (s : State) (n : Nat) :
    s.elapse n = { s with timer := (s.elapse n).timer, sys := { s.sys with tsat := (s.elapse n).sys.tsat } } := by
  unfold State.elapse
  split <;> rfl

/-! ### The head of the agenda -/

theorem step_nil {s : State} (h : s.agenda = []) : step s = settled (issuePe s s.slot.place) := by
  unfold step
  rw [h]

theorem step_event {s : State} {i : Instr} {rest : List Action} (h : s.agenda = .event i :: rest) :
    step s = settled (exec i { s with agenda := rest, stall := false }) := by
  unfold step
  rw [h]

theorem step_elapse {s : State} {n : Nat} {rest : List Action} (h : s.agenda = .elapse n :: rest) :
    step s = .next (({ s with agenda := rest } : State).elapse n) := by
  unfold step
  rw [h]

/-- Settles O2: one equation per head of the agenda, what the passage of time changes, and the reports taken at a step's end. -/
theorem stepTakesTheAgendaHead : Obligations.StepTakesTheAgendaHead := by
  intro s rest i n
  refine ⟨step_event, step_nil, fun t => ⟨rfl, notes_settleNotes t, settleNotes_of_nil, fun c cls k => settleNotes_energy⟩, ?_⟩
  intro h
  exact ⟨_, step_elapse h, elapse_timer _ n, elapse_tsat _ n, elapse_frame _ n⟩

end Sys2Proof.Organisation
end

section
/-! SUPPORT. O46: the arbiter grants a queue that none goes before, and the power arbiter the steps that the budget pays for. -/

namespace Sys2Proof.Organisation

open Sys2Proof Sys2Proof.Machine Sys2Proof.Laws Sys2Proof.Claims

/-! ### The queue that a decision grants (R388) -/

/-- A queue may be granted before another: its priority number is smaller, or the same and it was not granted later. -/
def notAfter (a b : Lq) : Prop := a.prio < b.prio ∨ (a.prio = b.prio ∧ a.recent ≤ b.recent)

theorem notAfter_refl (a : Lq) : notAfter a a := .inr ⟨rfl, Nat.le_refl _⟩

theorem notAfter_trans {a b c : Lq} (h : notAfter a b) (k : notAfter b c) : notAfter a c := by
  unfold notAfter at *
  omega

theorem notAfter_of_before {a b : Lq} (h : a.before b = true) : notAfter a b := by
  simp only [Lq.before, Bool.or_eq_true, Bool.and_eq_true, decide_eq_true_eq, beq_iff_eq] at h
  unfold notAfter
  omega

theorem notAfter_of_not_before {a b : Lq} (h : ¬a.before b = true) : notAfter b a := by
  simp only [Lq.before, Bool.or_eq_true, Bool.and_eq_true, decide_eq_true_eq, beq_iff_eq] at h
  unfold notAfter
  omega

/-- Among any queues there is a best one, and no other goes before it. -/
theorem bestQueue_spec (s : State) {xs : List (Nat × Nat)} (h : xs ≠ []) :
    ∃ x ∈ xs, s.bestQueue xs = some x ∧ ∀ y ∈ xs, notAfter (s.lq x.1 x.2) (s.lq y.1 y.2) := by
  induction xs with
  | nil => exact absurd rfl h
  | cons x xs ih =>
    cases xs with
    | nil => exact ⟨x, by simp, rfl, by simp [notAfter_refl]⟩
    | cons z zs =>
      obtain ⟨y, hy, hb, hmin⟩ := ih (by simp)
      rw [State.bestQueue, hb]
      dsimp only
      split
      · rename_i hbefore
        exact ⟨y, by simp [List.mem_cons.mp hy], rfl, List.forall_mem_cons.mpr ⟨notAfter_of_before hbefore, hmin⟩⟩
      · rename_i hnot
        have hx := notAfter_of_not_before hnot
        exact ⟨x, by simp, rfl, List.forall_mem_cons.mpr ⟨notAfter_refl _, fun w hw => notAfter_trans hx (hmin w hw)⟩⟩

/-- What a queue hands to a partition at its grant: what a pre-emption kept, or a launch at its first record (R388, R402). -/
def keptOrNew (q : Lq) : Kept :=
  q.kept.getD { ridx := 0, drained := 0, evq := [], evLost := false, req := ⟨16, 16, 16⟩, snap := none }

theorem keptOrNew_none {q : Lq} (h : q.kept = none) :
    keptOrNew q = { ridx := 0, drained := 0, evq := [], evLost := false, req := ⟨16, 16, 16⟩, snap := none } := by
  rw [keptOrNew, h, Option.getD_none]

theorem keptOrNew_some {q : Lq} {k : Kept} (h : q.kept = some k) : keptOrNew q = k := by rw [keptOrNew, h, Option.getD_some]

/-- The launch that a grant of a queue starts or resumes: the words of its head slot and the records already drained (R383, R386). -/
def grantedLaunch (s : State) (f n : Nat) : Launch :=
  let v := (s.headSlot f n).getD 0
  { fn := f, q := n, reca := bits v 51 6 * 64, cmpl := bits v 115 67 * 8, evmask := BitVec.ofNat 4 (bits v 3 0),
    drained := (keptOrNew (s.lq f n)).drained }

/-- A partition replaced by one with a launch is read back. -/
theorem part_setPart_of_launch (s : State) (p : Nat) {q : Part} (hq : q.launch.isSome = true) : (s.setPart p q).part p = q :=
  part_setPart_of_ne_default s p (fun h => by simp [h] at hq)

theorem hvDrop_part (s : State) (c va n : Nat) (w : Bool) (p : Nat) : (s.hvDrop c va n w).part p = s.part p := rfl
theorem hvDrop_timer (s : State) (c va n : Nat) (w : Bool) : (s.hvDrop c va n w).timer = s.timer := rfl
theorem markGranted_part (s : State) (f n p : Nat) : (s.markGranted f n).part p = s.part p := rfl
theorem markGranted_timer (s : State) (f n : Nat) : (s.markGranted f n).timer = s.timer := rfl

/-- The partition after a grant holds the launch of the queue, as it starts or as a pre-emption left it (R388, R389, R402). -/
theorem part_grantQueue (s : State) (p f n : Nat) : (s.grantQueue p f n).part p =
    let k := keptOrNew (s.lq f n)
    { s.part p with
      launch := some (grantedLaunch s f n), ridx := k.ridx, req := k.req, evq := k.evq, evLost := k.evLost, preempt := false,
      grantAt := s.timer, stopCode := false, restore := k.snap, record := (k.snap.map (fun z => z.record)).getD 0,
      phase := if k.snap.isSome then .fetch else .read } := by
  simp only [State.grantQueue, markGranted_part, markGranted_timer, part_setLq, setLq_timer, hvDrop_part, hvDrop_timer]
  rw [part_setPart_of_launch]
  · rfl
  · rfl

theorem exec_arbiterGrant_none {s : State} {p : Nat} (hbad : s.badSlot p = none) (h : s.bestQueue (s.readyQueues p) = none) :
    exec (.arbiterGrant p) s = .next s := by
  show execArbiterGrant p s = _
  simp [execArbiterGrant, hbad, h]

theorem exec_arbiterGrant_some {s : State} {p f n : Nat} (hbad : s.badSlot p = none) (hidle : (s.part p).phase = .idle)
    (hheld : s.sys.held = false) (h : s.bestQueue (s.readyQueues p) = some (f, n)) :
    exec (.arbiterGrant p) s = .next (s.grantQueue p f n) := by
  show execArbiterGrant p s = _
  simp [execArbiterGrant, hbad, hidle, hheld, h]

/-- The arbiter's part of O46. -/
theorem arbiterGrantsTheFirstQueue : ArbiterGrantsTheFirstQueue := by
  intro s p hbad hidle hheld
  refine ⟨fun hnone => exec_arbiterGrant_none hbad (by rw [hnone]; rfl), fun hready => ?_⟩
  obtain ⟨⟨f, n⟩, hmem, hbest, hmin⟩ := bestQueue_spec s hready
  have hpart := part_grantQueue s p f n
  refine ⟨f, n, s.grantQueue p f n, hmem, exec_arbiterGrant_some hbad hidle hheld hbest, hmin,
    ⟨grantedLaunch s f n, by rw [hpart], rfl, rfl⟩, by rw [hpart], by rw [hpart], fun hnew => ?_, fun k hkept => ?_⟩
  · rw [hpart, keptOrNew_none hnew]
    exact ⟨rfl, rfl, rfl, rfl⟩
  · rw [hpart, keptOrNew_some hkept]
    exact ⟨rfl, rfl, rfl, rfl⟩

/-! ### Clock grants (R397 to R400) -/

/-- At 0 the search stands at the steps of the floor. -/
theorem stepsAt_zero (q : Part) : q.stepsAt 0 = q.low := by simp [Part.stepsAt]

/-- The search takes the largest j within its bound that the budget pays for (R398). -/
theorem search_spec (q : Part) (c : Steps) {b : Nat} (hlow : c.power q.low ≤ b) (m : Nat) :
    ∃ j ≤ m, q.search c b m = q.stepsAt j ∧ c.power (q.stepsAt j) ≤ b ∧ ∀ i, j < i → i ≤ m → b < c.power (q.stepsAt i) := by
  induction m with
  | zero => exact ⟨0, Nat.le_refl _, (stepsAt_zero q).symm, (stepsAt_zero q).symm ▸ hlow, fun i hi hm => by omega⟩
  | succ m ih =>
    rw [Part.search]
    split
    · rename_i hfits
      exact ⟨m + 1, Nat.le_refl _, rfl, hfits, fun i hi hm => by omega⟩
    · rename_i hover
      obtain ⟨j, hj, hs, hp, hmax⟩ := ih
      refine ⟨j, by omega, hs, hp, fun i hi hm => ?_⟩
      rcases Nat.lt_or_eq_of_le hm with hlt | rfl
      · exact hmax i hi (by omega)
      · omega

/-- At every j of the search the steps of a domain lie between its floor and its request. -/
theorem scaled_between {floor req j : Nat} (hj : j ≤ 256) :
    min floor req ≤ max (min floor req) (j * req / 256) ∧ max (min floor req) (j * req / 256) ≤ req := by
  have h : j * req / 256 ≤ req := Nat.div_le_of_le_mul (Nat.mul_le_mul_right req hj)
  omega

/-- A changed grant comes into force and counts GRSEQ up, whatever events it queues (R400, R402). -/
theorem granted_of_ne {q : Part} {g : Steps} (h : g ≠ q.grant) (k : Option Nat) :
    (q.granted g k).grant = g ∧ (q.granted g k).grseq = q.grseq + 1 := by
  have hq : quiet (q.granted g k) = quiet { q with grant := g, grseq := q.grseq + 1 } := by
    rw [Part.granted, if_neg h]
    cases k <;> simp
  exact ⟨(congrArg Part.grant hq :), (congrArg Part.grseq hq :)⟩

theorem granted_of_eq {q : Part} {g : Steps} (h : g = q.grant) (k : Option Nat) : q.granted g k = q := by
  rw [Part.granted, if_pos h]

/-- No floor can be met with a budget that is not above 0 (R399). -/
theorem grantOf_unreachable {s : State} (h : s.budget ≤ 0) (q : Part) : s.grantOf q = ⟨4, 4, 4⟩ := by
  simp [State.grantOf, h]

/-- A budget that holds the floors is shared out by the search (R398). -/
theorem grantOf_holds {s : State} (hpos : 0 < s.budget) (h : (s.floorSum : Int) ≤ s.budget) (q : Part) :
    s.grantOf q = q.search q.coefs
      (q.coefs.power q.low + (s.budget.toNat - s.floorSum) * q.weight / (s.holding.map (fun x => x.weight)).sum) 256 := by
  simp only [State.grantOf, foldl_add_eq_sum]
  rw [if_neg (by omega), if_pos h]

/-- A budget below the floors scales them (R399). -/
theorem grantOf_breach {s : State} (hpos : 0 < s.budget) (h : s.budget < (s.floorSum : Int)) (q : Part) :
    let cut (x : Nat) : Nat := max 4 (x * s.budget.toNat / s.floorSum)
    s.grantOf q = ⟨cut q.low.mx, cut q.low.vc, cut q.low.mm⟩ := by
  simp only [State.grantOf]
  rw [if_neg (by omega), if_neg (by omega)]

/-- A partition is granted something when it holds an imposition or the cap is unreachable (R397, R399). -/
theorem grants_eq (s : State) (q : Part) : s.grants q = (q.launch.isSome || decide (s.budget ≤ 0)) := by
  simp only [State.grants, State.capKind]
  split
  · simp [*]
  · split <;> simp [*]

/-- The power arbiter's part of O46. -/
theorem clockGrants : ClockGrants := by
  refine ⟨fun s p => ?_, fun s v => rfl⟩
  intro q a g k t total share
  have hexec : exec (.grantRecompute p) s = .next (if s.grants q then t.setPart p (q.granted g k) else t) := rfl
  rw [grants_eq] at hexec
  refine ⟨?_, ?_, fun h => granted_of_ne h k, fun h => granted_of_eq h k, fun h => grantOf_unreachable h q, ?_,
    fun hpos h => grantOf_breach hpos h q⟩
  · intro hlaunch hpos
    have hnot : ¬s.budget ≤ 0 := Int.not_le.mpr hpos
    rw [hexec]
    simp [hlaunch, hnot]
  · intro h
    have hor : (q.launch.isSome || decide (s.budget ≤ 0)) = true := by simpa using h
    rw [hexec, hor]
    rfl
  · intro hpos hfloor
    obtain ⟨j, hj, hsteps, hpays, hmax⟩ := search_spec q q.coefs (b := share) (Nat.le_add_right _ _) 256
    have hg : g = q.stepsAt j := (grantOf_holds hpos hfloor q).trans hsteps
    obtain ⟨hmx, hmx'⟩ := scaled_between (floor := q.floor.mx) (req := q.req.mx) hj
    obtain ⟨hvc, hvc'⟩ := scaled_between (floor := q.floor.vc) (req := q.req.vc) hj
    obtain ⟨hmm, hmm'⟩ := scaled_between (floor := q.floor.mm) (req := q.req.mm) hj
    rw [hg]
    exact ⟨j, hj, rfl, hpays, hmax, hmx, hmx', hvc, hvc', hmm, hmm'⟩

/-- Settles O46, from the arbiter's choice of a least queue and the search of the power arbiter. -/
theorem arbiterAndClockGrants : Obligations.ArbiterAndClockGrants := ⟨arbiterGrantsTheFirstQueue, clockGrants⟩

end Sys2Proof.Organisation
end

section
/-! SUPPORT. O56: the registers of the timer, the energy of a microsecond, and the limits of temperature. -/

namespace Sys2Proof.Organisation

open Sys2Proof Sys2Proof.Machine Sys2Proof.Laws Sys2Proof.Claims

/-! ### The timer (R32, R408, R423) -/

theorem hosted_of_deaf {s : State} (h : s.deaf = true) (t : State) : s.hosted t = s := by simp [State.hosted, h]
theorem hosted_of_not_deaf {s : State} (h : s.deaf = false) (t : State) : s.hosted t = t := by simp [State.hosted, h]

/-- A relocked link keeps its lock while its offset has not moved and its peer counts from this package's epoch (R423). -/
theorem link_relock (s : State) (moved : Bool) (n : Nat) : tget {} (s.relock moved).sys.links n =
    { (tget {} s.sys.links n : HvLink) with
      lock := (tget {} s.sys.links n : HvLink).lock && !moved && (tget {} s.sys.links n : HvLink).peer == s.sys.tepoch } :=
  tget_map (fun l : HvLink => { l with lock := l.lock && !moved && l.peer == s.sys.tepoch }) rfl s.sys.links n

theorem link_relock_moved (s : State) (n : Nat) :
    tget {} (s.relock true).sys.links n = { (tget {} s.sys.links n : HvLink) with lock := false } := by
  rw [link_relock, Bool.not_true, Bool.and_false, Bool.false_and]

/-- A link whose peer counts from this package's epoch stays as it is where no offset has moved. -/
theorem link_relock_of_peer {s : State} {n : Nat}
    (h : (tget {} s.sys.links n : HvLink).lock = true → (tget {} s.sys.links n : HvLink).peer = s.sys.tepoch) :
    tget {} (s.relock false).sys.links n = tget {} s.sys.links n := by
  rw [link_relock]
  generalize (tget {} s.sys.links n : HvLink) = l at h ⊢
  obtain ⟨up, train, lock, peer, low⟩ := l
  cases lock with
  | false => rfl
  | true => simp [show peer = s.sys.tepoch from h rfl]

theorem timeset_refused {s : State} {v : Dword} (h : s.resident = true ∨ v.toNat < s.timer.toNat) : s.timeset v = s.refuseTime := by
  rw [State.timeset, if_pos (by simpa using h)]

theorem timeset_taken {s : State} {v : Dword} (hr : s.resident = false) (hv : s.timer.toNat ≤ v.toNat) :
    s.timeset v = ({ s with timer := v } : State).relock (v != s.timer) := by
  rw [State.timeset, if_neg (by simp [hr, hv])]

theorem tepoch_refused {s : State} {v : Dword} {src : Option Nat} (h : s.resident = true ∨ s.tai src < v.toNat % 2 ^ 48 * perSecond ∨
    16 * 2 ^ 60 < s.tai src - v.toNat % 2 ^ 48 * perSecond) : s.tepoch v src = s.refuseTime := by
  rw [State.tepoch, if_pos (by simpa [or_assoc] using h)]

theorem tepoch_taken {s : State} {v : Dword} {src : Option Nat} (hr : s.resident = false) (he : v.toNat % 2 ^ 48 * perSecond ≤ s.tai src)
    (hn : s.tai src - v.toNat % 2 ^ 48 * perSecond ≤ 16 * 2 ^ 60) : s.tepoch v src =
      ({ s with timer := BitVec.ofNat 64 (min (s.tai src - v.toNat % 2 ^ 48 * perSecond) (2 ^ 64 - 1)),
                sys := { s.sys with tepoch := v.toNat % 2 ^ 48, tsat := false } } : State).relock false := by
  rw [State.tepoch, if_neg (by simp only [hr, Bool.false_or, Bool.or_eq_true, decide_eq_true_eq]; omega)]

/-- The timer's part of O56. -/
theorem timerRegisters : TimerRegisters := by
  intro s v src refused e own now
  have hset : exec (.timesetWrite v) s = .next (s.hosted (s.timeset v)) := rfl
  have hepoch : exec (.tepochWrite v src) s = .next (s.hosted (s.tepoch v src)) := rfl
  have hsat : exec .timerSaturate s =
      .next (if s.timer = BitVec.allOnes 64 then { s with sys := { s.sys with tsat := true } } else s) := rfl
  refine ⟨fun hd => ?_, fun hd => ?_, fun h => by rw [hsat, if_pos h], fun h => by rw [hsat, if_neg h]⟩
  · rw [hset, hepoch, hosted_of_deaf hd, hosted_of_deaf hd]
    exact ⟨rfl, rfl⟩
  · rw [hset, hepoch, hosted_of_not_deaf hd, hosted_of_not_deaf hd]
    refine ⟨fun hr hv => ?_, fun h => by rw [timeset_refused h]; rfl, fun hr he hn => ?_, fun h => by rw [tepoch_refused h]; rfl⟩
    · rw [timeset_taken hr hv]
      refine ⟨_, rfl, rfl, rfl, fun hsame hpeers n => ?_, fun hmoved n => ?_⟩
      · rw [show (v != s.timer) = false by simpa using hsame]
        exact link_relock_of_peer (hpeers n)
      · rw [show (v != s.timer) = true by simpa using hmoved]
        exact link_relock_moved _ n
    · rw [tepoch_taken hr he hn]
      refine ⟨_, rfl, rfl, rfl, rfl, rfl, fun n => ?_⟩
      rw [link_relock]
      simp [beq_eq_decide]

/-! ### The energy of a microsecond (R197, R405, R406) -/

/-- What a slot owes in pJ. -/
def owedPj (s : State) (x : Slot) : Nat := (x.owed.map (fun e => e.2 * s.sys.weight e.1)).sum

/-- What a slot owes goes to the context of its partition. -/
theorem adds_postSlot {s t : State} (hst : OnlyCharged s t) (h : twf {} t.ctxs = true) (c : Nat) (x : Slot) :
    Adds c (if (s.part x.prt).ctx = c then owedPj s x else 0) t (t.postSlot x) := by
  have key : Adds c (x.owed.map (fun e => if (s.part x.prt).ctx = c then e.2 * s.sys.weight e.1 else 0)).sum t (t.postSlot x) :=
    Adds.foldl (s := s) (fun u e hu hw => by
      rw [← hu.part_ctx, ← hu.sys]
      exact adds_charge hw c _ e.1 e.2) x.owed hst h
  unfold owedPj
  split at key
  · rename_i hc
    rwa [if_pos hc]
  · rename_i hc
    rw [if_neg hc]
    simpa using key

/-- What the slots of a context's partitions owe, in pJ. -/
def slotsPj (s : State) (c : Nat) : Nat := (s.slots.map (fun x => if (s.part x.prt).ctx = c then owedPj s x else 0)).sum

/-- The static share of a context over a microsecond, in pJ; none for one that no partition names (R406). -/
def sharePj (s : State) (c : Nat) : Nat := 1000 * (if s.partCtxs.contains c then s.staticNj c else 0)

theorem adds_postSlots {s : State} (h : twf {} s.ctxs = true) (c : Nat) :
    Adds c (slotsPj s c) s (s.slots.foldl (fun s x => s.postSlot x) s) :=
  Adds.foldl (s := s) (fun _ x ht hw => adds_postSlot ht hw c x) s.slots (.refl s) h

/-- What the slots of a context owe, slot by slot, is the sum of all their entries. -/
theorem slotsPj_eq (s : State) (c : Nat) : slotsPj s c =
    (((s.slots.filter (fun x => (s.part x.prt).ctx == c)).flatMap (fun x => x.owed)).map (fun e => e.2 * s.sys.weight e.1)).sum := by
  unfold slotsPj
  induction s.slots with
  | nil => rfl
  | cons x xs ih =>
    rw [List.map_cons, List.sum_cons, ih]
    by_cases hc : (s.part x.prt).ctx = c <;> simp [hc, owedPj]

theorem nodup_eraseDups (xs : List Nat) : xs.eraseDups.Nodup := by
  induction hn : xs.length using Nat.strong_induction_on generalizing xs with
  | _ n ih =>
    cases xs with
    | nil => exact List.nodup_nil
    | cons x xs =>
      rw [List.eraseDups_cons, List.nodup_cons, List.mem_eraseDups]
      have hlen : (xs.filter (fun y => !y == x)).length < n := by
        have := List.length_filter_le (fun y => !y == x) xs
        rw [List.length_cons] at hn
        omega
      exact ⟨by simp, ih _ hlen _ rfl⟩

/-- The static power shared out: every named context is charged its share once. -/
theorem adds_shares {t : State} (h : twf {} t.ctxs = true) (share : Nat → Nat) {cs : List Nat} (hnd : cs.Nodup) (c : Nat) :
    Adds c (1000 * (if cs.contains c then share c else 0)) t (cs.foldl (fun t c => t.chargeNj c (share c)) t) := by
  have key := Adds.foldl (c := c) (s := t) (fun u e (_ : OnlyCharged t u) hw => adds_chargeNj hw c e (share e)) cs (.refl t) h
  rw [List.sum_map_eq_nsmul_single c _ (fun e he _ => if_neg he), hnd.count] at key
  convert key using 1
  by_cases hc : c ∈ cs <;> simp [hc]

/-- Every charge posted and the static power shared out: a microsecond but for PIDLEEN (R197, R406). -/
def sharedOut (s : State) : State := s.partCtxs.foldl (fun t c => t.chargeNj c (s.staticNj c)) s.postAll

theorem onlyCharged_sharedOut (s : State) : OnlyCharged s.postAll (sharedOut s) :=
  OnlyCharged.foldl (fun t c => onlyCharged_chargeNj t c (s.staticNj c)) _ _

theorem postAll_sys (s : State) : s.postAll.sys = s.sys := (onlyCharged_postSlots s s.slots).sys

/-- No slot owes anything once every charge is posted. -/
theorem owed_postAll (s : State) : ∀ x ∈ s.postAll.slot :: s.postAll.others, x.owed = [] := by
  unfold State.postAll
  simp

theorem tick_eq (s : State) : s.tick = { sharedOut s with sys := { s.sys with
    pidle := (s.sys.pidle + (Config.statmw.toNat - (s.partCtxs.map s.staticNj).sum)) % 2 ^ 64 } } := by
  have hcs : s.postAll.partCtxs = s.partCtxs := (onlyCharged_postSlots s s.slots).partCtxs
  have hnj : s.postAll.staticNj = s.staticNj := funext (onlyCharged_postSlots s s.slots).staticNj
  have hsys : (sharedOut s).sys = s.sys := (onlyCharged_sharedOut s).sys.trans (postAll_sys s)
  simp only [State.tick, hcs, hnj, foldl_add_eq_sum]
  rw [← hsys]
  rfl

theorem nodup_partCtxs (s : State) : s.partCtxs.Nodup := by
  unfold State.partCtxs
  exact nodup_eraseDups _

theorem adds_sharedOut {s : State} (h : twf {} s.postAll.ctxs = true) (c : Nat) : Adds c (sharePj s c) s.postAll (sharedOut s) :=
  adds_shares h s.staticNj (nodup_partCtxs s) c

/-- A microsecond adds to a context what its slots owe and its static share (R197, R406). -/
theorem energy_tick {s : State} (h : twf {} s.ctxs = true) (c : Nat) (hb : energy s c + (slotsPj s c + sharePj s c) < 1000 * 2 ^ 48) :
    energy s.tick c = energy s c + (slotsPj s c + sharePj s c) := by
  have hslots := adds_postSlots h c
  have hpost : energy s.postAll c = energy s c + slotsPj s c := hslots.total (by omega)
  have hout := (adds_sharedOut (s := s) hslots.canon c).total
  rw [hpost] at hout
  calc energy s.tick c = energy (sharedOut s) c := by rw [tick_eq]; rfl
    _ = energy s c + slotsPj s c + sharePj s c := hout (by omega)
    _ = energy s c + (slotsPj s c + sharePj s c) := Nat.add_assoc _ _ _

/-- The part of O56 on energy. -/
theorem staticEnergy : StaticEnergy := by
  intro s hw total
  refine ⟨fun c cls n hb => ⟨energy_charge_self hw c cls n hb, fun d hd => ctx_charge_of_ne hw hd cls n⟩, s.tick, rfl, ?_, ?_, ?_⟩
  · rw [tick_eq]
    show ∀ x ∈ (sharedOut s).slot :: (sharedOut s).others, x.owed = []
    rw [(onlyCharged_sharedOut s).slot, (onlyCharged_sharedOut s).others]
    exact owed_postAll s
  · rw [tick_eq]
  · intro c owed more hb
    have key := energy_tick hw c
    rw [slotsPj_eq] at key
    exact key hb

/-! ### Temperature (R427) -/

/-- The hottest of a list and where it stands. -/
theorem hottest_spec {xs : List Nat} (h : xs ≠ []) : xs[(hottest xs).2]? = some (hottest xs).1 ∧ ∀ x ∈ xs, x ≤ (hottest xs).1 := by
  induction xs with
  | nil => exact absurd rfl h
  | cons x xs ih =>
    simp only [hottest, Bool.or_eq_true, decide_eq_true_eq]
    split
    · rename_i hfirst
      refine ⟨rfl, List.forall_mem_cons.mpr ⟨Nat.le_refl _, fun y hy => ?_⟩⟩
      rcases hfirst with rfl | hle
      · exact absurd hy List.not_mem_nil
      · exact ((ih (List.ne_nil_of_mem hy)).2 y hy).trans hle
    · rename_i hlater
      obtain ⟨hne, hlt⟩ := not_or.mp hlater
      obtain ⟨hat, hle⟩ := ih hne
      exact ⟨hat, List.forall_mem_cons.mpr ⟨by dsimp only; omega, hle⟩⟩

/-- Of four junctions the hottest is their maximum, at one of the four places. -/
theorem hottest_four (a b c d : Nat) : (hottest [a, b, c, d]).1 = max (max a b) (max c d) ∧ (hottest [a, b, c, d]).2 < 4 := by
  obtain ⟨hat, hle⟩ := hottest_spec (xs := [a, b, c, d]) (by simp)
  obtain ⟨hlt, -⟩ := List.getElem?_eq_some_iff.mp hat
  have hmem := List.mem_of_getElem? hat
  simp only [List.mem_cons, List.not_mem_nil, or_false, forall_eq_or_imp, forall_eq] at hle hmem
  exact ⟨by omega, hlt⟩

/-- The two thresholds of TTHR as numbers. -/
theorem tthr_bytes (v : BitVec 16) : (v.extractLsb' 0 8).toNat = v.toNat % 2 ^ 8 ∧ (v.extractLsb' 8 8).toNat = v.toNat / 2 ^ 8 := by
  simp only [BitVec.extractLsb'_toNat, Nat.shiftRight_eq_div_pow]
  omega

/-- TCAP after a millisecond (R427). -/
def nextCap (tcap hi cool top : Nat) (tenth : Bool) : Nat :=
  if hi ≤ top then max 500 (tcap - 50) else if tenth && cool == 10 then min 2200 (tcap + 50) else tcap

theorem exec_thermalTick (s : State) (a b c d : Nat) (tenth : Bool) :
    let top := max (max a b) (max c d)
    let cool := if top < s.sys.tthr.toNat / 2 ^ 8 then min 10 (s.sys.cool + 1) else 0
    exec (.thermalTick [a, b, c, d] tenth) s = .next { s with sys := { s.sys with
      tempC := min 255 top, tempDie := (hottest [a, b, c, d]).2, cool := cool,
      tcap := nextCap s.sys.tcap (s.sys.tthr.toNat % 2 ^ 8) cool top tenth } } := by
  intro top cool
  obtain ⟨htop, hk⟩ := hottest_four a b c d
  obtain ⟨hhi, hlo⟩ := tthr_bytes s.sys.tthr
  have hall : [a, b, c, d].all (fun t => decide (t < s.sys.tthr.toNat / 2 ^ 8)) = decide (top < s.sys.tthr.toNat / 2 ^ 8) := by
    rw [Bool.eq_iff_iff]
    simp only [List.all_cons, List.all_nil, Bool.and_true, Bool.and_eq_true, decide_eq_true_eq]
    omega
  have hany : [a, b, c, d].any (fun t => decide (s.sys.tthr.toNat % 2 ^ 8 ≤ t)) = decide (s.sys.tthr.toNat % 2 ^ 8 ≤ top) := by
    rw [Bool.eq_iff_iff]
    simp only [List.any_cons, List.any_nil, Bool.or_false, Bool.or_eq_true, decide_eq_true_eq]
    omega
  show execThermalTick [a, b, c, d] tenth s = _
  simp only [execThermalTick, hhi, hlo, hall, hany, htop, Nat.mod_eq_of_lt hk, decide_eq_true_eq]
  rfl

/-! ### The thermal trip (R279, R427) -/

/-- A partition stopped, with no slot of its forme left (R279, R427). -/
def Stopped (p : Nat) (s : State) : Prop := (s.part p).phase = .ended ∧ (s.part p).stopCode = true ∧ ∀ x ∈ s.slots, x.prt ≠ p

/-- A forme dropped leaves every partition, but for events of the charges posted. -/
theorem quiet_part_dropForme (s : State) (p r : Nat) : quiet ((s.dropForme p).part r) = quiet (s.part r) :=
  (onlyCharged_postSlots s (s.slots.filter (fun x => x.prt == p))).quiet_part r

/-- The slots left by a forme dropped are those of other partitions. -/
theorem mem_slots_dropForme {s : State} {p : Nat} {x : Slot} (h : x ∈ (s.dropForme p).slots) : x ∈ s.slots ∧ x.prt ≠ p := by
  have hch := onlyCharged_postSlots s (s.slots.filter (fun x => x.prt == p))
  have hslots : (s.dropForme p).slots = ((if s.slot.prt == p && s.slot.st != .noTask then {} else s.slot) ::
      s.others.filter (fun x => x.prt != p || x.st == .noTask)).filter (fun x => x.st != .noTask) := by
    unfold State.dropForme
    dsimp only
    generalize List.foldl _ s _ = t at hch ⊢
    simp only [State.slots, hch.slot, hch.others]
  rw [hslots] at h
  simp only [State.slots, List.mem_filter, List.mem_cons] at h ⊢
  obtain ⟨hx, htask⟩ := h
  rcases hx with rfl | ⟨hx, hp⟩
  · split at htask
    · exact nomatch htask
    · rename_i hstays
      rw [if_neg hstays]
      exact ⟨⟨.inl rfl, htask⟩, fun hp => hstays (by simp [hp, htask])⟩
  · refine ⟨⟨.inr hx, htask⟩, ?_⟩
    simpa [bne_iff_ne.mp htask] using hp

/-- The stop of a partition drops its forme, ends its imposition and stops its context (R279); what memory its units write back
is left open here. -/
theorem stopPart_eq (s : State) (p : Nat) : ∃ m m' x, s.stopPart p =
    (({ ({ s with mem := m } : State).dropForme p with mem := m' } : State).setPart p
      { (({ s with mem := m } : State).dropForme p).part p with
        phase := .ended, stopCode := true, sects := Vector.replicate 4 {}, formeCus := [], owed := [], toReport := [],
        preempt := false, evq := [], evLost := false, restore := none }).setCtx ((({ s with mem := m } : State).dropForme p).part p).ctx x := by
  unfold State.stopPart
  generalize s.mem.l1DropUnits _ _ _ = m
  exact ⟨m, _, _, rfl⟩

theorem quiet_part_stopPart_of_ne (s : State) {p r : Nat} (h : r ≠ p) : quiet ((s.stopPart p).part r) = quiet (s.part r) := by
  obtain ⟨m, m', x, heq⟩ := stopPart_eq s p
  rw [heq, part_setCtx, part_setPart_of_ne _ h]
  exact quiet_part_dropForme { s with mem := m } p r

theorem mem_slots_stopPart {s : State} {p : Nat} {x : Slot} (h : x ∈ (s.stopPart p).slots) : x ∈ s.slots ∧ x.prt ≠ p := by
  obtain ⟨m, m', y, heq⟩ := stopPart_eq s p
  rw [heq] at h
  exact mem_slots_dropForme (s := { s with mem := m }) h

/-- A partition is stopped by its own stop. -/
theorem stopped_stopPart (s : State) (p : Nat) : Stopped p (s.stopPart p) := by
  have hpart : ((s.stopPart p).part p).phase = .ended ∧ ((s.stopPart p).part p).stopCode = true := by
    obtain ⟨m, m', x, heq⟩ := stopPart_eq s p
    rw [heq, part_setCtx, part_setPart_of_ne_default]
    · exact ⟨rfl, rfl⟩
    · exact fun h => nomatch congrArg Part.phase h
  exact ⟨hpart.1, hpart.2, fun x hx => (mem_slots_stopPart hx).2⟩

/-- A stopped partition stays so when another is stopped. -/
theorem Stopped.stopPart {s : State} {p : Nat} (h : Stopped p s) (r : Nat) : Stopped p (s.stopPart r) := by
  by_cases hr : p = r
  · exact hr ▸ stopped_stopPart s p
  · obtain ⟨hphase, hcode, hslots⟩ := h
    have hq := quiet_part_stopPart_of_ne s hr
    exact ⟨(congrArg Part.phase hq :).trans hphase, (congrArg Part.stopCode hq :).trans hcode,
      fun x hx => hslots x (mem_slots_stopPart hx).1⟩

/-- A partition stopped by the thermal trip, with its record in the device log (R427, R428). -/
def tripPart (s : State) (p : Nat) : State := (s.emitDev (s.recOf p 3 0 { code := 0x4E } 2)).stopPart p

theorem Stopped.tripPart {s : State} {p : Nat} (h : Stopped p s) (r : Nat) : Stopped p (tripPart s r) :=
  Stopped.stopPart (s := s.emitDev _) h r

/-- Every partition that the trip goes through is stopped at its end. -/
theorem stopped_foldl_tripPart {p : Nat} (ps : List Nat) (s : State) (h : p ∈ ps ∨ Stopped p s) : Stopped p (ps.foldl tripPart s) := by
  induction ps generalizing s with
  | nil => exact h.resolve_left List.not_mem_nil
  | cons r ps ih =>
    refine ih _ ?_
    rcases h with hmem | hs
    · rcases List.mem_cons.mp hmem with rfl | htail
      · exact .inr (stopped_stopPart _ _)
      · exact .inl htail
    · exact .inr (hs.tripPart r)

/-- The thermal part of O56. -/
theorem thermalLimits : ThermalLimits := by
  refine ⟨?_, fun s => ⟨fun hcool => ?_, fun hhot _ => ?_⟩⟩
  · intro s a b c d tenth temps hi lo top cool
    obtain ⟨htop, -⟩ := hottest_four a b c d
    refine ⟨_, _, exec_thermalTick s a b c d tenth, ?_, fun h => if_pos h, fun h ht hc => ?_, fun h hn => ?_⟩
    · exact (hottest_spec (xs := temps) (by simp [temps])).1.trans (congrArg some htop)
    · have hrise : (tenth && cool == 10) = true := by simp [ht, hc]
      exact (if_neg (by omega)).trans (if_pos hrise)
    · have hstay : ¬(tenth && cool == 10) = true := by
        rcases hn with ht | hc
        · simp [ht]
        · simp [hc]
      exact (if_neg (by omega)).trans (if_neg hstay)
  · show execThermalTrip s = _
    rw [execThermalTrip, if_pos hcool]
  · show ∃ t, execThermalTrip s = .next t ∧ _
    rw [execThermalTrip, if_neg (by omega)]
    refine ⟨_, rfl, rfl, fun p hen => ?_⟩
    refine stopped_foldl_tripPart _ s (.inl (List.mem_map.mpr ⟨(p, s.part p), List.mem_filter.mpr ⟨?_, hen⟩, rfl⟩))
    have hne : s.part p ≠ {} := by
      intro h
      rw [h] at hen
      exact nomatch hen
    exact mem_of_tget_ne hne

/-- Settles O56, from the registers of the timer, the energy of charges and of a microsecond, and the thermal limits. -/
theorem timeEnergyAndHeat : Obligations.TimeEnergyAndHeat := ⟨timerRegisters, staticEnergy, thermalLimits⟩

end Sys2Proof.Organisation
end

section
/-! The statements of the encoding (R108 to R118): the words of the tables decode to their instructions, and encoder and decoder
undo each other. -/

namespace Sys2Proof.Laws.Lookup

open Sys2Proof Sys2Proof.Machine

/-- The table of the decoder, one case for each constructor of `Instr` in its order. -/
theorem statement (i : Instr) : Statement i :=
  Instr.casesOn i
    nop halt wait br bz bnz blt bge bmk call ret loopi loopr trap add addLong addi addiLong sub subLong mul mulLong mulh
    mulhLong div divLong rem remLong and andLong or orLong xor xorLong xori xoriLong shl shlLong shr shrLong sar sarLong rot
    rotLong clz clzLong popc popcLong min minLong max maxLong abs absLong neg negLong cmp cmpLong movi moviLong movl movlHi lea
    bfx bfi fadd faddLong fsub fsubLong fmul fmulLong fma fmin fminLong fmax fmaxLong fabs fabsLong fneg fnegLong fcmp fcmpLong
    fclass fclassLong fcvt fcvtLong icvt icvtLong frcp frcpLong frsq frsqLong fsqrt fsqrtLong fex2 fex2Long flg2 flg2Long fsinp
    fsinpLong fcosp fcospLong ftnh ftnhLong peek drop fwd mkr mkt steer steerLong merge racc raccLong segr segrLong rwset vrhint
    sysrd syswr time enrd ld ldImm ldLong st stLong ldw ldwLong ldc ldcLong ste steLong feset fesetLong fetest fetestLong ldp
    ldpImm ldpLong sto stoLong ptest ptestImm ptestLong pclr pft pftImm pftLong clwb clwbImm clwbLong clinv clinvImm clinvLong
    fence aadd aaddLong aand aandLong aor aorLong axor axorLong amin aminLong amax amaxLong axchg axchgLong acas afadd afaddLong
    dcas amov2 cbinc cbincLong cbsnap cpy rsacq rspub rstake rsrel fbopn smopn fbadv smadv fbend smend fbcls smcls fbpos fbval
    fbsek fbisx nzscan pdec penc gath scat scata pgsel kvapp kvld perm sxcfg sxstat sxfeed sxfrm blkopn mvclp fwarp drift drchk
    rfmark chuck mswap mfeed mdraw mzero tchuck tfeed tfeedLong tdraw dqput dqget dqcon dqfrn dqqsc ixget ixupd ixitr ixclr
    ixspl launch gsarm rqrat rdrat evtake drq qpri islandChuck islandMswap islandMfeed islandMfeedTransposed islandMdraw
    islandMzero islandArmedTile recordRead dependenceGranulesPresent imageFetch startToken taskFire registerFill
    linkTokenArrival slotFreeVisible elasticSample replicaPark elasticDeal elasticCollect sectionCountExpiry taskDrain
    engineDrain bridgeDrain tileDrained drainReport preemptRequest drainLimitExpiry contextRestore memoryAccessComplete
    deferralRetry l1Eviction engineCommandComplete pageWalk tlbinvWrite tlbInvalidateComplete frbaseWrite frtailWrite
    fresumeWrite vfReset unitError unfenceWrite frameParse packetPublish lqresvRead hostBar2Write hostBar2Read arbiterGrant
    impositionComplete sliceExpiry grantRecompute pcapWrite staticEnergyTick timerSaturate timesetWrite tepochWrite
    registerWrite ctxfnWrite prtunitWrite dltailWrite holvorRemoteAccess reductionContribution holvorLinkState timeSyncLock boot
    attestationQuote thermalTick thermalTrip dlbaseWrite

end Sys2Proof.Laws.Lookup

namespace Sys2Proof.Encoding

open Sys2Proof Sys2Proof.Machine Sys2Proof.Laws

/-! ### An instruction through its row and its fields -/

section

variable {i : Instr} {r : Row} {o : Ops} (hi : fieldsOf i = some (r, o))

include hi

theorem wf_eq_wfFields : i.wf = Instr.wfFields r o := by
  simp only [Instr.wf, hi]

theorem encode_eq_encodeOps : encode i = encodeOps r.e.op o := by
  simp only [encode, hi]

/-- A well-formed task instruction is the one that its opcode and its fields stand for (R114 to R116). -/
theorem lookupInstr_of_wf (hwf : i.wf = true) : lookupInstr r.e.op o = some i := by
  have table := Lookup.statement i
  simp only [Lookup.Statement, hi] at table
  exact table ((wf_eq_wfFields hi).symm.trans hwf)

/-- The words of a well-formed task instruction split into its opcode and its fields, whatever words follow (R108). -/
theorem splitWords_encode (hwf : i.wf = true) (rest : List Word) : splitWords (encode i ++ rest) = some (r.e.op, o, rest) := by
  rw [encode_eq_encodeOps hi]
  exact splitWords_encodeOps r.e.op o rest (wfFields_shaped ((wf_eq_wfFields hi).symm.trans hwf))

end

/-- The decoder splits the words and looks up what the parts stand for. -/
theorem decodeWords_eq_some_iff {ws rest : List Word} {i : Instr} :
    decodeWords ws = some (i, rest) ↔ ∃ op o, splitWords ws = some (op, o, rest) ∧ lookupInstr op o = some i := by
  unfold decodeWords
  cases splitWords ws with
  | none => simp
  | some parts =>
    obtain ⟨op, o, tail⟩ := parts
    simp only [Option.map_eq_some_iff, Prod.mk.injEq, Option.some.injEq]
    constructor
    · rintro ⟨_, hl, rfl, rfl⟩
      exact ⟨op, o, ⟨rfl, rfl, rfl⟩, hl⟩
    · rintro ⟨_, _, ⟨rfl, rfl, rfl⟩, hl⟩
      exact ⟨i, hl, rfl, rfl⟩

/-! ### The statements -/

/-- Settles O6: the words split into the instruction's own opcode and fields, and among the rows of that opcode its own is found. -/
theorem decodeOfEncode : Obligations.DecodeOfEncode := by
  intro i rest htask hwf
  obtain ⟨⟨r, o⟩, hi⟩ := Option.isSome_iff_exists.mp htask
  exact decodeWords_eq_some_iff.mpr ⟨r.e.op, o, splitWords_encode hi hwf rest, lookupInstr_of_wf hi hwf⟩

/-- Settles O7: what the lookup finds has the fields that the words were split into, and those words are their encoding. -/
theorem encodeOfDecode : Obligations.EncodeOfDecode := by
  intro ws rest i h
  obtain ⟨op, o, hsplit, hlookup⟩ := decodeWords_eq_some_iff.mp h
  obtain ⟨r, rfl, hi, hwf⟩ := lookupInstr_spec hlookup
  refine ⟨(wf_eq_wfFields hi).trans hwf, ?_⟩
  rw [encode_eq_encodeOps hi]
  exact splitWords_spec hsplit

/-- Settles O5: every word group is a closed term, which the decoder evaluates. -/
theorem specWordsDecode : Obligations.SpecWordsDecode := by
  refine ⟨?nopAsImmediate, ?add, ?halt, ?bnz, ?racc, ?zeroWord, ?noWords⟩
  case nopAsImmediate | zeroWord | noWords => decide
  case add | halt | bnz | racc => decide

end Sys2Proof.Encoding
end

section
/-! O10 and O13: integer values are read back as written, DIV and REM divide with remainder, and conversions follow R135. -/

namespace Sys2Proof.Numbers

open Sys2Proof Sys2Proof.Machine Sys2Proof.Laws Sys2Proof.Claims

/-! ### Integer values (R126, R152) -/

/-- A sign-copied pattern is kept in its low bits. -/
theorem setWidth_signExtend_of_le {w v : Nat} (h : w ≤ v) (p : BitVec w) : (p.signExtend v).setWidth w = p := by
  apply BitVec.eq_of_getLsbD_eq
  intro i hi
  have hv : i < v := by omega
  rw [BitVec.getLsbD_setWidth, BitVec.getLsbD_signExtend]
  simp [hi, hv]

/-- The low bits of a written integer are its pattern, however the bits above are filled. -/
theorem setWidth_putI (t : Nat) (r : Int) : (putI t r).setWidth (tWidth t) = BitVec.ofInt (tWidth t) r := by
  rw [putI_eq]
  split
  · exact setWidth_signExtend_of_le (tWidth_le t) _
  · rw [BitVec.setWidth_setWidth_of_le _ (tWidth_le t), BitVec.setWidth_eq]

/-- A pattern of w bits reads as the natural number below 2^w that it was made of. -/
theorem toNat_ofInt_of_range {w : Nat} {r : Int} (hlo : 0 ≤ r) (hhi : r ≤ 2 ^ w - 1) : ((BitVec.ofInt w r).toNat : Int) = r := by
  rw [BitVec.toNat_ofInt, Int.toNat_of_nonneg (Int.emod_nonneg _ (by positivity)), Int.emod_eq_of_lt hlo]
  push_cast
  omega

/-- An integer that a type holds reads back as itself. -/
theorem valI_putI {t : Nat} {r : Int} (hlo : minI t ≤ r) (hhi : r ≤ maxI t) : valI t (putI t r) = r := by
  rw [valI_eq, setWidth_putI]
  unfold minI at hlo
  unfold maxI at hhi
  split
  · rename_i hs
    rw [if_pos hs] at hlo hhi
    exact BitVec.toInt_ofInt_eq_self (tWidth_pos t) hlo (Int.lt_of_le_sub_one hhi)
  · rename_i hu
    rw [if_neg hu] at hlo hhi
    exact toNat_ofInt_of_range hlo hhi

theorem integerValuesRoundTrip : IntegerValuesRoundTrip := by
  intro t v r _ _
  exact ⟨putI_eq t r, valI_eq t v, valI_putI⟩

/-! ### Division (R170) -/

theorem divI_of_ne {b : Int} (hb : b ≠ 0) (t : Nat) (a : Int) : divI t a b = a.tdiv b := if_neg hb

/-- Where the divisor is not zero the remainder is that of the division truncated toward zero. -/
theorem remI_of_ne {b : Int} (hb : b ≠ 0) (a : Int) : remI a b = a.tmod b :=
  (if_neg hb).trans (Int.tmod_def a b).symm

theorem divisionIdentity : DivisionIdentity := by
  intro t a b hb
  rw [divI_of_ne hb, remI_of_ne hb]
  refine ⟨?_, ?_, fun ha => Int.tmod_nonneg b ha, fun ha => ?_⟩
  · rw [mul_comm]
    exact (Int.mul_tdiv_add_tmod a b).symm
  · rw [Int.abs_eq_natAbs, Int.abs_eq_natAbs, Int.natAbs_tmod]
    exact_mod_cast Nat.mod_lt _ (Int.natAbs_pos.mpr hb)
  · rw [← neg_nonneg, ← Int.neg_tmod]
    exact Int.tmod_nonneg b (neg_nonneg.mpr ha)

/-- Settles O10: a type's pattern determines the integers of its range, and division truncated toward zero leaves the remainder. -/
theorem integerValuesAndDivision : Obligations.IntegerValuesAndDivision := ⟨integerValuesRoundTrip, divisionIdentity⟩

/-! ### Conversions (R135, R179) -/

/-- An arithmetic instruction with element operands writes what its operation computes and retires (R48, R169). -/
theorem alu_wrote {s : State} {o : Ops} {g : Got} {y : Slot} (hf : Fetches s o .p g y) (hp : g.pass = none) (cls : Nat)
    (f : Got → Slot → Dword × Slot) : s.alu o cls f = slotNext s (wrote (f g y).2 o (f g y).1 cls) :=
  alu_ok hf.1 hf.2 hp

/-- The value of a source operand, whether its type is a float or an integer one. -/
theorem anyVal_eq (t : Nat) (v : Dword) :
    anyVal t v = if tIsFlt t then decF t v.toNat else .fin (valI t v < 0) (valI t v).natAbs 0 := rfl

/-- Updating %amax leaves what the rounding reads: the generator, the flags and the rounding mode. -/
theorem amaxIf_eq (x : Slot) (o : Ops) (v : FV) :
    x.amaxIf o v = { (if o.f.getLsbD 0 then { x with amax := amaxUpd x.amax v } else x) with rng := x.rng, fsticky := x.fsticky } := by
  unfold Slot.amaxIf
  split <;> rfl

theorem anyVal_of_widens {s t : Nat} (h : widens s t = true) (v : Dword) : anyVal s v = decF s v.toNat := by
  have hs : tIsFlt s = true := by
    simp only [widens, Bool.and_eq_true] at h
    exact h.1.1
  exact if_pos hs

/-- A conversion to a float type writes the value itself when R135 calls it exact, else the rounded, or clamped, one. -/
theorem toFlt_eq (x : Slot) (o : Ops) (t : Nat) (v : Dword) :
    let f := if widens (srcT o) t then (anyVal (srcT o) v, x.ar)
      else let r := rndF t (x.rm o) (anyVal (srcT o) v) x.ar
           if o.sat then satF t r.1 r.2 else r
    x.toFlt o t v = (putBits t (encF t f.1), x.setAr f.2) := by
  unfold Slot.toFlt
  split
  · rename_i hw
    rw [anyVal_of_widens hw]
    rfl
  · rfl

/-- A conversion to an integer type: exact from the type itself, rounded from a float, else wrapped, or clamped with SAT where the
type is not wider than the source. -/
theorem toInt_eq (x : Slot) (o : Ops) (t : Nat) (v : Dword) :
    let i : Int × Ar := if srcT o = t then (valI t v, x.ar)
      else if tIsFlt (srcT o) then rndI t (x.rm o) (anyVal (srcT o) v) x.ar
      else if tWidth (srcT o) < tWidth t ∨ o.sat = false then (valI (srcT o) v, x.ar)
      else satI t (valI (srcT o) v) x.ar
    x.toInt o t v = (putI t i.1, x.setAr i.2) := by
  unfold Slot.toInt
  by_cases hsame : srcT o = t
  · simp only [hsame, if_true]
    rfl
  · by_cases hflt : tIsFlt (srcT o) = true
    · simp only [hsame, hflt, if_true, if_false, anyVal_eq]
    · by_cases hwide : tWidth (srcT o) < tWidth t ∨ o.sat = false
      · have hkeep : (decide (tWidth (srcT o) < tWidth t) || !o.sat) = true := by simpa using hwide
        simp only [hsame, hflt, hwide, hkeep, if_true, if_false]
        rfl
      · have hclamp : ¬(decide (tWidth (srcT o) < tWidth t) || !o.sat) = true := by simpa using hwide
        simp only [hsame, hflt, hwide, hclamp, if_false, Bool.false_eq_true]

/-- Settles O13: %amax is updated first and changes nothing that the conversion reads; then one equation for either kind of
destination. -/
theorem conversionInstructions : Obligations.ConversionInstructions := by
  intro s o g y hf hp src v x y' ar ft it f i
  have hy : y.amaxIf o x = { y' with rng := y.rng, fsticky := y.fsticky } := amaxIf_eq y o x
  have hrm : (y.amaxIf o x).rm o = y.rm o := by rw [hy]; simp only [y']; split <;> rfl
  have har : (y.amaxIf o x).ar = ar := by rw [hy]; rfl
  refine ⟨fun _ n hn => ?_, fun n hn => ?_⟩
  · have hop : fcvtOp o g y = (putBits ft (encF ft f.1), { y' with rng := f.2.rng, fsticky := f.2.sticky }) := by
      refine (toFlt_eq (y.amaxIf o x) o ft v).trans ?_
      rw [hrm, har, hy]
      rfl
    have hrun : exec n s = s.alu o (fltCls o) (fcvtOp o) := by
      rcases List.mem_pair.mp hn with rfl | rfl <;> rfl
    rw [hrun, alu_wrote hf hp, hop]
    rfl
  · have hop : icvtOp o g y = (putI it i.1, { y' with rng := i.2.rng, fsticky := i.2.sticky }) := by
      refine (toInt_eq (y.amaxIf o x) o it v).trans ?_
      rw [hrm, har, hy]
      rfl
    have hrun : exec n s = s.alu o (icvtCls o) (icvtOp o) := by
      rcases List.mem_pair.mp hn with rfl | rfl <;> rfl
    rw [hrun, alu_wrote hf hp, hop]
    rfl

end Sys2Proof.Numbers
end

section
/-! O25: the instructions of the special registers, what the registers read, and what a written one reads back. -/

namespace Sys2Proof.Numbers

open Sys2Proof Sys2Proof.Machine Sys2Proof.Laws Sys2Proof.Claims

/-! ### Instructions of class Z (R154) -/

section
variable {s : State} {o : Ops} {g : Got} {y : Slot}

/-- An instruction whose sources refuse markers does with its slot what its operation does after its operands. -/
theorem runSlot_plain (hf : Fetches s o .z g y) (cls : Nat) (f : Got → Slot → Slot) :
    s.runSlot cls (Slot.plain o (fun g y => .ok (f g y))) = slotNext s ((f g y).owe cls 1) :=
  runSlot_ok hf.1 (plain_ok hf.2)

/-- Operands consumed leave the partition and the coordinates of their slot. -/
theorem fetch_keeps_place {x : Slot} {cls : MkClass} (hf : x.fetch o cls = .ok (g, y)) : y.prt = x.prt ∧ y.id = x.id := by
  obtain ⟨ins, a, b, c, rfl, -, -⟩ := readsWith_spec (fetchWith_ok.mp hf).1
  exact ⟨rfl, rfl⟩

theorem exec_rwset (hf : Fetches s o .z g y) : exec (.rwset o) s =
    slotNext s ((({ y with wbase := (if o.a = .absent then 0 else g.a.val.setWidth 6) + o.imm10.setWidth 6 } : Slot).retire o).owe 0 1) := by
  rw [← BitVec.signExtend_eq_setWidth_of_le o.imm10 (by decide : 6 ≤ 10)]
  exact runSlot_plain hf 0 _

theorem exec_sysrd (hf : Fetches s o .z g y) : exec (.sysrd o) s = slotNext s (wrote y o (s.special o.imm10.toNat) 0) :=
  runSlot_plain hf 0 _

theorem exec_time (hf : Fetches s o .z g y) : exec (.time o) s = slotNext s (wrote y o s.timer 0) := runSlot_plain hf 0 _

theorem exec_enrd (hf : Fetches s o .z g y) :
    exec (.enrd o) s = slotNext s (wrote y o (s.ctx (s.part s.slot.prt).ctx).energy 0) := runSlot_plain hf 0 _

/-- SYSWR to any register but %seed writes the slot's. -/
theorem exec_syswr_of_ne (hf : Fetches s o .z g y) (hn : o.imm10.toNat ≠ 9) :
    exec (.syswr o) s = slotNext s (((y.setSpecial o.imm10.toNat g.a.val).retire o).owe 0 1) := by
  have hne : o.imm10 ≠ 9 := fun h => hn (by rw [h]; rfl)
  show execSyswr o s = _
  refine run_ok hf.1 ?_
  simp only [State.operands, operands_ok hf.2, if_neg hne]
  rfl

/-- SYSWR to %seed notes the value with the task that wrote it (R142). -/
theorem exec_syswr_seed (hf : Fetches s o .z g y) (hn : o.imm10.toNat = 9) :
    exec (.syswr o) s = .next ((({ s with slot := y } : State).setSeed g.a.val).done o none 0 1) := by
  have heq : o.imm10 = 9 := BitVec.eq_of_toNat_eq hn
  show execSyswr o s = _
  refine run_ok hf.1 ?_
  simp only [State.operands, operands_ok hf.2, if_pos heq]

end

/-! ### What the registers read (R156) -/

/-- ENRD gives the count in bits 47 to 0 and the saturation flag in bit 63 (R197). -/
theorem energy_fields {c : Ctx} (h : c.nj < 2 ^ 48) :
    c.energy.toNat % 2 ^ 48 = c.nj ∧ c.energy.toNat / 2 ^ 48 = if c.sat then 2 ^ 15 else 0 := by
  have hval : c.energy.toNat = c.nj + (if c.sat then 1 else 0) * 2 ^ 63 := by
    rw [Ctx.energy, b2n, BitVec.toNat_ofNat, Nat.mod_eq_of_lt]
    split <;> omega
  rw [hval]
  split <;> omega

/-- Coordinates as one number: die, tile, PE and slot from the highest bits down. -/
theorem coordNum_eq (c : Coord) :
    coordNum c = c.die.toNat * 2 ^ 17 + c.tile.toNat * 2 ^ 8 + c.pe.toNat * 2 ^ 2 + c.slot.toNat := by
  simp only [coordNum, BitVec.toNat_append]
  rw [← Nat.shiftLeft_add_eq_or_of_lt c.tile.isLt, ← Nat.shiftLeft_add_eq_or_of_lt c.pe.isLt,
    ← Nat.shiftLeft_add_eq_or_of_lt c.slot.isLt]
  simp only [Nat.shiftLeft_eq]
  omega

theorem toNat_ofNat_coordNum (c : Coord) : (BitVec.ofNat 64 (coordNum c)).toNat = coordNum c := by
  rw [BitVec.toNat_ofNat, Nat.mod_eq_of_lt]
  exact lt_of_lt_of_le (BitVec.isLt _) (by decide)

/-! ### %ratio (R156, R403) -/

/-- A slot in a firing holds a task. -/
theorem slot_mem_slots {s : State} (h : s.canIssue = true) : s.slot ∈ s.slots := by
  simp only [State.canIssue, Bool.and_eq_true, beq_iff_eq] at h
  refine List.mem_filter.mpr ⟨List.mem_cons_self, ?_⟩
  rw [h.1]
  rfl

theorem mem_rowParts {s : State} {row : Nat} {q : Part} : q ∈ s.rowParts row ↔ ∃ y ∈ s.slots, rowOf y.place = row ∧ s.part y.prt = q := by
  simp [State.rowParts, and_assoc]

/-- The vector steps of a row are the least grant of the partitions resident in it. -/
theorem rowVc_le {s : State} {row : Nat} {q : Part} (hq : q ∈ s.rowParts row) : s.rowVc row ≤ q.grant.vc := by
  have hmem := List.mem_map_of_mem (f := fun q : Part => q.grant.vc) hq
  unfold State.rowVc
  split
  · rename_i hnil
    rw [hnil] at hmem
    exact absurd hmem List.not_mem_nil
  · rename_i g gs hcons
    rw [hcons] at hmem
    exact (List.min?_eq_some_iff.mp List.min?_cons').2 _ hmem

/-- The divider of a row is the greatest that the partitions resident in it ask for, at least 1. -/
theorem max?_divs (s : State) (row : Nat) :
    (1 :: (s.rowParts row).map (fun q => tget 1 q.divs row)).max? = some (s.rowDiv row) := List.max?_cons'

theorem le_rowDiv {s : State} {row : Nat} {q : Part} (hq : q ∈ s.rowParts row) : tget 1 q.divs row ≤ s.rowDiv row :=
  (List.max?_eq_some_iff.mp (max?_divs s row)).2 _ (List.mem_cons_of_mem 1 (List.mem_map_of_mem hq))

theorem rowDiv_lt {s : State} {row b : Nat} (hb : 1 < b) (h : ∀ q ∈ s.rowParts row, tget 1 q.divs row < b) : s.rowDiv row < b := by
  rcases List.mem_cons.mp (List.max?_eq_some_iff.mp (max?_divs s row)).1 with hone | hmem
  · omega
  · obtain ⟨q, hq, heq⟩ := List.mem_map.mp hmem
    exact heq ▸ h q hq

/-- %ratio holds the divider from bit 24, the matrix steps from bit 16, the vector steps from bit 8 and the memory steps from bit 0. -/
theorem special_ratio_fields {s : State} (hd : s.rowDiv (rowOf s.slot.place) < 2 ^ 3) (hv : s.rowVc (rowOf s.slot.place) < 2 ^ 5)
    (hx : (s.part s.slot.prt).grant.mx < 2 ^ 5) (hm : (s.part s.slot.prt).grant.mm < 2 ^ 5) :
    let r := (s.special 10).toNat
    r / 2 ^ 24 = s.rowDiv (rowOf s.slot.place) ∧ r / 2 ^ 16 % 2 ^ 5 = (s.part s.slot.prt).grant.mx ∧
      r / 2 ^ 8 % 2 ^ 5 = s.rowVc (rowOf s.slot.place) ∧ r % 2 ^ 5 = (s.part s.slot.prt).grant.mm := by
  have hr : (s.special 10).toNat = s.ratio := by
    show (BitVec.ofNat 64 s.ratio).toNat = _
    rw [BitVec.toNat_ofNat, Nat.mod_eq_of_lt]
    simp only [State.ratio, Steps.word]
    omega
  simp only [hr, State.ratio, Steps.word]
  omega

/-- What %ratio says of the grants of the row's partitions. -/
theorem special_ratio {s : State} (hs : s.canIssue = true) (hx : (s.part s.slot.prt).grant.mx < 2 ^ 5)
    (hm : (s.part s.slot.prt).grant.mm < 2 ^ 5) (hv : ∀ y ∈ s.slots, (s.part y.prt).grant.vc < 2 ^ 5)
    (hd : ∀ y ∈ s.slots, tget 1 (s.part y.prt).divs (rowOf s.slot.place) < 2 ^ 3) :
    let r := (s.special 10).toNat
    r / 2 ^ 16 % 2 ^ 5 = (s.part s.slot.prt).grant.mx ∧ r % 2 ^ 5 = (s.part s.slot.prt).grant.mm ∧
      ∀ y ∈ s.slots, rowOf y.place = rowOf s.slot.place →
        r / 2 ^ 8 % 2 ^ 5 ≤ (s.part y.prt).grant.vc ∧ tget 1 (s.part y.prt).divs (rowOf s.slot.place) ≤ r / 2 ^ 24 := by
  have hself := slot_mem_slots hs
  have hdiv : s.rowDiv (rowOf s.slot.place) < 2 ^ 3 := by
    refine rowDiv_lt (by decide) fun q hq => ?_
    obtain ⟨y, hy, -, rfl⟩ := mem_rowParts.mp hq
    exact hd y hy
  have hvc : s.rowVc (rowOf s.slot.place) < 2 ^ 5 := lt_of_le_of_lt (rowVc_le (mem_rowParts.mpr ⟨_, hself, rfl, rfl⟩)) (hv _ hself)
  obtain ⟨hfd, hfx, hfv, hfm⟩ := special_ratio_fields hdiv hvc hx hm
  refine ⟨hfx, hfm, fun y hy hrow => ?_⟩
  have hq := mem_rowParts.mpr ⟨y, hy, hrow, rfl⟩
  rw [hfv, hfd]
  exact ⟨rowVc_le hq, le_rowDiv hq⟩

/-! ### The statements -/

/-- The depths of both stacks (R156): loops in bits 6 to 4, calls below. -/
theorem special_nest {s : State} (hl : s.slot.loops.length ≤ 2) (hc : s.slot.calls.length ≤ 4) :
    (s.special 12).toNat = s.slot.loops.length * 2 ^ 4 + s.slot.calls.length := by
  show (BitVec.ofNat 64 s.slot.nest).toNat = _
  rw [BitVec.toNat_ofNat, Slot.nest]
  omega

theorem special_loop_nil {s : State} (h : s.slot.loops = []) : s.special 13 = 0 := by
  show (s.slot.loops.head?.map (fun l => l.rem.setWidth 64)).getD 0 = 0
  rw [h]
  rfl

theorem special_loop_cons {s : State} {l : Loop} {ls : List Loop} (h : s.slot.loops = l :: ls) :
    (s.special 13).toNat = l.rem.toNat := by
  show ((s.slot.loops.head?.map (fun l : Loop => l.rem.setWidth 64)).getD 0).toNat = _
  rw [h]
  exact BitVec.toNat_setWidth_of_le (by decide)

theorem windowTimerAndEnergy : WindowTimerAndEnergy := by
  intro s o g y hf
  refine ⟨exec_rwset hf, exec_sysrd hf, exec_time hf, ⟨_, exec_enrd hf, energy_fields, rfl⟩, ?_⟩
  intro x q coords row r
  refine ⟨rfl, ?id, ?place, ?pc, rfl, special_nest, special_loop_nil, fun l ls => special_loop_cons, ?tag, rfl,
    special_ratio hf.1⟩
  case id => exact (toNat_ofNat_coordNum x.id).trans (coordNum_eq x.id)
  case place => exact (toNat_ofNat_coordNum x.place).trans (coordNum_eq x.place)
  case pc => exact BitVec.toNat_setWidth_of_le (by decide)
  case tag => exact BitVec.toNat_setWidth_of_le (by decide)

/-! ### Reading back what SYSWR wrote (R138 to R142, R195) -/

section
variable (s : State) (y : Slot) (v : Dword)

theorem special_wbase_setSpecial : ({ s with slot := y.setSpecial 4 v } : State).special 4 = (v.setWidth 6).setWidth 64 := rfl

/-- %rmode takes any value but the reserved codes 0 and 7. -/
theorem special_rmode_setSpecial : ({ s with slot := y.setSpecial 5 v } : State).special 5 =
    (if v.toNat % 8 = 0 ∨ v.toNat % 8 = 7 then y.rmode.setWidth 64 else (v.setWidth 3).setWidth 64) := by
  have hcode (k : BitVec 3) : v.setWidth 3 = k ↔ v.toNat % 8 = k.toNat := by
    rw [← BitVec.toNat_inj, BitVec.toNat_setWidth]
  have hreserved : (v.setWidth 3 = 0 ∨ v.setWidth 3 = 7) ↔ (v.toNat % 8 = 0 ∨ v.toNat % 8 = 7) := or_congr (hcode 0) (hcode 7)
  show (y.setSpecial 5 v).rmode.setWidth 64 = _
  simp only [Slot.setSpecial, Bool.or_eq_true, decide_eq_true_eq, hreserved]
  split
  · rfl
  · rfl

theorem special_fsticky_setSpecial : ({ s with slot := y.setSpecial 6 v } : State).special 6 = (v.setWidth 4).setWidth 64 := rfl

/-- %amax keeps NANSEEN and a magnitude: bits 63 to 33 and the sign bit 31 read as 0. -/
theorem special_amax_setSpecial : ({ s with slot := y.setSpecial 7 v } : State).special 7 = (v &&& 0x17FFFFFFF) := by
  have hmask : (0x17FFFFFFF : Dword) = (0x17FFFFFFF : BitVec 33).setWidth 64 := by decide
  show (v.setWidth 33 &&& 0x17FFFFFFF).setWidth 64 = _
  rw [hmask]
  apply BitVec.eq_of_getLsbD_eq
  intro i hi
  simp only [BitVec.getLsbD_setWidth, BitVec.getLsbD_and]
  by_cases h33 : i < 33
  · simp [hi, h33]
  · rw [BitVec.getLsbD_of_ge (0x17FFFFFFF : BitVec 33) i (by omega)]
    simp

theorem special_rng_setSpecial : ({ s with slot := y.setSpecial 8 v } : State).special 8 = (if v = 0 then 1 else v) := rfl

/-- A number that names no writable register of the slot changes nothing. -/
theorem setSpecial_of_not_mem {n : Nat} (hn : n ∉ [4, 5, 6, 7, 8]) : y.setSpecial n v = y := by
  simp only [List.mem_cons, List.not_mem_nil, or_false, not_or] at hn
  obtain ⟨h4, h5, h6, h7, h8⟩ := hn
  unfold Slot.setSpecial
  split
  · exact absurd rfl h4
  · exact absurd rfl h5
  · exact absurd rfl h6
  · exact absurd rfl h7
  · exact absurd rfl h8
  · rfl

/-- The seed noted is behind those that the context had (R142). -/
theorem seedNew_setSeed : ((s.setSeed v).ctx (s.part s.slot.prt).ctx).seedNew =
    (s.ctx (s.part s.slot.prt).ctx).seedNew ++ [(((s.part s.slot.prt).queueTag, s.slot.id), v)] := by
  have hne : ({ s.ctx (s.part s.slot.prt).ctx with seedNew := (s.ctx (s.part s.slot.prt).ctx).seedNew ++
      [(((s.part s.slot.prt).queueTag, s.slot.id), v)] } : Ctx) ≠ {} := by
    intro h
    exact List.append_ne_nil_of_right_ne_nil _ (List.cons_ne_nil _ _) (congrArg Ctx.seedNew h)
  exact congrArg Ctx.seedNew (Organisation.tget_tput_of_ne_default _ _ hne)

end

theorem specialRegistersReadBack : SpecialRegistersReadBack := by
  intro s o g y hf n v
  obtain ⟨hprt, hid⟩ := fetch_keeps_place hf.2
  refine ⟨exec_syswr_of_ne hf, fun hn => ⟨_, exec_syswr_seed hf hn, rfl, ?_, rfl⟩, special_wbase_setSpecial s y v,
    special_rmode_setSpecial s y v, special_fsticky_setSpecial s y v, special_amax_setSpecial s y v,
    special_rng_setSpecial s y v, setSpecial_of_not_mem y v⟩
  have hseed := seedNew_setSeed { s with slot := y } v
  rw [show ({ s with slot := y } : State).slot = y from rfl, hprt, hid] at hseed
  exact hseed

/-- Settles O25: one equation per instruction, what each register reads, and what a written one reads back. -/
theorem specialRegisters : Obligations.SpecialRegisters := ⟨windowTimerAndEnergy, specialRegistersReadBack⟩

end Sys2Proof.Numbers
end

section
/-! SUPPORT. Float codes as sign, exponent field and mantissa field (R122, R123): what a code stands for, and the code of a value. -/

namespace Sys2Proof.Numbers

open Sys2Proof Sys2Proof.Machine Sys2Proof.Laws Sys2Proof.Claims

/-! ### The formats (R122) -/

section
variable {t : Nat}

/-- A float code is a sign bit, the exponent field and the mantissa field. -/
theorem tWidth_float (h1 : 1 ≤ t) (h7 : t ≤ 7) : tWidth t = fE t + fM t + 1 := by
  interval_cases t <;> rfl

theorem two_le_fE (t : Nat) : 2 ≤ fE t := by unfold fE; split <;> decide

/-- The one NaN of a narrow format is the code of −0. -/
theorem qnan_narrow (h : fNarrow t = true) : qnan t = 2 ^ (tWidth t - 1) := by
  simp only [fNarrow, Bool.and_eq_true, decide_eq_true_eq] at h
  obtain ⟨h5, h7⟩ := h
  interval_cases t <;> rfl

theorem decF_qnan (h1 : 1 ≤ t) (h7 : t ≤ 7) : decF t (qnan t) = .nan := by
  interval_cases t <;> decide

/-! ### Codes and their fields (R123) -/

/-- The code with a sign, an exponent field and a mantissa field. -/
def code (t : Nat) (neg : Bool) (e m : Nat) : Nat := (if neg then 2 ^ (tWidth t - 1) else 0) + e * 2 ^ fM t + m

/-- The finite value of an exponent field and a mantissa field: subnormal where the exponent field is 0 (R123). -/
def finOf (t : Nat) (neg : Bool) (e m : Nat) : FV :=
  if e = 0 then .fin neg m (1 - fBias t - fM t) else .fin neg (2 ^ fM t + m) ((e : Int) - fBias t - fM t)

/-- The sign bit has the weight of both fields below it. -/
theorem two_pow_sign (h1 : 1 ≤ t) (h7 : t ≤ 7) : 2 ^ (tWidth t - 1) = 2 ^ fE t * 2 ^ fM t := by
  rw [tWidth_float h1 h7, Nat.add_sub_cancel, pow_add]

theorem two_pow_tWidth (h1 : 1 ≤ t) (h7 : t ≤ 7) : 2 ^ tWidth t = 2 * (2 ^ fE t * 2 ^ fM t) := by
  rw [tWidth_float h1 h7, pow_succ, pow_add, mul_comm]

/-- Every code is made of its fields. -/
theorem exists_code (h1 : 1 ≤ t) (h7 : t ≤ 7) {x : Nat} (hx : x < 2 ^ tWidth t) :
    ∃ neg e m, e < 2 ^ fE t ∧ m < 2 ^ fM t ∧ x = code t neg e m := by
  rw [two_pow_tWidth h1 h7] at hx
  have hP : 0 < 2 ^ fE t * 2 ^ fM t := by positivity
  have key (y : Nat) (hy : y < 2 ^ fE t * 2 ^ fM t) : y / 2 ^ fM t < 2 ^ fE t ∧ y % 2 ^ fM t < 2 ^ fM t ∧
      y = y / 2 ^ fM t * 2 ^ fM t + y % 2 ^ fM t :=
    ⟨Nat.div_lt_of_lt_mul (by rwa [mul_comm]), Nat.mod_lt _ (by positivity), (Nat.div_add_mod' _ _).symm⟩
  by_cases hneg : x < 2 ^ fE t * 2 ^ fM t
  · obtain ⟨he, hm, hsum⟩ := key x hneg
    exact ⟨false, _, _, he, hm, by simpa [code] using hsum⟩
  · obtain ⟨he, hm, hsum⟩ := key (x - 2 ^ fE t * 2 ^ fM t) (by omega)
    refine ⟨true, _, _, he, hm, ?_⟩
    rw [code, if_pos rfl, two_pow_sign h1 h7]
    omega

section
variable (h1 : 1 ≤ t) (h7 : t ≤ 7) (neg : Bool) {e m : Nat} (he : e < 2 ^ fE t) (hm : m < 2 ^ fM t)
include h1 h7 he hm

/-- Both fields together stay below the sign bit. -/
theorem fields_lt : e * 2 ^ fM t + m < 2 ^ (tWidth t - 1) := by
  rw [two_pow_sign h1 h7]
  calc e * 2 ^ fM t + m < e * 2 ^ fM t + 2 ^ fM t := by omega
    _ = (e + 1) * 2 ^ fM t := by ring
    _ ≤ 2 ^ fE t * 2 ^ fM t := Nat.mul_le_mul_right _ he

theorem code_lt : code t neg e m < 2 ^ tWidth t := by
  have hlow := fields_lt h1 h7 he hm
  have hw : 2 ^ tWidth t = 2 * 2 ^ (tWidth t - 1) := by rw [two_pow_tWidth h1 h7, two_pow_sign h1 h7]
  unfold code
  split <;> omega

theorem code_sign : bit (code t neg e m) (tWidth t - 1) = neg := by
  have hlow := fields_lt h1 h7 he hm
  have hpos : 0 < 2 ^ (tWidth t - 1) := by positivity
  cases neg
  · simp [bit, code, Nat.div_eq_of_lt hlow]
  · simp [bit, code, add_assoc, Nat.add_div_left _ hpos, Nat.div_eq_of_lt hlow]

theorem code_exponent : bits (code t neg e m) (tWidth t - 2) (fM t) = e := by
  have hpos : 0 < 2 ^ fM t := by positivity
  have hcode : code t neg e m = (b2n neg * 2 ^ fE t + e) * 2 ^ fM t + m := by
    rw [code, two_pow_sign h1 h7]
    cases neg <;> simp [b2n, add_mul]
  have hspan : tWidth t - 2 + 1 - fM t = fE t := by
    have := two_le_fE t
    rw [tWidth_float h1 h7]
    omega
  rw [bits, hspan, hcode, mul_comm _ (2 ^ fM t), Nat.mul_add_div hpos, Nat.div_eq_of_lt hm, add_zero, mul_comm,
    Nat.mul_add_mod, Nat.mod_eq_of_lt he]

omit he in
theorem code_mantissa : code t neg e m % 2 ^ fM t = m := by
  have hsign : (if neg then 2 ^ (tWidth t - 1) else 0) % 2 ^ fM t = 0 := by
    rw [two_pow_sign h1 h7]
    split <;> simp
  rw [code, add_assoc, Nat.add_mod, hsign, zero_add, Nat.mod_mod, Nat.mul_add_mod', Nat.mod_eq_of_lt hm]

/-- The code of a narrow format that is its NaN is −0 (R122). -/
theorem code_eq_qnan_iff (hn : fNarrow t = true) : code t neg e m = qnan t ↔ neg = true ∧ e = 0 ∧ m = 0 := by
  have hlow := fields_lt h1 h7 he hm
  have hzero : e * 2 ^ fM t + m = 0 ↔ e = 0 ∧ m = 0 := by simp
  rw [qnan_narrow hn, code, add_assoc, ← hzero]
  cases neg
  · simp only [Bool.false_eq_true, if_false, false_and, iff_false]
    omega
  · simp

/-- What a code of a narrow format stands for. -/
theorem decF_code_narrow (hn : fNarrow t = true) :
    decF t (code t neg e m) = if neg = true ∧ e = 0 ∧ m = 0 then .nan else finOf t neg e m := by
  unfold decF finOf
  simp only [Nat.mod_eq_of_lt (code_lt h1 h7 neg he hm), code_sign h1 h7 neg he hm, code_exponent h1 h7 neg he hm,
    code_mantissa h1 h7 neg hm, code_eq_qnan_iff h1 h7 neg he hm hn, hn, if_true]

/-- What a code of a wide format stands for. -/
theorem decF_code_wide (hn : fNarrow t = false) :
    decF t (code t neg e m) = if e = 2 ^ fE t - 1 then (if m = 0 then .inf neg else .nan) else finOf t neg e m := by
  unfold decF finOf
  simp only [Nat.mod_eq_of_lt (code_lt h1 h7 neg he hm), code_sign h1 h7 neg he hm, code_exponent h1 h7 neg he hm,
    code_mantissa h1 h7 neg hm, hn, Bool.false_eq_true, if_false]

end

/-! ### The code of a value -/

theorem inUnits_self (m : Nat) (u : Int) : inUnits m u u = m := by simp [inUnits]

/-- A number below 2^(n+1) that has bit n has it as its highest. -/
theorem log2_two_pow_add {n m : Nat} (hm : m < 2 ^ n) : Nat.log2 (2 ^ n + m) = n := by
  rw [Nat.log2_eq_iff (by positivity), pow_succ]
  omega

/-- A subnormal value is encoded with the exponent field 0. -/
theorem encF_subnormal (neg : Bool) {m : Nat} (h0 : m ≠ 0) (hm : m < 2 ^ fM t) :
    encF t (.fin neg m (1 - fBias t - fM t)) = code t neg 0 m := by
  have hlog := (Nat.log2_lt h0).mpr hm
  have hsub : (Nat.log2 m : Int) + (1 - fBias t - fM t) < 1 - fBias t := by omega
  simp only [encF, if_neg h0, if_pos hsub, inUnits_self, code, zero_mul, add_zero]

/-- A normal value is encoded with its exponent field. -/
theorem encF_normal (neg : Bool) {e m : Nat} (h0 : e ≠ 0) (hm : m < 2 ^ fM t) :
    encF t (.fin neg (2 ^ fM t + m) ((e : Int) - fBias t - fM t)) = code t neg e m := by
  have hlog := log2_two_pow_add hm
  have hne : 2 ^ fM t + m ≠ 0 := by positivity
  have hnormal : ¬((fM t : Int) + (e - fBias t - fM t) < 1 - fBias t) := by omega
  have hexp : ((fM t : Int) + (e - fBias t - fM t) + fBias t).toNat = e := by omega
  have hunit : (fM t : Int) + (e - fBias t - fM t) - fM t = e - fBias t - fM t := by ring
  simp only [encF, if_neg hne, hlog, if_neg hnormal, hexp, hunit, inUnits_self, code, Nat.add_sub_cancel_left]

/-- The value of a code's fields is encoded as that code, but for −0 of the narrow formats, which have none. -/
theorem encF_finOf (neg : Bool) {e m : Nat} (hm : m < 2 ^ fM t) (hz : fNarrow t = true → ¬(neg = true ∧ e = 0 ∧ m = 0)) :
    encF t (finOf t neg e m) = code t neg e m := by
  unfold finOf
  by_cases he : e = 0
  · subst he
    rw [if_pos rfl]
    by_cases h0 : m = 0
    · subst h0
      cases hn : fNarrow t
      · simp [encF, hn, code]
      · have hneg : neg = false := by simpa using hz hn
        simp [encF, hn, code, hneg]
    · exact encF_subnormal neg h0 hm
  · rw [if_neg he]
    exact encF_normal neg he hm

theorem encF_decF_code (h1 : 1 ≤ t) (h7 : t ≤ 7) (neg : Bool) {e m : Nat} (he : e < 2 ^ fE t) (hm : m < 2 ^ fM t)
    (hv : decF t (code t neg e m) ≠ .nan) : encF t (decF t (code t neg e m)) = code t neg e m := by
  cases hn : fNarrow t
  · rw [decF_code_wide h1 h7 neg he hm hn] at hv ⊢
    split
    · rename_i htop
      rw [if_pos htop] at hv
      split
      · rename_i h0
        rw [encF, code, htop, h0, add_zero]
      · rename_i h0
        exact absurd (if_neg h0) hv
    · exact encF_finOf neg hm (fun h => absurd (hn.symm.trans h) (by decide))
  · rw [decF_code_narrow h1 h7 neg he hm hn] at hv ⊢
    have hz : ¬(neg = true ∧ e = 0 ∧ m = 0) := fun h => hv (if_pos h)
    rw [if_neg hz]
    exact encF_finOf neg hm (fun _ => hz)

end

theorem floatCodesRoundTrip : FloatCodesRoundTrip := by
  intro t x h1 h7 hx
  obtain ⟨neg, e, m, he, hm, rfl⟩ := exists_code h1 h7 hx
  exact ⟨encF_decF_code h1 h7 neg he hm, decF_qnan h1 h7, rfl⟩

end Sys2Proof.Numbers
end

section
/-! SUPPORT. Rounding to whole ulps and to integers (R131), and exact sums and products (R176). -/

namespace Sys2Proof.Numbers

open Sys2Proof Sys2Proof.Machine Sys2Proof.Laws Sys2Proof.Claims

/-! ### The rounding decision (R131) -/

/-- What the rounding decision makes of a value of `c.lo` whole ulps and a rest of `c.r` of 2^`c.k`: one of the two neighbours, the
one that the mode prefers. -/
structure Rounded (rm : Nat) (neg : Bool) (c : Cut) (q : Nat) : Prop where
  near  : q = c.lo ∨ q = c.lo + 1
  exact : c.r = 0 → q = c.lo
  even  : rm = 1 → (2 * c.r < 2 ^ c.k → q = c.lo) ∧ (2 ^ c.k < 2 * c.r → q = c.lo + 1) ∧ (2 * c.r = 2 ^ c.k → q % 2 = 0)
  zero  : rm = 2 → q = c.lo
  down  : rm = 3 → c.r ≠ 0 → q = if neg then c.lo + 1 else c.lo
  up    : rm = 4 → c.r ≠ 0 → q = if neg then c.lo else c.lo + 1
  away  : rm = 5 → q = if 2 ^ c.k ≤ 2 * c.r then c.lo + 1 else c.lo

theorem roundUp_exact (rm : Nat) (neg : Bool) {c : Cut} (dw : Nat) (h : c.r = 0) : roundUp rm neg c dw = false := if_pos h

section
variable (neg : Bool) {c : Cut} (dw : Nat) (h : c.r ≠ 0)
include h

theorem roundUp_even : roundUp 1 neg c dw = (decide (2 ^ c.k < 2 * c.r) || (2 * c.r == 2 ^ c.k && c.lo % 2 == 1)) := if_neg h
theorem roundUp_zero : roundUp 2 neg c dw = false := if_neg h
theorem roundUp_down : roundUp 3 neg c dw = neg := if_neg h
theorem roundUp_up : roundUp 4 neg c dw = !neg := if_neg h
theorem roundUp_away : roundUp 5 neg c dw = decide (2 ^ c.k ≤ 2 * c.r) := if_neg h

end

/-- The decision adds one ulp or none. -/
theorem rounded_roundUp (rm : Nat) (neg : Bool) (c : Cut) (dw : Nat) : Rounded rm neg c (c.lo + b2n (roundUp rm neg c dw)) := by
  by_cases h : c.r = 0
  · have hpos : 0 < 2 ^ c.k := by positivity
    rw [roundUp_exact rm neg dw h]
    exact ⟨.inl rfl, fun _ => rfl, fun _ => ⟨fun _ => rfl, by omega, by omega⟩, fun _ => rfl, fun _ hr => absurd h hr,
      fun _ hr => absurd h hr, fun _ => (if_neg (by omega)).symm⟩
  · refine ⟨?near, fun h0 => absurd h0 h, ?even, ?zero, ?down, ?up, ?away⟩
    case near => cases roundUp rm neg c dw <;> simp [b2n]
    case even =>
      rintro rfl
      rw [roundUp_even neg dw h]
      refine ⟨fun hlt => ?_, fun hgt => ?_, fun heq => ?_⟩
      · simp [b2n, hlt.ne, hlt.le]
      · simp [b2n, hgt]
      · rcases Nat.mod_two_eq_zero_or_one c.lo with hev | hodd
        · simp [b2n, heq, hev]
        · simp [b2n, heq, hodd]
          omega
    case zero =>
      rintro rfl
      rw [roundUp_zero neg dw h]
      rfl
    case down =>
      rintro rfl -
      rw [roundUp_down neg dw h]
      cases neg <;> rfl
    case up =>
      rintro rfl -
      rw [roundUp_up neg dw h]
      cases neg <;> rfl
    case away =>
      rintro rfl
      rw [roundUp_away neg dw h]
      by_cases hle : 2 ^ c.k ≤ 2 * c.r <;> simp [b2n, hle]

/-! ### Rounding to an integer (R131, R134) -/

/-- A draw changes the generator only. -/
@[simp] theorem drawIf_sticky (a : Ar) (rm : Nat) : (a.drawIf rm).2.sticky = a.sticky := by
  unfold Ar.drawIf
  split <;> rfl

@[simp] theorem setIf_sticky (a : Ar) (c : Bool) (f : BitVec 4) : (a.setIf c f).sticky = if c then a.sticky ||| f else a.sticky := by
  unfold Ar.setIf
  split <;> rfl

/-- A number of ulps of 2^0. -/
theorem cut_zero (m k : Nat) : cut m (-(k : Int)) 0 = ⟨m / 2 ^ k, m % 2 ^ k, k⟩ := by
  unfold cut
  split
  · rename_i h
    have hk : k = 0 := by omega
    subst hk
    simp [Nat.mod_one]
  · simp

theorem satI_of_range {t : Nat} {y : Int} (a : Ar) (hlo : minI t ≤ y) (hhi : y ≤ maxI t) : satI t y a = (y, a) := by
  rw [satI, if_neg (by omega), if_neg (by omega)]

theorem minI_nonpos (t : Nat) : minI t ≤ 0 := by
  unfold minI
  split
  · exact neg_nonpos.mpr (by positivity)
  · exact le_rfl

/-- Neither neighbour of a value within the type's range is clamped. -/
theorem satI_neighbour {t q low : Nat} {neg : Bool} (a : Ar) (hq : q = low ∨ q = low + 1) (hhi : (low : Int) + 1 ≤ maxI t)
    (hlo : neg = true → minI t ≤ -((low : Int) + 1)) :
    satI t (if neg then -(q : Int) else q) a = (if neg then -(q : Int) else q, a) := by
  have hmin := minI_nonpos t
  cases neg
  · exact satI_of_range a (by rw [if_neg (by decide)]; omega) (by rw [if_neg (by decide)]; omega)
  · have hlow := hlo rfl
    exact satI_of_range a (by rw [if_pos rfl]; omega) (by rw [if_pos rfl]; omega)

/-- A finite value rounded to an integer that the type holds. -/
theorem rndI_fin {t rm m k : Nat} {neg : Bool} (a : Ar) (hm : 0 < m) (hhi : ((m / 2 ^ k : Nat) : Int) + 1 ≤ maxI t)
    (hlo : neg = true → minI t ≤ -(((m / 2 ^ k : Nat) : Int) + 1)) :
    ∃ q : Nat, Rounded rm neg ⟨m / 2 ^ k, m % 2 ^ k, k⟩ q ∧ (rndI t rm (.fin neg m (-(k : Int))) a).1 = (if neg then -(q : Int) else q) ∧
      (rndI t rm (.fin neg m (-(k : Int))) a).2.sticky = if m % 2 ^ k = 0 then a.sticky else a.sticky ||| 1 := by
  have hround := rounded_roundUp rm neg ⟨m / 2 ^ k, m % 2 ^ k, k⟩ (a.drawIf rm).1
  refine ⟨_, hround, ?_⟩
  simp only [rndI, cut_zero, if_neg hm.ne']
  rw [satI_neighbour _ hround.near hhi hlo]
  refine ⟨rfl, ?_⟩
  by_cases hr : m % 2 ^ k = 0 <;> simp [hr, fNX]

theorem roundToIntegerIsNear : RoundToIntegerIsNear := by
  intro t rm m k neg a _ _ _ _ hm hhi hlo r low rest
  have hcast : (m : Int) / 2 ^ k = ((m / 2 ^ k : Nat) : Int) := by push_cast; rfl
  rw [hcast] at hhi hlo
  obtain ⟨q, hround, hval, hsticky⟩ := rndI_fin (rm := rm) a hm hhi hlo
  exact ⟨q, hval, hround.near, fun h => ⟨hround.exact h, hsticky.trans (if_pos h)⟩, fun h => hsticky.trans (if_neg h),
    hround.even, hround.zero, hround.away, hround.down, hround.up⟩

/-! ### The number of a finite value -/

/-- A magnitude with a sign. -/
def withSign (neg : Bool) (m : Nat) : Int := if neg then -(m : Int) else m

theorem fval_fin (neg : Bool) (m : Nat) (e : Int) : fval (.fin neg m e) = (withSign neg m : Rat) * (2 : Rat) ^ e := by
  unfold fval withSign
  cases neg <;> simp

/-- A multiple of a power of two is a multiple of a lower one. -/
theorem two_zpow_toNat {u e : Int} (h : u ≤ e) : (2 : Rat) ^ (e - u).toNat * (2 : Rat) ^ u = (2 : Rat) ^ e := by
  rw [← zpow_natCast, Int.toNat_of_nonneg (by omega), ← zpow_add₀ two_ne_zero, sub_add_cancel]

theorem fval_lowered (neg : Bool) (m : Nat) {u e : Int} (h : u ≤ e) :
    (withSign neg (m * 2 ^ (e - u).toNat) : Rat) * (2 : Rat) ^ u = fval (.fin neg m e) := by
  rw [fval_fin, ← two_zpow_toNat h, ← mul_assoc]
  unfold withSign
  cases neg <;> simp

/-! ### Exact sums and products (R130, R176) -/

/-- The sum of two finite values, which are not both zeros of one sign, in units of the lower exponent. -/
def sumUnits (a b : Bool) (m n : Nat) (e f : Int) : Int :=
  withSign a (m * 2 ^ (e - min e f).toNat) + withSign b (n * 2 ^ (f - min e f).toNat)

theorem sumUnits_value (a b : Bool) (m n : Nat) (e f : Int) :
    (sumUnits a b m n e f : Rat) * (2 : Rat) ^ min e f = fval (.fin a m e) + fval (.fin b n f) := by
  rw [sumUnits, Int.cast_add, add_mul, fval_lowered a m (min_le_left e f), fval_lowered b n (min_le_right e f)]

theorem addV_fin (rm : Nat) (a b : Bool) (m n : Nat) (e f : Int) : addV rm (.fin a m e) (.fin b n f) =
    if m = 0 ∧ n = 0 ∧ a = b then some (.fin a 0 0)
    else if sumUnits a b m n e f = 0 then some (.fin (decide (rm = 3)) 0 0)
    else some (.fin (decide (sumUnits a b m n e f < 0)) (sumUnits a b m n e f).natAbs (min e f)) := by
  by_cases h : m = 0 ∧ n = 0 ∧ a = b
  · obtain ⟨rfl, rfl, rfl⟩ := h
    simp [addV]
  · have hmodel : ¬(decide (m = 0) && decide (n = 0) && decide (a = b)) = true := by simpa [and_assoc] using h
    rw [if_neg h]
    exact if_neg hmodel

theorem fval_zero (neg : Bool) (e : Int) : fval (.fin neg 0 e) = 0 := by simp [fval]

/-- The sign and the magnitude of an integer put together again. -/
theorem withSign_natAbs (z : Int) : withSign (decide (z < 0)) z.natAbs = z := by
  unfold withSign
  by_cases h : z < 0
  · rw [decide_eq_true h, if_pos rfl]
    omega
  · rw [decide_eq_false h, if_neg (by decide)]
    omega

theorem addV_fin_exact (rm : Nat) (a b : Bool) (m n : Nat) (e f : Int) :
    ∃ c k g, addV rm (.fin a m e) (.fin b n f) = some (.fin c k g) ∧ fval (.fin c k g) = fval (.fin a m e) + fval (.fin b n f) ∧
      (k ≠ 0 → (c = true ↔ fval (.fin c k g) < 0)) ∧ (k = 0 → c = if m = 0 ∧ n = 0 ∧ a = b then a else decide (rm = 3)) := by
  rw [addV_fin]
  by_cases hzeros : m = 0 ∧ n = 0 ∧ a = b
  · refine ⟨a, 0, 0, if_pos hzeros, ?_, fun h => absurd rfl h, fun _ => (if_pos hzeros).symm⟩
    obtain ⟨rfl, rfl, rfl⟩ := hzeros
    simp only [fval_zero, add_zero]
  · rw [if_neg hzeros, if_neg hzeros, ← sumUnits_value]
    generalize sumUnits a b m n e f = z
    by_cases hz : z = 0
    · refine ⟨_, 0, 0, if_pos hz, ?_, fun h => absurd rfl h, fun _ => rfl⟩
      rw [hz, fval_zero, Int.cast_zero, zero_mul]
    · have hval : fval (.fin (decide (z < 0)) z.natAbs (min e f)) = (z : Rat) * (2 : Rat) ^ min e f := by
        rw [fval_fin, withSign_natAbs]
      refine ⟨_, _, _, if_neg hz, hval, fun _ => ?_, fun h => absurd (Int.natAbs_eq_zero.mp h) hz⟩
      have hpos : (0 : Rat) < (2 : Rat) ^ min e f := by positivity
      rw [hval, mul_neg_iff]
      simp [hpos, hpos.le]

theorem mulV_fin_exact (a b : Bool) (m n : Nat) (e f : Int) :
    ∃ k g, mulV (.fin a m e) (.fin b n f) = some (.fin (a != b) k g) ∧
      fval (.fin (a != b) k g) = fval (.fin a m e) * fval (.fin b n f) := by
  refine ⟨m * n, e + f, rfl, ?_⟩
  have hsign : withSign (a != b) (m * n) = withSign a m * withSign b n := by
    cases a <;> cases b <;> simp [withSign]
  rw [fval_fin, fval_fin, fval_fin, hsign, zpow_add₀ two_ne_zero, Int.cast_mul]
  ring

/-- NaN stays NaN in every sum and product. -/
theorem nan_stays (rm : Nat) (x : FV) :
    addV rm .nan x = some .nan ∧ addV rm x .nan = some .nan ∧ mulV .nan x = some .nan ∧ mulV x .nan = some .nan := by
  cases x <;> exact ⟨rfl, rfl, rfl, rfl⟩

theorem exactSumsAndProducts : ExactSumsAndProducts := by
  intro rm a b m n e f
  exact ⟨addV_fin_exact rm a b m n e f, mulV_fin_exact a b m n e f, rfl, rfl, rfl, rfl, rfl, rfl, nan_stays rm⟩

end Sys2Proof.Numbers
end

section
/-! O14: a finite value rounded into a float type goes to a neighbour on the grid of the type's values (R131 to R133). -/

namespace Sys2Proof.Numbers

open Sys2Proof Sys2Proof.Machine Sys2Proof.Laws Sys2Proof.Claims

/-! ### The values of a float type (R122, R123) -/

/-- A number that some code of the type stands for. -/
def Held (t : Nat) (x : Rat) : Prop := ∃ c < 2 ^ tWidth t, ∃ s k g, decF t c = .fin s k g ∧ fval (.fin s k g) = x

/-- The exponent of the lowest ulp of a type, that of its subnormal values. -/
def lowExp (t : Nat) : Int := 1 - fBias t - fM t

section
variable {t : Nat}

theorem maxfE_eq (t : Nat) : maxfE t = fEmax t - fBias t - fM t := rfl

/-- The largest exponent field of a finite value is a field, and not 0. -/
theorem fEmax_bounds (t : Nat) : 1 ≤ fEmax t ∧ fEmax t < 2 ^ fE t ∧ (fNarrow t = false → fEmax t ≠ 2 ^ fE t - 1) := by
  have h4 : 2 ^ 2 ≤ 2 ^ fE t := Nat.pow_le_pow_right (by decide) (two_le_fE t)
  unfold fEmax
  split
  · rename_i hn
    exact ⟨by omega, by omega, fun h => absurd (hn.symm.trans h) (by decide)⟩
  · exact ⟨by omega, by omega, fun _ => by omega⟩

theorem lowExp_le_maxfE (t : Nat) : lowExp t ≤ maxfE t := by
  have h := (fEmax_bounds t).1
  unfold lowExp
  rw [maxfE_eq]
  omega

/-- What a code of finite value stands for has at most M+1 significant bits above the lowest ulp. -/
theorem finOf_grid {neg : Bool} {e m : Nat} (hm : m < 2 ^ fM t) {s : Bool} {k : Nat} {g : Int} (h : finOf t neg e m = .fin s k g) :
    k < 2 ^ (fM t + 1) ∧ lowExp t ≤ g := by
  have hpow : 2 ^ (fM t + 1) = 2 * 2 ^ fM t := pow_succ' 2 (fM t)
  unfold finOf at h
  unfold lowExp
  split at h
  · obtain ⟨rfl, rfl, rfl⟩ := FV.fin.inj h
    exact ⟨by omega, le_rfl⟩
  · obtain ⟨rfl, rfl, rfl⟩ := FV.fin.inj h
    exact ⟨by omega, by omega⟩

theorem Held.grid (h1 : 1 ≤ t) (h7 : t ≤ 7) {x : Rat} (h : Held t x) :
    ∃ s k g, k < 2 ^ (fM t + 1) ∧ lowExp t ≤ g ∧ x = fval (.fin s k g) := by
  obtain ⟨c, hc, s, k, g, hdec, hval⟩ := h
  obtain ⟨neg, e, m, he, hm, rfl⟩ := exists_code h1 h7 hc
  have hfin : finOf t neg e m = .fin s k g := by
    cases hn : fNarrow t
    · rw [decF_code_wide h1 h7 neg he hm hn] at hdec
      split at hdec
      · split at hdec <;> exact FV.noConfusion hdec
      · exact hdec
    · rw [decF_code_narrow h1 h7 neg he hm hn] at hdec
      split at hdec
      · exact FV.noConfusion hdec
      · exact hdec
  obtain ⟨hk, hg⟩ := finOf_grid hm hfin
  exact ⟨s, k, g, hk, hg, hval.symm⟩

/-- The fields of a finite value other than −0, with an exponent field up to the largest, are those of a code. -/
theorem held_finOf (h1 : 1 ≤ t) (h7 : t ≤ 7) (neg : Bool) {e m : Nat} (he : e ≤ fEmax t) (hm : m < 2 ^ fM t)
    (hz : ¬(neg = true ∧ e = 0 ∧ m = 0)) : Held t (fval (finOf t neg e m)) := by
  obtain ⟨-, hmax, hwide⟩ := fEmax_bounds t
  have hdec : decF t (code t neg e m) = finOf t neg e m := by
    cases hn : fNarrow t
    · rw [decF_code_wide h1 h7 neg (by omega) hm hn, if_neg (by have := hwide hn; omega)]
    · rw [decF_code_narrow h1 h7 neg (by omega) hm hn, if_neg hz]
  refine ⟨code t neg e m, code_lt h1 h7 neg (by omega) hm, ?_⟩
  by_cases h0 : e = 0
  · exact ⟨_, _, _, hdec.trans (if_pos h0), by rw [finOf, if_pos h0]⟩
  · exact ⟨_, _, _, hdec.trans (if_neg h0), by rw [finOf, if_neg h0]⟩

theorem held_zero (h1 : 1 ≤ t) (h7 : t ≤ 7) : Held t 0 := by
  have h := held_finOf h1 h7 false (Nat.zero_le _) (by positivity : 0 < 2 ^ fM t) (fun h => nomatch h.1)
  rwa [finOf, if_pos rfl, fval_zero] at h

/-- A multiple of the lowest ulp below the normal values is held. -/
theorem held_subnormal (h1 : 1 ≤ t) (h7 : t ≤ 7) (neg : Bool) {q : Nat} (hq : q < 2 ^ fM t) :
    Held t (fval (.fin neg q (lowExp t))) := by
  by_cases h0 : q = 0
  · rw [h0, fval_zero]
    exact held_zero h1 h7
  · exact held_finOf h1 h7 neg (Nat.zero_le _) hq (fun h => h0 h.2.2)

/-- A number of M+1 significant bits is held where its ulp is one of the type's. -/
theorem held_normal (h1 : 1 ≤ t) (h7 : t ≤ 7) (neg : Bool) {q : Nat} {u : Int} (hlo : 2 ^ fM t ≤ q) (hhi : q < 2 ^ (fM t + 1))
    (hu : lowExp t ≤ u) (hmax : u ≤ maxfE t) : Held t (fval (.fin neg q u)) := by
  have hpow : 2 ^ (fM t + 1) = 2 * 2 ^ fM t := pow_succ' 2 (fM t)
  unfold lowExp at hu
  rw [maxfE_eq] at hmax
  obtain ⟨e, he⟩ := Int.eq_ofNat_of_zero_le (by omega : 0 ≤ u + fBias t + fM t)
  have hne : e ≠ 0 := by omega
  have hfin : finOf t neg e (q - 2 ^ fM t) = .fin neg q u := by
    rw [finOf, if_neg hne, Nat.add_sub_cancel' hlo]
    congr 1
    omega
  exact hfin ▸ held_finOf h1 h7 neg (by omega) (by omega) (fun h => hne h.2.1)

/-! ### Magnitudes -/

/-- The number m · 2^e. -/
def mag (m : Nat) (e : Int) : Rat := (m : Rat) * (2 : Rat) ^ e

/-- A number or its negation. -/
def signedBy (neg : Bool) (x : Rat) : Rat := if neg then -x else x

theorem fval_eq_mag (neg : Bool) (m : Nat) (e : Int) : fval (.fin neg m e) = signedBy neg (mag m e) := by
  unfold fval mag signedBy
  cases neg <;> simp

theorem abs_signedBy (neg : Bool) (x : Rat) : |signedBy neg x| = |x| := by
  cases neg
  · rfl
  · exact abs_neg x

theorem mag_nonneg (m : Nat) (e : Int) : 0 ≤ mag m e := by unfold mag; positivity

theorem abs_fval (neg : Bool) (m : Nat) (e : Int) : |fval (.fin neg m e)| = mag m e := by
  rw [fval_eq_mag, abs_signedBy, abs_of_nonneg (mag_nonneg m e)]

theorem mag_le_mag_left {m n : Nat} (e : Int) (h : m ≤ n) : mag m e ≤ mag n e := by
  unfold mag
  gcongr

theorem mag_lt_mag_iff_left {m n : Nat} (e : Int) : mag m e < mag n e ↔ m < n := by
  unfold mag
  rw [mul_lt_mul_iff_left₀ (by positivity)]
  exact Nat.cast_lt

theorem mag_le_mag_iff_left {m n : Nat} (e : Int) : mag m e ≤ mag n e ↔ m ≤ n := by
  unfold mag
  rw [mul_le_mul_iff_left₀ (by positivity)]
  exact Nat.cast_le

/-- A magnitude in units of a lower power of two. -/
theorem mag_lowered (m : Nat) {u e : Int} (h : u ≤ e) : mag (m * 2 ^ (e - u).toNat) u = mag m e := by
  unfold mag
  rw [← two_zpow_toNat h]
  push_cast
  ring

theorem mag_two_pow (n : Nat) (e : Int) : mag (2 ^ n) e = (2 : Rat) ^ ((n : Int) + e) := by
  unfold mag
  rw [zpow_add₀ two_ne_zero, zpow_natCast]
  push_cast
  rfl

/-- The model's comparison of magnitudes. -/
theorem magLt_iff (m : Nat) (e : Int) (n : Nat) (f : Int) : magLt m e n f = true ↔ mag m e < mag n f := by
  unfold magLt
  split
  · rename_i h
    rw [decide_eq_true_iff, ← mag_lowered m h, mag_lt_mag_iff_left]
  · rename_i h
    rw [decide_eq_true_iff, ← mag_lowered n (by omega : e ≤ f), mag_lt_mag_iff_left]

/-- The highest bit of a number bounds its magnitude on both sides. -/
theorem mag_log2 {m : Nat} (h : m ≠ 0) (e : Int) :
    (2 : Rat) ^ ((Nat.log2 m : Int) + e) ≤ mag m e ∧ mag m e < (2 : Rat) ^ ((Nat.log2 m : Int) + e + 1) := by
  have hhi : (2 : Rat) ^ ((Nat.log2 m : Int) + e + 1) = mag (2 ^ (Nat.log2 m + 1)) e := by
    rw [mag_two_pow]
    congr 1
    push_cast
    ring
  rw [hhi, ← mag_two_pow, mag_le_mag_iff_left, mag_lt_mag_iff_left]
  exact ⟨Nat.log2_self_le h, Nat.lt_log2_self⟩

/-! ### Whole ulps and the rest (R131) -/

/-- A magnitude cut into ulps is its whole ulps and a rest smaller than one. -/
theorem cut_value (m : Nat) (e u : Int) :
    let c := cut m e u
    c.r < 2 ^ c.k ∧ mag m e = mag c.lo u + (c.r : Rat) / 2 ^ c.k * (2 : Rat) ^ u := by
  unfold cut
  split
  · rename_i h
    exact ⟨by positivity, by simp [mag_lowered m h]⟩
  · rename_i h
    refine ⟨Nat.mod_lt _ (by positivity), ?_⟩
    have hue : (2 : Rat) ^ u = 2 ^ (u - e).toNat * (2 : Rat) ^ e := (two_zpow_toNat (by omega)).symm
    have hdiv : (m : Rat) = 2 ^ (u - e).toNat * (m / 2 ^ (u - e).toNat : Nat) + (m % 2 ^ (u - e).toNat : Nat) := by
      exact_mod_cast (Nat.div_add_mod m (2 ^ (u - e).toNat)).symm
    simp only [mag]
    rw [hue]
    conv_lhs => rw [hdiv]
    field_simp

/-- One ulp more. -/
theorem mag_succ (n : Nat) (u : Int) : mag (n + 1) u = mag n u + (2 : Rat) ^ u := by
  unfold mag
  push_cast
  ring

/-- A magnitude lies between two whole numbers of ulps, and the rest tells which is the nearer one. -/
theorem cut_between (m : Nat) (e u : Int) :
    let c := cut m e u
    mag c.lo u ≤ mag m e ∧ mag m e < mag (c.lo + 1) u ∧ (c.r = 0 ↔ mag m e = mag c.lo u) ∧
      (2 * c.r ≤ 2 ^ c.k → mag m e - mag c.lo u ≤ mag (c.lo + 1) u - mag m e) ∧
      (2 ^ c.k ≤ 2 * c.r → mag (c.lo + 1) u - mag m e ≤ mag m e - mag c.lo u) := by
  intro c
  obtain ⟨hr, hval⟩ := cut_value m e u
  have hU : (0 : Rat) < (2 : Rat) ^ u := by positivity
  have hk : (0 : Rat) < 2 ^ c.k := by positivity
  rw [mag_succ, hval]
  refine ⟨?below, ?above, ?whole, ?lower, ?upper⟩
  case below =>
    have : (0 : Rat) ≤ (c.r : Rat) / 2 ^ c.k * (2 : Rat) ^ u := by positivity
    linarith
  case above =>
    have hlt : (c.r : Rat) / 2 ^ c.k < 1 := by
      rw [div_lt_one hk]
      exact_mod_cast hr
    linarith [mul_lt_mul_of_pos_right hlt hU]
  case whole =>
    rw [add_eq_left, mul_eq_zero, div_eq_zero_iff, or_iff_left hU.ne', or_iff_left hk.ne', Nat.cast_eq_zero]
  case lower =>
    intro h
    have hle : 2 * ((c.r : Rat) / 2 ^ c.k) ≤ 1 := by
      rw [← mul_div_assoc, div_le_one hk]
      exact_mod_cast h
    linarith [mul_le_mul_of_nonneg_right hle hU.le]
  case upper =>
    intro h
    have hle : 1 ≤ 2 * ((c.r : Rat) / 2 ^ c.k) := by
      rw [← mul_div_assoc, one_le_div hk]
      exact_mod_cast h
    linarith [mul_le_mul_of_nonneg_right hle hU.le]

/-! ### The ulp of a value (R131) -/

/-- The exponent of the ulp that a value is rounded in. -/
def ulpExp (t m : Nat) (e : Int) : Int := max ((Nat.log2 m : Int) + e) (1 - fBias t) - fM t

theorem lowExp_le_ulpExp (t m : Nat) (e : Int) : lowExp t ≤ ulpExp t m e := by
  unfold lowExp ulpExp
  omega

/-- A value has M+1 whole bits of its ulp, or fewer when the ulp is the lowest. -/
theorem lo_bounds {m : Nat} (hm : m ≠ 0) (e : Int) :
    (cut m e (ulpExp t m e)).lo < 2 ^ (fM t + 1) ∧ (ulpExp t m e = lowExp t ∨ 2 ^ fM t ≤ (cut m e (ulpExp t m e)).lo) := by
  obtain ⟨hbelow, habove, -⟩ := cut_between m e (ulpExp t m e)
  obtain ⟨hlog, hlog'⟩ := mag_log2 hm e
  refine ⟨?_, ?_⟩
  · rw [← mag_lt_mag_iff_left (ulpExp t m e), mag_two_pow]
    refine lt_of_le_of_lt hbelow (lt_of_lt_of_le hlog' (zpow_le_zpow_right₀ one_le_two ?_))
    unfold ulpExp
    push_cast
    omega
  · by_cases hl : (Nat.log2 m : Int) + e ≤ 1 - fBias t
    · left
      unfold ulpExp lowExp
      omega
    · right
      have hexp : (fM t : Int) + ulpExp t m e = (Nat.log2 m : Int) + e := by
        unfold ulpExp
        omega
      have hlt : mag (2 ^ fM t) (ulpExp t m e) < mag ((cut m e (ulpExp t m e)).lo + 1) (ulpExp t m e) := by
        rw [mag_two_pow, hexp]
        exact lt_of_le_of_lt hlog habove
      exact Nat.lt_succ_iff.mp ((mag_lt_mag_iff_left _).mp hlt)

/-- No number of M+1 significant bits lies strictly between two whole numbers of ulps. -/
theorem grid_gap {lo k : Nat} {u g : Int} (hu : u = lowExp t ∨ 2 ^ fM t ≤ lo) (hk : k < 2 ^ (fM t + 1)) (hg : lowExp t ≤ g) :
    mag k g ≤ mag lo u ∨ mag (lo + 1) u ≤ mag k g := by
  by_cases hug : u ≤ g
  · rw [← mag_lowered k hug, mag_le_mag_iff_left, mag_le_mag_iff_left]
    omega
  · left
    have hlo : 2 ^ fM t ≤ lo := hu.resolve_left (by omega)
    calc mag k g ≤ mag (2 ^ (fM t + 1)) g := mag_le_mag_left g hk.le
      _ = (2 : Rat) ^ (((fM t + 1 : Nat) : Int) + g) := mag_two_pow _ _
      _ ≤ (2 : Rat) ^ ((fM t : Int) + u) := zpow_le_zpow_right₀ one_le_two (by push_cast; omega)
      _ = mag (2 ^ fM t) u := (mag_two_pow _ _).symm
      _ ≤ mag lo u := mag_le_mag_left u hlo

/-! ### Values of either sign -/

theorem signedBy_signedBy (neg : Bool) (x : Rat) : signedBy neg (signedBy neg x) = x := by cases neg <;> simp [signedBy]

theorem abs_signedBy_sub (neg : Bool) (x y : Rat) : |signedBy neg x - signedBy neg y| = |x - y| := by
  cases neg
  · rfl
  · rw [signedBy, signedBy, if_pos rfl, if_pos rfl, neg_sub_neg, abs_sub_comm]

theorem signedBy_inj {neg : Bool} {x y : Rat} : signedBy neg x = signedBy neg y ↔ x = y := by cases neg <;> simp [signedBy]

/-- A number that lies between neither way round does so for the negations. -/
theorem signedBy_not_between {neg : Bool} {v w x : Rat} (h : ¬(v < x ∧ x < w) ∧ ¬(w < x ∧ x < v)) :
    ¬(signedBy neg v < signedBy neg x ∧ signedBy neg x < signedBy neg w) ∧ ¬(signedBy neg w < signedBy neg x ∧ signedBy neg x < signedBy neg v) := by
  cases neg
  · exact h
  · simp only [signedBy, if_true, neg_lt_neg_iff]
    exact ⟨fun hb => h.2 ⟨hb.2, hb.1⟩, fun hb => h.1 ⟨hb.2, hb.1⟩⟩

/-- A number that the type holds, seen from the side of a value's sign, is not strictly between the value's neighbours. -/
theorem Held.gap (h1 : 1 ≤ t) (h7 : t ≤ 7) {x : Rat} (h : Held t x) (neg : Bool) {lo : Nat} {u : Int}
    (hu : u = lowExp t ∨ 2 ^ fM t ≤ lo) : signedBy neg x ≤ mag lo u ∨ mag (lo + 1) u ≤ signedBy neg x := by
  obtain ⟨s, k, g, hk, hg, rfl⟩ := h.grid h1 h7
  have hcases : signedBy neg (fval (.fin s k g)) = mag k g ∨ signedBy neg (fval (.fin s k g)) = -mag k g := by
    rw [fval_eq_mag]
    cases neg <;> cases s <;> simp [signedBy]
  rcases hcases with hsame | hopp
  · rw [hsame]
    exact grid_gap hu hk hg
  · left
    have := mag_nonneg k g
    have := mag_nonneg lo u
    linarith

/-! ### The range of a type (R122, R132) -/

/-- The magnitude of the largest finite value. -/
def topMag (t : Nat) : Rat := mag (maxfM t) (maxfE t)

theorem fval_maxfV (t : Nat) : fval (maxfV t false) = topMag t := fval_eq_mag false _ _

theorem maxfM_lt (t : Nat) : maxfM t < 2 ^ (fM t + 1) := Nat.sub_lt (by positivity) Nat.one_pos

theorem topMag_lt (t : Nat) : topMag t < (2 : Rat) ^ ((fM t : Int) + 1 + maxfE t) := by
  have h := (mag_lt_mag_iff_left (maxfE t)).mpr (maxfM_lt t)
  rw [mag_two_pow] at h
  exact_mod_cast h

/-- A value with a bit of weight 2^M in its ulp is in range only when its ulp is one of the type's. -/
theorem exp_le_of_mag_le {q : Nat} {u : Int} (hq : 2 ^ fM t ≤ q) (h : mag q u ≤ topMag t) : u ≤ maxfE t := by
  have hlt : (2 : Rat) ^ ((fM t : Int) + u) < (2 : Rat) ^ ((fM t : Int) + 1 + maxfE t) := by
    rw [← mag_two_pow]
    exact lt_of_le_of_lt ((mag_le_mag_left u hq).trans h) (topMag_lt t)
  have := (zpow_lt_zpow_iff_right₀ one_lt_two).mp hlt
  omega

/-- A rounded value within the range is held: it has M+1 bits, or carries into one bit more. -/
theorem held_rounded (h1 : 1 ≤ t) (h7 : t ≤ 7) (neg : Bool) {q : Nat} {u : Int} (hlow : lowExp t ≤ u)
    (hu : u = lowExp t ∨ 2 ^ fM t ≤ q) (hq : q ≤ 2 ^ (fM t + 1)) (h : mag q u ≤ topMag t) : Held t (fval (.fin neg q u)) := by
  by_cases hsub : q < 2 ^ fM t
  · obtain rfl := hu.resolve_right (by omega)
    exact held_subnormal h1 h7 neg hsub
  · by_cases hcarry : q = 2 ^ (fM t + 1)
    · have hmag : mag q u = mag (2 ^ fM t) (u + 1) := by
        rw [hcarry, mag_two_pow, mag_two_pow]
        congr 1
        push_cast
        ring
      rw [hmag] at h
      rw [fval_eq_mag, hmag, ← fval_eq_mag]
      exact held_normal h1 h7 neg le_rfl (Nat.pow_lt_pow_right (by decide) (by omega)) (by omega) (exp_le_of_mag_le le_rfl h)
    · exact held_normal h1 h7 neg (by omega) (by omega) hlow (exp_le_of_mag_le (by omega) h)

end

/-! ### Rounding into a float type (R131 to R133) -/

/-- A flag set under a condition shows in its own bit only. -/
theorem getLsbD_setIf (a : Ar) (c : Bool) (f : BitVec 4) (i : Nat) :
    (a.setIf c f).sticky.getLsbD i = (a.sticky.getLsbD i || (c && f.getLsbD i)) := by
  rw [setIf_sticky]
  cases c <;> simp

/-- The flags of a rounding that stays within the range: NX for a rest, UF for one below the normal values (R133). -/
def roundFlags (t : Nat) (a : Ar) (c : Cut) (q : Nat) (u : Int) : Ar :=
  (a.setIf (c.r != 0) fNX).setIf (c.r != 0 && magLt q u 1 (1 - fBias t)) fUF

theorem roundFlags_bits (t : Nat) (a : Ar) (c : Cut) (q : Nat) (u : Int) :
    (roundFlags t a c q u).sticky.getLsbD 0 = (a.sticky.getLsbD 0 || decide (c.r ≠ 0)) ∧
      (roundFlags t a c q u).sticky.getLsbD 2 = a.sticky.getLsbD 2 := by
  have hbits : fNX.getLsbD 0 = true ∧ fUF.getLsbD 0 = false ∧ fNX.getLsbD 2 = false ∧ fUF.getLsbD 2 = false := by decide
  obtain ⟨hnx0, huf0, hnx2, huf2⟩ := hbits
  simp only [roundFlags, getLsbD_setIf, hnx0, huf0, hnx2, huf2, Bool.and_true, Bool.and_false, Bool.or_false, and_true]
  by_cases hr : c.r = 0 <;> simp [hr]

/-- An overflow sets OF and NX (R132). -/
theorem overflow_bits (a : Ar) : ((a.set fOF).set fNX).sticky.getLsbD 0 = true ∧ ((a.set fOF).set fNX).sticky.getLsbD 2 = true := by
  simp [Ar.set, fOF, fNX]

/-- A finite value other than 0 rounded into a float type, branch by branch. -/
theorem rndF_eq (t rm : Nat) {m : Nat} (hm : m ≠ 0) (neg : Bool) (e : Int) (a : Ar) :
    let u := ulpExp t m e
    let c := cut m e u
    let q := c.lo + b2n (roundUp rm neg c (a.drawIf rm).1)
    let b := roundFlags t (a.drawIf rm).2 c q u
    rndF t rm (.fin neg m e) a = if magLt (maxfM t) (maxfE t) q u then (ovfV t rm neg, (b.set fOF).set fNX)
      else if q = 0 && fNarrow t then (.fin false 0 0, b) else (.fin neg q u, b) := if_neg hm

/-- What rounding a finite value into a float type gives: the rounded number of ulps with NX for a rest, or beyond the range the
overflow with OF and NX (R132, R133). -/
theorem rndF_fin (t rm : Nat) {m : Nat} (hm : m ≠ 0) (neg : Bool) (e : Int) (a : Ar) :
    let u := ulpExp t m e
    let c := cut m e u
    let r := rndF t rm (.fin neg m e) a
    ∃ q : Nat, Rounded rm neg c q ∧
      (mag q u ≤ topMag t → (∃ s k g, r.1 = .fin s k g) ∧ fval r.1 = fval (.fin neg q u) ∧
        r.2.sticky.getLsbD 0 = (a.sticky.getLsbD 0 || decide (c.r ≠ 0)) ∧ r.2.sticky.getLsbD 2 = a.sticky.getLsbD 2) ∧
      (topMag t < mag q u → r.1 = ovfV t rm neg ∧ r.2.sticky.getLsbD 0 = true ∧ r.2.sticky.getLsbD 2 = true) := by
  intro u c r
  have hr : r = _ := rndF_eq t rm hm neg e a
  refine ⟨_, rounded_roundUp rm neg c (a.drawIf rm).1, fun hfits => ?_, fun hover => ?_⟩
  · have hflags := roundFlags_bits t (a.drawIf rm).2 c (c.lo + b2n (roundUp rm neg c (a.drawIf rm).1)) u
    rw [drawIf_sticky] at hflags
    rw [if_neg (fun h => not_lt.mpr hfits ((magLt_iff _ _ _ _).mp h))] at hr
    split at hr
    · rename_i hzero
      have hq := of_decide_eq_true (Bool.and_eq_true_iff.mp hzero).1
      rw [hq] at hflags
      rw [hr, hq, fval_zero, fval_zero]
      exact ⟨⟨_, _, _, rfl⟩, rfl, hflags⟩
    · rw [hr]
      exact ⟨⟨_, _, _, rfl⟩, rfl, hflags⟩
  · rw [if_pos ((magLt_iff _ _ _ _).mpr hover)] at hr
    rw [hr]
    exact ⟨rfl, overflow_bits _⟩

/-- The value that takes the place of one beyond the range (R132). -/
theorem ovfV_eq {t rm : Nat} (h7 : t ≤ 7) (hr1 : 1 ≤ rm) (hr6 : rm ≤ 6) (neg : Bool) : ovfV t rm neg =
    if 5 ≤ t ∨ (rm == 1 || rm == 5 || rm == 6 || (rm == 3 && neg) || (rm == 4 && !neg)) = false then maxfV t neg else .inf neg := by
  by_cases h5 : 5 ≤ t
  · have hn : fNarrow t = true := by simp [fNarrow, h5, h7]
    rw [if_pos (.inl h5)]
    exact if_pos hn
  · have hn : fNarrow t = false := by simp [fNarrow, h5]
    simp only [ovfV, hn, h5, false_or, Bool.false_eq_true, if_false]
    interval_cases rm <;> cases neg <;> rfl

/-! ### The neighbours of a value (R131) -/

/-- The greatest whole number of ulps that a value's magnitude reaches. -/
def below (t m : Nat) (e : Int) : Rat := mag (cut m e (ulpExp t m e)).lo (ulpExp t m e)

/-- The next whole number of ulps. -/
def above (t m : Nat) (e : Int) : Rat := mag ((cut m e (ulpExp t m e)).lo + 1) (ulpExp t m e)

theorem below_le (t m : Nat) (e : Int) : below t m e ≤ mag m e := (cut_between m e _).1

theorem lt_above (t m : Nat) (e : Int) : mag m e < above t m e := (cut_between m e _).2.1

theorem rest_eq_zero_iff (t m : Nat) (e : Int) : (cut m e (ulpExp t m e)).r = 0 ↔ mag m e = below t m e := (cut_between m e _).2.2.1

/-- A number of the type lies outside the two neighbours of a value. -/
theorem Held.outside {t : Nat} (h1 : 1 ≤ t) (h7 : t ≤ 7) {x : Rat} (h : Held t x) (neg : Bool) {m : Nat} (hm : m ≠ 0) (e : Int) :
    signedBy neg x ≤ below t m e ∨ above t m e ≤ signedBy neg x :=
  h.gap h1 h7 neg (lo_bounds hm e).2

/-- A number outside the two neighbours is not strictly between the value and a neighbour. -/
theorem not_between {lo hi v w y : Rat} (hlo : lo ≤ v) (hhi : v < hi) (hw : w = lo ∨ w = hi) (hy : y ≤ lo ∨ hi ≤ y) :
    ¬(v < y ∧ y < w) ∧ ¬(w < y ∧ y < v) := by
  refine ⟨fun ⟨hvy, hyw⟩ => ?_, fun ⟨hwy, hyv⟩ => ?_⟩
  · rcases hw with rfl | rfl <;> rcases hy with hy | hy <;> linarith
  · rcases hw with rfl | rfl <;> rcases hy with hy | hy <;> linarith

/-- A neighbour as near as both neighbours is as near as any number outside them. -/
theorem abs_sub_le_of_outside {lo hi v w y : Rat} (hlo : |v - w| ≤ v - lo) (hhi : |v - w| ≤ hi - v) (hy : y ≤ lo ∨ hi ≤ y) :
    |v - w| ≤ |v - y| := by
  rcases hy with hy | hy
  · have := le_abs_self (v - y)
    linarith
  · have := neg_le_abs (v - y)
    linarith

section
variable {t m q rm : Nat} {neg : Bool} {e : Int} (hq : Rounded rm neg (cut m e (ulpExp t m e)) q)
include hq

theorem Rounded.mag_cases : mag q (ulpExp t m e) = below t m e ∨ mag q (ulpExp t m e) = above t m e :=
  hq.near.imp (fun h => by rw [h, below]) (fun h => by rw [h, above])

/-- A value with no rest is kept. -/
theorem Rounded.mag_of_exact (h : (cut m e (ulpExp t m e)).r = 0) : mag q (ulpExp t m e) = mag m e := by
  rw [(rest_eq_zero_iff t m e).mp h, hq.exact h, below]

/-- Rounding changes a value exactly when a rest is discarded. -/
theorem Rounded.rest_ne_zero_iff : (cut m e (ulpExp t m e)).r ≠ 0 ↔ mag q (ulpExp t m e) ≠ mag m e := by
  refine ⟨fun hr heq => ?_, fun hne hr => hne (hq.mag_of_exact hr)⟩
  rcases hq.mag_cases with hlo | hhi
  · exact hr ((rest_eq_zero_iff t m e).mpr (heq.symm.trans hlo))
  · exact absurd (heq.symm.trans hhi) (lt_above t m e).ne

/-- Mode 1 takes a nearest neighbour. -/
theorem Rounded.nearest (h : rm = 1) : |mag m e - mag q (ulpExp t m e)| ≤ mag m e - below t m e ∧
    |mag m e - mag q (ulpExp t m e)| ≤ above t m e - mag m e := by
  obtain ⟨-, -, -, hlower, hupper⟩ := cut_between m e (ulpExp t m e)
  obtain ⟨hlt, hgt, -⟩ := hq.even h
  have hbelow := below_le t m e
  have habove := lt_above t m e
  have habs_lo : |mag m e - below t m e| = mag m e - below t m e := abs_of_nonneg (by linarith)
  have habs_hi : |mag m e - above t m e| = above t m e - mag m e := by rw [abs_sub_comm]; exact abs_of_pos (by linarith)
  rcases lt_trichotomy (2 * (cut m e (ulpExp t m e)).r) (2 ^ (cut m e (ulpExp t m e)).k) with hcmp | hcmp | hcmp
  · have hw : mag q (ulpExp t m e) = below t m e := by rw [hlt hcmp, below]
    rw [hw, habs_lo]
    exact ⟨le_rfl, hlower hcmp.le⟩
  · have hle := hlower hcmp.le
    have hge := hupper hcmp.ge
    rcases hq.mag_cases with hw | hw
    · rw [hw, habs_lo]
      exact ⟨le_rfl, hle⟩
    · rw [hw, habs_hi]
      exact ⟨hge, le_rfl⟩
  · have hw : mag q (ulpExp t m e) = above t m e := by rw [hgt hcmp, above]
    rw [hw, habs_hi]
    exact ⟨hupper hcmp.le, le_rfl⟩

/-- Mode 2 takes the neighbour nearer to zero. -/
theorem Rounded.mag_le (h : rm = 2) : mag q (ulpExp t m e) ≤ mag m e := by
  rw [hq.zero h]
  exact below_le t m e

/-- Mode 3 takes the lower neighbour. -/
theorem Rounded.signedBy_le (h : rm = 3) : signedBy neg (mag q (ulpExp t m e)) ≤ signedBy neg (mag m e) := by
  by_cases hr : (cut m e (ulpExp t m e)).r = 0
  · rw [hq.mag_of_exact hr]
  · rw [hq.down h hr]
    cases neg
    · exact below_le t m e
    · exact neg_le_neg (lt_above t m e).le

/-- Mode 4 takes the upper neighbour. -/
theorem Rounded.le_signedBy (h : rm = 4) : signedBy neg (mag m e) ≤ signedBy neg (mag q (ulpExp t m e)) := by
  by_cases hr : (cut m e (ulpExp t m e)).r = 0
  · rw [hq.mag_of_exact hr]
  · rw [hq.up h hr]
    cases neg
    · exact (lt_above t m e).le
    · exact neg_le_neg (below_le t m e)

/-- A value within the range stays there: the largest value of the type is none between its neighbours. -/
theorem Rounded.mag_le_top (hm : m ≠ 0) (h : mag m e ≤ topMag t) : mag q (ulpExp t m e) ≤ topMag t := by
  rcases grid_gap (lo_bounds hm e).2 (maxfM_lt t) (lowExp_le_maxfE t) with hgap | hgap
  · have hwhole : mag m e = below t m e := le_antisymm (h.trans hgap) (below_le t m e)
    rw [hq.mag_of_exact ((rest_eq_zero_iff t m e).mpr hwhole)]
    exact h
  · rcases hq.mag_cases with hw | hw
    · rw [hw]
      exact (below_le t m e).trans h
    · rw [hw]
      exact hgap

/-- A value of 2^(emax+1) or beyond stays beyond the range. -/
theorem Rounded.top_lt_mag (hm : m ≠ 0) (h : (2 : Rat) ^ ((fEmax t : Int) - fBias t + 1) ≤ mag m e) :
    topMag t < mag q (ulpExp t m e) := by
  have hpow : (2 : Rat) ^ ((fEmax t : Int) - fBias t + 1) = mag (2 ^ fM t) (maxfE t + 1) := by
    rw [mag_two_pow, maxfE_eq]
    congr 1
    ring
  have htop : topMag t < mag (2 ^ fM t) (maxfE t + 1) := by
    rw [mag_two_pow, add_comm (maxfE t), ← add_assoc]
    exact topMag_lt t
  have hlow := lowExp_le_maxfE t
  rw [hpow] at h
  have hgap : mag (2 ^ fM t) (maxfE t + 1) ≤ below t m e := by
    have hbits : 2 ^ fM t < 2 ^ (fM t + 1) := Nat.pow_lt_pow_right (by decide) (Nat.lt_succ_self _)
    rcases grid_gap (g := maxfE t + 1) (lo_bounds hm e).2 hbits (by omega) with hgap | hgap
    · exact hgap
    · exact absurd (hgap.trans h) (not_le.mpr (lt_above t m e))
  rcases hq.mag_cases with hw | hw
  · rw [hw]
    exact lt_of_lt_of_le htop hgap
  · rw [hw]
    exact lt_of_lt_of_le htop (hgap.trans ((below_le t m e).trans (lt_above t m e).le))

/-- A rounded value within the range is one that the type holds. -/
theorem Rounded.held (h1 : 1 ≤ t) (h7 : t ≤ 7) (hm : m ≠ 0) (h : mag m e ≤ topMag t) : Held t (fval (.fin neg q (ulpExp t m e))) := by
  obtain ⟨hlo, hmin⟩ := lo_bounds (t := t) hm e
  have hnear := hq.near
  exact held_rounded h1 h7 neg (lowExp_le_ulpExp t m e) (hmin.imp_right (by omega)) (by omega) (hq.mag_le_top hm h)

end

/-! ### The statements -/

theorem roundToFloatIsNear : RoundToFloatIsNear := by
  intro t rm m neg e a h1 h7 hr1 hr6 hpos v r w top held up
  have hm : m ≠ 0 := hpos.ne'
  obtain ⟨q, hq, hfits, hover⟩ := rndF_fin t rm hm neg e a
  have hv : v = signedBy neg (mag m e) := fval_eq_mag neg m e
  have habs : |v| = mag m e := abs_fval neg m e
  refine ⟨fun hle => ?inRange, fun hge => ?beyond⟩
  case inRange =>
    rw [habs, show top = topMag t from fval_maxfV t] at hle
    obtain ⟨hfin, hval, hnx, hof⟩ := hfits (hq.mag_le_top hm hle)
    have hw : w = signedBy neg (mag q (ulpExp t m e)) := hval.trans (fval_eq_mag neg q _)
    have houtside (x : Rat) (hx : held x) := Held.outside h1 h7 hx neg hm e
    have hgap (x : Rat) (hx : held x) : ¬(v < x ∧ x < w) ∧ ¬(w < x ∧ x < v) := by
      rw [hv, hw, ← signedBy_signedBy neg x]
      exact signedBy_not_between (not_between (below_le t m e) (lt_above t m e) hq.mag_cases (houtside x hx))
    refine ⟨?held, hfin, hgap, ?nearest, ?zero, ?down, ?up, ?kept, ?nx, hof⟩
    case held =>
      rw [hw, ← fval_eq_mag]
      exact hq.held h1 h7 hm hle
    case nearest =>
      intro hrm x hx
      obtain ⟨hlo, hhi⟩ := hq.nearest hrm
      rw [hv, hw, ← signedBy_signedBy neg x, abs_signedBy_sub, abs_signedBy_sub]
      exact abs_sub_le_of_outside hlo hhi (houtside x hx)
    case zero =>
      intro hrm
      rw [habs, show |w| = mag q _ from (congrArg abs hval).trans (abs_fval neg q _)]
      exact hq.mag_le hrm
    case down =>
      intro hrm
      rw [hv, hw]
      exact hq.signedBy_le hrm
    case up =>
      intro hrm
      rw [hv, hw]
      exact hq.le_signedBy hrm
    case kept =>
      intro hheld
      rcases houtside v hheld with hlo | hhi
      · rw [hv, signedBy_signedBy] at hlo
        have hwhole := (rest_eq_zero_iff t m e).mpr (le_antisymm hlo (below_le t m e))
        rw [hw, hv, hq.mag_of_exact hwhole]
      · rw [hv, signedBy_signedBy] at hhi
        exact absurd hhi (not_le.mpr (lt_above t m e))
    case nx =>
      have hchange : w ≠ v ↔ (cut m e (ulpExp t m e)).r ≠ 0 := by
        rw [hw, hv, hq.rest_ne_zero_iff, ne_eq, signedBy_inj]
      rw [decide_eq_decide.mpr hchange]
      exact hnx
  case beyond =>
    rw [habs] at hge
    obtain ⟨hval, hnx, hof⟩ := hover (hq.top_lt_mag hm hge)
    exact ⟨hval.trans (ovfV_eq h7 hr1 hr6 neg), hnx, hof⟩

/-- Settles O14: codes are read and written through their fields, sums and products are exact, and rounding takes one of the two
neighbours on the grid of ulps, which holds every value of the type near by. -/
theorem floatCodesAndRounding : Obligations.FloatCodesAndRounding :=
  ⟨floatCodesRoundTrip, roundToIntegerIsNear, roundToFloatIsNear, exactSumsAndProducts⟩

end Sys2Proof.Numbers
end

section
/-! O8, O9 and O11: what the integer, bit and move instructions write (R169 to R174, R191). -/

namespace Sys2Proof.Tasks

open Sys2Proof Sys2Proof.Machine Sys2Proof.Laws Sys2Proof.Claims Sys2Proof.Numbers

/-! ### Integer results (R126, R134, R169) -/

theorem minI_le_maxI (t : Nat) : minI t ≤ maxI t := by
  have hhalf : (0 : Int) < 2 ^ (tWidth t - 1) := by positivity
  have hall : (0 : Int) < 2 ^ tWidth t := by positivity
  unfold minI maxI
  split <;> omega

/-- `sat` clamps to the range of the type, and sets OF when it had to (R134). -/
theorem satI_eq (t : Nat) (r : Int) (a : Ar) :
    satI t r a = (max (minI t) (min (maxI t) r), if r < minI t ∨ maxI t < r then a.set fOF else a) := by
  have hrange := minI_le_maxI t
  unfold satI
  by_cases hlow : r < minI t
  · rw [if_pos hlow, if_pos (Or.inl hlow), min_eq_right (by omega), max_eq_left hlow.le]
  · rw [if_neg hlow]
    by_cases hhigh : maxI t < r
    · rw [if_pos hhigh, if_pos (Or.inr hhigh), min_eq_left hhigh.le, max_eq_right hrange]
    · rw [if_neg hhigh, if_neg (not_or.mpr ⟨hlow, hhigh⟩), min_eq_right (not_lt.mp hhigh), max_eq_right (not_lt.mp hlow)]

/-- The arithmetic registers of a slot after a value that may have been clamped: OF is set, the generator stays. -/
theorem setAr_fOF_if (x : Slot) (c : Prop) [Decidable c] :
    x.setAr (if c then x.ar.set fOF else x.ar) = { x with fsticky := if c then x.fsticky ||| 4 else x.fsticky } := by
  split <;> rfl

/-- A result written with SAT: clamped to the range of its type, with OF where it had to be (R134, R169). -/
theorem putI_satI (t : Nat) (r : Int) (x : Slot) : (putI t (satI t r x.ar).1, x.setAr (satI t r x.ar).2) =
    (extend t (BitVec.ofInt (tWidth t) (max (minI t) (min (maxI t) r))),
      { x with fsticky := if r < minI t ∨ maxI t < r then x.fsticky ||| 4 else x.fsticky }) := by
  rw [satI_eq, setAr_fOF_if, putI_eq]
  rfl

theorem intRes_wrapped (x : Slot) {o : Ops} (hsat : o.sat = false) (r : Int) :
    x.intRes o r = (extend (intT o) (BitVec.ofInt (tWidth (intT o)) r), x) := by
  rw [Slot.intRes, hsat, putI_eq]
  rfl

theorem intRes_clamped (x : Slot) {o : Ops} (hsat : o.sat = true) (r : Int) :
    x.intRes o r = (extend (intT o) (BitVec.ofInt (tWidth (intT o)) (max (minI (intT o)) (min (maxI (intT o)) r))),
      { x with fsticky := if r < minI (intT o) ∨ maxI (intT o) < r then x.fsticky ||| 4 else x.fsticky }) :=
  (if_pos hsat).trans (putI_satI (intT o) r x)

/-! ### Integer instructions (R169, R170) -/

/-- A remainder as the statement has it: that of the truncated division, or A for a zero divisor. -/
theorem remI_eq_tmod (a b : Int) : remI a b = if b = 0 then a else a.tmod b := by
  split
  · rename_i hb
    exact if_pos hb
  · rename_i hb
    exact remI_of_ne hb a

/-- A quotient for a zero divisor is −1 or all ones (R170). -/
theorem divI_eq_tdiv (t : Nat) (a b : Int) :
    divI t a b = if b = 0 then (if tSigned t then -1 else 2 ^ tWidth t - 1) else a.tdiv b := by
  unfold divI maxI
  split
  · split
    · rfl
    · rfl
  · rfl

/-- Every integer instruction of the table is the integer mould with its own operation. -/
theorem exec_intTable (s : State) (o : Ops) : ∀ p ∈ intTable o, exec p.1 s = s.alu o 0 (intOp o p.2) := by
  have hquo := congrArg (fun f => s.alu o 0 (intOp o f)) (funext₂ (divI_eq_tdiv (intT o)))
  have hrest := congrArg (fun f => s.alu o 0 (intOp o f)) (funext₂ remI_eq_tmod)
  have habs : s.alu o 0 (intUnOp o (fun a => a.natAbs)) = s.alu o 0 (intOp o (fun a _ => |a|)) := by
    simp only [Int.abs_eq_natAbs]
    rfl
  simp only [intTable, List.forall_mem_cons]
  exact ⟨rfl, rfl, rfl, rfl, rfl, rfl, rfl, rfl, rfl, rfl, hquo, hquo, hrest, hrest, rfl, rfl, rfl, rfl, habs, habs, rfl, rfl,
    List.forall_mem_nil _⟩

/-- Settles O8: every row of the table is the integer mould, whose result is wrapped, or clamped with OF. -/
theorem integerInstructions : Obligations.IntegerInstructions := by
  intro s o g y hf hp p hmem r lo hi
  have hrun : exec p.1 s = slotNext s (wrote (y.intRes o r).2 o (y.intRes o r).1 0) :=
    (exec_intTable s o p hmem).trans (alu_wrote hf hp 0 _)
  refine ⟨fun hsat => ?_, fun hsat => ?_⟩
  · rw [hrun, intRes_wrapped y hsat]
  · rw [hrun, intRes_clamped y hsat]
    rfl

/-! ### Bit patterns (R169, R171) -/

section
variable {o : Ops} {g : Got} {y : Slot}

/-- A pattern written in its own type. -/
theorem putBits_toNat (t : Nat) (p : BitVec (tWidth t)) : putBits t p.toNat = extend t p := by
  rw [putBits_eq, BitVec.ofNat_toNat, BitVec.setWidth_eq]
  rfl

/-- A number written in a type, as its pattern. -/
theorem putI_natCast (t n : Nat) : putI t n = extend t (BitVec.ofNat (tWidth t) n) := by
  rw [putI_eq, BitVec.ofInt_natCast]
  rfl

/-- The pattern of B reduced to the width is that of its number. -/
theorem low_eq_ofNat (t : Nat) (v : Dword) : low t v = (BitVec.ofNat (tWidth t) v.toNat).toNat := (BitVec.toNat_ofNat ..).symm

theorem patOp_eq {f : Nat → Nat → Nat} {h : BitVec (tWidth (intT o)) → BitVec (tWidth (intT o)) → BitVec (tWidth (intT o))}
    (hfh : ∀ a b, f a.toNat b.toNat = (h a b).toNat) :
    patOp o f g y = (extend (intT o) (h (g.a.val.setWidth _) (BitVec.ofNat _ g.b.val.toNat)), y) := by
  rw [patOp, low_eq, low_eq_ofNat, hfh, putBits_toNat]

theorem shiftOp_eq {f : Nat → Nat → Nat} {h : BitVec (tWidth (intT o)) → Nat → BitVec (tWidth (intT o))}
    (hfh : ∀ a n, f a.toNat n = (h a n).toNat) :
    shiftOp o f g y = (extend (intT o) (h (g.a.val.setWidth _) (g.b.val.toNat % 128)), y) := by
  rw [shiftOp, low_eq, hfh, putBits_toNat]

theorem countOp_eq {f : Nat → Nat → Nat} {h : BitVec (tWidth (intT o)) → Nat} (hfh : ∀ a, f (tWidth (intT o)) a.toNat = h a) :
    countOp o f g y = (extend (intT o) (BitVec.ofNat (tWidth (intT o)) (h (g.a.val.setWidth _))), y) := by
  rw [countOp, low_eq, intW, hfh, putI_natCast]

end

theorem popP_toNat (w : Nat) (a : BitVec w) : popP w a.toNat = (List.range w).countP (fun i => a.getLsbD i) := by
  simp only [popP_eq, BitVec.testBit_toNat]

/-- The number of B that an operation on patterns uses: the count B[6:0] of a shift, or the whole of B. -/
def patCount (g : Got) (shift : Bool) : Nat := if shift then g.b.val.toNat % 128 else g.b.val.toNat

/-- Every instruction of the table on bit patterns writes the pattern that its operation computes. -/
theorem exec_patTable (s : State) (o : Ops) (g : Got) (y : Slot) : ∀ p ∈ patTable o, ∃ op, exec p.1 s = s.alu o 0 op ∧
    op g y = (extend (intT o) (p.2.2 (tWidth (intT o)) (g.a.val.setWidth _) (patCount g p.2.1)), y) := by
  have hand := patOp_eq (o := o) (g := g) (y := y) (h := fun a b => a &&& b) (fun a b => (BitVec.toNat_and a b).symm)
  have hor := patOp_eq (o := o) (g := g) (y := y) (h := fun a b => a ||| b) (fun a b => (BitVec.toNat_or a b).symm)
  have hxor := patOp_eq (o := o) (g := g) (y := y) (h := fun a b => a ^^^ b) (fun a b => (BitVec.toNat_xor a b).symm)
  have hshl := shiftOp_eq (o := o) (g := g) (y := y) (h := fun a n => a <<< n) shlP_eq
  have hshr := shiftOp_eq (o := o) (g := g) (y := y) (h := fun a n => a >>> n) shrP_eq
  have hsar := shiftOp_eq (o := o) (g := g) (y := y) (h := fun a n => a.sshiftRight n) sarP_eq
  have hrot := shiftOp_eq (o := o) (g := g) (y := y) (h := fun a n => a.rotateLeft n) (rotP_eq (tWidth_pos _))
  have hclz := countOp_eq (o := o) (g := g) (y := y) clzP_eq
  have hpop := countOp_eq (o := o) (g := g) (y := y) (popP_toNat _)
  simp only [patTable, List.forall_mem_cons]
  exact ⟨⟨_, rfl, hand⟩, ⟨_, rfl, hand⟩, ⟨_, rfl, hor⟩, ⟨_, rfl, hor⟩, ⟨_, rfl, hxor⟩, ⟨_, rfl, hxor⟩, ⟨_, rfl, hxor⟩,
    ⟨_, rfl, hxor⟩, ⟨_, rfl, hshl⟩, ⟨_, rfl, hshl⟩, ⟨_, rfl, hshr⟩, ⟨_, rfl, hshr⟩, ⟨_, rfl, hsar⟩, ⟨_, rfl, hsar⟩,
    ⟨_, rfl, hrot⟩, ⟨_, rfl, hrot⟩, ⟨_, rfl, hclz⟩, ⟨_, rfl, hclz⟩, ⟨_, rfl, hpop⟩, ⟨_, rfl, hpop⟩, List.forall_mem_nil _⟩

/-- Settles O9: every row of the table writes its pattern in the instruction's type. -/
theorem shiftAndBitInstructions : Obligations.ShiftAndBitInstructions := by
  intro s o g y hf hp _ p hmem w n
  obtain ⟨op, hrun, hop⟩ := exec_patTable s o g y p hmem
  rw [hrun, alu_wrote hf hp, hop]
  rfl

/-! ### Conditions (R172, R178) -/

/-- A well-formed instruction of a form other than I has an F that its entry admits (R109). -/
theorem f_of_wf {i : Instr} {r : Row} {o : Ops} (hi : fieldsOf i = some (r, o)) (hforms : r.forms.contains Form.i = false)
    (hwf : i.wf = true) : r.e.f o.f = true := by
  rw [Encoding.wf_eq_wfFields hi] at hwf
  simp only [Instr.wfFields, Entry.ok, Bool.and_eq_true] at hwf
  obtain ⟨⟨hform, -⟩, -, hcodes⟩ := hwf
  have hni : o.form ≠ .i := by
    intro h
    rw [h, hforms] at hform
    exact nomatch hform
  simp only [Entry.codes, beq_iff_eq, List.append_eq_nil_iff] at hcodes
  obtain ⟨⟨⟨⟨⟨⟨-, hf⟩, -⟩, -⟩, -⟩, -⟩, -⟩ := hcodes
  simpa [hni] using hf

/-- The comparison of integers that F selects (R172). -/
def intCond (f : Nat) (a b : Int) : Bool :=
  match f with
  | 0 => a == b
  | 1 => a != b
  | 2 => decide (a < b)
  | 3 => decide (a ≤ b)
  | 4 => decide (b < a)
  | _ => decide (b ≤ a)

theorem condHolds_int {f : BitVec 4} (hf : f.toNat ≤ 5) (a b : Int) : condHolds f (decide (a < b)) (a == b) = intCond f.toNat a b := by
  unfold condHolds intCond
  generalize f.toNat = n at hf ⊢
  rw [Bool.eq_iff_iff]
  interval_cases n
  · rfl
  · rfl
  · rfl
  · simp only [Bool.or_eq_true, decide_eq_true_eq, beq_iff_eq]
    omega
  · simp only [Bool.and_eq_true, Bool.not_eq_true', decide_eq_false_iff_not, decide_eq_true_eq, beq_eq_false_iff_ne]
    omega
  · simp only [Bool.not_eq_true', decide_eq_false_iff_not, decide_eq_true_eq]
    omega

/-! ### Moves and bit fields (R172 to R174, R191) -/

/-- A value read in an integer type and written in it is its pattern (R152). -/
theorem putI_valI (t : Nat) (v : Dword) : putI t (valI t v) = extend t (v.setWidth (tWidth t)) := by
  have hpat : BitVec.ofInt (tWidth t) (valI t v) = v.setWidth (tWidth t) := by
    rw [valI_eq]
    split
    · exact BitVec.ofInt_toInt
    · rw [BitVec.ofInt_natCast, BitVec.ofNat_toNat, BitVec.setWidth_eq]
  rw [putI_eq, hpat]
  rfl

/-- BFX takes the field as a bit vector of its length, sign-copied where F says so (R174). -/
theorem bfxVal_eq (o : Ops) (a : Dword) :
    bfxVal o a = let v := (a >>> bfPos o).setWidth (bfLen o)
      if o.f = 1 then v.signExtend 64 else v.setWidth 64 := by
  have hfield : a.toNat / 2 ^ bfPos o % 2 ^ bfLen o = ((a >>> bfPos o).setWidth (bfLen o)).toNat := by
    rw [BitVec.toNat_setWidth, BitVec.toNat_ushiftRight, Nat.shiftRight_eq_div_pow]
  unfold bfxVal
  dsimp only
  rw [hfield]
  split
  · have hlen : 0 < bfLen o := Nat.succ_pos _
    rw [signed_eq_toInt _ _ hlen, BitVec.ofNat_toNat, BitVec.setWidth_eq]
    rfl
  · exact BitVec.ofNat_toNat ..

/-- The mask of BFI has the bits of the field. -/
theorem getLsbD_mask {len pos k : Nat} (hk : k < 64) :
    (BitVec.ofNat 64 ((2 ^ len - 1) * 2 ^ pos)).getLsbD k = decide (pos ≤ k ∧ k < pos + len) := by
  rw [BitVec.getLsbD_ofNat, Nat.testBit_mul_two_pow, Nat.testBit_two_pow_sub_one, Bool.eq_iff_iff]
  simp only [Bool.and_eq_true, decide_eq_true_eq]
  omega

/-- BFI takes the bits of the field from A and keeps the others (R174). -/
theorem getLsbD_bfiVal (o : Ops) (a d : Dword) {k : Nat} (hk : k < 64) :
    (bfiVal o a d).getLsbD k = if bfPos o ≤ k ∧ k < bfPos o + bfLen o then a.getLsbD (k - bfPos o) else d.getLsbD k := by
  simp only [bfiVal, BitVec.getLsbD_or, BitVec.getLsbD_and, BitVec.getLsbD_not, BitVec.getLsbD_shiftLeft, getLsbD_mask hk]
  split
  · rename_i hin
    have hnot : ¬k < bfPos o := by omega
    simp [hin, hk, hnot]
  · rename_i hout
    simp [hout, hk]

/-- Every instruction of the table of moves writes its value and changes nothing else of its slot. -/
theorem exec_moveTable (s : State) (o : Ops) (g : Got) (y : Slot) : ∀ p ∈ moveTable o g, p.1.wf = true →
    ∃ op, exec p.1 s = s.alu o 0 op ∧ op g y = (p.2, y) := by
  have hcmp (hf : o.f.toNat ≤ 5) : cmpOp o g y = (if intCond o.f.toNat (aOf o g) (bOf o g) then 1 else 0, y) :=
    congrArg (fun c => (b2d c, y)) (condHolds_int hf (aOf o g) (bOf o g))
  have himm := congrArg (·, y) (putI_valI (intT o) (immVal o))
  have hbfx := congrArg (·, y) (bfxVal_eq o g.a.val)
  simp only [moveTable, List.forall_mem_cons]
  refine ⟨fun hwf => ⟨_, rfl, hcmp ?short⟩, fun hwf => ⟨_, rfl, hcmp ?long⟩, fun _ => ⟨_, rfl, himm⟩, fun _ => ⟨_, rfl, himm⟩,
    fun _ => ⟨_, rfl, rfl⟩, fun _ => ⟨_, rfl, rfl⟩, fun _ => ⟨_, rfl, hbfx⟩, fun _ => ⟨_, rfl, rfl⟩, fun _ => ⟨_, rfl, rfl⟩,
    List.forall_mem_nil _⟩
  case short => exact of_decide_eq_true (f_of_wf (i := .cmp o) rfl rfl hwf)
  case long => exact of_decide_eq_true (f_of_wf (i := .cmpLong o) rfl rfl hwf)

theorem moveInstructions : MoveInstructions := by
  intro s o g y hf hp p hmem hwf
  obtain ⟨op, hrun, hop⟩ := exec_moveTable s o g y p hmem hwf
  rw [hrun, alu_wrote hf hp, hop]

/-- An instruction that keeps some bits of its destination register reads it beside its operands (R173, R174). -/
theorem insert_wrote {s : State} {o : Ops} {c : BitVec 5} {g : Got} {y : Slot} (h : InsertReads s o c g y) (f : Got → Dword → Dword) :
    s.runSlot 0 (Slot.insert o f) = slotNext s (wrote y o (f g (y.dstReg o c)) 0) := by
  obtain ⟨hissue, hd, hreads, hpass, hheld, hdst⟩ := h
  refine runSlot_ok hissue ?_
  simp [Slot.insert, hreads, hheld, hdst, hpass, hd]

theorem insertInstructions : InsertInstructions := by
  intro s o c g y h d pos len
  exact ⟨insert_wrote h _, _, insert_wrote h _, fun k hk => getLsbD_bfiVal o g.a.val d hk⟩

/-- Settles O11: the moves write their values, and MOVL.hi and BFI insert into what their register held. -/
theorem moveAndInsertInstructions : Obligations.MoveAndInsertInstructions := ⟨moveInstructions, insertInstructions⟩

end Sys2Proof.Tasks
end

section
/-! O12: the float instructions round once, or are exact and set no flag (R175 to R178, R180). -/

namespace Sys2Proof.Tasks

open Sys2Proof Sys2Proof.Machine Sys2Proof.Laws Sys2Proof.Claims Sys2Proof.Numbers

/-! ### Rounded results (R175, R176, R180) -/

/-- An exact result rounded into a type; an invalid operation gives NaN and sets NV. -/
def roundOnce (t rm : Nat) (v : Option FV) (a : Ar) : FV × Ar :=
  match v with
  | none => (.nan, a.set fNV)
  | some v => rndF t rm v a

/-- A result clamped into a type with SAT (R134). -/
def clampIf (sat : Bool) (t : Nat) (r : FV × Ar) : FV × Ar := if sat then satF t r.1 r.2 else r

theorem fltRes_eq (x : Slot) (o : Ops) (t : Nat) (v : Option FV) :
    x.fltRes o t v = let q := clampIf o.sat t (roundOnce t (x.rm o) v x.ar)
      (putBits t (encF t q.1), x.setAr q.2) := rfl

section
variable (s : State) (o : Ops) (g : Got) (y : Slot)

/-- FMA rounds the sum of the exact product; a NaN operand gives NaN without a flag (R176). -/
theorem fmaOp_eq : fmaOp o g y = y.fltRes o (fltT o)
    (if fltVal o g.a = .nan ∨ fltVal o g.b = .nan ∨ fltVal o g.c = .nan then some .nan
     else (mulV (fltVal o g.a) (fltVal o g.b)).bind (fun p => addV (y.rm o) p (fltVal o g.c))) := by
  unfold fmaOp
  simp only [Bool.or_eq_true, decide_eq_true_eq, or_assoc]
  split
  · rfl
  · cases mulV (fltVal o g.a) (fltVal o g.b) <;> rfl

/-- Every rounding instruction of the table rounds the exact value of its operation. -/
theorem exec_roundTable : ∀ p ∈ roundTable o (y.rm o), ∃ op, exec p.1 s = s.alu o p.2.1 op ∧
    op g y = y.fltRes o (fltT o) (p.2.2 (fltVal o g.a) (fltVal o g.b) (fltVal o g.c)) := by
  simp only [roundTable, List.forall_mem_cons]
  exact ⟨⟨_, rfl, rfl⟩, ⟨_, rfl, rfl⟩, ⟨_, rfl, rfl⟩, ⟨_, rfl, rfl⟩, ⟨_, rfl, rfl⟩, ⟨_, rfl, rfl⟩, ⟨_, rfl, fmaOp_eq o g y⟩,
    ⟨_, rfl, rfl⟩, ⟨_, rfl, rfl⟩, ⟨_, rfl, rfl⟩, ⟨_, rfl, rfl⟩, ⟨_, rfl, rfl⟩, ⟨_, rfl, rfl⟩, ⟨_, rfl, rfl⟩, ⟨_, rfl, rfl⟩,
    ⟨_, rfl, rfl⟩, ⟨_, rfl, rfl⟩, ⟨_, rfl, rfl⟩, ⟨_, rfl, rfl⟩, ⟨_, rfl, rfl⟩, ⟨_, rfl, rfl⟩, ⟨_, rfl, rfl⟩, ⟨_, rfl, rfl⟩,
    List.forall_mem_nil _⟩

end

theorem roundedFloatInstructions : RoundedFloatInstructions := by
  intro s o g y hf hp p hmem t ar r q
  obtain ⟨op, hrun, hop⟩ := exec_roundTable s o g y p hmem
  have hres : op g y = (putBits t (encF t q.1), y.setAr q.2) := hop.trans (fltRes_eq y o t _)
  rw [hrun, alu_wrote hf hp, hres]
  rfl

/-! ### Exact results (R177, R178) -/

/-- A magnitude below another is not above it. -/
theorem magLt_asymm {m n : Nat} {e f : Int} (h : magLt m e n f = true) : magLt n f m e = false := by
  rw [magLt_iff] at h
  rw [Bool.eq_false_iff, ne_eq, magLt_iff]
  exact not_lt_of_gt h

/-- The order of values that are not NaN is strict. -/
theorem ltV_asymm {x y : FV} (h : ltV x y = true) : ltV y x = false := by
  match x, y with
  | .nan, _ => exact nomatch h
  | .inf _, .nan => exact nomatch h
  | .fin .., .nan => exact nomatch h
  | .inf a, .inf b =>
    simp only [ltV, Bool.and_eq_true, Bool.not_eq_true'] at h ⊢
    simp [h]
  | .inf a, .fin .. => simpa [ltV] using h
  | .fin .., .inf b => simpa [ltV] using h
  | .fin a m e, .fin b n f =>
    unfold ltV at h ⊢
    dsimp only at h ⊢
    rw [Bool.and_comm (decide (n = 0))]
    split at h
    · exact nomatch h
    · rename_i hzero
      rw [if_neg hzero]
      cases ha : a && m != 0
      · cases hb : b && n != 0
        · rw [ha, hb] at h
          exact magLt_asymm h
        · rw [ha, hb] at h
          exact nomatch h
      · cases hb : b && n != 0
        · rfl
        · rw [ha, hb] at h
          exact magLt_asymm h

/-- The comparison of two values that F selects: those but 1 and 6 fail on NaN (R178). -/
def fltCond (f : Nat) (a b : FV) : Bool :=
  let nans : Bool := a == .nan || b == .nan
  match f with
  | 0 => !nans && !ltV a b && !ltV b a
  | 1 => nans || ltV a b || ltV b a
  | 2 => !nans && ltV a b
  | 3 => !nans && !ltV b a
  | 4 => !nans && ltV b a
  | 5 => !nans && !ltV a b
  | 6 => nans
  | _ => !nans

/-- Beside a NaN only the conditions 1 and 6 hold (R178). -/
theorem fltCond_nan {f : Nat} (hf : f ≤ 7) {a b : FV} (hnan : (a == .nan || b == .nan) = true) :
    fltCond f a b = (f == 1 || f == 6) := by
  unfold fltCond
  rw [hnan]
  interval_cases f <;> rfl

/-- Without a NaN the condition is that of a strict order. -/
theorem fltCond_order {f : BitVec 4} (hf : f.toNat ≤ 7) {a b : FV} (hnan : (a == .nan || b == .nan) = false) :
    fltCond f.toNat a b = condHolds f (ltV a b) (!ltV a b && !ltV b a) := by
  have hstrict : ltV a b = true → ltV b a = false := ltV_asymm
  unfold fltCond condHolds
  rw [hnan]
  generalize f.toNat = n at hf ⊢
  generalize ltV a b = p at hstrict ⊢
  generalize ltV b a = q at hstrict ⊢
  revert hstrict
  interval_cases n <;> revert p q <;> decide

theorem fcmpOp_eq {o : Ops} (hf : o.f.toNat ≤ 7) (g : Got) (y : Slot) :
    fcmpOp o g y = (if fltCond o.f.toNat (fltVal o g.a) (fltVal o g.b) then 1 else 0, y) := by
  have hcode (k : BitVec 4) : decide (o.f = k) = (o.f.toNat == k.toNat) := decide_eq_decide.mpr BitVec.toNat_inj.symm
  unfold fcmpOp
  dsimp only
  cases hnan : (fltVal o g.a == .nan || fltVal o g.b == .nan)
  · rw [fltCond_order hf hnan]
    rfl
  · rw [fltCond_nan hf hnan, hcode, hcode]
    rfl

/-- FCLASS sets the bit of the class (R178). -/
theorem fclassOp_eq (o : Ops) (g : Got) (y : Slot) : fclassOp o g y = ((1 : Dword) <<< classBit (fltT o) (fltVal o g.a), y) := by
  refine congrArg (·, y) (BitVec.eq_of_toNat_eq ?_)
  rw [BitVec.toNat_ofNat, BitVec.toNat_shiftLeft, Nat.shiftLeft_eq]
  exact congrArg (· % 2 ^ 64) (Nat.one_mul _).symm

/-- Every exact instruction of the table writes its value and changes nothing else of its slot. -/
theorem exec_exactTable (s : State) (o : Ops) (g : Got) (y : Slot) : ∀ p ∈ exactTable o g, p.1.wf = true →
    ∃ op, exec p.1 s = s.alu o (fltCls o) op ∧ op g y = (p.2, y) := by
  have hclass := fclassOp_eq o g y
  simp only [exactTable, List.forall_mem_cons]
  refine ⟨fun _ => ⟨_, rfl, rfl⟩, fun _ => ⟨_, rfl, rfl⟩, fun _ => ⟨_, rfl, rfl⟩, fun _ => ⟨_, rfl, rfl⟩, fun _ => ⟨_, rfl, rfl⟩,
    fun _ => ⟨_, rfl, rfl⟩, fun _ => ⟨_, rfl, rfl⟩, fun _ => ⟨_, rfl, rfl⟩, fun hwf => ⟨_, rfl, fcmpOp_eq ?short g y⟩,
    fun hwf => ⟨_, rfl, fcmpOp_eq ?long g y⟩, fun _ => ⟨_, rfl, hclass⟩, fun _ => ⟨_, rfl, hclass⟩, List.forall_mem_nil _⟩
  case short => exact of_decide_eq_true (f_of_wf (i := .fcmp o) rfl rfl hwf)
  case long => exact of_decide_eq_true (f_of_wf (i := .fcmpLong o) rfl rfl hwf)

theorem exactFloatInstructions : ExactFloatInstructions := by
  intro s o g y hf hp p hmem hwf
  obtain ⟨op, hrun, hop⟩ := exec_exactTable s o g y p hmem hwf
  rw [hrun, alu_wrote hf hp, hop]
  rfl

/-- Settles O12: the results of the rounding table are rounded once, those of the exact table are written as they are. -/
theorem floatInstructions : Obligations.FloatInstructions := ⟨roundedFloatInstructions, exactFloatInstructions⟩

end Sys2Proof.Tasks
end

section
/-! O24: RACC accumulates in a register and delivers it at its key marker (R190). -/

namespace Sys2Proof.Tasks

open Sys2Proof Sys2Proof.Machine Sys2Proof.Laws Sys2Proof.Claims Sys2Proof.Numbers

/-! ### Values of an integer type (R126, R152) -/

theorem minI_le_valI (t : Nat) (v : Dword) : minI t ≤ valI t v := by
  rw [valI_eq, minI]
  split
  · exact BitVec.le_toInt _
  · exact Int.natCast_nonneg _

theorem valI_le_maxI (t : Nat) (v : Dword) : valI t v ≤ maxI t := by
  rw [valI_eq, maxI]
  split
  · exact Int.le_sub_one_of_lt BitVec.toInt_lt
  · exact Int.le_sub_one_of_lt (by exact_mod_cast BitVec.isLt _)

/-! ### One element accumulated (R190) -/

section
variable {o : Ops} (x : Slot) (acc v : Dword)

/-- A minimum or maximum of two values of the type is one of them. -/
theorem accInt_mem_range {f : Nat} (hf : f = 1 ∨ f = 2) (t : Nat) :
    minI t ≤ accInt f (valI t acc) (valI t v) ∧ accInt f (valI t acc) (valI t v) ≤ maxI t := by
  have hacc := minI_le_valI t acc
  have hv := minI_le_valI t v
  have hacc' := valI_le_maxI t acc
  have hv' := valI_le_maxI t v
  rcases hf with rfl | rfl
  · show minI t ≤ min _ _ ∧ min _ _ ≤ maxI t
    omega
  · show minI t ≤ max _ _ ∧ max _ _ ≤ maxI t
    omega

/-- Of integers a minimum or maximum is written as it is, a sum or count wrapped or clamped. -/
theorem accStep_int (hflt : tIsFlt (accT o) = false) : accStep o x acc v =
    let r := accInt (o.f.toNat % 4) (valI (accT o) acc) (valI (accT o) v)
    if o.f.toNat % 4 = 1 ∨ o.f.toNat % 4 = 2 then (putI (accT o) r, x) else x.accInt o r := by
  have hop : o.f.toNat % 4 < 4 := Nat.mod_lt _ (by decide)
  unfold accStep
  dsimp only
  rw [hflt]
  generalize o.f.toNat % 4 = f at hop ⊢
  interval_cases f <;> rfl

theorem accStep_int_wrapped (hflt : tIsFlt (accT o) = false) (h : o.sat = false ∨ o.f.toNat % 4 = 1 ∨ o.f.toNat % 4 = 2) :
    accStep o x acc v = (extend (accT o) (BitVec.ofInt (tWidth (accT o))
      (accInt (o.f.toNat % 4) (valI (accT o) acc) (valI (accT o) v))), x) := by
  rw [accStep_int x acc v hflt]
  dsimp only
  split
  · rw [putI_eq]
    rfl
  · rename_i hop
    rw [Slot.accInt, h.resolve_right hop, putI_eq]
    rfl

theorem accStep_int_clamped (hflt : tIsFlt (accT o) = false) (hsat : o.sat = true) :
    let t := accT o
    let r := accInt (o.f.toNat % 4) (valI t acc) (valI t v)
    accStep o x acc v = (extend t (BitVec.ofInt (tWidth t) (max (minI t) (min (maxI t) r))),
      { x with fsticky := if r < minI t ∨ maxI t < r then x.fsticky ||| 4 else x.fsticky }) := by
  intro t r
  by_cases hop : o.f.toNat % 4 = 1 ∨ o.f.toNat % 4 = 2
  · obtain ⟨hlow, hhigh⟩ : minI t ≤ r ∧ r ≤ maxI t := accInt_mem_range acc v hop t
    rw [accStep_int_wrapped x acc v hflt (.inr hop), min_eq_right hhigh, max_eq_right hlow,
      if_neg (not_or.mpr ⟨not_lt.mpr hlow, not_lt.mpr hhigh⟩)]
  · rw [accStep_int x acc v hflt, ← putI_satI]
    exact (if_neg hop).trans (if_pos hsat)

/-- Of floats a sum is rounded as FADD's, a minimum or maximum written without a flag. -/
theorem accStep_flt (hflt : tIsFlt (accT o) = true) :
    let t := accT o
    let a := decF t acc.toNat
    let b := decF t v.toNat
    (o.f.toNat % 4 = 0 → accStep o x acc v = x.fltRes o t (addV (x.rm o) a b)) ∧
    (o.f.toNat % 4 = 1 → accStep o x acc v = (putBits t (encF t (minV a b)), x)) ∧
    (o.f.toNat % 4 = 2 → accStep o x acc v = (putBits t (encF t (maxV a b)), x)) := by
  unfold accStep
  dsimp only
  rw [if_pos hflt]
  refine ⟨fun h => ?_, fun h => ?_, fun h => ?_⟩ <;> rw [h] <;> rfl

end

/-! ### RACC with an element and with a marker (R190) -/

section
variable {s : State} {o : Ops} {c : BitVec 5} {g : Got} {y : Slot} (hreg : accReg o.b = c)
  (hreads : s.slot.reads { o with d := .absent } .o = .ok (g, y))
include hreg hreads

theorem racc_elem (hheld : s.slot.regsHeld o = true) (hkind : g.a.kind = .elem) : Slot.racc o s.slot =
    .ok (((accStep o y g.b.val g.a.val).2.setSrcReg o c (accStep o y g.b.val g.a.val).1).retire o) := by
  simp [Slot.racc, hreads, hkind, hheld, hreg]

theorem racc_key {m : Marker} (hheld : s.slot.regsHeld o = true) (hkind : g.a.kind = .mrk m) (hm : m = accKey o)
    (hroom : s.slot.dstCheck o.d = .room) :
    Slot.racc o s.slot = .ok (((y.writeD o g.b.val).setSrcReg o c (accIdent o)).retire o) := by
  simp [Slot.racc, hreads, hkind, hm, hroom, hheld, hreg]

omit hreg in
theorem racc_skew {m : Marker} (hkind : g.a.kind = .mrk m) (hm : m ≠ accKey o) :
    Slot.racc o s.slot = .error (.flt { code := 0x31 }) := by
  simp [Slot.racc, hreads, hkind, hm]

end

/-- Settles O24: an element takes one accumulation step, the key marker delivers the register, another marker is the skew fault. -/
theorem accumulateRegister : Obligations.AccumulateRegister := by
  intro s o c g y hissue hb hreads hheld cls t i hi
  have hrun : exec i s = s.runSlot cls (Slot.racc o) := by
    rcases List.mem_pair.mp hi with rfl | rfl <;> rfl
  have hreg : accReg o.b = c := by rw [hb]; rfl
  rw [hrun]
  refine ⟨fun hkind => ⟨_, _, runSlot_ok hissue (racc_elem hreg hreads hheld hkind), fun hflt => ?int, fun hflt => ?flt⟩,
    fun m hkind hm hroom => runSlot_ok hissue (racc_key hreg hreads hheld hkind hm hroom),
    fun m hkind hm => runSlot_flt hissue (racc_skew hreads hkind hm)⟩
  case int =>
    refine ⟨fun h => ?_, fun hsat => ?_⟩
    · rw [accStep_int_wrapped y _ _ hflt h]
      exact ⟨rfl, rfl⟩
    · rw [accStep_int_clamped y _ _ hflt hsat]
      exact ⟨rfl, rfl⟩
  case flt =>
    obtain ⟨hsum, hmin, hmax⟩ := accStep_flt y g.b.val g.a.val hflt
    refine ⟨fun h => ?_, fun h => ?_, fun h => ?_⟩
    · rw [hsum h, fltRes_eq]
      exact ⟨rfl, rfl⟩
    · rw [hmin h]
      exact ⟨rfl, rfl⟩
    · rw [hmax h]
      exact ⟨rfl, rfl⟩

end Sys2Proof.Tasks
end

section
/-! O19, and of O18 what instructions of control flow do when they take no fault: the loop test, branches, calls and counted loops
(R159 to R163). -/

namespace Sys2Proof.Tasks

open Sys2Proof Sys2Proof.Machine Sys2Proof.Laws Sys2Proof.Claims

/-! ### The loop test (R163) -/

section
variable (x : Slot) (o : Ops)

theorem retire_outside_loop (h : ∀ l ls, x.loops = l :: ls → l.stop ≠ x.pc) : x.retire o = { x with pc := x.pc + formStep o } := by
  unfold Slot.retire
  cases hloops : x.loops with
  | nil => rfl
  | cons l ls =>
    simp only [loopTest, if_pos (h l ls hloops)]

variable {x} {l : Loop} {ls : List Loop} (hloops : x.loops = l :: ls) (hstop : l.stop = x.pc)
include hloops hstop

theorem retire_next_pass (hrem : l.rem - 1 ≠ 0) :
    x.retire o = { x with loops := { l with rem := l.rem - 1 } :: ls, pc := l.start, wbase := x.wbase - l.rot.setWidth 6 } := by
  unfold Slot.retire
  simp only [hloops, loopTest, if_neg (not_not.mpr hstop), if_pos hrem]

theorem retire_last_pass (hrem : l.rem - 1 = 0) :
    x.retire o = ({ x with loops := ls, wbase := x.wbase - l.rot.setWidth 6 } : Slot).retire o := by
  unfold Slot.retire
  simp only [hloops, loopTest, if_neg (not_not.mpr hstop), if_neg (not_not.mpr hrem)]

end

theorem retirementLoopTest : RetirementLoopTest := fun x o =>
  ⟨retire_outside_loop x o, fun _ _ hloops hstop => retire_next_pass o hloops hstop,
    fun _ _ hloops hstop => retire_last_pass o hloops hstop⟩

/-! ### Branches (R159, R160) -/

theorem jump_eq_branched (x : Slot) (target : BitVec 9) : x.jump target = branched x target := by
  unfold Slot.jump branched
  cases x.calls <;> rfl

/-- Operands consumed leave the pc. -/
theorem fetch_keeps_pc {x y : Slot} {o : Ops} {cls : MkClass} {g : Got} (hf : x.fetch o cls = .ok (g, y)) : y.pc = x.pc := by
  obtain ⟨ins, a, b, c, rfl, -, -⟩ := readsWith_spec (fetchWith_ok.mp hf).1
  rfl

/-- A branch that has read its condition: to its target, or on to the next instruction. -/
def branchedIf (y : Slot) (o : Ops) (c : Bool) (target : BitVec 9) : Slot := if c then branched y target else y.retire o

section
variable {s : State} {o : Ops} {g : Got} {y : Slot} (hf : Fetches s o .z g y) (c : Got → Bool)
include hf

theorem runSlot_branch10 : s.runSlot 0 (Slot.branch10 o c) =
    slotNext s ((branchedIf y o (c g) (s.slot.pc + o.imm10.setWidth 9)).owe 0 1) := by
  refine runSlot_ok hf.1 ((plain_ok hf.2).trans ?_)
  rw [jump_eq_branched, Slot.target10, fetch_keeps_pc hf.2]
  rfl

theorem runSlot_branch12 : s.runSlot 0 (Slot.branch12 o c) =
    slotNext s ((branchedIf y o (c g) (s.slot.pc + o.imm12.setWidth 9)).owe 0 1) := by
  refine runSlot_ok hf.1 ((plain_ok hf.2).trans ?_)
  rw [jump_eq_branched, Slot.target12, fetch_keeps_pc hf.2]
  rfl

end

/-- BMK decides by the head token of its port (R160). -/
theorem exec_bmk {s : State} {o : Ops} {k : BitVec 3} {m : Marker} {t : Tok} {q : List Tok} (hissue : s.canIssue = true)
    (ha : o.a = .alt k) (hb : o.b = .mrk m) (hq : s.slot.ins[k.toNat].queue = t :: q) : exec (.bmk o) s =
      slotNext s ((branchedIf s.slot o (t.kind == .mrk m) (s.slot.pc + o.imm12.setWidth 9)).owe 0 1) := by
  have hhead : s.slot.headKind o.a = some t.kind := by
    rw [ha]
    show (s.slot.headTok k).map (fun t => t.kind) = _
    rw [Slot.headTok, hq]
    rfl
  show execBmk o s = _
  refine runSlot_ok hissue ?_
  simp only [hhead, hb, jump_eq_branched]
  rfl

theorem branchInstructions : BranchInstructions := by
  intro s o hissue t10 t12 go
  refine ⟨?br, fun g y hf => ?conditional, fun k m t q ha hb hq => exec_bmk hissue ha hb hq⟩
  case br =>
    have hjump : s.slot.jump (s.slot.target10 o) = branchedIf s.slot o true t10 := jump_eq_branched s.slot t10
    show execBr o s = _
    refine runSlot_ok hissue ?_
    rw [hjump]
    rfl
  case conditional =>
    have hfetch : Fetches s o .z g y := ⟨hissue, hf⟩
    exact ⟨runSlot_branch10 hfetch _, runSlot_branch10 hfetch _, runSlot_branch12 hfetch _, runSlot_branch12 hfetch _⟩

/-! ### Calls (R161) -/

section
variable {s : State} {o : Ops} (hissue : s.canIssue = true)
include hissue

theorem exec_call (hroom : s.slot.calls.length < 4) : exec (.call o) s = slotNext s
    (({ s.slot with calls := (s.slot.pc + formStep o) :: s.slot.calls, pc := s.slot.pc + o.imm10.setWidth 9 } : Slot).owe 0 1) :=
  runSlot_ok hissue (if_neg (by omega))

theorem exec_call_full (hfull : 4 ≤ s.slot.calls.length) : exec (.call o) s = .next (s.raise { code := 0x32 }) :=
  runSlot_flt hissue (if_pos hfull)

theorem exec_ret {a : BitVec 9} {as : List (BitVec 9)} (hcalls : s.slot.calls = a :: as) :
    exec (.ret o) s = slotNext s (({ s.slot with calls := as, pc := a } : Slot).owe 0 1) := by
  refine runSlot_ok (f := Slot.ret) hissue ?_
  rw [Slot.ret, hcalls]

theorem exec_ret_empty (hcalls : s.slot.calls = []) : exec (.ret o) s = .next (s.raise { code := 0x32 }) := by
  refine runSlot_flt (f := Slot.ret) hissue ?_
  rw [Slot.ret, hcalls]
  rfl

end

/-! ### Counted loops (R162) -/

/-- Settles O19: both instructions open a loop in one way; the count, and then the depth of the loop stack, decide. -/
theorem loopInstructions : Obligations.LoopInstructions := by
  intro s o g y hf p hp c e
  have hrun : exec p.1 s = s.runSlot 0 (Slot.openLoop o s.lengthAt p.2) := by
    rcases List.mem_pair.mp hp with rfl | rfl <;> rfl
  have hopen : Slot.openLoop o s.lengthAt p.2 s.slot =
      if c = 0 then .ok { y with pc := e + s.lengthAt e }
      else if 2 ≤ y.loops.length then .error stackFlt
      else .ok { y with loops := ⟨y.pc + formStep o, e, c, p.2⟩ :: y.loops, pc := y.pc + formStep o } := plain_ok hf.2
  rw [hrun]
  refine ⟨fun hzero => ?skip, fun hpos hdepth => ?enter, fun hpos hdepth => ?deep⟩
  case skip => exact runSlot_ok hf.1 (hopen.trans (if_pos hzero))
  case enter => exact runSlot_ok hf.1 (hopen.trans ((if_neg hpos).trans (if_neg (by omega))))
  case deep => exact runSlot_flt hf.1 (hopen.trans ((if_neg hpos).trans (if_pos hdepth)))

end Sys2Proof.Tasks
end

section
/-! O18: a fatal fault beside the record and the stop that it consists of (R161, R264, R279, R420). They agree where the table of
partitions is in canonical form; where it lists a partition twice they need not. -/

namespace Sys2Proof.Tasks

open Sys2Proof Sys2Proof.Machine Sys2Proof.Laws Sys2Proof.Claims Sys2Proof.Organisation

/-! ### The answers of other packages (R279, R420) -/

/-- The state with other answers of other packages. -/
def withReplies (s : State) (h : List HvReply) : State := { s with hvReplies := h }

section
variable (s : State) (h : List HvReply)

theorem chargeNj_withReplies (c n : Nat) : (withReplies s h).chargeNj c n = withReplies (s.chargeNj c n) h := by
  unfold State.chargeNj
  dsimp only
  by_cases hsat : ((s.ctx c).addNj n).2 = true
  · rw [if_pos hsat, if_pos (show (((withReplies s h).ctx c).addNj n).2 = true from hsat)]
    rfl
  · rw [if_neg hsat, if_neg (show ¬(((withReplies s h).ctx c).addNj n).2 = true from hsat)]
    rfl

/-- A charge does not look at the answers of other packages. -/
theorem charge_withReplies (c cls n : Nat) : (withReplies s h).charge c cls n = withReplies (s.charge c cls n) h := by
  unfold State.charge
  dsimp only
  by_cases hnone : ((s.ctx c).pj + n * s.sys.weight cls) / 1000 = 0
  · rw [if_pos hnone]
    exact if_pos hnone
  · rw [if_neg hnone, ← chargeNj_withReplies]
    exact if_neg hnone

theorem postSlot_withReplies (x : Slot) : (withReplies s h).postSlot x = withReplies (s.postSlot x) h := by
  unfold State.postSlot
  induction x.owed generalizing s with
  | nil => rfl
  | cons e es ih =>
    rw [List.foldl_cons, List.foldl_cons, ← ih]
    exact congrArg (fun t => List.foldl _ t es) (charge_withReplies s h _ _ _)

theorem postSlots_withReplies (xs : List Slot) :
    xs.foldl (fun s x => s.postSlot x) (withReplies s h) = withReplies (xs.foldl (fun s x => s.postSlot x) s) h := by
  induction xs generalizing s with
  | nil => rfl
  | cons x xs ih => rw [List.foldl_cons, List.foldl_cons, ← ih, postSlot_withReplies]

/-- Discarding a forme drops the answers to the context that the partition names, and looks at no other part of them (R279, R420). -/
theorem dropForme_withReplies (p : Nat) :
    (withReplies s h).dropForme p = withReplies (s.dropForme p) (h.filter (fun r => r.ctx != (s.part p).ctx)) := by
  have hch := onlyCharged_postSlots s (s.slots.filter (fun x => x.prt == p))
  rw [← hch.part_ctx p]
  unfold State.dropForme
  dsimp only
  rw [show (withReplies s h).slots = s.slots from rfl, postSlots_withReplies]
  rfl

theorem stopPart_withReplies (p : Nat) :
    (withReplies s h).stopPart p = withReplies (s.stopPart p) (h.filter (fun r => r.ctx != (s.part p).ctx)) := by
  have hdrop (m : Mem) : ({ withReplies s h with mem := m } : State).dropForme p =
    withReplies (({ s with mem := m } : State).dropForme p) (h.filter (fun r => r.ctx != (s.part p).ctx)) :=
      dropForme_withReplies { s with mem := m } h p
  unfold State.stopPart
  dsimp only
  rw [show (withReplies s h).part p = s.part p from rfl, show (withReplies s h).mem = s.mem from rfl]
  generalize s.mem.l1DropUnits _ _ _ = m
  rw [hdrop]
  generalize State.dropForme _ p = t
  rfl

end

/-- A stop drops the answers to the context that the partition then names. -/
theorem stopPart_hvReplies (s : State) (p : Nat) :
    (s.stopPart p).hvReplies = s.hvReplies.filter (fun r => r.ctx != (s.part p).ctx) :=
  congrArg State.hvReplies (stopPart_withReplies s s.hvReplies p)

/-- Where the table of partitions is in canonical form, a fatal fault is its record and the stop of its context (R264, R279): of the
answers of other packages the stop drops all that the fault does. -/
theorem raise_fatal_of_canonical {s : State} {f : Flt} (hparts : twf {} s.parts = true) (hf : fltClass f.code = 2) :
    s.raise f = (s.emit s.slot.prt (s.slotRec f)).stopPart s.slot.prt := by
  have hctx (x : FRec) : ((s.emit s.slot.prt x).part s.slot.prt).ctx = s.slotCtx :=
    (congrArg Part.ctx (tget_tput_self hparts s.slot.prt _) :)
  have hfresh (x : FRec) : (s.hvFresh s.slotCtx).emit s.slot.prt x =
    withReplies (s.emit s.slot.prt x) (s.hvFresh s.slotCtx).hvReplies := rfl
  have hsame (x : FRec) : ((s.hvFresh s.slotCtx).hvReplies.filter (fun r => r.ctx != s.slotCtx)) =
      ((s.emit s.slot.prt x).stopPart s.slot.prt).hvReplies := by
    rw [stopPart_hvReplies, hctx]
    show (s.hvReplies.filter _).filter _ = s.hvReplies.filter _
    rw [List.filter_filter]
    refine List.filter_congr (fun r _ => ?_)
    cases r.ctx != s.slotCtx <;> rfl
  rw [raise_fatal hf, hfresh, stopPart_withReplies, hctx, hsame]
  rfl

/-- CALL and RET as the third part of O18 has them, where the table of partitions is in canonical form (R161). -/
theorem callAndReturn_of_canonical {s : State} (o : Ops) (hparts : twf {} s.parts = true) (hissue : s.canIssue = true) :
    (s.slot.calls.length < 4 → exec (.call o) s = slotNext s
      (({ s.slot with calls := (s.slot.pc + formStep o) :: s.slot.calls, pc := s.slot.pc + o.imm10.setWidth 9 } : Slot).owe 0 1)) ∧
    (4 ≤ s.slot.calls.length → exec (.call o) s = .next ((s.emit s.slot.prt (s.slotRec { code := 0x32 })).stopPart s.slot.prt)) ∧
    (∀ a as, s.slot.calls = a :: as → exec (.ret o) s = slotNext s (({ s.slot with calls := as, pc := a } : Slot).owe 0 1)) ∧
    (s.slot.calls = [] → exec (.ret o) s = .next ((s.emit s.slot.prt (s.slotRec { code := 0x32 })).stopPart s.slot.prt)) := by
  rw [← raise_fatal_of_canonical hparts rfl]
  exact ⟨exec_call hissue, exec_call_full hissue, fun _ _ => exec_ret hissue, exec_ret_empty hissue⟩

/-! ### A partition listed twice -/

/-- A firing slot of partition 0, whose table lists partition 0 twice: first as it is at reset but for a fault ring about to wrap,
behind it with context 1; another package has answered a read of context 0. -/
def twicePart : State :=
  { slot := { st := .firing },
    parts := [(0, { ring := { head := BitVec.allOnes 32 } }), (0, { ctx := 1 })],
    hvReplies := [⟨0, 0, false, 0, 0, 0, []⟩] }

/-- A record that finds the ring free is written at its head (R267). -/
theorem take_of_free {r : FRing} {m : Mem} (hheld : r.held = []) (hfree : r.blocked m r.head = false) (x : FRec) :
    r.take m x = r.write m r.head x := by
  simp [FRing.take, hheld, hfree]

theorem part_emit (s : State) (p : Nat) (x : FRec) : (s.emit p x).part p =
    tget {} (tput {} s.parts p { s.part p with ring := ((s.part p).ring.take s.mem x).2 }) p := rfl

/-- The record wraps the head of the ring to 0: the first entry becomes the default, leaves the table, and uncovers the second. -/
theorem twicePart_emit_ctx (x : FRec) : ((twicePart.emit 0 x).part 0).ctx = 1 := by
  have hentry : ({ twicePart.part 0 with ring := ((twicePart.part 0).ring.take twicePart.mem x).2 } : Part) = {} := by
    rw [take_of_free rfl rfl]
    rfl
  rw [part_emit, hentry]
  simp [twicePart, tput, tget]

/-- The answer to context 0 survives the stop of context 1. -/
theorem twicePart_emit_stop (x : FRec) : ((twicePart.emit 0 x).stopPart 0).hvReplies = twicePart.hvReplies := by
  rw [stopPart_hvReplies, twicePart_emit_ctx]
  rfl

/-- A fatal fault drops the answer to the context that the partition names before its record (R420). -/
theorem twicePart_raise {f : Flt} (hf : fltClass f.code = 2) : (twicePart.raise f).hvReplies = [] := by
  rw [raise_fatal hf, stopPart_hvReplies]
  rfl

theorem twicePart_raise_ne {f : Flt} (hf : fltClass f.code = 2) (x : FRec) : twicePart.raise f ≠ (twicePart.emit 0 x).stopPart 0 := by
  intro h
  have hreplies := congrArg State.hvReplies h
  rw [twicePart_raise hf, twicePart_emit_stop] at hreplies
  exact nomatch hreplies

/-- Refutes O18: its last clause, for a RET with no address stacked, leaves out the answers of other packages that a fault drops
before its record. The stop drops the same ones only where the record does not change which context the partition names, and in a table
that lists the partition twice it can. -/
theorem not_loopTestBranchesAndCalls : ¬ Obligations.LoopTestBranchesAndCalls := by
  rintro ⟨-, -, hcalls⟩
  obtain ⟨-, -, -, hret⟩ := hcalls twicePart { form := .s } rfl
  exact twicePart_raise_ne rfl _ (Host.Outcome.next.inj ((exec_ret_empty rfl rfl).symm.trans (hret rfl)))

end Sys2Proof.Tasks
end

section
/-! O21: a fatal fault stops its context (R264, R279). What the statement says of TRAP fails where the table of partitions lists a
number twice. -/

namespace Sys2Proof.Tasks

open Sys2Proof Sys2Proof.Machine Sys2Proof.Laws Sys2Proof.Claims Sys2Proof.Organisation

/-! ### TRAP (R166) -/

/-- A is what its operand field reads (R149). -/
theorem readsWith_a {x y : Slot} {o : Ops} {cls : MkClass} {wr : Wr} {g : Got} (h : x.readsWith o cls wr = .ok (g, y)) :
    g.a = (x.readSrc o o.a).1.tok := by
  unfold Slot.readsWith at h
  dsimp only at h
  split at h
  · exact nomatch h
  · split at h
    · exact nomatch h
    · split at h
      · exact nomatch h
      · split at h
        · exact nomatch h
        · simp only [Except.ok.injEq, Prod.mk.injEq] at h
          obtain ⟨rfl, -⟩ := h
          rfl

theorem fetch_absent_a {x y : Slot} {o : Ops} {cls : MkClass} {g : Got} (hf : x.fetch o cls = .ok (g, y)) (ha : o.a = .absent) :
    g.a.val = 0 := by
  rw [readsWith_a (fetchWith_ok.mp hf).1, ha]
  rfl

theorem exec_trap {s : State} {o : Ops} {g : Got} {y : Slot} (hf : Fetches s o .z g y) :
    exec (.trap o) s = .next (s.raise { code := 0x33, info := g.a.val, sub := o.imm10.toNat }) :=
  runSlot_flt hf.1 (plain_ok hf.2)

/-- Where the table of partitions is in canonical form, TRAP takes the program trap as the statement has it. -/
theorem trapTakesTheProgramTrap_of_canonical {s : State} {o : Ops} {g : Got} {y : Slot} (hparts : twf {} s.parts = true)
    (hf : Fetches s o .z g y) :
    exec (.trap o) s = .next
        ((s.emit s.slot.prt { s.slotRec { code := 0x33 } with sub := o.imm10.toNat, info := g.a.val }).stopPart s.slot.prt) ∧
      (o.a = .absent → g.a.val = 0) := by
  rw [exec_trap hf, raise_fatal_of_canonical hparts rfl]
  exact ⟨rfl, fetch_absent_a hf.2⟩

/-! ### Presence, which no write-back of a cache changes (R203, R206) -/

section
variable (m : Mem)

@[simp] theorem note_present (x : MemNote) : (m.note x).present = m.present := rfl
@[simp] theorem setBad_present (line : Nat) (bad : Bool) : (m.setBad line bad).present = m.present := rfl

@[simp] theorem l2Flush_present (line : Nat) : (m.l2Flush line).present = m.present := by
  unfold Mem.l2Flush
  split
  · rfl
  · dsimp only
    split <;> rfl

@[simp] theorem l2Evict_present (line : Nat) (bad : Bool) (req : Nat) : (m.l2Evict line bad req).present = m.present := by
  unfold Mem.l2Evict
  split
  · rfl
  · dsimp only
    split <;> simp

@[simp] theorem l2Fill_present (ctx line : Nat) : (m.l2Fill ctx line).present = m.present := by
  have hsync : (m.l2Sync ctx line).present = m.present := by
    unfold Mem.l2Sync
    split
    · split <;> simp
    · rfl
  have hroom (n : Mem) : (n.l2Room line ctx).present = n.present := by
    unfold Mem.l2Room
    split
    · rfl
    · split <;> simp
  unfold Mem.l2Fill
  dsimp only
  split
  · exact hsync
  · exact (hroom _).trans hsync

@[simp] theorem l1WriteBack_present (l : Line) (req : Nat) : (m.l1WriteBack l req).present = m.present := by
  have hhome : (homeMasked m l.ctx l.line l.data l.dirty).present = m.present := by
    unfold homeMasked
    split
    · rfl
    · exact l2Fill_present m _ _
  unfold Mem.l1WriteBack
  split
  · rfl
  · dsimp only
    split <;> simp [hhome]

@[simp] theorem l1Drop_present (u line req : Nat) : (m.l1Drop u line req).present = m.present := by
  unfold Mem.l1Drop Mem.l1Clean
  dsimp only
  split
  · rfl
  · exact l1WriteBack_present m _ req

@[simp] theorem l1DropUnits_present (us : List Nat) (sel : Line → Bool) (req : Nat) :
    (m.l1DropUnits us sel req).present = m.present := by
  have hlines (u : Nat) (ls : List Line) (n : Mem) : (ls.foldl (fun m l => m.l1Drop u l.line req) n).present = n.present := by
    induction ls generalizing n with
    | nil => rfl
    | cons l ls ih => exact (ih _).trans (l1Drop_present n _ _ _)
  unfold Mem.l1DropUnits
  induction us generalizing m with
  | nil => rfl
  | cons u us ih => exact (ih _).trans (hlines u _ m)

end

/-- A granule written is present, and one that was present stays so (R203). -/
theorem woPut_present (m : Mem) (g v j : Nat) : (m.woPut g v).isPresent j = (decide (j = g) || m.isPresent j) := by
  show tget false (tput false m.present g true) j = _
  by_cases hj : j = g
  · subst hj
    rw [tget_tput_of_ne_default _ _ (by decide), decide_eq_true rfl, Bool.true_or]
  · rw [tget_tput_of_ne _ hj, decide_eq_false hj, Bool.false_or]
    rfl

/-- The eight granules of a record written to a ring are present (R267). -/
theorem write_present (r : FRing) (m : Mem) (seq : Word) (x : FRec) {i : Nat} (hi : i < 8) :
    (r.write m seq x).1.isPresent (r.slotPa seq / 8 + i) = true := by
  have key (v : Nat → Nat) (xs : List Nat) (m : Mem) (h : i ∈ xs ∨ m.isPresent (r.slotPa seq / 8 + i) = true) :
      (xs.foldl (fun m i => m.woPut (r.slotPa seq / 8 + i) (v i)) m).isPresent (r.slotPa seq / 8 + i) = true := by
    induction xs generalizing m with
    | nil => exact h.resolve_left List.not_mem_nil
    | cons j xs ih =>
      refine ih _ ?_
      rw [woPut_present]
      rcases h with hmem | hp
      · rcases List.mem_cons.mp hmem with rfl | htail
        · exact .inr (by simp)
        · exact .inl htail
      · exact .inr (by simp [hp])
  exact key _ _ m (.inl (List.mem_range.mpr hi))

/-! ### The stop of a partition (R279) -/

section
variable (s : State) (p : Nat)

/-- A context replaced by a stopped one is read back as stopped. -/
theorem ctx_setCtx_stop (c : Nat) (x : Ctx) : ((s.setCtx c { x with stop := true }).ctx c).stop = true := by
  have hne : ({ x with stop := true } : Ctx) ≠ {} := fun h => nomatch congrArg Ctx.stop h
  exact congrArg Ctx.stop (tget_tput_of_ne_default s.ctxs c hne)

theorem dropForme_cmds : (s.dropForme p).cmds = s.cmds.filter (fun x => x.prt != p) := by
  have hkeep := (onlyCharged_postSlots s (s.slots.filter (fun x => x.prt == p))).rest
  exact congrArg (List.filter _) (congrArg State.cmds hkeep :)

theorem dropForme_others : (s.dropForme p).others = s.others.filter (fun x => x.prt != p || x.st == .noTask) :=
  congrArg (List.filter _) (onlyCharged_postSlots s (s.slots.filter (fun x => x.prt == p))).others

theorem dropForme_mem : (s.dropForme p).mem =
    { s.mem with waits := s.mem.waits.filter (fun w => !(s.slots.filter (fun x => x.prt == p)).any (fun y => y.place == w.place)) } := by
  have hkeep := (onlyCharged_postSlots s (s.slots.filter (fun x => x.prt == p))).rest
  have hmem := (congrArg State.mem hkeep :)
  unfold State.dropForme
  dsimp only
  rw [hmem]

theorem stopPart_cmds : (s.stopPart p).cmds = s.cmds.filter (fun x => x.prt != p) := dropForme_cmds { s with mem := _ } p

theorem stopPart_others : (s.stopPart p).others = s.others.filter (fun x => x.prt != p || x.st == .noTask) :=
  dropForme_others { s with mem := _ } p

/-- A stop writes lines back, withdraws the requests of the partition's slots and drops its clears; no presence changes (R279). -/
theorem stopPart_mem : ∃ m : Mem, m.present = s.mem.present ∧ (s.stopPart p).mem =
    { m with waits := m.waits.filter (fun w => !(s.slots.filter (fun x => x.prt == p)).any (fun y => y.place == w.place)),
             clears := m.clears.filter (fun c => c.1 != p) } := by
  have hkeep := l1DropUnits_present s.mem (s.part p).cus (fun _ => true) (s.part p).ctx
  unfold State.stopPart
  generalize s.mem.l1DropUnits _ _ _ = m at hkeep ⊢
  exact ⟨m, hkeep, congrArg (fun n : Mem => { n with clears := n.clears.filter (fun c => c.1 != p) })
    (dropForme_mem { s with mem := m } p)⟩

theorem stopPart_present : (s.stopPart p).mem.present = s.mem.present := by
  obtain ⟨m, hkeep, hmem⟩ := stopPart_mem s p
  rw [hmem]
  exact hkeep

/-- No request of a slot of the partition is left (R279). -/
theorem stopPart_waits {w : Waiter} (hw : w ∈ (s.stopPart p).mem.waits) {x : Slot} (hx : x ∈ s.slots) (hp : x.prt = p) :
    w.place ≠ x.place := by
  obtain ⟨m, -, hmem⟩ := stopPart_mem s p
  rw [hmem] at hw
  obtain ⟨-, hother⟩ := List.mem_filter.mp hw
  intro h
  have hgone : x ∈ s.slots.filter (fun x => x.prt == p) := List.mem_filter.mpr ⟨hx, beq_iff_eq.mpr hp⟩
  have hany : (s.slots.filter (fun x => x.prt == p)).any (fun y => y.place == w.place) = true :=
    List.any_eq_true.mpr ⟨x, hgone, beq_iff_eq.mpr h.symm⟩
  rw [hany] at hother
  exact nomatch hother

/-- The ring of the partition stays as it is. -/
theorem stopPart_ring : ((s.stopPart p).part p).ring = (s.part p).ring := by
  obtain ⟨m, m', x, heq⟩ := stopPart_eq s p
  rw [heq, part_setCtx, part_setPart_of_ne_default]
  · exact (congrArg Part.ring (quiet_part_dropForme { s with mem := m } p p) :)
  · exact fun h => nomatch congrArg Part.phase h

/-- CTXST.STOP of the context that the partition names is set (R279). -/
theorem stopPart_ctx_stop : ((s.stopPart p).ctx (s.part p).ctx).stop = true := by
  unfold State.stopPart
  generalize s.mem.l1DropUnits _ _ _ = m
  have hctx : (((({ s with mem := m } : State)).dropForme p).part p).ctx = (s.part p).ctx :=
    (congrArg Part.ctx (quiet_part_dropForme { s with mem := m } p p) :)
  rw [← hctx]
  exact ctx_setCtx_stop _ _ _

end

/-- The second part of O21: the record stands in the ring, and then the partition is stopped. -/
theorem fatalFaultStopsTheContext : FatalFaultStopsTheContext := by
  intro s f p hf _ hfree hparts t
  obtain ⟨hheld, hblocked⟩ := hfree
  have ht : t = (s.emit p (s.slotRec f)).stopPart p := raise_fatal_of_canonical hparts hf
  have htake := take_of_free hheld hblocked (s.slotRec f)
  have hpart : (s.emit p (s.slotRec f)).part p = { s.part p with ring := ((s.part p).ring.take s.mem (s.slotRec f)).2 } :=
    tget_tput_self hparts p _
  obtain ⟨hphase, hcode, hslots⟩ := stopped_stopPart (s.emit p (s.slotRec f)) p
  rw [ht]
  refine ⟨hphase, hcode, ?stop, hslots, ?cmds, fun w hw x hx hp => stopPart_waits _ p hw hx hp, ?head, fun i hi => ?present,
    fun x hx hp => ?others⟩
  case stop =>
    have hstop := stopPart_ctx_stop (s.emit p (s.slotRec f)) p
    rw [hpart] at hstop
    exact hstop
  case cmds =>
    rw [stopPart_cmds]
    exact fun x hx => bne_iff_ne.mp (List.mem_filter.mp hx).2
  case head =>
    rw [stopPart_ring, hpart, htake]
    rfl
  case present =>
    rw [Mem.isPresent, stopPart_present, emit_mem, htake]
    exact write_present _ _ _ _ hi
  case others =>
    rw [stopPart_others]
    exact List.mem_filter.mpr ⟨hx, by simp [bne_iff_ne.mpr hp]⟩

/-- Refutes O21: its first clause leaves out the answers of other packages that a fault drops before its record, which in a table that
lists the partition twice are not those that the stop drops. -/
theorem not_trapAndFatalFaults : ¬ Obligations.TrapAndFatalFaults := by
  rintro ⟨htrap, -⟩
  obtain ⟨t, hrun, rfl, -⟩ := htrap twicePart { form := .s } ⟨⟨0, .elem⟩, ⟨0, .elem⟩, ⟨0, .elem⟩, none⟩ twicePart.slot ⟨rfl, rfl⟩
  have hraise := exec_trap (s := twicePart) (o := { form := .s }) ⟨rfl, rfl⟩
  exact twicePart_raise_ne rfl _ (Host.Outcome.next.inj (hraise.symm.trans hrun))

end Sys2Proof.Tasks
end

section
/-! SUPPORT. Bytes of lines (R206): reading a line byte by byte, after a byte, a byte string or masked bytes are laid over it, and
the byte strings that tables and lines hold. -/

namespace Sys2Proof.Memory

open Sys2Proof Sys2Proof.Machine Sys2Proof.Claims Sys2Proof.Laws

/-! ### Tables in any order -/

/-- A value that is not the default is read back where it was written, whatever the order of the table. -/
theorem tget_tput_of_ne {α : Type} [DecidableEq α] {d v : α} (hv : v ≠ d) (t : Tbl α) (k j : Nat) :
    tget d (tput d t k v) j = if j = k then v else tget d t j := by
  induction t with
  | nil => simp [tput, hv, tget]
  | cons p t ih =>
    obtain ⟨q, w⟩ := p
    simp only [tput, hv, if_false]
    split
    · simp [tget]
    · split
      · rename_i hk
        subst hk
        by_cases hj : j = k <;> simp [tget, hj]
      · simp only [tget, ih]
        by_cases hj : j = q
        · simp [hj, show ¬q = k by omega]
        · simp [hj]

/-! ### Byte strings -/

theorem readBytes_eq (t : Tbl Byte) (a n : Nat) : readBytes t a n = (List.range n).map (fun i => tget 0 t (a + i)) := by
  induction n generalizing a with
  | zero => rfl
  | succ n ih =>
    rw [readBytes, ih, List.range_succ_eq_map, List.map_cons, List.map_map]
    simp [Function.comp_def, Nat.add_assoc, Nat.add_comm 1]

theorem homeBytes_eq (m : Mem) (pa n : Nat) : m.homeBytes pa n = (List.range n).map (fun i => m.homeByte (pa + i)) := by
  induction n generalizing pa with
  | zero => rfl
  | succ n ih =>
    rw [Mem.homeBytes, ih, List.range_succ_eq_map, List.map_cons, List.map_map]
    simp [Function.comp_def, Nat.add_assoc, Nat.add_comm 1]

@[simp] theorem homeBytes_length (m : Mem) (pa n : Nat) : (m.homeBytes pa n).length = n := by simp [homeBytes_eq]

theorem homeBytes_congr {m m' : Mem} {pa n : Nat} (h : ∀ a, pa ≤ a → a < pa + n → m'.homeByte a = m.homeByte a) :
    m'.homeBytes pa n = m.homeBytes pa n := by
  rw [homeBytes_eq, homeBytes_eq]
  refine List.map_congr_left fun i hi => h _ (by omega) ?_
  have := List.mem_range.1 hi
  omega

/-- A byte string is what its bytes are. -/
theorem range_map_getD (bs : List Byte) : (List.range bs.length).map (fun i => bs.getD i 0) = bs := by
  apply List.ext_getElem
  · simp
  · intro i h1 h2
    simp [List.getD_eq_getElem?_getD, h2]

theorem bytesToNat_div (bs : List Byte) (i : Nat) : bytesToNat bs / 256 ^ i % 256 = (bs.getD i 0).toNat := by
  induction bs generalizing i with
  | nil => simp [bytesToNat]
  | cons b bs ih =>
    cases i with
    | zero =>
      have := b.isLt
      simp only [bytesToNat, Nat.pow_zero, Nat.div_one, List.getD_cons_zero]
      omega
    | succ i =>
      have hb := b.isLt
      rw [List.getD_cons_succ, ← ih i, bytesToNat, Nat.pow_succ', ← Nat.div_div_eq_div_mul]
      congr 2
      omega

/-! ### The bytes of a line -/

theorem lineByte_getLsbD (d : BitVec 1024) (i k : Nat) : (lineByte d i).getLsbD k = (decide (k < 8) && d.getLsbD (8 * i + k)) := by
  simp [lineByte, BitVec.getLsbD_extractLsb']

/-- The mask of byte `i` covers its eight bits. -/
theorem byteMask_getLsbD (i n : Nat) (hn : n < 1024) :
    (BitVec.ofNat 1024 255 <<< (8 * i)).getLsbD n = decide (8 * i ≤ n ∧ n < 8 * i + 8) := by
  have h255 : ∀ k, k < 1024 → (BitVec.ofNat 1024 255).getLsbD k = decide (k < 8) := by
    intro k hk
    rw [BitVec.getLsbD_ofNat]
    have : (255 : Nat).testBit k = decide (k < 8) := Nat.testBit_two_pow_sub_one 8 k
    simp [hk, this]
  rw [BitVec.getLsbD_shiftLeft]
  by_cases h : n < 8 * i
  · simp [h]
  · rw [h255 _ (by omega)]
    simp only [hn, h, decide_true, decide_false, Bool.not_false, Bool.true_and, decide_eq_decide]
    omega

theorem setLineByte_getLsbD (d : BitVec 1024) (i : Nat) (b : Byte) (n : Nat) (hn : n < 1024) :
    (setLineByte d i b).getLsbD n = if 8 * i ≤ n ∧ n < 8 * i + 8 then b.getLsbD (n - 8 * i) else d.getLsbD n := by
  rw [setLineByte, BitVec.getLsbD_or, BitVec.getLsbD_and, BitVec.getLsbD_not, byteMask_getLsbD i n hn, BitVec.getLsbD_shiftLeft,
    BitVec.getLsbD_setWidth]
  by_cases h : 8 * i ≤ n ∧ n < 8 * i + 8
  · rw [if_pos h]
    simp [hn, h, show ¬n < 8 * i by omega, show n - 8 * i < 1024 by omega]
  · rw [if_neg h]
    by_cases h1 : n < 8 * i
    · simp [hn, h1, show ¬8 * i ≤ n by omega]
    · have : b.getLsbD (n - 8 * i) = false := BitVec.getLsbD_of_ge _ _ (by omega)
      simp [hn, h1, this, show ¬n < 8 * i + 8 by omega]

/-- A byte of a line after one is replaced. -/
theorem lineByte_setLineByte (d : BitVec 1024) (i j : Nat) (b : Byte) (hj : j < 128) :
    lineByte (setLineByte d i b) j = if j = i then b else lineByte d j := by
  apply BitVec.eq_of_getLsbD_eq
  intro k hk
  rw [lineByte_getLsbD, setLineByte_getLsbD _ _ _ _ (by omega)]
  by_cases h : j = i
  · subst h
    simp [hk]
  · rw [if_neg (by omega), if_neg h, lineByte_getLsbD]

/-- A byte of a line after a string is laid over it. -/
theorem lineByte_linePut (bs : List Byte) (d : BitVec 1024) (i j : Nat) (hj : j < 128) :
    lineByte (linePut d i bs) j = if i ≤ j ∧ j < i + bs.length then bs.getD (j - i) 0 else lineByte d j := by
  induction bs generalizing d i with
  | nil => simp [linePut]
  | cons b bs ih =>
    rw [linePut, ih, lineByte_setLineByte _ _ _ _ hj, List.length_cons]
    by_cases h1 : i + 1 ≤ j ∧ j < i + 1 + bs.length
    · rw [if_pos h1, if_pos (by omega), show j - i = (j - (i + 1)) + 1 by omega, List.getD_cons_succ]
    · rw [if_neg h1]
      by_cases h2 : j = i
      · subst h2
        simp
      · rw [if_neg h2, if_neg (by omega)]

/-- The mask of `n` bytes from byte `i` on. -/
theorem maskOf_getLsbD (i n j : Nat) (hj : j < 128) : (maskOf i n).getLsbD j = decide (i ≤ j ∧ j < i + n) := by
  rw [maskOf, BitVec.getLsbD_ofNat, Nat.testBit_mul_two_pow, Nat.testBit_two_pow_sub_one]
  by_cases h : i ≤ j
  · simp [hj, h]
    omega
  · simp [h]

/-- A number read from a line is that of its bytes. -/
theorem lineGet_eq (d : BitVec 1024) (i n : Nat) : lineGet d i n = bytesToNat ((List.range n).map (fun k => lineByte d (i + k))) := by
  induction n generalizing i with
  | zero => simp [lineGet, bytesToNat, Nat.mod_one]
  | succ n ih =>
    have hb : (lineByte d i).toNat = d.toNat / 2 ^ (8 * i) % 256 := by
      simp [lineByte, BitVec.extractLsb'_toNat, Nat.shiftRight_eq_div_pow]
    have hr : (List.range n).map ((fun k => lineByte d (i + k)) ∘ Nat.succ) = (List.range n).map (fun k => lineByte d (i + 1 + k)) :=
      List.map_congr_left fun k _ => by simp [Nat.add_assoc, Nat.add_comm 1]
    rw [List.range_succ_eq_map, List.map_cons, List.map_map, hr, bytesToNat, ← ih (i + 1), Nat.add_zero i, hb, lineGet, lineGet,
      show 2 ^ (8 * (n + 1)) = 256 * 2 ^ (8 * n) by rw [Nat.mul_succ, Nat.pow_add, Nat.mul_comm], Nat.mod_mul,
      Nat.div_div_eq_div_mul, show 2 ^ (8 * i) * 256 = 2 ^ (8 * (i + 1)) by rw [show 8 * (i + 1) = 8 * i + 8 by omega, Nat.pow_add]]

/-- A line made of a byte string holds its bytes. -/
theorem lineByte_ofBytes (bs : List Byte) (i : Nat) (hi : i < 128) : lineByte (BitVec.ofNat 1024 (bytesToNat bs)) i = bs.getD i 0 := by
  apply BitVec.eq_of_getLsbD_eq
  intro k hk
  rw [lineByte_getLsbD, BitVec.getLsbD_ofNat, ← BitVec.testBit_toNat, ← bytesToNat_div, show (256 : Nat) = 2 ^ 8 from rfl, ← Nat.pow_mul,
    Nat.testBit_mod_two_pow, Nat.testBit_div_two_pow, Nat.add_comm k]
  simp [hk, show 8 * i + k < 1024 by omega]

theorem lineByte_hbmLine (m : Mem) (line i : Nat) (hi : i < 128) : lineByte (hbmLine m line) i = tget 0 m.hbm (128 * line + i) := by
  rw [hbmLine, lineByte_ofBytes _ _ hi, readBytes_eq, List.getD_eq_getElem?_getD]
  simp [hi]

/-! ### Bytes chosen by a mask -/

/-- A line with the bytes of a mask taken from another. -/
def mergeLine (old d : BitVec 1024) (mask : BitVec 128) : BitVec 1024 :=
  (List.range 128).foldl (fun x i => if mask.getLsbD i then setLineByte x i (lineByte d i) else x) old

theorem lineByte_mergeLine (old d : BitVec 1024) (mask : BitVec 128) (j : Nat) (hj : j < 128) :
    lineByte (mergeLine old d mask) j = if mask.getLsbD j then lineByte d j else lineByte old j := by
  have key : ∀ n, lineByte ((List.range n).foldl (fun x i => if mask.getLsbD i then setLineByte x i (lineByte d i) else x) old) j =
      if j < n ∧ mask.getLsbD j then lineByte d j else lineByte old j := by
    intro n
    induction n with
    | zero => simp
    | succ n ih =>
      rw [List.range_succ, List.foldl_append, List.foldl_cons, List.foldl_nil]
      by_cases hm : mask.getLsbD n
      · rw [if_pos hm, lineByte_setLineByte _ _ _ _ hj, ih]
        by_cases h : j = n
        · subst h; simp [hm]
        · simp [h, show j < n + 1 ↔ j < n by omega]
      · rw [if_neg hm, ih]
        by_cases h : j = n
        · subst h; simp [hm]
        · simp [show j < n + 1 ↔ j < n by omega]
  simpa [mergeLine, hj] using key 128

theorem tget_putMasked {t : Tbl Byte} (ht : twf 0 t = true) (base : Nat) (d : BitVec 1024) (mask : BitVec 128) (a : Nat) :
    tget 0 (putMasked t base d mask) a =
      if base ≤ a ∧ a < base + 128 ∧ mask.getLsbD (a - base) then lineByte d (a - base) else tget 0 t a := by
  have key : ∀ n, twf 0 ((List.range n).foldl (fun t i => if mask.getLsbD i then tput 0 t (base + i) (lineByte d i) else t) t) = true ∧
      tget 0 ((List.range n).foldl (fun t i => if mask.getLsbD i then tput 0 t (base + i) (lineByte d i) else t) t) a =
        if base ≤ a ∧ a < base + n ∧ mask.getLsbD (a - base) then lineByte d (a - base) else tget 0 t a := by
    intro n
    induction n with
    | zero => exact ⟨ht, by simp; intro h1 h2; omega⟩
    | succ n ih =>
      obtain ⟨iw, ig⟩ := ih
      rw [List.range_succ, List.foldl_append, List.foldl_cons, List.foldl_nil]
      by_cases hm : mask.getLsbD n
      · rw [if_pos hm]
        refine ⟨twf_tput iw _ _, ?_⟩
        rw [tget_tput iw, ig]
        by_cases h : a = base + n
        · subst h; simp [hm]
        · rw [if_neg h]
          simp only [show (a < base + (n + 1)) = (a < base + n ∨ a = base + n) by rw [eq_iff_iff]; omega, h, or_false]
      · rw [if_neg hm]
        refine ⟨iw, ?_⟩
        rw [ig]
        by_cases h : a = base + n
        · subst h; simp [hm]
        · simp only [show (a < base + (n + 1)) = (a < base + n ∨ a = base + n) by rw [eq_iff_iff]; omega, h, or_false]
  exact (key 128).2

end Sys2Proof.Memory
end

section
/-! SUPPORT. The home of MU memory (R206, R209): what an L2 slice does when a line is flushed, evicted, looked up or written, byte by
byte, and that the slices stay coherent with HBM. -/

namespace Sys2Proof.Memory

open Sys2Proof Sys2Proof.Machine Sys2Proof.Claims Sys2Proof.Laws

variable {m n : Mem}

/-! ### Frames -/

/-- A memory that differs from another in the L2 slices, HBM, its poison and the reports of the caches alone. -/
def L2Frame (m n : Mem) : Prop := n = { m with hbm := n.hbm, l2 := n.l2, badLine := n.badLine, notes := n.notes }

/-- A memory that differs from another in the caches, HBM, its poison and the reports of the caches alone. -/
def CacheFrame (m n : Mem) : Prop :=
  n = { m with hbm := n.hbm, l1 := n.l1, l2 := n.l2, badLine := n.badLine, notes := n.notes }

theorem L2Frame.refl (m : Mem) : L2Frame m m := rfl

theorem L2Frame.trans {p : Mem} (h : L2Frame m n) (k : L2Frame n p) : L2Frame m p := by
  rw [L2Frame] at h k ⊢
  rw [k, h]

theorem L2Frame.cache (h : L2Frame m n) : CacheFrame m n := by
  rw [L2Frame] at h
  rw [CacheFrame, h]

theorem CacheFrame.refl (m : Mem) : CacheFrame m m := rfl

theorem CacheFrame.trans {p : Mem} (h : CacheFrame m n) (k : CacheFrame n p) : CacheFrame m p := by
  rw [CacheFrame] at h k ⊢
  rw [k, h]

theorem L2Frame.l1 (h : L2Frame m n) : n.l1 = m.l1 := by rw [h]
theorem L2Frame.l1At (h : L2Frame m n) (u k : Nat) : n.l1At u k = m.l1At u k := by rw [Mem.l1At, h.l1, Mem.l1At]
theorem CacheFrame.sram (h : CacheFrame m n) : n.sram = m.sram := by rw [h]
theorem CacheFrame.present (h : CacheFrame m n) : n.present = m.present := by rw [h]
theorem CacheFrame.full (h : CacheFrame m n) : n.full = m.full := by rw [h]
theorem CacheFrame.badWord (h : CacheFrame m n) : n.badWord = m.badWord := by rw [h]
theorem CacheFrame.waits (h : CacheFrame m n) : n.waits = m.waits := by rw [h]
theorem CacheFrame.clears (h : CacheFrame m n) : n.clears = m.clears := by rw [h]
theorem CacheFrame.fenced (h : CacheFrame m n) : n.fenced = m.fenced := by rw [h]
theorem CacheFrame.mtTlb (h : CacheFrame m n) : n.mtTlb = m.mtTlb := by rw [h]
theorem CacheFrame.dieTlb (h : CacheFrame m n) : n.dieTlb = m.dieTlb := by rw [h]

theorem l2Flush_frame (m : Mem) (line : Nat) : L2Frame m (m.l2Flush line) := by
  unfold Mem.l2Flush
  split
  · rfl
  · dsimp only
    split <;> rfl

theorem l2Evict_frame (m : Mem) (line : Nat) (bad : Bool) (req : Nat) : L2Frame m (m.l2Evict line bad req) := by
  have h := l2Flush_frame m line
  unfold Mem.l2Evict
  split
  · rfl
  · dsimp only
    split
    · exact h.trans rfl
    · exact h

theorem l2Sync_frame (m : Mem) (c line : Nat) : L2Frame m (m.l2Sync c line) := by
  unfold Mem.l2Sync
  split
  · split
    · rfl
    · exact l2Evict_frame _ _ _ _
  · rfl

theorem l2Room_frame (m : Mem) (line req : Nat) : L2Frame m (m.l2Room line req) := by
  unfold Mem.l2Room
  split
  · rfl
  · split
    · rfl
    · exact l2Evict_frame _ _ _ _

theorem l2Fill_frame (m : Mem) (c line : Nat) : L2Frame m (m.l2Fill c line) := by
  have h := l2Sync_frame m c line
  unfold Mem.l2Fill
  dsimp only
  split
  · exact h
  · exact (h.trans (l2Room_frame _ line c)).trans rfl

theorem homePut_frame (m : Mem) (c pa : Nat) (bs : List Byte) : L2Frame m (m.homePut c pa bs) := (l2Fill_frame m c (pa / 128)).trans rfl

theorem homeMasked_frame (m : Mem) (c line : Nat) (d : BitVec 1024) (mask : BitVec 128) : L2Frame m (homeMasked m c line d mask) := by
  unfold homeMasked
  split
  · rfl
  · exact (l2Fill_frame m c line).trans rfl

/-! ### Poison of lines -/

/-- Poison of HBM lines that stays where it was. -/
def PoisonKept (m n : Mem) : Prop := ∀ k, tget false n.badLine k = tget false m.badLine k

theorem PoisonKept.refl (m : Mem) : PoisonKept m m := fun _ => rfl

theorem PoisonKept.trans {p : Mem} (h : PoisonKept m n) (k : PoisonKept n p) : PoisonKept m p := fun i => (k i).trans (h i)

theorem PoisonKept.homeBad (h : PoisonKept m n) (pa : Nat) : n.homeBad pa = m.homeBad pa := h _

theorem setBad_badLine (m : Mem) (line k : Nat) : tget false (m.setBad line true).badLine k = if k = line then true else tget false m.badLine k :=
  tget_tput_of_ne (by decide) _ _ _

@[simp] theorem l2Flush_badLine (m : Mem) (line : Nat) : (m.l2Flush line).badLine = m.badLine := by
  unfold Mem.l2Flush
  split
  · rfl
  · dsimp only
    split <;> rfl

/-- An eviction that finds no new error leaves every line poisoned or not as it was. -/
theorem l2Evict_poison (m : Mem) (line req : Nat) : PoisonKept m (m.l2Evict line false req) := by
  intro k
  unfold Mem.l2Evict
  split
  · rfl
  · dsimp only
    split
    · rename_i h
      show tget false ((m.l2Flush line).setBad line true).badLine k = _
      rw [setBad_badLine, l2Flush_badLine]
      simp only [Bool.false_or, Bool.and_eq_true, l2Flush_badLine] at h
      split
      · rename_i hk
        rw [hk, h.2]
      · rfl
    · rw [l2Flush_badLine]

theorem l2Fill_poison (m : Mem) (c line : Nat) : PoisonKept m (m.l2Fill c line) := by
  have hs : PoisonKept m (m.l2Sync c line) := by
    unfold Mem.l2Sync
    split
    · split
      · exact .refl _
      · exact l2Evict_poison _ _ _
    · exact .refl _
  have hr : PoisonKept (m.l2Sync c line) ((m.l2Sync c line).l2Room line c) := by
    unfold Mem.l2Room
    split
    · exact .refl _
    · split
      · exact .refl _
      · exact l2Evict_poison _ _ _
  unfold Mem.l2Fill
  dsimp only
  split
  · exact hs
  · exact hs.trans (hr.trans (.refl _))

/-! ### Lines of an L2 slice -/

theorem l2At_mem {line : Nat} {l : Line} (h : m.l2At line = some l) : l ∈ m.l2 ∧ l.line = line := by
  refine ⟨List.mem_of_find?_eq_some h, ?_⟩
  simpa using List.find?_some h

theorem homeByte_some {a line : Nat} {l : Line} (h : m.l2At line = some l) (ha : a / 128 = line) : m.homeByte a = lineByte l.data (a % 128) := by
  rw [Mem.homeByte, ha, h]

theorem homeByte_none {pa : Nat} (h : m.l2At (pa / 128) = none) : m.homeByte pa = tget 0 m.hbm pa := by rw [Mem.homeByte, h]

/-- A line's bytes at its home are the home's bytes. -/
theorem lineByte_homeLine (m : Mem) (line i : Nat) (hi : i < 128) : lineByte (m.homeLine line) i = m.homeByte (128 * line + i) := by
  have h1 : (128 * line + i) / 128 = line := by omega
  have h2 : (128 * line + i) % 128 = i := by omega
  unfold Mem.homeLine Mem.homeByte
  rw [h1, h2]
  split
  · rfl
  · exact lineByte_hbmLine _ _ _ hi

/-- Changing the copies of one line changes the copy that its home finds, and no other. -/
theorem find_mapLine (ls : List Line) (line k : Nat) (f : Line → Line) (hf : ∀ l, (f l).line = l.line) :
    (ls.map (fun l => if l.line == line then f l else l)).find? (fun l => l.line == k) =
      if k = line then (ls.find? (fun l => l.line == k)).map f else ls.find? (fun l => l.line == k) := by
  rw [List.find?_map]
  have hp : ((fun l : Line => l.line == k) ∘ fun l => if l.line == line then f l else l) = fun l => l.line == k := by
    funext l
    simp only [Function.comp]
    split <;> simp [hf]
  rw [hp]
  cases hl : ls.find? (fun l => l.line == k) with
  | none => simp
  | some l =>
    have : l.line = k := by simpa using List.find?_some hl
    subst this
    by_cases hk : l.line = line <;> simp [hk]

/-- Other lines of a slice than one. -/
theorem find_dropLine (ls : List Line) (line k : Nat) :
    (ls.filter (fun l => l.line != line)).find? (fun l => l.line == k) = if k = line then none else ls.find? (fun l => l.line == k) := by
  induction ls with
  | nil => simp
  | cons l ls ih =>
    by_cases hl : l.line = line
    · rw [List.filter_cons_of_neg (by simp [hl]), ih]
      split
      · rfl
      · rename_i hk
        rw [List.find?_cons_of_neg (by simp [hl, Ne.symm hk])]
    · rw [List.filter_cons_of_pos (by simp [hl])]
      by_cases hk : l.line = k
      · subst hk
        simp [hl]
      · rw [List.find?_cons_of_neg (by simp [hk]), ih, List.find?_cons_of_neg (by simp [hk])]

/-! ### A line flushed and evicted -/

theorem l2Flush_l2At (m : Mem) (line k : Nat) : (m.l2Flush line).l2At k = if k = line then none else m.l2At k := by
  unfold Mem.l2Flush
  split
  · rename_i h
    by_cases hk : k = line
    · rw [if_pos hk, hk, h]
    · rw [if_neg hk]
  · have h := find_dropLine m.l2 line k
    dsimp only
    split <;> exact h

theorem l2Flush_tables {line : Nat} {l : Line} (h : m.l2At line = some l) :
    (m.l2Flush line).hbm = putMasked m.hbm (128 * line) l.data l.dirty ∧ (m.l2Flush line).l2 = m.l2.filter (fun x => x.line != line) := by
  unfold Mem.l2Flush
  rw [h]
  dsimp only
  split <;> exact ⟨rfl, rfl⟩

theorem l2Flush_hbm (hc : Coherent m) {line : Nat} {l : Line} (h : m.l2At line = some l) (a : Nat) :
    tget 0 (m.l2Flush line).hbm a =
      if a / 128 = line ∧ l.dirty.getLsbD (a % 128) = true then lineByte l.data (a % 128) else tget 0 m.hbm a := by
  have hp := tget_putMasked hc.hbm (128 * line) l.data l.dirty a
  rw [(l2Flush_tables h).1, hp]
  by_cases ha : a / 128 = line
  · have : a - 128 * line = a % 128 := by omega
    rw [this]
    simp [ha, show 128 * line ≤ a by omega, show a < 128 * line + 128 by omega]
  · rw [if_neg (by omega), if_neg (by simp [ha])]

theorem l2Flush_coherent (hc : Coherent m) (line : Nat) : Coherent (m.l2Flush line) := by
  cases h : m.l2At line with
  | none =>
    unfold Mem.l2Flush
    rw [h]
    exact hc
  | some l =>
    obtain ⟨hb, hl⟩ := l2Flush_tables h
    refine ⟨hb ▸ twf_putMasked hc.hbm _ _ _, fun x hx i hi hd => ?_⟩
    rw [hl, List.mem_filter] at hx
    have hne : x.line ≠ line := by simpa using hx.2
    rw [l2Flush_hbm hc h, if_neg (by omega)]
    exact hc.clean x hx.1 i hi hd

/-- Flushing a line moves its bytes to HBM, where the home reads them. -/
theorem l2Flush_homeByte (hc : Coherent m) (line a : Nat) : (m.l2Flush line).homeByte a = m.homeByte a := by
  cases h : m.l2At line with
  | none =>
    unfold Mem.l2Flush
    rw [h]
  | some l =>
    have hat := l2Flush_l2At m line (a / 128)
    by_cases ha : a / 128 = line
    · rw [if_pos ha] at hat
      rw [homeByte_none hat, l2Flush_hbm hc h, homeByte_some h ha]
      split
      · rfl
      · rename_i hd
        obtain ⟨hm, hl⟩ := l2At_mem h
        have := hc.clean l hm (a % 128) (by omega) (by simpa [ha] using hd)
        rw [this, hl]
        congr 1
        omega
    · rw [if_neg ha] at hat
      unfold Mem.homeByte
      rw [hat]
      split
      · rfl
      · rw [l2Flush_hbm hc h, if_neg (by simp [ha])]

/-- An eviction is a flush, with the line left poisoned and told of where it holds an error. -/
theorem l2Evict_eq (m : Mem) (line : Nat) (bad : Bool) (req : Nat) :
    ∃ b x, m.l2Evict line bad req = { m.l2Flush line with badLine := b, notes := x } := by
  unfold Mem.l2Evict
  split
  · rename_i h
    refine ⟨m.badLine, m.notes, ?_⟩
    unfold Mem.l2Flush
    rw [h]
  · dsimp only
    split <;> exact ⟨_, _, rfl⟩

theorem coherent_congr (hc : Coherent m) (h1 : n.hbm = m.hbm) (h2 : n.l2 = m.l2) : Coherent n :=
  ⟨h1 ▸ hc.hbm, fun l hl i hi hd => h1 ▸ hc.clean l (h2 ▸ hl) i hi hd⟩

theorem homeByte_congr (h1 : n.hbm = m.hbm) (h2 : n.l2 = m.l2) (a : Nat) : n.homeByte a = m.homeByte a := by
  rw [Mem.homeByte, Mem.l2At, h2, h1, Mem.homeByte, Mem.l2At]

/-- What moves lines between HBM and the L2 slices alone: coherence is kept, and no byte changes at its home. -/
structure Moves (m n : Mem) : Prop where
  coherent : Coherent n
  homeByte : ∀ a, n.homeByte a = m.homeByte a

theorem Moves.refl (hc : Coherent m) : Moves m m := ⟨hc, fun _ => rfl⟩

theorem Moves.trans {p : Mem} (h : Moves m n) (k : Moves n p) : Moves m p := ⟨k.coherent, fun a => (k.homeByte a).trans (h.homeByte a)⟩

theorem Moves.congr (hc : Coherent m) (h1 : n.hbm = m.hbm) (h2 : n.l2 = m.l2) : Moves m n := ⟨coherent_congr hc h1 h2, homeByte_congr h1 h2⟩

theorem l2Flush_moves (hc : Coherent m) (line : Nat) : Moves m (m.l2Flush line) := ⟨l2Flush_coherent hc line, l2Flush_homeByte hc line⟩

theorem l2Evict_moves (hc : Coherent m) (line : Nat) (bad : Bool) (req : Nat) : Moves m (m.l2Evict line bad req) := by
  obtain ⟨b, x, h⟩ := l2Evict_eq m line bad req
  rw [h]
  exact (l2Flush_moves hc line).trans (.congr (l2Flush_coherent hc line) rfl rfl)

theorem l2Evict_l2At (m : Mem) (line : Nat) (bad : Bool) (req k : Nat) :
    (m.l2Evict line bad req).l2At k = if k = line then none else m.l2At k := by
  obtain ⟨b, x, h⟩ := l2Evict_eq m line bad req
  rw [h]
  exact l2Flush_l2At m line k

/-! ### A line looked up -/

theorem l2Sync_moves (hc : Coherent m) (c line : Nat) : Moves m (m.l2Sync c line) := by
  unfold Mem.l2Sync
  split
  · split
    · exact .refl hc
    · exact l2Evict_moves hc _ _ _
  · exact .refl hc

theorem l2Room_moves (hc : Coherent m) (line req : Nat) : Moves m (m.l2Room line req) := by
  unfold Mem.l2Room
  split
  · exact .refl hc
  · split
    · exact .refl hc
    · exact l2Evict_moves hc _ _ _

/-- A line brought in from HBM holds what HBM holds. -/
theorem l2Fetch_moves (hc : Coherent m) (line c : Nat) :
    Moves m { m with l2 := m.l2 ++ [⟨0, c, line, hbmLine m line, 0, 0⟩] } := by
  refine ⟨⟨hc.hbm, fun l hl i hi hd => ?_⟩, fun a => ?_⟩
  · rcases List.mem_append.1 hl with hl | hl
    · exact hc.clean l hl i hi hd
    · rw [List.mem_singleton.1 hl]
      exact lineByte_hbmLine m line i hi
  · have hat : Mem.l2At { m with l2 := m.l2 ++ [⟨0, c, line, hbmLine m line, 0, 0⟩] } (a / 128) =
        (m.l2At (a / 128)).or (if line = a / 128 then some ⟨0, c, line, hbmLine m line, 0, 0⟩ else none) := by
      rw [Mem.l2At, List.find?_append, Mem.l2At]
      congr 1
      by_cases hl : line = a / 128 <;> simp [hl]
    unfold Mem.homeByte
    rw [hat]
    cases ha : m.l2At (a / 128) with
    | some l => rfl
    | none =>
      by_cases hl : line = a / 128
      · rw [if_pos hl]
        show lineByte (hbmLine m line) (a % 128) = tget 0 m.hbm a
        rw [lineByte_hbmLine _ _ _ (by omega)]
        congr 1
        omega
      · rw [if_neg hl]
        rfl

theorem l2Fill_moves (hc : Coherent m) (c line : Nat) : Moves m (m.l2Fill c line) := by
  have hs := l2Sync_moves hc c line
  unfold Mem.l2Fill
  dsimp only
  split
  · exact hs
  · have hr := l2Room_moves hs.coherent line c
    have hf := l2Fetch_moves hr.coherent line c
    exact hs.trans (hr.trans (hf.trans (.congr hf.coherent rfl rfl)))

/-- A line looked up is in its slice. -/
theorem l2Fill_l2At (m : Mem) (c line : Nat) : ∃ l, (m.l2Fill c line).l2At line = some l := by
  rw [← Option.isSome_iff_exists]
  unfold Mem.l2Fill
  dsimp only
  split
  · assumption
  · show ((_ ++ [_] : List Line).find? _).isSome = true
    simp

/-! ### Writes at the home -/

/-- The copies of a line changed where they become dirty stay coherent with HBM. -/
theorem mapLine_coherent (hc : Coherent m) (line : Nat) (f : Line → Line) (hf : ∀ l, (f l).line = l.line) (b : Tbl Bool)
    (hd : ∀ l, l.line = line → ∀ i, i < 128 → (f l).dirty.getLsbD i = false → l.dirty.getLsbD i = false ∧ lineByte (f l).data i = lineByte l.data i) :
    Coherent { m with l2 := m.l2.map (fun l => if l.line == line then f l else l), badLine := b } := by
  refine ⟨hc.hbm, fun x hx i hi hx' => ?_⟩
  obtain ⟨l, hl, rfl⟩ := List.mem_map.1 hx
  by_cases h : l.line = line
  · simp only [h, beq_self_eq_true, if_true] at hx' ⊢
    obtain ⟨h1, h2⟩ := hd l h i hi hx'
    rw [h2, hf]
    exact hc.clean l hl i hi h1
  · simp only [beq_eq_false_iff_ne.2 h, Bool.false_eq_true, if_false] at hx' ⊢
    exact hc.clean l hl i hi hx'

/-- The copies of a line changed: its home's bytes change with them. -/
theorem mapLine_homeByte {line : Nat} {l : Line} (h : m.l2At line = some l) (f : Line → Line) (hf : ∀ l, (f l).line = l.line) (b : Tbl Bool)
    (a : Nat) : Mem.homeByte { m with l2 := m.l2.map (fun l => if l.line == line then f l else l), badLine := b } a =
      if a / 128 = line then lineByte (f l).data (a % 128) else m.homeByte a := by
  have hat : Mem.l2At { m with l2 := m.l2.map (fun l => if l.line == line then f l else l), badLine := b } (a / 128) =
      if a / 128 = line then (m.l2At (a / 128)).map f else m.l2At (a / 128) := find_mapLine m.l2 line (a / 128) f hf
  unfold Mem.homeByte
  rw [hat]
  by_cases ha : a / 128 = line
  · rw [if_pos ha, if_pos ha, ha, h]
    rfl
  · rw [if_neg ha, if_neg ha]

theorem homePut_coherent (hc : Coherent m) (c pa : Nat) (bs : List Byte) : Coherent (m.homePut c pa bs) := by
  refine mapLine_coherent (l2Fill_moves hc c (pa / 128)).coherent (pa / 128) (fun l =>
    { l with data := linePut l.data (pa % 128) bs, dirty := l.dirty ||| maskOf (pa % 128) bs.length }) (fun _ => rfl) _ ?_
  intro l _ i hi hd
  rw [BitVec.getLsbD_or, Bool.or_eq_false_iff, maskOf_getLsbD _ _ _ hi, decide_eq_false_iff_not] at hd
  exact ⟨hd.1, by rw [lineByte_linePut _ _ _ _ hi, if_neg hd.2]⟩

/-- A write at the home within a line changes the bytes that it writes and no other (R206). -/
theorem homePut_homeByte (hc : Coherent m) (c pa : Nat) (bs : List Byte) (hb : pa % 128 + bs.length ≤ 128) (a : Nat) :
    (m.homePut c pa bs).homeByte a = if pa ≤ a ∧ a < pa + bs.length then bs.getD (a - pa) 0 else m.homeByte a := by
  obtain ⟨l, hl⟩ := l2Fill_l2At m c (pa / 128)
  rw [Mem.homePut, mapLine_homeByte hl (fun l =>
    { l with data := linePut l.data (pa % 128) bs, dirty := l.dirty ||| maskOf (pa % 128) bs.length }) (fun _ => rfl),
    lineByte_linePut _ _ _ _ (by omega), ← (l2Fill_moves hc c (pa / 128)).homeByte a]
  by_cases ha : a / 128 = pa / 128
  · rw [if_pos ha]
    by_cases hi : pa ≤ a ∧ a < pa + bs.length
    · rw [if_pos hi, if_pos (by omega), show a % 128 - pa % 128 = a - pa by omega]
    · rw [if_neg hi, if_neg (by omega), homeByte_some hl ha]
  · rw [if_neg ha, if_neg (by omega)]

theorem homeMasked_coherent (hc : Coherent m) (c line : Nat) (d : BitVec 1024) (mask : BitVec 128) : Coherent (homeMasked m c line d mask) := by
  unfold homeMasked
  split
  · exact hc
  · refine mapLine_coherent (l2Fill_moves hc c line).coherent line
      (fun l => { l with data := mergeLine l.data d mask, dirty := l.dirty ||| mask }) (fun _ => rfl) _ ?_
    intro l _ i hi hd
    rw [BitVec.getLsbD_or, Bool.or_eq_false_iff] at hd
    exact ⟨hd.1, by rw [lineByte_mergeLine _ _ _ _ hi, hd.2]; rfl⟩

/-- A masked write at the home changes the bytes of its mask and no other (R206). -/
theorem homeMasked_homeByte (hc : Coherent m) (c line : Nat) (d : BitVec 1024) (mask : BitVec 128) (a : Nat) :
    (homeMasked m c line d mask).homeByte a =
      if a / 128 = line ∧ mask.getLsbD (a % 128) = true then lineByte d (a % 128) else m.homeByte a := by
  unfold homeMasked
  split
  · rename_i h
    simp [h]
  · obtain ⟨l, hl⟩ := l2Fill_l2At m c line
    rw [← (l2Fill_moves hc c line).homeByte a]
    refine (mapLine_homeByte hl (fun l => { l with data := mergeLine l.data d mask, dirty := l.dirty ||| mask }) (fun _ => rfl) _ a).trans ?_
    by_cases ha : a / 128 = line
    · rw [if_pos ha, lineByte_mergeLine _ _ _ _ (by omega), homeByte_some hl ha]
      simp [ha]
    · rw [if_neg ha, if_neg (by simp [ha])]

end Sys2Proof.Memory
end

section
/-! SUPPORT. The L1s of the units (R206, R237): what a write-back, a drop, a fill, a read and a write of a unit's copy do to the home
and to what each unit sees; direct writes to memory, and the clearing of presence. -/

namespace Sys2Proof.Memory

open Sys2Proof Sys2Proof.Machine Sys2Proof.Claims Sys2Proof.Laws

variable {m n : Mem}

/-! ### Copies in the L1s -/

/-- Whether a line is the copy that a unit holds of a line. -/
def isCopy (u line : Nat) (l : Line) : Bool := l.unit == u && l.line == line

theorem isCopy_iff {u line : Nat} {l : Line} : isCopy u line l = true ↔ l.unit = u ∧ l.line = line := by simp [isCopy]

theorem l1At_mem {u line : Nat} {l : Line} (h : m.l1At u line = some l) : l ∈ m.l1 ∧ l.unit = u ∧ l.line = line := by
  refine ⟨List.mem_of_find?_eq_some h, ?_⟩
  simpa using List.find?_some h

/-- Changing a unit's copies of a line changes the copy that it finds, and no other. -/
theorem find_mapCopy (ls : List Line) (u line v k : Nat) (f : Line → Line) (hf : ∀ l, (f l).unit = l.unit ∧ (f l).line = l.line) :
    (ls.map (fun l => if isCopy u line l then f l else l)).find? (isCopy v k) =
      if v = u ∧ k = line then (ls.find? (isCopy v k)).map f else ls.find? (isCopy v k) := by
  rw [List.find?_map]
  have hp : (isCopy v k ∘ fun l => if isCopy u line l then f l else l) = isCopy v k := by
    funext l
    simp only [Function.comp]
    split <;> simp [isCopy, hf]
  rw [hp]
  cases hl : ls.find? (isCopy v k) with
  | none => simp
  | some l =>
    obtain ⟨rfl, rfl⟩ := isCopy_iff.1 (List.find?_some hl)
    by_cases hk : l.unit = u ∧ l.line = line <;> simp [isCopy, hk]

/-- The copies other than a unit's of a line. -/
theorem find_dropCopy (ls : List Line) (u line v k : Nat) :
    (ls.filter (fun l => !isCopy u line l)).find? (isCopy v k) = if v = u ∧ k = line then none else ls.find? (isCopy v k) := by
  induction ls with
  | nil => simp
  | cons l ls ih =>
    by_cases hl : isCopy u line l = true
    · rw [List.filter_cons_of_neg (by simp [hl]), ih]
      split
      · rfl
      · rename_i hk
        rw [List.find?_cons_of_neg]
        rw [isCopy_iff] at hl ⊢
        rintro ⟨rfl, rfl⟩
        exact hk hl
    · rw [List.filter_cons_of_pos (by simp [hl])]
      by_cases hk : isCopy v k l = true
      · rw [List.find?_cons_of_pos hk, List.find?_cons_of_pos hk, if_neg]
        rintro ⟨rfl, rfl⟩
        exact hl hk
      · rw [List.find?_cons_of_neg hk, ih, List.find?_cons_of_neg hk]

theorem l1At_eq (m : Mem) (u line : Nat) : m.l1At u line = m.l1.find? (isCopy u line) := rfl

/-! ### Write-backs -/

theorem l1WriteBack_frame (m : Mem) (l : Line) (req : Nat) : L2Frame m (m.l1WriteBack l req) := by
  unfold Mem.l1WriteBack
  have h : L2Frame m ((homeMasked m l.ctx l.line l.data l.dirty).note (.energy l.ctx 6 1)) := (homeMasked_frame m _ _ _ _).trans rfl
  split
  · rfl
  · dsimp only
    split
    · exact h
    · exact (h.trans (l2Flush_frame _ _)).trans rfl

/-- A copy written back leaves its dirty bytes at their home and no other byte changed. -/
theorem l1WriteBack_home (hc : Coherent m) (l : Line) (req : Nat) : Coherent (m.l1WriteBack l req) ∧ ∀ a, (m.l1WriteBack l req).homeByte a =
    if a / 128 = l.line ∧ l.dirty.getLsbD (a % 128) = true then lineByte l.data (a % 128) else m.homeByte a := by
  unfold Mem.l1WriteBack
  split
  · rename_i h
    exact ⟨hc, by simp [h]⟩
  · have hk := homeMasked_coherent hc l.ctx l.line l.data l.dirty
    have hb := homeMasked_homeByte hc l.ctx l.line l.data l.dirty
    have hm : Moves (homeMasked m l.ctx l.line l.data l.dirty) ((homeMasked m l.ctx l.line l.data l.dirty).note (.energy l.ctx 6 1)) :=
      .congr hk rfl rfl
    dsimp only
    split
    · exact ⟨hm.coherent, fun a => (hm.homeByte a).trans (hb a)⟩
    · have hf := hm.trans (l2Flush_moves hm.coherent l.line)
      have hs := hf.trans (n := _) (p := (Mem.setBad _ l.line true).note (.poisoned l.line l.ctx req)) (.congr hf.coherent rfl rfl)
      exact ⟨hs.coherent, fun a => (hs.homeByte a).trans (hb a)⟩

theorem l1Clean_none {u line : Nat} (h : m.l1At u line = none) (req : Nat) : m.l1Clean u line req = m := by
  unfold Mem.l1Clean
  rw [h]

theorem l1Clean_some {u line : Nat} {l : Line} (h : m.l1At u line = some l) (req : Nat) : m.l1Clean u line req =
    { m.l1WriteBack l req with l1 := m.l1.map (fun x => if isCopy u line x then { x with dirty := 0 } else x) } := by
  unfold Mem.l1Clean
  rw [h]
  show ({ m.l1WriteBack l req with l1 := (m.l1WriteBack l req).l1.map _ } : Mem) = _
  rw [(l1WriteBack_frame m l req).l1]
  rfl

theorem l1Clean_frame (m : Mem) (u line req : Nat) : CacheFrame m (m.l1Clean u line req) := by
  cases h : m.l1At u line with
  | none => rw [l1Clean_none h]; rfl
  | some l => rw [l1Clean_some h]; exact (l1WriteBack_frame m l req).cache.trans rfl

theorem l1Clean_coherent (hc : Coherent m) (u line req : Nat) : Coherent (m.l1Clean u line req) := by
  cases h : m.l1At u line with
  | none => rw [l1Clean_none h]; exact hc
  | some l => rw [l1Clean_some h]; exact coherent_congr (l1WriteBack_home hc l req).1 rfl rfl

theorem l1Clean_homeByte (hc : Coherent m) {u line : Nat} {l : Line} (h : m.l1At u line = some l) (req a : Nat) :
    (m.l1Clean u line req).homeByte a =
      if a / 128 = line ∧ l.dirty.getLsbD (a % 128) = true then lineByte l.data (a % 128) else m.homeByte a := by
  obtain ⟨-, -, hl⟩ := l1At_mem h
  rw [l1Clean_some h, ← hl, ← (l1WriteBack_home hc l req).2 a]
  exact homeByte_congr rfl rfl a

theorem l1Clean_l1At {u line : Nat} {l : Line} (h : m.l1At u line = some l) (req v k : Nat) :
    (m.l1Clean u line req).l1At v k = if v = u ∧ k = line then some { l with dirty := 0 } else m.l1At v k := by
  rw [l1Clean_some h, l1At_eq, l1At_eq]
  refine (find_mapCopy m.l1 u line v k (fun x => { x with dirty := 0 }) (fun _ => ⟨rfl, rfl⟩)).trans ?_
  split
  · rename_i hk
    obtain ⟨rfl, rfl⟩ := hk
    rw [← l1At_eq, h]
    rfl
  · rfl

/-- A dropped copy leaves the L1s without it, and nothing else changed there. -/
theorem l1Drop_l1 (m : Mem) (u line req : Nat) : (m.l1Drop u line req).l1 = m.l1.filter (fun x => !isCopy u line x) := by
  show (m.l1Clean u line req).l1.filter (fun x => !isCopy u line x) = _
  cases h : m.l1At u line with
  | none => rw [l1Clean_none h]
  | some l =>
    rw [l1Clean_some h]
    show (m.l1.map _).filter _ = _
    rw [List.filter_map]
    have hp : ((fun x => !isCopy u line x) ∘ fun x : Line => if isCopy u line x then { x with dirty := 0 } else x) = fun x => !isCopy u line x := by
      funext x
      simp only [Function.comp]
      split <;> rfl
    rw [hp]
    conv_rhs => rw [← List.map_id (m.l1.filter _)]
    refine List.map_congr_left fun x hx => ?_
    have := (List.mem_filter.1 hx).2
    simp only [Bool.not_eq_true'] at this
    simp [this]

theorem l1Drop_l1At (m : Mem) (u line req v k : Nat) : (m.l1Drop u line req).l1At v k = if v = u ∧ k = line then none else m.l1At v k := by
  rw [l1At_eq, l1Drop_l1, find_dropCopy]
  rfl

theorem l1Drop_frame (m : Mem) (u line req : Nat) : CacheFrame m (m.l1Drop u line req) := (l1Clean_frame m u line req).trans rfl

theorem l1Drop_coherent (hc : Coherent m) (u line req : Nat) : Coherent (m.l1Drop u line req) :=
  coherent_congr (l1Clean_coherent hc u line req) rfl rfl

theorem l1Drop_homeByte_eq (m : Mem) (u line req a : Nat) : (m.l1Drop u line req).homeByte a = (m.l1Clean u line req).homeByte a :=
  homeByte_congr rfl rfl a

/-- Dropping a copy that no unit holds moves nothing. -/
theorem l1Drop_homeByte_other (hc : Coherent m) (u line req a : Nat) (ha : a / 128 ≠ line) : (m.l1Drop u line req).homeByte a = m.homeByte a := by
  rw [l1Drop_homeByte_eq]
  cases h : m.l1At u line with
  | none => rw [l1Clean_none h]
  | some l => rw [l1Clean_homeByte hc h, if_neg (by simp [ha])]

/-! ### Several copies dropped -/

/-- What dropping copies of a unit leaves: coherence, the other units' copies, and bytes at the home that changed only to what the
unit held dirty. -/
structure Dropped (u : Nat) (m n : Mem) : Prop where
  coherent : Coherent n
  held : ∀ l ∈ n.l1, l ∈ m.l1
  others : ∀ v k, v ≠ u → n.l1At v k = m.l1At v k
  home : ∀ a, n.homeByte a = m.homeByte a ∨
    ∃ l ∈ m.l1, l.unit = u ∧ l.line = a / 128 ∧ l.dirty.getLsbD (a % 128) = true ∧ n.homeByte a = lineByte l.data (a % 128)

theorem Dropped.refl (hc : Coherent m) (u : Nat) : Dropped u m m := ⟨hc, fun _ h => h, fun _ _ _ => rfl, fun _ => .inl rfl⟩

theorem Dropped.trans {u : Nat} {p : Mem} (h : Dropped u m n) (k : Dropped u n p) : Dropped u m p := by
  refine ⟨k.coherent, fun l hl => h.held l (k.held l hl), fun v i hv => (k.others v i hv).trans (h.others v i hv), fun a => ?_⟩
  rcases k.home a with hk | ⟨l, hl, hu, hline, hd, hk⟩
  · rw [hk]
    exact h.home a
  · exact .inr ⟨l, h.held l hl, hu, hline, hd, hk⟩

theorem l1Drop_dropped (hc : Coherent m) (u line req : Nat) : Dropped u m (m.l1Drop u line req) := by
  refine ⟨l1Drop_coherent hc u line req, fun l hl => ?_, fun v k hv => ?_, fun a => ?_⟩
  · rw [l1Drop_l1] at hl
    exact (List.mem_filter.1 hl).1
  · rw [l1Drop_l1At, if_neg (by simp [hv])]
  · rw [l1Drop_homeByte_eq]
    cases h : m.l1At u line with
    | none => rw [l1Clean_none h]; exact .inl rfl
    | some l =>
      rw [l1Clean_homeByte hc h]
      split
      · rename_i hd
        obtain ⟨hm, hu, hl⟩ := l1At_mem h
        exact .inr ⟨l, hm, hu, hl.trans hd.1.symm, hd.2, rfl⟩
      · exact .inl rfl

theorem l1Drops_dropped (hc : Coherent m) (u req : Nat) (ls : List Line) : Dropped u m (ls.foldl (fun m l => m.l1Drop u l.line req) m) := by
  induction ls generalizing m with
  | nil => exact .refl hc u
  | cons l ls ih => exact (l1Drop_dropped hc u l.line req).trans (ih (l1Drop_coherent hc u l.line req))

theorem l1Trim_dropped (hc : Coherent m) (u cap req : Nat) : Dropped u m (m.l1Trim u cap req) := l1Drops_dropped hc u req _

/-- An L1 within its capacity gives up no line. -/
theorem l1Trim_within {u cap : Nat} (h : (m.l1.filter (fun l => l.unit == u)).length ≤ cap) (req : Nat) : m.l1Trim u cap req = m := by
  unfold Mem.l1Trim
  simp [Nat.sub_eq_zero_of_le h]

theorem l1Drops_frame (m : Mem) (u req : Nat) (ls : List Line) : CacheFrame m (ls.foldl (fun m l => m.l1Drop u l.line req) m) := by
  induction ls generalizing m with
  | nil => exact .refl m
  | cons l ls ih => exact (l1Drop_frame m u l.line req).trans (ih _)

theorem l1DropAll_frame (m : Mem) (u : Nat) (sel : Line → Bool) (req : Nat) : CacheFrame m (m.l1DropAll u sel req) := l1Drops_frame m u req _

/-! ### A line brought into an L1 -/

theorem l1Fetch_frame (m : Mem) (u c line : Nat) : CacheFrame m (m.l1Fetch u c line) := (l2Fill_frame m c line).cache.trans rfl

theorem l1Fetch_moves (hc : Coherent m) (u c line : Nat) : Moves m (m.l1Fetch u c line) :=
  (l2Fill_moves hc c line).trans (.congr (l2Fill_moves hc c line).coherent rfl rfl)

/-- The copy that a fetch makes of a line. -/
def fetchedLine (m : Mem) (u c line : Nat) : Line :=
  ⟨u, c, line, (m.l2Fill c line).homeLine line, 0, if tget false (m.l2Fill c line).badLine line then BitVec.allOnes 32 else 0⟩

theorem l1Fetch_l1At (m : Mem) (u c line v k : Nat) :
    (m.l1Fetch u c line).l1At v k = (m.l1At v k).or (if v = u ∧ k = line then some (fetchedLine m u c line) else none) := by
  have h : (m.l1Fetch u c line).l1 = m.l1 ++ [fetchedLine m u c line] := by
    show (m.l2Fill c line).l1 ++ _ = _
    rw [(l2Fill_frame m c line).l1]
    rfl
  rw [l1At_eq, h, List.find?_append, ← l1At_eq]
  congr 1
  by_cases hk : v = u ∧ k = line
  · obtain ⟨rfl, rfl⟩ := hk
    simp [isCopy, fetchedLine]
  · rw [if_neg hk, List.find?_cons_of_neg, List.find?_nil]
    rw [isCopy_iff]
    rintro ⟨rfl, rfl⟩
    exact hk ⟨rfl, rfl⟩

theorem lineByte_fetchedLine (hc : Coherent m) (u c line i : Nat) (hi : i < 128) :
    lineByte (fetchedLine m u c line).data i = m.homeByte (128 * line + i) := by
  rw [← (l2Fill_moves hc c line).homeByte]
  exact lineByte_homeLine _ _ _ hi

theorem l1Fill_held {u c line : Nat} {l : Line} (h : m.l1At u line = some l) (hl : l.ctx = c) : m.l1Fill u c line = m := by
  unfold Mem.l1Fill
  rw [h]
  simp [hl]

theorem l1Fill_other {u c line : Nat} {l : Line} (h : m.l1At u line = some l) (hl : l.ctx ≠ c) :
    m.l1Fill u c line = (m.l1Drop u line c).l1Fetch u c line := by
  unfold Mem.l1Fill
  rw [h]
  simp [hl]

theorem l1Fill_none {u c line : Nat} (h : m.l1At u line = none) : m.l1Fill u c line = m.l1Fetch u c line := by
  unfold Mem.l1Fill
  rw [h]

/-- The three ways of filling a copy: it is held, another context's leaves first, or the unit holds none. -/
theorem l1Fill_cases (m : Mem) (u c line : Nat) {P : Mem → Prop} (held : (∃ l, m.l1At u line = some l ∧ l.ctx = c) → P m)
    (other : (∃ l, m.l1At u line = some l ∧ l.ctx ≠ c) → P ((m.l1Drop u line c).l1Fetch u c line))
    (fresh : m.l1At u line = none → P (m.l1Fetch u c line)) : P (m.l1Fill u c line) := by
  cases h : m.l1At u line with
  | none => rw [l1Fill_none h]; exact fresh h
  | some l =>
    by_cases hl : l.ctx = c
    · rw [l1Fill_held h hl]; exact held ⟨l, h, hl⟩
    · rw [l1Fill_other h hl]; exact other ⟨l, h, hl⟩

theorem l1Fill_frame (m : Mem) (u c line : Nat) : CacheFrame m (m.l1Fill u c line) :=
  l1Fill_cases m u c line (fun _ => .refl m) (fun _ => (l1Drop_frame m u line c).trans (l1Fetch_frame _ _ _ _)) (fun _ => l1Fetch_frame _ _ _ _)

theorem l1Fill_coherent (hc : Coherent m) (u c line : Nat) : Coherent (m.l1Fill u c line) :=
  l1Fill_cases m u c line (fun _ => hc) (fun _ => (l1Fetch_moves (l1Drop_coherent hc u line c) u c line).coherent)
    (fun _ => (l1Fetch_moves hc u c line).coherent)

/-- A filled copy stands under the context of the access. -/
theorem l1Fill_l1At_self (m : Mem) (u c line : Nat) : ∃ l, (m.l1Fill u c line).l1At u line = some l ∧ l.ctx = c := by
  refine l1Fill_cases m u c line (P := fun n => ∃ l, n.l1At u line = some l ∧ l.ctx = c) id (fun _ => ?_) (fun h => ?_)
  · refine ⟨fetchedLine (m.l1Drop u line c) u c line, ?_, rfl⟩
    rw [l1Fetch_l1At, l1Drop_l1At, if_pos ⟨rfl, rfl⟩, if_pos ⟨rfl, rfl⟩, Option.none_or]
  · refine ⟨fetchedLine m u c line, ?_, rfl⟩
    rw [l1Fetch_l1At, h, if_pos ⟨rfl, rfl⟩, Option.none_or]

theorem l1Fill_l1At_other (m : Mem) (u c line v k : Nat) (h : ¬(v = u ∧ k = line)) : (m.l1Fill u c line).l1At v k = m.l1At v k := by
  refine l1Fill_cases m u c line (P := fun n => n.l1At v k = m.l1At v k) (fun _ => rfl) (fun _ => ?_) (fun _ => ?_)
  · rw [l1Fetch_l1At, l1Drop_l1At, if_neg h, if_neg h, Option.or_none]
  · rw [l1Fetch_l1At, if_neg h, Option.or_none]

/-- A line that a unit holds under the context, or not at all. -/
def HeldOrNone (m : Mem) (u c line : Nat) : Prop := ∀ l, m.l1At u line = some l → l.ctx = c

/-- Bringing in a line that is held under the context or not at all changes no byte at its home. -/
theorem l1Fill_moves (hc : Coherent m) {u c line : Nat} (h : HeldOrNone m u c line) : Moves m (m.l1Fill u c line) :=
  l1Fill_cases m u c line (fun _ => .refl hc) (fun ⟨l, hl, hn⟩ => absurd (h l hl) hn) (fun _ => l1Fetch_moves hc u c line)

/-! ### What a unit sees -/

theorem seen_some {u a line : Nat} {l : Line} (h : m.l1At u line = some l) (ha : a / 128 = line) : seen m u a = lineByte l.data (a % 128) := by
  rw [seen, ha, h]

theorem seen_none {u a line : Nat} (h : m.l1At u line = none) (ha : a / 128 = line) : seen m u a = m.homeByte a := by
  rw [seen, ha, h]

theorem seen_congr {u a : Nat} (h1 : n.l1At u (a / 128) = m.l1At u (a / 128)) (h2 : n.homeByte a = m.homeByte a) : seen n u a = seen m u a := by
  rw [seen, seen, h1, h2]

/-- The copy that a fill leaves holds what the unit saw. -/
theorem l1Fill_data (hc : Coherent m) {u c line : Nat} (h : HeldOrNone m u c line) {l : Line} (hl : (m.l1Fill u c line).l1At u line = some l)
    {a : Nat} (ha : a / 128 = line) : lineByte l.data (a % 128) = seen m u a := by
  cases hn : m.l1At u line with
  | none =>
    rw [l1Fill_none hn, l1Fetch_l1At, hn, if_pos ⟨rfl, rfl⟩] at hl
    obtain rfl : fetchedLine m u c line = l := by simpa using hl
    rw [lineByte_fetchedLine hc _ _ _ _ (by omega), seen_none hn ha]
    congr 1
    omega
  | some l' =>
    rw [l1Fill_held hn (h l' hn), hn] at hl
    obtain rfl : l' = l := by simpa using hl
    exact (seen_some hn ha).symm

theorem l1Fill_seen (hc : Coherent m) {u c line : Nat} (h : HeldOrNone m u c line) (v a : Nat) :
    seen (m.l1Fill u c line) v a = seen m v a := by
  by_cases hk : v = u ∧ a / 128 = line
  · obtain ⟨rfl, ha⟩ := hk
    obtain ⟨l, hl, -⟩ := l1Fill_l1At_self m v c line
    rw [seen_some hl ha, l1Fill_data hc h hl ha]
  · exact seen_congr (l1Fill_l1At_other _ _ _ _ _ _ hk) ((l1Fill_moves hc h).homeByte a)

/-! ### Reads and writes through an L1 -/

theorem l1Read_mem (m : Mem) (u c pa k : Nat) : (m.l1Read u c pa k).1 = m.l1Fill u c (pa / 128) := by
  unfold Mem.l1Read
  dsimp only
  split <;> rfl

theorem l1Read_eq (m : Mem) (u c pa k : Nat) {l : Line} (h : (m.l1Fill u c (pa / 128)).l1At u (pa / 128) = some l) :
    m.l1Read u c pa k = (m.l1Fill u c (pa / 128), lineGet l.data (pa % 128) k, l.bad &&& wordsHit (pa % 128) k != 0) := by
  unfold Mem.l1Read
  dsimp only
  rw [h]

/-- A line with a byte string written through an L1. -/
def storedLine (l : Line) (pa : Nat) (bs : List Byte) : Line :=
  { l with data := linePut l.data (pa % 128) bs, dirty := l.dirty ||| maskOf (pa % 128) bs.length,
           bad := l.bad &&& ~~~wordsWhole (pa % 128) bs.length }

theorem l1Write_l1At (m : Mem) (u c pa : Nat) (bs : List Byte) (v k : Nat) : (m.l1Write u c pa bs).l1At v k =
    if v = u ∧ k = pa / 128 then ((m.l1Fill u c (pa / 128)).l1At v k).map (fun l => storedLine l pa bs)
    else (m.l1Fill u c (pa / 128)).l1At v k :=
  find_mapCopy (m.l1Fill u c (pa / 128)).l1 u (pa / 128) v k (fun l => storedLine l pa bs) (fun _ => ⟨rfl, rfl⟩)

theorem l1Write_frame (m : Mem) (u c pa : Nat) (bs : List Byte) : CacheFrame m (m.l1Write u c pa bs) := (l1Fill_frame m u c (pa / 128)).trans rfl

theorem l1Write_homeByte (m : Mem) (u c pa : Nat) (bs : List Byte) (a : Nat) :
    (m.l1Write u c pa bs).homeByte a = (m.l1Fill u c (pa / 128)).homeByte a := homeByte_congr rfl rfl a

/-- The copy that a store leaves holds the stored bytes, and beside them what the filled copy held. -/
theorem l1Write_data (m : Mem) (u c pa : Nat) (bs : List Byte) :
    ∃ l, (m.l1Fill u c (pa / 128)).l1At u (pa / 128) = some l ∧ (m.l1Write u c pa bs).l1At u (pa / 128) = some (storedLine l pa bs) ∧ l.ctx = c ∧
      ∀ a, a / 128 = pa / 128 → lineByte (storedLine l pa bs).data (a % 128) =
        if pa ≤ a ∧ a < pa + bs.length then bs.getD (a - pa) 0 else lineByte l.data (a % 128) := by
  obtain ⟨l, hl, hctx⟩ := l1Fill_l1At_self m u c (pa / 128)
  refine ⟨l, hl, by rw [l1Write_l1At, if_pos ⟨rfl, rfl⟩, hl]; rfl, hctx, fun a ha => ?_⟩
  show lineByte (linePut l.data (pa % 128) bs) (a % 128) = _
  rw [lineByte_linePut _ _ _ _ (by omega)]
  by_cases hi : pa ≤ a ∧ a < pa + bs.length
  · rw [if_pos hi, if_pos (by omega), show a % 128 - pa % 128 = a - pa by omega]
  · rw [if_neg hi, if_neg (by omega)]

end Sys2Proof.Memory
end

section
/-! O27: stores and loads through an L1, byte by byte (R206, R207, R209). -/

namespace Sys2Proof.Memory

open Sys2Proof Sys2Proof.Machine Sys2Proof.Claims Sys2Proof.Laws

variable {m : Mem}

/-! ### A store -/

/-- A byte of another line stays as the unit saw it, whatever copy leaves first. -/
theorem l1Write_seen_apart (hc : Coherent m) (u c pa : Nat) (bs : List Byte) (a : Nat) (ha : a / 128 ≠ pa / 128) :
    seen (m.l1Write u c pa bs) u a = seen m u a := by
  refine seen_congr ?_ ?_
  · rw [l1Write_l1At, if_neg (by simp [ha]), l1Fill_l1At_other _ _ _ _ _ _ (by simp [ha])]
  · rw [l1Write_homeByte]
    refine l1Fill_cases m u c (pa / 128) (P := fun n => n.homeByte a = m.homeByte a) (fun _ => rfl) (fun _ => ?_) (fun _ => ?_)
    · rw [(l1Fetch_moves (l1Drop_coherent hc u (pa / 128) c) u c (pa / 128)).homeByte, l1Drop_homeByte_other hc _ _ _ _ ha]
    · exact (l1Fetch_moves hc u c (pa / 128)).homeByte a

/-- A store into a line that the unit holds under the context, or not at all, changes what it stores in the unit's sight alone. -/
theorem l1Write_seen (hc : Coherent m) {u c pa : Nat} (h : HeldOrNone m u c (pa / 128)) (bs : List Byte) (hb : pa % 128 + bs.length ≤ 128)
    (v a : Nat) : seen (m.l1Write u c pa bs) v a = if v = u ∧ pa ≤ a ∧ a < pa + bs.length then bs.getD (a - pa) 0 else seen m v a := by
  by_cases hk : v = u ∧ a / 128 = pa / 128
  · obtain ⟨rfl, ha⟩ := hk
    obtain ⟨l, hl, hw, -, hd⟩ := l1Write_data m v c pa bs
    rw [seen_some hw ha, hd a ha, l1Fill_data hc h hl ha]
    simp
  · rw [if_neg (by omega), ← l1Fill_seen hc h v a]
    exact seen_congr (by rw [l1Write_l1At, if_neg hk]) (l1Write_homeByte _ _ _ _ _ _)

theorem cachedStoreFrame : Claims.CachedStoreFrame := by
  intro m u c pa bs hc hb
  have hf := l1Write_frame m u c pa bs
  refine ⟨l1Write_seen_apart hc u c pa bs, hf.sram, hf.present, hf.full, fun h => ⟨l1Write_seen hc h bs hb, fun a => ?_⟩⟩
  rw [l1Write_homeByte]
  exact (l1Fill_moves hc h).homeByte a

/-! ### A load -/

/-- A number read through an L1 is that of the bytes that the filled copy holds. -/
theorem l1Read_bytes (m : Mem) (u c pa n : Nat) (hn : pa % 128 + n ≤ 128) {l : Line}
    (hl : (m.l1Fill u c (pa / 128)).l1At u (pa / 128) = some l) (f : Nat → Byte)
    (hf : ∀ a, a / 128 = pa / 128 → lineByte l.data (a % 128) = f a) :
    (m.l1Read u c pa n).2.1 = bytesToNat ((List.range n).map (fun i => f (pa + i))) := by
  rw [l1Read_eq m u c pa n hl]
  show lineGet l.data (pa % 128) n = _
  rw [lineGet_eq]
  congr 1
  refine List.map_congr_left fun i hi => ?_
  have := List.mem_range.1 hi
  rw [← hf (pa + i) (by omega), show (pa + i) % 128 = pa % 128 + i by omega]

/-- Some word is touched by a read of at least one byte. -/
theorem wordsHit_ne_zero {i n : Nat} (hi : i + n ≤ 128) (hn : 0 < n) : wordsHit i n ≠ 0 := by
  intro h
  have hb : (wordsHit i n).getLsbD (i / 4) = true := by
    rw [wordsHit, BitVec.getLsbD_ofNat, Nat.testBit_mul_two_pow, Nat.sub_self, Nat.testBit_two_pow_sub_one]
    simp
    omega
  rw [h] at hb
  simp at hb

/-- A line fetched from its home is poisoned when its home is. -/
theorem l1Read_fetched_bad {u c pa n : Nat} (hn : pa % 128 + n ≤ 128) (h0 : 0 < n) {k : Mem} (hk : k.l1At u (pa / 128) = none)
    (hf : m.l1Fill u c (pa / 128) = k.l1Fetch u c (pa / 128)) : (m.l1Read u c pa n).2.2 = k.homeBad pa := by
  have hl : (m.l1Fill u c (pa / 128)).l1At u (pa / 128) = some (fetchedLine k u c (pa / 128)) := by
    rw [hf, l1Fetch_l1At, hk, if_pos ⟨rfl, rfl⟩, Option.none_or]
  rw [l1Read_eq m u c pa n hl]
  show ((if tget false (k.l2Fill c (pa / 128)).badLine (pa / 128) then BitVec.allOnes 32 else 0) &&& wordsHit (pa % 128) n != 0) = k.homeBad pa
  rw [l2Fill_poison, Mem.homeBad]
  cases tget false k.badLine (pa / 128) with
  | false => simp
  | true =>
    show (BitVec.allOnes 32 &&& wordsHit (pa % 128) n != 0) = true
    rw [BitVec.allOnes_and]
    simpa using wordsHit_ne_zero hn h0

theorem cachedLoadReads : Claims.CachedLoadReads := by
  intro m u c pa n hc hn h0
  refine ⟨fun h => ?_, fun h => l1Read_fetched_bad hn h0 h (l1Fill_none h), fun l h hl => ?_⟩
  · obtain ⟨l, hl, -⟩ := l1Fill_l1At_self m u c (pa / 128)
    exact l1Read_bytes m u c pa n hn hl (seen m u) (fun a ha => l1Fill_data hc h hl ha)
  · have hd : (m.l1Drop u (pa / 128) c).l1At u (pa / 128) = none := by rw [l1Drop_l1At, if_pos ⟨rfl, rfl⟩]
    have hat : (m.l1Fill u c (pa / 128)).l1At u (pa / 128) = some (fetchedLine (m.l1Drop u (pa / 128) c) u c (pa / 128)) := by
      rw [l1Fill_other h hl, l1Fetch_l1At, hd, if_pos ⟨rfl, rfl⟩, Option.none_or]
    refine ⟨?_, l1Read_fetched_bad hn h0 hd (l1Fill_other h hl)⟩
    rw [l1Read_bytes m u c pa n hn hat (m.l1Drop u (pa / 128) c).homeByte, homeBytes_eq]
    intro a ha
    rw [lineByte_fetchedLine (l1Drop_coherent hc _ _ _) _ _ _ _ (by omega)]
    congr 1
    omega

/-! ### A load after a store -/

theorem cachedLoadAfterStore : Claims.CachedLoadAfterStore := by
  intro m u c pa n v hn
  obtain ⟨l, -, hw, hctx, hd⟩ := l1Write_data m u c pa (natToBytes n v)
  have hf : (m.l1Write u c pa (natToBytes n v)).l1Fill u c (pa / 128) = m.l1Write u c pa (natToBytes n v) := l1Fill_held hw hctx
  rw [l1Read_eq _ u c pa n (hf.symm ▸ hw)]
  show lineGet (storedLine l pa (natToBytes n v)).data (pa % 128) n = _
  have hb : (List.range n).map (fun i => lineByte (storedLine l pa (natToBytes n v)).data (pa % 128 + i)) = natToBytes n v := by
    conv_rhs => rw [← range_map_getD (natToBytes n v), natToBytes_length]
    refine List.map_congr_left fun i hi => ?_
    have := List.mem_range.1 hi
    have hi' := hd (pa + i) (by omega)
    rw [natToBytes_length, if_pos (by omega), show (pa + i) % 128 = pa % 128 + i by omega, Nat.add_sub_cancel_left] at hi'
    exact hi'
  rw [lineGet_eq, hb, bytesToNat_natToBytes, show (256 : Nat) = 2 ^ 8 from rfl, ← Nat.pow_mul]

/-- Settles O27, byte by byte: a fill moves no byte, and a store lays its bytes over the copy that the fill leaves. -/
theorem cachedStores : Obligations.CachedStores := ⟨cachedStoreFrame, cachedLoadAfterStore, cachedLoadReads⟩

end Sys2Proof.Memory
end

section
/-! O51, coherence and evictions: whatever moves a line keeps the L2 slices coherent with HBM, an evicted line's dirty bytes stand at
its home, and a poisoned write-back is told of (R206, R209, R277). -/

namespace Sys2Proof.Memory

open Sys2Proof Sys2Proof.Machine Sys2Proof.Claims Sys2Proof.Laws

variable {m n : Mem}

/-! ### Bytes written straight to memory (R203, R267) -/

/-- An L2 copy with the bytes of a direct write that lie in it, up to the `n`th. -/
def physLine (pa : Nat) (bs : List Byte) (n : Nat) (l : Line) : Line :=
  (List.range n).foldl (fun l i =>
    if (pa + i) / 128 = l.line then { l with data := setLineByte l.data ((pa + i) % 128) (bs.getD i 0) } else l) l

/-- A direct write changes the data of a copy alone, at the bytes that it writes. -/
theorem physLine_spec (pa : Nat) (bs : List Byte) (n : Nat) (l : Line) : ∃ d, physLine pa bs n l = { l with data := d } ∧
    ∀ i, i < 128 → lineByte d i =
      if pa ≤ 128 * l.line + i ∧ 128 * l.line + i < pa + n then bs.getD (128 * l.line + i - pa) 0 else lineByte l.data i := by
  induction n with
  | zero => exact ⟨l.data, rfl, fun i _ => by rw [if_neg (by omega)]⟩
  | succ n ih =>
    obtain ⟨d, hd, hi⟩ := ih
    have hs : physLine pa bs (n + 1) l =
        if (pa + n) / 128 = l.line then { l with data := setLineByte d ((pa + n) % 128) (bs.getD n 0) } else { l with data := d } := by
      unfold physLine at hd ⊢
      rw [List.range_succ, List.foldl_append, hd]
      rfl
    rw [hs]
    by_cases h : (pa + n) / 128 = l.line
    · rw [if_pos h]
      refine ⟨_, rfl, fun i hlt => ?_⟩
      rw [lineByte_setLineByte _ _ _ _ hlt, hi i hlt]
      by_cases hj : i = (pa + n) % 128
      · rw [if_pos hj, if_pos (by omega), show 128 * l.line + i - pa = n by omega]
      · rw [if_neg hj]
        simp only [show (128 * l.line + i < pa + (n + 1)) = (128 * l.line + i < pa + n) by rw [eq_iff_iff]; omega]
    · rw [if_neg h]
      refine ⟨d, rfl, fun i hlt => ?_⟩
      rw [hi i hlt]
      simp only [show (128 * l.line + i < pa + (n + 1)) = (128 * l.line + i < pa + n) by rw [eq_iff_iff]; omega]

theorem physPut_l2 (m : Mem) (pa : Nat) (bs : List Byte) : (m.physPut pa bs).l2 = m.l2.map (physLine pa bs bs.length) := rfl

theorem physPut_coherent (hc : Coherent m) (pa : Nat) (bs : List Byte) : Coherent (m.physPut pa bs) := by
  refine ⟨twf_writeBytes _ _ _ hc.hbm, fun x hx i hi hd => ?_⟩
  rw [physPut_l2, List.mem_map] at hx
  obtain ⟨l, hl, rfl⟩ := hx
  obtain ⟨d, he, hb⟩ := physLine_spec pa bs bs.length l
  rw [he] at hd ⊢
  show lineByte d i = tget 0 (writeBytes m.hbm pa bs) (128 * l.line + i)
  rw [hb i hi, tget_writeBytes _ _ _ _ hc.hbm, hc.clean l hl i hi hd]

theorem woPut_coherent (hc : Coherent m) (g v : Nat) : Coherent (m.woPut g v) := coherent_congr (physPut_coherent hc (8 * g) (natToBytes 8 v)) rfl rfl

/-- A single write makes its granule present, and no other. -/
theorem woPut_isPresent (m : Mem) (g v k : Nat) : (m.woPut g v).isPresent k = if k = g then true else m.isPresent k :=
  tget_tput_of_ne (by decide) _ _ _

/-! ### Presence cleared (R205) -/

/-- Coherence of the lines that a test leaves out. -/
structure CoherentOff (hit : Nat → Bool) (m : Mem) : Prop where
  hbm   : twf 0 m.hbm = true
  clean : ∀ l ∈ m.l2, hit l.line = false → ∀ i, i < 128 → l.dirty.getLsbD i = false → lineByte l.data i = tget 0 m.hbm (128 * l.line + i)

theorem l2Evict_mem {line : Nat} {bad : Bool} {req : Nat} {x : Line} (h : x ∈ (m.l2Evict line bad req).l2) : x ∈ m.l2 ∧ x.line ≠ line := by
  obtain ⟨b, z, he⟩ := l2Evict_eq m line bad req
  rw [he] at h
  change x ∈ (m.l2Flush line).l2 at h
  cases hl : m.l2At line with
  | none =>
    unfold Mem.l2Flush at h
    rw [hl] at h
    refine ⟨h, fun hx => ?_⟩
    have := List.find?_eq_none.1 hl x h
    simp [hx] at this
  | some l =>
    rw [(l2Flush_tables hl).2, List.mem_filter] at h
    exact ⟨h.1, by simpa using h.2⟩

/-- Evicting a line keeps the others coherent. -/
theorem l2Evict_coherentOff {hit : Nat → Bool} (hc : CoherentOff hit m) (line : Nat) (bad : Bool) (req : Nat) :
    CoherentOff hit (m.l2Evict line bad req) := by
  obtain ⟨b, z, he⟩ := l2Evict_eq m line bad req
  have hb : (m.l2Evict line bad req).hbm = (m.l2Flush line).hbm := by rw [he]
  cases h : m.l2At line with
  | none =>
    have hf : m.l2Flush line = m := by unfold Mem.l2Flush; rw [h]
    rw [hf] at hb
    exact ⟨hb ▸ hc.hbm, fun x hx => hb ▸ hc.clean x (l2Evict_mem hx).1⟩
  | some l =>
    rw [(l2Flush_tables h).1] at hb
    refine ⟨hb ▸ twf_putMasked hc.hbm _ _ _, fun x hx hh i hi hd => ?_⟩
    obtain ⟨hm, hne⟩ := l2Evict_mem hx
    rw [hb, tget_putMasked hc.hbm, if_neg (by omega)]
    exact hc.clean x hm hh i hi hd

/-- The lines of a list evicted: the others stay, coherent as before. -/
theorem l2Evicts_coherentOff {hit : Nat → Bool} (ls : List Line) (hc : CoherentOff hit m) :
    CoherentOff hit (ls.foldl (fun (m : Mem) l => m.l2Evict l.line false l.ctx) m) ∧
      ∀ x ∈ (ls.foldl (fun (m : Mem) l => m.l2Evict l.line false l.ctx) m).l2, x ∈ m.l2 ∧ ∀ l ∈ ls, x.line ≠ l.line := by
  induction ls generalizing m with
  | nil => exact ⟨hc, fun x hx => ⟨hx, fun l hl => absurd hl List.not_mem_nil⟩⟩
  | cons l ls ih =>
    obtain ⟨h1, h2⟩ := ih (l2Evict_coherentOff hc l.line false l.ctx)
    refine ⟨h1, fun x hx => ?_⟩
    obtain ⟨h3, h4⟩ := h2 x hx
    obtain ⟨h5, h6⟩ := l2Evict_mem h3
    refine ⟨h5, fun l' hl' => ?_⟩
    rcases List.mem_cons.1 hl' with rfl | hl'
    · exact h6
    · exact h4 l' hl'

theorem unclear_of_clear {l : Line} {g n : Nat} (h : clearMask g n l.line = 0) : l.unclear g n = l := by
  rw [Line.unclear, h, show ~~~(0 : BitVec 128) = BitVec.allOnes 128 from BitVec.not_zero, BitVec.and_allOnes]

theorem dropCopies_coherent (hc : Coherent m) (g n : Nat) : Coherent (m.dropCopies g n) := by
  have hdrops : ∀ (ls : List Line) {k : Mem}, Coherent k → Coherent (ls.foldl (fun (m : Mem) l => m.l1Drop l.unit l.line l.ctx) k) := by
    intro ls
    induction ls with
    | nil => exact fun h => h
    | cons l ls ih => exact fun h => ih (l1Drop_coherent h _ _ _)
  unfold Mem.dropCopies
  extract_lets hit m1 m2 m3
  have h2 : Coherent m2 := hdrops _ (coherent_congr hc rfl rfl)
  clear_value m2
  have h3 : CoherentOff (fun line => clearMask g n line != 0) m3 := by
    refine ⟨h2.hbm, fun x hx hh i hi hd => ?_⟩
    obtain ⟨l, hl, rfl⟩ := List.mem_map.1 hx
    rw [unclear_of_clear (by simpa [Line.unclear] using hh)] at hd ⊢
    exact h2.clean l hl i hi hd
  obtain ⟨h4, h5⟩ := l2Evicts_coherentOff (m3.l2.filter hit) h3
  refine ⟨h4.hbm, fun x hx i hi hd => h4.clean x hx ?_ i hi hd⟩
  obtain ⟨h6, h7⟩ := h5 x hx
  by_contra hh
  exact h7 x (List.mem_filter.2 ⟨h6, by simpa [hit] using hh⟩) rfl

theorem applyClears_coherent (hc : Coherent m) (p : Nat) : Coherent (m.applyClears p) := by
  unfold Mem.applyClears
  extract_lets rs
  clear_value rs
  have h0 : Coherent { m with clears := m.clears.filter (fun c => c.1 != p) } := coherent_congr hc rfl rfl
  revert h0
  generalize ({ m with clears := m.clears.filter (fun c => c.1 != p) } : Mem) = k
  intro hk
  induction rs generalizing k with
  | nil => exact hk
  | cons c rs ih => exact ih _ (coherent_congr (dropCopies_coherent hk c.2.1 c.2.2) rfl rfl)

theorem cachesStayCoherent : Claims.CachesStayCoherent := by
  refine ⟨⟨rfl, fun l hl => absurd hl List.not_mem_nil⟩, fun m u c line req n v bad l sel bs hc => ?_⟩
  refine ⟨l2Flush_coherent hc line, (l2Evict_moves hc line bad req).coherent, (l2Sync_moves hc c line).coherent,
    (l2Fill_moves hc c line).coherent, homePut_coherent hc c n bs, physPut_coherent hc n bs, woPut_coherent hc n v,
    (l1WriteBack_home hc l req).1, l1Clean_coherent hc u line req, l1Drop_coherent hc u line req, (l1Drops_dropped hc u req _).coherent,
    (l1Trim_dropped hc u n req).coherent, l1Fill_coherent hc u c line, ?_, coherent_congr (l1Fill_coherent hc u c (n / 128)) rfl rfl,
    applyClears_coherent hc n⟩
  rw [l1Read_mem]
  exact l1Fill_coherent hc u c (n / 128)

end Sys2Proof.Memory
end

section
/-! O51, evictions and translations: an evicted line's dirty bytes stand at its home, a walk installs the translation that it answers
with, and an invalidation drops the entries it names (R206, R209, R262, R263, R277). -/

namespace Sys2Proof.Memory

open Sys2Proof Sys2Proof.Machine Sys2Proof.Claims Sys2Proof.Laws

variable {m : Mem} {s t : State}

/-! ### Evictions -/

/-- A poisoned write-back leaves its home line poisoned and is told of (R277). -/
theorem l1WriteBack_poisoned (m : Mem) {l : Line} (hd : l.dirty ≠ 0) (hb : l.bad ≠ 0) (req : Nat) :
    tget false (m.l1WriteBack l req).badLine l.line = true ∧ MemNote.poisoned l.line l.ctx req ∈ (m.l1WriteBack l req).notes := by
  unfold Mem.l1WriteBack
  rw [if_neg hd]
  dsimp only
  rw [if_neg hb]
  refine ⟨?_, List.mem_append_right _ (List.mem_singleton_self _)⟩
  show tget false (Mem.setBad _ l.line true).badLine l.line = true
  rw [setBad_badLine, if_pos rfl]

/-- The copies of a unit marked as holding an error, when an eviction finds one. -/
def markBad (m : Mem) (u line : Nat) (bad : Bool) : Mem :=
  if bad then { m with l1 := m.l1.map (fun x => if isCopy u line x then { x with bad := BitVec.allOnes 32 } else x) } else m

theorem markBad_l1At (m : Mem) (u line : Nat) (bad : Bool) (v k : Nat) : (markBad m u line bad).l1At v k =
    if bad = true ∧ v = u ∧ k = line then (m.l1At v k).map (fun x => { x with bad := BitVec.allOnes 32 }) else m.l1At v k := by
  cases bad with
  | false => simp [markBad]
  | true =>
    simp only [markBad, if_true, true_and]
    exact find_mapCopy m.l1 u line v k (fun x => { x with bad := BitVec.allOnes 32 }) (fun _ => ⟨rfl, rfl⟩)

theorem markBad_coherent (hc : Coherent m) (u line : Nat) (bad : Bool) : Coherent (markBad m u line bad) := by
  cases bad
  · exact hc
  · exact coherent_congr hc rfl rfl

theorem markBad_homeByte (m : Mem) (u line : Nat) (bad : Bool) (a : Nat) : (markBad m u line bad).homeByte a = m.homeByte a := by
  cases bad
  · rfl
  · exact homeByte_congr rfl rfl a

theorem execEviction_l1 {u line : Nat} {l : Line} (h : s.mem.l1At u line = some l) (bad : Bool) :
    exec (.l1Eviction (.l1 u) line bad) s = .next { s with mem := (markBad s.mem u line bad).l1Drop u line (s.unitCtx u) } := by
  obtain ⟨-, -, rfl⟩ := l1At_mem h
  show Host.Outcome.next (match s.mem.l1At u l.line with | some l => s.evictL1 u l bad | none => s) = _
  rw [h]
  rfl

theorem execEviction_l2 {line : Nat} {l : Line} (h : s.mem.l2At line = some l) (bad : Bool) :
    exec (.l1Eviction .l2 line bad) s = .next { s.free.2 with mem := s.mem.l2Evict line bad (s.free.1.toNat % 4096) } := by
  obtain ⟨-, rfl⟩ := l2At_mem h
  show Host.Outcome.next (match s.mem.l2At l.line with | some l => s.evictL2 l bad | none => s) = _
  rw [h]
  rfl

theorem l1Drop_reports {u line : Nat} {l : Line} (h : m.l1At u line = some l) (req : Nat) :
    (m.l1Drop u line req).badLine = (m.l1WriteBack l req).badLine ∧ (m.l1Drop u line req).notes = (m.l1WriteBack l req).notes := by
  show (m.l1Clean u line req).badLine = _ ∧ (m.l1Clean u line req).notes = _
  rw [l1Clean_some h]
  exact ⟨rfl, rfl⟩

/-- What the eviction of a unit's copy leaves. -/
theorem l1Evict_spec (hc : Coherent m) {u line : Nat} {l : Line} (h : m.l1At u line = some l) (bad : Bool) (req : Nat) :
    let n := (markBad m u line bad).l1Drop u line req
    Coherent n ∧ n.l1At u line = none ∧
    (∀ pa, n.homeByte pa = if pa / 128 = line ∧ l.dirty.getLsbD (pa % 128) = true then lineByte l.data (pa % 128) else m.homeByte pa) ∧
    (∀ v k, (v, k) ≠ (u, line) → n.l1At v k = m.l1At v k) ∧
    (l.dirty ≠ 0 → bad = true ∨ l.bad ≠ 0 → (∀ i, i < 128 → n.homeBad (128 * line + i) = true) ∧ MemNote.poisoned line l.ctx req ∈ n.notes) := by
  have hc' := markBad_coherent hc u line bad
  obtain ⟨b, hb, hbad⟩ : ∃ b, (markBad m u line bad).l1At u line = some { l with bad := b } ∧ (bad = true ∨ l.bad ≠ 0 → b ≠ 0) := by
    rw [markBad_l1At, h]
    cases bad with
    | false => exact ⟨l.bad, by simp, by simp⟩
    | true => exact ⟨BitVec.allOnes 32, by simp, fun _ => by decide⟩
  obtain ⟨-, -, hl⟩ := l1At_mem h
  refine ⟨l1Drop_coherent hc' u line req, by rw [l1Drop_l1At, if_pos ⟨rfl, rfl⟩], fun pa => ?_, fun v k hvk => ?_, fun hd hp => ?_⟩
  · rw [l1Drop_homeByte_eq, l1Clean_homeByte hc' hb, markBad_homeByte]
  · have hne : ¬(v = u ∧ k = line) := fun e => hvk (Prod.ext e.1 e.2)
    rw [l1Drop_l1At, if_neg hne, markBad_l1At, if_neg (fun e => hne e.2)]
  · have hp := l1WriteBack_poisoned (markBad m u line bad) (l := { l with bad := b }) hd (hbad hp) req
    obtain ⟨h1, h2⟩ := l1Drop_reports hb req
    rw [← h1, ← h2] at hp
    rw [hl] at hp
    refine ⟨fun i hi => ?_, hp.2⟩
    rw [Mem.homeBad, show (128 * line + i) / 128 = line by omega]
    exact hp.1

theorem l2Evict_hbm (m : Mem) (line : Nat) (bad : Bool) (req : Nat) : (m.l2Evict line bad req).hbm = (m.l2Flush line).hbm := by
  obtain ⟨b, x, h⟩ := l2Evict_eq m line bad req
  rw [h]

/-- A dirty line evicted with an error leaves its home poisoned and is told of (R277). -/
theorem l2Evict_poisoned {line : Nat} {l : Line} (h : m.l2At line = some l) (hd : l.dirty ≠ 0) {bad : Bool}
    (hb : bad = true ∨ m.homeBad (128 * line) = true) (req : Nat) :
    tget false (m.l2Evict line bad req).badLine line = true ∧ MemNote.poisoned line l.ctx req ∈ (m.l2Evict line bad req).notes := by
  have hcond : (l.dirty ≠ 0 && (bad || tget false (m.l2Flush line).badLine line)) = true := by
    rw [Mem.homeBad, show 128 * line / 128 = line by omega] at hb
    rw [l2Flush_badLine, Bool.and_eq_true, Bool.or_eq_true]
    exact ⟨by simpa using hd, hb⟩
  unfold Mem.l2Evict
  rw [h]
  dsimp only
  rw [if_pos hcond]
  refine ⟨?_, List.mem_append_right _ (List.mem_singleton_self _)⟩
  show tget false (Mem.setBad _ line true).badLine line = true
  rw [setBad_badLine, if_pos rfl]

/-! ### Records of poisoned write-backs -/

/-- Single writes of granules make them present, and clear no presence. -/
theorem woPuts_isPresent (g : Nat → Nat) (v : Nat → Nat) (is : List Nat) (m : Mem) (k : Nat) :
    (is.foldl (fun (m : Mem) i => m.woPut (g i) (v i)) m).isPresent k = true ↔ m.isPresent k = true ∨ ∃ i ∈ is, g i = k := by
  induction is generalizing m with
  | nil => simp
  | cons i is ih =>
    rw [List.foldl_cons, ih, woPut_isPresent]
    by_cases hk : k = g i
    · simp [hk]
    · simp [hk, Ne.symm hk]

/-- A record written to its slot of a ring makes the slot's eight granules present. -/
theorem write_isPresent (r : FRing) (m : Mem) (seq : Word) (x : FRec) (i : Nat) (hi : i < 8) :
    (r.write m seq x).1.isPresent (r.slotPa seq / 8 + i) = true :=
  (woPuts_isPresent _ _ _ _ _).2 (.inr ⟨i, List.mem_range.2 hi, rfl⟩)

/-- A record that finds its slot free is written at once, and takes the ring's next number (R267). -/
theorem emit_free {p : Nat} (hr : RingFree s p) (hw : twf {} s.parts = true) (x : FRec) :
    ((s.emit p x).part p).ring.head = (s.part p).ring.head + 1 ∧
      ∀ i, i < 8 → (s.emit p x).mem.isPresent ((s.part p).ring.slotPa (s.part p).ring.head / 8 + i) = true := by
  obtain ⟨hh, hb⟩ := hr
  have ht : (s.part p).ring.take s.mem x = (s.part p).ring.write s.mem (s.part p).ring.head x := by
    unfold FRing.take
    simp [hh, hb]
  rw [emit_eq, part_setPart_self _ (by exact hw), ht]
  exact ⟨rfl, write_isPresent _ _ _ _⟩

theorem evictionWritesBack : Claims.EvictionWritesBack := by
  intro s line l bad hc
  refine ⟨fun u h => ⟨_, execEviction_l1 h bad, l1Evict_spec hc h bad (s.unitCtx u)⟩, fun h => ⟨_, execEviction_l2 h bad, ?_⟩,
    fun u h => ?_, fun h => ?_, fun c p req hp hr hw => ?_⟩
  · have hm := l2Evict_moves hc line bad (s.free.1.toNat % 4096)
    refine ⟨hm.coherent, by rw [l2Evict_l2At, if_pos rfl], hm.homeByte, (l2Evict_frame _ _ _ _).l1, fun pa => ?_, fun hd hb => ?_⟩
    · show tget 0 (s.mem.l2Evict line bad _).hbm pa = _
      rw [l2Evict_hbm, l2Flush_hbm hc h]
    · have hp := l2Evict_poisoned h hd hb (s.free.1.toNat % 4096)
      refine ⟨?_, _, hp.2⟩
      show tget false _ (128 * line / 128) = true
      rw [show 128 * line / 128 = line by omega]
      exact hp.1
  · show Host.Outcome.next (match s.mem.l1At u line with | some l => s.evictL1 u l bad | none => s) = _
    rw [h]
  · show Host.Outcome.next (match s.mem.l2At line with | some l => s.evictL2 l bad | none => s) = _
    rw [h]
  · have he : s.takeNote (.poisoned line c req) =
        s.emit p (s.recOf p 3 0 { code := 0x12, addr := BitVec.ofNat 64 (128 * line), info := BitVec.ofNat 64 (req % 4096) } 1) := by
      show s.emitCtx c _ = _
      unfold State.emitCtx
      rw [hp]
    rw [he]
    exact emit_free hr hw _

/-! ### Walks -/

theorem homeLook_frame (m : Mem) (c line : Nat) : L2Frame m (m.homeLook c line) := (l2Fill_frame m c line).trans rfl

/-- A walk changes the home alone, and its entry answers for the address that it walked for. -/
theorem walk_spec {n : Mem} {c va level table : Nat} {e : Tlbe} (h : walk m c va level table = .ok (n, e)) :
    L2Frame m n ∧ e.hits c va = true := by
  induction level generalizing m table with
  | zero => cases h
  | succ k ih =>
    unfold walk at h
    extract_lets a q pte at h
    have hq : L2Frame m q := homeLook_frame _ _ _
    clear_value a q pte
    split at h
    · cases h
    · split at h
      · cases h
      · split at h
        · cases h
        · split at h
          · split at h
            · cases h
            · rename_i pte' r b _ _ _ _ _
              have hr : L2Frame m r := by
                show L2Frame m (if bit pte 7 then q else q.homePut c a (natToBytes 8 pte'))
                split
                · exact hq
                · exact hq.trans (homePut_frame _ _ _ _)
              clear_value pte' r b
              cases h
              refine ⟨hr, ?_⟩
              have := Nat.div_add_mod va (2 ^ b)
              have := Nat.mod_lt va (Nat.two_pow_pos b)
              simp only [Tlbe.hits, beq_self_eq_true, Bool.true_and, Bool.and_eq_true, decide_eq_true_eq]
              rw [Nat.mul_comm (va / 2 ^ b)]
              omega
          · obtain ⟨h1, h2⟩ := ih h
            exact ⟨hq.trans h1, h2⟩

/-- The entry added last is found where no entry before it translates the address. -/
theorem find_tlbAdd {ts : List Tlbe} {c va : Nat} (hn : ts.find? (fun e => e.hits c va) = none) {e : Tlbe} (he : e.hits c va = true) (cap : Nat) :
    (tlbAdd cap ts e).find? (fun e => e.hits c va) = some e := by
  have h : ∀ rs : List Tlbe, (∀ x ∈ rs, x ∈ ts) → (rs ++ [e]).find? (fun e => e.hits c va) = some e := by
    intro rs hrs
    rw [List.find?_append, List.find?_eq_none.2 (fun x hx => List.find?_eq_none.1 hn x (hrs x hx))]
    simp [he]
  unfold tlbAdd
  split
  · exact h _ (fun _ hx => hx)
  · exact h _ (fun _ hx => List.mem_of_mem_drop hx)

/-- A translation that a unit's TLB holds is answered without a walk. -/
theorem translateTables_hit {u c va : Nat} {e : Tlbe} (hv : ¬2 ^ 52 ≤ va) (h : (tget [] s.mem.mtTlb u).find? (fun e => e.hits c va) = some e) :
    translateTables s u c va = .ok (s, e.tr va) := by
  unfold translateTables
  rw [if_neg hv, h]

/-- Whatever a translation by the tables leaves, the unit's TLB holds the entry that answered. -/
theorem translateTables_again {u c va : Nat} {tr : Tr} (h : translateTables s u c va = .ok (t, tr)) : translateTables t u c va = .ok (t, tr) := by
  have added : ∀ (k : Mem) (e : Tlbe), k.mtTlb = s.mem.mtTlb → (tget [] s.mem.mtTlb u).find? (fun e => e.hits c va) = none →
      e.hits c va = true → ¬2 ^ 52 ≤ va →
      translateTables { s with mem := { k with mtTlb := tput [] k.mtTlb u (tlbAdd 64 (tget [] k.mtTlb u) e) } } u c va =
        .ok ({ s with mem := { k with mtTlb := tput [] k.mtTlb u (tlbAdd 64 (tget [] k.mtTlb u) e) } }, e.tr va) := by
    intro k e hk hn he hv
    refine translateTables_hit hv ?_
    show (tget [] (tput [] k.mtTlb u _) u).find? _ = some e
    rw [tget_tput_of_ne (by simp [tlbAdd]), if_pos rfl, hk]
    exact find_tlbAdd hn he 64
  unfold translateTables at h
  split at h
  · cases h
  · rename_i hv
    split at h
    · rename_i hit
      cases h
      exact translateTables_hit hv hit
    · rename_i hn
      dsimp only at h
      split at h
      · rename_i hd
        have he := List.find?_some hd
        cases h
        exact added s.mem _ rfl hn he hv
      · split at h
        · cases h
        · rename_i k e hw
          obtain ⟨hf, he⟩ := walk_spec hw
          cases h
          exact added { k with dieTlb := tput [] k.dieTlb (dieOf u) (tlbAdd 4096 (tget [] k.dieTlb (dieOf u)) e) } e hf.cache.mtTlb hn he hv

/-- A translation made once is made again without a walk (R262). -/
theorem translate_again {u c va : Nat} {tr : Tr} (h : translate s u c va = .ok (t, tr)) : translate t u c va = .ok (t, tr) := by
  have hf := (translate_frame h).1
  have hctx : t.ctx c = s.ctx c := by rw [hf]; rfl
  unfold Machine.translate at h ⊢
  rw [hctx]
  split at h
  · rename_i pa hp
    split at h
    · cases h
    · rename_i hlt
      cases h
      rw [if_neg hlt]
  · exact translateTables_again h

/-! ### Invalidations -/

/-- The entries that an invalidation drops are those that TLBINV names (R281). -/
theorem invDrops_iff (v : Dword) (e : Tlbe) : invDrops v e = true ↔ named v e := by
  have hspan : bits v.toNat 9 4 = v.toNat / 16 % 64 := rfl
  have hctx : bits v.toNat 63 52 = v.toNat / 2 ^ 52 := by
    have := v.isLt
    unfold bits
    omega
  have hbase : ∀ k : Nat, bits v.toNat 51 16 * 2 ^ 16 / 2 ^ (16 + k) = v.toNat % 2 ^ 52 / 2 ^ (16 + k) := by
    intro k
    have h1 : bits v.toNat 51 16 * 2 ^ 16 / 2 ^ 16 = v.toNat % 2 ^ 52 / 2 ^ 16 := by
      unfold bits
      omega
    rw [Nat.pow_add, ← Nat.div_div_eq_div_mul, ← Nat.div_div_eq_div_mul, h1]
  unfold invDrops named invRange
  rw [hspan, hctx]
  dsimp only
  by_cases h : 37 ≤ v.toNat / 16 % 64
  · rw [if_pos h, Bool.and_true, beq_iff_eq]
    exact ⟨fun he => ⟨he.symm, .inl h⟩, fun he => he.1.symm⟩
  · rw [if_neg h]
    dsimp only
    rw [hbase, Bool.and_eq_true, Bool.and_eq_true, beq_iff_eq, decide_eq_true_eq, decide_eq_true_eq]
    exact ⟨fun he => ⟨he.1.symm, .inr he.2⟩, fun he => ⟨he.1.symm, he.2.resolve_left h⟩⟩

/-- A table of lists with every list filtered and the empty ones left out reads as its lists filtered. -/
theorem tget_filtered {α : Type} [DecidableEq α] (f : α → Bool) {t : Tbl (List α)} {lo : Nat} (h : twfFrom [] lo t = true) (k : Nat) :
    tget [] ((t.map (fun kt => (kt.1, kt.2.filter f))).filter (fun kt => kt.2 != [])) k = (tget [] t k).filter f := by
  induction t generalizing lo with
  | nil => rfl
  | cons p t ih =>
    simp only [twfFrom, Bool.and_eq_true] at h
    rw [List.map_cons]
    by_cases hp : p.2.filter f = []
    · rw [List.filter_cons_of_neg (by simp [hp]), ih h.2]
      by_cases hk : k = p.1
      · subst hk
        simp [tget, hp, tget_below h.2 (Nat.lt_succ_self p.1)]
      · simp [tget, hk]
    · rw [List.filter_cons_of_pos (by simpa using hp)]
      by_cases hk : k = p.1
      · simp [tget, hk]
      · simp only [tget, if_neg hk]
        exact ih h.2

theorem invalidate_mem (v : Dword) {ts : Tbl (List Tlbe)} (h : twf [] ts = true) (k : Nat) (e : Tlbe) :
    e ∈ tget [] ((ts.map (fun kt => (kt.1, kt.2.filter (fun e => !invDrops v e)))).filter (fun kt => kt.2 != [])) k ↔
      e ∈ tget [] ts k ∧ ¬named v e := by
  rw [tget_filtered _ h, List.mem_filter, ← invDrops_iff]
  simp

theorem execTlbInvalidateComplete_next {v : Dword} (hb : s.sys.tlbBusy = some v) (hp : s.invPending v = false) :
    exec .tlbInvalidateComplete s = .next { s with
      mem := s.mem.invalidate v, sys := { s.sys with tlbBusy := s.sys.tlbHeld.head?, tlbHeld := s.sys.tlbHeld.tail } } := by
  show execTlbInvalidateComplete s = _
  unfold execTlbInvalidateComplete
  rw [hb]
  simp [hp]

theorem walksAndInvalidations : Claims.WalksAndInvalidations := by
  refine ⟨fun s t u c va tr h => ⟨?_, translate_again h⟩, fun s u c va f h => ?_, fun s v => ⟨fun hd => ?_, fun hd => ⟨fun hb => ?_, fun w hb => ?_⟩⟩,
    fun s v hb hp hm hd => ⟨_, execTlbInvalidateComplete_next hb hp, invalidate_mem v hm, invalidate_mem v hd, rfl⟩⟩
  · show execPageWalk u c va s = _
    unfold execPageWalk
    rw [h]
  · show execPageWalk u c va s = _
    unfold execPageWalk
    rw [h]
  · show Host.Outcome.next (s.hosted (s.tlbinv v)) = _
    simp [State.hosted, hd]
  · show Host.Outcome.next (s.hosted (s.tlbinv v)) = _
    simp [State.hosted, hd, State.tlbinv, hb]
  · show Host.Outcome.next (s.hosted (s.tlbinv v)) = _
    simp [State.hosted, hd, State.tlbinv, hb]

/-- Settles O51: a write-back moves the dirty bytes and no other, every movement keeps the slices coherent, and the entry that a walk
adds is the first that answers. -/
theorem evictionsAndTranslations : Obligations.EvictionsAndTranslations := ⟨evictionWritesBack, cachesStayCoherent, walksAndInvalidations⟩

end Sys2Proof.Memory
end

section
/-! O26: loads and stores of scratchpads and of virtual memory (R200, R222 to R229); the rules for an access in order serve the other
memory instructions as well. -/

namespace Sys2Proof.Memory

open Sys2Proof Sys2Proof.Machine Sys2Proof.Claims Sys2Proof.Laws

variable {s t : State} {o : Ops} {g : Got} {y : Slot} {u off pa w : Nat}

/-! ### An access in order (R222 to R226) -/

theorem aligned_ok (t : State) {ea : Dword} (h : ea.toNat % w = 0) : aligned t ea w = .ok () := by simp [aligned, h]

theorem locateSp_ok {ea : Dword} (h : spRange t t.slot.prt t.slotUnit ea w = .ok (u, off)) : t.locateSp ea w = .ok (u, off) := by
  simp [State.locateSp, h]

theorem locate_sp {ea : Dword} (hsp : isSp o = true) (ha : ea.toNat % w = 0) (h : spRange t t.slot.prt t.slotUnit ea w = .ok (u, off))
    (k : PageKind) (r wr : Bool) : t.locate o ea w k r wr = .ok (t, .sp u off) := by
  simp [State.locate, aligned_ok t ha, hsp, locateSp_ok h]

theorem locate_va {ea : Dword} {k : PageKind} {r wr : Bool} {x : Acc (State × Loc)} (hsp : isSp o = false) (ha : ea.toNat % w = 0)
    (h : s.locateVa ea k r wr = x) : s.locate o ea w k r wr = x := by
  simp [State.locate, aligned_ok s ha, hsp, h]

theorem locate_spAccess (hsp : isSp o = true) (h : SpAccess s o w g y u off) (k : PageKind) (r wr : Bool) :
    (behind s y).locate o (eaOf o g) w k r wr = .ok (behind s y, .sp u off) := locate_sp hsp h.2.1 h.2.2 k r wr

theorem locate_vaAccess {k : PageKind} {r wr : Bool} (hsp : isSp o = false) (h : VaAccess s o w k r wr g y t pa) :
    (behind s y).locate o (eaOf o g) w k r wr = .ok (t, .mem pa) := locate_va hsp h.2.1 h.2.2

/-- An access located in this package changes memory alone. -/
theorem locateVa_frame {ea : Dword} {k : PageKind} {r wr : Bool} (h : s.locateVa ea k r wr = .ok (t, .mem pa)) : t = { s with mem := t.mem } := by
  unfold State.locateVa at h
  split at h
  · cases h
  · split at h
    · cases h
    · rename_i htr
      split at h
      · cases h
      · cases h
        exact (translate_frame htr).1

/-- A fault met after a translation leaves the slot as it was, and memory as the access left it. -/
theorem faultAt_moved {t : State} (h : t = { behind s y with mem := t.mem }) (f : Flt) : ∃ m, faultAt s t f = (.flt f, { s with mem := m }) := by
  have hr : t.hvReplies = s.hvReplies := by rw [h]; rfl
  rw [faultAt, hr]
  exact ⟨_, rfl⟩

/-- A run of a memory instruction whose operands are read and whose effect succeeds. -/
theorem run_memory {f : Got → State → Acc State} (h : Fetches s o .z g y) (hf : f g (behind s y) = .ok t) :
    s.run (fun s => s.memory o f) = .next t := run_ok h.1 (memory_ok h.2 hf)

/-- A fault that an access meets before it changes anything is taken in the state that it issued in. -/
theorem run_memory_flt {f : Got → State → Acc State} {x : Flt} (h : Fetches s o .z g y) (hf : f g (behind s y) = .error (x, behind s y)) :
    s.run (fun s => s.memory o f) = .next (s.raise x) := run_flt h.1 (memory_flt h.2 hf)

/-- A fault that an access meets after its translation is taken in the state that it issued in, but for memory. -/
theorem run_memory_moved {f : Got → State → Acc State} {x : Flt} (h : Fetches s o .z g y) (hf : f g (behind s y) = .error (x, t))
    (ht : t = { behind s y with mem := t.mem }) : ∃ m, s.run (fun s => s.memory o f) = .next (({ s with mem := m } : State).raise x) := by
  obtain ⟨m, hm⟩ := faultAt_moved ht x
  refine ⟨m, run_flt h.1 ?_⟩
  unfold State.memory State.memoryWith
  rw [operands_ok h.2]
  dsimp only
  change (match f g (behind s y) with | .error (flt, t') => Except.error (faultAt s t' flt) | .ok t' => .ok t') = _
  rw [hf, ← hm]

/-! ### Values -/

/-- A value loaded from bytes is that of the type that the instruction names (R152). -/
theorem loaded_eq (ty : Nat) (v : Nat) : loaded ty v = extend ty (BitVec.ofNat (tWidth ty) v) := putBits_eq ty v

/-- The value of type `ty` that bytes hold is what a load of them writes. -/
theorem loaded_bytes (ty : Nat) (bs : List Byte) : putBits ty (bytesToNat bs) = loadedVal ty bs := putBits_eq ty _

theorem spRead_ok {ea : Dword} (h : t.mem.spBad u off w = false) : t.spRead u off w ea = .ok (t.mem.spGet u off w) := by
  simp [State.spRead, h]

theorem spRead_bad {ea : Dword} (h : t.mem.spBad u off w = true) : t.spRead u off w ea = .error ({ code := 0x25, addr := ea }, t) := by
  simp [State.spRead, h, memError]

/-- A byte of a number is eight of its bits. -/
theorem natToBytes_getD (n : Nat) (v : Dword) (i : Nat) (hi : i < n) : (natToBytes n v.toNat).getD i 0 = v.extractLsb' (8 * i) 8 := by
  have key : ∀ n x i, i < n → (natToBytes n x).getD i 0 = BitVec.ofNat 8 (x / 2 ^ (8 * i)) := by
    intro n
    induction n with
    | zero => omega
    | succ n ih =>
      intro x i hi
      cases i with
      | zero => simp [natToBytes]
      | succ i =>
        rw [natToBytes, List.getD_cons_succ, ih _ _ (by omega), Nat.div_div_eq_div_mul, show 8 * (i + 1) = 8 + 8 * i by omega, Nat.pow_add]
  rw [key n v.toNat i hi]
  apply BitVec.eq_of_toNat_eq
  simp [BitVec.extractLsb'_toNat, Nat.shiftRight_eq_div_pow]

/-- A write at one key of a table, whatever its order, leaves every other key as it was. -/
theorem tget_tput_other {α : Type} [DecidableEq α] {d : α} (t : Tbl α) {k j : Nat} (h : j ≠ k) (v : α) : tget d (tput d t k v) j = tget d t j := by
  induction t with
  | nil => by_cases hv : v = d <;> simp [tput, hv, tget, h]
  | cons p t ih =>
    obtain ⟨q, x⟩ := p
    simp only [tput]
    split
    · split
      · rfl
      · simp [tget, h]
    · split
      · rename_i hk
        subst hk
        split <;> simp [tget, h]
      · simp only [tget, ih]

theorem tget_writeBytes_other (bs : List Byte) (t : Tbl Byte) (a j : Nat) (h : ¬(a ≤ j ∧ j < a + bs.length)) :
    tget 0 (writeBytes t a bs) j = tget 0 t j := by
  induction bs generalizing t a with
  | nil => rfl
  | cons b bs ih =>
    rw [List.length_cons] at h
    rw [writeBytes, ih _ _ (by omega), tget_tput_other _ (by omega)]

/-! ### LD and ST -/

theorem exec_load {i : Instr} (hi : i ∈ [Instr.ld o, .ldImm o, .ldLong o]) (s : State) : exec i s = s.run (loadOp o) := by
  simp only [List.mem_cons, List.not_mem_nil, or_false] at hi
  rcases hi with rfl | rfl | rfl <;> rfl

theorem exec_store {i : Instr} (hi : i ∈ [Instr.st o, .stLong o]) (s : State) : exec i s = s.run (storeOp o) := by
  simp only [List.mem_cons, List.not_mem_nil, or_false] at hi
  rcases hi with rfl | rfl <;> rfl

theorem loadOp_sp (hsp : isSp o = true) (h : SpAccess s o (wBytes (memT o 11)) g y u off) (hb : s.mem.spBad u off (wBytes (memT o 11)) = false) :
    s.run (loadOp o) = slotNext s (wrote y o (loadedVal (memT o 11) (readBytes s.mem.sram (spAddr u off) (wBytes (memT o 11)))) 4) := by
  refine run_memory h.1 ?_
  dsimp only
  rw [locate_spAccess hsp h]
  dsimp only
  rw [spRead_ok (t := behind s y) hb]
  dsimp only
  rw [loaded_eq]
  rfl

theorem loadOp_sp_bad (hsp : isSp o = true) (h : SpAccess s o (wBytes (memT o 11)) g y u off)
    (hb : s.mem.spBad u off (wBytes (memT o 11)) = true) : s.run (loadOp o) = .next (s.raise { code := 0x25, addr := g.a.val + immVal o }) := by
  refine run_memory_flt h.1 ?_
  dsimp only
  rw [locate_spAccess hsp h]
  dsimp only
  rw [spRead_bad (t := behind s y) hb]
  rfl

theorem storeOp_sp (hsp : isSp o = true) (h : SpAccess s o (wBytes (memT o 11)) g y u off)
    (hb : wBytes (memT o 11) % 4 = 0 ∨ s.mem.spBad u off (wBytes (memT o 11)) = false) :
    s.run (storeOp o) = .next { s with
      slot := (y.retire o).owe 4 1, mem := s.mem.spPut u off (natToBytes (wBytes (memT o 11)) g.b.val.toNat) } := by
  refine run_memory h.1 ?_
  have hw : (behind s y).spWrite u off (natToBytes (wBytes (memT o 11)) g.b.val.toNat) (eaOf o g) =
      .ok { behind s y with mem := s.mem.spPut u off (natToBytes (wBytes (memT o 11)) g.b.val.toNat) } := by
    unfold State.spWrite
    rw [natToBytes_length, if_neg]
    · rfl
    · rcases hb with hb | hb
      · simp [hb]
      · have : (behind s y).mem.spBad u off (wBytes (memT o 11)) = false := hb
        simp [this]
  dsimp only
  rw [locate_spAccess hsp h]
  dsimp only
  rw [hw]
  rfl

theorem scratchpadLoadAndStore : Claims.ScratchpadLoadAndStore := by
  intro s o g y u off hsp _ h
  refine ⟨fun i hi => ?_, fun i hi hb => ?_⟩
  · rw [exec_load hi]
    exact ⟨loadOp_sp hsp h, loadOp_sp_bad hsp h⟩
  · rw [exec_store hi]
    refine ⟨_, storeOp_sp hsp h hb, rfl, fun hw a => ?_, fun a ha => ?_, rfl⟩
    · show tget 0 (writeBytes s.mem.sram (spAddr u off) _) a = _
      rw [tget_writeBytes _ _ _ _ hw, natToBytes_length]
      refine ite_congr rfl (fun hi => natToBytes_getD (wBytes (memT o 11)) _ _ ?_) (fun _ => rfl)
      have hin : spAddr u off ≤ a ∧ a < spAddr u off + wBytes (memT o 11) := hi
      omega
    · exact tget_writeBytes_other _ _ _ _ (by rwa [natToBytes_length])

theorem loadOp_va (hsp : isSp o = false) (h : VaAccess s o (wBytes (memT o 11)) .mu true false g y t pa) :
    let r := t.mem.l1Read t.slotUnit t.slotCtx pa (wBytes (memT o 11))
    (r.2.2 = false → s.run (loadOp o) = .next ((({ t with mem := r.1 } : State).l1Settle t.slotUnit t.slotCtx).done o
      (some (extend (memT o 11) (BitVec.ofNat (tWidth (memT o 11)) r.2.1))) 5 1)) ∧
    (r.2.2 = true → ∃ m, s.run (loadOp o) = .next (({ s with mem := m } : State).raise { code := 0x25, addr := g.a.val + immVal o })) := by
  refine ⟨fun hb => run_memory h.1 ?_, fun hb => ?_⟩
  · dsimp only
    rw [locate_vaAccess hsp h]
    have hm : t.muRead pa (wBytes (memT o 11)) (eaOf o g) =
        .ok (({ t with mem := (t.mem.l1Read t.slotUnit t.slotCtx pa (wBytes (memT o 11))).1 } : State).l1Settle t.slotUnit t.slotCtx,
          (t.mem.l1Read t.slotUnit t.slotCtx pa (wBytes (memT o 11))).2.1) := if_neg (by rw [Bool.not_eq_true]; exact hb)
    dsimp only
    rw [hm]
    dsimp only
    rw [loaded_eq]
  · refine run_memory_moved h.1 (t := { t with mem := (t.mem.l1Read t.slotUnit t.slotCtx pa (wBytes (memT o 11))).1 }) ?_ ?_
    · dsimp only
      rw [locate_vaAccess hsp h]
      have hm : t.muRead pa (wBytes (memT o 11)) (eaOf o g) = .error ({ code := 0x25, addr := g.a.val + immVal o },
          { t with mem := (t.mem.l1Read t.slotUnit t.slotCtx pa (wBytes (memT o 11))).1 }) := if_pos hb
      dsimp only
      rw [hm]
    · rw [locateVa_frame h.2.2]

theorem storeOp_va (hsp : isSp o = false) (h : VaAccess s o (wBytes (memT o 11)) .mu false true g y t pa) :
    s.run (storeOp o) = .next ((({ t with mem := t.mem.l1Write t.slotUnit t.slotCtx pa (natToBytes (wBytes (memT o 11)) g.b.val.toNat) } : State).l1Settle
      t.slotUnit t.slotCtx).done o none 5 1) := by
  refine run_memory h.1 ?_
  dsimp only
  rw [locate_vaAccess hsp h]
  rfl

theorem virtualLoadAndStore : Claims.VirtualLoadAndStore := by
  intro s t o g y pa hsp _
  refine ⟨fun h i hi => ?_, fun h i hi => ?_⟩
  · rw [exec_load hi]
    exact loadOp_va hsp h
  · rw [exec_store hi]
    exact storeOp_va hsp h

/-- Settles O26: an access in order is located, and its effect is that of the place that serves it. -/
theorem loadsAndStores : Obligations.LoadsAndStores := ⟨scratchpadLoadAndStore, virtualLoadAndStore⟩

end Sys2Proof.Memory
end

section
/-! O29: full/empty words and the requests that wait for them (R201, R208, R225, R230, R231). -/

namespace Sys2Proof.Memory

open Sys2Proof Sys2Proof.Machine Sys2Proof.Claims Sys2Proof.Laws

variable {s t : State} {m : Mem} {o : Ops} {g : Got} {y : Slot} {u off w : Nat}

/-! ### The instructions -/

theorem exec_ldw {i : Instr} (hi : i ∈ [Instr.ldw o, .ldwLong o]) (s : State) : exec i s = s.run (fullLoad false o) := by
  simp only [List.mem_cons, List.not_mem_nil, or_false] at hi
  rcases hi with rfl | rfl <;> rfl

theorem exec_ldc {i : Instr} (hi : i ∈ [Instr.ldc o, .ldcLong o]) (s : State) : exec i s = s.run (fullLoad true o) := by
  simp only [List.mem_cons, List.not_mem_nil, or_false] at hi
  rcases hi with rfl | rfl <;> rfl

theorem exec_ste {i : Instr} (hi : i ∈ [Instr.ste o, .steLong o]) (s : State) : exec i s = s.run (emptyStore o) := by
  simp only [List.mem_cons, List.not_mem_nil, or_false] at hi
  rcases hi with rfl | rfl <;> rfl

theorem exec_feset {i : Instr} (hi : i ∈ [Instr.feset o, .fesetLong o]) (s : State) : exec i s = s.run (feSet o) := by
  simp only [List.mem_cons, List.not_mem_nil, or_false] at hi
  rcases hi with rfl | rfl <;> rfl

theorem exec_fetest {i : Instr} (hi : i ∈ [Instr.fetest o, .fetestLong o]) (s : State) : exec i s = s.run (feTest o) := by
  simp only [List.mem_cons, List.not_mem_nil, or_false] at hi
  rcases hi with rfl | rfl <;> rfl

theorem aligned_spAccess (h : SpAccess s o w g y u off) : aligned (behind s y) (eaOf o g) w = .ok () := aligned_ok _ h.2.1

theorem locateSp_spAccess (h : SpAccess s o w g y u off) : (behind s y).locateSp (eaOf o g) w = .ok (u, off) := locateSp_ok h.2.2

/-- LDW and LDC of full words that hold no error: the value, and the words as the instruction leaves them. -/
theorem fullLoad_full (h : SpAccess s o (wBytes (feType o)) g y u off) (ht : ∀ x ∈ spWords u off (wBytes (feType o)), s.mem.tag x = true)
    (hb : s.mem.spBad u off (wBytes (feType o)) = false) (clear : Bool) : s.run (fullLoad clear o) = .next { s with
      mem := if clear then s.mem.tagChange (spWords u off (wBytes (feType o))) false else s.mem, slot :=
        wrote y o (loadedVal (feType o) (readBytes s.mem.sram (spAddr u off) (wBytes (feType o)))) 4 } := by
  refine run_memory h.1 ?_
  dsimp only
  rw [aligned_spAccess h]
  dsimp only
  rw [locateSp_spAccess h]
  dsimp only
  rw [if_pos (by exact List.all_eq_true.2 ht), spRead_ok (t := behind s y) hb]
  dsimp only
  rw [loaded_eq]
  rfl

theorem emptyStore_empty (h : SpAccess s o (wBytes (feType o)) g y u off) (ht : ∀ x ∈ spWords u off (wBytes (feType o)), s.mem.tag x = false) :
    s.run (emptyStore o) = .next { s with
      mem := (s.mem.spPut u off (natToBytes (wBytes (feType o)) g.b.val.toNat)).tagChange (spWords u off (wBytes (feType o))) true, slot :=
        (y.retire o).owe 4 1 } := by
  refine run_memory h.1 ?_
  dsimp only
  rw [aligned_spAccess h]
  dsimp only
  rw [locateSp_spAccess h]
  dsimp only
  rw [if_pos]
  · rfl
  · exact List.all_eq_true.2 fun x hx => by rw [show (behind s y).mem.tag x = false from ht x hx]; rfl

/-- A request that waits changes nothing but its slot and the list of requests (R208, R225). -/
structure Awaited (s t : State) (y : Slot) (what : WaitKind) (u off : Nat) (q : Waiter) : Prop where
  slot  : t.slot = { y with busy := true }
  waits : t.mem.waits = s.mem.waits ++ [q]
  place : q.place = s.slot.place
  what  : q.what = what
  unit  : q.unit = u
  addr  : q.addr = off
  done  : q.done = none
  took  : q.took = s.slot.tookFrom y
  frame : { t with slot := s.slot, mem := { t.mem with waits := s.mem.waits } } = s

theorem await_awaited (s : State) (o : Ops) (y : Slot) (what : WaitKind) (u off w : Nat) (ea : Dword) (ds : List Dword) :
    ∃ q, Awaited s (s.await (behind s y) o what u off w ea ds) y what u off q := by
  unfold State.await
  dsimp only
  split <;> exact ⟨_, rfl, rfl, rfl, rfl, rfl, rfl, rfl, rfl, rfl⟩

theorem fullLoad_waits (h : SpAccess s o (wBytes (feType o)) g y u off) (ht : ∃ x ∈ spWords u off (wBytes (feType o)), s.mem.tag x ≠ true)
    (clear : Bool) : ∃ t q, s.run (fullLoad clear o) = .next t ∧ Awaited s t y (if clear then .ldc else .ldw) u off q := by
  obtain ⟨q, hq⟩ := await_awaited s o y (if clear then .ldc else .ldw) u off (wBytes (feType o)) (eaOf o g) []
  refine ⟨_, q, run_memory h.1 ?_, hq⟩
  obtain ⟨x, hx, hne⟩ := ht
  dsimp only
  rw [aligned_spAccess h]
  dsimp only
  rw [locateSp_spAccess h]
  dsimp only
  rw [if_neg]
  intro ha
  exact hne (List.all_eq_true.1 ha x hx)

theorem emptyStore_waits (h : SpAccess s o (wBytes (feType o)) g y u off) (ht : ∃ x ∈ spWords u off (wBytes (feType o)), s.mem.tag x ≠ false) :
    ∃ t q, s.run (emptyStore o) = .next t ∧ Awaited s t y .ste u off q := by
  obtain ⟨q, hq⟩ := await_awaited s o y .ste u off (wBytes (feType o)) (eaOf o g) [g.b.val]
  refine ⟨_, q, run_memory h.1 ?_, hq⟩
  obtain ⟨x, hx, hne⟩ := ht
  dsimp only
  rw [aligned_spAccess h]
  dsimp only
  rw [locateSp_spAccess h]
  dsimp only
  rw [if_neg]
  intro ha
  have hf : (!(s.mem.tag x)) = true := List.all_eq_true.1 ha x hx
  exact hne (by simpa using hf)

theorem spWords_one (u off : Nat) : spWords u off 4 = [spAddr u off / 4] := by simp [spWords]

theorem feSet_next (h : SpAccess s o 4 g y u off) : s.run (feSet o) = .next { s with
    mem := s.mem.tagChange [spAddr u off / 4] (o.f.getLsbD 0), slot := (y.retire o).owe 4 1 } := by
  refine run_memory h.1 ?_
  dsimp only
  rw [aligned_spAccess h]
  dsimp only
  rw [locateSp_spAccess h]
  dsimp only
  rw [spWords_one]
  rfl

theorem feTest_next (h : SpAccess s o 4 g y u off) :
    s.run (feTest o) = slotNext s (wrote y o (if s.mem.tag (spAddr u off / 4) then 1 else 0) 4) := by
  refine run_memory h.1 ?_
  dsimp only
  rw [aligned_spAccess h]
  dsimp only
  rw [locateSp_spAccess h]
  dsimp only
  rw [spWords_one, List.all_cons, List.all_nil, Bool.and_true]
  rfl

theorem fullEmptyInstructions_part : Claims.FullEmptyInstructions := by
  intro s o g y u off
  refine ⟨fun _ h => ⟨fun i hi ht hb => ?_, fun i hi ht hb => ?_, fun i hi ht => ?_, fun p hp ht => ?_⟩,
    fun h => ⟨fun i hi => ?_, fun i hi => ?_⟩⟩
  · rw [exec_ldw hi]
    exact fullLoad_full h ht hb false
  · rw [exec_ldc hi]
    exact fullLoad_full h ht hb true
  · rw [exec_ste hi]
    exact emptyStore_empty h ht
  · have waits : ∀ {t q}, exec p.1 s = .next t → Awaited s t y p.2.1 u off q → ∃ t q, exec p.1 s = .next t ∧ t.slot = { y with busy := true } ∧
        t.mem.waits = s.mem.waits ++ [q] ∧ q.place = s.slot.place ∧ q.what = p.2.1 ∧ q.unit = u ∧ q.addr = off ∧ q.done = none ∧
        q.took = s.slot.tookFrom y ∧ { t with slot := s.slot, mem := { t.mem with waits := s.mem.waits } } = s :=
      fun {t q} ht hq => ⟨t, q, ht, hq.slot, hq.waits, hq.place, hq.what, hq.unit, hq.addr, hq.done, hq.took, hq.frame⟩
    simp only [List.mem_cons, List.not_mem_nil, or_false] at hp
    rcases hp with rfl | rfl | rfl | rfl | rfl | rfl
    · obtain ⟨t, q, hr, hq⟩ := fullLoad_waits h ht false
      exact waits hr hq
    · obtain ⟨t, q, hr, hq⟩ := fullLoad_waits h ht false
      exact waits hr hq
    · obtain ⟨t, q, hr, hq⟩ := fullLoad_waits h ht true
      exact waits hr hq
    · obtain ⟨t, q, hr, hq⟩ := fullLoad_waits h ht true
      exact waits hr hq
    · obtain ⟨t, q, hr, hq⟩ := emptyStore_waits h ht
      exact waits hr hq
    · obtain ⟨t, q, hr, hq⟩ := emptyStore_waits h ht
      exact waits hr hq
  · rw [exec_feset hi]
    exact feSet_next h
  · rw [exec_fetest hi]
    exact feTest_next h

/-! ### The requests that wait -/

/-- Whether a request at a bank can be performed: it waits at its place, not refused, and its words are as it asks. -/
def Ready (m : Mem) (x : Waiter) : Prop := x.refused = none ∧ x.done = none ∧
  ((x.what = .ldw ∨ x.what = .ldc) ∧ (∀ k ∈ spWords x.unit x.addr x.width, m.tag k = true) ∨
    x.what = .ste ∧ ∀ k ∈ spWords x.unit x.addr x.width, m.tag k = false)

theorem ready_iff (m : Mem) (x : Waiter) : (x.refused = none && x.done = none && x.tagsOk m) = true ↔ Ready m x := by
  have ht : x.tagsOk m = true ↔ ((x.what = .ldw ∨ x.what = .ldc) ∧ (∀ k ∈ spWords x.unit x.addr x.width, m.tag k = true) ∨
      x.what = .ste ∧ ∀ k ∈ spWords x.unit x.addr x.width, m.tag k = false) := by
    unfold Waiter.tagsOk
    dsimp only
    split
    case h_4 h1 h2 h3 =>
      simp only [Bool.false_eq_true, false_iff]
      rintro (⟨h | h, -⟩ | ⟨h, -⟩)
      · exact h1 h
      · exact h2 h
      · exact h3 h
    all_goals next hw => simp [hw]
  rw [Bool.and_eq_true, Bool.and_eq_true, decide_eq_true_eq, decide_eq_true_eq, ht, and_assoc]
  rfl

/-- A request performed at its bank, with the memory that it leaves. -/
def servedAt (m : Mem) (x : Waiter) : Mem × Waiter :=
  if x.poisoned m then (m, { x with done := some [], err := true })
  else ((x.tagStep m (feType x.op)).1, { x with done := some (x.tagStep m (feType x.op)).2 })

/-- Requests that are not ready are passed over. -/
theorem serveFirst_none (f : Waiter → Nat) (ws ds : List Waiter) (h : ∀ x ∈ ws, ¬Ready m x) : serveFirst f m ds ws = none := by
  induction ws generalizing ds with
  | nil => rfl
  | cons x ws ih =>
    rw [serveFirst, if_neg (fun hc => h x (by simp) ((ready_iff m x).1 hc))]
    exact ih _ (fun z hz => h z (by simp [hz]))

/-- The first request that is ready is performed, and every request keeps its place (R208). -/
theorem serveFirst_ready (pre post ds : List Waiter) (x : Waiter) (hpre : ∀ z ∈ pre, ¬Ready m z) (hx : Ready m x) :
    serveFirst (fun x => feType x.op) m ds (pre ++ x :: post) =
      some { (servedAt m x).1 with waits := ds ++ (pre ++ (servedAt m x).2 :: post) } := by
  induction pre generalizing ds with
  | nil =>
    rw [List.nil_append, serveFirst, if_pos ((ready_iff m x).2 hx)]
    unfold servedAt
    split <;> rfl
  | cons z pre ih =>
    rw [List.cons_append, serveFirst, if_neg (fun hc => hpre z (by simp) ((ready_iff m z).1 hc)),
      ih (ds ++ [z]) (fun v hv => hpre v (by simp [hv]))]
    simp

/-- Either no request is ready, or the first that is splits the list. -/
theorem ready_split (m : Mem) (ws : List Waiter) :
    (∀ x ∈ ws, ¬Ready m x) ∨ ∃ pre x post, ws = pre ++ x :: post ∧ (∀ z ∈ pre, ¬Ready m z) ∧ Ready m x := by
  induction ws with
  | nil => exact .inl (fun x hx => absurd hx List.not_mem_nil)
  | cons z ws ih =>
    by_cases hz : Ready m z
    · exact .inr ⟨[], z, ws, rfl, fun v hv => absurd hv List.not_mem_nil, hz⟩
    · rcases ih with ih | ⟨pre, x, post, rfl, hp, hx⟩
      · refine .inl (fun v hv => ?_)
        rcases List.mem_cons.1 hv with rfl | hv
        · exact hz
        · exact ih v hv
      · refine .inr ⟨z :: pre, x, post, rfl, fun v hv => ?_, hx⟩
        rcases List.mem_cons.1 hv with rfl | hv
        · exact hz
        · exact hp v hv

theorem serveTags_none (n : Nat) (h : ∀ x ∈ m.waits, ¬Ready m x) : m.serveTags n = m := by
  cases n with
  | zero => rfl
  | succ n => rw [Mem.serveTags, serveFirst_none _ _ _ h]

theorem serveTags_ready {pre post : List Waiter} {x : Waiter} (hw : m.waits = pre ++ x :: post) (hpre : ∀ z ∈ pre, ¬Ready m z)
    (hx : Ready m x) (n : Nat) : m.serveTags (n + 1) = Mem.serveTags { (servedAt m x).1 with waits := pre ++ (servedAt m x).2 :: post } n := by
  rw [Mem.serveTags, hw, serveFirst_ready pre post [] x hpre hx]
  rfl

theorem servedAt_place (m : Mem) (x : Waiter) : (servedAt m x).2.place = x.place ∧ (servedAt m x).2.done ≠ none := by
  unfold servedAt
  split <;> exact ⟨rfl, by simp⟩

/-- With as many turns as there are requests still waiting, the service ends with none ready; the order of the requests stays. -/
theorem serveTags_all (n : Nat) (h : (m.waits.filter (fun x => x.done == none)).length ≤ n) :
    (m.serveTags n).waits.map (fun x => x.place) = m.waits.map (fun x => x.place) ∧ ∀ x ∈ (m.serveTags n).waits, ¬Ready (m.serveTags n) x := by
  induction n generalizing m with
  | zero =>
    refine ⟨rfl, fun x hx hr => ?_⟩
    have : x ∈ m.waits.filter (fun x => x.done == none) := List.mem_filter.2 ⟨hx, by simp [hr.2.1]⟩
    rw [List.eq_nil_of_length_eq_zero (Nat.le_zero.1 h)] at this
    exact absurd this List.not_mem_nil
  | succ n ih =>
    rcases ready_split m m.waits with hn | ⟨pre, x, post, hw, hpre, hx⟩
    · rw [serveTags_none _ hn]
      exact ⟨rfl, hn⟩
    · obtain ⟨hp, hd⟩ := servedAt_place m x
      rw [serveTags_ready hw hpre hx]
      obtain ⟨h1, h2⟩ := ih (m := { (servedAt m x).1 with waits := pre ++ (servedAt m x).2 :: post }) (by
        rw [hw] at h
        simp [List.filter_append, hx.2.1, hd] at h ⊢
        omega)
      refine ⟨?_, h2⟩
      rw [h1, hw]
      simp [hp]

theorem setTags_tag {ws : List Nat} {v : Bool} (h : twf false m.full = true) (k : Nat) : (m.setTags ws v).tag k = if k ∈ ws then v else m.tag k := by
  have key : ∀ (ws : List Nat) (t : Tbl Bool), twf false t = true →
      tget false (ws.foldl (fun t w => tput false t w v) t) k = if k ∈ ws then v else tget false t k := by
    intro ws
    induction ws with
    | nil => intro t _; rfl
    | cons x ws ih =>
      intro t ht
      rw [List.foldl_cons, ih _ (twf_tput ht _ _), tget_tput ht]
      by_cases h1 : k ∈ ws <;> by_cases h2 : k = x <;> simp [h1, h2]
  exact key ws m.full h

theorem tagWaiters : Claims.TagWaiters := by
  intro m ws v
  refine ⟨⟨rfl, fun h k => setTags_tag h k, ?_⟩, fun n h => serveTags_none n h, fun pre post x n hw hpre hx => ?_⟩
  · exact serveTags_all (m := m.setTags ws v) _ (List.length_filter_le _ _)
  · have hstep := serveTags_ready hw hpre hx n
    have hty : tyOf x.op 14 = feType x.op := rfl
    refine ⟨fun hs hb => ?_, fun hb hk => ?_, fun hb hk => ?_, fun hk => ?_⟩
    · have hp : x.poisoned m = true := by
        obtain ⟨-, -, ⟨hk | hk, -⟩ | ⟨hk, -⟩⟩ := hx
        · simp [Waiter.poisoned, hk, hb]
        · simp [Waiter.poisoned, hk, hb]
        · exact absurd hk hs
      rw [hstep, servedAt, if_pos hp]
      simp only [Bool.or_true]
    · have hp : x.poisoned m = false := by simp [Waiter.poisoned, hb]
      rw [hstep, servedAt, hp, hty]
      simp only [Waiter.tagStep, hk, Bool.or_false]
      rw [← loaded_bytes]
      rfl
    · have hp : x.poisoned m = false := by simp [Waiter.poisoned, hb]
      rw [hstep, servedAt, hp, hty]
      simp only [Waiter.tagStep, hk, Bool.or_false]
      rw [← loaded_bytes]
      rfl
    · have hp : x.poisoned m = false := by simp [Waiter.poisoned, hk]
      rw [hstep, servedAt, hp]
      simp only [Waiter.tagStep, hk, Bool.or_false]
      rfl

/-- Settles O29: an instruction performs its access or waits with it, and the service takes the first request that is ready. -/
theorem fullEmptyInstructions : Obligations.FullEmptyInstructions := ⟨fullEmptyInstructions_part, tagWaiters⟩

end Sys2Proof.Memory
end

section
/-! O31: the cache instructions (R211, R235 to R238) and what the movements of a line leave (R206). -/

namespace Sys2Proof.Memory

open Sys2Proof Sys2Proof.Machine Sys2Proof.Claims Sys2Proof.Laws

variable {s t : State} {m : Mem} {o : Ops} {g : Got} {y : Slot} {pa : Nat}

/-! ### The movements of a line -/

theorem lineMovements : Claims.LineMovements := by
  rintro m u ctx line cap hc
  refine ⟨?_, ?_, fun l hl => ?_⟩
  · rintro n rfl
    exact ⟨l1Fill_l1At_self m u ctx line, fun h pa => ⟨(l1Fill_moves hc h).homeByte pa, fun v => l1Fill_seen hc h v pa⟩⟩
  · rintro n rfl
    have hd := l1Trim_dropped hc u cap ctx
    exact ⟨fun h => l1Trim_within h ctx, fun pa => ⟨fun v l hv hl => (hd.others v _ hv).trans hl, hd.home pa⟩⟩
  · refine ⟨?_, ?_, fun pa => ⟨l1Clean_homeByte hc hl ctx pa, l1Drop_homeByte_eq m u line ctx pa⟩⟩
    · rw [l1Clean_l1At hl, if_pos ⟨rfl, rfl⟩]
    · rw [l1Drop_l1At, if_pos ⟨rfl, rfl⟩]

/-! ### PFT -/

theorem exec_pft {i : Instr} (hi : i ∈ [Instr.pft o, .pftImm o, .pftLong o]) (s : State) : exec i s = s.run (pftOp o) := by
  simp only [List.mem_cons, List.not_mem_nil, or_false] at hi
  rcases hi with rfl | rfl | rfl <;> rfl

theorem exec_clwb {i : Instr} (hi : i ∈ [Instr.clwb o, .clwbImm o, .clwbLong o]) (s : State) : exec i s = s.run (cacheOp false o) := by
  simp only [List.mem_cons, List.not_mem_nil, or_false] at hi
  rcases hi with rfl | rfl | rfl <;> rfl

theorem exec_clinv {i : Instr} (hi : i ∈ [Instr.clinv o, .clinvImm o, .clinvLong o]) (s : State) : exec i s = s.run (cacheOp true o) := by
  simp only [List.mem_cons, List.not_mem_nil, or_false] at hi
  rcases hi with rfl | rfl | rfl <;> rfl

/-- The line that a PFT finds (R236): on an MU page, or in a present granule of a WO page. -/
def Found (s : State) (ea : Dword) (t : State) (pa : Nat) : Prop :=
  s.locateVa ea .mu false false = .ok (t, .mem pa) ∨
    ((∀ t pa, ¬s.locateVa ea .mu false false = .ok (t, .mem pa)) ∧ s.locateVa ea .wo false false = .ok (t, .mem pa) ∧
      t.mem.isPresent (pa / 8) = true)

theorem hintPlace_iff {ea : Dword} : s.hintPlace ea = some (t, pa) ↔ Found s ea t pa := by
  unfold State.hintPlace Found
  split
  · rename_i t' pa' h
    simp [h]
  · rename_i hmu
    have hno : ∀ t pa, ¬s.locateVa ea .mu false false = .ok (t, .mem pa) := fun t pa h => hmu t pa h
    simp only [hno, false_or]
    split
    · rename_i t' pa' h
      rw [h]
      by_cases hp : t'.mem.isPresent (pa' / 8) = true
      · rw [if_pos hp]
        simp only [Option.some.injEq, Prod.mk.injEq, Except.ok.injEq, Loc.mem.injEq]
        constructor
        · rintro ⟨rfl, rfl⟩
          exact ⟨fun _ _ => id, ⟨rfl, rfl⟩, hp⟩
        · rintro ⟨-, h, -⟩
          exact h
      · rw [if_neg hp]
        simp only [Except.ok.injEq, Prod.mk.injEq, Loc.mem.injEq]
        constructor
        · intro h
          cases h
        · rintro ⟨-, ⟨rfl, rfl⟩, h⟩
          exact absurd h hp
    · rename_i hwo
      constructor
      · intro h
        cases h
      · rintro ⟨-, h, -⟩
        exact absurd h (hwo t pa)

theorem hintPlace_none {ea : Dword} (h : ∀ t pa, ¬Found s ea t pa) : s.hintPlace ea = none := by
  cases hp : s.hintPlace ea with
  | none => rfl
  | some r => exact absurd (hintPlace_iff.1 hp) (h r.1 r.2)

/-- A line found is found in the state with memory alone changed. -/
theorem Found.frame {ea : Dword} (h : Found s ea t pa) : t = { s with mem := t.mem } := by
  rcases h with h | ⟨-, h, -⟩
  · exact locateVa_frame h
  · exact locateVa_frame h

theorem fetch_place (h : Fetches s o .z g y) : (behind s y).slotUnit = s.slotUnit ∧ (behind s y).slotCtx = s.slotCtx := by
  obtain ⟨ins, a, b, c, rfl, -, -⟩ := readsWith_spec (fetchWith_ok.mp h.2).1
  exact ⟨rfl, rfl⟩

theorem pftOp_dropped (h : Fetches s o .z g y)
    (hd : ((behind s y).hintPlace (eaOf o g)).bind (fun r => r.1.prefetch (o.f.getLsbD 0) r.2) = none) :
    s.run (pftOp o) = slotNext s ((y.retire o).owe 0 1) := by
  refine run_memory h ?_
  dsimp only
  rw [hd]
  rfl

theorem pftOp_found (h : Fetches s o .z g y) {u : State} (hp : Found (behind s y) (eaOf o g) t pa)
    (hd : t.prefetch (o.f.getLsbD 0) pa = some u) :
    s.run (pftOp o) = .next (u.done o none (if o.f.getLsbD 0 then 6 else 5) 1) := by
  refine run_memory h ?_
  dsimp only
  rw [hintPlace_iff.2 hp, Option.bind_some, hd]

/-! ### FENCE -/

theorem fence_waits (hi : s.canIssue = true) (h : ∃ w ∈ s.mem.waits, w.place = s.slot.place) : exec (.fence o) s = .next { s with stall := true } := by
  refine run_wait hi ?_
  obtain ⟨w, hw, hp⟩ := h
  exact if_pos (List.any_eq_true.2 ⟨w, hw, by simp [hp]⟩)

theorem fence_next (hi : s.canIssue = true) (h : ∀ w ∈ s.mem.waits, w.place ≠ s.slot.place) : exec (.fence o) s = .next { s with
    slot := (({ s.slot with sysFence := s.slot.sysFence || o.f.toNat % 8 == 4 } : Slot).retire o).owe 0 1,
    mem := if o.f.toNat % 8 ≤ 1 then s.mem else s.mem.l1DropAll s.slotUnit (fun l =>
      l.ctx == s.slotCtx && (o.f.toNat % 8 != 2 || l.line / 2 ^ 30 == dieOf s.slotUnit)) s.slotCtx } := by
  refine run_ok hi ?_
  refine (if_neg ?_).trans rfl
  intro ha
  obtain ⟨w, hw, hp⟩ := List.any_eq_true.1 ha
  exact h w hw (by simpa using hp)

theorem cacheOp_next (drop : Bool) (h : Fetches s o .z g y) (hl : (behind s y).locateVa (eaOf o g) .mu false false = .ok (t, .mem pa)) :
    s.run (cacheOp drop o) = .next (({ t with
      mem := if (t.mem.l1At t.slotUnit (pa / 128)).any (fun l => l.ctx == t.slotCtx) then
        (if drop then t.mem.l1Drop t.slotUnit (pa / 128) t.slotCtx else t.mem.l1Clean t.slotUnit (pa / 128) t.slotCtx) else t.mem } :
          State).done o none 5 1) := by
  refine run_memory h ?_
  dsimp only
  rw [hl]
  dsimp only
  cases (t.mem.l1At t.slotUnit (pa / 128)).any (fun l => l.ctx == t.slotCtx) <;> rfl

theorem cacheInstructions_part : Claims.CacheInstructions := by
  intro s o g y
  refine ⟨fun h i hi => ?_, fun t pa h hl => ⟨fun i hi => ?_, fun i hi => ?_⟩, fun hi => ⟨fence_waits hi, fence_next hi⟩⟩
  · rw [exec_pft hi]
    refine ⟨fun hn => ?_, fun t pa hp => ?_⟩
    · have hnone : (behind s y).hintPlace (eaOf o g) = none := hintPlace_none hn
      exact pftOp_dropped h (by rw [hnone]; rfl)
    · replace hp : Found (behind s y) (eaOf o g) t pa := hp
      have hf : t = { behind s y with mem := t.mem } := Found.frame hp
      obtain ⟨hu, hx⟩ := fetch_place h
      have hu' : t.slotUnit = s.slotUnit := by rw [hf]; exact hu
      have hx' : t.slotCtx = s.slotCtx := by rw [hf]; exact hx
      have hm : t.mt s.slotUnit = s.mt s.slotUnit := by rw [hf]; rfl
      refine ⟨fun hb => ?_, fun hb hs => ?_, fun hb hs => ?_⟩
      · rw [pftOp_found h hp (by rw [hb]; exact if_pos rfl), hb, hx']
        rfl
      · refine pftOp_dropped h ?_
        rw [hintPlace_iff.2 hp, Option.bind_some, hb]
        unfold State.prefetch
        rw [if_neg (by simp), hu', hm, if_pos hs]
      · refine (pftOp_found h hp (u := ({ t with mem := t.mem.l1Fill t.slotUnit t.slotCtx (pa / 128) } : State).l1Settle t.slotUnit t.slotCtx) ?_).trans ?_
        · unfold State.prefetch
          rw [hb, if_neg (by simp), hu', hm, if_neg (by omega)]
        · rw [hb, hu', hx']
          unfold State.l1Settle
          have hm' : ({ t with mem := t.mem.l1Fill s.slotUnit s.slotCtx (pa / 128) } : State).mt s.slotUnit = s.mt s.slotUnit := hm
          rw [hm']
          rfl
  · rw [exec_clwb hi]
    exact cacheOp_next false h hl
  · rw [exec_clinv hi]
    exact cacheOp_next true h hl

/-- Settles O31: each instruction by what it finds, and the movements of a line by the rules of the caches. -/
theorem cacheInstructions : Obligations.CacheInstructions := ⟨cacheInstructions_part, lineMovements⟩

end Sys2Proof.Memory
end

section
/-! O30: write-once granules (R203 to R205, R221, R233, R234). -/

namespace Sys2Proof.Memory

open Sys2Proof Sys2Proof.Machine Sys2Proof.Claims Sys2Proof.Laws

variable {s t : State} {m : Mem} {o : Ops} {g : Got} {y : Slot} {pa : Nat}

/-! ### The value of a held or present granule -/

theorem bytesToNat_drop (bs : List Byte) (k : Nat) : bytesToNat (bs.drop k) = bytesToNat bs / 256 ^ k := by
  induction bs generalizing k with
  | nil => simp [bytesToNat]
  | cons b bs ih =>
    cases k with
    | zero => simp
    | succ k =>
      have hb := b.isLt
      rw [List.drop_succ_cons, ih, bytesToNat, Nat.pow_succ', ← Nat.div_div_eq_div_mul, show (b.toNat + 256 * bytesToNat bs) / 256 = bytesToNat bs by omega]

theorem bytesToNat_take (bs : List Byte) (k : Nat) : bytesToNat (bs.take k) = bytesToNat bs % 256 ^ k := by
  induction bs generalizing k with
  | nil => simp [bytesToNat]
  | cons b bs ih =>
    cases k with
    | zero => simp [bytesToNat, Nat.mod_one]
    | succ k =>
      have hb := b.isLt
      rw [List.take_succ_cons, bytesToNat, bytesToNat, ih, Nat.pow_succ', Nat.mod_mul,
        show (b.toNat + 256 * bytesToNat bs) / 256 = bytesToNat bs by omega, show (b.toNat + 256 * bytesToNat bs) % 256 = b.toNat by omega]

theorem pow_bytes (k : Nat) : 2 ^ (8 * k) = 256 ^ k := by rw [Nat.pow_mul]

/-- The value that an LDP brings is the loaded value of the bytes that it names (R232). -/
theorem ldpValue_eq (ty w k : Nat) (bs : List Byte) : ldpValue ty w k (bytesToNat bs) = loadedVal ty ((bs.drop k).take w) := by
  rw [← loaded_bytes, bytesToNat_take, bytesToNat_drop, ldpValue, pow_bytes, pow_bytes]

/-! ### LDP -/

theorem exec_ldp {i : Instr} (hi : i ∈ [Instr.ldp o, .ldpImm o, .ldpLong o]) (s : State) : exec i s = s.run (ldpOp o) := by
  simp only [List.mem_cons, List.not_mem_nil, or_false] at hi
  rcases hi with rfl | rfl | rfl <;> rfl

theorem exec_sto {i : Instr} (hi : i ∈ [Instr.sto o, .stoLong o]) (s : State) : exec i s = s.run (stoOp o) := by
  simp only [List.mem_cons, List.not_mem_nil, or_false] at hi
  rcases hi with rfl | rfl <;> rfl

theorem exec_ptest {i : Instr} (hi : i ∈ [Instr.ptest o, .ptestImm o, .ptestLong o]) (s : State) : exec i s = s.run (ptestOp o) := by
  simp only [List.mem_cons, List.not_mem_nil, or_false] at hi
  rcases hi with rfl | rfl | rfl <;> rfl

theorem va_frame {w : Nat} {k : PageKind} {r wr : Bool} (h : VaAccess s o w k r wr g y t pa) : t = { behind s y with mem := t.mem } :=
  locateVa_frame h.2.2

theorem va_aligned {w : Nat} {k : PageKind} {r wr : Bool} (h : VaAccess s o w k r wr g y t pa) :
    aligned (behind s y) (eaOf o g) w = .ok () := aligned_ok _ h.2.1

theorem va_located {w : Nat} {k : PageKind} {r wr : Bool} (h : VaAccess s o w k r wr g y t pa) :
    (behind s y).locateVa (eaOf o g) k r wr = .ok (t, .mem pa) := h.2.2

/-- The partition of the slot stays its own behind an access. -/
theorem va_part {w : Nat} {k : PageKind} {r wr : Bool} (h : VaAccess s o w k r wr g y t pa) :
    t.part t.slot.prt = s.part s.slot.prt := by
  rw [va_frame h]
  show s.part y.prt = _
  rw [(Numbers.fetch_keeps_place h.1.2).1]

/-- An access that waits at its place: the slot is busy, and the request is the last of memory's (R204, R208, R225). -/
theorem await_at (s t : State) (o : Ops) (what : WaitKind) (u a w : Nat) (ea : Dword) (ds : List Dword) :
    ∃ q : Waiter, (s.await t o what u a w ea ds).slot = { t.slot with busy := true } ∧
      (s.await t o what u a w ea ds).mem.waits = t.mem.waits ++ [q] ∧ q.place = s.slot.place ∧ q.what = what ∧ q.addr = a ∧ q.done = none ∧
      q.took = s.slot.tookFrom t.slot ∧ q.unit = u ∧ q.data = ds := by
  unfold State.await
  dsimp only
  split <;> exact ⟨_, rfl, rfl, rfl, rfl, rfl, rfl, rfl, rfl, rfl⟩

section
variable (h : VaAccess s o (wBytes (ldpType o)) .wo true false g y t pa)
include h

/-- An LDP of a present granule whose line holds no error, as the edge of its launch leaves memory (R221, R233). -/
theorem ldp_present (hp : t.mem.isPresent (pa / 8) = true) (hb : (t.mem.l2Fill t.slotCtx (pa / 128)).homeBad pa = false) :
    s.run (ldpOp o) = .next ((({ t with mem := t.mem.l2Fill t.slotCtx (pa / 128) } : State).crossPart (s.part s.slot.prt) pa).done o
      (some (loadedVal (ldpType o) (((t.mem.l2Fill t.slotCtx (pa / 128)).homeBytes (pa / 8 * 8) 8).drop (pa % 8) |>.take (wBytes (ldpType o)))))
        6 1) := by
  refine run_memory h.1 ?_
  dsimp only
  rw [va_aligned h]
  dsimp only
  rw [va_located h]
  dsimp only
  rw [hp, Bool.not_true, if_neg Bool.false_ne_true, if_neg (by rw [Mem.granBad, hb]; exact Bool.false_ne_true), ← ldpValue_eq, State.crossEdge]
  rw [← va_part h]
  rfl

theorem ldp_bad (hp : t.mem.isPresent (pa / 8) = true) (hb : (t.mem.l2Fill t.slotCtx (pa / 128)).homeBad pa = true) :
    ∃ m, s.run (ldpOp o) = .next (({ s with mem := m } : State).raise { code := 0x25, addr := g.a.val + immVal o }) := by
  refine run_memory_moved h.1 (t := { t with mem := t.mem.l2Fill t.slotCtx (pa / 128) }) ?_ ?_
  · dsimp only
    rw [va_aligned h]
    dsimp only
    rw [va_located h]
    dsimp only
    rw [hp, Bool.not_true, if_neg Bool.false_ne_true, if_pos (by exact hb)]
    rfl
  · rw [va_frame h]

theorem ldp_absent (hp : t.mem.isPresent (pa / 8) = false) : s.run (ldpOp o) =
    .next (s.await t o .ldp 0 pa (wBytes (ldpType o)) (eaOf o g) []) := by
  refine run_memory h.1 ?_
  dsimp only
  rw [va_aligned h]
  dsimp only
  rw [va_located h]
  dsimp only
  rw [hp, Bool.not_false, if_pos rfl]

end

theorem crossPart_same {q : Part} (h : tget 0 s.mem.fenced (pa / 8) = 0 ∨ tget 0 s.mem.fenced (pa / 8) = q.queueTag) : s.crossPart q pa = s := by
  unfold State.crossPart
  exact if_pos (by simpa using h)

theorem crossPart_other {q : Part} (h0 : tget 0 s.mem.fenced (pa / 8) ≠ 0) (h1 : tget 0 s.mem.fenced (pa / 8) ≠ q.queueTag) :
    s.crossPart q pa = { s with mem := s.mem.l1DropUnits q.cus (fun l => l.ctx == q.ctx) q.ctx } := by
  unfold State.crossPart
  exact if_neg (by simp [h0, h1])

/-! ### STO -/

section
variable (hw : wBytes (ldpType o) = 8) (h : VaAccess s o 8 .wo false true g y t pa)
include hw h

/-- The single write of an absent granule, noted where its slot has performed a FENCE of system scope (R203, R221). -/
theorem sto_absent (hp : t.mem.isPresent (pa / 8) = false) : s.run (stoOp o) = .next (({ t with
    mem := if y.sysFence then (t.mem.woPut (pa / 8) g.b.val.toNat).tagFence (pa / 8) (s.part s.slot.prt).queueTag
    else t.mem.woPut (pa / 8) g.b.val.toNat } : State).done o none 6 1) := by
  have ha : (eaOf o g).toNat % 8 = 0 := h.2.1
  have hy : t.slot = y := by rw [va_frame h]; rfl
  refine run_memory h.1 ?_
  dsimp only
  rw [if_neg (by simp [hw, ha]), va_located h]
  dsimp only
  rw [hp, if_neg Bool.false_ne_true, va_part h, hy]

theorem sto_present (hp : t.mem.isPresent (pa / 8) = true) :
    ∃ m, s.run (stoOp o) = .next (({ s with mem := m } : State).raise { code := 0x24, addr := g.a.val + immVal o }) := by
  have ha : (eaOf o g).toNat % 8 = 0 := h.2.1
  refine run_memory_moved h.1 (t := t) ?_ (va_frame h)
  dsimp only
  rw [if_neg (by simp [hw, ha]), va_located h]
  exact if_pos hp

end

/-- A read held for a granule is completed by its single write (R204). -/
theorem woPut_completes {x : Waiter} (hx : x ∈ m.waits) (hk : x.what = .ldp) (hd : x.done = none) (hr : x.refused = none)
    (ha : x.addr / 8 = pa / 8) (hb : m.homeBad x.addr = false) (v : Nat) :
    { x with done := some [ldpValue (ldpType x.op) x.width (x.addr % 8) v] } ∈ (m.woPut (pa / 8) v).waits := by
  refine List.mem_map.2 ⟨x, hx, ?_⟩
  rw [if_pos (by simp [hk, hd, hr, ha]), Waiter.ldpDone]
  exact if_neg (by rw [Bool.not_eq_true]; exact hb)

theorem ptest_next (h : VaAccess s o 1 .wo true false g y t pa) :
    s.run (ptestOp o) = .next (t.done o (some (if t.mem.isPresent (pa / 8) then 1 else 0)) 6 1) := by
  refine run_memory h.1 ?_
  dsimp only
  rw [va_located h]
  rfl

theorem writeOnceInstructions : Claims.WriteOnceInstructions := by
  intro s t o g y pa
  refine ⟨fun _ h i hi => ?_, fun hw h i hi => ?_, fun h i hi => ?_⟩
  · rw [exec_ldp hi]
    refine ⟨fun hp hb => ?_, ldp_bad h, fun hp => ?_⟩
    · have hf : (t.mem.l2Fill t.slotCtx (pa / 128)).fenced = t.mem.fenced := (l2Fill_frame _ _ _).cache.fenced
      constructor
      · intro hq
        refine (ldp_present h hp hb).trans ?_
        rw [crossPart_same (by rw [hf]; exact hq)]
        rfl
      · intro h0 h1
        refine (ldp_present h hp hb).trans ?_
        rw [crossPart_other (by rw [hf]; exact h0) (by rw [hf]; exact h1)]
        rfl
    · have hy : t.slot = y := by rw [va_frame h]; rfl
      obtain ⟨q, hs, hm, hq, hk, ha, hd, ht, -⟩ := await_at s t o .ldp 0 pa (wBytes (ldpType o)) (eaOf o g) []
      rw [hy] at hs ht
      exact ⟨_, q, ldp_absent h hp, hs, hm, hq, hk, ha, hd, ht⟩
  · rw [exec_sto hi]
    refine ⟨fun hp => ⟨sto_absent hw h hp, fun _ => ?_, fun x hx => ?_, fun x hx hk hd hr ha hb => ?_⟩, sto_present hw h⟩
    · rw [woPut_isPresent, if_pos rfl]
    · rw [woPut_isPresent, if_neg hx]
    · exact woPut_completes hx hk hd hr ha hb _
  · rw [exec_ptest hi]
    exact ptest_next h

/-! ### PCLR -/

theorem clearPresence : Claims.ClearPresence := by
  intro s t o g y rs h ha hb hlo hhi hr
  have hgo : (g.a.val.toNat % 8 ≠ 0 || g.b.val.toNat % 8 ≠ 0 || g.b.val.toNat < 8 || 2 ^ 34 < g.b.val.toNat) = false := by
    simp [ha, hb]
    omega
  have hrun : s.run (pclrOp o) = .next (({ t with
      mem := { t.mem with clears := t.mem.clears ++ rs.map (fun r => (s.slot.prt, r.1, r.2)) } } : State).done o none 0 1) := by
    refine run_memory h ?_
    dsimp only
    rw [hgo, if_neg Bool.false_ne_true, hr]
  exact ⟨_, hrun, rfl, rfl, rfl⟩

/-- Settles O30. -/
theorem writeOnceMemory : Obligations.WriteOnceMemory := ⟨writeOnceInstructions, clearPresence⟩

end Sys2Proof.Memory
end

section
/-! O33: copies handed over and the ring protocol (R248 to R256). -/

namespace Sys2Proof.Memory

open Sys2Proof Sys2Proof.Machine Sys2Proof.Claims Sys2Proof.Laws

/-! ### What translations leave -/

/-- What a translation may change: bytes of the tables in their caches and at their home, and the TLBs (R207, R262). -/
def Translated (s t : State) : Prop := t = { s with
  mem := { s.mem with
    hbm := t.mem.hbm, l2 := t.mem.l2, badLine := t.mem.badLine, notes := t.mem.notes, dieTlb := t.mem.dieTlb, mtTlb := t.mem.mtTlb } }

section
variable {s t u : State}

theorem Translated.refl (s : State) : Translated s s := rfl

theorem Translated.trans (h : Translated s t) (k : Translated t u) : Translated s u := by
  rw [Translated] at h k ⊢
  rw [k, h]

theorem Translated.slot (h : Translated s t) : t.slot = s.slot := by rw [h]
theorem Translated.mts (h : Translated s t) : t.mts = s.mts := by rw [h]
theorem Translated.parts (h : Translated s t) : t.parts = s.parts := by rw [h]
theorem Translated.ctxs (h : Translated s t) : t.ctxs = s.ctxs := by rw [h]
theorem Translated.cmds (h : Translated s t) : t.cmds = s.cmds := by rw [h]
theorem Translated.nextCmd (h : Translated s t) : t.nextCmd = s.nextCmd := by rw [h]
theorem Translated.waits (h : Translated s t) : t.mem.waits = s.mem.waits := by rw [h]
theorem Translated.sram (h : Translated s t) : t.mem.sram = s.mem.sram := by rw [h]

theorem translateTables_translated {c v va : Nat} {tr : Tr} (h : translateTables s v c va = .ok (t, tr)) : Translated s t := by
  unfold translateTables at h
  split at h
  · cases h
  · split at h
    · cases h; exact .refl _
    · dsimp only at h
      split at h
      · cases h; rfl
      · split at h
        · cases h
        · rename_i k e hw
          have hf := (walk_spec hw).1
          cases h
          rw [L2Frame] at hf
          rw [Translated, hf]

theorem translate_translated {c v va : Nat} {tr : Tr} (h : Machine.translate s v c va = .ok (t, tr)) : Translated s t := by
  unfold Machine.translate at h
  split at h
  · split at h
    · cases h
    · cases h; exact .refl _
  · exact translateTables_translated h

theorem translateAll_translated {c v : Nat} {vas : List Nat} {ts : List (Nat × Tr)} (h : translateAll s v c vas = .ok (t, ts)) :
    Translated s t := by
  induction vas generalizing s ts with
  | nil => cases h; exact .refl _
  | cons va vas ih =>
    rw [translateAll] at h
    split at h
    · exact ih h
    · split at h
      · cases h
      · rename_i htr
        split at h
        · cases h
        · rename_i hall
          cases h
          exact (translate_translated htr).trans (ih hall)

end

/-! ### The steps of a ring at its MT -/

section
variable {m : Mt} {h : Dword}

theorem passed_iff (cur c : Word) : passed cur c = true ↔ 1 ≤ (cur - c).toNat ∧ (cur - c).toNat ≤ 2 ^ 31 := by
  simp [passed]

theorem sideOf_put (hw : twf {} m.side = true) (i : Nat) (x : SideLine) (r : Tbl RingCtl) :
    ({ m with side := tput {} m.side (hLine h i) x, rings := r } : Mt).sideOf h i = x := by
  rw [Mt.sideOf, tget_tput hw, if_pos rfl]

theorem ring_put (hw : twf {} m.rings = true) (x : RingCtl) (sd : Tbl SideLine) :
    ({ m with side := sd, rings := tput {} m.rings (hRing h) x } : Mt).ring h = x := by
  rw [Mt.ring, tget_tput hw, if_pos rfl]

theorem only_put (hw : twf {} m.side = true) (i : Nat) (x : SideLine) (l : Nat) (hl : l ≠ hLine h i) :
    tget {} (tput {} m.side (hLine h i) x) l = tget {} m.side l := by
  rw [tget_tput hw, if_neg hl]

theorem takenAt_set (r : RingCtl) (n : Word) (cur : Vector Word 4) (hd : Option Dword) {k : Nat} (hk : k < 4) (v : Bool) (q : Nat) :
    RingCtl.takenAt { r with next := n, cur := cur, handle := hd, taken := r.taken.set k v hk } q = if q = k then v else r.takenAt q := by
  unfold RingCtl.takenAt
  by_cases hq : q < 4
  · simp only [dif_pos hq, Vector.getElem_set, eq_comm]
  · rw [dif_neg hq, dif_neg hq, if_neg (by omega)]

theorem curAt_set (r : RingCtl) (n : Word) (tk : Vector Bool 4) (hd : Option Dword) {k : Nat} (hk : k < 4) (v : Word) (q : Nat) :
    RingCtl.curAt { r with next := n, taken := tk, handle := hd, cur := r.cur.set k v hk } q = if q = k then v else r.curAt q := by
  unfold RingCtl.curAt
  by_cases hq : q < 4
  · simp only [dif_pos hq, Vector.getElem_set, eq_comm]
  · rw [dif_neg hq, dif_neg hq, if_neg (by omega)]

/-- The control of a ring whose consumer has released its slot: its cursor moved on, and nothing taken. -/
def released (r : RingCtl) {k : Nat} (hk : k < 4) : RingCtl :=
  { r with taken := r.taken.set k false hk, cur := r.cur.set k (r.curAt k + 1) hk }

theorem released_curAt (r : RingCtl) {k : Nat} (hk : k < 4) (q : Nat) : (released r hk).curAt q = if q = k then r.curAt k + 1 else r.curAt q :=
  curAt_set r _ _ _ hk _ q

theorem released_takenAt (r : RingCtl) {k : Nat} (hk : k < 4) (q : Nat) : (released r hk).takenAt q = if q = k then false else r.takenAt q :=
  takenAt_set r _ _ _ hk _ q

/-- A release moves a cursor on, and empties the slot that every cursor has passed (R252, R254). -/
theorem release_eq {k : Nat} (hk : k < 4) : m.release h k = { m with
    side := if (List.range (hConsumers h)).all (fun j => passed ((released (m.ring h) hk).curAt j) ((m.ring h).curAt k))
      then tput {} m.side (hLine h (((m.ring h).curAt k).toNat % hNslot h)) { m.sideOf h (((m.ring h).curAt k).toNat % hNslot h) with st := .empty }
      else m.side,
    rings := tput {} m.rings (hRing h) (released (m.ring h) hk) } := by
  unfold Mt.release released
  simp only [dif_pos hk]

/-- A take marks its consumer as holding the slot of its cursor (R254). -/
theorem takeSlot_eq {k : Nat} (hk : k < 4) : m.takeSlot h k = ({ m with
    side := tput {} m.side (hLine h (((m.ring h).curAt k).toNat % hNslot h)) { m.sideOf h (((m.ring h).curAt k).toNat % hNslot h) with st := .draining },
    rings := tput {} m.rings (hRing h) { m.ring h with taken := (m.ring h).taken.set k true hk } }, ((m.ring h).curAt k).toNat % hNslot h) := by
  unfold Mt.takeSlot
  simp only [dif_pos hk]

theorem allPassed_iff (r : RingCtl) (c : Word) (n : Nat) :
    (List.range n).all (fun j => passed (r.curAt j) c) = true ↔ ∀ q, q < n → 1 ≤ (r.curAt q - c).toNat ∧ (r.curAt q - c).toNat ≤ 2 ^ 31 := by
  simp only [List.all_eq_true, List.mem_range, passed_iff]

end

theorem ringTransitions : Claims.RingTransitions := by
  intro m h k i hs hr hk r n c j only gone
  refine ⟨?_, ?_, ?_, ?_, ?_, ?_⟩
  · unfold Mt.canAcquire
    exact beq_iff_eq
  · rintro m' rfl
    exact ⟨rfl, sideOf_put hs _ _ _, ring_put hr _ _, only_put hs _ _⟩
  · rintro m' rfl
    exact ⟨sideOf_put hs _ _ _, rfl, only_put hs _ _⟩
  · unfold Mt.canTake
    simp only [Bool.and_eq_true, Bool.or_eq_true, beq_iff_eq]
    rfl
  · rintro m' rfl
    rw [takeSlot_eq hk]
    refine ⟨rfl, sideOf_put hs _ _ _, ?_, ?_, ?_, fun q hq => ?_, only_put hs _ _⟩
    · rw [ring_put hr]
    · rw [ring_put hr]
    · rw [ring_put hr, takenAt_set r _ _ _ hk, if_pos rfl]
    · rw [ring_put hr, takenAt_set r _ _ _ hk, if_neg hq]
  · rintro m' rfl
    rw [release_eq hk]
    refine ⟨?_, ?_, ?_, fun q hq => ⟨?_, ?_⟩, fun l hl => ?_, fun ha => ?_, fun ⟨q, hq, hn⟩ => ?_⟩
    · rw [ring_put hr]
      rfl
    · rw [ring_put hr, released_curAt, if_pos rfl]
    · rw [ring_put hr, released_takenAt, if_pos rfl]
    · rw [ring_put hr, released_curAt, if_neg hq]
    · rw [ring_put hr, released_takenAt, if_neg hq]
    · dsimp only
      split
      · exact only_put hs _ _ l hl
      · rfl
    · rw [ring_put hr] at ha
      rw [if_pos ((allPassed_iff _ _ _).2 ha)]
      exact sideOf_put hs _ _ _
    · rw [ring_put hr] at hn
      rw [if_neg (fun ha => hn ((allPassed_iff _ _ _).1 ha q hq))]
      rfl

/-! ### The requests that wait at rings -/

/-- Whether a request at a ring can be performed (R208, R254). -/
def RingReady (s : State) (x : Waiter) : Prop := x.refused = none ∧ x.done = none ∧
  ((x.what = .rsacq ∧ (s.mt x.unit).canAcquire (x.data.getD 0 0) = true) ∨
    ∃ k, x.what = .rstake k ∧ (s.mt x.unit).canTake (x.data.getD 0 0) k = true ∧ ((s.mt x.unit).ring (x.data.getD 0 0)).takenAt k = false)

section
variable {s : State} {x : Waiter}

theorem ringStep_none (h : ¬RingReady s x) (hd : x.done = none) (hr : x.refused = none) : ringStep s x = none := by
  unfold ringStep
  dsimp only
  split
  · rename_i hw
    rw [if_neg (fun hc => h ⟨hr, hd, .inl ⟨hw, hc⟩⟩)]
  · rename_i k hw
    rw [if_neg]
    intro hc
    rw [Bool.and_eq_true, Bool.not_eq_true'] at hc
    exact h ⟨hr, hd, .inr ⟨k, hw, hc⟩⟩
  · rfl

theorem ringStep_acquire (hw : x.what = .rsacq) (hc : (s.mt x.unit).canAcquire (x.data.getD 0 0) = true) :
    ringStep s x = some (s.setMt x.unit ((s.mt x.unit).acquire (x.data.getD 0 0)).1,
      slotAddr s x.addr x.unit (x.data.getD 0 0) ((s.mt x.unit).acquire (x.data.getD 0 0)).2) := by
  unfold ringStep
  rw [hw]
  exact if_pos hc

theorem ringStep_take {k : Nat} (hw : x.what = .rstake k) (hc : (s.mt x.unit).canTake (x.data.getD 0 0) k = true)
    (ht : ((s.mt x.unit).ring (x.data.getD 0 0)).takenAt k = false) :
    ringStep s x = some (s.setMt x.unit ((s.mt x.unit).takeSlot (x.data.getD 0 0) k).1,
      slotAddr s x.addr x.unit (x.data.getD 0 0) ((s.mt x.unit).takeSlot (x.data.getD 0 0) k).2) := by
  unfold ringStep
  rw [hw]
  exact if_pos (by rw [hc, ht]; rfl)

theorem serveRing_skip (h : ¬RingReady s x) (ds ws : List Waiter) : serveRing s ds (x :: ws) = serveRing s (ds ++ [x]) ws := by
  rw [serveRing]
  by_cases hc : x.done = none ∧ x.refused = none
  · rw [if_pos (by simp [hc]), ringStep_none h hc.1 hc.2]
  · rw [if_neg (by simpa using hc)]

theorem serveRing_none (ds ws : List Waiter) (h : ∀ z ∈ ws, ¬RingReady s z) : serveRing s ds ws = none := by
  induction ws generalizing ds with
  | nil => rfl
  | cons z ws ih => rw [serveRing_skip (h z (by simp)), ih _ (fun v hv => h v (by simp [hv]))]

theorem serveRing_first (pre post ds : List Waiter) (hpre : ∀ z ∈ pre, ¬RingReady s z) (hd : x.done = none) (hr : x.refused = none)
    {t : State} {a : Dword} (hx : ringStep s x = some (t, a)) : serveRing s ds (pre ++ x :: post) =
      some { t with mem := { t.mem with waits := ds ++ (pre ++ { x with done := some [a] } :: post) } } := by
  induction pre generalizing ds with
  | nil => rw [List.nil_append, serveRing, if_pos (by simp [hd, hr]), hx]; rfl
  | cons z pre ih =>
    rw [List.cons_append, serveRing_skip (hpre z (by simp)), ih (ds ++ [z]) (fun v hv => hpre v (by simp [hv]))]
    simp

theorem serveRings_step {pre post : List Waiter} (hw : s.mem.waits = pre ++ x :: post) (hpre : ∀ z ∈ pre, ¬RingReady s z)
    (hd : x.done = none) (hr : x.refused = none) {t : State} {a : Dword} (hx : ringStep s x = some (t, a)) (n : Nat) :
    s.serveRings (n + 1) = State.serveRings { t with mem := { t.mem with waits := pre ++ { x with done := some [a] } :: post } } n := by
  rw [State.serveRings, hw, serveRing_first pre post [] hpre hd hr hx]
  rfl

end

theorem ringWaiters : Claims.RingWaiters := by
  intro s pre post x n h m sat
  refine ⟨fun hn => ?_, ?_⟩
  · cases n with
    | zero => rfl
    | succ n => rw [State.serveRings, serveRing_none _ _ hn]
  · rintro hw hpre ⟨hr, hd, hk⟩ served
    have step : ∀ {t a}, ringStep s x = some (t, a) → s.serveRings (n + 1) = _ := fun hx => serveRings_step hw hpre hd hr hx n
    refine ⟨fun ha => step (ringStep_acquire ha ?_), fun k ht => step ?_⟩
    · rcases hk with ⟨-, hc⟩ | ⟨k, hk, -⟩
      · exact hc
      · exact absurd (ha.symm.trans hk) (by simp)
    · rcases hk with ⟨hk, -⟩ | ⟨k', hk, hc⟩
      · exact absurd (ht.symm.trans hk) (by simp)
      · obtain rfl : k = k' := by simpa using ht.symm.trans hk
        exact ringStep_take ht hc.1 hc.2

end Sys2Proof.Memory
end

section
/-! O33, the instructions: RSACQ, RSPUB, RSTAKE and RSREL on a handle in order (R253 to R255), and CPY (R248, R249, R256). -/

namespace Sys2Proof.Memory

open Sys2Proof Sys2Proof.Machine Sys2Proof.Claims Sys2Proof.Laws

/-! ### The ring instructions -/

section
variable {s : State} {o : Ops} {g : Got} {y : Slot} {u : Nat} (hf : Fetches s o .z g y)
  (hu : ringUnit (behind s y) y.prt (behind s y).slotUnit g.a.val = .ok u)
include hf hu

theorem rsacq_next (hc : ((s.mt u).latch g.a.val).canAcquire g.a.val = true) :
    s.run (rsacqOp o) = .next (((behind s y).setMt u (((s.mt u).latch g.a.val).acquire g.a.val).1).done o
      (some (slotAddr (behind s y) y.prt u g.a.val (((s.mt u).latch g.a.val).acquire g.a.val).2)) 4 1) := by
  refine run_memory hf ?_
  dsimp only
  rw [show ringUnit (behind s y) (behind s y).slot.prt (behind s y).slotUnit g.a.val = .ok u from hu]
  exact if_pos hc

theorem rsacq_waits (hc : ((s.mt u).latch g.a.val).canAcquire g.a.val = false) :
    s.run (rsacqOp o) = .next (s.await ((behind s y).setMt u ((s.mt u).latch g.a.val)) o .rsacq u y.prt 0 0 [g.a.val]) := by
  refine run_memory hf ?_
  dsimp only
  rw [show ringUnit (behind s y) (behind s y).slot.prt (behind s y).slotUnit g.a.val = .ok u from hu]
  exact if_neg (by rw [Bool.not_eq_true]; exact hc)

theorem rspub_next {off i : Nat} (hr : spResolve (behind s y) y.prt (behind s y).slotUnit g.b.val.toNat = some (u, off))
    (hi : ((s.mt u).latch g.a.val).fillingAt g.a.val off = some i) :
    s.run (rspubOp o) = .next (((behind s y).ringSet u (((s.mt u).latch g.a.val).publish g.a.val i)).done o none 4 1) := by
  refine run_memory hf ?_
  dsimp only
  rw [show ringUnit (behind s y) (behind s y).slot.prt (behind s y).slotUnit g.a.val = .ok u from hu,
    show spResolve (behind s y) (behind s y).slot.prt (behind s y).slotUnit g.b.val.toNat = some (u, off) from hr]
  dsimp only
  rw [if_pos rfl, show ((behind s y).mt u).latch g.a.val = (s.mt u).latch g.a.val from rfl, hi]

theorem rspub_fault (hn : ∀ off, spResolve (behind s y) y.prt (behind s y).slotUnit g.b.val.toNat = some (u, off) →
    ((s.mt u).latch g.a.val).fillingAt g.a.val off = none) :
    s.run (rspubOp o) = .next (s.raise { code := 0x27, addr := g.b.val, info := g.a.val }) := by
  refine run_memory_flt hf ?_
  dsimp only
  rw [show ringUnit (behind s y) (behind s y).slot.prt (behind s y).slotUnit g.a.val = .ok u from hu]
  dsimp only
  cases hr : spResolve (behind s y) (behind s y).slot.prt (behind s y).slotUnit g.b.val.toNat with
  | none => rfl
  | some p =>
    obtain ⟨v, off⟩ := p
    dsimp only
    by_cases hv : v = u
    · rw [if_pos hv, show ((behind s y).mt u).latch g.a.val = (s.mt u).latch g.a.val from rfl, hn off (by rw [← hv]; exact hr)]
      rfl
    · rw [if_neg hv]
      rfl

theorem rstake_next (hk : o.f.toNat % 4 < hConsumers g.a.val) (ht : (((s.mt u).latch g.a.val).ring g.a.val).takenAt (o.f.toNat % 4) = false)
    (hc : ((s.mt u).latch g.a.val).canTake g.a.val (o.f.toNat % 4) = true) :
    s.run (rstakeOp o) = .next (((behind s y).setMt u (((s.mt u).latch g.a.val).takeSlot g.a.val (o.f.toNat % 4)).1).done o
      (some (slotAddr (behind s y) y.prt u g.a.val (((s.mt u).latch g.a.val).takeSlot g.a.val (o.f.toNat % 4)).2)) 4 1) := by
  refine run_memory hf ?_
  dsimp only
  rw [show ringUnit (behind s y) (behind s y).slot.prt (behind s y).slotUnit g.a.val = .ok u from hu]
  dsimp only
  rw [if_neg]
  · exact if_pos hc
  · rw [Bool.or_eq_true, decide_eq_true_eq, not_or]
    exact ⟨Nat.not_le.2 hk, by rw [Bool.not_eq_true]; exact ht⟩

theorem rstake_waits (hk : o.f.toNat % 4 < hConsumers g.a.val) (ht : (((s.mt u).latch g.a.val).ring g.a.val).takenAt (o.f.toNat % 4) = false)
    (hc : ((s.mt u).latch g.a.val).canTake g.a.val (o.f.toNat % 4) = false) :
    s.run (rstakeOp o) = .next (s.await ((behind s y).setMt u ((s.mt u).latch g.a.val)) o (.rstake (o.f.toNat % 4)) u y.prt 0 0 [g.a.val]) := by
  refine run_memory hf ?_
  dsimp only
  rw [show ringUnit (behind s y) (behind s y).slot.prt (behind s y).slotUnit g.a.val = .ok u from hu]
  dsimp only
  rw [if_neg]
  · exact if_neg (by rw [Bool.not_eq_true]; exact hc)
  · rw [Bool.or_eq_true, decide_eq_true_eq, not_or]
    exact ⟨Nat.not_le.2 hk, by rw [Bool.not_eq_true]; exact ht⟩

/-- A take of a consumer that the ring does not have, or that holds a slot, is out of order (R255). -/
theorem rstake_fault (h : hConsumers g.a.val ≤ o.f.toNat % 4 ∨ (((s.mt u).latch g.a.val).ring g.a.val).takenAt (o.f.toNat % 4) = true) :
    s.run (rstakeOp o) = .next (s.raise { code := 0x27, info := g.a.val }) := by
  refine run_memory_flt hf ?_
  dsimp only
  rw [show ringUnit (behind s y) (behind s y).slot.prt (behind s y).slotUnit g.a.val = .ok u from hu]
  dsimp only
  rw [if_pos]
  · rfl
  · rw [Bool.or_eq_true, decide_eq_true_eq]
    exact h

theorem rsrel_next (hk : o.f.toNat % 4 < hConsumers g.a.val) (ht : (((s.mt u).latch g.a.val).ring g.a.val).takenAt (o.f.toNat % 4) = true) :
    s.run (rsrelOp o) = .next (((behind s y).ringSet u (((s.mt u).latch g.a.val).release g.a.val (o.f.toNat % 4))).done o none 4 1) := by
  refine run_memory hf ?_
  dsimp only
  rw [show ringUnit (behind s y) (behind s y).slot.prt (behind s y).slotUnit g.a.val = .ok u from hu]
  dsimp only
  rw [if_neg]
  · rfl
  · rw [Bool.or_eq_true, decide_eq_true_eq, not_or, Bool.not_eq_true', Bool.not_eq_false]
    exact ⟨Nat.not_le.2 hk, ht⟩

/-- A release by a consumer that the ring does not have, or that holds no slot, is out of order (R255). -/
theorem rsrel_fault (h : hConsumers g.a.val ≤ o.f.toNat % 4 ∨ (((s.mt u).latch g.a.val).ring g.a.val).takenAt (o.f.toNat % 4) = false) :
    s.run (rsrelOp o) = .next (s.raise { code := 0x27, info := g.a.val }) := by
  refine run_memory_flt hf ?_
  dsimp only
  rw [show ringUnit (behind s y) (behind s y).slot.prt (behind s y).slotUnit g.a.val = .ok u from hu]
  dsimp only
  rw [if_pos]
  · rfl
  · rw [Bool.or_eq_true, decide_eq_true_eq, Bool.not_eq_true']
    exact h

end

theorem ringInstructions : Claims.RingInstructions := by
  intro s o g y u hf hu h m t k waits
  have waiting : ∀ {r : Host.Outcome State Fault Refusal} {what : WaitKind},
      r = .next (s.await (t.setMt u m) o what u y.prt 0 0 [h]) → waits r what := by
    intro r what hr
    obtain ⟨q, hs, hm, hp, hw, -, hd, -, hq, hv⟩ := await_at s (t.setMt u m) o what u y.prt 0 0 [h]
    exact ⟨_, q, hr, hs, hm, hp, hw, hq, hv, hd⟩
  refine ⟨rsacq_next hf hu, fun hc => waiting (rsacq_waits hf hu hc), fun off i hr hi => rspub_next hf hu hr hi, rspub_fault hf hu,
    rstake_next hf hu, fun hk ht hc => waiting (rstake_waits hf hu hk ht hc), fun hk i hi => ?_,
    fun hk ht => ⟨rsrel_next hf hu hk ht, rstake_fault hf hu (.inr ht)⟩, fun _ ht => rsrel_fault hf hu (.inr ht)⟩
  rcases List.mem_pair.1 hi with rfl | rfl
  · exact rstake_fault hf hu (.inl hk)
  · exact rsrel_fault hf hu (.inl hk)

/-! ### Completion tokens (R210, R225, R248) -/

section
variable {s : State} {o : Ops} {k : BitVec 3}

theorem sendDone_mts (s : State) (place : Coord) (k : BitVec 3) (n : Nat) : (s.sendDone place k n).mts = s.mts := by
  induction n generalizing s with
  | zero => rfl
  | succ n ih =>
    rw [State.sendDone]
    split
    · rfl
    · split
      · rfl
      · refine (ih _).trans ?_
        unfold State.updSlot
        split <;> rfl

theorem complete_mts (s : State) (c : Cmd) (v : Dword) : (s.complete c v).mts = s.mts := by
  unfold State.complete
  split
  · rfl
  · exact sendDone_mts _ _ _ _

theorem command_mts (s : State) (o : Ops) (kind : CmdKind) (b : List Dword) : (s.command o kind b).mts = s.mts := rfl

theorem commandNow_mts (s : State) (o : Ops) (kind : CmdKind) (v : Dword) : (s.commandNow o kind v).mts = s.mts := by
  unfold State.commandNow
  split
  · rfl
  · dsimp only
    split
    · exact command_mts _ _ _ _
    · exact (complete_mts _ _ _).trans (command_mts _ _ _ _)

theorem commandNow_absent (hd : o.d = .absent) (s : State) (kind : CmdKind) (v : Dword) :
    s.commandNow o kind v = { s with slot := (s.slot.retire o).owe 0 1 } := by
  unfold State.commandNow
  rw [hd]
  rfl

/-- The tokens of a port that owes none are sent at once. -/
theorem sendDone_none {place : Coord} (h : ∀ c ∈ s.cmds, c.owes place k = false) (n : Nat) : s.sendDone place k n = s := by
  cases n with
  | zero => rfl
  | succ n => rw [State.sendDone, List.find?_eq_none.2 (fun c hc => by rw [h c hc]; exact Bool.false_ne_true)]

/-- The last command of the list, complete, whose port owes no other token: the token is sent, and the command gone. -/
theorem sendDone_last {cs : List Cmd} {c : Cmd} {v : Dword} {place : Coord} (hs : s.cmds = cs ++ [c]) (hc : c.owes place k = true)
    (hv : c.done = some v) (hcs : ∀ x ∈ cs, x.owes place k = false ∧ x.id < c.id) (ha : s.slot.at place = true) (n : Nat) :
    s.sendDone place k (n + 1) = { s with cmds := cs, slot := s.slot.keepPromise k ⟨v, .elem⟩ } := by
  have hfind : s.cmds.find? (fun c => c.owes place k) = some c := by
    rw [hs, List.find?_append, List.find?_eq_none.2 (fun x hx => by rw [(hcs x hx).1]; exact Bool.false_ne_true), List.find?_singleton, hc]
    rfl
  have hkeep : s.cmds.filter (fun x => x.id != c.id) = cs := by
    rw [hs, List.filter_append, List.filter_eq_self.2 (fun x hx => by simpa using (hcs x hx).2.ne)]
    simp
  rw [State.sendDone, hfind]
  dsimp only
  rw [hv]
  dsimp only
  rw [hkeep, State.updSlot, if_pos (by exact ha)]
  exact sendDone_none (fun x hx => (hcs x hx).1) n

/-- A command that completes when it issues leaves no command, and its token on its port (R248). -/
theorem commandNow_alt (hd : o.d = .alt k) (h : ∀ c ∈ s.cmds, c.owes s.slot.place k = false ∧ c.id < s.nextCmd) (hst : s.slot.st ≠ .noTask)
    (kind : CmdKind) (v : Dword) : s.commandNow o kind v = { s with
      nextCmd := s.nextCmd + 1, slot := (((s.slot.promise k).retire o).owe 0 1).keepPromise k ⟨v, .elem⟩ } := by
  have hp : portOf o.d = some k := by rw [hd]; rfl
  have hcmd : ∃ c : Cmd, s.command o kind [] = { s with
      cmds := s.cmds ++ [c], nextCmd := s.nextCmd + 1, slot := ((s.slot.promise k).retire o).owe 0 1 } ∧ c.id = s.nextCmd ∧
      c.place = s.slot.place ∧ c.port = some k := by
    unfold State.command
    rw [hp]
    exact ⟨_, rfl, rfl, rfl, rfl⟩
  obtain ⟨c, hc, hid, hpl, hpo⟩ := hcmd
  have hfind : (s.cmds ++ [c]).find? (fun c => c.id == s.nextCmd) = some c := by
    rw [List.find?_append, List.find?_eq_none.2 (fun x hx => by simpa using (h x hx).2.ne), List.find?_singleton, hid]
    simp
  have hmap : (s.cmds ++ [c]).map (fun x => if x.id == c.id then { x with done := some v } else x) = s.cmds ++ [{ c with done := some v }] := by
    have hold : s.cmds.map (fun x => if x.id == c.id then { x with done := some v } else x) = s.cmds.map id :=
      List.map_congr_left (fun x hx => if_neg (by simpa [hid] using (h x hx).2.ne))
    rw [List.map_append, hold]
    simp
  unfold State.commandNow
  rw [hp, hc]
  dsimp only
  rw [hfind]
  dsimp only
  unfold State.complete
  rw [hpo]
  dsimp only
  rw [hmap, List.length_append, List.length_singleton]
  refine (sendDone_last (s := { s with
    cmds := s.cmds ++ [{ c with done := some v }], nextCmd := s.nextCmd + 1, slot := ((s.slot.promise k).retire o).owe 0 1 })
      rfl ?_ rfl ?_ ?_ _).trans rfl
  · simp [Cmd.owes, hpo]
  · intro x hx
    rw [hpl, hid]
    exact h x hx
  · rw [hpl]
    simp [Slot.at, Slot.retire, Slot.owe, Slot.promise, hst]

/-- A token promised and sent at once. -/
theorem promised_kept (x : Slot) (o : Ops) (k : BitVec 3) (t : Tok) :
    let z := (((x.promise k).retire o).owe 0 1).keepPromise k t
    z.outs[k.toNat].flight = x.outs[k.toNat].flight ++ [t] ∧ z.outs[k.toNat].promised = x.outs[k.toNat].promised ∧
      z.outs[k.toNat].sent = x.outs[k.toNat].sent + 1 := by
  simp [Slot.keepPromise, Slot.promise, Slot.retire, Slot.owe]

end

/-! ### CPY -/

section
variable {s t : State} {o : Ops} {g : Got} {y : Slot}

theorem cpyPages_translated {x : CpyForm} {a b : Dword} {n : Nat} (h : cpyPages s x a b n = .ok t) : Translated s t := by
  unfold cpyPages at h
  split at h
  · cases h
  · rename_i h1
    split at h
    · cases h
    · rename_i h2
      split at h
      · cases h
      · split at h
        · cases h
        · cases h
        · cases h
          exact (translateAll_translated h1).trans (translateAll_translated h2)

/-- A ring slot published where no request waits changes its side entry alone (R256). -/
theorem ringSet_idle {u : Nat} (h : s.mem.waits = []) (m : Mt) : s.ringSet u m = s.setMt u m := by
  unfold State.ringSet
  rw [h]
  rfl

end

/-! ### What the service of rings leaves -/

/-- What the steps of rings may change: the MTs and the requests that wait. -/
def RingFrame (s t : State) : Prop := t = { s with mts := t.mts, mem := { s.mem with waits := t.mem.waits } }

section
variable {s t : State}

theorem RingFrame.trans {u : State} (h : RingFrame s t) (k : RingFrame t u) : RingFrame s u := by
  rw [RingFrame] at h k ⊢
  rw [k, h]

theorem ringStep_frame {x : Waiter} {a : Dword} (h : ringStep s x = some (t, a)) : RingFrame s t := by
  unfold ringStep at h
  dsimp only at h
  split at h
  · split at h
    · cases h; rfl
    · cases h
  · split at h
    · cases h; rfl
    · cases h
  · cases h

theorem serveRing_frame {ws ds : List Waiter} (h : serveRing s ds ws = some t) : RingFrame s t := by
  induction ws generalizing ds with
  | nil => cases h
  | cons x ws ih =>
    rw [serveRing] at h
    split at h
    · rename_i u a hu
      split at hu
      · have hf := ringStep_frame hu
        cases h
        rw [RingFrame] at hf
        rw [RingFrame, hf]
      · cases hu
    · exact ih h

theorem serveRings_frame (s : State) (n : Nat) : RingFrame s (s.serveRings n) := by
  induction n generalizing s with
  | zero => rfl
  | succ n ih =>
    rw [State.serveRings]
    split
    · rfl
    · rename_i h
      exact (serveRing_frame h).trans (ih _)

theorem ringSet_frame (s : State) (u : Nat) (m : Mt) : RingFrame s (s.ringSet u m) := RingFrame.trans (t := s.setMt u m) rfl (serveRings_frame _ _)

/-- The slot of a copy of no bytes, published when it has one (R256). -/
def published (s : State) : Option (Nat × Dword × Nat) → State
  | some (u, h, i) => s.ringSet u ((s.mt u).publish h i)
  | none => s

theorem published_frame (s : State) (p : Option (Nat × Dword × Nat)) : RingFrame s (published s p) := by
  cases p with
  | none => rfl
  | some p => exact ringSet_frame _ _ _

end

section
variable {s t : State} {o : Ops} {g : Got} {y : Slot} {p : Option (Nat × Dword × Nat)} (hr : CommandReads s o g y)
  (hn : g.c.val.toNat ≤ 2 ^ 24) (hfull : (cpyForm o).full = true → g.a.val.toNat % 4 = 0 ∧ g.c.val.toNat % 4 = 0)
  (hrange : cpyRanges (behind s y) (cpyForm o) g.a.val g.b.val g.c.val.toNat = .ok ())
  (hpages : cpyPages (behind s y) (cpyForm o) g.a.val g.b.val g.c.val.toNat = .ok t)
  (hslot : cpySlot t (cpyForm o) g.a.val g.b.val g.c.val.toNat = .ok p)
include hr hn hfull hrange hpages hslot

/-- A CPY that passes its checks: complete at once when it copies nothing, handed over otherwise (R249). -/
theorem cpy_next : exec (.cpy o) s = .next (if g.c.val.toNat = 0 then
      (published t p).commandNow o (.cpy g.a.val g.b.val g.c.val.toNat (cpyForm o).dsp (cpyForm o).ssp (cpyForm o).pub (cpyForm o).full) 0
    else t.command o (.cpy g.a.val g.b.val g.c.val.toNat (cpyForm o).dsp (cpyForm o).ssp (cpyForm o).pub (cpyForm o).full) []) := by
  have hal : ((cpyForm o).full && (g.a.val.toNat % 4 ≠ 0 || g.c.val.toNat % 4 ≠ 0)) = false := by
    cases hb : (cpyForm o).full with
    | false => rfl
    | true => simp [hfull hb]
  refine run_ok hr.1 (memoryCmd_ok hr.2 ?_)
  dsimp only
  rw [if_neg (by omega), hal, if_neg Bool.false_ne_true]
  rw [behind] at hrange hpages
  rw [hrange]
  dsimp only
  rw [hpages]
  dsimp only
  rw [hslot]
  dsimp only
  split
  · cases p <;> rfl
  · rfl

end

/-- The operands of a command leave the rest of their slot. -/
theorem commandReads_slot {s : State} {o : Ops} {g : Got} {y : Slot} (h : CommandReads s o g y) :
    y.place = s.slot.place ∧ y.prt = s.slot.prt ∧ y.pc = s.slot.pc ∧ y.st = s.slot.st := by
  obtain ⟨ins, a, b, c, rfl, -, -⟩ := readsWith_spec (fetchWith_ok.mp h.2).1
  exact ⟨rfl, rfl, rfl, rfl⟩

/-- A command handed over after its translations counts as one of the state that it issued in. -/
theorem command_commanded {s t : State} {o : Ops} {g : Got} {y : Slot} (h : CommandReads s o g y) (ht : Translated (behind s y) t)
    (kind : CmdKind) : Commanded s t o (t.command o kind []) kind := by
  obtain ⟨hpl, hprt, hpc, -⟩ := commandReads_slot h
  refine ⟨?_, congrArg (· + 1) ht.nextCmd, ?_⟩
  · show t.cmds ++ [_] = _
    rw [ht.cmds, ht.nextCmd, State.slotUnit, ht.slot]
    show s.cmds ++ [{ id := s.nextCmd, place := y.place, prt := y.prt, unit := coordUnit y.place, port := portOf o.d, pc := y.pc, kind := kind,
                      block := [] }] = _
    rw [hpl, hprt, hpc]
    rfl
  · show (((match portOf o.d with | some k => t.slot.promise k | none => t.slot) : Slot).retire o).owe 0 1 = _
    cases o.d <;> rfl

theorem copyCommand : Claims.CopyCommand := by
  intro s t o g y p hr a b n x hn hfull hrange hpages hslot
  have hrun := cpy_next hr hn hfull hrange hpages hslot
  have ht := cpyPages_translated hpages
  have hz : ∀ hz : n = 0, exec (.cpy o) s = .next ((published t p).commandNow o (.cpy a b n x.dsp x.ssp x.pub x.full) 0) :=
    fun hz => hrun.trans (by rw [if_pos hz])
  refine ⟨fun hpos => ⟨_, hrun.trans (by rw [if_neg hpos.ne']), ?_⟩, fun h0 hp hd => ?_, fun k h0 hd hc hst => ⟨_, hz h0, ?_⟩,
    fun v h i h0 hp hw hm hs => ⟨_, hz h0, ?_⟩⟩
  · exact command_commanded hr ht _
  · rw [hz h0, hp]
    refine congrArg _ ((commandNow_absent hd _ _ _).trans ?_)
    rw [show (published t none).slot = y from ht.slot]
    rfl
  · have hf := published_frame t p
    have hslot : (published t p).slot = y := by rw [hf]; exact ht.slot
    have hcmds : (published t p).cmds = s.cmds := by rw [hf]; exact ht.cmds
    have hnext : (published t p).nextCmd = s.nextCmd := by rw [hf]; exact ht.nextCmd
    obtain ⟨hpl, -, -, hys⟩ := commandReads_slot hr
    rw [commandNow_alt hd (by rw [hslot, hcmds, hnext, hpl]; exact hc) (by rw [hslot, hys]; exact hst), hslot]
    exact ⟨hcmds, promised_kept y o k _⟩
  · have hmts : t.mts = s.mts := ht.mts
    have hmt : t.mt v = s.mt v := by rw [State.mt, hmts]; rfl
    show (((State.commandNow _ o _ 0).mt v).sideOf h i).st = .full
    rw [State.mt, commandNow_mts, hp, published, ringSet_idle (by rw [ht.waits]; exact hw)]
    rw [State.setMt, tget_tput (by rw [hmts]; exact hm), if_pos rfl, Mt.publish, hmt, sideOf_put hs]

/-- Settles O33. -/
theorem copiesAndRings : Obligations.CopiesAndRings := ⟨copyCommand, ringInstructions, ringTransitions, ringWaiters⟩

end Sys2Proof.Memory
end

section
/-! O50, the requests that wait: their completion, and the retry of those refused (R204, R207, R208, R225). -/

namespace Sys2Proof.Memory

open Sys2Proof Sys2Proof.Machine Sys2Proof.Claims Sys2Proof.Laws

variable {s t : State} {m : Mem} {c : Coord} {x : Waiter}

theorem waiterOf_place (h : s.waiterOf c = some x) : x.place = c := by
  have he := List.find?_some h
  simpa using he

/-! ### Completion -/

theorem exec_complete (h : s.waiterOf c = some x) {vs : List Dword} (hd : x.done = some vs) (he : x.err = false) :
    exec (.memoryAccessComplete c) s = .next (s.finishWait x vs x.what.cls) := by
  show execMemoryAccessComplete c s = _
  unfold execMemoryAccessComplete
  rw [h]
  dsimp only
  rw [hd]
  dsimp only
  rw [he, if_neg Bool.false_ne_true]

theorem exec_failed (h : s.waiterOf c = some x) {vs : List Dword} (hd : x.done = some vs) (he : x.err = true) :
    exec (.memoryAccessComplete c) s = .next (s.raiseAt c { code := 0x25, addr := x.ea }) := by
  show execMemoryAccessComplete c s = _
  unfold execMemoryAccessComplete
  rw [h]
  dsimp only
  rw [hd]
  dsimp only
  rw [he, if_pos rfl]

theorem exec_pending (h : s.waiterOf c = some x) (hd : x.done = none) : exec (.memoryAccessComplete c) s = .next s := by
  show execMemoryAccessComplete c s = _
  unfold execMemoryAccessComplete
  rw [h]
  dsimp only
  rw [hd]

theorem crossPart_moved (s : State) (q : Part) (pa : Nat) : ∃ m, s.crossPart q pa = { s with mem := m } := by
  unfold State.crossPart
  dsimp only
  split
  · exact ⟨s.mem, rfl⟩
  · exact ⟨_, rfl⟩

/-- A slot in focus whose request has left its place. -/
def resumed (s : State) (c : Coord) : State :=
  { s with mem := { s.mem with waits := s.mem.waits.filter (fun w => w.place != c) }, slot := { s.slot with busy := false } }

/-- What the read of a granule finds of other launches when it completes (R221). -/
def crossed (s : State) (x : Waiter) : State := if x.what = .ldp then s.crossEdge x.addr else s

theorem crossed_slot (s : State) (x : Waiter) : (crossed s x).slot = s.slot := by
  unfold crossed State.crossEdge
  split
  · obtain ⟨m, hm⟩ := crossPart_moved s (s.part s.slot.prt) x.addr
    rw [hm]
  · rfl

section
variable (hx : x.place = c) (ha : s.slot.at c = true) (cls : Nat)
include hx ha

/-- A request of the slot in focus that brings no value: the instruction retires (R225). -/
theorem finishWait_none : s.finishWait x [] cls =
    { crossed (resumed s c) x with slot := (({ s.slot with busy := false } : Slot).retire x.op).owe cls 1 } := by
  unfold State.finishWait
  rw [hx, State.focus, if_pos ha]
  show (crossed (resumed s c) x).done x.op none cls 1 = _
  rw [State.done, crossed_slot]
  rfl

/-- A request of the slot in focus that brings a value: its destination is written, and the instruction retires (R225). -/
theorem finishWait_one (v : Dword) : s.finishWait x [v] cls = { crossed (resumed s c) x with slot := wrote { s.slot with busy := false } x.op v cls } := by
  unfold State.finishWait
  rw [hx, State.focus, if_pos ha]
  show (crossed (resumed s c) x).done x.op (some v) cls 1 = _
  rw [State.done, crossed_slot]
  rfl

end

/-! ### A request put to its place again -/

theorem exec_retry (h : s.waiterOf c = some x) {b : Nat} (hr : x.refused = some b) : exec (.deferralRetry c) s = .next (s.retry c x b) := by
  show execDeferralRetry c s = _
  unfold execDeferralRetry
  rw [h]
  dsimp only
  rw [hr]

theorem exec_retryNone (h : s.waiterOf c = some x) (hr : x.refused = none) : exec (.deferralRetry c) s = .next s := by
  show execDeferralRetry c s = _
  unfold execDeferralRetry
  rw [h]
  dsimp only
  rw [hr]

/-- A request that its bank may have performed since: only what it brings has changed, and nothing once it was performed. -/
def Advanced (x w : Waiter) : Prop := w = { x with done := w.done, err := w.err } ∧ (x.done ≠ none → w = x)

theorem Advanced.refl (x : Waiter) : Advanced x x := ⟨rfl, fun _ => rfl⟩

theorem Advanced.trans {y z : Waiter} (h : Advanced x y) (k : Advanced y z) : Advanced x z := by
  obtain ⟨h1, h2⟩ := h
  obtain ⟨k1, k2⟩ := k
  refine ⟨?_, fun hd => ?_⟩
  · rw [k1, h1]
  · have hy := h2 hd
    rw [k2 (by rw [hy]; exact hd), hy]

theorem servedAt_advanced (m : Mem) (hd : x.done = none) : Advanced x (servedAt m x).2 := by
  unfold servedAt
  split
  · exact ⟨rfl, fun h => absurd hd h⟩
  · exact ⟨rfl, fun h => absurd hd h⟩

/-- Every request after a service is one of before, performed or not. -/
theorem serveTags_advanced (m : Mem) (n : Nat) : ∀ w ∈ (m.serveTags n).waits, ∃ x ∈ m.waits, Advanced x w := by
  induction n generalizing m with
  | zero => exact fun w hw => ⟨w, hw, .refl w⟩
  | succ n ih =>
    rcases ready_split m m.waits with hn | ⟨pre, x, post, hw, hpre, hx⟩
    · rw [serveTags_none _ hn]
      exact fun w hw => ⟨w, hw, .refl w⟩
    · rw [serveTags_ready hw hpre hx]
      intro w hwt
      obtain ⟨y, hy, hyw⟩ := ih _ w hwt
      rw [hw]
      rcases List.mem_append.1 hy with hy | hy
      · exact ⟨y, by simp [hy], hyw⟩
      · rcases List.mem_cons.1 hy with rfl | hy
        · exact ⟨x, by simp, (servedAt_advanced m hx.2.1).trans hyw⟩
        · exact ⟨y, by simp [hy], hyw⟩

/-- What a retry puts to its place: a read of a granule that has come, performed with the home's bytes, or the request as it was. -/
def retried (m : Mem) (ctx : Nat) (x : Waiter) : Waiter :=
  if x.what = .ldp && m.isPresent (x.addr / 8) then
    ({ x with refused := none } : Waiter).ldpDone (m.l2Fill ctx (x.addr / 128))
      (bytesToNat ((m.l2Fill ctx (x.addr / 128)).homeBytes (x.addr / 8 * 8) 8))
  else { x with refused := none }

theorem ldpDone_keeps (m : Mem) (x : Waiter) (v : Nat) : ∃ d e, x.ldpDone m v = { x with done := d, err := e } := by
  unfold Waiter.ldpDone
  split <;> exact ⟨_, _, rfl⟩

theorem retried_keeps (m : Mem) (ctx : Nat) (x : Waiter) : ∃ d e, retried m ctx x = { x with refused := none, done := d, err := e } := by
  unfold retried
  split
  · obtain ⟨d, e, h⟩ := ldpDone_keeps (m.l2Fill ctx (x.addr / 128)) { x with refused := none }
      (bytesToNat ((m.l2Fill ctx (x.addr / 128)).homeBytes (x.addr / 8 * 8) 8))
    exact ⟨d, e, h⟩
  · exact ⟨_, _, rfl⟩

/-- A read of a granule that has come takes the error of its line, or the bytes that the home held (R204, R277). -/
theorem retried_present (hk : x.what = .ldp) (hp : m.isPresent (x.addr / 8) = true) (ctx : Nat) :
    (m.homeBad x.addr = true → (retried m ctx x).done = some [] ∧ (retried m ctx x).err = true) ∧
    (m.homeBad x.addr = false → Coherent m → (retried m ctx x).done =
      some [ldpValue (ldpType x.op) x.width (x.addr % 8) (bytesToNat (m.homeBytes (x.addr / 8 * 8) 8))]) := by
  have hbad : (m.l2Fill ctx (x.addr / 128)).homeBad x.addr = m.homeBad x.addr := (l2Fill_poison m ctx _).homeBad _
  unfold retried
  rw [if_pos (by simp [hk, hp])]
  unfold Waiter.ldpDone
  rw [show ({ x with refused := none } : Waiter).addr = x.addr from rfl, hbad]
  refine ⟨fun hb => ?_, fun hb hc => ?_⟩
  · rw [if_pos hb]
    exact ⟨rfl, rfl⟩
  · rw [if_neg (by rw [hb]; exact Bool.false_ne_true), homeBytes_congr (fun i _ _ => (l2Fill_moves hc ctx _).homeByte _)]

/-- A retry that finds room: the request at its place, and the bank served. -/
theorem retry_room (hroom : ({ s.mem with waits := s.mem.waits.filter (fun w => w.place != c) } : Mem).hasRoom { x with refused := none } = true)
    (b : Nat) : ∃ m : Mem, m.waits = s.mem.waits.filter (fun w => w.place != c) ++
        [retried { s.mem with waits := s.mem.waits.filter (fun w => w.place != c) } (s.placeCtx c) x] ∧
      s.retry c x b = { s with mem := m.serveTags m.waits.length } := by
  unfold State.retry retried
  dsimp only
  rw [if_pos hroom]
  split <;> exact ⟨_, rfl, rfl⟩

theorem waitingRequests : Claims.WaitingRequests := by
  intro s c x hx rest m y
  have hpl := waiterOf_place hx
  refine ⟨fun vs hd he hv ha => ?_, fun vs hd he => exec_failed hx hd he, fun hd => exec_pending hx hd, fun hr => exec_retryNone hx hr,
    fun b hr hroom => ?_, fun b hr hroom => ?_⟩
  · intro t
    refine (exec_complete hx hd he).trans (congrArg _ ?_)
    match vs, hv with
    | [], _ => exact finishWait_none hpl ha _
    | [v], _ => exact finishWait_one hpl ha _ v
  · rw [exec_retry hx hr, State.retry]
    exact congrArg _ (if_neg (by rw [Bool.not_eq_true]; exact hroom))
  · obtain ⟨n, hn, ht⟩ := retry_room hroom b
    have hmine : ∀ w ∈ (n.serveTags n.waits.length).waits, w.place = c → Advanced (retried m (s.placeCtx c) x) w := by
      intro w hw hwc
      obtain ⟨z, hz, hzw⟩ := serveTags_advanced n _ w hw
      have hzc : z.place = c := by rw [← hwc, hzw.1]
      rw [hn] at hz
      rcases List.mem_append.1 hz with hz | hz
      · exact absurd hzc (by simpa using (List.mem_filter.1 hz).2)
      · rw [List.mem_singleton] at hz
        rw [← hz]
        exact hzw
    refine ⟨_, exec_retry hx hr, by rw [ht], ?_, ?_⟩
    · rw [ht]
      intro w hw hwc
      obtain ⟨d, e, hk⟩ := retried_keeps m (s.placeCtx c) x
      obtain ⟨hw1, -⟩ := hmine w hw hwc
      rw [hw1, hk]
      exact ⟨rfl, rfl, rfl, rfl, rfl⟩
    · rw [ht]
      intro hk hp w hw hwc
      have hadv := hmine w hw hwc
      obtain ⟨hbad, hgood⟩ := retried_present (m := m) hk hp (s.placeCtx c)
      refine ⟨fun hb => ?_, fun hb hc => ?_⟩
      · obtain ⟨hd, he⟩ := hbad hb
        rw [hadv.2 (by rw [hd]; simp)]
        exact ⟨hd, he⟩
      · have hd := hgood hb (coherent_congr hc rfl rfl)
        have hbytes : m.homeBytes (x.addr / 8 * 8) 8 = s.mem.homeBytes (x.addr / 8 * 8) 8 := homeBytes_congr (fun i _ _ => homeByte_congr rfl rfl i)
        rw [hadv.2 (by rw [hd]; simp), hd, hbytes]

end Sys2Proof.Memory
end

section
/-! O50, the accesses of the engines within a granule of this package (R202, R203, R210, R221, R265). -/

namespace Sys2Proof.Memory

open Sys2Proof Sys2Proof.Machine Sys2Proof.Claims Sys2Proof.Laws

/-! ### The granules of a range -/

theorem cuts_zero (w f a : Nat) : cuts w f a 0 = [] := by cases f <;> rfl

theorem cuts_succ {w f a n : Nat} (hn : n ≠ 0) : cuts w (f + 1) a n = (a, min n (w - a % w)) :: cuts w f (a + min n (w - a % w)) (n - min n (w - a % w)) := by
  rw [cuts, if_neg hn]

/-- A range cut at granules has a piece in each granule of its bytes, and in no other. -/
theorem mem_granules {f a n : Nat} (hf : n ≤ f) (g : Nat) : g ∈ (cuts 8 f a n).map (fun p => p.1 / 8) ↔ ∃ i < n, (a + i) / 8 = g := by
  induction f generalizing a n with
  | zero =>
    obtain rfl : n = 0 := by omega
    simp [cuts_zero]
  | succ f ih =>
    by_cases hn : n = 0
    · subst hn
      simp [cuts_zero]
    · have hk : 0 < min n (8 - a % 8) := by omega
      rw [cuts_succ hn, List.map_cons, List.mem_cons, ih (by omega)]
      constructor
      · rintro (rfl | ⟨i, hi, rfl⟩)
        · exact ⟨0, by omega, rfl⟩
        · exact ⟨min n (8 - a % 8) + i, by omega, by rw [Nat.add_assoc]⟩
      · rintro ⟨i, hi, rfl⟩
        by_cases hlt : i < min n (8 - a % 8)
        · exact .inl (by omega)
        · exact .inr ⟨i - min n (8 - a % 8), by omega, by congr 1; omega⟩

theorem granules_present (m : Mem) (pa n : Nat) : (granules pa n).all m.isPresent = true ↔ ∀ i < n, m.isPresent ((pa + i) / 8) = true := by
  rw [List.all_eq_true]
  constructor
  · intro h i hi
    exact h _ ((mem_granules (Nat.le_refl n) _).2 ⟨i, hi, rfl⟩)
  · intro h g hg
    obtain ⟨i, hi, rfl⟩ := (mem_granules (Nat.le_refl n) g).1 hg
    exact h i hi

/-! ### Reads -/

section
variable {s t : State} {u ctx va n : Nat} {tr : Tr} (hv : hvTarget (s.ctx ctx) va = none) (ht : Machine.translate s u ctx va = .ok (t, tr))
include hv ht

theorem engGet_denied (hr : tr.r = false) : engGet s u ctx va n = .error (.flt { code := 0x23, addr := BitVec.ofNat 64 va, info := tr.pte }) := by
  rw [engGet, hv]
  dsimp only
  rw [homeGet, ht]
  dsimp only
  rw [hr]
  rfl

theorem engGet_absent (hr : tr.r = true) (hk : tr.kind = .wo) (h : ∃ i < n, t.mem.isPresent ((tr.pa + i) / 8) = false) :
    engGet s u ctx va n = .error .absent := by
  have hg : (granules tr.pa n).all t.mem.isPresent = false := by
    obtain ⟨i, hi, ha⟩ := h
    rw [← Bool.not_eq_true, granules_present]
    intro hall
    rw [hall i hi] at ha
    cases ha
  rw [engGet, hv]
  dsimp only
  rw [homeGet, ht]
  dsimp only
  rw [hr, if_neg (by simp), if_pos (by simp [hk, hg])]

theorem engGet_ok (hr : tr.r = true) (h : tr.kind = .wo → ∀ i < n, t.mem.isPresent ((tr.pa + i) / 8) = true) :
    engGet s u ctx va n = .ok ({ t.crossRead u ctx tr n with mem := (t.crossRead u ctx tr n).mem.homeLook ctx (tr.pa / 128) },
      ((t.crossRead u ctx tr n).mem.homeLook ctx (tr.pa / 128)).homeBytes tr.pa n,
      ((t.crossRead u ctx tr n).mem.homeLook ctx (tr.pa / 128)).homeBad tr.pa) := by
  rw [engGet, hv]
  dsimp only
  rw [homeGet, ht]
  dsimp only
  rw [hr, if_neg (by simp), if_neg]
  intro hc
  rw [Bool.and_eq_true, decide_eq_true_eq, Bool.not_eq_true', ← Bool.not_eq_true, granules_present] at hc
  exact hc.2 (h hc.1)

end

theorem crossRead_mu {t : State} {tr : Tr} (h : tr.kind ≠ .wo) (u ctx n : Nat) : t.crossRead u ctx tr n = t := if_neg h

theorem homeLook_moves {m : Mem} (hc : Coherent m) (c line : Nat) : Moves m (m.homeLook c line) :=
  (l2Fill_moves hc c line).trans (.congr (l2Fill_moves hc c line).coherent rfl rfl)

theorem homeLook_poison (m : Mem) (c line : Nat) : PoisonKept m (m.homeLook c line) := l2Fill_poison m c line

/-! ### Writes -/

section
variable {s t : State} {u ctx va : Nat} {tr : Tr} {bs : List Byte} (hv : hvTarget (s.ctx ctx) va = none)
  (ht : Machine.translate s u ctx va = .ok (t, tr))
include hv ht

theorem engPut_mu (hw : tr.w = true) (hk : tr.kind ≠ .wo) : engPut s u ctx va bs false =
    .ok { t with mem := (t.mem.homePut ctx tr.pa bs).note (.energy ctx 6 1) } := by
  rw [engPut, hv]
  dsimp only
  rw [homeSet, ht]
  dsimp only
  rw [if_neg (by simp [hk]), hw, if_neg (by simp), if_neg hk]
  rfl

theorem engPut_misaligned (hk : tr.kind = .wo) (h : va % 8 ≠ 0 ∨ bs.length ≠ 8) :
    engPut s u ctx va bs false = .error (.flt { code := 0x20, addr := BitVec.ofNat 64 va }) := by
  rw [engPut, hv]
  dsimp only
  rw [homeSet, ht]
  exact if_pos (by simpa [hk] using h)

theorem engPut_denied (hw : tr.w = false) (h : tr.kind = .wo → va % 8 = 0 ∧ bs.length = 8) :
    engPut s u ctx va bs false = .error (.flt { code := 0x23, addr := BitVec.ofNat 64 va, info := tr.pte }) := by
  rw [engPut, hv]
  dsimp only
  rw [homeSet, ht]
  dsimp only
  rw [if_neg, hw]
  · rfl
  · intro hc
    rw [Bool.and_eq_true, decide_eq_true_eq] at hc
    obtain ⟨h1, h2⟩ := h hc.1
    simp [h1, h2] at hc

theorem engPut_twice (hw : tr.w = true) (hk : tr.kind = .wo) (ha : va % 8 = 0) (hl : bs.length = 8) (hp : t.mem.isPresent (tr.pa / 8) = true) :
    engPut s u ctx va bs false = .error (.flt { code := 0x24, addr := BitVec.ofNat 64 va }) := by
  rw [engPut, hv]
  dsimp only
  rw [homeSet, ht]
  dsimp only
  rw [if_neg (by simp [ha, hl]), hw, if_neg (by simp), if_pos hk]
  exact if_pos hp

theorem engPut_once (hw : tr.w = true) (hk : tr.kind = .wo) (ha : va % 8 = 0) (hl : bs.length = 8) (hp : t.mem.isPresent (tr.pa / 8) = false) :
    engPut s u ctx va bs false = .ok { t with
      mem := ((t.mem.woPut (tr.pa / 8) (bytesToNat bs)).tagFence (tr.pa / 8) (t.fenceTag u ctx)).note (.energy ctx 6 1) } := by
  rw [engPut, hv]
  dsimp only
  rw [homeSet, ht]
  dsimp only
  rw [if_neg (by simp [ha, hl]), hw, if_neg (by simp), if_pos hk, hp]
  rfl

end

theorem engineAccesses : Claims.EngineAccesses := by
  intro s t u ctx va n bs tr hv ht flt
  refine ⟨fun hw hk hc hne hin => ?_, fun hk => ⟨engPut_misaligned hv ht hk, fun hw ha hl hp => engPut_twice hv ht hw hk ha hl hp,
    fun hw ha hl hp => ⟨_, engPut_once hv ht hw hk ha hl hp, rfl⟩⟩, fun hw _ ha hl => engPut_denied hv ht hw (fun _ => ⟨ha, hl⟩),
    fun hw hk => engPut_denied hv ht hw (fun h => absurd h hk), engGet_denied hv ht, fun hr hk h => engGet_absent hv ht hr hk h,
    fun hr hk h => ⟨_, engGet_ok hv ht hr (fun _ => h), rfl⟩, fun hr hk hc => ?_⟩
  · have hmu : tr.kind ≠ .wo := by rw [hk]; decide
    have hf := homePut_frame t.mem ctx tr.pa bs
    refine ⟨_, engPut_mu hv ht hw hmu, coherent_congr (homePut_coherent hc ctx tr.pa bs) rfl rfl, hf.l1, hf.cache.present, fun a => ?_⟩
    exact (homeByte_congr rfl rfl a).trans (homePut_homeByte hc ctx tr.pa bs hin a)
  · have hm := homeLook_moves hc ctx (tr.pa / 128)
    refine ⟨{ t with mem := t.mem.homeLook ctx (tr.pa / 128) }, ?_, hm.coherent, hm.homeByte⟩
    rw [engGet_ok hv ht hr (fun h => absurd h hk), crossRead_mu hk, homeBytes_congr (fun i _ _ => hm.homeByte i), (homeLook_poison _ _ _).homeBad]

end Sys2Proof.Memory
end

section
/-! O50, the commands of the engines: copies, and the ternary array (R210, R248 to R250, R256, R354 to R356). -/

namespace Sys2Proof.Memory

open Sys2Proof Sys2Proof.Machine Sys2Proof.Claims Sys2Proof.Laws

/-! ### What the reads of an engine leave alone -/

section
variable {s t : State} {u ctx va n : Nat} {bs : List Byte}

theorem l1DropUnits_frame (m : Mem) (us : List Nat) (sel : Line → Bool) (req : Nat) : CacheFrame m (m.l1DropUnits us sel req) := by
  unfold Mem.l1DropUnits
  induction us generalizing m with
  | nil => rfl
  | cons u us ih => exact (l1DropAll_frame m u sel req).trans (ih _)

theorem crossPart_sram (s : State) (q : Part) (pa : Nat) : (s.crossPart q pa).mem.sram = s.mem.sram := by
  unfold State.crossPart
  dsimp only
  split
  · rfl
  · exact (l1DropUnits_frame _ _ _ _).sram

theorem crossEng_sram (s : State) (u ctx pa : Nat) : (s.crossEng u ctx pa).mem.sram = s.mem.sram := by
  unfold State.crossEng
  split
  · rfl
  · exact crossPart_sram _ _ _

theorem crossRead_sram (s : State) (u ctx : Nat) (tr : Tr) (n : Nat) : (s.crossRead u ctx tr n).mem.sram = s.mem.sram := by
  have key : ∀ (gs : List Nat) (s : State), (gs.foldl (fun s g => s.crossEng u ctx (8 * g)) s).mem.sram = s.mem.sram := by
    intro gs
    induction gs with
    | nil => exact fun _ => rfl
    | cons g gs ih => exact fun s => (ih _).trans (crossEng_sram _ _ _ _)
  unfold State.crossRead
  split
  · exact key _ _
  · rfl

theorem homeGet_sram {bad : Bool} (h : homeGet s u ctx va n = .ok (t, bs, bad)) : t.mem.sram = s.mem.sram := by
  unfold homeGet at h
  split at h
  · cases h
  · rename_i htr
    split at h
    · cases h
    · split at h
      · cases h
      · cases h
        exact (homeLook_frame _ _ _).cache.sram.trans ((crossRead_sram _ _ _ _ _).trans (translate_translated htr).sram)

theorem hvTake_mem {w : Bool} (h : s.hvTake ctx va w = .ok (t, bs)) : t.mem = s.mem := by
  unfold State.hvTake at h
  dsimp only at h
  split at h
  · cases h
  · split at h <;> cases h
    rfl

theorem hvTakes_mem {w : Bool} {ps : List (Nat × Nat)} (h : hvTakes ctx w s ps = .ok (t, bs)) : t.mem = s.mem := by
  induction ps generalizing s bs with
  | nil => cases h; rfl
  | cons p ps ih =>
    rw [hvTakes] at h
    split at h
    · cases h
    · rename_i hg
      split at h
      · cases h
      · rename_i hr
        cases h
        exact (ih hr).trans (hvTake_mem hg)

theorem engGet_sram {bad : Bool} (h : engGet s u ctx va n = .ok (t, bs, bad)) : t.mem.sram = s.mem.sram := by
  unfold engGet at h
  split at h
  · split at h
    · cases h
    · rename_i hr
      cases h
      rw [hvTakes_mem hr]
  · exact homeGet_sram h

theorem engGets_sram {ps : List (Nat × Nat)} {bad : List Bool} (h : engGets s u ctx ps = .ok (t, bs, bad)) : t.mem.sram = s.mem.sram := by
  induction ps generalizing s bs bad with
  | nil => cases h; rfl
  | cons p ps ih =>
    rw [engGets] at h
    split at h
    · cases h
    · rename_i hg
      split at h
      · cases h
      · rename_i hr
        cases h
        exact (ih hr).trans (engGet_sram hg)

/-! ### How much an engine reads -/

theorem hvTakes_length {w : Bool} {ps : List (Nat × Nat)} (h : hvTakes ctx w s ps = .ok (t, bs)) : bs.length = (ps.map (fun p => p.2)).sum := by
  induction ps generalizing s bs with
  | nil => cases h; rfl
  | cons p ps ih =>
    rw [hvTakes] at h
    split at h
    · cases h
    · split at h
      · cases h
      · rename_i hr
        cases h
        simp [ih hr]

theorem cuts_sum {w f a n : Nat} (hw : 0 < w) (hf : n ≤ f) : ((cuts w f a n).map (fun p => p.2)).sum = n := by
  induction f generalizing a n with
  | zero =>
    obtain rfl : n = 0 := by omega
    rfl
  | succ f ih =>
    by_cases hn : n = 0
    · rw [hn, cuts_zero]
      rfl
    · have hm : a % w < w := Nat.mod_lt a hw
      rw [cuts_succ hn, List.map_cons, List.sum_cons, ih (by omega)]
      dsimp only
      omega

theorem engGet_length {bad : Bool} (h : engGet s u ctx va n = .ok (t, bs, bad)) : bs.length = n := by
  unfold engGet at h
  split at h
  · split at h
    · cases h
    · rename_i hr
      cases h
      rw [hvTakes_length hr]
      exact cuts_sum (by decide) (Nat.le_refl n)
  · unfold homeGet at h
    split at h
    · cases h
    · split at h
      · cases h
      · split at h
        · cases h
        · cases h
          exact homeBytes_length _ _ _

theorem engGets_length {ps : List (Nat × Nat)} {bad : List Bool} (h : engGets s u ctx ps = .ok (t, bs, bad)) :
    bs.length = (ps.map (fun p => p.2)).sum := by
  induction ps generalizing s bs bad with
  | nil => cases h; rfl
  | cons p ps ih =>
    rw [engGets] at h
    split at h
    · cases h
    · rename_i hg
      split at h
      · cases h
      · rename_i hr
        cases h
        rw [List.length_append, ih hr, engGet_length hg]
        rfl

/-- An engine read brings as many bytes as it asks for. -/
theorem engRead_length {bad : List Bool} (h : engRead s u ctx va n = .ok (t, bs, bad)) : bs.length = n := by
  rw [engGets_length h, cuts_sum (by decide) (Nat.le_refl n)]

end

/-! ### Writes of bytes without an error -/

theorem quiet_take {bad : List Bool} (h : bad.any id = false) (n : Nat) : (bad.take n).any id = false := by
  rw [List.any_eq_false] at h ⊢
  exact fun x hx => h x (List.mem_of_mem_take hx)

theorem quiet_drop {bad : List Bool} (h : bad.any id = false) (n : Nat) : (bad.drop n).any id = false := by
  rw [List.any_eq_false] at h ⊢
  exact fun x hx => h x (List.mem_of_mem_drop hx)

theorem quiet_getD {bad : List Bool} (h : bad.any id = false) (i : Nat) : bad.getD i false = false := by
  rw [List.getD_eq_getElem?_getD]
  cases hi : bad[i]? with
  | none => rfl
  | some b =>
    rw [List.any_eq_false] at h
    simpa using h b (List.mem_of_getElem? hi)

theorem engPuts_quiet (u ctx : Nat) {ps : List (Nat × Nat)} {s : State} {bs : List Byte} {bad : List Bool} (h : bad.any id = false) :
    engPuts s u ctx ps bs bad = engPuts s u ctx ps bs [] := by
  induction ps generalizing s bs bad with
  | nil => rfl
  | cons p ps ih =>
    rw [engPuts, engPuts, quiet_take h, List.take_nil, List.drop_nil, List.any_nil]
    split
    · rfl
    · exact ih (quiet_drop h _)

/-- Bytes without an error are written as bytes that none is told of. -/
theorem engLines_quiet (u ctx : Nat) {ps : List (Nat × Nat)} {s : State} {bs : List Byte} {bad : List Bool} (h : bad.any id = false) :
    engLines s u ctx ps bs bad = engLines s u ctx ps bs [] := by
  induction ps generalizing s bs bad with
  | nil => rfl
  | cons p ps ih =>
    rw [engLines, engLines, engPuts_quiet u ctx (quiet_take h _), List.take_nil, List.drop_nil]
    split
    · rfl
    · exact ih (quiet_drop h _)

/-! ### A command performed -/

section
variable {s t z : State} {c : Cmd} {k : BitVec 3}

theorem exec_engine (h : InService s c k) : exec (.engineCommandComplete c.id) s = match doCmd s c with
    | .ok t => .next t
    | .error .absent => .next s
    | .error (.flt f) => .next (s.failCmd c (cmdImgc s c) f) := by
  obtain ⟨hf, hd, -⟩ := h
  show execEngineCommandComplete c.id s = _
  unfold execEngineCommandComplete
  rw [hf]
  dsimp only
  rw [hd]
  rfl

theorem exec_performed (h : InService s c k) (ht : doCmd s c = .ok t) : exec (.engineCommandComplete c.id) s = .next t := by
  rw [exec_engine h, ht]

/-- A command of the list after another is performed: its own is marked done. -/
def markDone (c : Cmd) (v : Dword) (x : Cmd) : Cmd := if x.id == c.id then { x with done := some v } else x

theorem markDone_owes (c : Cmd) (v : Dword) (p : Coord) (k : BitVec 3) (x : Cmd) : (markDone c v x).owes p k = x.owes p k := by
  unfold markDone
  split <;> rfl

/-- The completion token of a command in hand is the last that its port is owed: the slot in focus receives it (R225). -/
theorem complete_inService (h : InService s c k) (hs : z.slot = s.slot) (hc : z.cmds = s.cmds) (v : Dword) :
    ∃ cs, z.complete c v = { z with cmds := cs, slot := s.slot.keepPromise k ⟨v, .elem⟩ } := by
  obtain ⟨-, -, hp, ha, ho⟩ := h
  have howes : c.owes c.place k = true := (List.mem_filter.1 (ho ▸ List.mem_singleton_self c : c ∈ s.cmds.filter _)).2
  have hfilter : (s.cmds.map (markDone c v)).filter (fun x => x.owes c.place k) = [{ c with done := some v }] := by
    rw [List.filter_map, show ((fun x : Cmd => x.owes c.place k) ∘ markDone c v) = (fun x => x.owes c.place k) from funext (markDone_owes c v c.place k), ho]
    simp [markDone]
  have hfind : (s.cmds.map (markDone c v)).find? (fun x => x.owes c.place k) = some { c with done := some v } := by
    rw [← List.head?_filter, hfilter]
    rfl
  have hlen : ∃ n, (s.cmds.map (markDone c v)).length = n + 1 := by
    cases hm : s.cmds.map (markDone c v) with
    | nil => rw [hm] at hfind; cases hfind
    | cons x xs => exact ⟨xs.length, rfl⟩
  obtain ⟨n, hn⟩ := hlen
  have hrest : ∀ x ∈ (s.cmds.map (markDone c v)).filter (fun x => x.id != c.id), x.owes c.place k = false := by
    intro x hx
    obtain ⟨hm, hid⟩ := List.mem_filter.1 hx
    by_contra ho
    have : x ∈ (s.cmds.map (markDone c v)).filter (fun x => x.owes c.place k) := List.mem_filter.2 ⟨hm, by simpa using ho⟩
    rw [hfilter, List.mem_singleton] at this
    rw [this] at hid
    simp at hid
  refine ⟨(s.cmds.map (markDone c v)).filter (fun x => x.id != c.id), ?_⟩
  unfold State.complete
  rw [hp]
  show State.sendDone { z with cmds := z.cmds.map (markDone c v) } c.place k (z.cmds.map (markDone c v)).length = _
  rw [hc, hn, State.sendDone]
  dsimp only
  rw [hfind]
  dsimp only
  rw [State.updSlot, if_pos (by show z.slot.at c.place = true; rw [hs]; exact ha)]
  refine (sendDone_none hrest n).trans ?_
  dsimp only
  rw [hs]

theorem informed_of_slot (h : t.slot = s.slot.keepPromise k ⟨v, .elem⟩) : Informed s t k v := by
  rw [Informed, h]
  simp [Slot.keepPromise]

/-- A charge changes the contexts and their partitions' events alone (R405, R407). -/
theorem charge_frame (s : State) (c cls n : Nat) : ∃ xs ps, s.charge c cls n = { s with ctxs := xs, parts := ps } := by
  unfold State.charge State.chargeNj
  dsimp only
  split
  · exact ⟨_, _, rfl⟩
  · split <;> exact ⟨_, _, rfl⟩

/-- A command performed in a state that keeps the slot and the commands: its token is sent, and memory, tiles and arrays stay. -/
theorem complete_sent (h : InService s c k) (hs : z.slot = s.slot) (hc : z.cmds = s.cmds) (v : Dword) :
    Informed s (z.complete c v) k v ∧ (z.complete c v).mem = z.mem ∧ (z.complete c v).mts = z.mts ∧ (z.complete c v).terns = z.terns := by
  obtain ⟨cs, he⟩ := complete_inService h hs hc v
  exact ⟨informed_of_slot (by rw [he]), by rw [he], by rw [he], by rw [he]⟩

theorem complete_charged (h : InService s c k) (hs : z.slot = s.slot) (hc : z.cmds = s.cmds) (v : Dword) (cls n : Nat) :
    Informed s ((z.complete c v).chargeCmd c cls n) k v ∧ ((z.complete c v).chargeCmd c cls n).mem = z.mem ∧
      ((z.complete c v).chargeCmd c cls n).mts = z.mts ∧ ((z.complete c v).chargeCmd c cls n).terns = z.terns := by
  obtain ⟨cs, he⟩ := complete_inService h hs hc v
  obtain ⟨xs, ps, hx⟩ := charge_frame (z.complete c v) ((z.complete c v).cmdCtx c) cls n
  rw [State.chargeCmd, hx, he]
  exact ⟨informed_of_slot rfl, rfl, rfl, rfl⟩

end

end Sys2Proof.Memory
end

section
/-! O50, each command at its engine: CPY, TCHUCK, TFEED, TDRAW and SXFEED, and the command that faults. -/

namespace Sys2Proof.Memory

open Sys2Proof Sys2Proof.Machine Sys2Proof.Claims Sys2Proof.Laws

/-! ### Copies (R249, R250, R256) -/

section
variable {s s1 s2 : State} {c : Cmd} {k : BitVec 3} {dst src : Dword} {n : Nat} {dsp ssp pub full : Bool} {bs : List Byte} {bad : List Bool}

theorem poisonWords_quiet (m : Mem) (u off : Nat) (h : bad.any id = false) : m.poisonWords u off bad = m := by
  unfold Mem.poisonWords
  rw [List.foldl_fixed' (fun i => by rw [quiet_getD h, if_neg Bool.false_ne_true])]

theorem spBad_quiet {m : Mem} {u off n : Nat} (h : m.spBad u off n = false) : (m.spBytes u off n).2.any id = false := by
  unfold Mem.spBad at h
  rw [List.any_eq_false] at h
  unfold Mem.spBytes
  rw [List.any_eq_false]
  intro b hb
  obtain ⟨i, hi, rfl⟩ := List.mem_map.1 hb
  have hin : i < n := List.mem_range.1 hi
  have ha : spAddr u off % 4 = off % 4 := by unfold spAddr; omega
  have hw := h ((off % 4 + i) / 4) (List.mem_range.2 (by omega))
  rw [show (spAddr u off + i) / 4 = spAddr u off / 4 + (off % 4 + i) / 4 by omega]
  exact hw

/-- A copy without an error is written, published and completed (R249, R256). -/
theorem doCpy_ok (hr : cpyRead s c src n ssp = .ok (s1, bs, bad)) (hq : bad.any id = false) (hw : cpyWrite s1 c dst dsp full bs bad = (s2, none)) :
    doCpy s c dst src n dsp ssp pub full =
      .ok (((if pub then cpyPublish s2 c dst else s2).complete c (BitVec.ofNat 64 n)).chargeCmd c 12 ((n + 127) / 128)) := by
  have hnone : (List.range n).find? (fun i => bad.getD i false) = none :=
    List.find?_eq_none.2 (fun i _ => by rw [quiet_getD hq]; exact Bool.false_ne_true)
  unfold doCpy
  rw [hr]
  dsimp only
  rw [hw]
  dsimp only
  rw [hnone]

theorem cpyPublish_frame (s : State) (c : Cmd) (dst : Dword) : RingFrame s (cpyPublish s c dst) := by
  unfold cpyPublish
  split
  · rfl
  · split
    · exact ringSet_frame _ _ _
    · rfl

/-- A copy in hand whose bytes are read and written: its token is sent, and its slot published (R210, R256). -/
theorem copy_performed (h : InService s c k) (hk : c.kind = .cpy dst src n dsp ssp pub full) (hr : cpyRead s c src n ssp = .ok (s1, bs, bad))
    (hq : bad.any id = false) (hw : cpyWrite s1 c dst dsp full bs bad = (s2, none)) (hs : s2.slot = s.slot) (hc : s2.cmds = s.cmds) :
    ∃ t : State, exec (.engineCommandComplete c.id) s = .next t ∧ Informed s t k (BitVec.ofNat 64 n) ∧
      t.mem = (if pub then cpyPublish s2 c dst else s2).mem ∧ t.mts = (if pub then cpyPublish s2 c dst else s2).mts := by
  have hf : RingFrame s2 (if pub then cpyPublish s2 c dst else s2) := by
    split
    · exact cpyPublish_frame _ _ _
    · rfl
  have hdo : doCmd s c = .ok (((if pub then cpyPublish s2 c dst else s2).complete c (BitVec.ofNat 64 n)).chargeCmd c 12 ((n + 127) / 128)) := by
    unfold doCmd
    rw [hk]
    exact doCpy_ok hr hq hw
  obtain ⟨hi, hm, ht, -⟩ := complete_charged h (z := if pub then cpyPublish s2 c dst else s2) (by rw [hf]; exact hs) (by rw [hf]; exact hc)
    (BitVec.ofNat 64 n) 12 ((n + 127) / 128)
  exact ⟨_, exec_performed h hdo, hi, hm, ht⟩

theorem cpyRead_sp {u off : Nat} (hp : s.cmdSp c src n = .ok (u, off)) :
    cpyRead s c src n true = .ok (s, readBytes s.mem.sram (spAddr u off) n, (s.mem.spBytes u off n).2) := by
  unfold cpyRead
  rw [if_pos rfl, hp]
  rfl

theorem cpyWrite_sp {u off : Nat} (hp : s.cmdSp c dst bs.length = .ok (u, off)) (hq : bad.any id = false) :
    cpyWrite s c dst true false bs bad = ({ s with mem := s.mem.spPut u off bs }, none) := by
  unfold cpyWrite
  rw [if_pos rfl, hp]
  dsimp only
  rw [poisonWords_quiet _ _ _ hq]
  rfl

theorem cpyWrite_va (hq : bad.any id = false) : cpyWrite s c dst false false bs bad = engWrite s c.unit (s.cmdCtx c) dst.toNat bs :=
  (if_neg Bool.false_ne_true).trans (engLines_quiet _ _ hq)

theorem readBytes_getD (t : Tbl Byte) (a : Nat) {n i : Nat} (hi : i < n) : (readBytes t a n).getD i 0 = tget 0 t (a + i) := by
  rw [readBytes_eq, List.getD_eq_getElem?_getD, List.getElem?_map, List.getElem?_range hi]
  rfl

/-- A stretch of memory after a string of bytes is laid over it. -/
theorem spPut_sram {m : Mem} (hw : twf 0 m.sram = true) (u off : Nat) (bs : List Byte) (a : Nat) :
    tget 0 (m.spPut u off bs).sram a = if spAddr u off ≤ a ∧ a < spAddr u off + bs.length then bs.getD (a - spAddr u off) 0 else tget 0 m.sram a :=
  tget_writeBytes _ _ _ _ hw

theorem ringFrame_tables {t : State} (h : RingFrame s t) : t.mem.hbm = s.mem.hbm ∧ t.mem.sram = s.mem.sram := by
  rw [h]
  exact ⟨rfl, rfl⟩

/-- A slot that a copy fills is full when the copy is done, where no request waits for it (R256). -/
theorem cpyPublish_full {u off i : Nat} {h : Dword} (hp : s.cmdSp c dst 0 = .ok (u, off)) (hf : (s.mt u).fillingSlot off = some (h, i))
    (hw : s.mem.waits = []) (hm : twf {} s.mts = true) (hs : twf {} (s.mt u).side = true) :
    ((tget {} (cpyPublish s c dst).mts u).sideOf h i).st = .full := by
  unfold cpyPublish
  rw [hp]
  dsimp only
  rw [hf]
  dsimp only
  rw [ringSet_idle hw, State.setMt, tget_tput hm, if_pos rfl, Mt.publish, sideOf_put hs]

end

section
variable {s : State} {c : Cmd} {k : BitVec 3} (h : InService s c k)
include h

/-- A copy between scratchpads moves the bytes that it read before it wrote any. -/
theorem copy_sp {dst src : Dword} {n du d su o : Nat} {pub : Bool} (hk : c.kind = .cpy dst src n true true pub false)
    (hsrc : s.cmdSp c src n = .ok (su, o)) (hdst : s.cmdSp c dst n = .ok (du, d)) (hb : s.mem.spBad su o n = false) (hw : twf 0 s.mem.sram = true) :
    ∃ t : State, exec (.engineCommandComplete c.id) s = .next t ∧ Informed s t k (BitVec.ofNat 64 n) ∧ t.mem.hbm = s.mem.hbm ∧
      (∀ a, tget 0 t.mem.sram a = if spAddr du d ≤ a ∧ a < spAddr du d + n
        then tget 0 s.mem.sram (spAddr su o + (a - spAddr du d)) else tget 0 s.mem.sram a) ∧
      (∀ h i, pub = true → s.cmdSp c dst 0 = .ok (du, d) → (s.mt du).fillingSlot d = some (h, i) → s.mem.waits = [] →
        twf {} s.mts = true → twf {} (s.mt du).side = true → ((t.mt du).sideOf h i).st = .full) := by
  have hl : (readBytes s.mem.sram (spAddr su o) n).length = n := readBytes_length _ _ _
  have hwrite := cpyWrite_sp (s := s) (dst := dst) (bs := readBytes s.mem.sram (spAddr su o) n) (by rw [hl]; exact hdst) (spBad_quiet hb)
  obtain ⟨t, hrun, hi, hm, hmt⟩ := copy_performed h hk (cpyRead_sp hsrc) (spBad_quiet hb) hwrite rfl rfl
  have hf : RingFrame { s with mem := s.mem.spPut du d (readBytes s.mem.sram (spAddr su o) n) }
      (if pub then cpyPublish { s with mem := s.mem.spPut du d (readBytes s.mem.sram (spAddr su o) n) } c dst
        else { s with mem := s.mem.spPut du d (readBytes s.mem.sram (spAddr su o) n) }) := by
    split
    · exact cpyPublish_frame _ _ _
    · rfl
  obtain ⟨hh, hr⟩ := ringFrame_tables hf
  refine ⟨t, hrun, hi, by rw [hm, hh]; rfl, fun a => ?_, fun h' i hp hdst0 hfill hwt hmts hside => ?_⟩
  · rw [hm, hr]
    refine (spPut_sram hw _ _ _ a).trans ?_
    rw [hl]
    refine if_ctx_congr Iff.rfl (fun ha => ?_) (fun _ => rfl)
    exact readBytes_getD _ _ (by omega)
  · rw [State.mt, hmt, hp]
    exact cpyPublish_full hdst0 hfill hwt hmts hside

/-- A copy out of memory lays the bytes that it read over the scratchpad. -/
theorem copy_in {dst src : Dword} {n du d : Nat} {t1 : State} {bs : List Byte} {bad : List Bool} (hk : c.kind = .cpy dst src n true false false false)
    (hr : engRead s c.unit (s.part c.prt).ctx src.toNat n = .ok (t1, bs, bad)) (hdst : t1.cmdSp c dst n = .ok (du, d)) (hq : bad.any id = false)
    (hw : twf 0 s.mem.sram = true) :
    ∃ t : State, exec (.engineCommandComplete c.id) s = .next t ∧ Informed s t k (BitVec.ofNat 64 n) ∧ t.mem.hbm = t1.mem.hbm ∧
      ∀ a, tget 0 t.mem.sram a = if spAddr du d ≤ a ∧ a < spAddr du d + n then bs.getD (a - spAddr du d) 0 else tget 0 s.mem.sram a := by
  have hl := engRead_length hr
  obtain ⟨⟨r, hf⟩, -⟩ := engRead_memOnly hr
  have hsram : t1.mem.sram = s.mem.sram := engGets_sram hr
  have hwrite := cpyWrite_sp (s := t1) (dst := dst) (bs := bs) (by rw [hl]; exact hdst) hq
  obtain ⟨t, hrun, hi, hm, -⟩ := copy_performed h hk hr hq hwrite (by rw [hf]) (by rw [hf])
  refine ⟨t, hrun, hi, by rw [hm]; rfl, fun a => ?_⟩
  rw [hm]
  refine (spPut_sram (by rw [hsram]; exact hw) _ _ _ a).trans ?_
  rw [hl, hsram]

/-- A copy into memory is an engine write of the bytes of the scratchpad. -/
theorem copy_out {dst src : Dword} {n su o : Nat} {t1 : State} (hk : c.kind = .cpy dst src n false true false false)
    (hsrc : s.cmdSp c src n = .ok (su, o)) (hb : s.mem.spBad su o n = false)
    (hw : engWrite s c.unit (s.part c.prt).ctx dst.toNat (readBytes s.mem.sram (spAddr su o) n) = (t1, none)) :
    ∃ t : State, exec (.engineCommandComplete c.id) s = .next t ∧ Informed s t k (BitVec.ofNat 64 n) ∧ t.mem = t1.mem := by
  obtain ⟨⟨r, hf⟩, -⟩ := engWrite_memOnly s c.unit (s.part c.prt).ctx dst.toNat (readBytes s.mem.sram (spAddr su o) n)
  rw [hw] at hf
  dsimp only at hf
  obtain ⟨t, hrun, hi, hm, -⟩ := copy_performed h hk (cpyRead_sp hsrc) (spBad_quiet hb) ((cpyWrite_va (spBad_quiet hb)).trans hw) (by rw [hf]) (by rw [hf])
  exact ⟨t, hrun, hi, hm⟩

/-- A copy within memory is an engine write of the bytes that it read. -/
theorem copy_va {dst src : Dword} {n : Nat} {t1 t2 : State} {bs : List Byte} {bad : List Bool} (hk : c.kind = .cpy dst src n false false false false)
    (hr : engRead s c.unit (s.part c.prt).ctx src.toNat n = .ok (t1, bs, bad)) (hq : bad.any id = false)
    (hw : engWrite t1 c.unit (s.part c.prt).ctx dst.toNat bs = (t2, none)) :
    ∃ t : State, exec (.engineCommandComplete c.id) s = .next t ∧ Informed s t k (BitVec.ofNat 64 n) ∧ t.mem = t2.mem := by
  obtain ⟨⟨r1, h1⟩, -⟩ := engRead_memOnly hr
  obtain ⟨⟨r2, h2⟩, -⟩ := engWrite_memOnly t1 c.unit (s.part c.prt).ctx dst.toNat bs
  rw [hw] at h2
  dsimp only at h2
  have hctx : t1.cmdCtx c = (s.part c.prt).ctx := by rw [h1]; rfl
  obtain ⟨t, hrun, hi, hm, -⟩ := copy_performed h hk hr hq ((cpyWrite_va hq).trans (by rw [hctx]; exact hw)) (by rw [h2, h1]) (by rw [h2, h1])
  exact ⟨t, hrun, hi, hm⟩

end

/-! ### The ternary array (R351, R354 to R356) -/

/-- A table filled from a list of distinct keys, each from what the table held of it before. -/
theorem tget_fill {α : Type} [DecidableEq α] {d : α} (f : Nat → α → α) (n base : Nat) {t : Tbl α} (ht : twf d t = true) (k : Nat) :
    twf d ((List.range n).foldl (fun t e => tput d t (base + e) (f e (tget d t (base + e)))) t) = true ∧
    tget d ((List.range n).foldl (fun t e => tput d t (base + e) (f e (tget d t (base + e)))) t) k =
      if base ≤ k ∧ k < base + n then f (k - base) (tget d t k) else tget d t k := by
  induction n generalizing k with
  | zero => exact ⟨ht, by rw [if_neg (by omega)]; rfl⟩
  | succ n ih =>
    rw [List.range_succ, List.foldl_append]
    obtain ⟨hw, hk⟩ := ih k
    obtain ⟨-, hn⟩ := ih (base + n)
    refine ⟨twf_tput hw _ _, ?_⟩
    rw [List.foldl_cons, List.foldl_nil, tget_tput hw, hn, hk]
    by_cases h1 : k = base + n
    · subst h1
      simp
    · rw [if_neg h1]
      by_cases h2 : base ≤ k ∧ k < base + n
      · rw [if_pos h2, if_pos (by omega)]
      · rw [if_neg h2, if_neg (by omega)]

theorem tget_trits (bs : List Byte) {n i : Nat} (hi : i < n) :
    tget 0 ((List.range n).foldl (fun t i => tput 0 t i (tritOf bs i)) []) i = tritOf bs i := by
  have h := (tget_fill (d := 0) (fun e _ => tritOf bs e) n 0 (t := []) rfl i).2
  simpa [hi] using h

section
variable {s : State} {c : Cmd} {k : BitVec 3} {a : Dword} {bs : List Byte} (h : InService s c k) (hfirst : s.ternFirst c = true)
include hfirst

theorem doTchuck_ok (hr : s.ternRead c a 205 = .ok bs) (hb : ∀ x ∈ bs, x.toNat < 243) : doTchuck s c a =
    .ok ((s.setTern c.unit { s.tern c.unit with trits := (List.range 1024).foldl (fun t i => tput 0 t i (tritOf bs i)) [] }).complete c 1024) := by
  have hnone : (List.range 205).find? (fun i => 243 ≤ (bs.getD i 0).toNat) = none := by
    refine List.find?_eq_none.2 (fun i _ => ?_)
    rw [List.getD_eq_getElem?_getD, decide_eq_true_eq, Nat.not_le]
    cases hi : bs[i]? with
    | none => decide
    | some x => exact hb x (List.mem_of_getElem? hi)
  unfold doTchuck
  rw [hfirst, hr]
  dsimp only
  rw [hnone]
  rfl

include h

theorem tchuck_performed (hk : c.kind = .tchuck a) (hr : s.ternRead c a 205 = .ok bs) (hw : twf {} s.terns = true) (hb : ∀ x ∈ bs, x.toNat < 243) :
    ∃ t : State, exec (.engineCommandComplete c.id) s = .next t ∧ Informed s t k 1024 ∧ (t.tern c.unit).acc = (s.tern c.unit).acc ∧
      ∀ i, i < 1024 → tget 0 (t.tern c.unit).trits i = (bs.getD (i / 5) 0).toNat / 3 ^ (i % 5) % 3 := by
  obtain ⟨hi, -, -, ht⟩ := complete_sent h (z := s.setTern c.unit { s.tern c.unit with
    trits := (List.range 1024).foldl (fun t i => tput 0 t i (tritOf bs i)) [] }) rfl rfl 1024
  have hdo := doTchuck_ok hfirst hr hb
  refine ⟨_, exec_performed h (by unfold doCmd; rw [hk]; exact hdo), hi, ?_, fun i hi => ?_⟩
  · rw [State.tern, ht, State.setTern, tget_tput hw, if_pos rfl]
  · rw [State.tern, ht, State.setTern, tget_tput hw, if_pos rfl]
    dsimp only
    rw [tget_trits bs hi, tritOf]

theorem tchuck_illegal (hk : c.kind = .tchuck a) (hr : s.ternRead c a 205 = .ok bs) {i : Nat} (hi : i < 205) (hb : 243 ≤ (bs.getD i 0).toNat)
    (hfst : ∀ j, j < i → (bs.getD j 0).toNat < 243) : exec (.engineCommandComplete c.id) s =
      .next (s.failCmd c (s.ctImgc c.prt c.unit 2) { code := 0x49, addr := a + BitVec.ofNat 64 i, info := 1 }) := by
  have hfind : (List.range 205).find? (fun i => 243 ≤ (bs.getD i 0).toNat) = some i := by
    rw [List.find?_range_eq_some]
    exact ⟨by simpa using hb, List.mem_range.2 hi, fun j hj => by simpa using hfst j hj⟩
  have hdo : doCmd s c = .error (.flt { code := 0x49, addr := a + BitVec.ofNat 64 i, info := 1 }) := by
    unfold doCmd
    rw [hk]
    dsimp only
    unfold doTchuck
    rw [hfirst, hr]
    dsimp only
    rw [hfind]
    rfl
  rw [exec_engine h, hdo]
  unfold cmdImgc
  rw [hk]

/-- A feed adds a vector of activations to each of its rows (R355). -/
theorem tfeed_performed {row0 cnt : Nat} {sat : Bool} (hk : c.kind = .tfeed a row0 cnt sat) (hr : s.ternRead c a (32 * cnt) = .ok bs)
    (ha : twf 0 (s.tern c.unit).acc = true) (hw : twf {} s.terns = true) :
    ∃ t : State, exec (.engineCommandComplete c.id) s = .next t ∧ Informed s t k (BitVec.ofNat 64 cnt) ∧
      (t.tern c.unit).trits = (s.tern c.unit).trits ∧ ∀ r n, n < 32 → tget 0 (t.tern c.unit).acc (32 * r + n) =
        if row0 ≤ r ∧ r < row0 + cnt
        then ternSum sat (s.tern c.unit).trits ((bs.drop (32 * (r - row0))).take 32) n (tget 0 (s.tern c.unit).acc (32 * r + n))
        else tget 0 (s.tern c.unit).acc (32 * r + n) := by
  obtain ⟨hi, -, -, ht⟩ := complete_charged h (z := s.setTern c.unit { s.tern c.unit with
    acc := (List.range (32 * cnt)).foldl (fun t e => tput 0 t (32 * row0 + e) (ternSum sat (s.tern c.unit).trits ((bs.drop (32 * (e / 32))).take 32)
      (e % 32) (tget 0 t (32 * row0 + e)))) (s.tern c.unit).acc }) rfl rfl (BitVec.ofNat 64 cnt) 9 cnt
  refine ⟨_, exec_performed h ?_, hi, ?_, fun r n hn => ?_⟩
  · unfold doCmd
    rw [hk]
    dsimp only
    unfold doTfeed
    rw [hfirst, hr]
    rfl
  · rw [State.tern, ht, State.setTern, tget_tput hw, if_pos rfl]
  · rw [State.tern, ht, State.setTern, tget_tput hw, if_pos rfl]
    refine (tget_fill (fun e x => ternSum sat (s.tern c.unit).trits ((bs.drop (32 * (e / 32))).take 32) (e % 32) x) (32 * cnt) (32 * row0) ha
      (32 * r + n)).2.trans ?_
    by_cases hrow : row0 ≤ r ∧ r < row0 + cnt
    · rw [if_pos (by omega), if_pos hrow, show (32 * r + n - 32 * row0) / 32 = r - row0 by omega, show (32 * r + n - 32 * row0) % 32 = n by omega]
    · rw [if_neg (by omega), if_neg hrow]

end

/-! ### Accumulators drawn into a scratchpad (R356) -/

/-- The bytes of `n` words in a row. -/
def wordBytes (f : Nat → Word) (n : Nat) : List Byte := (List.range n).flatMap (fun e => natToBytes 4 (f e).toNat)

theorem wordBytes_succ (f : Nat → Word) (n : Nat) : wordBytes f (n + 1) = wordBytes f n ++ natToBytes 4 (f n).toNat := by
  unfold wordBytes
  rw [List.range_succ, List.flatMap_append, List.flatMap_singleton]

theorem wordBytes_length (f : Nat → Word) (n : Nat) : (wordBytes f n).length = 4 * n := by
  induction n with
  | zero => rfl
  | succ n ih => rw [wordBytes_succ, List.length_append, ih, natToBytes_length, Nat.mul_succ]

theorem wordBytes_getD (f : Nat → Word) {n i j : Nat} (hi : i < n) (hj : j < 4) :
    (wordBytes f n).getD (4 * i + j) 0 = (natToBytes 4 (f i).toNat).getD j 0 := by
  induction n with
  | zero => omega
  | succ n ih =>
    have hl := wordBytes_length f n
    rw [wordBytes_succ]
    by_cases hin : i < n
    · rw [List.getD_append _ _ _ _ (by omega), ih hin]
    · obtain rfl : i = n := by omega
      rw [List.getD_append_right _ _ _ _ (by omega), hl, Nat.add_sub_cancel_left]

/-- A word written in a row of words is read back at its place. -/
theorem spGet_words {m : Mem} (hw : twf 0 m.sram = true) (u off : Nat) (f : Nat → Word) {n i : Nat} (hi : i < n) :
    (m.spPut u off (wordBytes f n)).spGet u (off + 4 * i) 4 = (f i).toNat := by
  have hread : readBytes (m.spPut u off (wordBytes f n)).sram (spAddr u (off + 4 * i)) 4 = natToBytes 4 (f i).toNat := by
    refine List.ext_getElem (by rw [readBytes_length, natToBytes_length]) (fun j hj _ => ?_)
    rw [readBytes_length] at hj
    rw [← List.getD_eq_getElem _ 0, ← List.getD_eq_getElem _ 0, readBytes_getD _ _ hj, spPut_sram hw, wordBytes_length, if_pos (by unfold spAddr; omega),
      ← wordBytes_getD f hi hj]
    congr 1
    unfold spAddr
    omega
  rw [Mem.spGet, hread, bytesToNat_natToBytes, show (256 : Nat) ^ 4 = 2 ^ 32 from rfl, Nat.mod_eq_of_lt (f i).isLt]

/-- A draw writes the accumulators of its rows, and leaves them zero where it clears (R356). -/
theorem tdraw_performed {s : State} {c : Cmd} {k : BitVec 3} {a : Dword} (h : InService s c k) (hfirst : s.ternFirst c = true) {row0 cnt u o : Nat}
    {clr : Bool} (hk : c.kind = .tdraw a row0 cnt clr) (hp : s.cmdSp c a (128 * cnt) = .ok (u, o)) (hs : twf 0 s.mem.sram = true)
    (ha : twf 0 (s.tern c.unit).acc = true) (hw : twf {} s.terns = true) :
    ∃ t : State, exec (.engineCommandComplete c.id) s = .next t ∧ Informed s t k (BitVec.ofNat 64 cnt) ∧
      (∀ i n, i < cnt → n < 32 → t.mem.spGet u (o + 128 * i + 4 * n) 4 = (tget 0 (s.tern c.unit).acc (32 * (row0 + i) + n)).toNat) ∧
      ∀ r n, n < 32 → tget 0 (t.tern c.unit).acc (32 * r + n) =
        if clr = true ∧ row0 ≤ r ∧ r < row0 + cnt then 0 else tget 0 (s.tern c.unit).acc (32 * r + n) := by
  let acc := if clr then tdrop (s.tern c.unit).acc (32 * row0) (32 * (row0 + cnt)) else (s.tern c.unit).acc
  obtain ⟨hi, hm, -, ht⟩ := complete_sent h (z := ({ s with
    mem := s.mem.spPut u o (wordBytes (fun e => tget 0 (s.tern c.unit).acc (32 * row0 + e)) (32 * cnt)) } : State).setTern c.unit
      { s.tern c.unit with acc := acc }) rfl rfl (BitVec.ofNat 64 cnt)
  refine ⟨_, exec_performed h ?_, hi, fun i n hi hn => ?_, fun r n hn => ?_⟩
  · unfold doCmd
    rw [hk]
    dsimp only
    unfold doTdraw
    rw [hfirst, hp]
    rfl
  · rw [hm]
    refine (congrArg (fun x => Mem.spGet _ u x 4) (show o + 128 * i + 4 * n = o + 4 * (32 * i + n) by omega)).trans ?_
    refine (spGet_words hs u o (fun e => tget 0 (s.tern c.unit).acc (32 * row0 + e)) (show 32 * i + n < 32 * cnt by omega)).trans ?_
    rw [show 32 * row0 + (32 * i + n) = 32 * (row0 + i) + n by omega]
  · rw [State.tern, ht, State.setTern, tget_tput hw, if_pos rfl]
    show tget 0 acc _ = _
    cases clr with
    | false => simp [acc]
    | true =>
      refine (tget_tdrop ha _ _ _).trans ?_
      by_cases hrow : row0 ≤ r ∧ r < row0 + cnt
      · rw [if_pos (by omega), if_pos ⟨rfl, hrow⟩]
      · rw [if_neg (by omega), if_neg (fun hc => hrow hc.2)]

/-! ### A command that faults (R250, R264, R279) -/

theorem failCmd_ends {s : State} {c : Cmd} {f : Flt} (hf : fltClass f.code = 2) (imgc : Nat) :
    ((s.failCmd c imgc f).part c.prt).phase = .ended ∧ (s.failCmd c imgc f).cmds.all (fun x => x.id != c.id && x.prt != c.prt) = true := by
  unfold State.failCmd State.raiseEngine
  dsimp only
  rw [if_pos hf]
  refine ⟨(Organisation.stopped_stopPart _ _).1, ?_⟩
  rw [Tasks.stopPart_cmds, List.all_eq_true]
  intro x hx
  obtain ⟨hx, hp⟩ := List.mem_filter.1 hx
  rw [Bool.and_eq_true]
  exact ⟨(List.mem_filter.1 hx).2, hp⟩

theorem engineCommands : Claims.EngineCommands := by
  intro s c k h run ctx
  refine ⟨fun dst src n du d su o pub hk hs hd hb hw => copy_sp h hk hs hd hb hw,
    fun dst src n du d t1 bs bad hk hr hd hq hw => copy_in h hk hr hd hq hw, fun dst src n su o t1 hk hs hb hw => copy_out h hk hs hb hw,
    fun dst src n t1 t2 bs bad hk hr hq hw => copy_va h hk hr hq hw,
    fun a bs hk hfirst hr hw => ⟨tchuck_performed h hfirst hk hr hw, fun i hi hb hj => tchuck_illegal h hfirst hk hr hi hb hj⟩,
    fun a row0 cnt sat bs hk hfirst hr ha hw => tfeed_performed h hfirst hk hr ha hw,
    fun a row0 cnt clr u o hk hfirst hp hs ha hw => tdraw_performed h hfirst hk hp hs ha hw, fun hd va n eos hk => ?_, fun ha => ?_,
    fun f hd hf => ?_⟩
  · have hdo : doCmd s c = .ok (s.complete c (BitVec.ofNat 64 n)) := by
      unfold doCmd
      rw [hk]
      rfl
    exact ⟨_, exec_performed h hdo, (complete_sent h rfl rfl _).1⟩
  · exact (exec_engine h).trans (by rw [ha])
  · exact ⟨_, (exec_engine h).trans (by rw [hd]), failCmd_ends hf _⟩

/-- Settles O50. -/
theorem requestsAndEngines : Obligations.RequestsAndEngines := ⟨waitingRequests, engineCommands, engineAccesses⟩

end Sys2Proof.Memory
end

section
/-! O55: a host write at a physical address may make a full set of the L2 slices give up a line (R22), and where that line holds a
clean byte that HBM does not, the byte changes. The statement asks no coherence of memory there, and so fails. -/

namespace Sys2Proof.Memory

open Sys2Proof Sys2Proof.Machine Sys2Proof.Claims Sys2Proof.Laws

/-- Sixteen clean copies that fill set 0 of the slices of stack 0, whose first bytes are 1, over an HBM that reads 0 everywhere. -/
def crowdedLines : List Line := (List.range 16).map (fun k => { unit := 0, ctx := 0, line := 2 ^ 15 * k, data := 1, dirty := 0, bad := 0 })

/-- A booted machine whose caches are not coherent with HBM. -/
def crowded : State := { State.reset with mem := { l2 := crowdedLines }, sys := { State.reset.sys with stage := 5 } }

/-- A host write at a physical address puts its pieces at their homes, one after the other. -/
theorem hostBar2Write_phys {s : State} {f off pa : Nat} {data : List Byte} (hp : s.presented = true) (hl : off + data.length ≤ barSize f)
    (ht : s.barTarget f off = .inl pa) :
    exec (.hostBar2Write f off data) s = .next (putPieces State.hostPhys (cuts 128 data.length pa data.length) data s) := by
  have hh : s.hostHeld f off data.length true = false := by rw [State.hostHeld, ht]
  show execHostBar2Write f off data s = _
  unfold execHostBar2Write
  rw [hp, hh, ht, if_neg]
  simp only [Bool.not_true, Bool.false_or, Bool.or_false, decide_eq_true_eq]
  omega

theorem crowded_writes : exec (.hostBar2Write 0 (2 ^ 26) [7]) crowded =
    .next { crowded with mem := crowded.mem.homePut 0 (2 ^ 26) [7] } := by
  have hctx : crowded.mem.lineCtx (2 ^ 26) = 0 := by decide +kernel
  rw [hostBar2Write_phys (pa := 2 ^ 26) (by decide +kernel) (by decide) (by decide +kernel),
    show cuts 128 [(7 : Byte)].length (2 ^ 26) [(7 : Byte)].length = [(2 ^ 26, 1)] by decide]
  show Host.Outcome.next (crowded.hostPhys (2 ^ 26) [7]) = _
  rw [State.hostPhys, if_neg (by decide), hctx]

theorem crowded_before : crowded.mem.homeByte 0 = 1 := by decide +kernel

/-- The line of the write takes the way of line 0, which HBM does not hold. -/
theorem crowded_after : (crowded.mem.homePut 0 (2 ^ 26) [7]).homeByte 0 = 0 := by decide +kernel

/-- Refutes O55: in `crowded` a write at 2^26 changes the byte at 0. -/
theorem not_hostAccesses : ¬ Obligations.HostAccesses := by
  rintro ⟨-, -, hwrite, -⟩
  obtain ⟨t, u, ht, -, -, -, hkept, -⟩ := hwrite crowded 0 (2 ^ 26) [7] (by decide +kernel) (by decide) (by decide +kernel) (by decide)
    (by decide +kernel) (by decide +kernel)
  rw [crowded_writes] at ht
  cases ht
  have h0 := hkept 0 (.inl (by decide +kernel))
  rw [crowded_before, crowded_after] at h0
  exact absurd h0 (by decide)

end Sys2Proof.Memory
end

section
/-! O60: the canonical form of memory is kept. The rules that the lemmas about the model's functions share: what it means that a result
keeps it, for each shape of result, and how a state taken from a result has it. -/

namespace Sys2Proof.Memory

open Sys2Proof Sys2Proof.Machine Sys2Proof.Claims Sys2Proof.Laws

/-! ### Results whose states have a canonical memory -/

section
variable {ε α : Type}

/-- A result that is a state, or a stop with the state it leaves. -/
@[reducible] def Keeps : Except (ε × State) State → Prop
  | .ok t => t.mem.wf = true
  | .error e => e.2.mem.wf = true

/-- A result that is a state with a value, or a stop with the state it leaves. -/
@[reducible] def KeepsWith : Except (ε × State) (State × α) → Prop
  | .ok t => t.1.mem.wf = true
  | .error e => e.2.mem.wf = true

/-- A result that is a value with a state, or a stop with the state it leaves. -/
@[reducible] def KeepsSnd : Except (ε × State) (α × State) → Prop
  | .ok t => t.2.mem.wf = true
  | .error e => e.2.mem.wf = true

/-- A result that is a state, or an error that leaves no state. -/
@[reducible] def KeepsOk : Except ε State → Prop
  | .ok t => t.mem.wf = true
  | .error _ => True

/-- A result that is a state with a value, or an error that leaves no state. -/
@[reducible] def KeepsOkWith : Except ε (State × α) → Prop
  | .ok t => t.1.mem.wf = true
  | .error _ => True

/-- A result that is a value, or a stop with the state it leaves. -/
@[reducible] def KeepsStop : Except (ε × State) α → Prop
  | .ok _ => True
  | .error e => e.2.mem.wf = true

/-- A state that a function may find, or not. -/
@[reducible] def KeepsSome : Option State → Prop
  | some t => t.mem.wf = true
  | none => True

/-- The outcome of an instruction or an event that goes on. -/
@[reducible] def KeepsNext : Host.Outcome State Fault Refusal → Prop
  | .next t => t.mem.wf = true
  | .fault _ => True
  | .refused _ => True

/-! ### States taken from results -/

variable {s t : State} {e : ε} {a : α}

theorem wf_of_ok {r : Except (ε × State) State} (hr : r = .ok t) (h : Keeps r) : t.mem.wf = true := by subst hr; exact h
theorem wf_of_stop {r : Except (ε × State) State} (hr : r = .error (e, t)) (h : Keeps r) : t.mem.wf = true := by subst hr; exact h
theorem wf_of_error {r : Except (ε × State) State} {e : ε × State} (hr : r = .error e) (h : Keeps r) : e.2.mem.wf = true := by
  subst hr; exact h
theorem wf_of_okWith {r : Except (ε × State) (State × α)} (hr : r = .ok (t, a)) (h : KeepsWith r) : t.mem.wf = true := by subst hr; exact h
theorem wf_of_okSnd {r : Except (ε × State) (α × State)} (hr : r = .ok (a, t)) (h : KeepsSnd r) : t.mem.wf = true := by subst hr; exact h
theorem wf_of_stopSnd {r : Except (ε × State) (α × State)} (hr : r = .error (e, t)) (h : KeepsSnd r) : t.mem.wf = true := by
  subst hr; exact h
theorem wf_of_stopWith {r : Except (ε × State) (State × α)} (hr : r = .error (e, t)) (h : KeepsWith r) : t.mem.wf = true := by
  subst hr; exact h
theorem wf_of_errorWith {r : Except (ε × State) (State × α)} {e : ε × State} (hr : r = .error e) (h : KeepsWith r) : e.2.mem.wf = true := by
  subst hr; exact h
theorem wf_of_halt {r : Except (ε × State) α} (hr : r = .error (e, t)) (h : KeepsStop r) : t.mem.wf = true := by subst hr; exact h
theorem wf_of_halted {r : Except (ε × State) α} {e : ε × State} (hr : r = .error e) (h : KeepsStop r) : e.2.mem.wf = true := by
  subst hr; exact h
theorem wf_of_done {r : Except ε State} (hr : r = .ok t) (h : KeepsOk r) : t.mem.wf = true := by subst hr; exact h
theorem wf_of_doneWith {r : Except ε (State × α)} (hr : r = .ok (t, a)) (h : KeepsOkWith r) : t.mem.wf = true := by subst hr; exact h
theorem wf_of_some {r : Option State} (hr : r = some t) (h : KeepsSome r) : t.mem.wf = true := by subst hr; exact h
theorem wf_of_fst {r : State × α} (hr : r = (t, a)) (h : r.1.mem.wf = true) : t.mem.wf = true := by subst hr; exact h

/-- A list of steps each of which keeps the canonical form. -/
theorem states_wf {β : Type} {f : State → β → State} (hf : ∀ s x, s.mem.wf = true → (f s x).mem.wf = true) (xs : List β)
    (h : s.mem.wf = true) : (xs.foldl f s).mem.wf = true := by
  induction xs generalizing s with
  | nil => exact h
  | cons x xs ih => exact ih (hf s x h)

end

/-! ### The functions that the earlier laws speak of -/

section
variable {s t : State} (h : s.mem.wf = true)
include h

theorem setMt_wf (u : Nat) (x : Mt) : (s.setMt u x).mem.wf = true := h
theorem setPart_wf (p : Nat) (x : Part) : (s.setPart p x).mem.wf = true := h
theorem setCtx_wf (c : Nat) (x : Ctx) : (s.setCtx c x).mem.wf = true := h
theorem setLq_wf (f q : Nat) (x : Lq) : (s.setLq f q x).mem.wf = true := h
theorem setIsl_wf (n : Nat) (x : Island) : (s.setIsl n x).mem.wf = true := h
theorem setEdge_wf (e : Nat) (x : Edge) : (s.setEdge e x).mem.wf = true := h
theorem setTern_wf (u : Nat) (x : Ternary) : (s.setTern u x).mem.wf = true := h
theorem mapSlots_wf (f : Slot → Slot) : (s.mapSlots f).mem.wf = true := h
theorem updSlot_wf (c : Coord) (f : Slot → Slot) : (s.updSlot c f).mem.wf = true := by rw [updSlot_mem]; exact h
theorem focus_wf (c : Coord) : (s.focus c).mem.wf = true := by rw [focus_mem]; exact h
theorem done_wf (o : Ops) (v : Option Dword) (cls n : Nat) : (s.done o v cls n).mem.wf = true := by rw [done_mem]; exact h
theorem withdraw_wf (c : Coord) : (s.withdraw c).mem.wf = true := by rw [withdraw_mem]; exact h
theorem charge_wf (c cls n : Nat) : (s.charge c cls n).mem.wf = true := by rw [charge_mem]; exact h
theorem postSlot_wf (x : Slot) : (s.postSlot x).mem.wf = true := by rw [postSlot_mem]; exact h
theorem hvFresh_wf (c : Nat) : (s.hvFresh c).mem.wf = true := h
theorem hvDrop_wf (ctx va n : Nat) (w : Bool) : (s.hvDrop ctx va n w).mem.wf = true := h

theorem translate_wf (u ctx va : Nat) : KeepsOkWith (Machine.translate s u ctx va) := by
  cases hr : Machine.translate s u ctx va with
  | error e => trivial
  | ok r => exact (translate_frame hr).2 h

theorem translateAll_wf (u ctx : Nat) (vas : List Nat) : KeepsWith (translateAll s u ctx vas) := by
  induction vas generalizing s with
  | nil => exact h
  | cons va vas ih =>
    rw [translateAll]
    split
    · exact ih h
    · split
      · exact h
      · rename_i htr
        have ht := wf_of_doneWith htr (translate_wf h u ctx va)
        split
        · rename_i hall
          exact wf_of_errorWith hall (ih ht)
        · rename_i hall
          exact wf_of_okWith hall (ih ht)

theorem engGet_wf (u ctx va n : Nat) : KeepsOkWith (engGet s u ctx va n) := by
  cases hr : engGet s u ctx va n with
  | error e => trivial
  | ok r => exact (engGet_memOnly (t := r.1) (bs := r.2.1) (bad := r.2.2) hr).2 h

theorem engPut_wf (u ctx va : Nat) (bs : List Byte) (bad : Bool) : KeepsOk (engPut s u ctx va bs bad) := by
  cases hr : engPut s u ctx va bs bad with
  | error e => trivial
  | ok r => exact (engPut_memOnly hr).2 h

theorem engRead_wf (u ctx va n : Nat) : KeepsOkWith (engRead s u ctx va n) := by
  cases hr : engRead s u ctx va n with
  | error e => trivial
  | ok r => exact (engRead_memOnly (t := r.1) (bs := r.2.1) (bad := r.2.2) hr).2 h

theorem engReadOk_wf (u ctx va n : Nat) : KeepsOkWith (engReadOk s u ctx va n) := by
  cases hr : engReadOk s u ctx va n with
  | error e => trivial
  | ok r => exact (engReadOk_memOnly (t := r.1) (bs := r.2) hr).2 h

theorem homeGet_wf (u ctx va n : Nat) : KeepsOkWith (homeGet s u ctx va n) := by
  cases hr : homeGet s u ctx va n with
  | error e => trivial
  | ok r => exact (homeGet_memOnly (t := r.1) (bs := r.2.1) (bad := r.2.2) hr).2 h

theorem homeSet_wf (u ctx va : Nat) (bs : List Byte) (bad : Bool) : KeepsOk (homeSet s u ctx va bs bad) := by
  cases hr : homeSet s u ctx va bs bad with
  | error e => trivial
  | ok r => exact (homeSet_memOnly hr).2 h

theorem engWrite_wf (u ctx va : Nat) (bs : List Byte) : (engWrite s u ctx va bs).1.mem.wf = true := (engWrite_memOnly s u ctx va bs).2 h

theorem engWriteBad_wf (u ctx va : Nat) (bs : List Byte) (bad : List Bool) : (engWriteBad s u ctx va bs bad).1.mem.wf = true :=
  (engLines_memOnly u ctx _ s bs bad).2 h

theorem crossPart_wf (q : Part) (pa : Nat) : (s.crossPart q pa).mem.wf = true := (crossPart_memOnly s q pa).2 h
theorem crossEng_wf (u ctx pa : Nat) : (s.crossEng u ctx pa).mem.wf = true := (crossEng_memOnly s u ctx pa).2 h

end

end Sys2Proof.Memory
end

section
/-! O60: the shared shapes of the instructions, and the memory instructions. -/

namespace Sys2Proof.Memory

open Sys2Proof Sys2Proof.Machine Sys2Proof.Claims Sys2Proof.Laws

section
variable {s : State} (h : s.mem.wf = true)

/-! ### Slot instructions (R36, R40, R154) -/

theorem finish_keeps {r : Res State} (hr : Keeps r) : KeepsNext (finish r) := by
  cases r with
  | ok t => exact hr
  | error e => exact stopBy_wf hr

include h

theorem run_wf {f : State → Res State} (hf : s.mem.wf = true → Keeps (f s)) : KeepsNext (s.run f) := by
  unfold State.run
  split
  · exact finish_keeps (hf h)
  · exact h

theorem runSlot_wf (cls : Nat) (f : Slot → Except Stop Slot) : KeepsNext (s.runSlot cls f) := by
  unfold State.runSlot
  split
  · split
    · exact h
    · exact stopBy_wf h
  · exact h

theorem alu_wf (o : Ops) (cls : Nat) (f : Got → Slot → Dword × Slot) : KeepsNext (s.alu o cls f) := runSlot_wf h _ _

/-! ### Operands and their effects (R149, R151) -/

theorem operandsWith_wf {o : Ops} {wr : Wr} {g : Got} {t : State} (hr : s.operandsWith o wr = .ok (g, t)) : t.mem.wf = true := by
  unfold State.operandsWith at hr
  split at hr
  · cases hr
  · cases hr
    exact h

theorem operandsWith_stop {o : Ops} {wr : Wr} {e : Stop × State} (hr : s.operandsWith o wr = .error e) : e.2.mem.wf = true := by
  unfold State.operandsWith at hr
  split at hr
  · cases hr
    exact h
  · cases hr

theorem memoryWith_wf (o : Ops) (wr : Wr) {f : Got → State → Acc State} (hf : ∀ g t, t.mem.wf = true → Keeps (f g t)) :
    Keeps (s.memoryWith o wr f) := by
  unfold State.memoryWith
  split
  · rename_i hr
    exact operandsWith_stop h hr
  · rename_i g t hr
    have ht := hf g t (operandsWith_wf h hr)
    split
    · rename_i he
      exact faultAt_wf h (wf_of_stop he ht) _
    · rename_i he
      exact wf_of_ok he ht

theorem memory_wf (o : Ops) {f : Got → State → Acc State} (hf : ∀ g t, t.mem.wf = true → Keeps (f g t)) : Keeps (s.memory o f) :=
  memoryWith_wf h o _ hf

theorem guardedWith_wf (o : Ops) (wr : Wr) {f : Got → State → Res State} (hf : ∀ g t, t.mem.wf = true → Keeps (f g t)) :
    Keeps (s.guardedWith o wr f) := by
  unfold State.guardedWith
  split
  · rename_i hr
    exact operandsWith_stop h hr
  · rename_i g t hr
    have ht := hf g t (operandsWith_wf h hr)
    split
    · rename_i he
      exact faultAt_wf h (wf_of_stop he ht) _
    · exact h
    · rename_i he
      exact wf_of_ok he ht

theorem guarded_wf (o : Ops) {f : Got → State → Res State} (hf : ∀ g t, t.mem.wf = true → Keeps (f g t)) : Keeps (s.guarded o f) :=
  guardedWith_wf h o _ hf

theorem answer_wf (o : Ops) {f : Got → State → State × Dword} (hf : ∀ g t, t.mem.wf = true → (f g t).1.mem.wf = true) :
    Keeps (s.answer o f) := by
  unfold State.answer
  split
  · rename_i hr
    exact operandsWith_stop h hr
  · rename_i g t hr
    exact done_wf (hf g t (operandsWith_wf h hr)) _ _ _ _

theorem groupRun_wf (na nd : Nat) (o : Ops) {f : State → Res State} (hf : s.mem.wf = true → Keeps (f s)) :
    Keeps (groupRun na nd f o s) := by
  unfold groupRun
  split
  · exact hf h
  · split <;> exact h

end

/-! ### Results chosen by a condition -/

section
variable {ε α : Type} {c : Prop} [Decidable c]

theorem ite_wf {s t : State} (hs : s.mem.wf = true) (ht : t.mem.wf = true) : (if c then s else t).mem.wf = true := by split <;> assumption

theorem ite_keepsStop {q r : Except (ε × State) α} (hq : KeepsStop q) (hs : KeepsStop r) : KeepsStop (if c then q else r) := by
  split <;> assumption

theorem map_keepsWith {β : Type} {r : Except (ε × State) (State × α)} {f : State × α → State × β} (hr : KeepsWith r)
    (hf : ∀ p, p.1.mem.wf = true → (f p).1.mem.wf = true) : KeepsWith (r.map f) := by
  cases r with
  | ok p => exact hf p hr
  | error e => exact hr

theorem map_keeps {r : Except (ε × State) (State × α)} {f : State × α → State} (hr : KeepsWith r)
    (hf : ∀ p, p.1.mem.wf = true → (f p).mem.wf = true) : Keeps (r.map f) := by
  cases r with
  | ok p => exact hf p hr
  | error e => exact hr

theorem mapState_keepsWith {r : Except (ε × State) State} {f : State → State × α} (hr : Keeps r)
    (hf : ∀ t, t.mem.wf = true → (f t).1.mem.wf = true) : KeepsWith (r.map f) := by
  cases r with
  | ok t => exact hf t hr
  | error e => exact hr

theorem map_keepsOkWith {β : Type} {r : Except ε (State × α)} {f : State × α → State × β} (hr : KeepsOkWith r)
    (hf : ∀ p, p.1.mem.wf = true → (f p).1.mem.wf = true) : KeepsOkWith (r.map f) := by
  cases r with
  | ok p => exact hf p hr
  | error e => trivial

theorem map_keepsOk {r : Except ε (State × α)} {f : State × α → State} (hr : KeepsOkWith r)
    (hf : ∀ p, p.1.mem.wf = true → (f p).mem.wf = true) : KeepsOk (r.map f) := by
  cases r with
  | ok p => exact hf p hr
  | error e => trivial

end

/-! ### Parts of memory that the canonical form does not speak of -/

section
variable {m : Mem} (h : m.wf = true)
include h

theorem waits_wf (ws : List Waiter) : ({ m with waits := ws } : Mem).wf = true := h
theorem clears_wf (cs : List (Nat × Nat × Nat)) : ({ m with clears := cs } : Mem).wf = true := h
theorem notes_wf (xs : List MemNote) : ({ m with notes := xs } : Mem).wf = true := h
theorem l1_wf (ls : List Line) : ({ m with l1 := ls } : Mem).wf = true := h
theorem l2_wf (ls : List Line) : ({ m with l2 := ls } : Mem).wf = true := h
theorem invalidate_wf (v : Dword) : (m.invalidate v).wf = true := h
theorem dropCtx_wf (c : Nat) : (m.dropCtx c).wf = true := h

theorem full_tdrop_wf (lo hi : Nat) : ({ m with full := tdrop m.full lo hi } : Mem).wf = true := by
  obtain ⟨h1, h2, h3, h4, h5, h6⟩ := (wf_iff m).1 h
  exact (wf_iff _).2 ⟨h1, h2, h3, twf_tdrop h4 _ _, h5, h6⟩

theorem wipe_wf (u : Nat) : (m.wipe u).wf = true := by
  obtain ⟨h1, h2, h3, h4, h5, h6⟩ := (wf_iff m).1 h
  exact (wf_iff _).2 ⟨h1, twf_tdrop h2 _ _, h3, h4, h5, twf_tdrop h6 _ _⟩

theorem homeRewrite_wf (ctx pa w : Nat) (new : Option Nat) : (m.homeRewrite ctx pa w new).wf = true := by
  cases new with
  | some v => exact homePut_wf h _ _ _
  | none => exact h

theorem rebase_wf (r : FRing) (pa : Nat) : (r.rebase m pa).1.wf = true := flush_wf _ h _

theorem setFlg_wf (block n : Nat) : (m.setFlg block n).wf = true := physPut_wf h _ _

theorem dropCopies_wf (g n : Nat) : (m.dropCopies g n).wf = true := by
  have h1 := foldl_wf (fun (m : Mem) (l : Line) => m.l1Drop l.unit l.line l.ctx) (fun _ _ hm => l1Drop_wf hm _ _ _)
    ((m.l1.map (fun l => l.unclear g n)).filter (fun l => clearMask g n l.line != 0)) (l1_wf h (m.l1.map (fun l => l.unclear g n)))
  exact foldl_wf _ (fun _ _ hm => l2Evict_wf hm _ _ _) _ (l2_wf h1 _)

/-- The presence of a range cleared, as `dropCopies` leaves it. -/
theorem cleared_wf (g n : Nat) (f : Tbl Nat) :
    ({ m.dropCopies g n with present := tdrop m.present g (g + n), fenced := f } : Mem).wf = true := by
  obtain ⟨_, _, h3, _, _, _⟩ := (wf_iff m).1 h
  obtain ⟨h1, h2, _, h4, h5, h6⟩ := (wf_iff _).1 (dropCopies_wf h g n)
  exact (wf_iff _).2 ⟨h1, h2, twf_tdrop h3 _ _, h4, h5, h6⟩

theorem applyClears_wf (p : Nat) : (m.applyClears p).wf = true := foldl_wf _ (fun _ _ hm => cleared_wf hm _ _ _) _ (clears_wf h _)

end

end Sys2Proof.Memory
end

section
/-! O60: loads and stores, waiting requests, rings, copies and cursors keep the canonical form of memory. -/

namespace Sys2Proof.Memory

open Sys2Proof Sys2Proof.Machine Sys2Proof.Claims Sys2Proof.Laws

theorem translateTables_wf {s : State} (h : s.mem.wf = true) (u ctx va : Nat) : KeepsOkWith (translateTables s u ctx va) := by
  cases hr : translateTables s u ctx va with
  | error e => trivial
  | ok r => exact (translateTables_frame hr).2 h

theorem crossRead_wf {s : State} (h : s.mem.wf = true) (u ctx : Nat) (t : Tr) (n : Nat) : (s.crossRead u ctx t n).mem.wf = true := by
  unfold State.crossRead
  split
  · exact states_wf (fun _ _ ht => crossEng_wf ht _ _ _) _ h
  · exact h

theorem hvTake_wf {s : State} (h : s.mem.wf = true) (ctx va : Nat) (write : Bool) : KeepsOkWith (s.hvTake ctx va write) := by
  unfold State.hvTake
  dsimp only
  split
  · trivial
  · split
    · trivial
    · exact h

theorem hvTakes_wf (ctx : Nat) (write : Bool) {s : State} (h : s.mem.wf = true) (ps : List (Nat × Nat)) : KeepsOkWith (hvTakes ctx write s ps) := by
  induction ps generalizing s with
  | nil => exact h
  | cons p ps ih =>
    rw [hvTakes]
    split
    · trivial
    · have h1 := wf_of_doneWith (by assumption) (hvTake_wf h _ _ _)
      split
      · trivial
      · exact wf_of_doneWith (by assumption) (ih h1)

theorem chargeNj_wf {s : State} (h : s.mem.wf = true) (c n : Nat) : (s.chargeNj c n).mem.wf = true := by
  unfold State.chargeNj
  dsimp only
  split <;> exact h

theorem postAll_wf {s : State} (h : s.mem.wf = true) : (s.postAll).mem.wf = true := by
  unfold State.postAll
  exact mapSlots_wf (states_wf (fun _ _ ht => postSlot_wf ht _) _ h) _

theorem spill_keeps {s : State} (h : s.mem.wf = true) (n : Nat) (v : Dword) : KeepsOk (s.spill n v) := by
  cases hr : s.spill n v with
  | error e => trivial
  | ok t => exact spill_wf h hr

theorem savedWord_wf {s : State} (h : s.mem.wf = true) (n : Nat) : KeepsOkWith (s.savedWord n) := by
  unfold State.savedWord
  dsimp only
  split
  · split
    · trivial
    · trivial
    · exact wf_of_doneWith (by assumption) (hvTake_wf h _ _ _)
  · split
    · trivial
    · have h1 := wf_of_doneWith (by assumption) (translate_wf h _ _ _)
      split
      · trivial
      · split
        · trivial
        · exact l1Settle_wf (by exact l1Read_wf h1 _ _ _ _) _ _

theorem cacheRoom_wf {s : State} (h : s.mem.wf = true) : KeepsOk (s.cacheRoom) := by
  unfold State.cacheRoom
  dsimp only
  split
  · exact h
  · split
    · exact h
    · split
      · exact h
      · split
        · exact (wf_of_done (by assumption) (spill_keeps h _ _) :)
        · trivial
        · trivial

theorem cachePut_wf {s : State} (h : s.mem.wf = true) (n : Nat) (v : Dword) : (s.cachePut n v).mem.wf = true := by
  unfold State.cachePut
  exact h

theorem fill_wf {s : State} (h : s.mem.wf = true) (n : Nat) : KeepsOk (s.fill n) := by
  unfold State.fill
  split
  · exact h
  · split
    · trivial
    · have h1 := wf_of_done (by assumption) (cacheRoom_wf h)
      split
      · exact cachePut_wf h1 _ _
      · exact map_keepsOk (savedWord_wf h1 _) (fun _ ht => cachePut_wf ht _ _)

theorem hosted_wf {s t : State} (hs : s.mem.wf = true) (ht : t.mem.wf = true) : (s.hosted t).mem.wf = true := ite_wf hs ht

theorem resumeTask_wf {s : State} (h : s.mem.wf = true) (p : Nat) (seq : Word) : (s.resumeTask p seq).mem.wf = true := by
  unfold State.resumeTask
  dsimp only
  split
  · exact h
  · exact mapSlots_wf h _

theorem operands_wf {s : State} (h : s.mem.wf = true) (o : Ops) : KeepsSnd (s.operands o) := by
  unfold State.operands
  cases hr : s.operandsWith o (s.slot.dstCheck o.d) with
  | ok p => exact operandsWith_wf h hr
  | error e => exact operandsWith_stop h hr

theorem aligned_wf {s : State} (h : s.mem.wf = true) (ea : Dword) (w : Nat) : KeepsStop (aligned s ea w) := by
  unfold aligned
  split
  · exact h
  · trivial

theorem locateSp_wf {s : State} (h : s.mem.wf = true) (ea : Dword) (w : Nat) : KeepsStop (s.locateSp ea w) := by
  unfold State.locateSp
  split
  · exact h
  · trivial

theorem locateVa_wf {s : State} (h : s.mem.wf = true) (ea : Dword) (kind : PageKind) (r w : Bool) : KeepsWith (s.locateVa ea kind r w) := by
  unfold State.locateVa
  split
  · exact h
  · split
    · exact h
    · have h1 := wf_of_doneWith (by assumption) (translate_wf h _ _ _)
      split <;> exact h1

theorem locate_wf {s : State} (h : s.mem.wf = true) (o : Ops) (ea : Dword) (w : Nat) (kind : PageKind) (r wr : Bool) : KeepsWith
    (s.locate o ea w kind r wr) := by
  unfold State.locate
  split
  · exact wf_of_halt (by assumption) (aligned_wf h _ _)
  · split
    · split
      · exact wf_of_halt (by assumption) (locateSp_wf h _ _)
      · exact h
    · exact locateVa_wf h _ _ _ _

theorem memError_wf {s : State} (h : s.mem.wf = true) (ea : Dword) : (memError ea s).2.mem.wf = true := by
  unfold memError
  exact h

theorem await_wf (s : State) {t : State} (h : t.mem.wf = true) (o : Ops) (what : WaitKind) (u addr w : Nat) (ea : Dword) (ds : List Dword) :
    (s.await t o what u addr w ea ds).mem.wf = true := h

theorem awaitRemote_wf (s : State) {t : State} (h : t.mem.wf = true) (o : Ops) (n pkg ctx a ty : Nat) (ea : Dword) (ds : List Dword) :
    (s.awaitRemote t o n pkg ctx a ty ea ds).mem.wf = true := h

theorem spRead_wf {s : State} (h : s.mem.wf = true) (u off w : Nat) (ea : Dword) : KeepsStop (s.spRead u off w ea) := by
  unfold State.spRead
  split
  · exact memError_wf h _
  · trivial

theorem muRead_wf {s : State} (h : s.mem.wf = true) (pa w : Nat) (ea : Dword) : KeepsWith (s.muRead pa w ea) := by
  unfold State.muRead
  dsimp only
  split
  · exact memError_wf (by exact l1Read_wf h _ _ _ _) _
  · exact l1Settle_wf (by exact l1Read_wf h _ _ _ _) _ _

theorem muWrite_wf {s : State} (h : s.mem.wf = true) (pa : Nat) (bs : List Byte) : (s.muWrite pa bs).mem.wf = true := by
  unfold State.muWrite
  exact l1Settle_wf (by exact l1Write_wf h _ _ _ _) _ _

theorem spWrite_wf {s : State} (h : s.mem.wf = true) (u off : Nat) (bs : List Byte) (ea : Dword) : Keeps (s.spWrite u off bs ea) := by
  unfold State.spWrite
  split
  · exact memError_wf h _
  · exact spPut_wf h _ _ _

theorem free_wf {s : State} (h : s.mem.wf = true) : (s.free).2.mem.wf = true := by
  unfold State.free
  exact h

theorem crossEdge_wf {s : State} (h : s.mem.wf = true) (pa : Nat) : (s.crossEdge pa).mem.wf = true := by
  unfold State.crossEdge
  exact crossPart_wf h _ _

theorem finishWait_wf {s : State} (h : s.mem.wf = true) (x : Waiter) (vs : List Dword) (cls : Nat) : (s.finishWait x vs cls).mem.wf = true := by
  have hcross : ∀ t : State, t.mem.wf = true → (if x.what = .ldp then t.crossEdge x.addr else t).mem.wf = true := by
    intro t ht
    split
    · exact crossEdge_wf ht _
    · exact ht
  have hf : ({ s.focus x.place with
      mem := { (s.focus x.place).mem with waits := (s.focus x.place).mem.waits.filter (fun y => y.place != x.place) }
      slot := { (s.focus x.place).slot with busy := false } } : State).mem.wf = true := focus_wf h _
  have hs := hcross _ hf
  unfold State.finishWait
  dsimp only
  split
  · exact done_wf hs _ _ _ _
  · exact done_wf hs _ _ _ _
  · exact hs

theorem ringBad_wf {s : State} (hs : s.mem.wf = true) (h : Dword) : (ringBad h s).2.mem.wf = true := by
  unfold ringBad
  exact hs

theorem ringProt_wf {s : State} (hs : s.mem.wf = true) (b h : Dword) : (ringProt b h s).2.mem.wf = true := by
  unfold ringProt
  exact hs

theorem ringUnit_wf {s : State} (hs : s.mem.wf = true) (p home : Nat) (h : Dword) : KeepsStop (ringUnit s p home h) := by
  unfold ringUnit
  split
  · exact ringBad_wf hs _
  · split
    · exact hs
    · split
      · exact hs
      · split
        · exact ringBad_wf hs _
        · trivial

theorem wf_of_ringFrame {s t : State} (h : RingFrame s t) (hs : s.mem.wf = true) : t.mem.wf = true := by
  rw [h]
  exact hs

theorem ringSet_wf {s : State} (h : s.mem.wf = true) (u : Nat) (m : Mt) : (s.ringSet u m).mem.wf = true := wf_of_ringFrame (ringSet_frame s u m) h

theorem rsacqOp_wf {s : State} (h : s.mem.wf = true) (o : Ops) : Keeps (rsacqOp o s) := by
  unfold rsacqOp
  refine memory_wf h _ (fun g t ht => ?_)
  dsimp only
  split
  · exact wf_of_halted (by assumption) (ringUnit_wf ht _ _ _)
  · split
    · exact done_wf (setMt_wf ht _ _) _ _ _ _
    · exact await_wf _ (setMt_wf ht _ _) _ _ _ _ _ _ _

theorem rspubOp_wf {s : State} (h : s.mem.wf = true) (o : Ops) : Keeps (rspubOp o s) := by
  unfold rspubOp
  refine memory_wf h _ (fun g t ht => ?_)
  dsimp only
  split
  · exact wf_of_halt (by assumption) (ringUnit_wf ht _ _ _)
  · split
    · exact ringProt_wf ht _ _
    · split
      · exact ringProt_wf ht _ _
      · exact done_wf (ringSet_wf ht _ _) _ _ _ _

theorem rstakeOp_wf {s : State} (h : s.mem.wf = true) (o : Ops) : Keeps (rstakeOp o s) := by
  unfold rstakeOp
  refine memory_wf h _ (fun g t ht => ?_)
  dsimp only
  split
  · exact wf_of_halted (by assumption) (ringUnit_wf ht _ _ _)
  · split
    · exact ringProt_wf ht _ _
    · split
      · exact done_wf (setMt_wf ht _ _) _ _ _ _
      · exact await_wf _ (setMt_wf ht _ _) _ _ _ _ _ _ _

theorem rsrelOp_wf {s : State} (h : s.mem.wf = true) (o : Ops) : Keeps (rsrelOp o s) := by
  unfold rsrelOp
  refine memory_wf h _ (fun g t ht => ?_)
  dsimp only
  split
  · exact wf_of_halt (by assumption) (ringUnit_wf ht _ _ _)
  · split
    · exact ringProt_wf ht _ _
    · exact done_wf (ringSet_wf ht _ _) _ _ _ _

theorem command_wf {s : State} (h : s.mem.wf = true) (o : Ops) (kind : CmdKind) (block : List Dword) : (s.command o kind block).mem.wf = true := by
  unfold State.command
  exact h

theorem sendDone_wf {s : State} (h : s.mem.wf = true) (place : Coord) (k : BitVec 3) (n : Nat) : (s.sendDone place k n).mem.wf = true := by
  induction n generalizing s with
  | zero => exact h
  | succ n ih =>
    rw [State.sendDone]
    split
    · exact h
    · split
      · exact h
      · refine ih (updSlot_wf ?_ _ _)
        exact h

theorem complete_wf {s : State} (h : s.mem.wf = true) (c : Cmd) (v : Dword) : (s.complete c v).mem.wf = true := by
  unfold State.complete
  dsimp only
  split
  · exact h
  · exact sendDone_wf (by exact h) _ _ _

theorem commandNow_wf {s : State} (h : s.mem.wf = true) (o : Ops) (kind : CmdKind) (v : Dword) : (s.commandNow o kind v).mem.wf = true := by
  unfold State.commandNow
  dsimp only
  split
  · exact h
  · split
    · exact command_wf h _ _ _
    · exact complete_wf (command_wf h _ _ _) _ _

theorem chargeCmd_wf {s : State} (h : s.mem.wf = true) (c : Cmd) (cls n : Nat) : (s.chargeCmd c cls n).mem.wf = true := by
  unfold State.chargeCmd
  exact charge_wf h _ _ _

theorem emitEngine_wf {s : State} (h : s.mem.wf = true) (p imgc : Nat) (f : Flt) : (s.emitEngine p imgc f).mem.wf = true := by
  unfold State.emitEngine
  exact emit_wf h _ _

theorem failCmd_wf {s : State} (h : s.mem.wf = true) (c : Cmd) (imgc : Nat) (f : Flt) : (s.failCmd c imgc f).mem.wf = true := by
  unfold State.failCmd
  exact raiseEngine_wf (by exact h) _ _ _

theorem spWhen_wf {s : State} (h : s.mem.wf = true) (b : Bool) (a : Dword) (n : Nat) : KeepsStop (if b then s.locateSp a n else .ok (0, 0)) := by
  split
  · exact locateSp_wf h a n
  · trivial

theorem cpyRanges_wf {s : State} (h : s.mem.wf = true) (x : CpyForm) (a b : Dword) (n : Nat) : KeepsStop (cpyRanges s x a b n) := by
  unfold cpyRanges
  split
  · exact wf_of_halted (by assumption) (spWhen_wf h _ _ _)
  · exact wf_of_halted (by assumption) (spWhen_wf h _ _ _)
  · trivial

theorem cpyPages_wf {s : State} (h : s.mem.wf = true) (x : CpyForm) (a b : Dword) (n : Nat) : Keeps (cpyPages s x a b n) := by
  have hd := translateAll_wf h s.slotUnit s.slotCtx (if x.dsp then [] else pagesOf a.toNat n)
  unfold cpyPages
  split
  · exact wf_of_errorWith (by assumption) hd
  · rename_i t ds hr
    have ht : t.mem.wf = true := wf_of_okWith hr hd
    have hs := translateAll_wf ht t.slotUnit t.slotCtx (if x.ssp then [] else pagesOf b.toNat n)
    split
    · exact wf_of_errorWith (by assumption) hs
    · rename_i hr'
      have ht' := wf_of_okWith hr' hs
      repeat' split
      all_goals exact ht'

theorem cpySlot_wf {s : State} (h : s.mem.wf = true) (x : CpyForm) (a b : Dword) (n : Nat) : KeepsStop (cpySlot s x a b n) := by
  unfold cpySlot
  split
  · trivial
  · split
    · exact ringProt_wf h _ _
    · split
      · exact ringProt_wf h _ _
      · split
        · trivial
        · exact ringProt_wf h _ _

theorem cpyOp_wf {s : State} (h : s.mem.wf = true) (o : Ops) : Keeps (cpyOp o s) := by
  unfold cpyOp
  refine memoryWith_wf h _ _ (fun g t ht => ?_)
  dsimp only
  split
  · exact ht
  split
  · exact ht
  split
  · exact wf_of_halted (by assumption) (cpyRanges_wf ht _ _ _ _)
  have hp := cpyPages_wf ht (cpyForm o) g.a.val g.b.val g.c.val.toNat
  split
  · exact wf_of_error (by assumption) hp
  · rename_i t' hr
    have ht' : t'.mem.wf = true := wf_of_ok hr hp
    split
    · exact wf_of_halted (by assumption) (cpySlot_wf ht' _ _ _ _)
    · split
      · refine commandNow_wf ?_ _ _ _
        split
        · exact ringSet_wf ht' _ _
        · exact ht'
      · exact command_wf ht' _ _ _

theorem cpyRead_wf {s : State} (h : s.mem.wf = true) (c : Cmd) (src : Dword) (n : Nat) (ssp : Bool) : KeepsOkWith (cpyRead s c src n ssp) := by
  unfold cpyRead
  split
  · split
    · trivial
    · exact h
  · exact engRead_wf h _ _ _ _

theorem poisonWords_wf {m : Mem} (h : m.wf = true) (u off : Nat) (bad : List Bool) : (m.poisonWords u off bad).wf = true := by
  obtain ⟨h1, h2, h3, h4, h5, h6⟩ := (wf_iff m).1 h
  refine (wf_iff _).2 ⟨h1, h2, h3, h4, h5, twf_foldl _ (fun t i ht => ?_) _ _ h6⟩
  split
  · exact twf_tput ht _ _
  · exact ht

theorem cpyWrite_wf {s : State} (h : s.mem.wf = true) (c : Cmd) (dst : Dword) (dsp full : Bool) (bs : List Byte) (bad : List Bool) :
    (cpyWrite s c dst dsp full bs bad).1.mem.wf = true := by
  unfold cpyWrite
  dsimp only
  split
  · split
    · exact h
    · dsimp only
      split
      · exact tagChange_wf (poisonWords_wf (spPut_wf h _ _ _) _ _ _) _ _
      · exact poisonWords_wf (spPut_wf h _ _ _) _ _ _
  · exact engWriteBad_wf h _ _ _ _ _

theorem cpyPublish_wf {s : State} (h : s.mem.wf = true) (c : Cmd) (dst : Dword) : (cpyPublish s c dst).mem.wf = true := by
  unfold cpyPublish
  split
  · exact h
  · split
    · exact ringSet_wf h _ _
    · exact h

theorem doCpy_wf {s : State} (h : s.mem.wf = true) (c : Cmd) (dst src : Dword) (n : Nat) (dsp ssp pub full : Bool) : KeepsOk
    (doCpy s c dst src n dsp ssp pub full) := by
  unfold doCpy
  dsimp only
  split
  · trivial
  · have h1 := wf_of_doneWith (by assumption) (cpyRead_wf h _ _ _ _)
    split
    · exact failCmd_wf (wf_of_fst (by assumption) (cpyWrite_wf h1 _ _ _ _ _ _)) _ _ _
    · trivial
    · have h2 := wf_of_fst (by assumption) (cpyWrite_wf h1 _ _ _ _ _ _)
      split
      · split
        · exact chargeCmd_wf (complete_wf (cpyPublish_wf (by exact emitEngine_wf h2 _ _ _) _ _) _ _) _ _ _
        · exact chargeCmd_wf (complete_wf (cpyPublish_wf (by exact h2) _ _) _ _) _ _ _
      · split
        · exact chargeCmd_wf (complete_wf (by exact emitEngine_wf h2 _ _ _) _ _) _ _ _
        · exact chargeCmd_wf (complete_wf (by exact h2) _ _) _ _ _

theorem fault_wf {s : State} (h : s.mem.wf = true) (code : Nat) : (fault code s).2.mem.wf = true := by
  unfold fault
  exact h

theorem lvlRead_wf {s : State} (h : s.mem.wf = true) (sm : Bool) (a : Dword) (n : Nat) : KeepsWith (lvlRead sm s a n) := by
  unfold lvlRead
  split
  · split
    · exact h
    · exact h
    · exact wf_of_doneWith (by assumption) (engReadOk_wf h _ _ _ _)
  · split
    · exact h
    · split <;> exact h

theorem posOf_wf {s : State} (h : s.mem.wf = true) (sm : Bool) (d : Desc) (e : Nat) : KeepsWith (posOf sm s d e) := by
  unfold posOf
  dsimp only
  split
  · exact h
  · exact h
  · split
    · exact wf_of_stopWith (by assumption) (lvlRead_wf h _ _ _)
    · have h1 := wf_of_okWith (by assumption) (lvlRead_wf h _ _ _)
      split
      · exact fault_wf h1 _
      · exact h1
  · exact lvlRead_wf h _ _ _

theorem curPos_wf {s : State} (h : s.mem.wf = true) (sm : Bool) (d : Desc) (e : Nat) : KeepsWith (curPos sm s d e) := by
  unfold curPos
  split
  · exact posOf_wf h _ _ _
  · exact h

theorem valueOf_wf {s : State} (h : s.mem.wf = true) (sm : Bool) (d : Desc) (e p : Nat) : KeepsWith (valueOf sm s d e p) := by
  have hv (i : Nat) : KeepsWith (if d.vt = 7 then lvlRead sm s (d.vbase + BitVec.ofNat 64 (i / 2)) 1
      else lvlRead sm s (d.vbase + BitVec.ofNat 64 (d.valueW * i)) d.valueW) := iteInduction (fun _ => lvlRead_wf h _ _ _)
          (fun _ => lvlRead_wf h _ _ _)
  unfold valueOf
  split
  · split
    · exact wf_of_errorWith (by assumption) (lvlRead_wf h _ _ _)
    · exact wf_of_okWith (by assumption) (lvlRead_wf h _ _ _)
  · dsimp only
    split
    · exact wf_of_errorWith (by assumption) (hv _)
    · exact wf_of_okWith (by assumption) (hv _)

theorem setCursor_wf {s : State} (h : s.mem.wf = true) (sm : Bool) (k : BitVec 3) (c : Cursor) : (s.setCursor sm k c).mem.wf = true := by
  unfold State.setCursor
  exact h

theorem openCursor_wf {s : State} (h : s.mem.wf = true) (sm : Bool) (k : BitVec 3) : KeepsStop (s.openCursor sm k) := by
  unfold State.openCursor
  split
  · trivial
  · exact h
  · exact fault_wf h _

theorem notPending_wf {s : State} (h : s.mem.wf = true) (sm : Bool) (k : BitVec 3) : KeepsStop (s.notPending sm k) := by
  unfold State.notPending
  split
  · exact h
  · trivial

theorem takeCursor_wf {s : State} (h : s.mem.wf = true) (sm : Bool) (k : BitVec 3) : KeepsStop (s.takeCursor sm k) := by
  unfold State.takeCursor
  split
  · trivial
  · exact fault_wf h _

theorem openable_wf {s : State} (h : s.mem.wf = true) (sm : Bool) (k : BitVec 3) : KeepsStop (s.openable sm k) := by
  unfold State.openable
  split
  · exact wf_of_halt (by assumption) (notPending_wf h _ _)
  · exact takeCursor_wf h _ _

theorem advance_wf {s : State} (h : s.mem.wf = true) (sm : Bool) (d : Desc) (e : Nat) : KeepsWith (advance sm s d e) := by
  unfold advance
  dsimp only
  split
  · exact wf_of_stopWith (by assumption) (curPos_wf h _ _ _)
  · exact wf_of_okWith (by assumption) (curPos_wf h _ _ _)

theorem fbopnOp_wf {s : State} (h : s.mem.wf = true) (o : Ops) : Keeps (fbopnOp o s) := by
  unfold fbopnOp
  refine guarded_wf h _ (fun g t ht => ?_)
  dsimp only
  split
  · exact wf_of_halt (by assumption) (notPending_wf ht _ _)
  · split
    · exact ht
    · split
      · exact wf_of_stopWith (by assumption) (lvlRead_wf ht _ _ _)
      · have h1 := wf_of_okWith (by assumption) (lvlRead_wf ht _ _ _)
        split
        · exact fault_wf h1 _
        · split
          · exact wf_of_halt (by assumption) (takeCursor_wf h1 _ _)
          · split
            · exact wf_of_stopWith (by assumption) (curPos_wf h1 _ _ _)
            · have h2 := wf_of_okWith (by assumption) (curPos_wf h1 _ _ _)
              exact done_wf (setCursor_wf h2 _ _ _) _ _ _ _

theorem fbadvOp_wf {s : State} (h : s.mem.wf = true) (o : Ops) : Keeps (fbadvOp o s) := by
  unfold fbadvOp
  refine guarded_wf h _ (fun g t ht => ?_)
  dsimp only
  split
  · exact wf_of_halt (by assumption) (openCursor_wf ht _ _)
  · split
    · exact wf_of_stopWith (by assumption) (advance_wf ht _ _ _)
    · have h1 := wf_of_okWith (by assumption) (advance_wf ht _ _ _)
      exact done_wf (setCursor_wf h1 _ _ _) _ _ _ _

theorem fbendOp_wf {s : State} (h : s.mem.wf = true) (o : Ops) : Keeps (fbendOp o s) := by
  unfold fbendOp
  refine guarded_wf h _ (fun g t ht => ?_)
  split
  · exact wf_of_halt (by assumption) (openCursor_wf ht _ _)
  · exact done_wf ht _ _ _ _

theorem fbclsOp_wf {s : State} (h : s.mem.wf = true) (o : Ops) : Keeps (fbclsOp o s) := by
  unfold fbclsOp
  refine guarded_wf h _ (fun g t ht => ?_)
  split
  · exact wf_of_halt (by assumption) (openCursor_wf ht _ _)
  · exact done_wf (setCursor_wf ht _ _ _) _ _ _ _

theorem fbposOp_wf {s : State} (h : s.mem.wf = true) (o : Ops) : Keeps (fbposOp o s) := by
  unfold fbposOp
  refine guarded_wf h _ (fun g t ht => ?_)
  split
  · exact wf_of_halt (by assumption) (openCursor_wf ht _ _)
  · exact done_wf ht _ _ _ _

theorem fbvalOp_wf {s : State} (h : s.mem.wf = true) (o : Ops) : Keeps (fbvalOp o s) := by
  unfold fbvalOp
  refine guarded_wf h _ (fun g t ht => ?_)
  split
  · exact wf_of_halt (by assumption) (openCursor_wf ht _ _)
  · split
    · split
      · exact wf_of_stopWith (by assumption) (valueOf_wf ht _ _ _ _)
      · exact done_wf (wf_of_okWith (by assumption) (valueOf_wf ht _ _ _ _)) _ _ _ _
    · exact done_wf ht _ _ _ _

theorem seek_wf (sm : Bool) (d : Desc) (target n : Nat) {s : State} (h : s.mem.wf = true) (e p : Nat) : KeepsWith (seek sm d target n s e p) := by
  induction n generalizing s e p with
  | zero => exact h
  | succ n ih =>
    rw [seek]
    split
    · have ha := advance_wf h sm d e
      split
      · exact wf_of_errorWith (by assumption) ha
      · exact ih (wf_of_okWith (by assumption) ha) _ _
    · exact h

theorem fbsekOp_wf {s : State} (h : s.mem.wf = true) (o : Ops) : Keeps (fbsekOp o s) := by
  unfold fbsekOp
  refine guarded_wf h _ (fun g t ht => ?_)
  dsimp only
  split
  · exact wf_of_halt (by assumption) (openCursor_wf ht _ _)
  · split
    · exact wf_of_stopWith (by assumption) (seek_wf _ _ _ _ ht _ _)
    · have h1 := wf_of_okWith (by assumption) (seek_wf _ _ _ _ ht _ _)
      exact done_wf (setCursor_wf h1 _ _ _) _ _ _ _

theorem intersect_wf (sa sb : Bool) (n : Nat) {s : State} (h : s.mem.wf = true) (a b : Walk) : KeepsWith (intersect sa sb n s a b) := by
  induction n generalizing s a b with
  | zero => exact h
  | succ n ih =>
    rw [intersect]
    split
    · exact h
    · split
      · exact h
      · split
        · have ha := advance_wf h sa a.d a.e
          split
          · exact wf_of_errorWith (by assumption) ha
          · exact ih (wf_of_okWith (by assumption) ha) _ _
        · have hb := advance_wf h sb b.d b.e
          split
          · exact wf_of_errorWith (by assumption) hb
          · exact ih (wf_of_okWith (by assumption) hb) _ _

theorem fbisxOp_wf {s : State} (h : s.mem.wf = true) (o : Ops) : Keeps (fbisxOp o s) := by
  unfold fbisxOp
  refine guarded_wf h _ (fun g t ht => ?_)
  dsimp only
  split
  · exact wf_of_halt (by assumption) (openCursor_wf ht _ _)
  · split
    · exact wf_of_halt (by assumption) (openCursor_wf ht _ _)
    · split
      · exact done_wf ht _ _ _ _
      · split
        · exact wf_of_stopWith (by assumption) (intersect_wf _ _ _ ht _ _)
        · have h1 := wf_of_okWith (by assumption) (intersect_wf _ _ _ ht _ _)
          exact done_wf (setCursor_wf (setCursor_wf h1 _ _ _) _ _ _) _ _ _ _

theorem scanElems_wf (ty w : Nat) (a c : Dword) (n : Nat) {s : State} (h : s.mem.wf = true) (i : Nat) (xs : List Nat) :
    KeepsWith (scanElems ty w a c n s i xs) := by
  induction n generalizing s i xs with
  | zero => exact h
  | succ n ih =>
    rw [scanElems]
    have hr := lvlRead_wf h false (a + BitVec.ofNat 64 (w * i)) w
    split
    · exact wf_of_errorWith (by assumption) hr
    · have ht := wf_of_okWith (by assumption) hr
      split
      · exact ih ht _ _
      · split
        · exact ht
        · refine ih ?_ _ _
          exact spPut_wf ht _ _ _

theorem nzscanOp_wf {s : State} (h : s.mem.wf = true) (o : Ops) : Keeps (nzscanOp o s) := by
  unfold nzscanOp
  refine guarded_wf h _ (fun g t ht => ?_)
  dsimp only
  split
  · exact wf_of_halt (by assumption) (notPending_wf ht _ _)
  · split
    · exact ht
    · split
      · exact ht
      · split
        · exact ht
        · split
          · exact wf_of_stopWith (by assumption) (scanElems_wf _ _ _ _ _ ht _ _)
          · have h1 := wf_of_okWith (by assumption) (scanElems_wf _ _ _ _ _ ht _ _)
            split
            · exact wf_of_halt (by assumption) (takeCursor_wf h1 _ _)
            · exact done_wf (setCursor_wf h1 _ _ _) _ _ _ _

end Sys2Proof.Memory
end

section
/-! O60: gathers, streams, the lookup engines, pictures and warps keep the canonical form of memory. -/

namespace Sys2Proof.Memory

open Sys2Proof Sys2Proof.Machine Sys2Proof.Claims Sys2Proof.Laws

theorem positions_wf (sm : Bool) (d : Desc) (n : Nat) {s : State} (h : s.mem.wf = true) (e : Nat) : KeepsWith (positions sm d n s e) := by
  induction n generalizing s e with
  | zero => exact h
  | succ n ih =>
    rw [positions]
    split
    · exact wf_of_stopWith (by assumption) (posOf_wf h _ _ _)
    · have h1 := wf_of_okWith (by assumption) (posOf_wf h _ _ _)
      split
      · exact wf_of_stopWith (by assumption) (ih h1 _)
      · exact wf_of_okWith (by assumption) (ih h1 _)

theorem elemPages_wf (u ctx sz : Nat) (b : Dword) {s : State} (h : s.mem.wf = true) (xs : List Nat) : Keeps (elemPages u ctx sz b s xs) := by
  induction xs generalizing s with
  | nil => exact h
  | cons x xs ih =>
    rw [elemPages]
    split
    · exact wf_of_stopWith (by assumption) (translateAll_wf h _ _ _)
    · exact ih (wf_of_okWith (by assumption) (translateAll_wf h _ _ _))

theorem gatherOp_wf {s : State} (h : s.mem.wf = true) (o : Ops) : Keeps (gatherOp o s) := by
  unfold gatherOp
  refine guarded_wf h _ (fun g t ht => ?_)
  dsimp only
  split
  · exact wf_of_halt (by assumption) (openCursor_wf ht _ _)
  · split
    · exact wf_of_halt (by assumption) (by exact ite_keepsStop trivial (openable_wf ht _ _))
    · split
      · exact ht
      · split
        · exact fault_wf ht _
        · split
          · split
            · exact done_wf ht _ _ _ _
            · exact done_wf (setCursor_wf ht _ _ _) _ _ _ _
          · split
            · exact ht
            · split
              · exact wf_of_stopWith (by assumption) (positions_wf _ _ _ ht _)
              · have h1 := wf_of_okWith (by assumption) (positions_wf _ _ _ ht _)
                split
                · exact wf_of_stop (by assumption) (elemPages_wf _ _ _ _ h1 _)
                · have h2 := wf_of_ok (by assumption) (elemPages_wf _ _ _ _ h1 _)
                  split
                  · exact command_wf h2 _ _ _
                  · exact command_wf (setCursor_wf h2 _ _ _) _ _ _

theorem gathElems_wf (c : Cmd) (ctx u off sz : Nat) (nan : Bool) (ty : Nat) (b : Dword) {s : State} (h : s.mem.wf = true) (j : Nat) (xs : List Nat)
    (fs : Fails) : KeepsOkWith (gathElems c ctx u off sz nan ty b s j xs fs) := by
  induction xs generalizing s j fs with
  | nil => exact h
  | cons x xs ih =>
    rw [gathElems]
    dsimp only
    split
    · exact ih (spPut_wf h _ _ _) _ _
    · split
      · trivial
      · exact ih (spPut_wf (hvDrop_wf h _ _ _ _) _ _ _) _ _
      · have h1 := wf_of_doneWith (by assumption) (engRead_wf h _ _ _ _)
        split <;> exact ih (spPut_wf h1 _ _ _) _ _

theorem scatValue_wf {s : State} (h : s.mem.wf = true) (u ctx : Nat) (a : Dword) (sz : Nat) (add : Bool) (ty : Nat) (v : List Byte) : KeepsOkWith
    (scatValue s u ctx a sz add ty v) := by
  unfold scatValue
  split
  · exact h
  · split
    · trivial
    · exact wf_of_doneWith (by assumption) (engReadOk_wf h _ _ _ _)

theorem scatElems_wf (c : Cmd) (ctx u off sz : Nat) (add : Bool) (ty : Nat) (b : Dword) {s : State} (h : s.mem.wf = true) (j : Nat) (xs : List Nat)
    (fs : Fails) : KeepsOkWith (scatElems c ctx u off sz add ty b s j xs fs) := by
  induction xs generalizing s j fs with
  | nil => exact h
  | cons x xs ih =>
    rw [scatElems]
    split
    · exact ih h _ _
    · split
      · exact ih h _ _
      · split
        · trivial
        · exact ih h _ _
        · have h1 := wf_of_doneWith (by assumption) (scatValue_wf h _ _ _ _ _ _ _)
          split
          · exact ih (wf_of_fst (by assumption) (engWrite_wf h1 _ _ _ _)) _ _
          · trivial
          · have h2 := wf_of_fst (by assumption) (engWrite_wf h1 _ _ _ _)
            split
            · exact h2
            · exact ih (hvDrop_wf h2 _ _ _ _) _ _

theorem failRecords_wf {s : State} (h : s.mem.wf = true) (c : Cmd) (fs : Fails) : (failRecords c s fs).mem.wf = true := by
  unfold failRecords
  exact states_wf (fun _ _ ht => emitEngine_wf ht _ _ _) _ h

theorem failOpen_wf {s : State} (h : s.mem.wf = true) (c : Cmd) (cc : Dword) (sz m : Nat) (reg : Option (Nat × Bool)) (fs : Fails) :
    (failOpen c s cc sz m reg fs).mem.wf = true := by
  unfold failOpen
  dsimp only
  split
  · exact h
  · split
    · exact updSlot_wf (by exact h) _ _
    · exact updSlot_wf (by exact spPut_wf (spPut_wf h _ _ _) _ _ _) _ _

theorem doGath_wf {s : State} (h : s.mem.wf = true) (c : Cmd) (nan : Bool) (ty : BitVec 6) (e : Nat) (b cc : Dword) (xs : List Nat) (reg : Option
    (Nat × Bool)) : KeepsOk (doGath s c nan ty e b cc xs reg) := by
  unfold doGath
  dsimp only
  split
  · trivial
  · split
    · trivial
    · have h1 := wf_of_doneWith (by assumption) (gathElems_wf _ _ _ _ _ _ _ _ h _ _ _)
      exact chargeCmd_wf (complete_wf (failOpen_wf (failRecords_wf h1 _ _) _ _ _ _ _ _) _ _) _ _ _

theorem doScat_wf {s : State} (h : s.mem.wf = true) (c : Cmd) (add : Bool) (ty : BitVec 6) (e : Nat) (b cc : Dword) (xs : List Nat) (reg : Option
    (Nat × Bool)) : KeepsOk (doScat s c add ty e b cc xs reg) := by
  unfold doScat
  dsimp only
  split
  · trivial
  · split
    · trivial
    · have h1 := wf_of_doneWith (by assumption) (scatElems_wf _ _ _ _ _ _ _ _ h _ _ _)
      exact failCmd_wf (failRecords_wf h1 _ _) _ _ _
    · have h1 := wf_of_doneWith (by assumption) (scatElems_wf _ _ _ _ _ _ _ _ h _ _ _)
      exact chargeCmd_wf (complete_wf (failOpen_wf (failRecords_wf h1 _ _) _ _ _ _ _ _) _ _) _ _ _

theorem hintFill_wf {s : State} (h : s.mem.wf = true) (n : Nat) : (s.hintFill n).mem.wf = true := by
  unfold State.hintFill
  split
  · exact wf_of_done (by assumption) (fill_wf h _)
  · exact h
  · exact hvFresh_wf h _

theorem hintDrop_wf {s : State} (h : s.mem.wf = true) (n : Nat) : (s.hintDrop n).mem.wf = true := by
  unfold State.hintDrop
  dsimp only
  split
  · exact h
  · split
    · exact h
    · split
      · exact (wf_of_done (by assumption) (spill_keeps h _ _) :)
      · exact h
      · exact hvFresh_wf h _

theorem vrhint_wf {s : State} (h : s.mem.wf = true) (o : Ops) : (s.vrhint o).mem.wf = true := by
  unfold State.vrhint
  split
  · split
    · exact states_wf (fun _ _ ht => hintFill_wf ht _) _ h
    · exact states_wf (fun _ _ ht => hintDrop_wf ht _) _ h
  · exact h

theorem setPort_wf {s : State} (h : s.mem.wf = true) (u k : Nat) (x : StreamPort) : (s.setPort u k x).mem.wf = true := by
  unfold State.setPort
  exact setMt_wf h _ _

theorem kvPages_wf {s : State} (h : s.mem.wf = true) (rs : List (Nat × Nat)) (w : Bool) : Keeps (kvPages s rs w) := by
  unfold kvPages
  split
  · exact wf_of_stopWith (by assumption) (translateAll_wf h _ _ _)
  · have h1 := wf_of_okWith (by assumption) (translateAll_wf h _ _ _)
    split
    · exact h1
    · split <;> exact h1

theorem pgselOp_wf {s : State} (h : s.mem.wf = true) (o : Ops) : Keeps (pgselOp o s) := by
  unfold pgselOp
  refine guarded_wf h _ (fun g t ht => ?_)
  dsimp only
  split
  · exact wf_of_halt (by assumption) (openable_wf ht _ _)
  · split
    · exact wf_of_stopWith (by assumption) (lvlRead_wf ht _ _ _)
    · have h1 := wf_of_okWith (by assumption) (lvlRead_wf ht _ _ _)
      split
      · exact h1
      · split
        · exact h1
        · split
          · exact wf_of_stop (by assumption) (kvPages_wf h1 _ _)
          · have h2 := wf_of_ok (by assumption) (kvPages_wf h1 _ _)
            split
            · exact h2
            · exact h2
            · have h3 := wf_of_doneWith (by assumption) (engReadOk_wf h2 _ _ _ _)
              split
              · exact h3
              · split
                · exact wf_of_stop (by assumption) (kvPages_wf h3 _ _)
                · have h4 := wf_of_ok (by assumption) (kvPages_wf h3 _ _)
                  exact command_wf (setCursor_wf h4 _ _ _) _ _ _

theorem kvappOp_wf {s : State} (h : s.mem.wf = true) (o : Ops) : Keeps (kvappOp o s) := by
  unfold kvappOp
  refine guardedWith_wf h _ _ (fun g t ht => ?_)
  dsimp only
  split
  · exact ht
  · split
    · exact wf_of_stop (by assumption) (kvPages_wf ht _ _)
    · have h1 := wf_of_ok (by assumption) (kvPages_wf ht _ _)
      split
      · exact wf_of_stop (by assumption) (kvPages_wf h1 _ _)
      · exact command_wf (wf_of_ok (by assumption) (kvPages_wf h1 _ _)) _ _ _

theorem kvldOp_wf {s : State} (h : s.mem.wf = true) (o : Ops) : Keeps (kvldOp o s) := by
  unfold kvldOp
  refine guardedWith_wf h _ _ (fun g t ht => ?_)
  dsimp only
  split
  · exact ht
  · split
    · exact ht
    · split
      · exact wf_of_stop (by assumption) (kvPages_wf ht _ _)
      · exact command_wf (wf_of_ok (by assumption) (kvPages_wf ht _ _)) _ _ _

theorem pgBounds_wf (c : Cmd) (ctx dim : Nat) (q : List FV) (nq : FV) {s : State} (h : s.mem.wf = true) (rs : List Nat) :
    KeepsOkWith (pgBounds c ctx dim q nq s rs) := by
  induction rs generalizing s with
  | nil => exact h
  | cons r rs ih =>
    rw [pgBounds]
    dsimp only
    split
    · trivial
    · have h1 := wf_of_doneWith (by assumption) (engReadOk_wf h _ _ _ _)
      split
      · trivial
      · split
        · trivial
        · exact wf_of_doneWith (by assumption) (ih h1)

theorem doPgsel_wf {s : State} (h : s.mem.wf = true) (c : Cmd) (fb : Nat) : KeepsOk (doPgsel s c fb) := by
  unfold doPgsel
  dsimp only
  split
  · trivial
  · trivial
  · split
    · trivial
    · have h1 := wf_of_doneWith (by assumption) (pgBounds_wf _ _ _ _ _ h _)
      split
      · exact failCmd_wf (by exact spPut_wf (spPut_wf h1 _ _ _) _ _ _) _ _ _
      · exact chargeCmd_wf (complete_wf (updSlot_wf (by exact spPut_wf (spPut_wf h1 _ _ _) _ _ _) _ _) _ _) _ _ _

theorem doKvapp_wf {s : State} (h : s.mem.wf = true) (c : Cmd) (page key value : Dword) : KeepsOk (doKvapp s c page key value) := by
  unfold doKvapp
  dsimp only
  split
  · trivial
  · have h1 := wf_of_doneWith (by assumption) (engReadOk_wf h _ _ _ _)
    split
    · trivial
    · split
      · trivial
      · have h2 := wf_of_doneWith (by assumption) (engReadOk_wf h1 _ _ _ _)
        split
        · trivial
        · have h3 := wf_of_doneWith (by assumption) (engReadOk_wf h2 _ _ _ _)
          split
          · trivial
          · have h4 := wf_of_fst (by assumption) (engWrite_wf h3 _ _ _ _)
            exact chargeCmd_wf (complete_wf h4 _ _) _ _ _

theorem doKvld_wf {s : State} (h : s.mem.wf = true) (c : Cmd) (page dst : Dword) (vals f32 : Bool) : KeepsOk (doKvld s c page dst vals f32) := by
  unfold doKvld
  dsimp only
  split
  · trivial
  · have h1 := wf_of_doneWith (by assumption) (engReadOk_wf h _ _ _ _)
    split
    · trivial
    · split
      · trivial
      · exact chargeCmd_wf (complete_wf (by exact spPut_wf h1 _ _ _) _ _) _ _ _

theorem cellRead_wf {s : State} (h : s.mem.wf = true) (u ctx a : Nat) : KeepsOkWith (cellRead s u ctx a) := by
  unfold cellRead
  split
  · trivial
  · exact wf_of_doneWith (by assumption) (engReadOk_wf h _ _ _ _)

theorem tapSample_wf {s : State} (h : s.mem.wf = true) (u : Nat) (x : Strm) (here : Pic) (pics : List Pic) (t : Config.PredTap) : KeepsOkWith
    (tapSample u x here pics s t) := by
  unfold tapSample
  dsimp only
  split
  · trivial
  · exact wf_of_doneWith (by assumption) (cellRead_wf h _ _ _)

theorem tapSum_wf (u : Nat) (x : Strm) (here : Pic) (pics : List Pic) {s : State} (h : s.mem.wf = true) (ts : List Config.PredTap) :
    KeepsOkWith (tapSum u x here pics s ts) := by
  induction ts generalizing s with
  | nil => exact h
  | cons t ts ih =>
    rw [tapSum]
    split
    · trivial
    · have h1 := wf_of_doneWith (by assumption) (tapSample_wf h _ _ _ _ _)
      split
      · trivial
      · exact wf_of_doneWith (by assumption) (ih h1)

theorem cellSamples_wf (u : Nat) (x : Strm) (here : Pic) (pics : List Pic) (c : Config.CellSyntax) {s : State} (h : s.mem.wf = true) (is : List Nat) :
    KeepsOkWith (cellSamples u x here pics c s is) := by
  induction is generalizing s with
  | nil => exact h
  | cons i is ih =>
    rw [cellSamples]
    split
    · trivial
    · have h1 := wf_of_doneWith (by assumption) (tapSum_wf _ _ _ _ h _)
      split
      · trivial
      · exact wf_of_doneWith (by assumption) (ih h1)

theorem cellSteps_wf (u : Nat) (x : Strm) (here : Pic) (pics : List Pic) {s : State} (h : s.mem.wf = true) (cs : List Config.CellSyntax) :
    KeepsOkWith (cellSteps u x here pics s cs) := by
  induction cs generalizing s with
  | nil => exact h
  | cons c cs ih =>
    rw [cellSteps]
    dsimp only
    split
    · trivial
    · have h1 := wf_of_doneWith (by assumption) (cellSamples_wf _ _ _ _ _ h _)
      split
      · trivial
      · have h2 := wf_of_fst (by assumption) (engWrite_wf h1 _ _ _ _)
        split
        · trivial
        · exact wf_of_doneWith (by assumption) (ih h2)

theorem takeFrame_wf {s : State} (h : s.mem.wf = true) (u : Nat) (x : Strm) (y : Config.FrameSyntax) : KeepsOkWith (s.takeFrame u x y) := by
  unfold State.takeFrame
  dsimp only
  split
  · exact h
  · split
    · trivial
    · exact charge_wf (wf_of_doneWith (by assumption) (cellSteps_wf _ _ _ _ h _)) _ _ _

theorem streamFlt_wf {s : State} (h : s.mem.wf = true) : (streamFlt s).2.mem.wf = true := by
  unfold streamFlt
  exact fault_wf h _

theorem putStrm_wf {s : State} (h : s.mem.wf = true) (x : Strm) : (s.putStrm x).mem.wf = true := by
  unfold State.putStrm
  exact h

theorem privateBytes_wf {s : State} (h : s.mem.wf = true) (n : Nat) : (s.privateBytes n).2.mem.wf = true := by
  unfold State.privateBytes
  exact h

theorem sxcfgOp_wf {s : State} (h : s.mem.wf = true) (o : Ops) : Keeps (sxcfgOp o s) := by
  unfold sxcfgOp
  refine guarded_wf h _ (fun g t ht => ?_)
  dsimp only
  split
  · exact ht
  · split
    · exact wf_of_stopWith (by assumption) (lvlRead_wf ht _ _ _)
    · have h1 := wf_of_okWith (by assumption) (lvlRead_wf ht _ _ _)
      split
      · exact streamFlt_wf h1
      · split
        · exact streamFlt_wf h1
        · split
          · exact wf_of_stopWith (by assumption) (translateAll_wf h1 _ _ _)
          · have h2 := wf_of_okWith (by assumption) (translateAll_wf h1 _ _ _)
            split
            · exact h2
            · exact h2
            · split
              · exact wf_of_fst (by assumption) (engWrite_wf (privateBytes_wf h2 _) _ _ _ _)
              · have h3 := wf_of_fst (by assumption) (engWrite_wf (privateBytes_wf h2 _) _ _ _ _)
                exact done_wf (by exact h3) _ _ _ _

theorem useStrm_wf {s : State} (hs : s.mem.wf = true) (h : Dword) : KeepsSnd (s.useStrm h) := by
  unfold State.useStrm
  dsimp only
  split
  · exact streamFlt_wf hs
  · exact putStrm_wf hs _

theorem sxfeedOp_wf {s : State} (h : s.mem.wf = true) (o : Ops) : Keeps (sxfeedOp o s) := by
  unfold sxfeedOp
  refine guardedWith_wf h _ _ (fun g t ht => ?_)
  dsimp only
  split
  · exact wf_of_stopSnd (by assumption) (useStrm_wf ht _)
  · have h1 := wf_of_okSnd (by assumption) (useStrm_wf ht _)
    split
    · exact h1
    · split
      · exact wf_of_stopWith (by assumption) (translateAll_wf h1 _ _ _)
      · have h2 := wf_of_okWith (by assumption) (translateAll_wf h1 _ _ _)
        split
        · exact h2
        · split
          · exact command_wf h2 _ _ _
          · exact command_wf (putStrm_wf h2 _) _ _ _

theorem sxfrmOp_wf {s : State} (h : s.mem.wf = true) (o : Ops) : Keeps (sxfrmOp o s) := by
  unfold sxfrmOp
  refine guardedWith_wf h _ _ (fun g t ht => ?_)
  dsimp only
  split
  · exact wf_of_stopSnd (by assumption) (useStrm_wf ht _)
  · have h1 := wf_of_okSnd (by assumption) (useStrm_wf ht _)
    split
    · exact command_wf h1 _ _ _
    · exact command_wf (putStrm_wf h1 _) _ _ _

theorem sxstatOp_wf {s : State} (h : s.mem.wf = true) (o : Ops) : Keeps (sxstatOp o s) := by
  unfold sxstatOp
  refine guarded_wf h _ (fun g t ht => ?_)
  split
  · exact wf_of_stopSnd (by assumption) (useStrm_wf ht _)
  · exact done_wf (wf_of_okSnd (by assumption) (useStrm_wf ht _)) _ _ _ _

theorem blkopnOp_wf {s : State} (h : s.mem.wf = true) (o : Ops) : Keeps (blkopnOp o s) := by
  unfold blkopnOp
  refine guarded_wf h _ (fun g t ht => ?_)
  dsimp only
  split
  · exact wf_of_halt (by assumption) (openable_wf ht _ _)
  · split
    · exact fault_wf ht _
    · split
      · exact wf_of_stopWith (by assumption) (lvlRead_wf ht _ _ _)
      · have h1 := wf_of_okWith (by assumption) (lvlRead_wf ht _ _ _)
        exact done_wf (setCursor_wf h1 _ _ _) _ _ _ _

theorem endRequest_wf {s : State} (h : s.mem.wf = true) (id status : Nat) : (s.endRequest id status).mem.wf = true := by
  unfold State.endRequest
  dsimp only
  split
  · exact h
  · exact complete_wf (free_wf h) _ _

theorem endRequests_wf {s : State} (h : s.mem.wf = true) (ids : List Nat) (status : Nat) : (s.endRequests ids status).mem.wf = true := by
  unfold State.endRequests
  exact states_wf (fun _ _ ht => endRequest_wf ht _ _) _ h

theorem doSxfeed_wf {s : State} (h : s.mem.wf = true) (c : Cmd) (n : Nat) : KeepsOk (doSxfeed s c n) := by
  unfold doSxfeed
  exact complete_wf h _ _

theorem queuePieces_wf (u ctx : Nat) {s : State} (h : s.mem.wf = true) (ps : List (Nat × Nat)) : (queuePieces u ctx s ps).1.mem.wf = true := by
  induction ps generalizing s with
  | nil => exact h
  | cons p ps ih =>
    rw [queuePieces]
    dsimp only
    split
    · exact h
    · exact ih (wf_of_doneWith (by assumption) (engReadOk_wf h _ _ _ _))

theorem queueBytes_wf {s : State} (h : s.mem.wf = true) (u : Nat) (x : Strm) : (s.queueBytes u x).1.mem.wf = true := by
  unfold State.queueBytes
  exact queuePieces_wf _ _ h _

theorem dropRequest_wf {s : State} (h : s.mem.wf = true) (x : Strm) (id status : Nat) : (s.dropRequest x id status).mem.wf = true := by
  unfold State.dropRequest
  exact endRequest_wf (putStrm_wf h _) _ _

theorem doSxfrm_wf {s : State} (hs : s.mem.wf = true) (c : Cmd) (h : Dword) : KeepsOk (doSxfrm s c h) := by
  unfold doSxfrm
  split
  · exact endRequest_wf hs _ _
  · split
    · exact endRequest_wf hs _ _
    · split
      · trivial
      · split
        · exact dropRequest_wf hs _ _ _
        · split
          · exact dropRequest_wf hs _ _ _
          · trivial

theorem failFrame_wf {s : State} (h : s.mem.wf = true) (x : Strm) (c : Cmd) (f : Flt) : (s.failFrame x c f).mem.wf = true := by
  unfold State.failFrame
  exact failCmd_wf (putStrm_wf h _) _ _ _

theorem parseFrame_wf {s : State} (h : s.mem.wf = true) (x : Strm) (c : Cmd) : (parseFrame s x c).mem.wf = true := by
  unfold parseFrame
  dsimp only
  split
  · exact endRequests_wf (putStrm_wf h _) _ _
  · split
    · split
      · exact putStrm_wf (hvFresh_wf h _) _
      · exact h
    · split
      · exact putStrm_wf (by exact queueBytes_wf h _ _) _
      · split
        · have h1 := wf_of_doneWith (by assumption) (takeFrame_wf (by exact queueBytes_wf h _ _) _ _ _)
          exact putStrm_wf h1 _
        · exact h
        · exact failFrame_wf h _ _ _

theorem execFrameParse_wf {s : State} (h : s.mem.wf = true) (st : StrmName) : KeepsNext (execFrameParse st s) := by
  unfold execFrameParse
  split
  · exact h
  · split
    · exact h
    · split
      · exact h
      · exact parseFrame_wf h _ _

theorem endFrame_wf {s : State} (h : s.mem.wf = true) (x : Strm) : (s.endFrame x).mem.wf = true := by
  unfold State.endFrame
  dsimp only
  split
  · exact endRequests_wf (putStrm_wf h _) _ _
  · split
    · exact putStrm_wf h _
    · exact complete_wf (putStrm_wf h _) _ _

theorem publishPacket_wf {s : State} (h : s.mem.wf = true) (x : Strm) (c : Cmd) : (publishPacket s x c).mem.wf = true := by
  unfold publishPacket
  dsimp only
  split
  · split
    · exact h
    · split
      · exact endFrame_wf (ringSet_wf (by exact spPut_wf h _ _ _) _ _) _
      · exact putStrm_wf (ringSet_wf (by exact spPut_wf h _ _ _) _ _) _
  · exact h

theorem execPacketPublish_wf {s : State} (h : s.mem.wf = true) (st : StrmName) : KeepsNext (execPacketPublish st s) := by
  unfold execPacketPublish
  split
  · exact h
  · split
    · exact h
    · exact publishPacket_wf h _ _

theorem writeStrms_wf {s : State} (h : s.mem.wf = true) (p : Nat) : (s.writeStrms p).mem.wf = true := by
  unfold State.writeStrms
  exact states_wf (fun _ _ ht => engWrite_wf (privateBytes_wf ht _) _ _ _ _) _ h

theorem warpFlt_wf {s : State} (h : s.mem.wf = true) : (warpFlt s).2.mem.wf = true := by
  unfold warpFlt
  exact fault_wf h _

theorem blockRead_wf {s : State} (h : s.mem.wf = true) (a : Dword) (n : Nat) : KeepsWith (blockRead s a n) := by
  unfold blockRead
  split
  · exact h
  · exact lvlRead_wf h _ _ _

theorem issuePages_wf {s : State} (h : s.mem.wf = true) (rs ws : List Nat) : Keeps (issuePages s rs ws) := by
  unfold issuePages
  split
  · exact wf_of_stopWith (by assumption) (translateAll_wf h _ _ _)
  · have h1 := wf_of_okWith (by assumption) (translateAll_wf h _ _ _)
    split
    · exact wf_of_stopWith (by assumption) (translateAll_wf h1 _ _ _)
    · have h2 := wf_of_okWith (by assumption) (translateAll_wf h1 _ _ _)
      split <;> exact h2

theorem fwarpOp_wf {s : State} (h : s.mem.wf = true) (o : Ops) : Keeps (fwarpOp o s) := by
  unfold fwarpOp
  refine guardedWith_wf h _ _ (fun g t ht => ?_)
  dsimp only
  split
  · exact wf_of_stopWith (by assumption) (blockRead_wf ht _ _)
  · have h1 := wf_of_okWith (by assumption) (blockRead_wf ht _ _)
    split
    · exact warpFlt_wf h1
    · split
      · exact wf_of_stop (by assumption) (issuePages_wf h1 _ _)
      · exact command_wf (wf_of_ok (by assumption) (issuePages_wf h1 _ _)) _ _ _

theorem readsAt_wf (u ctx n : Nat) {s : State} (h : s.mem.wf = true) (as : List Nat) : KeepsOkWith (readsAt u ctx n s as) := by
  induction as generalizing s with
  | nil => exact h
  | cons a as ih =>
    rw [readsAt]
    split
    · trivial
    · have h1 := wf_of_doneWith (by assumption) (engReadOk_wf h _ _ _ _)
      split
      · trivial
      · exact wf_of_doneWith (by assumption) (ih h1)

theorem writesAt_wf (u ctx : Nat) {s : State} (h : s.mem.wf = true) (ws : List (Nat × List Byte)) : (writesAt u ctx s ws).1.mem.wf = true := by
  induction ws generalizing s with
  | nil => exact h
  | cons w ws ih =>
    rw [writesAt]
    split
    · exact wf_of_fst (by assumption) (engWrite_wf h _ _ _ _)
    · exact ih (wf_of_fst (by assumption) (engWrite_wf h _ _ _ _))

theorem doFwarp_wf {s : State} (h : s.mem.wf = true) (c : Cmd) (a : Dword) : KeepsOk (doFwarp s c a) := by
  unfold doFwarp
  dsimp only
  split
  · trivial
  · have h1 := wf_of_doneWith (by assumption) (readsAt_wf _ _ _ h _)
    split
    · trivial
    · have h2 := wf_of_doneWith (by assumption) (readsAt_wf _ _ _ h1 _)
      split
      · exact failCmd_wf (wf_of_fst (by assumption) (writesAt_wf _ _ h2 _)) _ _ _
      · trivial
      · have h3 := wf_of_fst (by assumption) (writesAt_wf _ _ h2 _)
        split
        · trivial
        · exact chargeCmd_wf (complete_wf (by exact spPut_wf h3 _ _ _) _ _) _ _ _

theorem rfmarkOp_wf {s : State} (h : s.mem.wf = true) (o : Ops) : Keeps (rfmarkOp o s) := by
  unfold rfmarkOp
  refine guardedWith_wf h _ _ (fun g t ht => ?_)
  dsimp only
  split
  · exact wf_of_stopWith (by assumption) (blockRead_wf ht _ _)
  · have h1 := wf_of_okWith (by assumption) (blockRead_wf ht _ _)
    split
    · exact warpFlt_wf h1
    · split
      · exact h1
      · split
        · exact wf_of_stop (by assumption) (issuePages_wf h1 _ _)
        · exact command_wf (wf_of_ok (by assumption) (issuePages_wf h1 _ _)) _ _ _

theorem doRfmark_wf {s : State} (h : s.mem.wf = true) (c : Cmd) : KeepsOk (doRfmark s c) := by
  unfold doRfmark
  dsimp only
  split
  · trivial
  · have h1 := wf_of_doneWith (by assumption) (readsAt_wf _ _ _ h _)
    split
    · trivial
    · split
      · have h2 := wf_of_fst (by assumption) (writesAt_wf _ _ (by exact spPut_wf h1 _ _ _) _)
        exact failCmd_wf h2 _ _ _
      · trivial
      · have h2 := wf_of_fst (by assumption) (writesAt_wf _ _ (by exact spPut_wf h1 _ _ _) _)
        exact chargeCmd_wf (complete_wf h2 _ _) _ _ _

end Sys2Proof.Memory
end

section
/-! O60: the matrix islands, the ternary units, the chained units, queues, indices, sections and launches keep the canonical form of memory. -/

namespace Sys2Proof.Memory

open Sys2Proof Sys2Proof.Machine Sys2Proof.Claims Sys2Proof.Laws

/-- What an operation on a region leaves, done or faulting. -/
@[reducible] def KeepsReg : RegOut → Prop
  | .done t _ => t.mem.wf = true
  | .fault _ t => t.mem.wf = true
  | .wait => True
  | .held => True

theorem wf_of_regDone {r : RegOut} {t : State} {vs : List Dword} (hr : r = .done t vs) (h : KeepsReg r) : t.mem.wf = true := by subst hr; exact h
theorem wf_of_regFault {r : RegOut} {t : State} {f : Flt} (hr : r = .fault f t) (h : KeepsReg r) : t.mem.wf = true := by subst hr; exact h

theorem ite_keepsReg {c : Prop} [Decidable c] {q r : RegOut} (hq : KeepsReg q) (hs : KeepsReg r) : KeepsReg (if c then q else r) := by
  split <;> assumption

theorem sendBlock_wf {s : State} (h : s.mem.wf = true) (o : Ops) (kind : Nat) : Keeps (s.sendBlock o kind) := by
  unfold State.sendBlock
  refine memory_wf h _ (fun g t ht => ?_)
  split
  · exact ht
  · exact done_wf ht _ _ _ _

theorem islFault_wf {s : State} (h : s.mem.wf = true) (n : Nat) (word : Dword) : (s.islFault n word).mem.wf = true := by
  unfold State.islFault
  exact raiseEngine_wf h _ _ _

/-- Two states, the one or the other. -/
@[reducible] def KeepsBoth : Except State State → Prop
  | .ok t => t.mem.wf = true
  | .error t => t.mem.wf = true

theorem wf_of_okBoth {r : Except State State} {t : State} (hr : r = .ok t) (h : KeepsBoth r) : t.mem.wf = true := by subst hr; exact h
theorem wf_of_errorBoth {r : Except State State} {t : State} (hr : r = .error t) (h : KeepsBoth r) : t.mem.wf = true := by subst hr; exact h

theorem islTake_wf {s : State} (h : s.mem.wf = true) (n : Nat) : KeepsBoth (s.islTake n) := by
  unfold State.islTake
  dsimp only
  split
  · exact h
  · split
    · exact h
    · exact islFault_wf h _ _
    · split
      · exact islFault_wf h _ _
      · split
        · split
          · exact setIsl_wf h _ _
          · exact islFault_wf h _ _
        · split
          · split
            · exact setIsl_wf h _ _
            · exact islFault_wf h _ _
          · split
            · exact islFault_wf h _ _
            · split
              · exact islFault_wf h _ _
              · split
                · exact islFault_wf h _ _
                · exact setIsl_wf h _ _

theorem feedFault_wf {s : State} (h : s.mem.wf = true) (n : Nat) : (s.feedFault n).mem.wf = true := by
  unfold State.feedFault
  exact islFault_wf h _ _

theorem islServe_wf {s : State} (h : s.mem.wf = true) (n kind : Nat) {f : State → Dword → IslBlock → State}
    (hf : ∀ t w v, t.mem.wf = true → (f t w v).mem.wf = true) : (s.islServe n kind f).mem.wf = true := by
  unfold State.islServe
  dsimp only
  split
  · exact h
  · split
    · exact feedFault_wf h _
    · split
      · dsimp only
        split
        · exact hf _ _ _ h
        · exact h
      · split
        · exact h
        · split
          · exact h
          · split
            · exact h
            · split
              · exact wf_of_errorBoth (by assumption) (islTake_wf h _)
              · have h1 := wf_of_okBoth (by assumption) (islTake_wf h _)
                split
                · exact hf _ _ _ h1
                · exact h1

theorem islDone_wf {s : State} (h : s.mem.wf = true) (n : Nat) (x : Island) (units : Nat) : (s.islDone n x units).mem.wf = true := by
  unfold State.islDone
  exact charge_wf (setIsl_wf h _ _) _ _ _

theorem islRead_wf {s : State} (h : s.mem.wf = true) (n : Nat) (sp : Bool) (a len : Nat) : KeepsOkWith (s.islRead n sp a len) := by
  unfold State.islRead
  dsimp only
  split
  · split
    · trivial
    · split
      · trivial
      · exact h
  · exact engReadOk_wf h _ _ _ _

theorem islReads_wf (n : Nat) (sp : Bool) (len : Nat) {s : State} (h : s.mem.wf = true) (as : List Nat) :
    KeepsOkWith (State.islReads n sp len s as) := by
  induction as generalizing s with
  | nil => exact h
  | cons a as ih =>
    rw [State.islReads]
    split
    · trivial
    · have h1 := wf_of_doneWith (by assumption) (islRead_wf h _ _ _ _)
      split
      · trivial
      · exact wf_of_doneWith (by assumption) (ih h1)

theorem islWrite_wf {s : State} (h : s.mem.wf = true) (n : Nat) (sp : Bool) (a : Nat) (bs : List Byte) : (s.islWrite n sp a bs).1.mem.wf = true := by
  unfold State.islWrite
  dsimp only
  split
  · split
    · exact h
    · exact spPut_wf h _ _ _
  · exact engWrite_wf h _ _ _ _

theorem islWrites_wf (n : Nat) (sp : Bool) {s : State} (h : s.mem.wf = true) (ws : List (Nat × List Byte)) :
    (State.islWrites n sp s ws).1.mem.wf = true := by
  induction ws generalizing s with
  | nil => exact h
  | cons w ws ih =>
    rw [State.islWrites]
    split
    · exact wf_of_fst (by assumption) (islWrite_wf h _ _ _ _)
    · exact ih (wf_of_fst (by assumption) (islWrite_wf h _ _ _ _))

theorem islRows_wf {s : State} (h : s.mem.wf = true) (n : Nat) (b : IslBlock) : KeepsOkWith (s.islRows n b) := by
  unfold State.islRows
  split
  · trivial
  · have h1 := wf_of_doneWith (by assumption) (islReads_wf _ _ _ h _)
    split
    · trivial
    · exact wf_of_doneWith (by assumption) (islReads_wf _ _ _ h1 _)

theorem islErr_wf {s : State} (h : s.mem.wf = true) (n : Nat) (w : Dword) (e : EErr) : (s.islErr n w e).mem.wf = true := by
  unfold State.islErr
  split
  · exact h
  · split
    · exact islFault_wf h _ _
    · exact raiseEngine_wf h _ _ _

theorem islChuck_wf {s : State} (h : s.mem.wf = true) (n : Nat) (w : Dword) (b : IslBlock) : (islChuck n s w b).mem.wf = true := by
  unfold islChuck
  dsimp only
  split
  · exact islErr_wf h _ _ _
  · exact islDone_wf (wf_of_doneWith (by assumption) (islRows_wf h _ _)) _ _ _

theorem execIslandChuck_wf {s : State} (h : s.mem.wf = true) (n : Nat) : KeepsNext (execIslandChuck n s) := by
  unfold execIslandChuck
  exact islServe_wf h _ _ (fun _ _ _ ht => islChuck_wf ht _ _ _)

theorem execIslandMswap_wf {s : State} (h : s.mem.wf = true) (n : Nat) : KeepsNext (execIslandMswap n s) := by
  unfold execIslandMswap
  exact islServe_wf h _ _ (fun _ _ _ ht => islDone_wf ht _ _ _)

theorem execIslandMzero_wf {s : State} (h : s.mem.wf = true) (n : Nat) : KeepsNext (execIslandMzero n s) := by
  unfold execIslandMzero
  exact islServe_wf h _ _ (fun _ _ _ ht => islDone_wf ht _ _ _)

theorem islFeed_wf {s : State} (h : s.mem.wf = true) (n : Nat) (tr : Bool) (w : Dword) (b : IslBlock) : (islFeed n tr s w b).mem.wf = true := by
  unfold islFeed
  dsimp only
  split
  · split
    · exact islFault_wf h _ _
    · split
      · exact setIsl_wf h _ _
      · exact islDone_wf h _ _ _
  · split
    · exact islErr_wf h _ _ _
    · exact islDone_wf (wf_of_doneWith (by assumption) (islRows_wf h _ _)) _ _ _

theorem execIslandMfeed_wf {s : State} (h : s.mem.wf = true) (n : Nat) : KeepsNext (execIslandMfeed n s) := by
  unfold execIslandMfeed
  exact islServe_wf h _ _ (fun _ _ _ ht => islFeed_wf ht _ _ _ _)

theorem execIslandMfeedTransposed_wf {s : State} (h : s.mem.wf = true) (n : Nat) : KeepsNext (execIslandMfeedTransposed n s) := by
  unfold execIslandMfeedTransposed
  exact islServe_wf h _ _ (fun _ _ _ ht => islFeed_wf ht _ _ _ _)

theorem islDraw_wf {s : State} (h : s.mem.wf = true) (n : Nat) (w : Dword) (b : IslBlock) : (islDraw n s w b).mem.wf = true := by
  unfold islDraw
  dsimp only
  split
  · split
    · split
      · exact islDone_wf h _ _ _
      · exact setIsl_wf h _ _
    · split
      · exact islDone_wf h _ _ _
      · exact setIsl_wf h _ _
  · split
    · exact h
    · exact islErr_wf (wf_of_fst (by assumption) (islWrites_wf _ _ h _)) _ _ _
    · exact islDone_wf (wf_of_fst (by assumption) (islWrites_wf _ _ h _)) _ _ _

theorem execIslandMdraw_wf {s : State} (h : s.mem.wf = true) (n : Nat) : KeepsNext (execIslandMdraw n s) := by
  unfold execIslandMdraw
  exact islServe_wf h _ _ (fun _ _ _ ht => islDraw_wf ht _ _ _)

theorem islTile_wf {s : State} (h : s.mem.wf = true) (n : Nat) : (islTile n s).mem.wf = true := by
  unfold islTile
  dsimp only
  split
  · dsimp only
    split
    · exact islFault_wf h _ _
    · split
      · exact setIsl_wf h _ _
      · split
        · exact charge_wf (setIsl_wf h _ _) _ _ _
        · exact setIsl_wf h _ _
  · split
    · exact islFault_wf h _ _
    · split
      · exact setIsl_wf h _ _
      · split
        · exact charge_wf (setIsl_wf h _ _) _ _ _
        · exact setIsl_wf h _ _

theorem execIslandArmedTile_wf {s : State} (h : s.mem.wf = true) (n : Nat) : KeepsNext (execIslandArmedTile n s) := by
  unfold execIslandArmedTile
  dsimp only
  split
  · exact feedFault_wf h _
  · split
    · exact islTile_wf h _
    · exact h

theorem ternRegion_wf {s : State} (h : s.mem.wf = true) (a : Dword) (n : Nat) : KeepsStop (ternRegion s a n) := by
  unfold ternRegion
  split
  · exact wf_of_halt (by assumption) (aligned_wf h _ _)
  · split
    · exact wf_of_halt (by assumption) (locateSp_wf h _ _)
    · trivial

theorem tchuckOp_wf {s : State} (h : s.mem.wf = true) (o : Ops) : Keeps (tchuckOp o s) := by
  unfold tchuckOp
  refine memoryWith_wf h _ _ (fun g t ht => ?_)
  split
  · exact wf_of_halt (by assumption) (ternRegion_wf ht _ _)
  · exact command_wf ht _ _ _

theorem rowsOp_wf {s : State} (h : s.mem.wf = true) (o : Ops) (draw : Bool) (row : Nat) (k : Dword → Nat → CmdKind) : Keeps
    (rowsOp o draw row k s) := by
  unfold rowsOp
  refine memoryWith_wf h _ _ (fun g t ht => ?_)
  dsimp only
  split
  · exact wf_of_halt (by assumption) (ternRegion_wf ht _ _)
  · split
    · exact command_wf ht _ _ _
    · exact ht

theorem tfeedOp_wf {s : State} (h : s.mem.wf = true) (o : Ops) : Keeps (tfeedOp o s) := by
  unfold tfeedOp
  exact rowsOp_wf h _ _ _ _

theorem tdrawOp_wf {s : State} (h : s.mem.wf = true) (o : Ops) : Keeps (tdrawOp o s) := by
  unfold tdrawOp
  exact rowsOp_wf h _ _ _ _

theorem doTchuck_wf {s : State} (h : s.mem.wf = true) (c : Cmd) (a : Dword) : KeepsOk (doTchuck s c a) := by
  unfold doTchuck
  dsimp only
  split
  · trivial
  · split
    · trivial
    · split
      · trivial
      · exact complete_wf (setTern_wf h _ _) _ _

theorem doTfeed_wf {s : State} (h : s.mem.wf = true) (c : Cmd) (a : Dword) (row0 cnt : Nat) (sat : Bool) : KeepsOk (doTfeed s c a row0 cnt sat) := by
  unfold doTfeed
  dsimp only
  split
  · trivial
  · split
    · trivial
    · exact chargeCmd_wf (complete_wf (setTern_wf h _ _) _ _) _ _ _

theorem doTdraw_wf {s : State} (h : s.mem.wf = true) (c : Cmd) (a : Dword) (row0 cnt : Nat) (clr : Bool) : KeepsOk (doTdraw s c a row0 cnt clr) := by
  unfold doTdraw
  dsimp only
  split
  · trivial
  · split
    · trivial
    · exact complete_wf (setTern_wf (by exact spPut_wf h _ _ _) _ _) _ _

theorem put_wf {s : State} (h : s.mem.wf = true) (g : Rg) (off n v : Nat) : (Rg.put g s off n v).mem.wf = true := by
  unfold Rg.put
  exact spPut_wf h _ _ _

theorem setField_wf {s : State} (h : s.mem.wf = true) (g : Rg) (off n v : Nat) : (Rg.setField g s off n v).mem.wf = true := by
  unfold Rg.setField
  exact put_wf h _ _ _ _

theorem regionRange_wf {s : State} (h : s.mem.wf = true) (a : Dword) : KeepsStop (s.regionRange a) := by
  unfold State.regionRange
  split
  · exact h
  · trivial

theorem regionOf_wf {s : State} (h : s.mem.wf = true) (a : Dword) (idx : Bool) : KeepsStop (s.regionOf a idx) := by
  unfold State.regionOf
  dsimp only
  split
  · exact h
  · split
    · split
      · trivial
      · exact h
    · exact h

theorem examine_wf {s : State} (h : s.mem.wf = true) (u r : Nat) (d : Region) : (s.examine u r d).mem.wf = true := by
  unfold State.examine
  dsimp only
  split
  · exact h
  · split
    · exact setField_wf (setField_wf (by exact spPut_wf h _ _ _) _ _ _ _) _ _ _ _
    · exact setField_wf (by exact spPut_wf h _ _ _) _ _ _ _

theorem onQueue_wf {s : State} (h : s.mem.wf = true) (g : Rg) {f : QHead → RegOut} (hf : ∀ q, KeepsReg (f q)) : KeepsReg (g.onQueue s f) := by
  unfold Rg.onQueue
  dsimp only
  split
  · exact h
  · split
    · exact h
    · exact hf _

theorem dqputStep_wf {s : State} (h : s.mem.wf = true) (g : Rg) (lane : Nat) (ws : List Dword) : KeepsReg (dqputStep s g lane ws) := by
  unfold dqputStep
  refine onQueue_wf h _ (fun q => ?_)
  dsimp only
  split
  · trivial
  · split
    · exact h
    · exact setField_wf (put_wf h _ _ _ _) _ _ _ _

theorem dqgetStep_wf {s : State} (h : s.mem.wf = true) (g : Rg) (nw : Bool) : KeepsReg (dqgetStep s g nw) := by
  unfold dqgetStep
  refine onQueue_wf h _ (fun q => ?_)
  split
  · split
    · exact h
    · exact setField_wf h _ _ _ _
  · split
    · exact h
    · split
      · exact h
      · trivial

theorem putRecs_wf (g : Rg) {s : State} (h : s.mem.wf = true) (i : Nat) (rs : List Nat) : (g.putRecs s i rs).mem.wf = true := by
  induction rs generalizing s i with
  | nil => exact h
  | cons r rs ih =>
    rw [Rg.putRecs]
    exact ih (put_wf h _ _ _ _) _

theorem notices_wf (g : Rg) {s : State} (h : s.mem.wf = true) (i : Nat) (rs : List (List Nat)) : (g.notices s i rs).mem.wf = true := by
  induction rs generalizing s i with
  | nil => exact h
  | cons xs rs ih =>
    rw [Rg.notices]
    split
    · exact ih h _
    · exact ih (emitEngine_wf h _ _ _) _

theorem dqconStep_wf {s : State} (h : s.mem.wf = true) (g : Rg) : KeepsReg (dqconStep s g) := by
  unfold dqconStep
  refine onQueue_wf h _ (fun q => ?_)
  dsimp only
  split
  · exact h
  · exact setField_wf (setField_wf (putRecs_wf _ (notices_wf _ h _ _) _ _) _ _ _ _) _ _ _ _

theorem dqfrnStep_wf {s : State} (h : s.mem.wf = true) (g : Rg) (lane v : Nat) : KeepsReg (dqfrnStep s g lane v) := by
  unfold dqfrnStep
  refine onQueue_wf h _ (fun q => ?_)
  exact setField_wf h _ _ _ _

theorem dqqscStep_wf {s : State} (h : s.mem.wf = true) (g : Rg) (t : Nat) : KeepsReg (dqqscStep s g t) := by
  unfold dqqscStep
  refine onQueue_wf h _ (fun q => ?_)
  exact h

theorem setBucket_wf {s : State} (h : s.mem.wf = true) (g : Rg) (b v : Nat) : (Rg.setBucket g s b v).mem.wf = true := by
  unfold Rg.setBucket
  exact put_wf h _ _ _ _

theorem hvStop_keepsWith {α : Type} {s : State} (h : s.mem.wf = true) {r : Except EErr (State × α)} (hr : KeepsOkWith r) : KeepsWith
    (hvStop s r) := by
  cases r with
  | ok p => exact hr
  | error e => cases e with
    | absent => exact h
    | flt f => exact h

theorem spillHome_wf {s : State} (h : s.mem.wf = true) (g : Rg) (va : Nat) (w : Bool) : KeepsWith (Rg.spillHome g s va w) := by
  unfold Rg.spillHome
  dsimp only
  split
  · exact h
  · have h1 := wf_of_doneWith (by assumption) (translate_wf h _ _ _)
    split
    · exact h1
    · split <;> exact homeLook_wf h1 _ _

theorem spillAt_wf {s : State} (h : s.mem.wf = true) (g : Rg) (j : Nat) (w : Bool) : KeepsWith (g.spillAt s j w) := by
  unfold Rg.spillAt
  dsimp only
  cases hvTarget (s.ctx (s.part g.p).ctx) (128 * g.decl.spillA + 64 * j) with
  | some n =>
    have hr : KeepsWith ((hvStop s (hvTakes (s.part g.p).ctx false s (pieces 64 (128 * g.decl.spillA + 64 * j) 64))).map
        (fun r => (r.1, 0, bytesToNat r.2))) := map_keepsWith (hvStop_keepsWith h (hvTakes_wf _ _ h _)) (fun _ ht => ht)
    split
    · exact wf_of_stopWith (by assumption) hr
    · exact wf_of_okWith (by assumption) hr
  | none =>
    dsimp only
    split
    · exact wf_of_stopWith (by assumption) (spillHome_wf h _ _ _)
    · exact wf_of_okWith (by assumption) (spillHome_wf h _ _ _)

theorem setSpill_wf {s : State} (h : s.mem.wf = true) (g : Rg) (x : Spill) (v : Nat) : Keeps (Rg.setSpill g s x v) := by
  unfold Rg.setSpill
  dsimp only
  split
  · exact map_keeps (hvStop_keepsWith h (hvTakes_wf _ _ h _)) (fun _ ht => ht)
  · exact note_wf (homePut_wf h _ _ _) _

theorem bump_wf {s : State} (h : s.mem.wf = true) (g : Rg) (off : Nat) (up : Bool) : (Rg.bump g s off up).mem.wf = true := by
  unfold Rg.bump
  exact setField_wf h _ _ _ _

theorem applyHome_wf {s : State} (h : s.mem.wf = true) (g : Rg) (b v i k stamp new : Nat) : (Rg.applyHome g s b v i k stamp new).mem.wf = true := by
  unfold Rg.applyHome
  dsimp only
  split
  · exact bump_wf (setBucket_wf h _ _ _) _ _ _
  · exact setBucket_wf h _ _ _

theorem applySpill_wf {s : State} (h : s.mem.wf = true) (g : Rg) (x : Spill) (i k new : Nat) : Keeps (Rg.applySpill g s x i k new) := by
  unfold Rg.applySpill
  split
  · exact wf_of_stop (by assumption) (setSpill_wf h _ _ _)
  · have h1 := wf_of_ok (by assumption) (setSpill_wf h _ _ _)
    split
    · exact bump_wf h1 _ _ _
    · exact h1

theorem applyNew_wf {s : State} (h : s.mem.wf = true) (g : Rg) (b v i k stamp new : Nat) : (Rg.applyNew g s b v i k stamp new).mem.wf = true := by
  unfold Rg.applyNew
  exact bump_wf (setBucket_wf h _ _ _) _ _ _

theorem applyMove_wf {s : State} (h : s.mem.wf = true) (g : Rg) (b v k stamp new info : Nat) : Keeps (Rg.applyMove g s b v k stamp new info) := by
  unfold Rg.applyMove
  dsimp only
  split
  · exact h
  · split
    · exact wf_of_stopWith (by assumption) (spillAt_wf h _ _ _)
    · have h1 := wf_of_okWith (by assumption) (spillAt_wf h _ _ _)
      split
      · exact h1
      · split
        · exact wf_of_stop (by assumption) (setSpill_wf h1 _ _ _)
        · have h2 := wf_of_ok (by assumption) (setSpill_wf h1 _ _ _)
          exact applyNew_wf (bump_wf (bump_wf h2 _ _ _) _ _ _) _ _ _ _ _ _ _

theorem lookSpill_wf {s : State} (h : s.mem.wf = true) (g : Rg) (v k : Nat) (w : Bool) : KeepsWith (Rg.lookSpill g s v k w) := by
  unfold Rg.lookSpill
  split
  · exact h
  · split
    · exact wf_of_stopWith (by assumption) (spillAt_wf h _ _ _)
    · exact wf_of_okWith (by assumption) (spillAt_wf h _ _ _)

theorem apply_wf {s : State} (h : s.mem.wf = true) (g : Rg) (k : Nat) (d : Int) (info : Nat) : KeepsWith (Rg.apply g s k d info) := by
  unfold Rg.apply
  dsimp only
  split
  · exact h
  · split
    · exact setField_wf (applyHome_wf h _ _ _ _ _ _ _) _ _ _ _
    · split
      · exact wf_of_stopWith (by assumption) (lookSpill_wf h _ _ _ _)
      · have h1 := wf_of_okWith (by assumption) (lookSpill_wf h _ _ _ _)
        exact mapState_keepsWith (applySpill_wf h1 _ _ _ _ _) (fun _ ht => setField_wf ht _ _ _ _)
      · have h1 := wf_of_okWith (by assumption) (lookSpill_wf h _ _ _ _)
        split
        · exact setField_wf h1 _ _ _ _
        · split
          · exact setField_wf (applyNew_wf h1 _ _ _ _ _ _ _) _ _ _ _
          · split
            · exact wf_of_stop (by assumption) (applyMove_wf h1 _ _ _ _ _ _ _)
            · exact setField_wf (wf_of_ok (by assumption) (applyMove_wf h1 _ _ _ _ _ _ _)) _ _ _ _

theorem stopped_wf {e : Stop × State} (h : e.2.mem.wf = true) : KeepsReg (.stopped e) := by
  obtain ⟨x, t⟩ := e
  cases x with
  | wait => trivial
  | flt f => exact h

theorem ixupdStep_wf {s : State} (h : s.mem.wf = true) (q x : Rg) (sum nw : Bool) : KeepsReg (ixupdStep s q x sum nw) := by
  unfold ixupdStep
  refine onQueue_wf h _ (fun q => ?_)
  dsimp only
  split
  · split
    · exact h
    · split
      · exact stopped_wf (wf_of_stopWith (by assumption) (apply_wf h _ _ _ _))
      · exact setField_wf (wf_of_okWith (by assumption) (apply_wf h _ _ _ _)) _ _ _ _
  · split
    · exact h
    · split
      · exact h
      · trivial

theorem ixgetStep_wf {s : State} (h : s.mem.wf = true) (g : Rg) (k : Nat) : KeepsReg (ixgetStep s g k) := by
  unfold ixgetStep
  dsimp only
  split
  · exact h
  · split
    · exact h
    · split
      · exact stopped_wf (wf_of_stopWith (by assumption) (lookSpill_wf h _ _ _ _))
      · exact wf_of_okWith (by assumption) (lookSpill_wf h _ _ _ _)
      · exact wf_of_okWith (by assumption) (lookSpill_wf h _ _ _ _)

theorem firstSpill_wf (g : Rg) (c n j : Nat) {s : State} (h : s.mem.wf = true) : KeepsWith (g.firstSpill c n j s) := by
  induction n generalizing s j with
  | zero => exact h
  | succ n ih =>
    rw [Rg.firstSpill]
    split
    · exact wf_of_stopWith (by assumption) (spillAt_wf h _ _ _)
    · have h1 := wf_of_okWith (by assumption) (spillAt_wf h _ _ _)
      split
      · exact h1
      · exact ih _ h1

theorem ixitrStep_wf {s : State} (h : s.mem.wf = true) (g : Rg) (c : Nat) : KeepsReg (ixitrStep s g c) := by
  unfold ixitrStep
  dsimp only
  split
  · exact h
  · split
    · exact h
    · split
      · exact stopped_wf (wf_of_stopWith (by assumption) (firstSpill_wf _ _ _ _ h))
      · exact wf_of_okWith (by assumption) (firstSpill_wf _ _ _ _ h)
      · exact wf_of_okWith (by assumption) (firstSpill_wf _ _ _ _ h)

theorem clearIndex_wf {s : State} (h : s.mem.wf = true) (g : Rg) : (Rg.clearIndex g s).mem.wf = true := by
  unfold Rg.clearIndex
  exact setField_wf (setField_wf (setField_wf (by exact spPut_wf h _ _ _) _ _ _ _) _ _ _ _) _ _ _ _

theorem clearQueue_wf {s : State} (h : s.mem.wf = true) (g : Rg) : (Rg.clearQueue g s).mem.wf = true := by
  unfold Rg.clearQueue
  exact setField_wf (setField_wf (setField_wf h _ _ _ _) _ _ _ _) _ _ _ _

theorem ixclrStep_wf {s : State} (h : s.mem.wf = true) (g : Rg) : KeepsReg (ixclrStep s g) := by
  unfold ixclrStep
  split
  · exact clearIndex_wf h _
  · refine onQueue_wf h _ (fun q => ?_)
    exact clearQueue_wf h _

theorem spillsReach_wf (g : Rg) {s : State} (h : s.mem.wf = true) (es : List (Nat × Nat)) : Keeps (g.spillsReach s es) := by
  -- The function that picks a spill bucket stays a variable: the kernel would compute its multiplication step by step.
  obtain ⟨B, hB⟩ : ∃ B, B = g.spillOf := ⟨_, rfl⟩
  delta Rg.spillsReach Rg.spillsReach._f
  rw [← hB]
  induction es generalizing s with
  | nil => exact h
  | cons e es ih =>
    dsimp only
    split
    · exact wf_of_stopWith (by assumption) (spillAt_wf h _ _ _)
    · exact ih (wf_of_okWith (by assumption) (spillAt_wf h _ _ _))

theorem rgSpillAll_wf (g : Rg) (n : Nat) {s : State} (h : s.mem.wf = true) (es : List (Nat × Nat)) : KeepsReg (g.spillAll n s es) := by
  obtain ⟨B, hB⟩ : ∃ B, B = g.spillOf := ⟨_, rfl⟩
  delta Rg.spillAll Rg.spillAll._f
  rw [← hB]
  induction es generalizing s n with
  | nil => exact h
  | cons e es ih =>
    dsimp only
    split
    · exact stopped_wf (wf_of_stopWith (by assumption) (spillAt_wf h _ _ _))
    · have h1 := wf_of_okWith (by assumption) (spillAt_wf h _ _ _)
      split
      · exact h1
      · split
        · exact stopped_wf (wf_of_stop (by assumption) (setSpill_wf h1 _ _ _))
        · have h2 := wf_of_ok (by assumption) (setSpill_wf h1 _ _ _)
          exact ih _ (bump_wf (bump_wf (setBucket_wf h2 _ _ _) _ _ _) _ _ _)

theorem ixsplStep_wf {s : State} (h : s.mem.wf = true) (g : Rg) : KeepsReg (ixsplStep s g) := by
  unfold ixsplStep
  split
  · exact h
  · split
    · exact h
    · split
      · exact h
      · split
        · exact stopped_wf (wf_of_stop (by assumption) (spillsReach_wf _ h _))
        · have h1 := wf_of_ok (by assumption) (spillsReach_wf _ h _)
          exact rgSpillAll_wf _ _ (by exact h1) _

theorem regionStep_wf {s : State} (h : s.mem.wf = true) (x : Waiter) : KeepsReg (regionStep s x) := by
  unfold regionStep
  dsimp only
  split
  · exact dqputStep_wf h _ _ _
  · exact dqgetStep_wf h _ _
  · exact ixupdStep_wf h _ _ _ _
  · trivial

theorem raiseAt_wf {s : State} (h : s.mem.wf = true) (c : Coord) (f : Flt) : (s.raiseAt c f).mem.wf = true := by
  unfold State.raiseAt
  exact focus_wf (raise_wf (withdraw_wf (focus_wf h _) _) _) _

theorem serveRegion_wf {s : State} (h : s.mem.wf = true) (done xs : List Waiter) : KeepsSome (serveRegion s done xs) := by
  induction xs generalizing done with
  | nil => trivial
  | cons x xs ih =>
    rw [serveRegion]
    dsimp only
    split
    · split <;> exact waits_wf (wf_of_regDone (by assumption) (ite_keepsReg (regionStep_wf h _) trivial)) _
    · exact raiseAt_wf (wf_of_regFault (by assumption) (ite_keepsReg (regionStep_wf h _) trivial)) _ _
    · exact ih _
    · exact ih _

theorem serveRegions_wf {s : State} (h : s.mem.wf = true) (n : Nat) : (s.serveRegions n).mem.wf = true := by
  induction n generalizing s with
  | zero => exact h
  | succ n ih =>
    rw [State.serveRegions]
    split
    · exact h
    · exact ih (wf_of_some (by assumption) (serveRegion_wf h _ _))

theorem brought_wf {s : State} (h : s.mem.wf = true) (o : Ops) (vs : List Dword) : (s.brought o vs).mem.wf = true := by
  unfold State.brought
  exact h

/-- A result that may have found a state, or a stop with the state it leaves. -/
@[reducible] def KeepsReach : Acc (Option State) → Prop
  | .ok (some t) => t.mem.wf = true
  | .ok none => True
  | .error e => e.2.mem.wf = true

theorem wf_of_reach {r : Acc (Option State)} {t : State} (hr : r = .ok (some t)) (h : KeepsReach r) : t.mem.wf = true := by subst hr; exact h
theorem wf_of_reachStop {r : Acc (Option State)} {t : State} {e : Flt} (hr : r = .error (e, t)) (h : KeepsReach r) : t.mem.wf = true := by
  subst hr; exact h

theorem regionEnd_wf {wait : State} (h : wait.mem.wf = true) (o : Ops) {r : RegOut} (hr : KeepsReg r) : KeepsReach (regionEnd o wait r) := by
  cases r with
  | wait => exact h
  | held => trivial
  | fault f t => exact hr
  | done t vs => exact serveRegions_wf (brought_wf hr _ _) _

theorem reaching_wf {s : State} (h : s.mem.wf = true) (o : Ops) {f : Got → State → Acc (Option State)}
    (hf : ∀ g t, t.mem.wf = true → KeepsReach (f g t)) : Keeps (s.reaching o f) := by
  unfold State.reaching
  split
  · rename_i hr
    exact operandsWith_stop h hr
  · rename_i g t hr
    have ht := hf g t (operandsWith_wf h hr)
    split
    · rename_i he
      exact faultAt_wf h (wf_of_reachStop he ht) _
    · exact h
    · rename_i he
      exact wf_of_reach he ht

theorem onRegion_wf {s : State} (h : s.mem.wf = true) (o : Ops) (idx : Bool) {f : Got → State → Rg → RegOut}
    (hf : ∀ g t r, t.mem.wf = true → KeepsReg (f g t r)) : Keeps (s.onRegion o idx f) := by
  refine reaching_wf h o (fun g t ht => ?_)
  split
  · exact wf_of_halt (by assumption) (regionOf_wf ht _ _)
  · exact regionEnd_wf ht _ (hf g t _ ht)

theorem dqputOp_wf {s : State} (h : s.mem.wf = true) (o : Ops) : Keeps (dqputOp o s) := by
  unfold dqputOp
  refine reaching_wf h _ (fun g t ht => ?_)
  dsimp only
  split
  · exact wf_of_halt (by assumption) (regionOf_wf ht _ _)
  · exact regionEnd_wf (await_wf _ ht _ _ _ _ _ _ _) _ (dqputStep_wf ht _ _ _)

theorem dqgetOp_wf {s : State} (h : s.mem.wf = true) (o : Ops) : Keeps (dqgetOp o s) := by
  unfold dqgetOp
  refine reaching_wf h _ (fun g t ht => ?_)
  split
  · exact wf_of_halt (by assumption) (regionOf_wf ht _ _)
  · exact regionEnd_wf (await_wf _ ht _ _ _ _ _ _ _) _ (dqgetStep_wf ht _ _)

theorem ixupdOp_wf {s : State} (h : s.mem.wf = true) (o : Ops) : Keeps (ixupdOp o s) := by
  unfold ixupdOp
  refine reaching_wf h _ (fun g t ht => ?_)
  split
  · exact wf_of_halt (by assumption) (regionRange_wf ht _)
  · exact wf_of_halt (by assumption) (regionRange_wf ht _)
  · split
    · exact wf_of_halt (by assumption) (regionOf_wf ht _ _)
    · split
      · exact wf_of_halt (by assumption) (regionOf_wf ht _ _)
      · split
        · exact ht
        · exact regionEnd_wf (await_wf _ ht _ _ _ _ _ _ _) _ (ixupdStep_wf ht _ _ _ _)

theorem anyRegion_wf {s : State} (h : s.mem.wf = true) (a : Dword) : KeepsStop (s.anyRegion a) := by
  unfold State.anyRegion
  split
  · trivial
  · exact regionOf_wf h _ _

theorem ixsplOp_wf {s : State} (h : s.mem.wf = true) (o : Ops) : Keeps (ixsplOp o s) := by
  unfold ixsplOp
  split
  · exact wf_of_stopSnd (by assumption) (operands_wf h _)
  · have h1 := wf_of_okSnd (by assumption) (operands_wf h _)
    split
    · exact h
    · split
      · exact wf_of_reach (by assumption) (regionEnd_wf h1 _ (ixsplStep_wf h1 _))
      · exact h
      · exact (wf_of_reachStop (by assumption) (regionEnd_wf h1 _ (ixsplStep_wf h1 _)) :)

theorem setSeed_wf {s : State} (h : s.mem.wf = true) (v : Dword) : (s.setSeed v).mem.wf = true := by
  unfold State.setSeed
  exact setCtx_wf h _ _

theorem windowTr_wf {s : State} (h : s.mem.wf = true) (u ctx : Nat) (w : Window) (i : Nat) : KeepsOkWith (windowTr s u ctx w i) := by
  unfold windowTr
  dsimp only
  split
  · exact translateTables_wf h _ _ _
  · split
    · trivial
    · exact h

theorem windowHome_wf {s : State} (h : s.mem.wf = true) (u ctx : Nat) (w : Window) (i : Nat) (va : Dword) : KeepsOkWith
    (windowHome s u ctx w i va) := by
  unfold windowHome
  dsimp only
  split
  · trivial
  · have h1 := wf_of_doneWith (by assumption) (windowTr_wf h _ _ _ _)
    split
    · trivial
    · split
      · trivial
      · split
        · trivial
        · exact homeLook_wf (crossRead_wf h1 _ _ _ _) _ _

theorem windowRead_wf {s : State} (h : s.mem.wf = true) (u ctx : Nat) (w : Window) (i : Nat) : KeepsOkWith (windowRead s u ctx w i) := by
  unfold windowRead
  dsimp only
  split
  · trivial
  · split
    · exact map_keepsOkWith (hvTake_wf h _ _ _) (fun _ ht => ht)
    · exact windowHome_wf h _ _ _ _ _

theorem giveTiles_wf {s : State} (h : s.mem.wf = true) (p sect c : Nat) : (s.giveTiles p sect c).mem.wf = true := by
  unfold State.giveTiles
  dsimp only
  exact states_wf (fun _ _ ht => ite_wf ht (ite_wf (setIsl_wf ht _ _) (islFault_wf ht _ _))) _ (states_wf (fun _ _ ht => setPort_wf ht _ _ _) _ h)

theorem arm_wf {s : State} (h : s.mem.wf = true) (p sect c : Nat) : (s.arm p sect c).mem.wf = true := by
  unfold State.arm
  exact giveTiles_wf (setPart_wf h _ _) _ _ _

theorem gsarm_wf {s : State} (h : s.mem.wf = true) (p sect c : Nat) : (s.gsarm p sect c).1.mem.wf = true := by
  unfold State.gsarm
  dsimp only
  split
  · exact h
  · split
    · exact h
    · split
      · exact arm_wf h p sect c
      · generalize min (s.tilesLeft p sect + c) (2 ^ 32 - 1) = n
        dsimp only
        exact giveTiles_wf (setPart_wf h _ _) _ _ _

theorem execSectionCountExpiry_wf {s : State} (h : s.mem.wf = true) (p sect : Nat) : KeepsNext (execSectionCountExpiry p sect s) := by
  unfold execSectionCountExpiry
  dsimp only
  split
  · split
    · exact setPart_wf h _ _
    · exact h
  · split
    · exact setPart_wf h _ _
    · exact h

theorem fencePackage_wf {s : State} (h : s.mem.wf = true) : (s.fencePackage).mem.wf = true := by
  unfold State.fencePackage
  exact l1DropAll_wf h _ _ _

theorem wf_of_singleWrite {m t : Mem} {va g v : Nat} (hr : singleWrite m va g v = .ok t) (h : m.wf = true) : t.wf = true := by
  unfold singleWrite at hr
  split at hr
  · cases hr
  · cases hr
    exact woPut_wf h _ _

theorem launchAt_wf {s : State} (h : s.mem.wf = true) (f n : Nat) (w c : Dword) : KeepsWith (launchAt s f n w c) := by
  unfold launchAt
  dsimp only
  split
  · split
    · exact h
    · exact setLq_wf h _ _ _
    · exact setLq_wf (wf_of_doneWith (by assumption) (hvTakes_wf _ _ h _)) _ _ _
  · split
    · exact h
    · have h1 := wf_of_doneWith (by assumption) (translate_wf h _ _ _)
      split
      · exact h1
      · split
        · exact setLq_wf h1 _ _ _
        · split
          · exact (wf_of_singleWrite (by assumption) (setLq_wf h1 _ _ _) :)
          · exact (wf_of_singleWrite (by assumption) (wf_of_singleWrite (by assumption) (setLq_wf h1 _ _ _)) :)

theorem launchOp_wf {s : State} (h : s.mem.wf = true) (o : Ops) : Keeps (launchOp o s) := by
  unfold launchOp
  dsimp only
  split
  · exact wf_of_stopSnd (by assumption) (operands_wf h _)
  · have h1 := wf_of_okSnd (by assumption) (operands_wf h _)
    split
    · exact h
    · split
      · exact done_wf (fencePackage_wf h1) _ _ _ _
      · split
        · exact done_wf (fencePackage_wf h1) _ _ _ _
        · split
          · exact h
          · exact (wf_of_stopWith (by assumption) (launchAt_wf (fencePackage_wf h1) _ _ _ _) :)
          · have h2 := wf_of_okWith (by assumption) (launchAt_wf (fencePackage_wf h1) _ _ _ _)
            exact done_wf h2 _ _ _ _

theorem gsarmOp_wf {s : State} (h : s.mem.wf = true) (o : Ops) : Keeps (gsarmOp o s) := by
  unfold gsarmOp
  dsimp only
  split
  · exact wf_of_stopSnd (by assumption) (operands_wf h _)
  · split
    · exact gsarm_wf h _ _ _
    · exact done_wf (by exact gsarm_wf h _ _ _) _ _ _ _

theorem rqrat_wf {s : State} (h : s.mem.wf = true) (v : Nat) : (s.rqrat v).1.mem.wf = true := by
  unfold State.rqrat
  dsimp only
  split
  · exact h
  · exact setPart_wf h _ _

theorem evtakeOp_wf {s : State} (h : s.mem.wf = true) (o : Ops) : Keeps (evtakeOp o s) := by
  unfold evtakeOp
  dsimp only
  split
  · exact wf_of_stopSnd (by assumption) (operands_wf h _)
  · have h1 := wf_of_okSnd (by assumption) (operands_wf h _)
    split
    · split
      · exact done_wf h1 _ _ _ _
      · exact h
    · exact done_wf (setPart_wf h1 _ _) _ _ _ _

theorem requestPreempt_wf {s : State} (h : s.mem.wf = true) (p : Nat) : (s.requestPreempt p).mem.wf = true := by
  unfold State.requestPreempt
  dsimp only
  split
  · exact h
  · exact setPart_wf h _ _

theorem markGranted_wf {s : State} (h : s.mem.wf = true) (f n : Nat) : (s.markGranted f n).mem.wf = true := by
  unfold State.markGranted
  exact h

theorem drq_wf {s : State} (h : s.mem.wf = true) (p : Nat) : (s.drq p).mem.wf = true := by
  unfold State.drq
  dsimp only
  split
  · exact h
  · split
    · exact markGranted_wf (requestPreempt_wf h _) _ _
    · exact requestPreempt_wf h _

theorem qpri_wf {s : State} (h : s.mem.wf = true) (a b : Dword) : (s.qpri a b).1.mem.wf = true := by
  unfold State.qpri
  dsimp only
  split
  · exact h
  · exact setLq_wf h _ _ _

end Sys2Proof.Memory
end

section
/-! O60: the engines, the links, write-once memory, the sequencer and the arbiters keep the canonical form of memory. -/

namespace Sys2Proof.Memory

open Sys2Proof Sys2Proof.Machine Sys2Proof.Claims Sys2Proof.Laws

theorem doCmd_wf {s : State} (h : s.mem.wf = true) (c : Cmd) : KeepsOk (doCmd s c) := by
  unfold doCmd
  split
  · exact doCpy_wf h _ _ _ _ _ _ _ _
  · exact complete_wf h _ _
  · exact doGath_wf h _ _ _ _ _ _ _ _
  · exact doScat_wf h _ _ _ _ _ _ _ _
  · exact doPgsel_wf h _ _
  · exact doKvapp_wf h _ _ _ _
  · exact doKvld_wf h _ _ _ _ _
  · exact doSxfeed_wf h _ _
  · exact doSxfrm_wf h _ _
  · exact doFwarp_wf h _ _
  · exact doRfmark_wf h _
  · exact doTchuck_wf h _ _
  · exact doTfeed_wf h _ _ _ _ _
  · exact doTdraw_wf h _ _ _ _ _

theorem execEngineCommandComplete_wf {s : State} (h : s.mem.wf = true) (id : Nat) : KeepsNext (execEngineCommandComplete id s) := by
  unfold execEngineCommandComplete
  split
  · exact h
  · split
    · exact h
    · split
      · exact wf_of_done (by assumption) (doCmd_wf h _)
      · exact h
      · exact failCmd_wf h _ _ _

theorem issuing_wf {s : State} (h : s.mem.wf = true) (c : Coord) : (s.issuing c).mem.wf = true := by
  unfold State.issuing
  exact focus_wf h _

theorem elapse_wf {s : State} (h : s.mem.wf = true) (n : Nat) : (s.elapse n).mem.wf = true := by
  unfold State.elapse
  dsimp only
  split <;> exact h

theorem execMemoryAccessComplete_wf {s : State} (h : s.mem.wf = true) (c : Coord) : KeepsNext (execMemoryAccessComplete c s) := by
  unfold execMemoryAccessComplete
  split
  · exact h
  · split
    · split
      · exact raiseAt_wf h _ _
      · exact finishWait_wf h _ _ _
    · exact h

theorem retry_wf {s : State} (h : s.mem.wf = true) (c : Coord) (x : Waiter) (b : Nat) : (s.retry c x b).mem.wf = true := by
  unfold State.retry
  dsimp only
  split
  · dsimp only
    split
    · exact serveTags_wf (waits_wf (l2Fill_wf (waits_wf h _) _ _) _) _
    · exact serveTags_wf (waits_wf (waits_wf h _) _) _
  · exact waits_wf h _

theorem execDeferralRetry_wf {s : State} (h : s.mem.wf = true) (c : Coord) : KeepsNext (execDeferralRetry c s) := by
  unfold execDeferralRetry
  split
  · exact h
  · split
    · exact retry_wf h _ _ _
    · exact h

theorem emitCtx_wf {s : State} (h : s.mem.wf = true) (c : Nat) (f : Flt) : (s.emitCtx c f).mem.wf = true := by
  unfold State.emitCtx
  split
  · exact emit_wf h _ _
  · exact emitDev_wf h _

theorem takeNote_wf {s : State} (h : s.mem.wf = true) (x : MemNote) : (s.takeNote x).mem.wf = true := by
  unfold State.takeNote
  split
  · exact charge_wf h _ _ _
  · exact emitCtx_wf h _ _

theorem settleNotes_wf {s : State} (h : s.mem.wf = true) : (s.settleNotes).mem.wf = true := by
  unfold State.settleNotes
  exact states_wf (fun _ _ ht => takeNote_wf ht _) _ (by exact notes_wf h _)

theorem evictL1_wf {s : State} (h : s.mem.wf = true) (u : Nat) (l : Line) (bad : Bool) : (s.evictL1 u l bad).mem.wf = true := by
  unfold State.evictL1
  dsimp only
  split
  · exact l1Drop_wf (l1_wf h _) _ _ _
  · exact l1Drop_wf h _ _ _

theorem evictL2_wf {s : State} (h : s.mem.wf = true) (l : Line) (bad : Bool) : (s.evictL2 l bad).mem.wf = true := by
  unfold State.evictL2
  exact l2Evict_wf h _ _ _

theorem execL1Eviction_wf {s : State} (h : s.mem.wf = true) (c : CacheId) (line : Nat) (bad : Bool) : KeepsNext (execL1Eviction c line bad s) := by
  unfold execL1Eviction
  split
  · split
    · exact evictL1_wf h _ _ _
    · exact h
  · split
    · exact evictL2_wf h _ _
    · exact h

theorem execPageWalk_wf {s : State} (h : s.mem.wf = true) (u ctx : Nat) (va : Dword) : KeepsNext (execPageWalk u ctx va s) := by
  unfold execPageWalk
  split
  · exact wf_of_doneWith (by assumption) (translate_wf h _ _ _)
  · exact h

theorem tlbinv_wf {s : State} (h : s.mem.wf = true) (v : Dword) : (s.tlbinv v).mem.wf = true := by
  unfold State.tlbinv
  dsimp only
  split <;> exact h

theorem execTlbinvWrite_wf {s : State} (h : s.mem.wf = true) (v : Dword) : KeepsNext (execTlbinvWrite v s) := by
  unfold execTlbinvWrite
  exact hosted_wf h (tlbinv_wf h _)

theorem execTlbInvalidateComplete_wf {s : State} (h : s.mem.wf = true) : KeepsNext (execTlbInvalidateComplete s) := by
  unfold execTlbInvalidateComplete
  dsimp only
  split
  · exact h
  · split
    · exact h
    · exact invalidate_wf h _

theorem setStage_wf {s : State} (h : s.mem.wf = true) (u stg : Nat) (x : Stage) : (s.setStage u stg x).mem.wf = true := by
  unfold State.setStage
  exact setMt_wf h _ _

theorem setOut_wf {s : State} (h : s.mem.wf = true) (e : End) (p : OutPort) : (s.setOut e p).mem.wf = true := by
  unfold State.setOut
  dsimp only
  split
  · exact updSlot_wf h _ _
  · exact setIsl_wf h _ _
  · exact setPort_wf h _ _ _
  · exact setStage_wf h _ _ _
  · exact setStage_wf h _ _ _
  · exact setEdge_wf h _ _
  · exact h
  · exact h

theorem setIn_wf {s : State} (h : s.mem.wf = true) (e : End) (p : InPort) : (s.setIn e p).mem.wf = true := by
  unfold State.setIn
  dsimp only
  split
  · exact updSlot_wf h _ _
  · exact setIsl_wf h _ _
  · exact setStage_wf h _ _ _
  · exact setStage_wf h _ _ _
  · exact setEdge_wf h _ _
  · exact h
  · exact h
  · exact h

theorem produce_wf {s : State} (h : s.mem.wf = true) (u k : Nat) : (s.produce u k).mem.wf = true := by
  unfold State.produce
  dsimp only
  split
  · exact h
  · split
    · exact h
    · exact raiseEngine_wf h _ _ _
    · exact setPort_wf (wf_of_doneWith (by assumption) (windowRead_wf h _ _ _ _)) _ _ _

theorem deliver_wf {s : State} (h : s.mem.wf = true) (src : End) (t : Tok) (ts : List Tok) (p : OutPort) (dst : End) :
    (s.deliver src t ts p dst).mem.wf = true := by
  unfold State.deliver
  dsimp only
  split
  · exact setOut_wf h _ _
  · exact charge_wf (setIn_wf (setOut_wf h _ _) _ _) _ _ _

theorem execLinkTokenArrival_wf {s : State} (h : s.mem.wf = true) (src : End) : KeepsNext (execLinkTokenArrival src s) := by
  unfold execLinkTokenArrival
  dsimp only
  split
  · split
    · exact produce_wf h _ _
    · exact h
  · split
    · split
      · split
        · exact produce_wf h _ _
        · exact deliver_wf (produce_wf h _ _) _ _ _ _ _
      · split
        · exact h
        · exact deliver_wf h _ _ _ _ _
    · split
      · exact setOut_wf (produce_wf h _ _) _ _
      · exact setOut_wf h _ _
    · split
      · exact produce_wf h _ _
      · exact h

theorem execSlotFreeVisible_wf {s : State} (h : s.mem.wf = true) (src : End) : KeepsNext (execSlotFreeVisible src s) := by
  unfold execSlotFreeVisible
  split
  · exact h
  · split
    · exact h
    · split
      · exact h
      · split
        · exact setOut_wf (setIn_wf h _ _) _ _
        · split
          · exact h
          · exact setOut_wf (setIn_wf h _ _) _ _

theorem execTaskFire_wf {s : State} (h : s.mem.wf = true) (c : Coord) : KeepsNext (execTaskFire c s) := by
  unfold execTaskFire
  split
  · exact h
  · split
    · exact updSlot_wf h _ _
    · exact h

theorem fillFocus_wf {s : State} (h : s.mem.wf = true) (i : Instr) (n : Nat) : (s.fillFocus i n).mem.wf = true := by
  unfold State.fillFocus
  split
  · exact wf_of_done (by assumption) (fill_wf h _)
  · exact h
  · split
    · exact raise_wf h _
    · exact h

theorem execRegisterFill_wf {s : State} (h : s.mem.wf = true) (c : Coord) (n : Nat) : KeepsNext (execRegisterFill c n s) := by
  unfold execRegisterFill
  dsimp only
  split
  · exact h
  · split
    · exact h
    · split
      · exact focus_wf (fillFocus_wf (focus_wf h _) _ _) _
      · exact h

theorem execElasticSample_wf {s : State} (h : s.mem.wf = true) (u stg : Nat) : KeepsNext (execElasticSample u stg s) := by
  unfold execElasticSample
  split
  · exact setStage_wf h _ _ _
  · exact h

theorem execReplicaPark_wf {s : State} (h : s.mem.wf = true) (u stg rep : Nat) : KeepsNext (execReplicaPark u stg rep s) := by
  unfold execReplicaPark
  dsimp only
  split
  · exact h
  · split
    · exact setStage_wf h _ _ _
    · exact h

theorem execElasticDeal_wf {s : State} (h : s.mem.wf = true) (u stg : Nat) : KeepsNext (execElasticDeal u stg s) := by
  unfold execElasticDeal
  dsimp only
  split
  · exact h
  · split
    · exact h
    · split
      · exact h
      · exact setStage_wf h _ _ _

theorem collect_wf {s : State} (h : s.mem.wf = true) (u stg r n : Nat) (q : InPort) (out : OutPort) (c : Coord) (k : BitVec 3) (p : OutPort) :
    (s.collect u stg r n q out c k p).mem.wf = true := by
  unfold State.collect
  dsimp only
  split
  · exact setOut_wf (setIn_wf (setStage_wf h _ _ _) _ _) _ _
  · exact setIn_wf (setStage_wf h _ _ _) _ _

theorem execElasticCollect_wf {s : State} (h : s.mem.wf = true) (u stg : Nat) : KeepsNext (execElasticCollect u stg s) := by
  unfold execElasticCollect
  dsimp only
  split
  · exact h
  · split
    · exact h
    · split
      · split
        · exact h
        · exact collect_wf h _ _ _ _ _ _ _ _ _
      · exact h

theorem ldpOp_wf {s : State} (h : s.mem.wf = true) (o : Ops) : Keeps (ldpOp o s) := by
  unfold ldpOp
  refine memory_wf h _ (fun g t ht => ?_)
  dsimp only
  split
  · exact wf_of_halt (by assumption) (aligned_wf ht _ _)
  · split
    · exact wf_of_stopWith (by assumption) (locateVa_wf ht _ _ _ _)
    · have h1 := wf_of_okWith (by assumption) (locateVa_wf ht _ _ _ _)
      exact awaitRemote_wf _ h1 _ _ _ _ _ _ _ _
    · exact wf_of_okWith (by assumption) (locateVa_wf ht _ _ _ _)
    · have h1 := wf_of_okWith (by assumption) (locateVa_wf ht _ _ _ _)
      split
      · exact await_wf _ h1 _ _ _ _ _ _ _
      · split
        · exact memError_wf (by exact l2Fill_wf h1 _ _) _
        · exact done_wf (crossEdge_wf (by exact l2Fill_wf h1 _ _) _) _ _ _ _

theorem stoOp_wf {s : State} (h : s.mem.wf = true) (o : Ops) : Keeps (stoOp o s) := by
  unfold stoOp
  refine memory_wf h _ (fun g t ht => ?_)
  dsimp only
  split
  · exact ht
  · split
    · exact wf_of_stopWith (by assumption) (locateVa_wf ht _ _ _ _)
    · have h1 := wf_of_okWith (by assumption) (locateVa_wf ht _ _ _ _)
      exact awaitRemote_wf _ h1 _ _ _ _ _ _ _ _
    · exact wf_of_okWith (by assumption) (locateVa_wf ht _ _ _ _)
    · have h1 := wf_of_okWith (by assumption) (locateVa_wf ht _ _ _ _)
      split
      · exact h1
      · split
        · exact done_wf (by exact tagFence_wf (woPut_wf h1 _ _) _ _) _ _ _ _
        · exact done_wf (by exact woPut_wf h1 _ _) _ _ _ _

theorem ptestOp_wf {s : State} (h : s.mem.wf = true) (o : Ops) : Keeps (ptestOp o s) := by
  unfold ptestOp
  refine memory_wf h _ (fun g t ht => ?_)
  dsimp only
  split
  · exact wf_of_stopWith (by assumption) (locateVa_wf ht _ _ _ _)
  · have h1 := wf_of_okWith (by assumption) (locateVa_wf ht _ _ _ _)
    exact awaitRemote_wf _ h1 _ _ _ _ _ _ _ _
  · exact wf_of_okWith (by assumption) (locateVa_wf ht _ _ _ _)
  · exact done_wf (wf_of_okWith (by assumption) (locateVa_wf ht _ _ _ _)) _ _ _ _

theorem clearRanges_wf {s : State} (h : s.mem.wf = true) (u ctx : Nat) (ps : List (Nat × Nat)) : KeepsWith (clearRanges s u ctx ps) := by
  unfold clearRanges
  dsimp only
  split
  · exact wf_of_stopWith (by assumption) (translateAll_wf h _ _ _)
  · have h1 := wf_of_okWith (by assumption) (translateAll_wf h _ _ _)
    split <;> exact h1

theorem pclrOp_wf {s : State} (h : s.mem.wf = true) (o : Ops) : Keeps (pclrOp o s) := by
  unfold pclrOp
  refine memory_wf h _ (fun g t ht => ?_)
  dsimp only
  split
  · exact ht
  · split
    · exact wf_of_stopWith (by assumption) (clearRanges_wf ht _ _ _)
    · have h1 := wf_of_okWith (by assumption) (clearRanges_wf ht _ _ _)
      exact done_wf (by exact clears_wf h1 _) _ _ _ _

theorem execTaskDrain_wf {s : State} (h : s.mem.wf = true) (c : Coord) : KeepsNext (execTaskDrain c s) := by
  unfold execTaskDrain
  split
  · exact h
  · split
    · exact updSlot_wf h _ _
    · exact h

theorem markSect_wf {s : State} (h : s.mem.wf = true) (p sect : Nat) : (s.markSect p sect).mem.wf = true := by
  unfold State.markSect
  dsimp only
  split
  · exact setPart_wf h _ _
  · exact h

theorem islandDrn_wf {s : State} (h : s.mem.wf = true) (n : Nat) : (s.islandDrn n).mem.wf = true := by
  unfold State.islandDrn
  exact markSect_wf (setIsl_wf h _ _) _ _

theorem streamDrn_wf {s : State} (h : s.mem.wf = true) (u k : Nat) : (s.streamDrn u k).mem.wf = true := by
  unfold State.streamDrn
  dsimp only
  split
  · exact markSect_wf (setPort_wf h _ _ _) _ _
  · exact h

theorem edgeDrn_wf {s : State} (h : s.mem.wf = true) (e : Nat) : (s.edgeDrn e).mem.wf = true := by
  unfold State.edgeDrn
  exact setEdge_wf h _ _

theorem execEngineDrain_wf {s : State} (h : s.mem.wf = true) (e : Engine) : KeepsNext (execEngineDrain e s) := by
  unfold execEngineDrain
  split
  · split
    · exact islandDrn_wf h _
    · exact h
  · exact streamDrn_wf h _ _
  · split
    · exact edgeDrn_wf h _
    · exact h
  · split
    · exact setStage_wf h _ _ _
    · exact h

theorem execBridgeDrain_wf {s : State} (h : s.mem.wf = true) (src : End) : KeepsNext (execBridgeDrain src s) := by
  unfold execBridgeDrain
  split
  · exact h
  · split
    · split
      · exact deliver_wf h _ _ _ _ _
      · exact h
    · exact h

theorem execTileDrained_wf {s : State} (h : s.mem.wf = true) (p u : Nat) : KeepsNext (execTileDrained p u s) := by
  unfold execTileDrained
  dsimp only
  split
  · split
    · exact setPart_wf (by exact l1DropAll_wf h _ _ _) _ _
    · exact h
  · split
    · split
      · exact setPart_wf (by exact h) _ _
      · exact h
    · split
      · exact setPart_wf (by exact h) _ _
      · exact h

theorem yieldPart_wf {s : State} (h : s.mem.wf = true) (p ridx : Nat) (snap : Option Snap) : (s.yieldPart p ridx snap).mem.wf = true := by
  unfold State.yieldPart
  dsimp only
  split
  · exact h
  · exact setPart_wf (setLq_wf h _ _ _) _ _

theorem formeDrained_wf {s : State} (h : s.mem.wf = true) (p : Nat) : (s.formeDrained p).mem.wf = true := by
  unfold State.formeDrained
  dsimp only
  split
  · exact setPart_wf (setPart_wf (by exact applyClears_wf (dropForme_wf (writeStrms_wf h _) _) _) _ _) _ _
  · split
    · exact yieldPart_wf (setPart_wf (by exact applyClears_wf (dropForme_wf (writeStrms_wf h _) _) _) _ _) _ _ _
    · exact setPart_wf (setPart_wf (by exact applyClears_wf (dropForme_wf (writeStrms_wf h _) _) _) _ _) _ _

theorem execDrainReport_wf {s : State} (h : s.mem.wf = true) (p u : Nat) : KeepsNext (execDrainReport p u s) := by
  unfold execDrainReport
  dsimp only
  split
  · split
    · exact formeDrained_wf (setPart_wf h _ _) _
    · exact setPart_wf h _ _
  · exact h

theorem seqHome_wf {s : State} (h : s.mem.wf = true) (p va : Nat) (wo : Bool) : KeepsOkWith (seqHome s p va wo) := by
  unfold seqHome
  dsimp only
  split
  · trivial
  · have h1 := wf_of_doneWith (by assumption) (translate_wf h _ _ _)
    split
    · trivial
    · split
      · trivial
      · split
        · trivial
        · split
          · split
            · trivial
            · exact homeLook_wf (crossPart_wf h1 _ _) _ _
          · split
            · trivial
            · exact homeLook_wf h1 _ _

theorem seqRead_wf {s : State} (h : s.mem.wf = true) (p va : Nat) (wo : Bool) : KeepsOkWith (seqRead s p va wo) := by
  unfold seqRead
  dsimp only
  split
  · split
    · trivial
    · trivial
    · exact wf_of_doneWith (by assumption) (hvTake_wf h _ _ _)
  · exact seqHome_wf h _ _ _

theorem seqReads_wf (p va : Nat) (wo : Bool) (i n : Nat) {s : State} (h : s.mem.wf = true) : KeepsOkWith (seqReads s p va wo i n) := by
  induction n generalizing s va i with
  | zero => exact h
  | succ n ih =>
    rw [seqReads]
    split
    · trivial
    · have h1 := wf_of_doneWith (by assumption) (seqRead_wf h _ _ _)
      split
      · trivial
      · exact wf_of_doneWith (by assumption) (ih _ _ h1)

theorem illegalLaunch_wf {s : State} (h : s.mem.wf = true) (p : Nat) (e : LErr) : (s.illegalLaunch p e).mem.wf = true := by
  unfold State.illegalLaunch
  exact raiseSeq_wf h _ _

theorem hvAway_wf {s : State} (h : s.mem.wf = true) (ctx : Nat) : (s.hvAway ctx).mem.wf = true := by
  unfold State.hvAway
  exact h

theorem seqFail_wf {s : State} (h : s.mem.wf = true) (p word : Nat) (e : SeqErr) : (s.seqFail p word e).mem.wf = true := by
  unfold State.seqFail
  split
  · exact hvAway_wf h _
  · exact illegalLaunch_wf h _ _
  · exact illegalLaunch_wf h _ _
  · exact raiseSeq_wf h _ _

theorem execRecordRead_wf {s : State} (h : s.mem.wf = true) (p : Nat) : KeepsNext (execRecordRead p s) := by
  unfold execRecordRead
  dsimp only
  split
  · split
    · exact seqFail_wf h _ _ _
    · have h1 := wf_of_doneWith (by assumption) (seqReads_wf _ _ _ _ _ h)
      split
      · exact illegalLaunch_wf (setPart_wf h1 _ _) _ _
      · exact setPart_wf h1 _ _
  · exact h

theorem execDependenceGranulesPresent_wf {s : State} (h : s.mem.wf = true) (p : Nat) : KeepsNext (execDependenceGranulesPresent p s) := by
  unfold execDependenceGranulesPresent
  dsimp only
  split
  · exact h
  · split
    · exact seqFail_wf h _ _ _
    · exact setPart_wf (wf_of_doneWith (by assumption) (seqReads_wf _ _ _ _ _ h)) _ _

theorem install_wf {s : State} (h : s.mem.wf = true) (p : Nat) (m : Img) : (s.install p m).mem.wf = true := by
  unfold State.install
  exact setPart_wf (states_wf (fun _ _ ht => setEdge_wf ht _ _) _ (states_wf (fun _ _ ht => setIsl_wf ht _ _) _ (states_wf
      (fun _ _ ht => setMt_wf ht _ _) _ (by exact h)))) _ _

theorem fetchFrames_wf (p img : Nat) (i n : Nat) {s : State} (h : s.mem.wf = true) : KeepsOkWith (fetchFrames s p img i n) := by
  induction n generalizing s i with
  | zero => exact h
  | succ n ih =>
    rw [fetchFrames]
    split
    · trivial
    · trivial
    · split
      · trivial
      · exact wf_of_doneWith (by assumption) (ih _ h)
    · have h1 := wf_of_doneWith (by assumption) (seqReads_wf _ _ _ _ _ h)
      split
      · trivial
      · exact wf_of_doneWith (by assumption) (ih _ h1)

theorem load_wf {s : State} (h : s.mem.wf = true) (p : Nat) (fs : List (Nat × Nat)) (bad : List Nat) : (s.load p fs bad).mem.wf = true := by
  unfold State.load
  dsimp only
  split
  · split
    · exact illegalLaunch_wf h _ _
    · exact h
  · split
    · exact illegalLaunch_wf h _ _
    · exact install_wf h _ _

theorem execImageFetch_wf {s : State} (h : s.mem.wf = true) (p : Nat) : KeepsNext (execImageFetch p s) := by
  unfold execImageFetch
  dsimp only
  split
  · exact h
  · split
    · exact seqFail_wf h _ _ _
    · exact raiseSeq_wf h _ _
    · exact h
    · exact load_wf (wf_of_doneWith (by assumption) (fetchFrames_wf _ _ _ _ h)) _ _ _

theorem takeSeed_wf {s : State} (h : s.mem.wf = true) (c : Nat) : (s.takeSeed c).mem.wf = true := by
  unfold State.takeSeed
  dsimp only
  split
  · exact h
  · split
    · exact setCtx_wf h _ _
    · exact h

theorem startUnit_wf {s : State} (h : s.mem.wf = true) (p u : Nat) : (s.startUnit p u).mem.wf = true := by
  unfold State.startUnit
  dsimp only
  split
  · exact setTern_wf (setMt_wf (by exact full_tdrop_wf (l1DropAll_wf h _ _ _) _ _) _ _) _ _
  · exact setTern_wf (setMt_wf (by exact full_tdrop_wf (wipe_wf (l1DropAll_wf h _ _ _) _) _ _) _ _) _ _

theorem examineUnit_wf {s : State} (h : s.mem.wf = true) (u : Nat) : (s.examineUnit u).mem.wf = true := by
  unfold State.examineUnit
  exact states_wf (fun _ _ ht => examine_wf ht _ _ _) _ h

theorem armAll_wf {s : State} (h : s.mem.wf = true) (p : Nat) (rec : BitVec 512) : (s.armAll p rec).mem.wf = true := by
  unfold State.armAll
  dsimp only
  exact states_wf (fun _ _ ht => ite_wf ht (arm_wf ht _ _ _)) _ h

theorem endEmpty_wf {s : State} (h : s.mem.wf = true) (p : Nat) : (s.endEmpty p).mem.wf = true := by
  unfold State.endEmpty
  dsimp only
  split
  · exact formeDrained_wf h _
  · exact h

theorem start_wf {s : State} (h : s.mem.wf = true) (p : Nat) : (s.start p).mem.wf = true := by
  unfold State.start
  exact endEmpty_wf (armAll_wf (setPart_wf (states_wf (fun _ _ ht => examineUnit_wf ht _) _ (mapSlots_wf (states_wf
      (fun _ _ ht => startUnit_wf ht _ _) _ (takeSeed_wf h _)) _)) _ _) _ _) _

theorem execStartToken_wf {s : State} (h : s.mem.wf = true) (p : Nat) : KeepsNext (execStartToken p s) := by
  unfold execStartToken
  dsimp only
  split
  · exact start_wf h _
  · exact h

theorem grantQueue_wf {s : State} (h : s.mem.wf = true) (p f n : Nat) : (s.grantQueue p f n).mem.wf = true := by
  unfold State.grantQueue
  exact setPart_wf (markGranted_wf (setLq_wf (hvDrop_wf h _ _ _ _) _ _ _) _ _) _ _

theorem execArbiterGrant_wf {s : State} (h : s.mem.wf = true) (p : Nat) : KeepsNext (execArbiterGrant p s) := by
  unfold execArbiterGrant
  split
  · exact raiseSeq_wf h _ _
  · split
    · exact h
    · split
      · exact h
      · exact grantQueue_wf h _ _ _

theorem preemptPart_wf {s : State} (h : s.mem.wf = true) (p : Nat) : (s.preemptPart p).mem.wf = true := by
  unfold State.preemptPart
  dsimp only
  split
  · exact requestPreempt_wf h _
  · exact yieldPart_wf (dropForme_wf h _) _ _ _
  · exact yieldPart_wf h _ _ _

theorem execPreemptRequest_wf {s : State} (h : s.mem.wf = true) (p : Nat) : KeepsNext (execPreemptRequest p s) := by
  unfold execPreemptRequest
  split
  · exact preemptPart_wf h _
  · exact h

theorem execSliceExpiry_wf {s : State} (h : s.mem.wf = true) (p : Nat) : KeepsNext (execSliceExpiry p s) := by
  unfold execSliceExpiry
  dsimp only
  split
  · exact preemptPart_wf h _
  · exact h

theorem complWrite_wf {s : State} (h : s.mem.wf = true) (p cmpl word : Nat) : (s.complWrite p cmpl word).mem.wf = true := by
  unfold State.complWrite
  dsimp only
  split
  · split
    · exact h
    · exact emit_wf (hvDrop_wf h _ _ _ _) _ _
    · exact wf_of_doneWith (by assumption) (hvTake_wf h _ _ _)
  · split
    · exact emit_wf h _ _
    · have h1 := wf_of_doneWith (by assumption) (translate_wf h _ _ _)
      split
      · exact emit_wf h _ _
      · split
        · exact emit_wf h _ _
        · exact note_wf (woPut_wf h1 _ _) _

theorem clearSlot_wf {s : State} (h : s.mem.wf = true) (p va : Nat) : (s.clearSlot p va).mem.wf = true := by
  unfold State.clearSlot
  dsimp only
  split
  · exact h
  · split
    · exact h
    · have h1 := wf_of_doneWith (by assumption) (translate_wf h _ _ _)
      exact applyClears_wf (clears_wf h1 _) _

theorem execImpositionComplete_wf {s : State} (h : s.mem.wf = true) (p : Nat) : KeepsNext (execImpositionComplete p s) := by
  unfold execImpositionComplete
  dsimp only
  split
  · exact h
  · split
    · exact setPart_wf h _ _
    · split
      · exact h
      · split
        · exact setPart_wf (setLq_wf (clearSlot_wf h _ _) _ _ _) _ _
        · exact setPart_wf (setLq_wf (clearSlot_wf (complWrite_wf h _ _ _) _ _) _ _ _) _ _

theorem execGrantRecompute_wf {s : State} (h : s.mem.wf = true) (p : Nat) : KeepsNext (execGrantRecompute p s) := by
  unfold execGrantRecompute
  dsimp only
  split
  · exact setPart_wf (by exact h) _ _
  · exact h

theorem writePcap_wf {s : State} (h : s.mem.wf = true) (v : Dword) : (s.writePcap v).mem.wf = true := by
  unfold State.writePcap
  exact h

theorem execPcapWrite_wf {s : State} (h : s.mem.wf = true) (v : Dword) : KeepsNext (execPcapWrite v s) := by
  unfold execPcapWrite
  exact hosted_wf h (writePcap_wf h _)

end Sys2Proof.Memory
end

section
/-! O60: atomics, saves and restores, faults, the clock, the registers, the host's accesses, the caches and the links between
packages keep the canonical form of memory. -/

namespace Sys2Proof.Memory

open Sys2Proof Sys2Proof.Machine Sys2Proof.Claims Sys2Proof.Laws

theorem atomSp_wf {s : State} (h : s.mem.wf = true) (u off w : Nat) (ea : Dword) (f : Nat → Option Nat) :
    KeepsWith (s.atomSp u off w ea f) := by
  unfold State.atomSp
  dsimp only
  split
  · exact memError_wf h _
  · split
    · exact spPut_wf h _ _ _
    · exact h

theorem atomMu_wf {s : State} (h : s.mem.wf = true) (pa w : Nat) (ea : Dword) (f : Nat → Option Nat) : KeepsWith (s.atomMu pa w ea f) := by
  unfold State.atomMu
  dsimp only
  split
  · exact memError_wf (by exact l2Fill_wf (l1Drop_wf h _ _ _) _ _) _
  · exact homeRewrite_wf (l2Fill_wf (l1Drop_wf h _ _ _) _ _) _ _ _ _

theorem atomOp_wf {s : State} (h : s.mem.wf = true) (dflt : Nat) (f : AtomFn) (o : Ops) : Keeps (atomOp dflt f o s) := by
  unfold atomOp
  refine memory_wf h _ (fun g t ht => ?_)
  dsimp only
  split
  · exact wf_of_stopWith (by assumption) (locate_wf ht _ _ _ _ _ _)
  · have h1 := wf_of_okWith (by assumption) (locate_wf ht _ _ _ _ _ _)
    split
    · exact wf_of_stopWith (by assumption) (atomSp_wf h1 _ _ _ _ _)
    · exact done_wf (wf_of_okWith (by assumption) (atomSp_wf h1 _ _ _ _ _)) _ _ _ _
  · have h1 := wf_of_okWith (by assumption) (locate_wf ht _ _ _ _ _ _)
    split
    · exact wf_of_stopWith (by assumption) (atomMu_wf h1 _ _ _ _)
    · exact done_wf (wf_of_okWith (by assumption) (atomMu_wf h1 _ _ _ _)) _ _ _ _
  · have h1 := wf_of_okWith (by assumption) (locate_wf ht _ _ _ _ _ _)
    exact awaitRemote_wf _ h1 _ _ _ _ _ _ _ _

theorem locatePair_wf {s : State} (h : s.mem.wf = true) (p q : Dword) : KeepsWith (s.locatePair p q) := by
  unfold State.locatePair
  split
  · exact h
  · have h1 := wf_of_doneWith (by assumption) (translate_wf h _ _ _)
    split
    · exact h1
    · have h2 := wf_of_doneWith (by assumption) (translate_wf h1 _ _ _)
      split <;> exact h2

theorem pairAligned_wf {s : State} (h : s.mem.wf = true) (p q : Dword) (w : Nat) : KeepsStop (pairAligned s p q w) := by
  unfold pairAligned
  split
  · exact h
  · split
    · exact h
    · trivial

theorem pairStep_wf {s : State} (h : s.mem.wf = true) (p q : Nat) (w : Nat) (ep eq : Dword) (f : Nat → Nat → Option (Nat × Nat)) : KeepsWith
    (s.pairStep p q w ep eq f) := by
  unfold State.pairStep
  dsimp only
  split
  · exact memError_wf (by exact l2Fill_wf (l2Fill_wf (l1Drop_wf (l1Drop_wf h _ _ _) _ _ _) _ _) _ _) _
  · split
    · exact memError_wf (by exact l2Fill_wf (l2Fill_wf (l1Drop_wf (l1Drop_wf h _ _ _) _ _ _) _ _) _ _) _
    · split
      · exact homePut_wf (homePut_wf (l2Fill_wf (l2Fill_wf (l1Drop_wf (l1Drop_wf h _ _ _) _ _ _) _ _) _ _) _ _ _) _ _ _
      · exact l2Fill_wf (l2Fill_wf (l1Drop_wf (l1Drop_wf h _ _ _) _ _ _) _ _) _ _

theorem donePair_wf {s : State} (h : s.mem.wf = true) (o : Ops) (ty op oq : Nat) : (s.donePair o ty op oq).mem.wf = true := by
  unfold State.donePair
  exact h

theorem pairOp_wf {s : State} (h : s.mem.wf = true) (n : Nat) (f : Nat → List Nat → Nat → Nat → Option (Nat × Nat)) (o : Ops) :
    Keeps (pairOp n f o s) := by
  unfold pairOp
  refine memory_wf h _ (fun g t ht => ?_)
  dsimp only
  split
  · exact wf_of_halted (by assumption) (pairAligned_wf ht _ _ _)
  · split
    · exact awaitRemote_wf _ ht _ _ _ _ _ _ _ _
    · exact awaitRemote_wf _ ht _ _ _ _ _ _ _ _
    · split
      · exact wf_of_errorWith (by assumption) (locatePair_wf ht _ _)
      · have h1 := wf_of_okWith (by assumption) (locatePair_wf ht _ _)
        split
        · exact wf_of_errorWith (by assumption) (pairStep_wf h1 _ _ _ _ _ _)
        · exact donePair_wf (wf_of_okWith (by assumption) (pairStep_wf h1 _ _ _ _ _ _)) _ _ _ _

theorem pairRun_wf {s : State} (h : s.mem.wf = true) (n : Nat) (f : Nat → List Nat → Nat → Nat → Option (Nat × Nat)) (o : Ops) : Keeps
    (pairRun n f o s) := by
  unfold pairRun
  split
  · exact pairOp_wf h _ _ _
  · split <;> exact h

theorem deliverAll_wf (e : End) (n : Nat) {s : State} (h : s.mem.wf = true) : (s.deliverAll e n).mem.wf = true := by
  induction n generalizing s with
  | zero => exact h
  | succ n ih =>
    rw [State.deliverAll]
    split
    · exact h
    · split
      · exact ih (deliver_wf h _ _ _ _ _)
      · exact setOut_wf h _ _
      · exact h

theorem settle_wf {s : State} (h : s.mem.wf = true) (p : Nat) : (s.settle p).mem.wf = true := by
  unfold State.settle
  exact states_wf (fun _ _ ht => deliverAll_wf _ _ ht) _ h

theorem landAll_wf {s : State} (h : s.mem.wf = true) (p : Nat) : (s.landAll p).mem.wf = true := by
  unfold State.landAll
  refine states_wf (fun t x ht => ?_) _ ?_
  · split
    · split
      · exact ht
      · exact finishWait_wf ht _ _ _
    · exact ht
  · exact h

theorem withdrawAll_wf {s : State} (h : s.mem.wf = true) (p : Nat) : (s.withdrawAll p).mem.wf = true := by
  unfold State.withdrawAll
  exact mapSlots_wf (states_wf (fun _ _ ht => withdraw_wf ht _) _ h) _

theorem halted_wf {s : State} (h : s.mem.wf = true) (p : Nat) : (s.halted p).mem.wf = true := by
  have ht := withdrawAll_wf (landAll_wf (settle_wf h p) p) p
  unfold State.halted
  dsimp only
  exact l1DropUnits_wf ht _ _ _

theorem unitBlock_wf {s : State} (h : s.mem.wf = true) (p k u : Nat) : (s.unitBlock p k u).2.mem.wf = true := privateBytes_wf h 2048

theorem writeUnit_wf {s : State} (h : s.mem.wf = true) (p k u : Nat) : (s.writeUnit p k u).mem.wf = true := by
  unfold State.writeUnit
  exact foldl_wf _ (fun _ _ ht => physPut_wf ht _ _) _ (physPut_wf (privateBytes_wf (unitBlock_wf h _ _ _) _) _ _)

theorem writeSmall_wf {s : State} (h : s.mem.wf = true) (p units i : Nat) : (s.writeSmall p units i).mem.wf = true := by
  unfold State.writeSmall
  exact physPut_wf (privateBytes_wf h _) _ _

theorem writePlane_wf {s : State} (h : s.mem.wf = true) (p units i : Nat) : (s.writePlane p units i).mem.wf = true := by
  unfold State.writePlane
  exact physPut_wf (privateBytes_wf h _) _ _

theorem writeSave_wf {s : State} (h : s.mem.wf = true) (p : Nat) : (s.writeSave p).mem.wf = true := by
  unfold State.writeSave
  exact states_wf (fun _ _ ht => writePlane_wf ht _ _ _) _ (states_wf (fun _ _ ht => writeSmall_wf ht _ _ _) _ (states_wf
      (fun _ _ ht => writeUnit_wf ht _ _ _) _ h))

theorem forceSave_wf {s : State} (h : s.mem.wf = true) (p : Nat) : (s.forceSave p).mem.wf = true := by
  unfold State.forceSave
  exact yieldPart_wf (dropForme_wf (by exact clears_wf (writeSave_wf (halted_wf h _) _) _) _) _ _ _

theorem execDrainLimitExpiry_wf {s : State} (h : s.mem.wf = true) (p : Nat) : KeepsNext (execDrainLimitExpiry p s) := by
  unfold execDrainLimitExpiry
  dsimp only
  split
  · exact forceSave_wf h _
  · exact h

theorem flags_wf {β : Type} (f : β → Nat) (xs : List β) {t : Tbl Bool} (h : twf false t = true) :
    twf false (xs.foldl (fun t w => tput false t (f w) true) t) = true := twf_foldl _ (fun _ _ ht => twf_tput ht _ _) _ _ h

/-- The tables of a unit's scratchpad and flags rewritten. -/
theorem unitTables_wf {m : Mem} (h : m.wf = true) (sram : List (Nat × Byte)) (full bad : List Nat) (a b lo hi : Nat) :
    ({ m with sram := sram.foldl (fun t x => tput 0 t (spAddr a x.1) x.2) m.sram
              full := full.foldl (fun t w => tput false t (b + w) true) (tdrop m.full lo hi)
              badWord := bad.foldl (fun t w => tput false t (b + w) true) m.badWord } : Mem).wf = true := by
  obtain ⟨h1, h2, h3, h4, h5, h6⟩ := (wf_iff m).1 h
  exact (wf_iff _).2 ⟨h1, twf_foldl _ (fun _ _ ht => twf_tput ht _ _) _ _ h2, h3, flags_wf _ _ (twf_tdrop h4 _ _), h5, flags_wf _ _ h6⟩

theorem restoreUnit_wf {s : State} (h : s.mem.wf = true) (p : Nat) (x : UnitSave) : (s.restoreUnit p x).mem.wf = true :=
  unitTables_wf (wipe_wf (l1DropAll_wf h _ _ _) _) _ _ _ _ _ _ _

theorem takeUnit_wf {s : State} (h : s.mem.wf = true) (p u : Nat) : (s.takeUnit p u).mem.wf = true := by
  unfold State.takeUnit
  split
  · exact h
  · exact startUnit_wf h _ _

theorem restoreForme_wf {s : State} (h : s.mem.wf = true) (p : Nat) (snap : Snap) : (s.restoreForme p snap).mem.wf = true := by
  unfold State.restoreForme
  dsimp only
  rw [setPart_mem]
  refine clears_wf (m := State.mem (List.foldl _ (List.foldl _ (List.foldl _ (List.foldl _ s _) _) _) _))
    (states_wf (fun t x ht => ?edges) _ (states_wf (fun t x ht => ?islands) _ (states_wf (fun t x ht => ?units) _
      (states_wf (fun t x ht => ?taken) _ h)))) _
  case taken => exact takeUnit_wf ht _ _
  case units => exact restoreUnit_wf ht _ _
  case islands =>
    split
    · exact setIsl_wf ht _ _
    · exact ht
  case edges =>
    split
    · exact setEdge_wf ht _ _
    · exact ht

theorem execContextRestore_wf {s : State} (h : s.mem.wf = true) (p : Nat) : KeepsNext (execContextRestore p s) := by
  unfold execContextRestore
  dsimp only
  split
  · exact h
  · split
    · exact h
    · split
      · exact raiseSeq_wf h _ _
      · exact restoreForme_wf h _ _

theorem frbase_wf {s : State} (h : s.mem.wf = true) (p : Nat) (v : Dword) : (s.frbase p v).mem.wf = true := by
  unfold State.frbase
  exact mapSlots_wf (setPart_wf (by exact rebase_wf h _ _) _ _) _

theorem execFrbaseWrite_wf {s : State} (h : s.mem.wf = true) (p : Nat) (v : Dword) : KeepsNext (execFrbaseWrite p v s) := by
  unfold execFrbaseWrite
  exact hosted_wf h (frbase_wf h _ _)

theorem frtail_wf {s : State} (h : s.mem.wf = true) (p : Nat) (v : Dword) : (s.frtail p v).mem.wf = true := by
  unfold State.frtail
  exact setPart_wf (by exact reclaim_wf _ h _) _ _

theorem execFrtailWrite_wf {s : State} (h : s.mem.wf = true) (p : Nat) (v : Dword) : KeepsNext (execFrtailWrite p v s) := by
  unfold execFrtailWrite
  exact hosted_wf h (frtail_wf h _ _)

theorem flagSaved_wf {s : State} (h : s.mem.wf = true) (p : Nat) (z : Snap) (seq : Word) : (s.flagSaved p z seq).mem.wf = true := by
  unfold State.flagSaved
  exact foldl_wf _ (fun _ _ ht => setFlg_wf ht _ _) _ h

theorem resumeSnap_wf {s : State} (h : s.mem.wf = true) (p : Nat) (z : Snap) (seq : Word) : (s.resumeSnap p z seq).1.mem.wf = true := by
  unfold State.resumeSnap
  split
  · exact flagSaved_wf h _ _ _
  · exact h

theorem resumeKept_wf {s : State} (h : s.mem.wf = true) (p : Nat) (seq : Word) : (s.resumeKept p seq).mem.wf = true := by
  unfold State.resumeKept
  dsimp only
  refine states_wf (fun t x ht => ?_) _ ?_
  · split
    · exact ht
    · split
      · exact ht
      · split
        · exact ht
        · exact resumeSnap_wf ht _ _ _
  · exact h

theorem fresume_wf {s : State} (h : s.mem.wf = true) (p : Nat) (v : Dword) : (s.fresume p v).mem.wf = true := by
  unfold State.fresume
  dsimp only
  split
  · exact resumeKept_wf (resumeTask_wf h _ _) _ _
  · exact setPart_wf (resumeSnap_wf (resumeKept_wf (resumeTask_wf h _ _) _ _) _ _ _) _ _

theorem execFresumeWrite_wf {s : State} (h : s.mem.wf = true) (p : Nat) (v : Dword) : KeepsNext (execFresumeWrite p v s) := by
  unfold execFresumeWrite
  exact hosted_wf h (fresume_wf h _ _)

theorem setRwin_wf {s : State} (h : s.mem.wf = true) (w : Nat) (x : RedWin) : (s.setRwin w x).mem.wf = true := by
  unfold State.setRwin
  exact h

theorem endRound_wf {s : State} (h : s.mem.wf = true) (w status : Nat) : (s.endRound w status).mem.wf = true := by
  unfold State.endRound
  dsimp only
  split
  · exact setRwin_wf h _ _
  · have h1 := wf_of_doneWith (by assumption) (translate_wf (setRwin_wf h _ _) _ _ _)
    split
    · exact h1
    · exact woPut_wf h1 _ _

theorem abortPeers_wf {s : State} (h : s.mem.wf = true) (cs : List Nat) : (s.abortPeers cs).mem.wf = true := by
  unfold State.abortPeers
  refine states_wf (fun t x ht => ?_) _ ?_
  · split
    · exact endRound_wf ht _ _
    · exact ht
  · exact h

theorem returnQueue_wf {s : State} (h : s.mem.wf = true) (f n : Nat) : (s.returnQueue f n).mem.wf = true := by
  unfold State.returnQueue
  exact setLq_wf (states_wf (fun _ _ ht => clearSlot_wf ht _ _) _ h) _ _ _

theorem resetFn_wf {s : State} (h : s.mem.wf = true) (f : Nat) : (s.resetFn f).mem.wf = true := by
  unfold State.resetFn
  dsimp only
  refine abortPeers_wf ?_ _
  refine foldl_wf _ (fun _ _ hm => dropCtx_wf hm _) _ ?_
  refine states_wf (fun t n ht => returnQueue_wf ht _ _) _ ?_
  refine states_wf (fun t q ht => setPart_wf (stopPart_wf ht _) _ _) _ ?_
  exact foldl_wf _ (fun _ _ hm => dropCtx_wf hm _) _ h

theorem execVfReset_wf {s : State} (h : s.mem.wf = true) (f : Nat) : KeepsNext (execVfReset f s) := by
  unfold execVfReset
  exact hosted_wf h (resetFn_wf h _)

theorem setUnitSt_wf {s : State} (h : s.mem.wf = true) (u : Nat) (x : UnitSt) : (s.setUnitSt u x).mem.wf = true := by
  unfold State.setUnitSt
  exact h

theorem evict_wf {s : State} (h : s.mem.wf = true) (p : Nat) : (s.evict p).mem.wf = true := by
  unfold State.evict
  split
  · exact forceSave_wf h _
  · exact preemptPart_wf h _
  · exact h

theorem fence_wf {s : State} (h : s.mem.wf = true) (u : Nat) : (s.fence u).mem.wf = true := by
  unfold State.fence
  dsimp only
  split
  · exact setUnitSt_wf (by exact emitDev_wf h _) _ _
  · split
    · exact setUnitSt_wf (by exact setPart_wf (evict_wf (emit_wf (emitDev_wf h _) _ _) _) _ _) _ _
    · exact setUnitSt_wf (by exact setPart_wf (emit_wf (emitDev_wf h _) _ _) _ _) _ _

theorem badWords_wf {m : Mem} (h : m.wf = true) (a : Nat) (ws : List Nat) :
    ({ m with badWord := ws.foldl (fun t w => tput false t (a + w) true) m.badWord } : Mem).wf = true := by
  obtain ⟨h1, h2, h3, h4, h5, h6⟩ := (wf_iff m).1 h
  exact (wf_iff _).2 ⟨h1, h2, h3, h4, h5, flags_wf _ _ h6⟩

theorem unitError_wf {s : State} (h : s.mem.wf = true) (u : Nat) (words : List Nat) : (s.unitError u words).mem.wf = true := by
  unfold State.unitError
  dsimp only
  split
  · refine fence_wf (emitDev_wf (badWords_wf ?_ _ _) _) _
    exact h
  · refine emitDev_wf (badWords_wf ?_ _ _) _
    exact h

theorem execUnitError_wf {s : State} (h : s.mem.wf = true) (u : Nat) (words : List Nat) : KeepsNext (execUnitError u words s) := by
  unfold execUnitError
  exact unitError_wf h _ _

theorem unfence_wf {s : State} (h : s.mem.wf = true) (v : Dword) : (s.unfence v).mem.wf = true := by
  unfold State.unfence
  dsimp only
  split
  · exact setUnitSt_wf h _ _
  · exact h

theorem execUnfenceWrite_wf {s : State} (h : s.mem.wf = true) (v : Dword) : KeepsNext (execUnfenceWrite v s) := by
  unfold execUnfenceWrite
  exact hosted_wf h (unfence_wf h _)

theorem setLog_wf {s : State} {r : Mem × FRing} (hr : r.1.wf = true) : (s.setLog r).mem.wf = true := hr

theorem dlbase_wf {s : State} (h : s.mem.wf = true) (v : Dword) : (s.dlbase v).mem.wf = true := by
  unfold State.dlbase
  exact setLog_wf (rebase_wf h _ _)

theorem execDlbaseWrite_wf {s : State} (h : s.mem.wf = true) (v : Dword) : KeepsNext (execDlbaseWrite v s) := by
  unfold execDlbaseWrite
  exact hosted_wf h (dlbase_wf h _)

theorem dltail_wf {s : State} (h : s.mem.wf = true) (v : Dword) : (s.dltail v).mem.wf = true := by
  unfold State.dltail
  exact setLog_wf (reclaim_wf _ h _)

theorem execDltailWrite_wf {s : State} (h : s.mem.wf = true) (v : Dword) : KeepsNext (execDltailWrite v s) := by
  unfold execDltailWrite
  exact hosted_wf h (dltail_wf h _)

theorem refuseTime_wf {s : State} (h : s.mem.wf = true) : (s.refuseTime).mem.wf = true := by
  unfold State.refuseTime
  exact h

theorem relock_wf {s : State} (h : s.mem.wf = true) (moved : Bool) : (s.relock moved).mem.wf = true := by
  unfold State.relock
  exact h

theorem timeset_wf {s : State} (h : s.mem.wf = true) (v : Dword) : (s.timeset v).mem.wf = true := by
  unfold State.timeset
  split
  · exact refuseTime_wf h
  · exact relock_wf (by exact h) _

theorem execTimesetWrite_wf {s : State} (h : s.mem.wf = true) (v : Dword) : KeepsNext (execTimesetWrite v s) := by
  unfold execTimesetWrite
  exact hosted_wf h (timeset_wf h _)

theorem tepoch_wf {s : State} (h : s.mem.wf = true) (v : Dword) (src : Option Nat) : (s.tepoch v src).mem.wf = true := by
  unfold State.tepoch
  dsimp only
  split
  · exact refuseTime_wf h
  · exact relock_wf (by exact h) _

theorem execTepochWrite_wf {s : State} (h : s.mem.wf = true) (v : Dword) (tai : Option Nat) : KeepsNext (execTepochWrite v tai s) := by
  unfold execTepochWrite
  exact hosted_wf h (tepoch_wf h _ _)

theorem execTimerSaturate_wf {s : State} (h : s.mem.wf = true) : KeepsNext (execTimerSaturate s) := by
  unfold execTimerSaturate
  dsimp only
  split <;> exact h

theorem tick_wf {s : State} (h : s.mem.wf = true) : (s.tick).mem.wf = true := by
  unfold State.tick
  exact states_wf (fun _ _ ht => chargeNj_wf ht _ _) _ (postAll_wf h)

theorem execStaticEnergyTick_wf {s : State} (h : s.mem.wf = true) : KeepsNext (execStaticEnergyTick s) := by
  unfold execStaticEnergyTick
  exact tick_wf h

theorem pkgWrite_wf {s : State} (h : s.mem.wf = true) (o v : Nat) : (s.pkgWrite o v).mem.wf = true := by
  unfold State.pkgWrite
  dsimp only
  split
  · exact writePcap_wf h _
  · exact h
  · exact timeset_wf h _
  · exact tlbinv_wf h _
  · exact h
  · exact unfence_wf h _
  · exact h
  · exact h
  · exact tepoch_wf h _ _
  · exact dlbase_wf h _
  · split <;> exact h
  · exact dltail_wf h _
  · exact h

theorem ctxfn_wf {s : State} (h : s.mem.wf = true) (c : Nat) (v : Dword) : (s.ctxfn c v).mem.wf = true := by
  unfold State.ctxfn
  dsimp only
  split
  · exact h
  · exact setCtx_wf h _ _

theorem heapWrite_wf {s : State} (h : s.mem.wf = true) (c : Nat) (f : Ctx → Ctx) : (s.heapWrite c f).mem.wf = true := by
  unfold State.heapWrite
  exact setCtx_wf h _ _

theorem ctxWrite_wf {s : State} (h : s.mem.wf = true) (c k v : Nat) : (s.ctxWrite c k v).mem.wf = true := by
  unfold State.ctxWrite
  dsimp only
  split
  · exact setCtx_wf h _ _
  · exact heapWrite_wf h _ _
  · exact heapWrite_wf h _ _
  · exact heapWrite_wf h _ _
  · exact heapWrite_wf h _ _
  · exact setCtx_wf h _ _
  · exact setCtx_wf h _ _
  · exact ctxfn_wf h _ _
  · exact h

theorem prtWrite_wf {s : State} (h : s.mem.wf = true) (m k v : Nat) : (s.prtWrite m k v).mem.wf = true := by
  unfold State.prtWrite
  dsimp only
  split
  · split
    · exact h
    · exact setPart_wf h _ _
  · exact frbase_wf h _ _
  · split
    · exact setPart_wf h _ _
    · exact h
  · exact frtail_wf h _ _
  · exact setPart_wf h _ _
  · exact fresume_wf h _ _
  · exact setPart_wf h _ _
  · exact setPart_wf h _ _
  · exact setPart_wf h _ _
  · exact setPart_wf h _ _
  · split
    · exact setPart_wf h _ _
    · exact h
  · exact setPart_wf h _ _
  · split
    · exact setPart_wf h _ _
    · exact h
  · split
    · exact h
    · exact setPart_wf h _ _
  · exact h

theorem placeWrite_wf {s : State} (h : s.mem.wf = true) (m i k v : Nat) : (s.placeWrite m i k v).mem.wf = true := by
  unfold State.placeWrite
  dsimp only
  split
  · exact h
  · exact setPart_wf h _ _

theorem prtunit_wf {s : State} (h : s.mem.wf = true) (m j : Nat) (v : Dword) : (s.prtunit m j v).mem.wf = true := by
  unfold State.prtunit
  dsimp only
  split
  · exact h
  · exact setPart_wf h _ _

theorem vfwin_wf {s : State} (h : s.mem.wf = true) (f v : Nat) : (s.vfwin f v).mem.wf = true := by
  unfold State.vfwin
  dsimp only
  split <;> exact h

theorem regWrite_wf {s : State} (h : s.mem.wf = true) (r : Reg) (v : Nat) : (s.regWrite r v).mem.wf = true := by
  unfold State.regWrite
  dsimp only
  split
  · exact pkgWrite_wf h _ _
  · exact h
  · exact h
  · exact h
  · exact setRwin_wf h _ _
  · exact h
  · exact setMt_wf h _ _
  · exact ctxWrite_wf h _ _ _
  · exact setCtx_wf h _ _
  · exact prtWrite_wf h _ _ _
  · exact placeWrite_wf h _ _ _ _
  · exact prtunit_wf h _ _ _
  · exact setLq_wf h _ _ _
  · exact h
  · exact vfwin_wf h _ _

theorem execRegisterWrite_wf {s : State} (h : s.mem.wf = true) (f off width : Nat) (v : Dword) :
    KeepsNext (execRegisterWrite f off width v s) := by
  unfold execRegisterWrite
  split
  · exact h
  · split
    · exact h
    · split
      · exact h
      · exact regWrite_wf h _ _

theorem execCtxfnWrite_wf {s : State} (h : s.mem.wf = true) (c : Nat) (v : Dword) : KeepsNext (execCtxfnWrite c v s) := by
  unfold execCtxfnWrite
  exact hosted_wf h (ctxfn_wf h _ _)

theorem execPrtunitWrite_wf {s : State} (h : s.mem.wf = true) (p j : Nat) (v : Dword) : KeepsNext (execPrtunitWrite p j v s) := by
  unfold execPrtunitWrite
  exact hosted_wf h (prtunit_wf h _ _ _)

theorem execLqresvRead_wf {s : State} (h : s.mem.wf = true) (f q width : Nat) : KeepsNext (execLqresvRead f q width s) := by
  unfold execLqresvRead
  dsimp only
  split <;> exact h

theorem hostDrop_wf {s : State} (h : s.mem.wf = true) (ctx va : Nat) (f : Flt) : (s.hostDrop ctx va f).mem.wf = true := by
  unfold State.hostDrop
  split
  · exact h
  · exact emit_wf h _ _

theorem hostFailed_wf {s : State} (h : s.mem.wf = true) (ctx va : Nat) (e : EErr) : (s.hostFailed ctx va e).mem.wf = true := by
  unfold State.hostFailed
  split
  · split
    · exact hostDrop_wf h _ _ _
    · exact h
  · exact h

theorem hostPut_wf {s : State} (h : s.mem.wf = true) (ctx va : Nat) (bs : List Byte) : (s.hostPut ctx va bs).mem.wf = true := by
  unfold State.hostPut
  split
  · exact wf_of_done (by assumption) (engPut_wf h _ _ _ _ _)
  · exact hostFailed_wf (hvDrop_wf h _ _ _ _) _ _ _

theorem hostPhys_wf {s : State} (h : s.mem.wf = true) (pa : Nat) (bs : List Byte) : (s.hostPhys pa bs).mem.wf = true := by
  unfold State.hostPhys
  split
  · exact h
  · exact homePut_wf h _ _ _

theorem putPieces_wf {put : State → Nat → List Byte → State} (hput : ∀ s a bs, s.mem.wf = true → (put s a bs).mem.wf = true)
    (ps : List (Nat × Nat)) (bs : List Byte) {s : State} (h : s.mem.wf = true) : (putPieces put ps bs s).mem.wf = true := by
  induction ps generalizing s bs with
  | nil => exact h
  | cons p ps ih => exact ih _ (hput _ _ _ h)

theorem execHostBar2Write_wf {s : State} (h : s.mem.wf = true) (f off : Nat) (data : List Byte) :
    KeepsNext (execHostBar2Write f off data s) := by
  unfold execHostBar2Write
  split
  · exact h
  · split
    · exact putPieces_wf (fun _ _ _ ht => hostPhys_wf ht _ _) _ _ h
    · exact charge_wf (putPieces_wf (fun _ _ _ ht => hostPut_wf ht _ _ _) _ _ h) _ _ _

theorem hostGet_wf {s : State} (h : s.mem.wf = true) (ctx va n : Nat) : (s.hostGet ctx va n).1.mem.wf = true := by
  unfold State.hostGet
  split
  · exact hvDrop_wf h _ _ _ _
  · exact wf_of_doneWith (by assumption) (engGet_wf h _ _ _ _)

theorem getPieces_wf (ctx : Nat) (ps : List (Nat × Nat)) {s : State} (h : s.mem.wf = true) : (getPieces ctx ps s).1.mem.wf = true := by
  induction ps generalizing s with
  | nil => exact h
  | cons p ps ih =>
    rw [getPieces]
    split
    · exact wf_of_fst (by assumption) (hostGet_wf h _ _ _)
    · have h1 := wf_of_fst (by assumption) (hostGet_wf h _ _ _)
      split <;> exact wf_of_fst (by assumption) (ih h1)

theorem barRead_wf {s : State} (h : s.mem.wf = true) (f off n : Nat) : (s.barRead f off n).1.mem.wf = true := by
  unfold State.barRead
  dsimp only
  split
  · exact h
  · exact charge_wf (getPieces_wf _ _ h) _ _ _

theorem execHostBar2Read_wf {s : State} (h : s.mem.wf = true) (f off n : Nat) : KeepsNext (execHostBar2Read f off n s) := by
  unfold execHostBar2Read
  dsimp only
  split
  · exact h
  · exact barRead_wf h _ _ _

/-- A state that a function may find with a value, or not. -/
@[reducible] def KeepsHint {α : Type} : Option (State × α) → Prop
  | some t => t.1.mem.wf = true
  | none => True

theorem hintPlace_wf {s : State} (h : s.mem.wf = true) (ea : Dword) : KeepsHint (s.hintPlace ea) := by
  unfold State.hintPlace
  split
  · exact wf_of_okWith (by assumption) (locateVa_wf h _ _ _ _)
  · split
    · have h1 := wf_of_okWith (by assumption) (locateVa_wf h _ _ _ _)
      split
      · exact h1
      · trivial
    · trivial

theorem bind_keepsSome {α : Type} {r : Option (State × α)} {f : State × α → Option State} (hr : KeepsHint r)
    (hf : ∀ t, t.1.mem.wf = true → KeepsSome (f t)) : KeepsSome (r.bind f) := by
  cases r with
  | some t => exact hf t hr
  | none => trivial

theorem prefetch_wf {s : State} (h : s.mem.wf = true) (l2 : Bool) (pa : Nat) : KeepsSome (s.prefetch l2 pa) := by
  unfold State.prefetch
  dsimp only
  split
  · exact l2Fill_wf h _ _
  · split
    · trivial
    · exact l1Settle_wf (by exact l1Fill_wf h _ _ _) _ _

theorem pftOp_wf {s : State} (h : s.mem.wf = true) (o : Ops) : Keeps (pftOp o s) := by
  unfold pftOp
  refine memory_wf h _ (fun g t ht => ?_)
  have hp := bind_keepsSome (hintPlace_wf ht (eaOf o g)) (fun r hr => prefetch_wf hr (o.f.getLsbD 0) r.2)
  dsimp only
  split
  · exact done_wf (wf_of_some (by assumption) hp) _ _ _ _
  · exact done_wf ht _ _ _ _

theorem cacheOp_wf {s : State} (h : s.mem.wf = true) (drop : Bool) (o : Ops) : Keeps (cacheOp drop o s) := by
  unfold cacheOp
  refine memory_wf h _ (fun g t ht => ?_)
  dsimp only
  split
  · exact wf_of_stopWith (by assumption) (locateVa_wf ht _ _ _ _)
  · have h1 := wf_of_okWith (by assumption) (locateVa_wf ht _ _ _ _)
    split
    · exact done_wf (by exact h1) _ _ _ _
    · split
      · exact done_wf (by exact l1Drop_wf h1 _ _ _) _ _ _ _
      · exact done_wf (by exact l1Clean_wf h1 _ _ _) _ _ _ _
  · exact done_wf (wf_of_okWith (by assumption) (locateVa_wf ht _ _ _ _)) _ _ _ _

theorem fenceOp_wf {s : State} (h : s.mem.wf = true) (o : Ops) : Keeps (fenceOp o s) := by
  unfold fenceOp
  dsimp only
  split
  · exact h
  · split
    · exact done_wf (by exact h) _ _ _ _
    · exact done_wf (by exact l1DropAll_wf h _ _ _) _ _ _ _

theorem counterAt_wf {s : State} (h : s.mem.wf = true) (a : Dword) (n : Nat) : KeepsStop (s.counterAt a n) := by
  unfold State.counterAt
  split
  · exact wf_of_halt (by assumption) (aligned_wf h _ _)
  · split
    · exact h
    · split
      · trivial
      · exact h

theorem fullLoad_wf {s : State} (h : s.mem.wf = true) (clear : Bool) (o : Ops) : Keeps (fullLoad clear o s) := by
  unfold fullLoad
  refine memory_wf h _ (fun g t ht => ?_)
  dsimp only
  split
  · exact wf_of_halt (by assumption) (aligned_wf ht _ _)
  · split
    · exact wf_of_halt (by assumption) (locateSp_wf ht _ _)
    · split
      · split
        · exact wf_of_halt (by assumption) (spRead_wf ht _ _ _ _)
        · split
          · exact done_wf (by exact tagChange_wf ht _ _) _ _ _ _
          · exact done_wf (by exact ht) _ _ _ _
      · exact await_wf _ ht _ _ _ _ _ _ _

theorem emptyStore_wf {s : State} (h : s.mem.wf = true) (o : Ops) : Keeps (emptyStore o s) := by
  unfold emptyStore
  refine memory_wf h _ (fun g t ht => ?_)
  dsimp only
  split
  · exact wf_of_halt (by assumption) (aligned_wf ht _ _)
  · split
    · exact wf_of_halt (by assumption) (locateSp_wf ht _ _)
    · split
      · exact done_wf (by exact tagChange_wf (spPut_wf ht _ _ _) _ _) _ _ _ _
      · exact await_wf _ ht _ _ _ _ _ _ _

theorem feSet_wf {s : State} (h : s.mem.wf = true) (o : Ops) : Keeps (feSet o s) := by
  unfold feSet
  refine memory_wf h _ (fun g t ht => ?_)
  dsimp only
  split
  · exact wf_of_halt (by assumption) (aligned_wf ht _ _)
  · split
    · exact wf_of_halt (by assumption) (locateSp_wf ht _ _)
    · exact done_wf (by exact tagChange_wf ht _ _) _ _ _ _

theorem feTest_wf {s : State} (h : s.mem.wf = true) (o : Ops) : Keeps (feTest o s) := by
  unfold feTest
  refine memory_wf h _ (fun g t ht => ?_)
  dsimp only
  split
  · exact wf_of_halt (by assumption) (aligned_wf ht _ _)
  · split
    · exact wf_of_halt (by assumption) (locateSp_wf ht _ _)
    · exact done_wf ht _ _ _ _

theorem remoteReply_wf {s : State} (h : s.mem.wf = true) (c : Coord) (vs : List Dword) : (s.remoteReply c vs).mem.wf = true := by
  unfold State.remoteReply
  exact waits_wf h _

theorem remoteFault_wf {s : State} (h : s.mem.wf = true) (c : Coord) (code : Nat) (addr info : Dword) :
    (s.remoteFault c code addr info).mem.wf = true := by
  unfold State.remoteFault
  split
  · exact raiseAt_wf h _ _
  · exact h

theorem engAnswer_wf {s : State} (h : s.mem.wf = true) (r : HvReply) : (s.engAnswer r).mem.wf = true := by
  unfold State.engAnswer
  dsimp only
  split
  · exact serveRegions_wf (by exact h) _
  · exact h

theorem answered_wf {s : State} (h : s.mem.wf = true) (x : HvAnswer) : (s.answered x).mem.wf = true := by
  unfold State.answered
  exact h

theorem answerFlt_wf {s : State} (h : s.mem.wf = true) (f : Flt) : (s.answerFlt f).mem.wf = true := by
  unfold State.answerFlt
  exact answered_wf h _

theorem redWrite_wf {s : State} (h : s.mem.wf = true) (w g : Nat) (v : Dword) : (s.redWrite w g v).mem.wf = true := by
  unfold State.redWrite
  dsimp only
  split
  · exact h
  · have h1 := wf_of_doneWith (by assumption) (translate_wf h _ _ _)
    split
    · exact h1
    · split
      · split
        · exact h1
        · exact note_wf (woPut_wf h1 _ _) _
      · exact note_wf (homePut_wf h1 _ _ _) _

theorem redFault_wf {s : State} (h : s.mem.wf = true) (pkg ctx : Nat) (va : Nat) : (s.redFault pkg ctx va).mem.wf = true := by
  unfold State.redFault
  split
  · exact answerFlt_wf h _
  · split
    · exact remoteFault_wf h _ _ _ _
    · split
      · exact h
      · exact stopPart_wf (emit_wf h _ _) _

theorem redMerge_wf {s : State} (h : s.mem.wf = true) (w g : Nat) : (s.redMerge w g).mem.wf = true := by
  unfold State.redMerge
  dsimp only
  split
  · exact h
  · split
    · exact endRound_wf (setRwin_wf (by exact redWrite_wf h _ _ _) _ _) _ _
    · exact setRwin_wf (by exact redWrite_wf h _ _ _) _ _

theorem contribute_wf {s : State} (h : s.mem.wf = true) (w pkg ctx off : Nat) (data : List Byte) :
    (s.contribute w pkg ctx off data).mem.wf = true := by
  unfold State.contribute
  dsimp only
  split
  · exact redFault_wf h _ _ _
  · exact answered_wf (redMerge_wf (setRwin_wf h _ _) _ _) _

theorem execReductionContribution_wf {s : State} (h : s.mem.wf = true) (w pkg ctx off : Nat) (sent : Contribution) : KeepsNext
    (execReductionContribution w pkg ctx off sent s) := by
  unfold execReductionContribution
  dsimp only
  split
  · exact h
  · split
    · split
      · exact endRound_wf h _ _
      · exact h
    · exact contribute_wf h _ _ _ _ _

theorem inbound_wf {s : State} (h : s.mem.wf = true) (ctx : Nat) (va : Dword) (n : Nat) (kind : PageKind) (r w : Bool) : KeepsOkWith
    (s.inbound ctx va n kind r w) := by
  unfold State.inbound
  split
  · trivial
  · split
    · trivial
    · have h1 := wf_of_doneWith (by assumption) (translate_wf h _ _ _)
      split
      · trivial
      · exact h1

theorem homeRead_wf {s : State} (h : s.mem.wf = true) (ctx pa : Nat) : (s.homeRead ctx pa).mem.wf = true := by
  unfold State.homeRead
  exact homeLook_wf h _ _

theorem inLoad_wf {s : State} (h : s.mem.wf = true) (ctx : Nat) (va : Dword) (n : Nat) (once : Bool) :
    (s.inLoad ctx va n once).mem.wf = true := by
  unfold State.inLoad
  dsimp only
  split
  · exact answerFlt_wf h _
  · have h1 := wf_of_doneWith (by assumption) (inbound_wf h _ _ _ _ _ _)
    split
    · exact h
    · split
      · exact answerFlt_wf (homeRead_wf h1 _ _) _
      · exact answered_wf (homeRead_wf h1 _ _) _

theorem inTest_wf {s : State} (h : s.mem.wf = true) (ctx : Nat) (va : Dword) : (s.inTest ctx va).mem.wf = true := by
  unfold State.inTest
  split
  · exact answerFlt_wf h _
  · exact answered_wf (wf_of_doneWith (by assumption) (inbound_wf h _ _ _ _ _ _)) _

theorem inStore_wf {s : State} (h : s.mem.wf = true) (pkg src ctx : Nat) (va : Dword) (bs : List Byte) (once : Bool) :
    (s.inStore pkg src ctx va bs once).mem.wf = true := by
  unfold State.inStore
  split
  · exact contribute_wf h _ _ _ _ _
  · split
    · exact answerFlt_wf h _
    · have h1 := wf_of_doneWith (by assumption) (inbound_wf h _ _ _ _ _ _)
      split
      · split
        · exact answerFlt_wf h _
        · split
          · exact answerFlt_wf h1 _
          · exact answered_wf (by exact note_wf (woPut_wf h1 _ _) _) _
      · exact answered_wf (by exact note_wf (homePut_wf h1 _ _ _) _) _

theorem inAtomic_wf {s : State} (h : s.mem.wf = true) (ctx : Nat) (va : Dword) (op : BitVec 8) (t : BitVec 6) (sat : Bool) (b c : Dword) :
    (s.inAtomic ctx va op t sat b c).mem.wf = true := by
  unfold State.inAtomic
  dsimp only
  split
  · exact h
  · split
    · exact answerFlt_wf h _
    · have h1 := wf_of_doneWith (by assumption) (inbound_wf h _ _ _ _ _ _)
      split
      · exact answerFlt_wf (homeRead_wf h1 _ _) _
      · exact answered_wf (by exact homeRewrite_wf (homeRead_wf h1 _ _) _ _ _ _) _

theorem inDouble_wf {s : State} (h : s.mem.wf = true) (ctx : Nat) (p q : Dword) (op : BitVec 8) (t : BitVec 6) (cs : List Dword) :
    (s.inDouble ctx p q op t cs).mem.wf = true := by
  unfold State.inDouble
  dsimp only
  split
  · exact h
  · split
    · exact answerFlt_wf h _
    · split
      · exact answerFlt_wf h _
      · have h1 := wf_of_okWith (by assumption) (translateAll_wf h _ _ _)
        split
        · split
          · exact answerFlt_wf h _
          · split
            · exact answerFlt_wf (homeRead_wf (homeRead_wf h1 _ _) _ _) _
            · split
              · exact answerFlt_wf (homeRead_wf (homeRead_wf h1 _ _) _ _) _
              · split
                · exact answered_wf (by exact homePut_wf (homePut_wf (homeRead_wf (homeRead_wf h1 _ _) _ _) _ _ _) _ _ _) _
                · exact answered_wf (by exact homeRead_wf (homeRead_wf h1 _ _) _ _) _
        · exact h

theorem inEngRead_wf {s : State} (h : s.mem.wf = true) (ctx : Nat) (va : Dword) (n : Nat) : (s.inEngRead ctx va n).mem.wf = true := by
  unfold State.inEngRead
  split
  · exact answerFlt_wf h _
  · exact h
  · have h1 := wf_of_doneWith (by assumption) (homeGet_wf h _ _ _ _)
    split
    · exact answerFlt_wf h1 _
    · exact answered_wf h1 _

theorem inEngWrite_wf {s : State} (h : s.mem.wf = true) (pkg src ctx : Nat) (va : Dword) (bs : List Byte) :
    (s.inEngWrite pkg src ctx va bs).mem.wf = true := by
  unfold State.inEngWrite
  split
  · exact contribute_wf h _ _ _ _ _
  · split
    · exact answerFlt_wf h _
    · exact h
    · exact answered_wf (wf_of_done (by assumption) (homeSet_wf h _ _ _ _ _)) _

theorem remote_wf {s : State} (h : s.mem.wf = true) (a : RemoteAccess) : (s.remote a).mem.wf = true := by
  unfold State.remote
  split
  · exact remoteReply_wf h _ _
  · exact remoteFault_wf h _ _ _ _
  · exact engAnswer_wf h _
  · exact engAnswer_wf h _
  · exact inLoad_wf h _ _ _ _
  · exact inTest_wf h _ _
  · exact inStore_wf h _ _ _ _ _ _
  · exact inAtomic_wf h _ _ _ _ _ _ _
  · exact inDouble_wf h _ _ _ _ _ _
  · exact inEngRead_wf h _ _ _
  · exact inEngWrite_wf h _ _ _ _ _

theorem execHolvorRemoteAccess_wf {s : State} (h : s.mem.wf = true) (a : LinkAccess) : KeepsNext (execHolvorRemoteAccess a s) := by
  unfold execHolvorRemoteAccess
  split
  · exact remote_wf h _
  · exact h

theorem execHolvorLinkState_wf {s : State} (h : s.mem.wf = true) (n : Nat) (up train : Bool) :
    KeepsNext (execHolvorLinkState n up train s) := by
  unfold execHolvorLinkState
  exact h

theorem execTimeSyncLock_wf {s : State} (h : s.mem.wf = true) (n : Nat) (ofs : BitVec 16) (steady : Bool) (peer : TimePeer) : KeepsNext
    (execTimeSyncLock n ofs steady peer s) := by
  unfold execTimeSyncLock
  dsimp only
  split <;> exact h

theorem execBoot_wf {s : State} (h : s.mem.wf = true) (x : BootFinding) : KeepsNext (execBoot x s) := by
  unfold execBoot
  dsimp only
  split
  · exact h
  · by_cases h0 : s.sys.stage = 0
    · simp only [h0, if_true]
      exact ite_wf (by exact h) h
    · simp only [h0, if_false]
      exact ite_wf (by exact reset_wf) (by exact reset_wf)

theorem execAttestationQuote_wf {s : State} (h : s.mem.wf = true) (nonce : List Byte) : KeepsNext (execAttestationQuote nonce s) := by
  unfold execAttestationQuote
  dsimp only
  split
  · exact h
  · split <;> exact h

theorem execThermalTick_wf {s : State} (h : s.mem.wf = true) (temps : List Nat) (tenth : Bool) :
    KeepsNext (execThermalTick temps tenth s) := by
  unfold execThermalTick
  exact h

theorem execThermalTrip_wf {s : State} (h : s.mem.wf = true) : KeepsNext (execThermalTrip s) := by
  unfold execThermalTrip
  dsimp only
  split
  · exact h
  · exact states_wf (fun _ _ ht => stopPart_wf (emitDev_wf ht _) _) _ h

theorem loadOp_wf {s : State} (h : s.mem.wf = true) (o : Ops) : Keeps (loadOp o s) := by
  unfold loadOp
  refine memory_wf h _ (fun g t ht => ?_)
  dsimp only
  split
  · exact wf_of_stopWith (by assumption) (locate_wf ht _ _ _ _ _ _)
  · have h1 := wf_of_okWith (by assumption) (locate_wf ht _ _ _ _ _ _)
    split
    · exact wf_of_halt (by assumption) (spRead_wf h1 _ _ _ _)
    · exact done_wf h1 _ _ _ _
  · have h1 := wf_of_okWith (by assumption) (locate_wf ht _ _ _ _ _ _)
    split
    · exact wf_of_stopWith (by assumption) (muRead_wf h1 _ _ _)
    · exact done_wf (wf_of_okWith (by assumption) (muRead_wf h1 _ _ _)) _ _ _ _
  · have h1 := wf_of_okWith (by assumption) (locate_wf ht _ _ _ _ _ _)
    exact awaitRemote_wf _ h1 _ _ _ _ _ _ _ _

theorem storeOp_wf {s : State} (h : s.mem.wf = true) (o : Ops) : Keeps (storeOp o s) := by
  unfold storeOp
  refine memory_wf h _ (fun g t ht => ?_)
  dsimp only
  split
  · exact wf_of_stopWith (by assumption) (locate_wf ht _ _ _ _ _ _)
  · have h1 := wf_of_okWith (by assumption) (locate_wf ht _ _ _ _ _ _)
    split
    · exact wf_of_stop (by assumption) (spWrite_wf h1 _ _ _ _)
    · exact done_wf (wf_of_ok (by assumption) (spWrite_wf h1 _ _ _ _)) _ _ _ _
  · have h1 := wf_of_okWith (by assumption) (locate_wf ht _ _ _ _ _ _)
    exact done_wf (muWrite_wf h1 _ _) _ _ _ _
  · have h1 := wf_of_okWith (by assumption) (locate_wf ht _ _ _ _ _ _)
    exact awaitRemote_wf _ h1 _ _ _ _ _ _ _ _

end Sys2Proof.Memory
end

section
/-! O60: every instruction and every step keeps the canonical form of memory. -/

namespace Sys2Proof.Memory

open Sys2Proof Sys2Proof.Machine Sys2Proof.Claims Sys2Proof.Laws

theorem execVrhint_wf {s : State} (h : s.mem.wf = true) (o : Ops) : KeepsNext (execVrhint o s) := by
  unfold execVrhint
  refine run_wf h (fun _ => ?_)
  dsimp only
  split
  · exact vrhint_wf h _
  · exact h

theorem execChuck_wf {s : State} (h : s.mem.wf = true) (o : Ops) : KeepsNext (execChuck o s) := by
  unfold execChuck
  exact run_wf h (fun _ => sendBlock_wf h _ _)

theorem execMswap_wf {s : State} (h : s.mem.wf = true) (o : Ops) : KeepsNext (execMswap o s) := by
  unfold execMswap
  exact run_wf h (fun _ => memory_wf h _ (fun _ _ ht => done_wf ht _ _ _ _))

theorem execMfeed_wf {s : State} (h : s.mem.wf = true) (o : Ops) : KeepsNext (execMfeed o s) := by
  unfold execMfeed
  exact run_wf h (fun _ => sendBlock_wf h _ _)

theorem execMdraw_wf {s : State} (h : s.mem.wf = true) (o : Ops) : KeepsNext (execMdraw o s) := by
  unfold execMdraw
  exact run_wf h (fun _ => sendBlock_wf h _ _)

theorem execMzero_wf {s : State} (h : s.mem.wf = true) (o : Ops) : KeepsNext (execMzero o s) := by
  unfold execMzero
  refine run_wf h (fun _ => ?_)
  refine memory_wf h _ (fun g t ht => ?_)
  split
  · exact ht
  · exact done_wf ht _ _ _ _

theorem execDqput_wf {s : State} (h : s.mem.wf = true) (o : Ops) : KeepsNext (execDqput o s) := by
  unfold execDqput
  exact run_wf h (fun _ => groupRun_wf h _ _ _ (fun _ => dqputOp_wf h _))

theorem execDqget_wf {s : State} (h : s.mem.wf = true) (o : Ops) : KeepsNext (execDqget o s) := by
  unfold execDqget
  exact run_wf h (fun _ => groupRun_wf h _ _ _ (fun _ => dqgetOp_wf h _))

theorem execDqcon_wf {s : State} (h : s.mem.wf = true) (o : Ops) : KeepsNext (execDqcon o s) := by
  unfold execDqcon
  refine run_wf h (fun _ => ?_)
  refine onRegion_wf h _ _ (fun g t r ht => ?_)
  exact dqconStep_wf ht _

theorem execDqfrn_wf {s : State} (h : s.mem.wf = true) (o : Ops) : KeepsNext (execDqfrn o s) := by
  unfold execDqfrn
  refine run_wf h (fun _ => ?_)
  refine onRegion_wf h _ _ (fun g t r ht => ?_)
  exact dqfrnStep_wf ht _ _ _

theorem execDqqsc_wf {s : State} (h : s.mem.wf = true) (o : Ops) : KeepsNext (execDqqsc o s) := by
  unfold execDqqsc
  refine run_wf h (fun _ => ?_)
  refine onRegion_wf h _ _ (fun g t r ht => ?_)
  exact dqqscStep_wf ht _ _

theorem execIxget_wf {s : State} (h : s.mem.wf = true) (o : Ops) : KeepsNext (execIxget o s) := by
  unfold execIxget
  refine run_wf h (fun _ => ?_)
  refine onRegion_wf h _ _ (fun g t r ht => ?_)
  exact ixgetStep_wf ht _ _

theorem execIxupd_wf {s : State} (h : s.mem.wf = true) (o : Ops) : KeepsNext (execIxupd o s) := by
  unfold execIxupd
  exact run_wf h (fun _ => groupRun_wf h _ _ _ (fun _ => ixupdOp_wf h _))

theorem execIxitr_wf {s : State} (h : s.mem.wf = true) (o : Ops) : KeepsNext (execIxitr o s) := by
  unfold execIxitr
  refine run_wf h (fun _ => ?_)
  refine groupRun_wf h _ _ _ (fun _ => ?_)
  refine onRegion_wf h _ _ (fun g t r ht => ?_)
  exact ixitrStep_wf ht _ _

theorem execIxclr_wf {s : State} (h : s.mem.wf = true) (o : Ops) : KeepsNext (execIxclr o s) := by
  unfold execIxclr
  refine run_wf h (fun _ => ?_)
  refine reaching_wf h _ (fun g t ht => ?_)
  split
  · exact wf_of_halt (by assumption) (anyRegion_wf ht _)
  · exact regionEnd_wf ht _ (ixclrStep_wf ht _)

theorem execSyswr_wf {s : State} (h : s.mem.wf = true) (o : Ops) : KeepsNext (execSyswr o s) := by
  unfold execSyswr
  refine run_wf h (fun _ => ?_)
  split
  · exact wf_of_stopSnd (by assumption) (operands_wf h _)
  · have h1 := wf_of_okSnd (by assumption) (operands_wf h _)
    split
    · exact done_wf (setSeed_wf h1 _) _ _ _ _
    · exact done_wf (by exact h1) _ _ _ _

theorem execRqrat_wf {s : State} (h : s.mem.wf = true) (o : Ops) : KeepsNext (execRqrat o s) := by
  unfold execRqrat
  exact run_wf h (fun _ => answer_wf h _ (fun _ _ ht => rqrat_wf ht _))

theorem execDrq_wf {s : State} (h : s.mem.wf = true) (o : Ops) : KeepsNext (execDrq o s) := by
  unfold execDrq
  exact run_wf h (fun _ => answer_wf h _ (fun _ _ ht => drq_wf ht _))

theorem execQpri_wf {s : State} (h : s.mem.wf = true) (o : Ops) : KeepsNext (execQpri o s) := by
  unfold execQpri
  exact run_wf h (fun _ => answer_wf h _ (fun _ _ ht => qpri_wf ht _ _))

theorem execCbinc_wf {s : State} (h : s.mem.wf = true) (o : Ops) : KeepsNext (execCbinc o s) := by
  unfold execCbinc
  refine run_wf h (fun _ => ?_)
  refine memory_wf h _ (fun g t ht => ?_)
  split
  · exact wf_of_halt (by assumption) (counterAt_wf ht _ _)
  · exact done_wf (setMt_wf ht _ _) _ _ _ _

theorem execCbincLong_wf {s : State} (h : s.mem.wf = true) (o : Ops) : KeepsNext (execCbincLong o s) := by
  unfold execCbincLong
  refine run_wf h (fun _ => ?_)
  refine memory_wf h _ (fun g t ht => ?_)
  split
  · exact wf_of_halt (by assumption) (counterAt_wf ht _ _)
  · exact done_wf (setMt_wf ht _ _) _ _ _ _

theorem putFull_wf {m : Mem} (h : m.wf = true) (u off : Nat) (vs : List Word) : (m.putFull u off vs).wf = true := by
  induction vs generalizing m off with
  | nil => exact h
  | cons v vs ih => exact ih (tagChange_wf (spPut_wf h _ _ _) _ _) _

theorem execCbsnap_wf {s : State} (h : s.mem.wf = true) (o : Ops) : KeepsNext (execCbsnap o s) := by
  unfold execCbsnap
  refine run_wf h (fun _ => memory_wf h _ (fun g t ht => ?_))
  dsimp only
  split
  · exact wf_of_halt (by assumption) (aligned_wf ht _ _)
  · exact wf_of_halt (by assumption) (aligned_wf ht _ _)
  · split
    · exact wf_of_halt (by assumption) (counterAt_wf ht _ _)
    · split
      · exact wf_of_halt (by assumption) (locateSp_wf ht _ _)
      · exact done_wf (by exact putFull_wf (setMt_wf ht _ _) _ _ _) _ _ _ _

/-! ### The arms of `exec` -/

theorem execNop_wf {s : State} (h : s.mem.wf = true) (o : Ops) : KeepsNext (execNop o s) := runSlot_wf h _ _
theorem execWait_wf {s : State} (h : s.mem.wf = true) (o : Ops) : KeepsNext (execWait o s) := runSlot_wf h _ _
theorem execBr_wf {s : State} (h : s.mem.wf = true) (o : Ops) : KeepsNext (execBr o s) := runSlot_wf h _ _
theorem execBmk_wf {s : State} (h : s.mem.wf = true) (o : Ops) : KeepsNext (execBmk o s) := runSlot_wf h _ _
theorem execMkr_wf {s : State} (h : s.mem.wf = true) (o : Ops) : KeepsNext (execMkr o s) := runSlot_wf h _ _

theorem exec_wf {s : State} (h : s.mem.wf = true) (i : Instr) : KeepsNext (exec i s) := by
  cases i with
  | nop o => exact execNop_wf h _
  | halt o | bz o | bnz o | blt o | bge o | call o | ret o | loopi o | loopr o | trap o | movlHi o | bfi o | peek o | drop o | fwd o
  | mkt o | steer o | steerLong o | merge o | racc o | raccLong o | rwset o | sysrd o | time o | enrd o | pdec o | penc o | perm o
  | rdrat o => exact runSlot_wf h _ _
  | wait o => exact execWait_wf h _
  | br o => exact execBr_wf h _
  | bmk o => exact execBmk_wf h _
  | add o | addLong o | addi o | addiLong o | sub o | subLong o | mul o | mulLong o | mulh o | mulhLong o | div o | divLong o | rem o
  | remLong o | and o | andLong o | or o | orLong o | xor o | xorLong o | xori o | xoriLong o | shl o | shlLong o | shr o | shrLong o
  | sar o | sarLong o | rot o | rotLong o | clz o | clzLong o | popc o | popcLong o | min o | minLong o | max o | maxLong o | abs o
  | absLong o | neg o | negLong o | cmp o | cmpLong o | movi o | moviLong o | movl o | lea o | bfx o | fadd o | faddLong o | fsub o
  | fsubLong o | fmul o | fmulLong o | fma o | fmin o | fminLong o | fmax o | fmaxLong o | fabs o | fabsLong o | fneg o | fnegLong o
  | fcmp o | fcmpLong o | fclass o | fclassLong o | fcvt o | fcvtLong o | icvt o | icvtLong o | frcp o | frcpLong o | frsq o | frsqLong o
  | fsqrt o | fsqrtLong o | fex2 o | fex2Long o | flg2 o | flg2Long o | fsinp o | fsinpLong o | fcosp o | fcospLong o | ftnh o | ftnhLong o
  | segr o | segrLong o | mvclp o | drift o | drchk o => exact alu_wf h _ _ _
  | mkr o => exact execMkr_wf h _
  | vrhint o => exact execVrhint_wf h _
  | syswr o => exact execSyswr_wf h _
  | ld o | ldImm o | ldLong o => exact run_wf h (fun h => loadOp_wf h _)
  | st o | stLong o => exact run_wf h (fun h => storeOp_wf h _)
  | ldw o | ldwLong o | ldc o | ldcLong o => exact run_wf h (fun h => fullLoad_wf h _ _)
  | ste o | steLong o => exact run_wf h (fun h => emptyStore_wf h _)
  | feset o | fesetLong o => exact run_wf h (fun h => feSet_wf h _)
  | fetest o | fetestLong o => exact run_wf h (fun h => feTest_wf h _)
  | ldp o | ldpImm o | ldpLong o => exact run_wf h (fun h => ldpOp_wf h _)
  | sto o | stoLong o => exact run_wf h (fun h => stoOp_wf h _)
  | ptest o | ptestImm o | ptestLong o => exact run_wf h (fun h => ptestOp_wf h _)
  | pclr o => exact run_wf h (fun h => pclrOp_wf h _)
  | pft o | pftImm o | pftLong o => exact run_wf h (fun h => pftOp_wf h _)
  | clwb o | clwbImm o | clwbLong o | clinv o | clinvImm o | clinvLong o => exact run_wf h (fun h => cacheOp_wf h _ _)
  | fence o => exact run_wf h (fun h => fenceOp_wf h _)
  | aadd o | aaddLong o | aand o | aandLong o | aor o | aorLong o | axor o | axorLong o | amin o | aminLong o | amax o | amaxLong o
  | axchg o | axchgLong o | acas o | afadd o | afaddLong o => exact run_wf h (fun h => atomOp_wf h _ _ _)
  | dcas o | amov2 o => exact run_wf h (fun h => pairRun_wf h _ _ _)
  | cbinc o => exact execCbinc_wf h _
  | cbincLong o => exact execCbincLong_wf h _
  | cbsnap o => exact execCbsnap_wf h _
  | cpy o => exact run_wf h (fun h => cpyOp_wf h _)
  | rsacq o => exact run_wf h (fun h => rsacqOp_wf h _)
  | rspub o => exact run_wf h (fun h => rspubOp_wf h _)
  | rstake o => exact run_wf h (fun h => rstakeOp_wf h _)
  | rsrel o => exact run_wf h (fun h => rsrelOp_wf h _)
  | fbopn o | smopn o => exact run_wf h (fun h => fbopnOp_wf h _)
  | fbadv o | smadv o => exact run_wf h (fun h => fbadvOp_wf h _)
  | fbend o | smend o => exact run_wf h (fun h => fbendOp_wf h _)
  | fbcls o | smcls o => exact run_wf h (fun h => fbclsOp_wf h _)
  | fbpos o => exact run_wf h (fun h => fbposOp_wf h _)
  | fbval o => exact run_wf h (fun h => fbvalOp_wf h _)
  | fbsek o => exact run_wf h (fun h => fbsekOp_wf h _)
  | fbisx o => exact run_wf h (fun h => fbisxOp_wf h _)
  | nzscan o => exact run_wf h (fun h => nzscanOp_wf h _)
  | gath o | scat o | scata o => exact run_wf h (fun h => gatherOp_wf h _)
  | pgsel o => exact run_wf h (fun h => pgselOp_wf h _)
  | kvapp o => exact run_wf h (fun h => kvappOp_wf h _)
  | kvld o => exact run_wf h (fun h => kvldOp_wf h _)
  | sxcfg o => exact run_wf h (fun h => sxcfgOp_wf h _)
  | sxstat o => exact run_wf h (fun h => sxstatOp_wf h _)
  | sxfeed o => exact run_wf h (fun h => sxfeedOp_wf h _)
  | sxfrm o => exact run_wf h (fun h => sxfrmOp_wf h _)
  | blkopn o => exact run_wf h (fun h => blkopnOp_wf h _)
  | fwarp o => exact run_wf h (fun h => fwarpOp_wf h _)
  | rfmark o => exact run_wf h (fun h => rfmarkOp_wf h _)
  | chuck o => exact execChuck_wf h _
  | mswap o => exact execMswap_wf h _
  | mfeed o => exact execMfeed_wf h _
  | mdraw o => exact execMdraw_wf h _
  | mzero o => exact execMzero_wf h _
  | tchuck o => exact run_wf h (fun h => tchuckOp_wf h _)
  | tfeed o | tfeedLong o => exact run_wf h (fun h => tfeedOp_wf h _)
  | tdraw o => exact run_wf h (fun h => tdrawOp_wf h _)
  | dqput o => exact execDqput_wf h _
  | dqget o => exact execDqget_wf h _
  | dqcon o => exact execDqcon_wf h _
  | dqfrn o => exact execDqfrn_wf h _
  | dqqsc o => exact execDqqsc_wf h _
  | ixget o => exact execIxget_wf h _
  | ixupd o => exact execIxupd_wf h _
  | ixitr o => exact execIxitr_wf h _
  | ixclr o => exact execIxclr_wf h _
  | ixspl o => exact run_wf h (fun h => ixsplOp_wf h _)
  | launch o => exact run_wf h (fun h => launchOp_wf h _)
  | gsarm o => exact run_wf h (fun h => gsarmOp_wf h _)
  | rqrat o => exact execRqrat_wf h _
  | evtake o => exact run_wf h (fun h => evtakeOp_wf h _)
  | drq o => exact execDrq_wf h _
  | qpri o => exact execQpri_wf h _
  | islandChuck a => exact execIslandChuck_wf h _
  | islandMswap a => exact execIslandMswap_wf h _
  | islandMfeed a => exact execIslandMfeed_wf h _
  | islandMfeedTransposed a => exact execIslandMfeedTransposed_wf h _
  | islandMdraw a => exact execIslandMdraw_wf h _
  | islandMzero a => exact execIslandMzero_wf h _
  | islandArmedTile a => exact execIslandArmedTile_wf h _
  | recordRead a => exact execRecordRead_wf h _
  | dependenceGranulesPresent a => exact execDependenceGranulesPresent_wf h _
  | imageFetch a => exact execImageFetch_wf h _
  | startToken a => exact execStartToken_wf h _
  | taskFire a => exact execTaskFire_wf h _
  | registerFill a b => exact execRegisterFill_wf h _ _
  | linkTokenArrival a => exact execLinkTokenArrival_wf h _
  | slotFreeVisible a => exact execSlotFreeVisible_wf h _
  | elasticSample a b => exact execElasticSample_wf h _ _
  | replicaPark a b c => exact execReplicaPark_wf h _ _ _
  | elasticDeal a b => exact execElasticDeal_wf h _ _
  | elasticCollect a b => exact execElasticCollect_wf h _ _
  | sectionCountExpiry a b => exact execSectionCountExpiry_wf h _ _
  | taskDrain a => exact execTaskDrain_wf h _
  | engineDrain a => exact execEngineDrain_wf h _
  | bridgeDrain a => exact execBridgeDrain_wf h _
  | tileDrained a b => exact execTileDrained_wf h _ _
  | drainReport a b => exact execDrainReport_wf h _ _
  | preemptRequest a => exact execPreemptRequest_wf h _
  | drainLimitExpiry a => exact execDrainLimitExpiry_wf h _
  | contextRestore a => exact execContextRestore_wf h _
  | memoryAccessComplete a => exact execMemoryAccessComplete_wf h _
  | deferralRetry a => exact execDeferralRetry_wf h _
  | l1Eviction a b c => exact execL1Eviction_wf h _ _ _
  | engineCommandComplete a => exact execEngineCommandComplete_wf h _
  | pageWalk a b c => exact execPageWalk_wf h _ _ _
  | tlbinvWrite a => exact execTlbinvWrite_wf h _
  | tlbInvalidateComplete => exact execTlbInvalidateComplete_wf h
  | frbaseWrite a b => exact execFrbaseWrite_wf h _ _
  | frtailWrite a b => exact execFrtailWrite_wf h _ _
  | fresumeWrite a b => exact execFresumeWrite_wf h _ _
  | vfReset a => exact execVfReset_wf h _
  | unitError a b => exact execUnitError_wf h _ _
  | unfenceWrite a => exact execUnfenceWrite_wf h _
  | frameParse a => exact execFrameParse_wf h _
  | packetPublish a => exact execPacketPublish_wf h _
  | lqresvRead a b c => exact execLqresvRead_wf h _ _ _
  | hostBar2Write a b c => exact execHostBar2Write_wf h _ _ _
  | hostBar2Read a b c => exact execHostBar2Read_wf h _ _ _
  | arbiterGrant a => exact execArbiterGrant_wf h _
  | impositionComplete a => exact execImpositionComplete_wf h _
  | sliceExpiry a => exact execSliceExpiry_wf h _
  | grantRecompute a => exact execGrantRecompute_wf h _
  | pcapWrite a => exact execPcapWrite_wf h _
  | staticEnergyTick => exact execStaticEnergyTick_wf h
  | timerSaturate => exact execTimerSaturate_wf h
  | timesetWrite a => exact execTimesetWrite_wf h _
  | tepochWrite a b => exact execTepochWrite_wf h _ _
  | registerWrite a b c d => exact execRegisterWrite_wf h _ _ _ _
  | ctxfnWrite a b => exact execCtxfnWrite_wf h _ _
  | prtunitWrite a b c => exact execPrtunitWrite_wf h _ _ _
  | dltailWrite a => exact execDltailWrite_wf h _
  | holvorRemoteAccess a => exact execHolvorRemoteAccess_wf h _
  | reductionContribution a b c d e => exact execReductionContribution_wf h _ _ _ _ _
  | holvorLinkState a b c => exact execHolvorLinkState_wf h _ _ _
  | timeSyncLock a b c d => exact execTimeSyncLock_wf h _ _ _ _
  | boot a => exact execBoot_wf h _
  | attestationQuote a => exact execAttestationQuote_wf h _
  | thermalTick a b => exact execThermalTick_wf h _ _
  | thermalTrip => exact execThermalTrip_wf h
  | dlbaseWrite a => exact execDlbaseWrite_wf h _

/-! ### Turns and steps (R40, log entry 1) -/

theorem readied_wf {s : State} (h : s.mem.wf = true) (c : Coord) : (s.readied c).mem.wf = true := by
  unfold State.readied
  dsimp only
  split
  · exact issuing_wf h c
  · exact issuing_wf h c

theorem noted_wf {s : State} (h : s.mem.wf = true) (c : Coord) (i : Instr) : (s.noted c i).mem.wf = true := by
  unfold State.noted
  dsimp only
  split
  · exact updSlot_wf h _ _
  · exact h

theorem passedBy_wf {s : State} (h : s.mem.wf = true) (c : Coord) : (s.passedBy c).mem.wf = true := by
  unfold State.passedBy
  split
  · exact h
  · exact noted_wf h _ _

theorem issueSlot_wf {s : State} (h : s.mem.wf = true) (c : Coord) : KeepsNext (issueSlot s c) := by
  unfold issueSlot
  split
  · trivial
  · exact exec_wf (readied_wf h c) _

theorem issueFirst_wf {s : State} (h : s.mem.wf = true) (pe : Coord) (ns : List Nat) : KeepsNext (issueFirst s pe ns) := by
  induction ns generalizing s with
  | nil => exact h
  | cons n ns ih =>
    have hn := issueSlot_wf h (peSlot pe n)
    rw [issueFirst]
    split
    · split
      · rename_i hr
        rw [hr] at hn
        split
        · exact ih (passedBy_wf h _)
        · exact hn
      · exact hn
    · exact ih h

theorem issuePe_wf {s : State} (h : s.mem.wf = true) (pe : Coord) : KeepsNext (issuePe s pe) := issueFirst_wf h _ _

theorem settled_wf {r : Host.Outcome State Fault Refusal} (hr : KeepsNext r) : KeepsNext (settled r) := by
  cases r with
  | next t => exact settleNotes_wf hr
  | fault f => trivial
  | refused r => trivial

theorem step_wf {s : State} (h : s.mem.wf = true) : KeepsNext (step s) := by
  unfold step
  split
  · exact settled_wf (issuePe_wf h _)
  · exact settled_wf (issuePe_wf (by exact h) _)
  · exact settled_wf (exec_wf (by exact h) _)
  · exact elapse_wf (by exact h) _

/-- Settles O60: every function that a step runs through writes the six tables of memory with the operations that keep their canonical form. -/
theorem memoryStaysCanonical : Obligations.MemoryStaysCanonical := by
  intro s t h hstep
  have hs := step_wf h
  rw [hstep] at hs
  exact hs

end Sys2Proof.Memory
end


section
/-! O28: LD and ST take the fault of the first test of R265 that fails, and how a translation fails (R223, R258 to R261). -/

namespace Sys2Proof.Memory

open Sys2Proof Sys2Proof.Machine Sys2Proof.Claims Sys2Proof.Laws

variable {s t : State} {o : Ops} {g : Got} {y : Slot} {f : Flt} {ea : Dword} {w u c va : Nat} {k : PageKind} {r wr : Bool} {tr : Tr}

/-! ### The tests of an access, in their order (R265) -/

theorem locate_misaligned (hw : w ≠ 0) (ha : ea.toNat % w ≠ 0) : s.locate o ea w k r wr = .error ({ code := 0x20, addr := ea }, s) := by
  simp [State.locate, aligned, hw, ha]

theorem spRange_error {p : Nat} (h : ∀ q, spRange s p u ea w ≠ .ok q) : spRange s p u ea w = .error { code := 0x21, addr := ea } := by
  unfold spRange at h ⊢
  split
  · rfl
  · rename_i hr
    rw [hr] at h
    dsimp only at h
    split
    · rename_i hin
      rw [if_pos hin] at h
      exact absurd rfl (h _)
    · rfl

theorem locate_range (hsp : isSp o = true) (ha : ea.toNat % w = 0) (h : ∀ q, spRange s s.slot.prt s.slotUnit ea w ≠ .ok q) :
    s.locate o ea w k r wr = .error ({ code := 0x21, addr := ea }, s) := by
  simp [State.locate, aligned_ok s ha, hsp, State.locateSp, spRange_error h]

theorem locateVa_untranslated (hv : hvTarget (s.ctx s.slotCtx) ea.toNat = none)
    (h : translate s s.slotUnit s.slotCtx ea.toNat = .error f) : s.locateVa ea k r wr = .error (f, s) := by
  simp [State.locateVa, hv, h]

theorem locateVa_denied (hv : hvTarget (s.ctx s.slotCtx) ea.toNat = none)
    (h : translate s s.slotUnit s.slotCtx ea.toNat = .ok (t, tr)) (hp : permitPage tr ea.toNat k r wr = .error f) :
    s.locateVa ea k r wr = .error (f, t) := by
  simp [State.locateVa, hv, h, hp]

theorem permitPage_kind (h : tr.kind ≠ k) : permitPage tr va k r wr = .error { code := 0x22, addr := BitVec.ofNat 64 va, info := tr.pte } :=
  if_pos h

theorem permitPage_permission (hk : tr.kind = k) (h : r = true ∧ tr.r = false ∨ wr = true ∧ tr.w = false) :
    permitPage tr va k r wr = .error { code := 0x23, addr := BitVec.ofNat 64 va, info := tr.pte } := by
  refine (if_neg (not_not.2 hk)).trans (if_pos ?_)
  rcases h with ⟨rfl, h⟩ | ⟨rfl, h⟩ <;> simp [h]

/-- LD asks to read and ST to write; where its access is not located, it takes the fault of the test that fails, in the state that it
issued in but for what a translation left in memory. -/
theorem loadStore_fault {i : Instr} (hi : i ∈ [Instr.ld o, .ldImm o, .ldLong o, .st o, .stLong o]) (h : Fetches s o .z g y) :
    ∃ r wr, (r = true ∧ i ∈ [Instr.ld o, .ldImm o, .ldLong o] ∨ wr = true ∧ i ∈ [Instr.st o, .stLong o]) ∧
      ∀ f t, (behind s y).locate o (eaOf o g) (wBytes (memT o 11)) .mu r wr = .error (f, t) →
        (t = behind s y → exec i s = .next (s.raise f)) ∧
        (t = { behind s y with mem := t.mem } → ∃ m, exec i s = .next (({ s with mem := m } : State).raise f)) := by
  have hi' : i ∈ [Instr.ld o, .ldImm o, .ldLong o] ∨ i ∈ [Instr.st o, .stLong o] := List.mem_append.1 hi
  rcases hi' with hl | hs
  · refine ⟨true, false, .inl ⟨rfl, hl⟩, fun f t hloc => ?_⟩
    rw [exec_load hl]
    refine ⟨?_, run_memory_moved h (by dsimp only; rw [hloc])⟩
    rintro rfl
    exact run_memory_flt h (by dsimp only; rw [hloc])
  · refine ⟨false, true, .inr ⟨rfl, hs⟩, fun f t hloc => ?_⟩
    rw [exec_store hs]
    refine ⟨?_, run_memory_moved h (by dsimp only; rw [hloc])⟩
    rintro rfl
    exact run_memory_flt h (by dsimp only; rw [hloc])

/-! ### How a translation fails (R258) -/

theorem heapTr_beyond {x : Ctx} (h : 2 ^ 52 ≤ va) : heapTr x va = none := 
  if_neg (by rw [decide_eq_false (Nat.not_lt.2 h)]; simp)

theorem translate_beyond (h : 2 ^ 52 ≤ va) : translate s u c va = .error { code := 0x01, addr := BitVec.ofNat 64 va, info := 3 } := by
  rw [Machine.translate, heapTr_beyond h]
  exact if_pos h

theorem translate_heap_error {pa : Nat} (h : heapTr (s.ctx c) va = some pa) (hpa : 2 ^ 39 ≤ pa) :
    translate s u c va = .error { code := 0x29, addr := BitVec.ofNat 64 va } := by
  rw [Machine.translate, h]
  exact if_pos hpa

theorem find_hits_none {ts : List Tlbe} (h : ∀ e ∈ ts, e.hits c va = false) : ts.find? (fun e => e.hits c va) = none :=
  List.find?_eq_none.2 (fun e he => by simp [h e he])

theorem translate_walk_error (hva : va < 2 ^ 52) (hh : heapTr (s.ctx c) va = none)
    (hmt : ∀ e ∈ tget [] s.mem.mtTlb u, e.hits c va = false) (hdie : ∀ e ∈ tget [] s.mem.dieTlb (dieOf u), e.hits c va = false)
    (hw : walk s.mem c va 4 (s.ctx c).root = .error f) : translate s u c va = .error f := by
  rw [Machine.translate, hh]
  show translateTables s u c va = _
  rw [translateTables, if_neg (Nat.not_le.2 hva), find_hits_none hmt]
  dsimp only
  rw [find_hits_none hdie, hw]

theorem accessFaultOrder_part : Claims.AccessFaultOrder := by
  intro s o g y h ea w i hi
  obtain ⟨hu, hx⟩ := fetch_place h
  obtain ⟨r, wr, hasks, hflt⟩ := loadStore_fault hi h
  have hea : BitVec.ofNat 64 ea.toNat = ea := BitVec.ofNat_toNat .. |>.trans (BitVec.setWidth_eq _)
  have translation {f : Flt} (hsp : isSp o = false) (ha : ea.toNat % w = 0) (hv : hvTarget (s.ctx s.slotCtx) ea.toNat = none)
      (ht : translate (behind s y) (behind s y).slotUnit s.slotCtx ea.toNat = .error f) : exec i s = .next (s.raise f) :=
    (hflt _ _ (locate_va hsp ha (locateVa_untranslated (by rw [hx]; exact hv) (by rw [hx]; exact ht)))).1 rfl
  have page {f : Flt} {t : State} {tr : Tr} (hsp : isSp o = false) (ha : ea.toNat % w = 0) (hv : hvTarget (s.ctx s.slotCtx) ea.toNat = none)
      (ht : translate (behind s y) (behind s y).slotUnit s.slotCtx ea.toNat = .ok (t, tr)) (hp : permitPage tr ea.toNat .mu r wr = .error f) :
      ∃ m, exec i s = .next (({ s with mem := m } : State).raise f) :=
    (hflt _ _ (locate_va hsp ha (locateVa_denied (by rw [hx]; exact hv) (by rw [hx]; exact ht) hp))).2 (translate_frame ht).1
  refine ⟨fun hw ha => (hflt _ _ (locate_misaligned hw ha)).1 rfl, fun hsp ha hr => (hflt _ _ (locate_range hsp ha hr)).1 rfl,
    fun hsp ha t tr hv ht => ⟨fun hk => ?_, fun hk hr hw => ?_⟩, fun hsp ha hv => ⟨fun f => translation hsp ha hv, fun hb => ?_⟩⟩
  · have hm := page hsp ha hv ht (permitPage_kind hk)
    rwa [hea] at hm
  · have hm := page hsp ha hv ht (permitPage_permission hk (hasks.imp (And.imp_right hr) (And.imp_right hw)))
    rwa [hea] at hm
  · have hm := translation hsp ha hv (translate_beyond hb)
    rwa [hea] at hm

/-! ### The fields of a page-table entry (R260) -/

theorem bit_toNat (p : Dword) (i : Nat) : bit p.toNat i = p.getLsbD i := bit_eq_testBit _ _

theorem bits_toNat (p : Dword) (hi lo : Nat) : bits p.toNat hi lo = (p.extractLsb' lo (hi + 1 - lo)).toNat := by
  rw [BitVec.extractLsb'_toNat, Nat.shiftRight_eq_div_pow, bits]

theorem homeBytes_lt (m : Mem) (a : Nat) : bytesToNat (m.homeBytes a 8) < 2 ^ 64 := by
  have h := bytesToNat_take (m.homeBytes a 8) 8
  rw [List.take_of_length_le (homeBytes_length m a 8).le] at h
  rw [h]
  exact Nat.mod_lt _ (by norm_num)

/-- The number that eight bytes of a table hold is that of the entry. -/
theorem homeBytes_entry (m : Mem) (a : Nat) : bytesToNat (m.homeBytes a 8) = (BitVec.ofNat 64 (bytesToNat (m.homeBytes a 8))).toNat := by
  rw [BitVec.toNat_ofNat, Nat.mod_eq_of_lt (homeBytes_lt m a)]

/-- An entry of a table at a level that breaks a rule of R261. -/
def PteBroken (level : Nat) (p : Dword) : Prop :=
  let leaf := p.getLsbD 6
  let kind := p.extractLsb' 2 2
  let addr := (p.extractLsb' 12 40).toNat * 2 ^ 12
  let size := 2 ^ (16 + 9 * level)
  p.extractLsb' 52 8 ≠ 0 ∨ p.extractLsb' 8 4 ≠ 0 ∨ p.getLsbD 1 = true ∨ kind = 3 ∨ (level = 0 ∧ leaf = false) ∨
    (level = 3 ∧ leaf = true) ∨ (leaf = false ∧ (p.getLsbD 7 = true ∨ p.getLsbD 5 = true ∨ p.getLsbD 4 = true ∨ kind ≠ 0)) ∨
    (leaf = true ∧ kind ≠ 2 ∧ (addr % size ≠ 0 ∨ 2 ^ 39 < addr + size)) ∨ (leaf = false ∧ 2 ^ 39 ≤ addr)

theorem pteBad_iff (level : Nat) (p : Dword) : pteBad level p.toNat = true ↔ PteBroken level p := by
  unfold pteBad PteBroken pageBits
  simp only [bit_toNat, bits_toNat, Bool.or_eq_true, Bool.and_eq_true, bne_iff_ne, beq_iff_eq, Bool.not_eq_true', decide_eq_true_eq,
    or_assoc, ne_eq, ← BitVec.toNat_inj, Nat.reduceAdd, Nat.reduceSub, Nat.reducePow, and_assoc]
  rfl

theorem pteKind_eq {p : Dword} (h3 : p.extractLsb' 2 2 ≠ 3) :
    (pteKind p.toNat = .far ↔ p.extractLsb' 2 2 = 2) ∧
    (p.extractLsb' 2 2 ≠ 2 → pteKind p.toNat = if p.extractLsb' 2 2 = 0 then .mu else .wo) := by
  have hb : bits p.toNat 3 2 = (p.extractLsb' 2 2).toNat := bits_toNat p 3 2
  unfold pteKind
  rw [hb]
  generalize p.extractLsb' 2 2 = q at h3 ⊢
  revert h3
  revert q
  decide

/-- The entry with A set (R260). -/
theorem ofNat_setA (p : Dword) : BitVec.ofNat 64 (if bit p.toNat 7 then p.toNat else p.toNat + 2 ^ 7) = p ||| 128#64 := by
  have h128 (i : Nat) : (128#64).getLsbD i = decide (i = 7) := by
    rw [BitVec.getLsbD, show (128#64).toNat = 2 ^ 7 from rfl, Nat.testBit_two_pow]
    simp [eq_comm]
  rw [bit_toNat]
  split
  · rename_i h
    rw [BitVec.ofNat_toNat, BitVec.setWidth_eq]
    refine BitVec.eq_of_getLsbD_eq fun i _ => ?_
    rw [BitVec.getLsbD_or, h128]
    by_cases hi : i = 7 <;> simp [hi, h]
  · rename_i h
    have h7 : p.getLsbD 7 = false := Bool.eq_false_of_not_eq_true h
    rw [BitVec.ofNat_add, BitVec.ofNat_toNat, BitVec.setWidth_eq]
    refine BitVec.add_eq_or_of_and_eq_zero p 128#64 (BitVec.eq_of_getLsbD_eq fun i _ => ?_)
    rw [BitVec.getLsbD_and, h128]
    by_cases hi : i = 7
    · rw [hi, h7]
      rfl
    · simp [hi]

/-! ### A step of a walk (R260, R261) -/

/-- Where a walk finds the entry of an address in a table at a level. -/
def pteAt (va level table : Nat) : Nat := table + 8 * (va / 2 ^ pageBits level % 512)

/-- A walk that meets no poisoned word goes by the fields of the entry that it reads. -/
theorem walk_step {m n : Mem} {c va level table : Nat} {p : Dword} (hn : n = m.homeLook c (pteAt va level table / 128))
    (hp : p = BitVec.ofNat 64 (bytesToNat (n.homeBytes (pteAt va level table) 8))) (hb : n.homeBad (pteAt va level table) = false) :
    walk m c va (level + 1) table =
      if p.getLsbD 0 = false then .error { code := 0x01, addr := BitVec.ofNat 64 va, info := BitVec.ofNat 64 level }
      else if pteBad level p.toNat = true then .error { code := 0x29, addr := BitVec.ofNat 64 va, info := p }
      else if p.getLsbD 6 = false then walk n c va level ((p.extractLsb' 12 40).toNat * 2 ^ 12)
      else if pteKind p.toNat = .far then .error { code := 0x02, addr := BitVec.ofNat 64 va, info := p }
      else .ok (if p.getLsbD 7 then n else n.homePut c (pteAt va level table) (natToBytes 8 (p.toNat + 2 ^ 7)),
        ⟨c, va / 2 ^ pageBits level * 2 ^ pageBits level, pageBits level, (p.extractLsb' 12 40).toNat * 2 ^ 12, pteKind p.toNat,
          p.getLsbD 4, p.getLsbD 5, p ||| 128#64⟩) := by
  have hpn : bytesToNat (n.homeBytes (pteAt va level table) 8) = p.toNat := hp ▸ homeBytes_entry n _
  unfold pteAt at hn hb hpn
  rw [walk]
  dsimp only
  rw [← hn, hpn, hb, ofNat_setA, BitVec.ofNat_toNat, BitVec.setWidth_eq, bits_toNat]
  simp only [bit_toNat, Bool.false_eq_true, if_false, Bool.not_eq_true']
  cases p.getLsbD 6 <;> cases p.getLsbD 7 <;>
    simp only [if_true, if_false, Bool.false_eq_true, Bool.true_eq_false, pteAt, Nat.reduceAdd, Nat.reduceSub]

theorem translationFaults : Claims.TranslationFaults := by
  refine ⟨fun s u c va f => ⟨translate_beyond, fun pa => translate_heap_error, translate_walk_error⟩, ?_⟩
  intro m c va level table _ a n pte leaf kind addr size bad w hbad
  have hw : w = _ := walk_step (n := n) (p := pte) rfl rfl hbad
  have hbroken : pteBad level pte.toNat = true ↔ bad := pteBad_iff level pte
  refine ⟨fun h0 => ?_, fun h0 hb => ?_, fun h0 hb h6 => ?_, fun h0 hb h6 => ?_⟩
  · rw [hw, if_pos h0]
  · rw [hw, if_neg (by simp [h0]), if_pos (hbroken.2 hb)]
  · rw [hw, if_neg (by simp [h0]), if_neg (mt hbroken.1 hb), if_pos h6]
  · have h3 : kind ≠ 3 := fun h => hb (.inr (.inr (.inr (.inl h))))
    obtain ⟨hfar, hkind⟩ := pteKind_eq h3
    have hleaf : ¬leaf = false := by simp [h6]
    rw [if_neg (by simp [h0]), if_neg (mt hbroken.1 hb), if_neg hleaf] at hw
    refine ⟨fun hk => ?_, fun hk => ?_⟩
    · rw [hw, if_pos (hfar.2 hk)]
    · rw [hw, if_neg (mt hfar.1 hk), hkind hk]
      exact ⟨_, rfl⟩

/-- Settles O28: the tests of an access in their order, and the walk by the fields of each entry. -/
theorem accessFaultOrder : Obligations.AccessFaultOrder := ⟨accessFaultOrder_part, translationFaults⟩

end Sys2Proof.Memory
end

section
/-! O32: atomics, double atomics and the counter instructions (R206, R239 to R247). -/

namespace Sys2Proof.Memory

open Sys2Proof Sys2Proof.Machine Sys2Proof.Claims Sys2Proof.Laws Sys2Proof.Numbers Sys2Proof.Tasks

variable {s t : State} {o : Ops} {g : Got} {y : Slot}

/-! ### The new value of an atomic (R240 to R242) -/

theorem intAtom_eq (f : Int → Int → Int) (ty : Nat) (sat : Bool) (old b c : Dword) :
    intAtom f ty sat old b c = some (BitVec.ofInt (tWidth ty) (if sat then max (minI ty) (min (maxI ty) (f (valI ty old) (valI ty b)))
      else f (valI ty old) (valI ty b))).toNat := by
  rw [intAtom, ← BitVec.toNat_setWidth, setWidth_putI, satI_eq]

/-- An atomic of patterns works on the low bits of the values. -/
theorem bitAtom_eq {f : Nat → Nat → Nat} {h : Dword → Dword → Dword}
    (hf : ∀ (n : Nat) (a b : Dword), f (a.setWidth n).toNat (b.setWidth n).toNat = ((h a b).setWidth n).toNat) (ty : Nat) (sat : Bool)
    (old b c : Dword) : bitAtom f ty sat old b c = some ((h old b).setWidth (tWidth ty)).toNat := by
  rw [bitAtom, low_eq, low_eq, hf, Nat.mod_eq_of_lt (BitVec.isLt _)]

theorem andAtom_eq (ty : Nat) (sat : Bool) (old b c : Dword) :
    bitAtom (fun a b => a &&& b) ty sat old b c = some ((old &&& b).setWidth (tWidth ty)).toNat :=
  bitAtom_eq (h := fun a b => a &&& b) (fun n a b => by rw [BitVec.setWidth_and, BitVec.toNat_and]) ty sat old b c

theorem orAtom_eq (ty : Nat) (sat : Bool) (old b c : Dword) :
    bitAtom (fun a b => a ||| b) ty sat old b c = some ((old ||| b).setWidth (tWidth ty)).toNat :=
  bitAtom_eq (h := fun a b => a ||| b) (fun n a b => by rw [BitVec.setWidth_or, BitVec.toNat_or]) ty sat old b c

theorem xorAtom_eq (ty : Nat) (sat : Bool) (old b c : Dword) :
    bitAtom (fun a b => a ^^^ b) ty sat old b c = some ((old ^^^ b).setWidth (tWidth ty)).toNat :=
  bitAtom_eq (h := fun a b => a ^^^ b) (fun n a b => by rw [BitVec.setWidth_xor, BitVec.toNat_xor]) ty sat old b c

theorem xchgAtom_eq (ty : Nat) (sat : Bool) (old b c : Dword) : xchgAtom ty sat old b c = some (b.setWidth (tWidth ty)).toNat := by
  rw [xchgAtom, low_eq]

theorem casAtom_eq (ty : Nat) (sat : Bool) (old b c : Dword) : casAtom ty sat old b c =
    if old.setWidth (tWidth ty) = b.setWidth (tWidth ty) then some (c.setWidth (tWidth ty)).toNat else none := by
  simp only [casAtom, low_eq, BitVec.toNat_inj]

/-- An instruction is an atomic: it runs as one whose new value is that of its row in the table. -/
def RunsAsAtom (o : Ops) (p : Instr × Nat × (Nat → Dword → Dword → Dword → Option Nat)) : Prop :=
  ∃ f : AtomFn, (∀ s, exec p.1 s = s.run (atomOp p.2.1 f o)) ∧ ∀ ty old b c, f ty o.sat old b c = p.2.2 ty old b c

theorem runsAsAtom_of_mem : ∀ p ∈ atomTable o, RunsAsAtom o p := by
  have add := fun ty => intAtom_eq (fun a b => a + b) ty o.sat
  have least := fun ty => intAtom_eq min ty o.sat
  have most := fun ty => intAtom_eq max ty o.sat
  simp only [atomTable, List.forall_mem_cons, List.not_mem_nil, false_implies, implies_true, and_true]
  exact ⟨⟨_, fun _ => rfl, add⟩, ⟨_, fun _ => rfl, add⟩,
    ⟨_, fun _ => rfl, fun ty => andAtom_eq ty _⟩, ⟨_, fun _ => rfl, fun ty => andAtom_eq ty _⟩,
    ⟨_, fun _ => rfl, fun ty => orAtom_eq ty _⟩, ⟨_, fun _ => rfl, fun ty => orAtom_eq ty _⟩,
    ⟨_, fun _ => rfl, fun ty => xorAtom_eq ty _⟩, ⟨_, fun _ => rfl, fun ty => xorAtom_eq ty _⟩,
    ⟨_, fun _ => rfl, least⟩, ⟨_, fun _ => rfl, least⟩, ⟨_, fun _ => rfl, most⟩, ⟨_, fun _ => rfl, most⟩,
    ⟨_, fun _ => rfl, fun ty => xchgAtom_eq ty _⟩, ⟨_, fun _ => rfl, fun ty => xchgAtom_eq ty _⟩,
    ⟨_, fun _ => rfl, fun ty => casAtom_eq ty _⟩, ⟨_, fun _ => rfl, fun _ _ _ _ => rfl⟩, ⟨_, fun _ => rfl, fun _ _ _ _ => rfl⟩⟩

/-! ### An atomic at its place (R206, R240, R244) -/

theorem atomSp_ok {u off w : Nat} (h : s.mem.spBad u off w = false) (ea : Dword) (f : Nat → Option Nat) :
    s.atomSp u off w ea f = .ok ({ s with
      mem := ((f (s.mem.spGet u off w)).map (fun v => s.mem.spPut u off (natToBytes w v))).getD s.mem }, s.mem.spGet u off w) := by
  rw [State.atomSp, h]
  cases hf : f (s.mem.spGet u off w) <;> simp [hf]

theorem homeRewrite_eq (m : Mem) (c pa w : Nat) (new : Option Nat) :
    m.homeRewrite c pa w new = (new.map (fun v => m.homePut c pa (natToBytes w v))).getD m := by cases new <;> rfl

theorem atomMu_ok {pa w : Nat} (ea : Dword) (f : Nat → Option Nat) (m : Mem)
    (hm : m = (s.mem.l1Drop s.slotUnit (pa / 128) s.slotCtx).l2Fill s.slotCtx (pa / 128)) (h : m.homeBad pa = false) :
    s.atomMu pa w ea f = .ok ({ s with
      mem := ((f (bytesToNat (m.homeBytes pa w))).map (fun v => m.homePut s.slotCtx pa (natToBytes w v))).getD m },
      bytesToNat (m.homeBytes pa w)) := by
  rw [State.atomMu]
  dsimp only
  rw [← hm, h, homeRewrite_eq]
  rfl

theorem atomOp_sp {dflt u off : Nat} {f : AtomFn} (hsp : isSp o = true) (h : SpAccess s o (wBytes (memT o dflt)) g y u off)
    (hb : s.mem.spBad u off (wBytes (memT o dflt)) = false) :
    let ty := memT o dflt
    let w := wBytes ty
    let old := loadedVal ty (readBytes s.mem.sram (spAddr u off) w)
    s.run (atomOp dflt f o) = .next { s with
      slot := wrote y o old 4,
      mem := ((f ty o.sat old g.b.val g.c.val).map (fun v => s.mem.spPut u off (natToBytes w v))).getD s.mem } := by
  refine run_memory h.1 ?_
  dsimp only
  rw [locate_spAccess hsp h]
  dsimp only
  rw [atomSp_ok (s := behind s y) hb]
  dsimp only
  rw [atomRet, loaded_eq]
  rfl

theorem atomOp_va {dflt pa : Nat} {f : AtomFn} (hsp : isSp o = false) (h : VaAccess s o (wBytes (memT o dflt)) .mu true true g y t pa)
    (m : Mem) (hm : m = (t.mem.l1Drop t.slotUnit (pa / 128) t.slotCtx).l2Fill t.slotCtx (pa / 128)) (hb : m.homeBad pa = false) :
    let ty := memT o dflt
    let w := wBytes ty
    let old := loadedVal ty (m.homeBytes pa w)
    s.run (atomOp dflt f o) = .next (({ t with
      mem := ((f ty o.sat old g.b.val g.c.val).map (fun v => m.homePut t.slotCtx pa (natToBytes w v))).getD m } : State).done o (some old) 6 1) := by
  refine run_memory h.1 ?_
  dsimp only
  rw [locate_vaAccess hsp h]
  dsimp only
  rw [atomMu_ok _ _ m hm hb]
  dsimp only
  rw [atomRet, loaded_eq]
  rfl

theorem atomicInstructions : Claims.AtomicInstructions := by
  intro s o g y p hp ty w _
  obtain ⟨f, hrun, hnew⟩ := runsAsAtom_of_mem p hp
  refine ⟨fun u off hsp h hb => ?_, ?_⟩
  · rw [hrun]
    refine (atomOp_sp hsp h hb).trans ?_
    rw [hnew]
    rfl
  · intro t pa hsp h m old hb
    rw [hrun]
    refine (atomOp_va hsp h m rfl hb).trans ?_
    rw [hnew]
    rfl

/-! ### Double atomics (R243) -/

theorem pairAligned_ok {p q : Dword} {w : Nat} (hp : p.toNat % w = 0) (hq : q.toNat % w = 0)
    (hpq : p.toNat + w ≤ q.toNat ∨ q.toNat + w ≤ p.toNat) : pairAligned s p q w = .ok () := by
  have hover : ¬(p.toNat < q.toNat + w ∧ q.toNat < p.toNat + w) := by omega
  simp [pairAligned, hp, hq, hover]

/-- The memory that a double atomic leaves: both places written, or neither. -/
def pairWritten (m : Mem) (c p q w : Nat) (new : Option (Nat × Nat)) : Mem :=
  match new with
  | some (np, nq) => (m.homePut c p (natToBytes w np)).homePut c q (natToBytes w nq)
  | none => m

theorem pairStep_ok {p q w : Nat} {ep eq : Dword} {f : Nat → Nat → Option (Nat × Nat)} (m : Mem)
    (hm : m = (((s.mem.l1Drop s.slotUnit (p / 128) s.slotCtx).l1Drop s.slotUnit (q / 128) s.slotCtx).l2Fill s.slotCtx (p / 128)).l2Fill s.slotCtx
      (q / 128)) (hp : m.homeBad p = false) (hq : m.homeBad q = false) :
    s.pairStep p q w ep eq f = .ok ({ s with
      mem := pairWritten m s.slotCtx p q w (f (bytesToNat (m.homeBytes p w)) (bytesToNat (m.homeBytes q w))) },
      bytesToNat (m.homeBytes p w), bytesToNat (m.homeBytes q w)) := by
  rw [State.pairStep]
  dsimp only
  rw [← hm, hp, hq]
  cases f (bytesToNat (m.homeBytes p w)) (bytesToNat (m.homeBytes q w)) <;> rfl

/-- The patterns of the registers from C on. -/
def groupWords (s : State) (o : Ops) (ty n : Nat) : List Nat := (s.slot.srcGroup o (groupReg o.c) n).map (fun v => low ty v)

theorem groupWords_getD {ty n k : Nat} (hk : k < n) :
    (groupWords s o ty n).getD k 0 = ((s.slot.srcReg o (regUp (groupReg o.c) k)).setWidth (tWidth ty)).toNat := by
  simp [groupWords, Slot.srcGroup, List.getD, hk, low_eq]

theorem run_congr {f f' : State → Res State} (h : f s = f' s) : s.run f = s.run f' := by
  rw [State.run, State.run, h]

/-- A double atomic whose registers are at hand and whose places are in order returns the old pair and writes what its function says. -/
theorem pairRun_next {n : Nat} {f : Nat → List Nat → Nat → Nat → Option (Nat × Nat)} {pp pq : Nat} (h : Fetches s o .z g y)
    (hheld : s.slot.pairHeld o n = true) (ha : pairAligned (behind s y) g.a.val g.b.val (wBytes (memT o 11)) = .ok ())
    (hp : hvTarget (s.ctx s.slotCtx) g.a.val.toNat = none) (hq : hvTarget (s.ctx s.slotCtx) g.b.val.toNat = none)
    (hl : (behind s y).locatePair g.a.val g.b.val = .ok (t, pp, pq)) (m : Mem)
    (hm : m = (((t.mem.l1Drop t.slotUnit (pp / 128) t.slotCtx).l1Drop t.slotUnit (pq / 128) t.slotCtx).l2Fill t.slotCtx (pp / 128)).l2Fill
      t.slotCtx (pq / 128)) (hbp : m.homeBad pp = false) (hbq : m.homeBad pq = false) :
    let ty := memT o 11
    let op := bytesToNat (m.homeBytes pp (wBytes ty))
    let oq := bytesToNat (m.homeBytes pq (wBytes ty))
    s.run (pairRun n f o) = .next (({ t with
      mem := pairWritten m t.slotCtx pp pq (wBytes ty) (f ty (groupWords s o ty n) op oq) } : State).donePair o ty op oq) := by
  have hrun : pairRun n f o s = pairOp n f o s := if_pos hheld
  rw [run_congr hrun]
  have hx : (behind s y).slotCtx = s.slotCtx := (fetch_place h).2
  have hp' : hvTarget ((behind s y).ctx (behind s y).slotCtx) g.a.val.toNat = none := by rw [hx]; exact hp
  have hq' : hvTarget ((behind s y).ctx (behind s y).slotCtx) g.b.val.toNat = none := by rw [hx]; exact hq
  refine run_memory h ?_
  dsimp only
  rw [ha]
  dsimp only
  rw [hp', hq']
  dsimp only
  rw [hl]
  dsimp only
  rw [pairStep_ok m hm hbp hbq]
  rfl

theorem doubleAtomics : Claims.DoubleAtomics := by
  intro s t o g y pp pq h ty w p q word _ hap haq hpq hp hq hl m op oq hbp hbq put both
  have ha : pairAligned (behind s y) g.a.val g.b.val w = .ok () := pairAligned_ok hap haq hpq
  refine ⟨fun hheld => ?_, fun hheld => ?_⟩
  · have hboth : pairWritten m t.slotCtx pp pq w (dcasFn ty (groupWords s o ty 4) op oq) = both := by
      have hword {k : Nat} (hk : k < 4) : (groupWords s o ty 4).getD k 0 = word k := groupWords_getD hk
      rw [dcasFn, hword (by decide), hword (by decide), hword (by decide), hword (by decide)]
      by_cases hc : op = word 0 ∧ oq = word 1
      · rw [if_pos (by simpa using hc)]
        exact (if_pos hc).symm
      · rw [if_neg (by simpa using hc)]
        exact (if_neg hc).symm
    have hrun : exec (.dcas o) s = s.run (pairRun 4 dcasFn o) := rfl
    rw [hrun, pairRun_next h hheld ha hp hq hl m rfl hbp hbq, ← hboth]
    rfl
  · have hput : pairWritten m t.slotCtx pp pq w (amov2Fn ty (groupWords s o ty 2) op oq) = put (word 0) (word 1) := by
      have hword {k : Nat} (hk : k < 2) : (groupWords s o ty 2).getD k 0 = word k := groupWords_getD hk
      rw [amov2Fn, hword (by decide), hword (by decide)]
      rfl
    have hrun : exec (.amov2 o) s = s.run (pairRun 2 amov2Fn o) := rfl
    rw [hrun, pairRun_next h hheld ha hp hq hl m rfl hbp hbq, ← hput]
    rfl

/-! ### The counter bank (R245 to R247) -/

theorem exec_cbinc {i : Instr} (hi : i ∈ [Instr.cbinc o, .cbincLong o]) (s : State) : exec i s = execCbinc o s := by
  simp only [List.mem_cons, List.not_mem_nil, or_false] at hi
  rcases hi with rfl | rfl <;> rfl

/-- A counter with the low 32 bits of a value added, wrapping or stopping at the greatest value (R246). -/
theorem count_eq (x : Mt) (j : Nat) (b : Dword) (sat : Bool) :
    let n := (tget 0 x.counters j).toNat + b.toNat % 2 ^ 32
    x.count j (b.setWidth 32) sat = { x with
      counters := tput 0 x.counters j (BitVec.ofNat 32 (if sat = true ∧ 2 ^ 32 ≤ n then 2 ^ 32 - 1 else n)) } := by
  intro n
  have hn : (tget 0 x.counters j).toNat + (b.setWidth 32 : Word).toNat = n := by rw [BitVec.toNat_setWidth]
  rw [Mt.count, hn]
  clear_value n
  have hiff : (sat && decide (2 ^ 32 - 1 < n)) = true ↔ sat = true ∧ 2 ^ 32 ≤ n := by
    rw [Bool.and_eq_true, decide_eq_true_eq]
    exact and_congr_right fun _ => by omega
  by_cases hc : sat = true ∧ 2 ^ 32 ≤ n
  · rw [if_pos hc, if_pos (hiff.2 hc)]
    rfl
  · rw [if_neg hc, if_neg (mt hiff.1 hc)]
    congr 2
    exact BitVec.eq_of_toNat_eq (by rw [BitVec.toNat_add, hn, BitVec.toNat_ofNat])

theorem cbinc_next {u j : Nat} (h : Fetches s o .z g y) (hc : (behind s y).counterAt (g.a.val + immVal o) 1 = .ok (u, j)) :
    execCbinc o s = .next (({ s with
      slot := y, mts := tput {} s.mts u ((s.mt u).count j (g.b.val.setWidth 32) o.sat) } : State).done o none 4 1) := by
  refine run_memory h ?_
  rw [show eaOf o g = g.a.val + immVal o from rfl, hc]
  rfl

theorem cbsnap_next {u j v off : Nat} (h : Fetches s o .z g y) (ha : g.a.val.toNat % 4 = 0) (hb : g.b.val.toNat % 4 = 0)
    (hc : (behind s y).counterAt g.a.val o.imm12.toNat = .ok (u, j))
    (hl : (behind s y).locateSp g.b.val (4 * o.imm12.toNat) = .ok (v, off)) :
    execCbsnap o s = .next (({ s with
      slot := y
      mts := tput {} s.mts u { s.mt u with counters := tdrop (s.mt u).counters j (j + o.imm12.toNat) }
      mem := s.mem.putFull v off ((List.range o.imm12.toNat).map (fun i => tget 0 (s.mt u).counters (j + i))) } : State).done
        o none 4 ((o.imm12.toNat + 1) / 2)) := by
  refine run_memory h ?_
  dsimp only
  rw [aligned_ok _ ha, aligned_ok _ hb]
  dsimp only
  rw [hc]
  dsimp only
  rw [hl]
  rfl

theorem counterInstructions : Claims.CounterInstructions := by
  intro s o g y u j h
  refine ⟨?_, fun v off ha hb hc hl => ⟨_, cbsnap_next h ha hb hc hl, rfl, rfl, rfl⟩⟩
  intro i hi hc v n sum
  rw [exec_cbinc hi, cbinc_next h hc, count_eq]
  exact ⟨_, rfl, rfl, rfl, rfl⟩

/-- Settles O32: atomics at their place, double atomics under both locks, and the counter bank. -/
theorem atomicsAndCounters : Obligations.AtomicsAndCounters := ⟨atomicInstructions, doubleAtomics, counterInstructions⟩

end Sys2Proof.Memory
end

section
/-! O57: accesses between packages (R204, R240, R243, R419, R420): each answer, and what an access of another package leaves at the
home of its place. -/

namespace Sys2Proof.Holvor

open Sys2Proof Sys2Proof.Machine Sys2Proof.Claims Sys2Proof.Laws Sys2Proof.Memory

variable {s t : State} {link c n pa : Nat} {va : Dword} {f : Flt}

/-! ### Over a link (R419) -/

theorem access_down (h : s.linkUp link = false) (a : RemoteAccess) : exec (.holvorRemoteAccess ⟨link, a⟩) s = .next s :=
  congrArg Host.Outcome.next (if_neg (by simp [h]))

theorem access_up (h : s.linkUp link = true) (a : RemoteAccess) : exec (.holvorRemoteAccess ⟨link, a⟩) s = .next (s.remote a) :=
  congrArg Host.Outcome.next (if_pos h)

/-! ### Answers to accesses of this package (R420) -/

theorem remoteReply_waits {x : Waiter} {vs : List Dword} (hw : s.mem.waits = [x]) (hx : x.isRemote = true) (hv : vs.length = x.width) :
    (s.remoteReply x.place vs).mem.waits = [{ x with done := some (x.answered vs) }] := by
  simp [State.remoteReply, hw, hx, hv]

theorem remoteFault_raised {x : Coord} {code : Nat} {addr info : Dword} (hw : ∃ y ∈ s.mem.waits, y.place = x ∧ y.isRemote = true)
    (hcode : remoteCode code = true) :
    s.remoteFault x code addr info = s.raiseAt x { code := code, addr := addr, info := info ||| (1#64 <<< 63) } := by
  obtain ⟨y, hy, hp, hr⟩ := hw
  refine if_pos ?_
  rw [hcode, Bool.true_and, List.any_eq_true]
  exact ⟨y, hy, by simp [hp, hr]⟩

theorem engAnswer_kept {r : HvReply} (hv : (hvTarget (s.ctx r.ctx) r.va).isSome = true) (hr : r.code = 0) (hw : s.mem.waits = []) :
    s.engAnswer r = { s with hvReplies := s.hvReplies ++ [r] } := by
  refine (if_pos (by simp [hv, hr])).trans ?_
  show State.serveRegions _ s.mem.waits.length = _
  rw [hw]
  rfl

/-! ### Loads and stores of another package (R204, R420) -/

theorem inbound_misaligned {k : PageKind} {r w : Bool} (h : n = 0 ∨ 8 < n ∨ va.toNat % n ≠ 0) :
    s.inbound c va n k r w = .error { code := 0x20, addr := va } := if_pos (by simpa [or_assoc] using h)

section
variable {once : Bool}

theorem inLoad_error (h : s.inbound c va n (if once then .wo else .mu) true false = .error f) : s.inLoad c va n once = s.answerFlt f := by
  rw [State.inLoad, h]

theorem inLoad_absent (h : s.inbound c va n (if once then .wo else .mu) true false = .ok (t, pa)) (ho : once = true)
    (hp : t.mem.isPresent (pa / 8) = false) : s.inLoad c va n once = s := by
  rw [State.inLoad, h]
  exact if_pos (by simp [ho, hp])

/-- A load of what is there answers with what its home holds, or with the error of its line. -/
theorem inLoad_there (h : s.inbound c va n (if once then .wo else .mu) true false = .ok (t, pa))
    (hp : once = true → t.mem.isPresent (pa / 8) = true) : s.inLoad c va n once =
      if (t.mem.homeLook c (pa / 128)).homeBad pa = true then (t.homeRead c pa).answerFlt (poisonAt va)
      else (t.homeRead c pa).answered { values := [BitVec.ofNat 64 (bytesToNat ((t.mem.homeLook c (pa / 128)).homeBytes pa n))] } := by
  rw [State.inLoad, h]
  refine if_neg ?_
  cases once with
  | false => simp
  | true => simp [hp rfl]

end

section
variable {pkg src : Nat} {bs : List Byte}

theorem inStore_mu (hw : s.winAt c va.toNat = none) (h : s.inbound c va bs.length .mu false true = .ok (t, pa)) :
    s.inStore pkg src c va bs false = ({ t with mem := (t.mem.homePut c pa bs).note (.energy c 6 1) } : State).answered {} := by
  rw [State.inStore, hw]
  dsimp only
  rw [if_neg Bool.false_ne_true, h]
  rfl

theorem inStore_wo (hw : s.winAt c va.toNat = none) (h : s.inbound c va bs.length .wo false true = .ok (t, pa)) (hb : bs.length = 8) :
    s.inStore pkg src c va bs true = if t.mem.isPresent (pa / 8) = true then t.answerFlt { code := 0x24, addr := va }
      else ({ t with mem := (t.mem.woPut (pa / 8) (bytesToNat bs)).note (.energy c 6 1) } : State).answered {} := by
  rw [State.inStore, hw]
  dsimp only
  rw [if_pos rfl, h]
  exact (if_pos rfl).trans (if_neg (not_not.2 hb))

end

/-! ### Atomics of another package (R240, R243) -/

/-- A write at the home within a line is read back there. -/
theorem homePut_homeBytes (m : Mem) (c pa : Nat) (bs : List Byte) (hb : pa % 128 + bs.length ≤ 128) :
    (m.homePut c pa bs).homeBytes pa bs.length = bs := by
  obtain ⟨l, hl⟩ := l2Fill_l2At m c (pa / 128)
  rw [homeBytes_eq]
  refine Eq.trans (List.map_congr_left fun i hi => ?_) (range_map_getD bs)
  have hi := List.mem_range.1 hi
  rw [Mem.homePut, mapLine_homeByte hl (fun l =>
    { l with data := linePut l.data (pa % 128) bs, dirty := l.dirty ||| maskOf (pa % 128) bs.length }) (fun _ => rfl),
    if_pos (by omega), lineByte_linePut _ _ _ _ (by omega), if_pos (by omega), show (pa + i) % 128 - pa % 128 = i by omega]

theorem homePut_number (m : Mem) (c v : Nat) (ha : pa % 8 = 0) :
    bytesToNat ((m.homePut c pa (natToBytes 8 v)).homeBytes pa 8) = v % 2 ^ 64 := by
  have h := homePut_homeBytes m c pa (natToBytes 8 v) (by rw [natToBytes_length]; omega)
  rw [natToBytes_length] at h
  rw [h]
  exact bytesToNat_natToBytes 8 v

/-- In n64 a value is its number (R121). -/
theorem valI_n64 (v : Dword) : valI 15 v = (v.toNat : Int) := by
  rw [valI_eq, if_neg (by decide)]
  exact congrArg (fun x : Dword => (x.toNat : Int)) (BitVec.setWidth_eq v)

theorem loaded_n64 (v : Nat) : loaded 15 v = BitVec.ofNat 64 v := by
  rw [loaded_eq, extend, if_neg (by decide)]
  exact BitVec.setWidth_eq _

theorem addAtom_n64 (old : Nat) (b c : Dword) (h : old < 2 ^ 64) :
    intAtom (fun a b => a + b) 15 false (loaded 15 old) b c = some ((old + b.toNat) % 2 ^ 64) := by
  rw [intAtom_eq, if_neg Bool.false_ne_true, valI_n64, valI_n64, loaded_n64, BitVec.toNat_ofNat, Nat.mod_eq_of_lt h, ← Nat.cast_add,
    BitVec.ofInt_natCast]
  exact congrArg some (BitVec.toNat_ofNat ..)

/-- An atomic of another package in order answers with the old value and rewrites it at the home. -/
theorem inAtomic_done {op : BitVec 8} {ty : BitVec 6} {sat : Bool} {b d : Dword} {fn : AtomFn} (hop : atomOf op.toNat = some fn)
    (h : s.inbound c va (wBytes ty.toNat) .mu true true = .ok (t, pa)) (m : Mem) (hm : m = t.mem.homeLook c (pa / 128))
    (hb : m.homeBad pa = false) :
    let old := bytesToNat (m.homeBytes pa (wBytes ty.toNat))
    s.inAtomic c va op ty sat b d = ({ t with
      mem := m.homeRewrite c pa (wBytes ty.toNat) (fn ty.toNat sat (loaded ty.toNat old) b d) } : State).answered
        { values := [loaded ty.toNat old] } := by
  subst hm
  rw [State.inAtomic, hop]
  dsimp only
  rw [h]
  exact if_neg (by simpa [State.homeRead] using hb)

/-- A double atomic of another package in order answers with the old pair. -/
theorem inDouble_answer {p q : Dword} {op : BitVec 8} {ty : BitVec 6} {cs : List Dword} {tp tq : Nat × Tr}
    (hop : (doubleOf op.toNat).isSome = true) (ha : pairAligned s p q (wBytes ty.toNat) = .ok ())
    (ht : translateAll s 0 c [p.toNat, q.toNat] = .ok (t, [tp, tq])) (had : admitPair tp.2 tq.2 p.toNat q.toNat = .ok ()) (m : Mem)
    (hm : m = (t.mem.homeLook c (tp.2.pa / 128)).homeLook c (tq.2.pa / 128)) (hp : m.homeBad tp.2.pa = false)
    (hq : m.homeBad tq.2.pa = false) :
    (s.inDouble c p q op ty cs).sys.answer = some { values := [loaded ty.toNat (bytesToNat (m.homeBytes tp.2.pa (wBytes ty.toNat))),
      loaded ty.toNat (bytesToNat (m.homeBytes tq.2.pa (wBytes ty.toNat)))] } := by
  subst hm
  obtain ⟨fn, hfn⟩ := Option.isSome_iff_exists.1 hop
  rw [State.inDouble, hfn]
  dsimp only
  rw [ha]
  dsimp only
  rw [ht]
  dsimp only
  rw [had]
  dsimp only
  rw [if_neg (by simpa [State.homeRead] using hp), if_neg (by simpa [State.homeRead] using hq)]
  rfl

/-! ### The statement -/

theorem remoteAccesses : Claims.RemoteAccesses := by
  intro s link run
  refine ⟨access_down, fun hl => ?_⟩
  have hrun (a : RemoteAccess) : run a = .next (s.remote a) := access_up hl a
  refine ⟨?_, ?_, ?_, ?_, ?_, ?_, ?_, ?_, ?_⟩
  · rintro c x vs hw rfl hx hv ty
    exact ⟨_, hrun _, rfl, remoteReply_waits hw hx hv⟩
  · intro c code addr info hw hcode
    rw [hrun]
    exact congrArg Host.Outcome.next (remoteFault_raised hw (List.contains_iff_mem.2 hcode))
  · intro c va n once f h
    have hload : s.remote (.load c va n once) = s.answerFlt f := inLoad_error h
    exact ⟨_, hrun _, by rw [hload]; rfl, by rw [hload]; rfl⟩
  · exact fun c va n k r w h => inbound_misaligned h
  · intro t c va n pa once h
    refine ⟨fun ho hp => ?_, fun hp => ⟨fun hb => ?_, fun hb => ?_⟩⟩
    · rw [hrun]
      exact congrArg Host.Outcome.next (inLoad_absent h ho hp)
    · have hload : s.remote (.load c va n once) = _ := (inLoad_there h hp).trans (if_neg (by simp [hb]))
      exact ⟨_, hrun _, by rw [hload]; rfl, by rw [hload]; rfl⟩
    · have hload : s.remote (.load c va n once) = _ := (inLoad_there h hp).trans (if_pos hb)
      exact ⟨_, hrun _, by rw [hload]; rfl, by rw [hload]; rfl⟩
  · intro t pkg src c va bs pa hw
    refine ⟨fun h hline hc => ?_, fun h hb => ⟨fun hp => ?_, fun hp => ?_⟩⟩
    · have hstore : s.remote (.store pkg src c va bs false) = _ := inStore_mu hw h
      refine ⟨_, hrun _, by rw [hstore]; rfl, fun a => ?_⟩
      rw [hstore]
      exact homePut_homeByte hc c pa bs hline a
    · have hstore : s.remote (.store pkg src c va bs true) = _ := (inStore_wo hw h hb).trans (if_pos hp)
      exact ⟨_, hrun _, by rw [hstore]; rfl, by rw [hstore]; rfl⟩
    · have hstore : s.remote (.store pkg src c va bs true) = _ := (inStore_wo hw h hb).trans (if_neg (by simp [hp]))
      exact ⟨_, hrun _, by rw [hstore]; rfl, by rw [hstore]; rfl⟩
  · intro t c va b d pa h ha m old hb
    have hatom : s.remote (.atomic c va 0xA0 15 false b d) = _ := inAtomic_done (op := 0xA0) (ty := 15) rfl h m rfl hb
    refine ⟨_, hrun _, ?_, ?_⟩
    · rw [hatom]
      exact congrArg (fun v => some ({ values := [v] } : HvAnswer)) (loaded_n64 old)
    · rw [hatom]
      show bytesToNat ((m.homeRewrite c pa 8 (intAtom (fun a b => a + b) 15 false (loaded 15 old) b d)).homeBytes pa 8) = _
      rw [addAtom_n64 old b d (homeBytes_lt m pa)]
      exact (homePut_number m c _ ha).trans (Nat.mod_mod _ _)
  · intro t c p q op ty cs tp tq hop n ha ht had m hp hq
    refine ⟨_, hrun _, inDouble_answer ?_ ha ht had m rfl hp hq⟩
    rcases hop with rfl | rfl <;> rfl
  · intro c va w bs hv hw
    rw [hrun]
    exact congrArg Host.Outcome.next (engAnswer_kept hv rfl hw)

end Sys2Proof.Holvor
end

section
/-! O57: reduction windows (R419, R421, R422): what a window holds, the merge of a granule, and the end of a round. -/

namespace Sys2Proof.Holvor

open Sys2Proof Sys2Proof.Machine Sys2Proof.Claims Sys2Proof.Laws Sys2Proof.Memory

variable {s t : State} {link w pkg ctx g : Nat} {x : RedWin} {data : List Byte} {tr : Tr}

/-! ### Windows and translations -/

/-- An enabled window that is put is read back, whatever the order of the table. -/
theorem rwin_setRwin (hx : x.on = true) : (s.setRwin w x).rwin w = x :=
  Organisation.tget_tput_of_ne_default s.sys.rwins w (by rintro rfl; exact absurd hx (by decide))

/-- A translation does not look at the registers of the package. -/
theorem translate_sys {u c va : Nat} (z : Sys) (h : translate s u c va = .ok (t, tr)) :
    translate { s with sys := z } u c va = .ok ({ t with sys := z }, tr) := by
  have tables (h : translateTables s u c va = .ok (t, tr)) : translateTables { s with sys := z } u c va = .ok ({ t with sys := z }, tr) := by
    have hctx : ({ s with sys := z } : State).ctx c = s.ctx c := rfl
    unfold translateTables at h ⊢
    rw [hctx]
    dsimp only at h ⊢
    split at h
    · cases h
    · rename_i hva
      rw [if_neg hva]
      split at h
      · cases h
        rfl
      · split at h
        · cases h
          rfl
        · split at h
          · cases h
          · cases h
            rfl
  have hctx : ({ s with sys := z } : State).ctx c = s.ctx c := rfl
  unfold Machine.translate at h ⊢
  rw [hctx]
  split at h
  · split at h
    · cases h
    · rename_i hpa
      cases h
      rw [if_neg hpa]
  · exact tables h

/-! ### Contributions merged (R421) -/

/-- An order left open is an order of the same values. -/
theorem anyOrder_perm (free n : Nat) (vs : List Dword) (h : vs.length ≤ n) : (anyOrder free n vs).Perm vs := by
  induction n generalizing vs with
  | zero => exact .refl _
  | succ n ih =>
    cases vs with
    | nil => exact .refl _
    | cons v vs =>
      rw [anyOrder]
      generalize hpick : Config.pick (free + n) (vs.length + 1) % (vs.length + 1) = k
      have hk : k < (v :: vs).length := hpick ▸ Nat.mod_lt _ (Nat.succ_pos _)
      have hlen : ((v :: vs).eraseIdx k).length ≤ n := by
        rw [List.length_eraseIdx_of_lt hk]
        exact Nat.sub_le_of_le_add h
      rw [List.getD_eq_getElem _ _ hk]
      exact ((ih _ hlen).cons _).trans (List.getElem_cons_eraseIdx_perm hk)

/-- In n64 a granule is one lane, and lanes add (R421). -/
theorem mergeLanes_n64 (a b : Dword) : mergeLanes 15 a b = a + b := by
  have lane (v : Dword) : loaded 15 (v.toNat / 2 ^ (64 * 0) % 2 ^ 64) = v := by
    rw [loaded_n64, Nat.mul_zero, Nat.pow_zero, Nat.div_one, Nat.mod_eq_of_lt v.isLt, BitVec.ofNat_toNat, BitVec.setWidth_eq]
  show BitVec.ofNat 64 (0 + ((loaded 15 (a.toNat / 2 ^ (64 * 0) % 2 ^ 64)).toNat + (loaded 15 (b.toNat / 2 ^ (64 * 0) % 2 ^ 64)).toNat) % 2 ^ 64 *
    2 ^ (64 * 0)) = _
  rw [lane, lane]
  refine BitVec.eq_of_toNat_eq ?_
  rw [BitVec.toNat_ofNat, BitVec.toNat_add, Nat.zero_add, Nat.mul_zero, Nat.pow_zero, Nat.mul_one, Nat.mod_mod]

theorem mergeAll_n64 (vs : List Dword) : mergeAll 15 vs = BitVec.ofNat 64 (vs.map BitVec.toNat).sum := by
  have fold (us : List Dword) (v : Dword) : us.foldl (mergeLanes 15) v = BitVec.ofNat 64 (v.toNat + (us.map BitVec.toNat).sum) := by
    induction us generalizing v with
    | nil => simp
    | cons u us ih =>
      rw [List.foldl_cons, ih, mergeLanes_n64, List.map_cons, List.sum_cons, ← Nat.add_assoc]
      refine BitVec.eq_of_toNat_eq ?_
      rw [BitVec.toNat_ofNat, BitVec.toNat_ofNat, BitVec.toNat_add, Nat.mod_add_mod]
  cases vs with
  | nil => rfl
  | cons v vs => rw [mergeAll, fold, List.map_cons, List.sum_cons]

/-- 64-bit sums come out the same in any order. -/
theorem mergeAll_anyOrder (free : Nat) (vs : List Dword) :
    (mergeAll 15 (anyOrder free vs.length vs)).toNat = (vs.map BitVec.toNat).sum % 2 ^ 64 := by
  rw [mergeAll_n64, ((anyOrder_perm free _ vs le_rfl).map BitVec.toNat).sum_eq, BitVec.toNat_ofNat]

/-! ### A contribution (R421) -/

theorem contribution_down {off : Nat} (hl : s.linkUp link = false) :
    exec (.reductionContribution w pkg ctx off ⟨link, data⟩) s = .next s :=
  congrArg Host.Outcome.next (if_pos (by simp [hl]))

theorem contribution_off {off : Nat} (hx : (s.rwin w).on = false) :
    exec (.reductionContribution w pkg ctx off ⟨link, data⟩) s = .next s :=
  congrArg Host.Outcome.next (if_pos (by simp [hx]))

theorem contribution_data {off : Nat} (hl : s.linkUp link = true) (hx : (s.rwin w).on = true) (hd : data ≠ []) :
    exec (.reductionContribution w pkg ctx off ⟨link, data⟩) s = .next (s.contribute w pkg ctx off data) :=
  congrArg Host.Outcome.next ((if_neg (by simp [hl, hx])).trans (if_neg (by simpa using hd)))

theorem contribution_reset {off : Nat} (hl : s.linkUp link = true) (hx : (s.rwin w).on = true) :
    exec (.reductionContribution w pkg ctx off ⟨link, []⟩) s = .next (if (s.rwin w).mayJoin pkg ctx then s.endRound w 2 else s) :=
  congrArg Host.Outcome.next ((if_neg (by simp [hl, hx])).trans (if_pos rfl))

/-- A window with a contribution to a granule held, its source among the participants. -/
def joined (x : RedWin) (g pkg ctx : Nat) (v : Dword) : RedWin :=
  { x with held := x.held ++ [(g, pkg, ctx, v)], peers := if x.peers.contains (pkg, ctx) then x.peers else x.peers ++ [(pkg, ctx)] }

/-- The values of a granule that a window holds. -/
def values (x : RedWin) (g : Nat) : List Dword := (x.held.filter (fun h => h.1 == g)).map (fun h => h.2.2.2)

theorem values_joined (x : RedWin) (g pkg ctx : Nat) (v : Dword) : values (joined x g pkg ctx v) g = values x g ++ [v] := by
  simp [values, joined]

/-- A window with a granule merged: nothing of it is held any more. -/
def mergedAt (x : RedWin) (g : Nat) : RedWin := { x with held := x.held.filter (fun h => h.1 != g), merged := g :: x.merged }

theorem mergedAt_joined (x : RedWin) (g pkg ctx : Nat) (v : Dword) : mergedAt (joined x g pkg ctx v) g =
    { x with
      held := x.held.filter (fun h => h.1 != g), merged := g :: x.merged
      peers := if x.peers.contains (pkg, ctx) then x.peers else x.peers ++ [(pkg, ctx)] } := by
  simp [mergedAt, joined]

theorem contribute_taken (hr : (s.rwin w).refuses pkg ctx (8 * g) data.length = false) : s.contribute w pkg ctx (8 * g) data =
    ((s.setRwin w (joined (s.rwin w) g pkg ctx (BitVec.ofNat 64 (bytesToNat data)))).redMerge w g).answered {} := by
  have hg : 8 * g / 8 = g := by omega
  refine (if_neg (by simp [hr])).trans ?_
  rw [hg]
  rfl

theorem contribute_refused {off : Nat} (hr : (s.rwin w).refuses pkg ctx off data.length = true) :
    s.contribute w pkg ctx off data = s.redFault pkg ctx ((s.rwin w).base.toNat + off) := if_pos hr

/-- The fault of a contribution that another package sent is its answer. -/
theorem redFault_answer {va : Nat} (hp : pkg ≠ s.sys.hvpkg.toNat) :
    s.redFault pkg ctx va = s.answerFlt { code := 0x4F, addr := BitVec.ofNat 64 va } := if_pos hp

/-- The fault of a contribution of a slot here is raised there, as one of another package. -/
theorem redFault_raised {va : Nat} {c : Coord} (hp : pkg = s.sys.hvpkg.toNat) (hc : s.contributor ctx va = some c) :
    s.redFault pkg ctx va = s.raiseAt c { code := 0x4F, addr := BitVec.ofNat 64 va, info := 1#64 <<< 63 } := by
  rw [State.redFault, if_neg (not_not.2 hp), hc]
  obtain ⟨y, hy, rfl⟩ := Option.map_eq_some_iff.1 hc
  have hprop := List.find?_some hy
  have hremote : y.isRemote = true := by
    simp only [Bool.and_eq_true] at hprop
    exact hprop.1.1.1
  exact remoteFault_raised ⟨y, List.mem_of_find?_eq_some hy, rfl, hremote⟩ rfl

theorem redMerge_waits (h : (values (s.rwin w) g).length < (s.rwin w).n) : s.redMerge w g = s := if_pos h

/-- A merged granule that is absent is written once, at its home. -/
theorem redWrite_once {v : Dword} (ht : translate s 0 ((s.rwin w).cfg.toNat % 2 ^ 12) ((s.rwin w).base.toNat + 8 * g) = .ok (t, tr))
    (hw : tr.w = true) (hk : tr.kind = .wo) (hp : t.mem.isPresent (tr.pa / 8) = false) :
    s.redWrite w g v = { t with
      mem := (t.mem.woPut (tr.pa / 8) v.toNat).note (.energy ((s.rwin w).cfg.toNat % 2 ^ 12) 6 1) } := by
  have hctx : bits (s.rwin w).cfg.toNat 11 0 = (s.rwin w).cfg.toNat % 2 ^ 12 := by simp [bits]
  rw [State.redWrite, hctx, ht]
  simp [hw, hk, hp]

/-- A granule with all its contributions is written, and the round goes on where it is not the window's last. -/
theorem redMerge_writes {v : Dword} (hx : (s.rwin w).on = true) (hn : (values (s.rwin w) g).length = (s.rwin w).n)
    (hm : (s.rwin w).merged.length + 1 < (s.rwin w).granules)
    (hv : v = mergeAll (s.rwin w).ty (anyOrder s.freeCount (values (s.rwin w) g).length (values (s.rwin w) g))) :
    s.redMerge w g = ({ s.redWrite w g v with
      freeCount := s.freeCount + (values (s.rwin w) g).length } : State).setRwin w (mergedAt (s.rwin w) g) := by
  subst hv
  have hlast (u : State) : ((u.setRwin w (mergedAt (s.rwin w) g)).rwin w).merged.length ≠ (s.rwin w).granules := by
    rw [rwin_setRwin (x := mergedAt (s.rwin w) g) hx]
    exact hm.ne
  exact (if_neg (Nat.not_lt.2 hn.ge)).trans (if_neg (hlast _))

/-- The contribution that completes a granule of 64-bit sums: the sum of all is written once, in whatever order they came (R421). -/
theorem contribute_completes (hx : (s.rwin w).on = true) (hty : (s.rwin w).ty = 15)
    (hr : (s.rwin w).refuses pkg ctx (8 * g) data.length = false) (hn : (values (s.rwin w) g).length + 1 = (s.rwin w).n)
    (hm : (s.rwin w).merged.length + 1 < (s.rwin w).granules)
    (ht : translate s 0 ((s.rwin w).cfg.toNat % 2 ^ 12) ((s.rwin w).base.toNat + 8 * g) = .ok (t, tr))
    (hw : tr.w = true) (hk : tr.kind = .wo) (hp : t.mem.isPresent (tr.pa / 8) = false) :
    let v : Dword := BitVec.ofNat 64 (bytesToNat data)
    let after := joined (s.rwin w) g pkg ctx v
    s.contribute w pkg ctx (8 * g) data = (({ t with
      sys := (s.setRwin w after).sys
      mem := (t.mem.woPut (tr.pa / 8) ((((values (s.rwin w) g).map BitVec.toNat).sum + v.toNat) % 2 ^ 64)).note
        (.energy ((s.rwin w).cfg.toNat % 2 ^ 12) 6 1)
      freeCount := s.freeCount + (values after g).length } : State).setRwin w (mergedAt after g)).answered {} := by
  intro v after
  have hback : (s.setRwin w after).rwin w = after := rwin_setRwin hx
  have hcount : (values after g).length = (s.rwin w).n := by
    rw [values_joined, List.length_append]
    exact hn
  have hwrite (z : Dword) : (s.setRwin w after).redWrite w g z = _ :=
    redWrite_once (t := { t with sys := (s.setRwin w after).sys }) (by rw [hback]; exact translate_sys _ ht) hw hk hp
  have hsum : (mergeAll after.ty (anyOrder (s.setRwin w after).freeCount (values after g).length (values after g))).toNat =
      (((values (s.rwin w) g).map BitVec.toNat).sum + v.toNat) % 2 ^ 64 := by
    rw [show after.ty = 15 from hty, mergeAll_anyOrder, values_joined, List.map_append, List.sum_append]
    rfl
  rw [contribute_taken hr, redMerge_writes (by rw [hback]; exact hx) (by rw [hback]; exact hcount) (by rw [hback]; exact hm) rfl, hback, hwrite,
    hback, hsum]
  rfl

/-! ### The end of a round (R422) -/

/-- A window whose round ended without all its contributions. -/
def emptied (x : RedWin) : RedWin := { x with round := x.round + 1, held := [], merged := [], peers := [] }

/-- Where a round that a reset ends writes its status word. -/
def statusVa (x : RedWin) : Nat := x.cva.toNat / 2 ^ 3 % 2 ^ 49 * 8 + 8 * (x.round.toNat % 512)

theorem endRound_reset (s : State) (w : Nat) : s.endRound w 2 =
    match translate (s.setRwin w (emptied (s.rwin w))) 0 ((s.rwin w).cfg.toNat % 2 ^ 12) (statusVa (s.rwin w)) with
    | .error _ => s.setRwin w (emptied (s.rwin w))
    | .ok (t, tr) =>
      if tr.kind ≠ .wo || !tr.w || t.mem.isPresent (tr.pa / 8) then t
      else { t with mem := t.mem.woPut (tr.pa / 8) ((s.rwin w).round.toNat + 2 * 2 ^ 32) } := by
  have hctx : bits (s.rwin w).cfg.toNat 11 0 = (s.rwin w).cfg.toNat % 2 ^ 12 := by simp [bits]
  have hva : bits (s.rwin w).cva.toNat 51 3 * 8 + 8 * ((s.rwin w).round.toNat % 512) = statusVa (s.rwin w) := rfl
  rw [State.endRound, hctx, hva]
  rfl

/-- Whatever becomes of its status word, the window goes on with its next round. -/
theorem endRound_rwin (hx : (s.rwin w).on = true) : (s.endRound w 2).rwin w = emptied (s.rwin w) := by
  have hback : (s.setRwin w (emptied (s.rwin w))).rwin w = emptied (s.rwin w) := rwin_setRwin hx
  rw [endRound_reset]
  split
  · exact hback
  · rename_i ht
    rw [(translate_frame ht).1]
    split <;> exact hback

theorem endRound_written (ht : translate (s.setRwin w (emptied (s.rwin w))) 0 ((s.rwin w).cfg.toNat % 2 ^ 12) (statusVa (s.rwin w)) = .ok (t, tr))
    (hk : tr.kind = .wo) (hw : tr.w = true) (hp : t.mem.isPresent (tr.pa / 8) = false) :
    (s.endRound w 2).mem = t.mem.woPut (tr.pa / 8) ((s.rwin w).round.toNat + 2 * 2 ^ 32) := by
  rw [endRound_reset, ht]
  simp [hk, hw, hp]

/-! ### The statement -/

theorem reductionWindows : Claims.ReductionWindows := by
  intro s link w pkg ctx g data x run
  refine ⟨contribution_down, fun hl => ?_⟩
  intro v had peers
  refine ⟨contribution_off, fun hx hd hr hn => ?_, fun t tr hx hty hd hr hn hm ht hw hk hp => ?_, fun hx hd hr => ?_, fun hx hd hjoin => ?_,
    fun hx hd hnew hfull => ?_⟩
  · have hback : (s.setRwin w (joined x g pkg ctx v)).rwin w = joined x g pkg ctx v := rwin_setRwin hx
    have hwaits : (values (joined x g pkg ctx v) g).length < x.n := by
      rw [values_joined, List.length_append]
      exact hn
    refine (contribution_data hl hx hd).trans ?_
    rw [contribute_taken hr, redMerge_waits (by rw [hback]; exact hwaits)]
    rfl
  · refine ⟨_, (contribution_data hl hx hd).trans (congrArg Host.Outcome.next (contribute_completes hx hty hr hn hm ht hw hk hp)), rfl, ?_, rfl⟩
    exact (rwin_setRwin (x := mergedAt (joined x g pkg ctx v) g) hx).trans (mergedAt_joined x g pkg ctx v)
  · have hrun : run = .next (s.redFault pkg ctx (x.base.toNat + 8 * g)) :=
      (contribution_data hl hx hd).trans (congrArg Host.Outcome.next (contribute_refused hr))
    refine ⟨fun hp => ?_, fun c hp hc => ?_⟩
    · rw [hrun, redFault_answer hp]
      rfl
    · rw [hrun, redFault_raised hp hc]
  · subst hd
    have hmay : x.mayJoin pkg ctx = true := by simpa [RedWin.mayJoin] using hjoin
    have hrun : run = .next (s.endRound w 2) := (contribution_reset hl hx).trans (congrArg Host.Outcome.next (if_pos hmay))
    exact ⟨_, hrun, endRound_rwin hx, fun t tr ht hk hw hp => endRound_written ht hk hw hp⟩
  · subst hd
    have hmay : ¬x.mayJoin pkg ctx = true := by simpa [RedWin.mayJoin] using ⟨hnew, hfull⟩
    exact (contribution_reset hl hx).trans (congrArg Host.Outcome.next (if_neg hmay))

end Sys2Proof.Holvor
end

section
/-! O57: the state of the Holvor links and time sync (R418, R419, R423). -/

namespace Sys2Proof.Holvor

open Sys2Proof Sys2Proof.Machine Sys2Proof.Claims Sys2Proof.Laws

variable {s : State} {n : Nat} {ofs : BitVec 16}

/-! ### The time master (R423) -/

theorem le_foldl_min {k a : Nat} (ps : List Nat) : k ≤ ps.foldl min a ↔ k ≤ a ∧ ∀ p ∈ ps, k ≤ p := by
  induction ps generalizing a with
  | nil => simp
  | cons p ps ih => rw [List.foldl_cons, ih, le_min_iff, List.forall_mem_cons, and_assoc]

/-- The lowest HVSYNC.PKG over each link that is up. -/
def known (s : State) : List Nat := (s.sys.links.filter (fun k => k.2.up)).map (fun k => k.2.low.toNat)

theorem le_timeMaster {k : Nat} : k ≤ s.timeMaster ↔ k ≤ s.sys.hvpkg.toNat ∧ ∀ p ∈ known s, k ≤ p := le_foldl_min _

theorem timeMaster_le_own : s.timeMaster ≤ s.sys.hvpkg.toNat := (le_timeMaster.1 le_rfl).1

theorem timeMaster_le_known {p : Nat} (hp : p ∈ known s) : s.timeMaster ≤ p := (le_timeMaster.1 le_rfl).2 p hp

/-- A link that is up tells of the packages over it. -/
theorem known_of_up (h : (tget {} s.sys.links n : HvLink).up = true) : (tget {} s.sys.links n : HvLink).low.toNat ∈ known s := by
  have hne : (tget {} s.sys.links n : HvLink) ≠ {} := fun he => by
    rw [he] at h
    cases h
  exact List.mem_map.2 ⟨(n, tget {} s.sys.links n), List.mem_filter.2 ⟨Organisation.mem_of_tget_ne hne, h⟩, rfl⟩

/-! ### The offset of the package (R423) -/

theorem masterOfs_own (h : ∀ p ∈ known s, s.sys.hvpkg.toNat ≤ p) : s.masterOfs n ofs none = 0 :=
  if_pos (timeMaster_le_own.antisymm (le_timeMaster.2 ⟨le_rfl, h⟩))

theorem masterOfs_link (hup : (tget {} s.sys.links n : HvLink).up = true)
    (hown : (tget {} s.sys.links n : HvLink).low.toNat < s.sys.hvpkg.toNat)
    (h : ∀ p ∈ known s, (tget {} s.sys.links n : HvLink).low.toNat ≤ p) : s.masterOfs n ofs none = ofs := by
  have hm : s.timeMaster = (tget {} s.sys.links n : HvLink).low.toNat :=
    (timeMaster_le_known (known_of_up hup)).antisymm (le_timeMaster.2 ⟨hown.le, h⟩)
  exact (if_neg (by omega)).trans (if_pos hm.symm)

theorem masterOfs_other {p : Nat} (hp : p ∈ known s) (hown : p < s.sys.hvpkg.toNat)
    (hlink : p < (tget {} s.sys.links n : HvLink).low.toNat) : s.masterOfs n ofs none = s.sys.hvofs := by
  have hm := timeMaster_le_known hp
  exact (if_neg (by omega)).trans (if_neg (by omega))

/-! ### The statement -/

/-- A link that is up after time sync over it: locked where the offset has stayed within 12 ns and the peer counts from the same epoch. -/
def syncedLink (s : State) (n : Nat) (ofs : BitVec 16) (steady : Bool) (peer : TimePeer) : HvLink :=
  ⟨true, (tget {} s.sys.links n : HvLink).train,
    steady && decide (-12 ≤ ofs.toInt) && decide (ofs.toInt ≤ 12) && decide (peer.epoch = s.sys.tepoch), peer.epoch, peer.lowest⟩

/-- What time sync has told of a link that is up. -/
def synced (s : State) (n : Nat) (ofs : BitVec 16) (steady : Bool) (peer : TimePeer) : State :=
  { s with sys := { s.sys with links := tput {} s.sys.links n (syncedLink s n ofs steady peer) } }

theorem synced_link (steady : Bool) (peer : TimePeer) :
    (tget {} (synced s n ofs steady peer).sys.links n : HvLink) = syncedLink s n ofs steady peer :=
  Organisation.tget_tput_of_ne_default s.sys.links n fun he => nomatch congrArg HvLink.up he

/-- Time sync over an up link tells of the link, then sets the offset of the package by the time master. -/
theorem timeSync_up {steady : Bool} {peer : TimePeer} (h : (tget {} s.sys.links n : HvLink).up = true) :
    exec (.timeSyncLock n ofs steady peer) s = .next { synced s n ofs steady peer with sys :=
      { (synced s n ofs steady peer).sys with hvofs := (synced s n ofs steady peer).masterOfs n ofs peer.external } } := by
  have hlink : ({ (tget {} s.sys.links n : HvLink) with
      lock := steady && (-12 ≤ ofs.toInt && ofs.toInt ≤ 12) && peer.epoch == s.sys.tepoch, peer := peer.epoch, low := peer.lowest } : HvLink) =
      syncedLink s n ofs steady peer := by
    rw [syncedLink, beq_eq_decide, ← Bool.and_assoc steady (decide (-12 ≤ ofs.toInt)), ← h]
  rw [synced, ← hlink]
  exact congrArg Host.Outcome.next (if_neg (by rw [h]; exact Bool.false_ne_true))

theorem timeSync_down {steady : Bool} {peer : TimePeer} (h : (tget {} s.sys.links n : HvLink).up = false) :
    exec (.timeSyncLock n ofs steady peer) s = .next s := congrArg Host.Outcome.next (if_pos (by rw [h]; rfl))

theorem holvorLinks : Claims.HolvorLinks := by
  intro s n l
  refine ⟨fun up train => rfl, fun ofs steady peer => ⟨timeSync_down, fun hup => ⟨_, timeSync_up hup, rfl, rfl, ?_⟩⟩⟩
  intro own ps
  have hlink := synced_link (s := s) (n := n) (ofs := ofs) steady peer
  refine ⟨fun e he => ?_, fun he h => ?_, fun he hl h => ?_, fun he h => ?_⟩
  · rw [he]
    rfl
  · rw [he]
    exact masterOfs_own h
  · rw [he]
    exact masterOfs_link (by rw [hlink]; rfl) (by rw [hlink]; exact hl) (by rw [hlink]; exact h)
  · rw [he]
    obtain ⟨p, hp, hown, hpl⟩ := h
    exact masterOfs_other hp hown (by rw [hlink]; exact hpl)

/-- Settles O57: each access by what its package answers, each contribution by what its window holds, and the links by their state. -/
theorem otherPackages : Obligations.OtherPackages := ⟨remoteAccesses, reductionWindows, holvorLinks⟩

end Sys2Proof.Holvor
end

section
/-! O3: every instruction and every device step answers a next state. A task instruction has one of the two shared shapes, and both
answer a next state whatever the slot finds; a device step answers one in its own words. -/

namespace Sys2Proof.Faults

open Sys2Proof Sys2Proof.Machine Sys2Proof.Claims Sys2Proof.Laws

/-- An outcome that is a next state. -/
def GoesOn (r : Host.Outcome State Fault Refusal) : Prop := ∃ t, r = .next t

/-! ### The shared shapes -/

theorem goesOn_next (t : State) : GoesOn (.next t) := ⟨t, rfl⟩

/-- A stop is a next state too: the slot stalls, or the fault is taken (R40, R264). -/
theorem goesOn_finish (r : Res State) : GoesOn (finish r) := by
  cases r with
  | ok t => exact goesOn_next t
  | error e => exact goesOn_next (State.stopBy e)

theorem goesOn_run (s : State) (f : State → Res State) : GoesOn (s.run f) := by
  unfold State.run
  split
  · exact goesOn_finish (f s)
  · exact goesOn_next _

theorem goesOn_runSlot (s : State) (cls : Nat) (f : Slot → Except Stop Slot) : GoesOn (s.runSlot cls f) := by
  unfold State.runSlot
  split
  · split
    · exact goesOn_next _
    · exact goesOn_next _
  · exact goesOn_next _

/-! ### Instructions and device steps -/

/-- A command that waits leaves the state, one performed answers its effect, and one that faults is abandoned (R210). -/
theorem goesOn_engineCommandComplete (s : State) (id : Nat) : GoesOn (execEngineCommandComplete id s) := by
  unfold execEngineCommandComplete
  split
  · exact goesOn_next s
  · split
    · exact goesOn_next s
    · split
      · exact goesOn_next _
      · exact goesOn_next s
      · exact goesOn_next _

/-- Settles O3, by the shape of each instruction: one that changes its slot only, one that reaches more than its slot, a device step. -/
theorem everyInstructionAnswersNext : Obligations.EveryInstructionAnswersNext := by
  intro i s
  show GoesOn (exec i s)
  unfold exec
  cases i with
  | nop o | halt o | wait o | br o | bz o | bnz o | blt o | bge o | bmk o | call o | ret o | loopi o | loopr o | trap o | add o
  | addLong o | addi o | addiLong o | sub o | subLong o | mul o | mulLong o | mulh o | mulhLong o | div o | divLong o | rem o
  | remLong o | and o | andLong o | or o | orLong o | xor o | xorLong o | xori o | xoriLong o | shl o | shlLong o | shr o | shrLong o
  | sar o | sarLong o | rot o | rotLong o | clz o | clzLong o | popc o | popcLong o | min o | minLong o | max o | maxLong o | abs o
  | absLong o | neg o | negLong o | cmp o | cmpLong o | movi o | moviLong o | movl o | movlHi o | lea o | bfx o | bfi o | fadd o
  | faddLong o | fsub o | fsubLong o | fmul o | fmulLong o | fma o | fmin o | fminLong o | fmax o | fmaxLong o | fabs o | fabsLong o
  | fneg o | fnegLong o | fcmp o | fcmpLong o | fclass o | fclassLong o | fcvt o | fcvtLong o | icvt o | icvtLong o | frcp o
  | frcpLong o | frsq o | frsqLong o | fsqrt o | fsqrtLong o | fex2 o | fex2Long o | flg2 o | flg2Long o | fsinp o | fsinpLong o
  | fcosp o | fcospLong o | ftnh o | ftnhLong o | peek o | drop o | fwd o | mkr o | mkt o | steer o | steerLong o | merge o | racc o
  | raccLong o | segr o | segrLong o | rwset o | sysrd o | time o | enrd o | pdec o | penc o | perm o | mvclp o | drift o | drchk o
  | rdrat o => exact goesOn_runSlot s _ _
  | engineCommandComplete a => exact goesOn_engineCommandComplete s a
  | islandChuck a | islandMswap a | islandMfeed a | islandMfeedTransposed a | islandMdraw a | islandMzero a | islandArmedTile a
  | recordRead a | dependenceGranulesPresent a | imageFetch a | startToken a | taskFire a | registerFill a b | linkTokenArrival a
  | slotFreeVisible a | elasticSample a b | replicaPark a b c | elasticDeal a b | elasticCollect a b | sectionCountExpiry a b
  | taskDrain a | engineDrain a | bridgeDrain a | tileDrained a b | drainReport a b | preemptRequest a | drainLimitExpiry a
  | contextRestore a | memoryAccessComplete a | deferralRetry a | l1Eviction a b c | pageWalk a b c
  | tlbinvWrite a | tlbInvalidateComplete | frbaseWrite a b | frtailWrite a b | fresumeWrite a b | vfReset a | unitError a b
  | unfenceWrite a | frameParse a | packetPublish a | lqresvRead a b c | hostBar2Write a b c | hostBar2Read a b c | arbiterGrant a
  | impositionComplete a | sliceExpiry a | grantRecompute a | pcapWrite a | staticEnergyTick | timerSaturate | timesetWrite a
  | tepochWrite a b | registerWrite a b c d | ctxfnWrite a b | prtunitWrite a b c | dltailWrite a | holvorRemoteAccess a
  | reductionContribution a b c d e | holvorLinkState a b c | timeSyncLock a b c d | boot a | attestationQuote a | thermalTick a b
  | thermalTrip | dlbaseWrite a => exact goesOn_next _
  | _ => exact goesOn_run s _

end Sys2Proof.Faults
end

section
/-! O59: what reset leaves (R281, R409, R418). -/

namespace Sys2Proof.Faults

open Sys2Proof Sys2Proof.Machine Sys2Proof.Claims Sys2Proof.Laws

/-- At reset no unit belongs to a partition: every bit of PRTUNIT is 0 (R418). -/
theorem reset_has (p u : Nat) : (State.reset.part p).has u = false := by
  show (if h : u / 64 < 14 then ((Vector.replicate 14 (0 : Dword))[u / 64]).getLsbD (u % 64) else false) = false
  split
  · rw [Vector.getElem_replicate]
    exact BitVec.getLsbD_zero
  · rfl

/-- Settles O59: each register reads its reset value because its table lists nothing, and no entry of PRTUNIT holds a unit. -/
theorem resetValues : Obligations.ResetValues := by
  unfold Obligations.ResetValues
  refine ⟨fun c => ?contexts, fun p => ?partitions, fun f q => ?queues, fun u => ?tiles, ?rest⟩
  case contexts => exact ⟨rfl, rfl, rfl, rfl, rfl⟩
  case partitions => exact ⟨rfl, rfl, rfl, rfl, rfl, rfl, rfl, reset_has p⟩
  case queues => exact ⟨rfl, rfl, rfl, rfl, rfl⟩
  case tiles => exact ⟨rfl, rfl, rfl⟩
  case rest => exact ⟨rfl, rfl, rfl, rfl, rfl, fun pa => ⟨rfl, rfl⟩, reset_wf⟩

end Sys2Proof.Faults
end

section
/-! O52, the registers of rings: writes of the base and of the tail of a fault ring and of the device log (R267, R428). -/

namespace Sys2Proof.Faults

open Sys2Proof Sys2Proof.Machine Sys2Proof.Claims Sys2Proof.Laws Sys2Proof.Organisation

/-! ### Presence cleared -/

/-- Keys dropped read as the default, and every other key as before, whatever the order of the table. -/
theorem tget_tdrop_any {α : Type} (d : α) (t : Tbl α) (lo hi j : Nat) :
    tget d (tdrop t lo hi) j = if lo ≤ j ∧ j < hi then d else tget d t j := by
  induction t with
  | nil => simp [tdrop, tget]
  | cons p t ih =>
    rw [tdrop, List.filter_cons]
    by_cases hj : j = p.1
    · subst hj
      by_cases hin : lo ≤ p.1 ∧ p.1 < hi
      · rw [if_neg (by simp [hin]), if_pos hin]
        exact ih.trans (if_pos hin)
      · rw [if_pos (by simp; omega), if_neg hin, tget, tget, if_pos rfl, if_pos rfl]
    · have hskip : tget d (p :: t) j = tget d t j := if_neg hj
      rw [hskip]
      split
      · exact (if_neg hj).trans ih
      · exact ih

/-- The first `n` records from the tail of a ring on, with the presence of their granules cleared (R267). -/
def clearRecords (r : FRing) (m : Mem) (n : Nat) : Mem :=
  (List.range n).foldl (fun m i =>
    { m with present := tdrop m.present (r.slotPa (r.tail + BitVec.ofNat 32 i) / 8) (r.slotPa (r.tail + BitVec.ofNat 32 i) / 8 + 8) }) m

/-- Granule `g` lies in one of the first `n` records from the tail on. -/
def InRecords (r : FRing) (n g : Nat) : Prop :=
  ∃ i, i < n ∧ r.slotPa (r.tail + BitVec.ofNat 32 i) / 8 ≤ g ∧ g < r.slotPa (r.tail + BitVec.ofNat 32 i) / 8 + 8

theorem clearRecords_isPresent (r : FRing) (m : Mem) (n g : Nat) :
    (clearRecords r m n).isPresent g = true ↔ m.isPresent g = true ∧ ¬InRecords r n g := by
  induction n with
  | zero => simp [clearRecords, InRecords]
  | succ n ih =>
    have hstep : (clearRecords r m (n + 1)).isPresent g =
        if r.slotPa (r.tail + BitVec.ofNat 32 n) / 8 ≤ g ∧ g < r.slotPa (r.tail + BitVec.ofNat 32 n) / 8 + 8 then false
        else (clearRecords r m n).isPresent g := by
      rw [clearRecords, List.range_succ, List.foldl_append]
      exact tget_tdrop_any _ _ _ _ _
    have hin : InRecords r (n + 1) g ↔ InRecords r n g ∨
        r.slotPa (r.tail + BitVec.ofNat 32 n) / 8 ≤ g ∧ g < r.slotPa (r.tail + BitVec.ofNat 32 n) / 8 + 8 := by
      constructor
      · rintro ⟨i, hi, hg⟩
        rcases Nat.lt_succ_iff_lt_or_eq.mp hi with hlt | rfl
        · exact .inl ⟨i, hlt, hg⟩
        · exact .inr hg
      · rintro (⟨i, hi, hg⟩ | hg)
        · exact ⟨i, Nat.lt_succ_of_lt hi, hg⟩
        · exact ⟨n, Nat.lt_succ_self n, hg⟩
    rw [hstep, hin]
    split
    · rename_i hlast
      simp [hlast]
    · rename_i hlast
      rw [ih]
      simp [hlast]

/-- The granules of the records consumed are absent, and every other granule is as it was (R267). -/
theorem clearRecords_spec (r : FRing) (m : Mem) (n g : Nat) :
    (InRecords r n g → (clearRecords r m n).isPresent g = false) ∧
    (¬InRecords r n g → (clearRecords r m n).isPresent g = m.isPresent g) := by
  have h := clearRecords_isPresent r m n g
  exact ⟨fun hin => Bool.eq_false_iff.mpr (fun hp => (h.mp hp).2 hin), fun hout => Bool.eq_iff_iff.mpr (h.trans (and_iff_left hout))⟩

/-! ### Writes of a ring's registers (R267) -/

section
variable {r : FRing} {m : Mem}

/-- A ring that holds no record starts empty at its new base. -/
theorem rebase_of_empty (hheld : r.held = []) (m : Mem) (pa : Nat) :
    r.rebase m pa = (m, { r with base := pa, head := 0, tail := 0 }) := by
  unfold FRing.rebase
  rw [hheld]
  show (m, ({ r with base := pa, head := 0, tail := 0, held := [] } : FRing)) = _
  rw [← hheld]

/-- A tail beyond the records written is ignored. -/
theorem reclaim_beyond {v : Word} (h : ¬(v - r.tail).toNat ≤ (r.head - r.tail).toNat) : r.reclaim m v = (m, r) :=
  if_pos (Nat.lt_of_not_le h)

/-- A tail within the records written clears those it passes; with no record held, nothing else changes. -/
theorem reclaim_within {v : Word} (hheld : r.held = []) (hin : (v - r.tail).toNat ≤ (r.head - r.tail).toNat)
    (hsize : (r.head - r.tail).toNat ≤ 2 ^ r.n) :
    r.reclaim m v = (clearRecords r m (v - r.tail).toNat, { r with tail := v }) := by
  unfold FRing.reclaim
  rw [if_neg (Nat.not_lt.mpr hin), Nat.min_eq_left (hin.trans hsize), hheld]
  show (_, ({ r with tail := v, held := [] } : FRing)) = _
  rw [← hheld]
  rfl

end

/-! ### The fault ring of a partition and the device log -/

section
variable {s : State} {p : Nat} {v : Dword}

/-- A write of FRBASE changes memory and the ring as the ring's own base does (R267). -/
theorem frbase_mem : (s.frbase p v).mem = ((s.part p).ring.rebase s.mem (bits v.toNat 51 12 * 2 ^ 12)).1 := rfl

theorem frbase_ring (hparts : twf {} s.parts = true) :
    ((s.frbase p v).part p).ring = ((s.part p).ring.rebase s.mem (bits v.toNat 51 12 * 2 ^ 12)).2 :=
  congrArg Part.ring (tget_tput_self hparts p _)

/-- A write of FRTAIL changes memory and the ring as the ring's own tail does (R267). -/
theorem frtail_of_reclaim {m : Mem} {x : FRing} (h : (s.part p).ring.reclaim s.mem (v.setWidth 32) = (m, x)) :
    s.frtail p v = ({ s with mem := m } : State).setPart p { s.part p with ring := x } := by
  unfold State.frtail
  dsimp only
  rw [h]

theorem frtail_mem : (s.frtail p v).mem = ((s.part p).ring.reclaim s.mem (v.setWidth 32)).1 := rfl

theorem frtail_ring (hparts : twf {} s.parts = true) :
    ((s.frtail p v).part p).ring = ((s.part p).ring.reclaim s.mem (v.setWidth 32)).2 :=
  congrArg Part.ring (tget_tput_self hparts p _)

end

/-- The registers of rings: each write by what the ring's base or tail does, nothing where no register answers (R424, R427). -/
theorem faultRingRegisters : FaultRingRegisters := by
  intro s p v r l cleared within hparts
  have hrun (hlive : s.deaf = false) (t : State) : Host.Outcome.next (s.hosted t) = (.next t : Host.Outcome State Fault Refusal) :=
    congrArg Host.Outcome.next (hosted_of_not_deaf hlive t)
  refine ⟨fun hdeaf i hi => ?deaf, fun hlive => ⟨fun hheld => ?frbase, fun hheld hin hsize => ?frtail, fun hout => ?frbeyond,
    fun hheld => ?dlbase, fun hheld hin hsize => ?dltail, fun hout => ?dlbeyond⟩⟩
  case deaf =>
    simp only [List.mem_cons, List.not_mem_nil, or_false] at hi
    rcases hi with rfl | rfl | rfl | rfl <;> exact congrArg Host.Outcome.next (hosted_of_deaf hdeaf _)
  case frbase =>
    have hring := rebase_of_empty hheld s.mem (bits v.toNat 51 12 * 2 ^ 12)
    exact ⟨s.frbase p v, hrun hlive _, frbase_mem.trans (congrArg Prod.fst hring), (frbase_ring hparts).trans (congrArg Prod.snd hring)⟩
  case frtail =>
    have hring := reclaim_within (m := s.mem) hheld hin hsize
    refine ⟨s.frtail p v, hrun hlive _, (frtail_ring hparts).trans (congrArg Prod.snd hring), fun g => ?_⟩
    rw [frtail_mem, hring]
    exact clearRecords_spec r s.mem _ g
  case frbeyond =>
    have hring : r.reclaim s.mem (v.setWidth 32) = (s.mem, r) := reclaim_beyond hout
    exact (hrun hlive (s.frtail p v)).trans (congrArg Host.Outcome.next (frtail_of_reclaim hring))
  case dlbase =>
    have hring := rebase_of_empty hheld s.mem (bits v.toNat 51 3 * 8)
    refine ⟨s.dlbase v, hrun hlive _, congrArg Prod.fst hring, ?_⟩
    exact congrArg (fun x => { s.sys with dlog := x }) (congrArg Prod.snd hring)
  case dltail =>
    have hring := reclaim_within (m := s.mem) hheld hin hsize
    refine ⟨s.dltail v, hrun hlive _, congrArg (fun x => { s.sys with dlog := x }) (congrArg Prod.snd hring), fun g => ?_⟩
    unfold State.dltail
    rw [hring]
    exact clearRecords_spec l s.mem _ g
  case dlbeyond =>
    have hring : l.reclaim s.mem (v.setWidth 32) = (s.mem, l) := reclaim_beyond hout
    exact (hrun hlive (s.dltail v)).trans (congrArg (fun x => Host.Outcome.next (s.setLog x)) hring)

end Sys2Proof.Faults
end

section
/-! O52, suspension and resumption: a data task that takes a suspend-and-save fault, and the write of FRESUME that names its record
(R257, R267 to R269). -/

namespace Sys2Proof.Faults

open Sys2Proof Sys2Proof.Machine Sys2Proof.Claims Sys2Proof.Laws Sys2Proof.Organisation Sys2Proof.Tasks

/-! ### Requests withdrawn (R257) -/

/-- A slot with the tokens of several waiting requests given back. -/
def untakeAll (ws : List Waiter) (x : Slot) : Slot := ws.foldl (fun x w => x.untake w.took) x

/-- Tokens given back change the input ports alone. -/
theorem untakeAll_eq (ws : List Waiter) (x : Slot) : untakeAll ws x = { x with ins := (untakeAll ws x).ins } := by
  induction ws generalizing x with
  | nil => rfl
  | cons w ws ih => exact ih (x.untake w.took)

theorem untakeAll_st (ws : List Waiter) (x : Slot) : (untakeAll ws x).st = x.st := (congrArg Slot.st (untakeAll_eq ws x) :)
theorem untakeAll_prt (ws : List Waiter) (x : Slot) : (untakeAll ws x).prt = x.prt := (congrArg Slot.prt (untakeAll_eq ws x) :)
theorem untakeAll_ctl (ws : List Waiter) (x : Slot) : (untakeAll ws x).ctl = x.ctl := (congrArg Slot.ctl (untakeAll_eq ws x) :)

/-- The tokens of one request stand at the heads of their ports again. -/
theorem untakeAll_one (w : Waiter) (x : Slot) (k : Fin 8) : (untakeAll [w] x).ins[k].queue = w.took.getD k [] ++ x.ins[k].queue := by
  show (Vector.ofFn (fun k : Fin 8 => x.ins[k].untake (w.took.getD k.val [])))[k.val].queue = _
  rw [Vector.getElem_ofFn]
  rfl

/-- The requests of the slot in focus withdrawn: its tokens are back, and no other slot has changed. -/
theorem withdraw_own {s : State} (htask : s.slot.st ≠ .noTask) : s.withdraw s.slot.place =
    { s with slot := untakeAll (s.mem.waits.filter (fun w => w.place == s.slot.place)) s.slot,
             mem := { s.mem with waits := s.mem.waits.filter (fun w => w.place != s.slot.place) } } := by
  have key (c : Coord) (ws : List Waiter) (t : State) (hat : t.slot.at c = true) :
      ws.foldl (fun s w => s.updSlot c (fun x => x.untake w.took)) t = { t with slot := untakeAll ws t.slot } := by
    induction ws generalizing t with
    | nil => rfl
    | cons w ws ih =>
      rw [List.foldl_cons, updSlot_at t hat]
      exact ih _ hat
  unfold State.withdraw
  dsimp only
  rw [key _ _ s (by simp [Slot.at, htask])]

/-! ### The record written (R267) -/

@[simp] theorem physPut_present (m : Mem) (pa : Nat) (bs : List Byte) : (m.physPut pa bs).present = m.present := rfl
@[simp] theorem physPut_waits (m : Mem) (pa : Nat) (bs : List Byte) : (m.physPut pa bs).waits = m.waits := rfl

/-- The write of a granule moves no request to another place. -/
theorem woPut_places (m : Mem) (g v : Nat) : (m.woPut g v).waits.map Waiter.place = m.waits.map Waiter.place := by
  show (m.waits.map _).map Waiter.place = _
  rw [List.map_map]
  refine List.map_congr_left (fun w _ => ?_)
  show Waiter.place (if _ then w.ldpDone _ v else w) = w.place
  split
  · unfold Waiter.ldpDone
    split <;> rfl
  · rfl

/-- A record that finds the ring free is written at its head. -/
theorem emit_of_free {s : State} {p : Nat} (hfree : RingFree s p) (x : FRec) :
    s.emit p x = ({ s with mem := ((s.part p).ring.write s.mem (s.part p).ring.head x).1 } : State).setPart p
      { s.part p with ring := { (s.part p).ring with head := (s.part p).ring.head + 1 } } := by
  rw [emit_eq, take_of_free hfree.1 hfree.2]
  rfl

theorem write_places (r : FRing) (m : Mem) (seq : Word) (x : FRec) :
    (r.write m seq x).1.waits.map Waiter.place = m.waits.map Waiter.place := by
  have key (g v : Nat → Nat) (is : List Nat) (m : Mem) :
      (is.foldl (fun m i => m.woPut (g i) (v i)) m).waits.map Waiter.place = m.waits.map Waiter.place := by
    induction is generalizing m with
    | nil => rfl
    | cons i is ih => exact (ih _).trans (woPut_places m _ _)
  exact key _ _ _ m

/-! ### Suspend-and-save (R269) -/

/-- The slot of a data task that a suspend-and-save fault leaves, its record numbered `seq`. -/
def suspendedSlot (s : State) (seq : Word) : Slot :=
  { untakeAll (s.mem.waits.filter (fun w => w.place == s.slot.place)) s.slot with st := .suspended, busy := false, faultSeq := some seq }

/-- A state whose slot's requests are withdrawn and whose registers are written back: the slot leaves the issue choice. -/
def markSuspended (u : State) (seq : Word) : State :=
  { u with slot := { u.slot with st := .suspended, busy := false, faultSeq := some seq } }

/-- A data task suspended has no register to write back: after its requests are withdrawn its frame is written and its record sent. -/
theorem suspend_after_withdraw {s u : State} {p : Nat} {seq : Word} (f : Flt) (hu : s.withdraw s.slot.place = u)
    (hctl : u.slot.ctl = false) (hp : u.slot.prt = p) (hseq : (u.part p).ring.nextSeq = seq) :
    s.suspend f = ({ markSuspended u seq with
        mem := u.mem.physPut ((u.part p).frmbase + 512 * coordNum u.slot.id) ((markSuspended u seq).frameBytes seq f) } : State).emit p
      (u.slotRec f) := by
  subst hp hseq
  have hdata : (if u.slot.ctl then u.spillAll u.slot.vcache else u) = u := if_neg (by simp [hctl])
  unfold State.suspend
  rw [hu]
  extract_lets u1 u2 q seq r u3 u4
  have h2 : u2 = u := hdata
  clear_value u2
  subst h2
  rfl

theorem nextSeq_of_empty {r : FRing} (hheld : r.held = []) : r.nextSeq = r.head := by
  rw [FRing.nextSeq, hheld]
  exact BitVec.add_zero _

theorem suspend_data {s : State} (f : Flt) (hctl : s.slot.ctl = false) (htask : s.slot.st ≠ .noTask)
    (hheld : (s.part s.slot.prt).ring.held = []) :
    ∃ m x, s.suspend f = ({ s with slot := suspendedSlot s (s.part s.slot.prt).ring.head, mem := m } : State).emit s.slot.prt x ∧
      m.present = s.mem.present ∧ m.waits = s.mem.waits.filter (fun w => w.place != s.slot.place) := by
  rw [suspend_after_withdraw f (withdraw_own htask) ((untakeAll_ctl _ _).trans hctl) (untakeAll_prt _ _) (nextSeq_of_empty hheld)]
  exact ⟨_, _, rfl, physPut_present _ _ _, physPut_waits _ _ _⟩

/-- What a suspend-and-save fault of a data task leaves when the ring is free: the slot, the ring one record further, memory with that
record, and the answers of other packages that stand. -/
theorem raise_suspends {s : State} {f : Flt} {p : Nat} (hclass : fltClass f.code = 0) (hctl : s.slot.ctl = false)
    (htask : s.slot.st ≠ .noTask) (hp : s.slot.prt = p) (hfree : RingFree s p) :
    ∃ m h, s.raise f = ({ s with slot := suspendedSlot s (s.part p).ring.head, mem := m, hvReplies := h } : State).setPart p
        { s.part p with ring := { (s.part p).ring with head := (s.part p).ring.head + 1 } } ∧
      (∀ i, i < 8 → m.isPresent ((s.part p).ring.slotPa (s.part p).ring.head / 8 + i) = true) ∧
      ∀ w ∈ m.waits, w.place ≠ s.slot.place := by
  subst hp
  obtain ⟨hheld, hblocked⟩ := hfree
  obtain ⟨m, x, hsuspend, hpresent, hwaits⟩ := suspend_data (s := s.hvFresh s.slotCtx) f hctl htask hheld
  have hunblocked : (s.part s.slot.prt).ring.blocked m (s.part s.slot.prt).ring.head = false := by
    rw [FRing.blocked, Mem.isPresent, hpresent]
    exact hblocked
  refine ⟨((s.part s.slot.prt).ring.write m (s.part s.slot.prt).ring.head x).1, (s.hvFresh s.slotCtx).hvReplies, ?_,
    fun i hi => write_present _ _ _ _ hi, fun w hw => ?_⟩
  · rw [raise_suspend hclass, hsuspend]
    exact emit_of_free (s := { s.hvFresh s.slotCtx with slot := _, mem := m }) ⟨hheld, hunblocked⟩ x
  · have hplace : w.place ∈ m.waits.map Waiter.place := by
      rw [← write_places]
      exact List.mem_map_of_mem hw
    rw [hwaits] at hplace
    obtain ⟨w', hw', heq⟩ := List.mem_map.mp hplace
    rw [← heq]
    exact bne_iff_ne.mp (List.mem_filter.mp hw').2

/-! ### FRESUME (R268) -/

/-- A slot as the write of FRESUME with a number leaves it. -/
def resumedBy (p : Nat) (seq : Word) (x : Slot) : Slot :=
  if x.prt == p && x.st == .suspended && x.faultSeq == some seq then { x with st := .firing, faultSeq := none, resume := false } else x

/-- FRESUME where no record is held back and no saved forme waits: the tasks alone are looked through. -/
theorem fresume_of_plain {s : State} {p : Nat} (hheld : (s.part p).ring.held = []) (hrestore : (s.part p).restore = none) (hlqs : s.lqs = [])
    (v : Dword) : s.fresume p v = s.mapSlots (resumedBy p (v.setWidth 32)) := by
  have htask : s.resumeTask p (v.setWidth 32) = s.mapSlots (resumedBy p (v.setWidth 32)) := by
    unfold State.resumeTask
    rw [hheld]
    rfl
  have hkept : (s.mapSlots (resumedBy p (v.setWidth 32))).resumeKept p (v.setWidth 32) = s.mapSlots (resumedBy p (v.setWidth 32)) := by
    unfold State.resumeKept
    rw [show (s.mapSlots (resumedBy p (v.setWidth 32))).lqs = [] from hlqs]
    rfl
  have hnone : ((s.mapSlots (resumedBy p (v.setWidth 32))).part p).restore = none := hrestore
  unfold State.fresume
  dsimp only
  rw [htask, hkept, hnone]

/-- The suspended slot's own number, and no other, makes it issue again. -/
theorem resumedBy_self (p : Nat) (seq : Word) (x : Slot) (hp : x.prt = p) :
    resumedBy p seq { x with st := .suspended, busy := false, faultSeq := some seq } =
      { x with st := .firing, busy := false, faultSeq := none, resume := false } := if_pos (by simp [hp])

theorem resumedBy_other {p : Nat} {seq n : Word} (x : Slot) (hn : n ≠ seq) (hseq : x.faultSeq = some seq) : resumedBy p n x = x :=
  if_neg (by simp [hseq, hn.symm])

/-- A fault of a data task and the return from it (R257, R267 to R269). -/
theorem suspendAndResume : SuspendAndResume := by
  intro s f v p seq own x hclass hctl hfiring hfree hparts t
  have htask : s.slot.st ≠ .noTask := by simp [hfiring]
  obtain ⟨m, h, ht, hpresent, hwaits⟩ := raise_suspends hclass hctl htask rfl hfree
  have hpart : t.part p = { s.part p with ring := { (s.part p).ring with head := seq + 1 } } := by
    show (s.raise f).part p = _
    rw [ht]
    exact part_setPart_self _ (by exact hparts) p _
  have hx : x.st = .firing := (untakeAll_st own s.slot).trans hfiring
  have hslot : t.slot = { x with st := .suspended, busy := false, faultSeq := some seq } := (congrArg State.slot ht :)
  have hothers : t.others = s.others := (congrArg State.others ht :)
  have hdeaf : t.deaf = s.deaf := (congrArg State.deaf ht :)
  refine ⟨hslot, ?issue, fun hnone => ?none, fun w hone k => ?one, by rw [hpart], by rw [hpart]; exact hfree.1,
    (congrArg State.pes ht :), hothers, fun i hi => ?present, fun w hw => ?waits, fun hd => ?deaf, fun hlive hno hrestore hlqs => ?resumed⟩
  case issue => rw [State.canIssue, hslot]; rfl
  case none => exact congrArg (fun ws => untakeAll ws s.slot) hnone
  case one =>
    have hx1 : x = untakeAll [w] s.slot := congrArg (fun ws => untakeAll ws s.slot) hone
    rw [hx1]
    exact ⟨untakeAll_one w s.slot k, rfl, rfl⟩
  case present =>
    rw [show t.mem = m from congrArg State.mem ht]
    exact hpresent i hi
  case waits => exact hwaits w (by rw [← show t.mem = m from congrArg State.mem ht]; exact hw)
  case deaf => exact congrArg Host.Outcome.next (hosted_of_deaf (hdeaf.trans hd) _)
  case resumed =>
    have hrun : exec (.fresumeWrite p v) t = .next (t.mapSlots (resumedBy p (v.setWidth 32))) := by
      refine (congrArg Host.Outcome.next (hosted_of_not_deaf (hdeaf.trans hlive) (t.fresume p v))).trans (congrArg Host.Outcome.next ?_)
      exact fresume_of_plain (by rw [hpart]; exact hfree.1) (by rw [hpart]; exact hrestore) ((congrArg State.lqs ht :).trans hlqs) v
    have hslots : t.mapSlots (resumedBy p (v.setWidth 32)) = { t with slot := resumedBy p (v.setWidth 32) t.slot } := by
      rw [State.mapSlots, hothers, hno, List.map_nil, ← hno, ← hothers]
    rw [hrun, hslots]
    refine ⟨fun heq => ?_, fun hne => ?_⟩
    · rw [heq, hslot, resumedBy_self p seq x (untakeAll_prt own s.slot), ← hx]
    · rw [hslot, resumedBy_other _ hne rfl, ← hslot]

/-- Settles O52, from the fault of a data task with its return, and from the registers of rings. -/
theorem suspensionAndFaultRings : Obligations.SuspensionAndFaultRings := ⟨suspendAndResume, faultRingRegisters⟩

end Sys2Proof.Faults
end

section
/-! O53, errors of units: an error counted, its words poisoned, the eighth within a second, and UNFENCE (R277, R278, R418, R429). -/

namespace Sys2Proof.Faults

open Sys2Proof Sys2Proof.Machine Sys2Proof.Claims Sys2Proof.Laws Sys2Proof.Organisation Sys2Proof.Tasks

/-! ### Poisoned words (R277) -/

/-- Words marked in a table are marked, whatever was there. -/
theorem tget_mark (a : Nat) (ws : List Nat) (t : Tbl Bool) {w : Nat} (h : w ∈ ws ∨ tget false t (a + w) = true) :
    tget false (ws.foldl (fun t w => tput false t (a + w) true) t) (a + w) = true := by
  induction ws generalizing t with
  | nil => exact h.resolve_left List.not_mem_nil
  | cons v ws ih =>
    refine ih _ ?_
    by_cases hv : w = v
    · subst hv
      exact .inr (tget_tput_of_ne_default _ _ (by decide))
    · rw [tget_tput_of_ne _ (by omega)]
      exact h.imp_left (fun hmem => (List.mem_cons.mp hmem).resolve_left hv)

/-- A record sent poisons no word and heals none. -/
theorem take_badWord (r : FRing) (m : Mem) (x : FRec) : (r.take m x).1.badWord = m.badWord := by
  have hputs (g v : Nat → Nat) (is : List Nat) (m : Mem) : (is.foldl (fun m i => m.woPut (g i) (v i)) m).badWord = m.badWord := by
    induction is generalizing m with
    | nil => rfl
    | cons i is ih => exact ih _
  unfold FRing.take
  split
  · exact hputs _ _ _ m
  · split <;> rfl

/-! ### Units fenced (R278) -/

section
variable {s : State} {u p : Nat}

/-- A unit's state that counts an error or a fence is read back, whatever the order of the table. -/
theorem unitSt_setUnitSt {x : UnitSt} (hx : x ≠ {}) : (s.setUnitSt u x).unitSt u = x := tget_tput_of_ne_default _ _ hx

/-- A partition does not have the unit taken from it. -/
theorem without_has (q : Part) : (q.without u).has u = false := by
  unfold Part.without Part.has
  dsimp only
  split
  · rw [Vector.getElem_set_self, BitVec.getLsbD_and, BitVec.getLsbD_not, BitVec.getLsbD_shiftLeft]
    simp
  · rfl

theorem evict_idle (h : (s.part p).phase = .idle) : s.evict p = s := by
  unfold State.evict
  rw [h]

/-- A partition without a forme loses a fenced unit at once. -/
theorem fence_held (hparts : twf {} s.parts = true) (hholder : s.holder u = some p) (hidle : (s.part p).phase = .idle) :
    ∃ x, let t := (s.emitDev (s.notice u 0x14 0)).emit p x
      s.fence u = (t.setPart p ((t.part p).without u)).setUnitSt u { s.unitSt u with fenced := true } := by
  have hphase (n x : FRec) : (((s.emitDev n).emit p x).part p).phase = .idle := by
    rw [part_emit, tget_tput_self (by exact hparts)]
    exact hidle
  unfold State.fence
  dsimp only
  rw [show (s.emitDev (s.notice u 0x14 0)).holder u = some p from hholder]
  dsimp only
  rw [evict_idle (hphase _ _), ite_self]
  exact ⟨_, rfl⟩

theorem fence_free (hholder : s.holder u = none) :
    s.fence u = (s.emitDev (s.notice u 0x14 0)).setUnitSt u { s.unitSt u with fenced := true } := by
  unfold State.fence
  dsimp only
  rw [show (s.emitDev (s.notice u 0x14 0)).holder u = none from hholder]
  rfl

end

/-- What a fence leaves of its unit and of the poisoned words, and that no partition without a forme holds the unit then (R278). -/
theorem fence_spec {s : State} {u : Nat} (hparts : twf {} s.parts = true) (hidle : ∀ p, s.holder u = some p → (s.part p).phase = .idle) :
    (s.fence u).unitSt u = { s.unitSt u with fenced := true } ∧ (s.fence u).mem.badWord = s.mem.badWord ∧
      ∀ p, s.holder u = some p → ((s.fence u).part p).has u = false := by
  have hne : ({ s.unitSt u with fenced := true } : UnitSt) ≠ {} := fun h => nomatch congrArg UnitSt.fenced h
  cases hholder : s.holder u with
  | none =>
    rw [fence_free hholder]
    exact ⟨unitSt_setUnitSt hne, take_badWord _ _ _, fun p hp => nomatch hp⟩
  | some p =>
    obtain ⟨x, hfence⟩ := fence_held hparts hholder (hidle p hholder)
    rw [hfence]
    refine ⟨unitSt_setUnitSt hne, (take_badWord _ _ _).trans (take_badWord _ _ _), fun r hr => ?_⟩
    obtain rfl : p = r := Option.some.inj hr
    show (State.part (State.setPart _ p _) p).has u = false
    rw [part_setPart_self _ (twf_tput hparts _ _)]
    exact without_has _

/-! ### Errors counted (R278) -/

/-- An error counted at its unit, its words poisoned and its notice sent, before any fence. -/
def counted (s : State) (u : Nat) (words : List Nat) (es : List Nat) : State :=
  let s := s.setUnitSt u { s.unitSt u with errors := es }
  let bad := if u < 768 then words.filter (fun w => w < 2 ^ 19) else []
  let s : State := { s with mem := { s.mem with badWord := bad.foldl (fun t w => tput false t (spAddr u 0 / 4 + w) true) s.mem.badWord } }
  s.emitDev (s.notice u 0x13 es.length)

theorem unitError_eq (s : State) (u : Nat) (words es : List Nat)
    (hes : es = (s.unitSt u).errors.filter (fun e => s.timer.toNat < e + 16 * 10 ^ 9) ++ [s.timer.toNat]) :
    s.unitError u words = if 8 ≤ es.length && !(s.unitSt u).fenced then (counted s u words es).fence u else counted s u words es := by
  subst hes
  rfl

theorem counted_unitSt {s : State} {u : Nat} {words es : List Nat} (hes : es ≠ []) :
    (counted s u words es).unitSt u = { s.unitSt u with errors := es } :=
  unitSt_setUnitSt (s := s) (fun h => hes (congrArg UnitSt.errors h))

theorem counted_badWord {s : State} {u w : Nat} {words es : List Nat} (hw : w ∈ words) (hu : u < 768) (hlt : w < 2 ^ 19) :
    tget false (counted s u words es).mem.badWord (spAddr u 0 / 4 + w) = true := by
  rw [show (counted s u words es).mem.badWord = _ from take_badWord _ _ _, if_pos hu]
  exact tget_mark _ _ _ (.inl (List.mem_filter.mpr ⟨hw, decide_eq_true hlt⟩))

/-- The first part of the statement: either the error is the eighth of a unit not fenced, or it is counted alone. -/
theorem unitError_spec {s : State} {u : Nat} {words es : List Nat} (hparts : twf {} s.parts = true)
    (hidle : ∀ p, s.holder u = some p → (s.part p).phase = .idle)
    (hes : es = (s.unitSt u).errors.filter (fun e => s.timer.toNat < e + 16 * 10 ^ 9) ++ [s.timer.toNat]) :
    ((s.unitError u words).unitSt u).errors = es ∧
      (∀ w ∈ words, u < 768 → w < 2 ^ 19 → tget false (s.unitError u words).mem.badWord (spAddr u 0 / 4 + w) = true) ∧
      (es.length < 8 → ((s.unitError u words).unitSt u).fenced = (s.unitSt u).fenced) ∧
      (8 ≤ es.length → ((s.unitError u words).unitSt u).fenced = true) ∧
      (8 ≤ es.length → (s.unitSt u).fenced = false → ∀ p, s.holder u = some p → ((s.unitError u words).part p).has u = false) := by
  have hunit := counted_unitSt (s := s) (u := u) (words := words) (es := es) (by simp [hes])
  rw [unitError_eq s u words es hes]
  by_cases hfence : (8 ≤ es.length && !(s.unitSt u).fenced) = true
  · obtain ⟨height, -⟩ : 8 ≤ es.length ∧ (s.unitSt u).fenced = false := by simpa using hfence
    obtain ⟨hfenced, hbad, hlost⟩ := fence_spec (s := counted s u words es) (u := u) hparts hidle
    rw [if_pos hfence, hfenced, hunit, hbad]
    exact ⟨rfl, fun w hw hu hlt => counted_badWord hw hu hlt, fun hlt => absurd height (Nat.not_le.mpr hlt), fun _ => rfl,
      fun _ _ p hp => hlost p hp⟩
  · have hwas : 8 ≤ es.length → (s.unitSt u).fenced = true := by simpa using hfence
    rw [if_neg hfence, hunit]
    exact ⟨rfl, fun w hw hu hlt => counted_badWord hw hu hlt, fun _ => rfl, hwas,
      fun height hnot => nomatch (hwas height).symm.trans hnot⟩

/-! ### UNFENCE (R429) -/

section
variable {s : State} {v : Dword}

theorem unfence_of (h : (s.unitSt (v.toNat % 1024)).fenced = true) (ha : (s.unitSt (v.toNat % 1024)).absent = false) :
    s.unfence v = s.setUnitSt (v.toNat % 1024) { s.unitSt (v.toNat % 1024) with fenced := false, errors := [] } := if_pos (by simp [h, ha])

theorem unfence_ignored (h : (s.unitSt (v.toNat % 1024)).fenced = false ∨ (s.unitSt (v.toNat % 1024)).absent = true) :
    s.unfence v = s := if_neg (by rcases h with h | h <;> simp [h])

end

/-- Errors of units, with the fence that the eighth brings, and the return of a fenced unit (R277, R278, R429). -/
theorem unitErrorsFence : UnitErrorsFence := by
  constructor
  · intro s u words now es hidle hparts
    exact ⟨s.unitError u words, rfl, unitError_spec hparts hidle rfl⟩
  · intro s v u
    refine ⟨fun hdeaf => congrArg Host.Outcome.next (hosted_of_deaf hdeaf _), fun hlive hf ha hunits => ?back, fun hkeep => ?ignored⟩
    case back =>
      refine ⟨s.unfence v, congrArg Host.Outcome.next (hosted_of_not_deaf hlive _), ?_⟩
      rw [unfence_of hf ha]
      exact tget_tput_self hunits _ _
    case ignored =>
      refine congrArg Host.Outcome.next ?_
      rw [unfence_ignored hkeep, State.hosted, ite_self]

end Sys2Proof.Faults
end

section
/-! O53, a VF reset: its partitions stopped and freed, its queues returned, the lines and translations of its contexts dropped (R280). -/

namespace Sys2Proof.Faults

open Sys2Proof Sys2Proof.Machine Sys2Proof.Claims Sys2Proof.Laws Sys2Proof.Organisation Sys2Proof.Tasks

/-! ### Lines and translations dropped (R280, steps 3 and 4) -/

/-- No cache line and no translation of context `c` is left. -/
structure CtxFree (c : Nat) (m : Mem) : Prop where
  l1 : ∀ x ∈ m.l1, x.ctx ≠ c
  l2 : ∀ x ∈ m.l2, x.ctx ≠ c
  mtTlb : ∀ p ∈ m.mtTlb, ∀ e ∈ p.2, e.ctx ≠ c
  dieTlb : ∀ p ∈ m.dieTlb, ∀ e ∈ p.2, e.ctx ≠ c

/-- What a TLB holds is listed in its table. -/
theorem mem_tlb {t : Tbl (List Tlbe)} {u : Nat} {e : Tlbe} (h : e ∈ tget [] t u) : ∃ p ∈ t, e ∈ p.2 :=
  ⟨(u, tget [] t u), mem_of_tget_ne (List.ne_nil_of_mem h), h⟩

/-- The translations left by a drop are among those of before, and none is of the context. -/
theorem mem_dropTlb {t : Tbl (List Tlbe)} {d : Nat} {p : Nat × List Tlbe}
    (h : p ∈ (t.map (fun q => (q.1, q.2.filter (fun e => e.ctx != d)))).filter (fun q => !q.2.isEmpty)) :
    ∃ q ∈ t, ∀ e ∈ p.2, e ∈ q.2 ∧ e.ctx ≠ d := by
  obtain ⟨q, hq, rfl⟩ := List.mem_map.mp (List.mem_filter.mp h).1
  exact ⟨q, hq, fun e he => ⟨(List.mem_filter.mp he).1, bne_iff_ne.mp (List.mem_filter.mp he).2⟩⟩

theorem ctxFree_dropCtx (m : Mem) (c : Nat) : CtxFree c (m.dropCtx c) where
  l1 _ hx := bne_iff_ne.mp (List.mem_filter.mp hx).2
  l2 _ hx := bne_iff_ne.mp (List.mem_filter.mp hx).2
  mtTlb _ hp e he := by
    obtain ⟨_, -, hq⟩ := mem_dropTlb hp
    exact (hq e he).2
  dieTlb _ hp e he := by
    obtain ⟨_, -, hq⟩ := mem_dropTlb hp
    exact (hq e he).2

/-- A context whose lines are gone gets none back when another's are dropped. -/
theorem CtxFree.dropCtx {m : Mem} {c : Nat} (h : CtxFree c m) (d : Nat) : CtxFree c (m.dropCtx d) where
  l1 x hx := h.l1 x (List.mem_filter.mp hx).1
  l2 x hx := h.l2 x (List.mem_filter.mp hx).1
  mtTlb _ hp e he := by
    obtain ⟨q, hq, hall⟩ := mem_dropTlb hp
    exact h.mtTlb q hq e (hall e he).1
  dieTlb _ hp e he := by
    obtain ⟨q, hq, hall⟩ := mem_dropTlb hp
    exact h.dieTlb q hq e (hall e he).1

/-- The lines and translations of several contexts dropped. -/
def dropCtxs (cs : List Nat) (m : Mem) : Mem := cs.foldl Mem.dropCtx m

theorem ctxFree_dropCtxs {c : Nat} (cs : List Nat) (m : Mem) (h : c ∈ cs ∨ CtxFree c m) : CtxFree c (dropCtxs cs m) := by
  induction cs generalizing m with
  | nil => exact h.resolve_left List.not_mem_nil
  | cons d cs ih =>
    refine ih _ ?_
    rcases h with hmem | hfree
    · rcases List.mem_cons.mp hmem with rfl | htail
      · exact .inr (ctxFree_dropCtx m c)
      · exact .inl htail
    · exact .inr (hfree.dropCtx d)

/-- Lines dropped leave HBM, and bring no line into an L1. -/
theorem dropCtxs_frame (cs : List Nat) (m : Mem) : (dropCtxs cs m).hbm = m.hbm ∧ ∀ x ∈ (dropCtxs cs m).l1, x ∈ m.l1 := by
  induction cs generalizing m with
  | nil => exact ⟨rfl, fun _ hx => hx⟩
  | cons d cs ih =>
    obtain ⟨hhbm, hl1⟩ := ih (m.dropCtx d)
    exact ⟨hhbm, fun x hx => (List.mem_filter.mp (hl1 x hx)).1⟩

/-- L1s that hold only lines of the contexts are empty after the drop. -/
theorem dropCtxs_l1_nil {cs : List Nat} {m : Mem} (h : ∀ x ∈ m.l1, x.ctx ∈ cs) : (dropCtxs cs m).l1 = [] := by
  refine List.eq_nil_iff_forall_not_mem.mpr (fun x hx => ?_)
  exact (ctxFree_dropCtxs cs m (.inl (h x ((dropCtxs_frame cs m).2 x hx)))).l1 x hx rfl

/-! ### The table of partitions stays canonical -/

/-- An event leaves a partition that differs from an unused one so: only a partition with a launch queues it. -/
theorem event_ne_default {q : Part} (h : q ≠ {}) (kind : Nat) : q.event kind ≠ {} := by
  unfold Part.event
  split
  · exact h
  · rename_i l hl
    have hlaunch {r : Part} (hr : r.launch = some l) : r ≠ {} := fun he => nomatch hr.symm.trans (congrArg Part.launch he)
    split
    · exact h
    · split
      · exact hlaunch hl
      · exact hlaunch hl

/-- Values mapped to values other than the default keep a table canonical. -/
theorem twfFrom_map {α : Type} [DecidableEq α] {d : α} {f : Nat × α → α} (hf : ∀ p, p.2 ≠ d → f p ≠ d) {t : Tbl α} {lo : Nat}
    (h : twfFrom d lo t = true) : twfFrom d lo (t.map (fun p => (p.1, f p))) = true := by
  induction t generalizing lo with
  | nil => rfl
  | cons p t ih =>
    simp only [twfFrom, List.map_cons, Bool.and_eq_true, decide_eq_true_eq, bne_iff_ne] at h ⊢
    obtain ⟨⟨hlo, hne⟩, htail⟩ := h
    exact ⟨⟨hlo, hf p hne⟩, ih htail⟩

section
variable {s : State}

theorem twf_parts_chargeNj (h : twf {} s.parts = true) (c n : Nat) : twf {} (s.chargeNj c n).parts = true := by
  unfold State.chargeNj
  dsimp only
  split
  · have hmap : (fun kp : Nat × Part => if kp.2.ctx == c then (kp.1, kp.2.event 4) else kp) =
        fun kp => (kp.1, if kp.2.ctx == c then kp.2.event 4 else kp.2) := by
      funext kp
      split <;> rfl
    rw [hmap]
    refine twfFrom_map (fun p hp => ?_) h
    split
    · exact event_ne_default hp 4
    · exact hp
  · exact h

theorem twf_parts_charge (h : twf {} s.parts = true) (c cls n : Nat) : twf {} (s.charge c cls n).parts = true := by
  unfold State.charge
  dsimp only
  split
  · exact h
  · exact twf_parts_chargeNj (by exact h) _ _

/-- Steps that keep the table of partitions canonical, taken in turn, keep it so. -/
theorem twf_parts_foldl {β : Type} {f : State → β → State} (hf : ∀ t x, twf {} t.parts = true → twf {} (f t x).parts = true)
    (xs : List β) (h : twf {} s.parts = true) : twf {} (xs.foldl f s).parts = true := by
  induction xs generalizing s with
  | nil => exact h
  | cons x xs ih => exact ih (hf s x h)

theorem twf_parts_postSlots (h : twf {} s.parts = true) (xs : List Slot) :
    twf {} (xs.foldl (fun s x => s.postSlot x) s).parts = true :=
  twf_parts_foldl (fun _ x ht => twf_parts_foldl (fun _ _ hu => twf_parts_charge hu _ _ _) x.owed ht) xs h

theorem twf_parts_stopPart (h : twf {} s.parts = true) (p : Nat) : twf {} (s.stopPart p).parts = true := by
  obtain ⟨m, m', x, heq⟩ := stopPart_eq s p
  rw [heq]
  exact twf_tput (twf_parts_postSlots (s := { s with mem := m }) h _) _ _

end

/-! ### Partitions stopped and freed (R280, steps 1 and 2) -/

/-- A partition stopped, with no record and with its imposition given up (R280). -/
def releasePart (s : State) (p : Nat) : State := (s.stopPart p).setPart p ((s.stopPart p).part p).freed

/-- A partition with no forme, no launch and no slot. -/
def Released (p : Nat) (s : State) : Prop := (s.part p).phase = .idle ∧ (s.part p).launch = none ∧ ∀ x ∈ s.slots, x.prt ≠ p

section
variable {s : State} {p : Nat}

theorem twf_parts_releasePart (h : twf {} s.parts = true) (p : Nat) : twf {} (releasePart s p).parts = true :=
  twf_tput (twf_parts_stopPart h p) _ _

theorem released_releasePart (h : twf {} s.parts = true) (p : Nat) : Released p (releasePart s p) := by
  have hpart : (releasePart s p).part p = ((s.stopPart p).part p).freed := part_setPart_self _ (twf_parts_stopPart h p) p _
  exact ⟨congrArg Part.phase hpart, congrArg Part.launch hpart, fun x hx => (mem_slots_stopPart hx).2⟩

/-- A released partition stays so when another is released. -/
theorem Released.release (h : Released p s) (hparts : twf {} s.parts = true) (r : Nat) : Released p (releasePart s r) := by
  by_cases hr : p = r
  · exact hr ▸ released_releasePart hparts p
  · obtain ⟨hphase, hlaunch, hslots⟩ := h
    have hpart : (releasePart s r).part p = (s.stopPart r).part p := part_setPart_of_ne _ hr _
    have hq := quiet_part_stopPart_of_ne s hr
    exact ⟨(congrArg Part.phase hpart).trans ((congrArg Part.phase hq :).trans hphase),
      (congrArg Part.launch hpart).trans ((congrArg Part.launch hq :).trans hlaunch), fun x hx => hslots x (mem_slots_stopPart hx).1⟩

/-- Every partition that a reset goes through is released at its end. -/
theorem released_foldl (ps : List Nat) (s : State) (hparts : twf {} s.parts = true) (h : p ∈ ps ∨ Released p s) :
    Released p (ps.foldl releasePart s) := by
  induction ps generalizing s with
  | nil => exact h.resolve_left List.not_mem_nil
  | cons r ps ih =>
    refine ih _ (twf_parts_releasePart hparts r) ?_
    rcases h with hmem | hs
    · rcases List.mem_cons.mp hmem with rfl | htail
      · exact .inr (released_releasePart hparts _)
      · exact .inl htail
    · exact .inr (hs.release hparts r)

/-- A release leaves the launch queues and the registers of the package. -/
theorem releasePart_frame (s : State) (p : Nat) : (releasePart s p).lqs = s.lqs ∧ (releasePart s p).sys = s.sys := by
  obtain ⟨m, m', x, heq⟩ := stopPart_eq s p
  have hkeep := onlyCharged_postSlots { s with mem := m } (({ s with mem := m } : State).slots.filter (fun x => x.prt == p))
  unfold releasePart
  rw [heq]
  exact ⟨(congrArg State.lqs hkeep.rest :), (congrArg State.sys hkeep.rest :)⟩

theorem releaseParts_frame (ps : List Nat) (s : State) : (ps.foldl releasePart s).lqs = s.lqs ∧ (ps.foldl releasePart s).sys = s.sys := by
  induction ps generalizing s with
  | nil => exact ⟨rfl, rfl⟩
  | cons p ps ih =>
    obtain ⟨hlqs, hsys⟩ := ih (releasePart s p)
    exact ⟨hlqs.trans (releasePart_frame s p).1, hsys.trans (releasePart_frame s p).2⟩

/-- Empty L1s have nothing to write back. -/
theorem l1DropUnits_of_nil {m : Mem} (h : m.l1 = []) (us : List Nat) (sel : Line → Bool) (req : Nat) : m.l1DropUnits us sel req = m := by
  refine List.foldl_fixed' (fun u => ?_) us
  rw [Mem.l1DropAll, h]
  rfl

/-- Partitions released while the L1s are empty leave HBM. -/
theorem releasePart_hbm (h : s.mem.l1 = []) (p : Nat) : (releasePart s p).mem.hbm = s.mem.hbm ∧ (releasePart s p).mem.l1 = [] := by
  have hmem : (releasePart s p).mem = { (s.dropForme p).mem with clears := (s.dropForme p).mem.clears.filter (fun c => c.1 != p) } := by
    show (s.stopPart p).mem = _
    unfold State.stopPart
    rw [l1DropUnits_of_nil h]
    rfl
  rw [hmem, dropForme_mem]
  exact ⟨rfl, h⟩

theorem releaseParts_hbm (ps : List Nat) (s : State) (h : s.mem.l1 = []) : (ps.foldl releasePart s).mem.hbm = s.mem.hbm := by
  induction ps generalizing s with
  | nil => rfl
  | cons p ps ih =>
    obtain ⟨hhbm, hl1⟩ := releasePart_hbm h p
    exact (ih _ hl1).trans hhbm

end

/-! ### Queues returned (R280, step 2) -/

/-- A launch queue returned: every slot from the head on is free, and no imposition is kept. -/
def returned (q : Lq) : Lq := { q with head := q.prod, kept := none }

/-- A slot cleared changes memory alone. -/
theorem clearSlot_eq (s : State) (p va : Nat) : ∃ m, s.clearSlot p va = { s with mem := m } := by
  unfold State.clearSlot
  dsimp only
  split
  · exact ⟨s.mem, rfl⟩
  · split
    · exact ⟨s.mem, rfl⟩
    · rename_i t tr htr
      have hmem (m : Mem) : ({ t with mem := m } : State) = { s with mem := m } := by rw [(translate_frame htr).1]
      exact ⟨_, hmem _⟩

theorem clearSlots_eq (is : List Nat) (p : Nat) (va : Nat → Nat) (s : State) :
    ∃ m, is.foldl (fun s i => s.clearSlot p (va i)) s = { s with mem := m } ∧ (is = [] → m = s.mem) := by
  induction is generalizing s with
  | nil => exact ⟨s.mem, rfl, fun _ => rfl⟩
  | cons i is ih =>
    obtain ⟨m, hm⟩ := clearSlot_eq s p (va i)
    obtain ⟨m', hm', -⟩ := ih { s with mem := m }
    refine ⟨m', ?_, fun h => nomatch h⟩
    rw [List.foldl_cons, hm, hm']

/-- A queue returned changes memory and the queue, and the queue alone when it has no slot to free. -/
theorem returnQueue_eq (s : State) (f n : Nat) : ∃ m, s.returnQueue f n = ({ s with mem := m } : State).setLq f n (returned (s.lq f n)) ∧
    ((s.lq f n).prod = (s.lq f n).head → m = s.mem) := by
  obtain ⟨m, hm, hnil⟩ := clearSlots_eq (List.range (min ((s.lq f n).prod - (s.lq f n).head).toNat (2 ^ (s.lq f n).log2)))
    (s.lq f n).prt (fun i => (s.lq f n).slotVa ((s.lq f n).head + BitVec.ofNat 32 i)) s
  refine ⟨m, ?_, fun h => hnil ?_⟩
  · unfold State.returnQueue
    dsimp only
    rw [hm]
    rfl
  · simp [h]

/-- The first `k` queues of a function returned, the others as they were. -/
theorem returnQueues_eq {s : State} (hlqs : twf {} s.lqs = true) (f k : Nat) :
    ∃ m l, (List.range k).foldl (fun s n => s.returnQueue f n) s = { s with mem := m, lqs := l } ∧ twf {} l = true ∧
      (∀ n, tget {} l (8 * f + n) = if n < k then returned (s.lq f n) else s.lq f n) ∧
      ((∀ n, n < k → (s.lq f n).prod = (s.lq f n).head) → m = s.mem) := by
  induction k with
  | zero => exact ⟨s.mem, s.lqs, rfl, hlqs, fun n => rfl, fun _ => rfl⟩
  | succ k ih =>
    obtain ⟨m, l, hfold, hwf, hread, hmem⟩ := ih
    obtain ⟨m', hret, hempty⟩ := returnQueue_eq { s with mem := m, lqs := l } f k
    have hlast : ({ s with mem := m, lqs := l } : State).lq f k = s.lq f k := (hread k).trans (if_neg (Nat.lt_irrefl k))
    rw [hlast] at hret hempty
    refine ⟨m', tput {} l (8 * f + k) (returned (s.lq f k)), ?_, twf_tput hwf _ _, fun n => ?_, fun h => ?_⟩
    · rw [List.range_succ, List.foldl_append, hfold]
      exact hret
    · rw [tget_tput hwf]
      by_cases hn : n = k
      · subst hn
        rw [if_pos rfl, if_pos (Nat.lt_succ_self n)]
      · rw [if_neg (by omega), hread n]
        simp only [show n < k + 1 ↔ n < k by omega]
    · exact (hempty (h k (Nat.lt_succ_self k))).trans (hmem (fun n hn => h n (Nat.lt_succ_of_lt hn)))

/-! ### The whole reset -/

/-- With no reduction window on, no round is aborted (R280, R422). -/
theorem abortPeers_of_off {s : State} (hoff : ∀ w, (s.rwin w).on = false) (cs : List Nat) : s.abortPeers cs = s := by
  refine List.foldl_fixed' (fun w => if_neg ?_) s.sys.rwins
  simp [State.takesPart, hoff]

/-- The partitions of a function. -/
def partsOf (s : State) (f : Nat) : List Nat := (s.parts.filter (fun q => q.2.fn == f && q.2.en)).map (fun q => q.1)

theorem mem_partsOf {s : State} {f p : Nat} (hen : (s.part p).en = true) (hfn : (s.part p).fn = f) : p ∈ partsOf s f := by
  have hne : s.part p ≠ {} := fun h => nomatch hen.symm.trans (congrArg Part.en h)
  exact List.mem_map.mpr ⟨(p, s.part p), List.mem_filter.mpr ⟨mem_of_tget_ne hne, by simp [hen, hfn]⟩, rfl⟩

/-- The state of a reset once its partitions are released. -/
def releasedState (s : State) (f : Nat) : State :=
  (partsOf s f).foldl releasePart { s with mem := dropCtxs (s.ctxsOf f) s.mem }

/-- The lines, translations, streams and answers of contexts dropped. -/
def forgetCtxs (cs : List Nat) (s : State) : State :=
  { s with mem := dropCtxs cs s.mem, strms := s.strms.filter (fun x => !cs.contains x.ctx),
           hvReplies := s.hvReplies.filter (fun r => !cs.contains r.ctx) }

/-- RSTS.DONE of a function set (R281). -/
def resetDone (f : Nat) (s : State) : State := { s with sys := { s.sys with rsts := tput false s.sys.rsts f true } }

/-- The steps of a reset in their order (R280). -/
theorem resetFn_steps (s : State) (f : Nat) : s.resetFn f =
    resetDone f ((forgetCtxs (s.ctxsOf f) ((List.range 8).foldl (fun s n => s.returnQueue f n) (releasedState s f))).abortPeers
      (s.ctxsOf f)) := by
  unfold State.resetFn
  extract_lets cs s1 ps s2 s3 s4 s5
  have hrel : s2 = releasedState s f := rfl
  have hqueues : s3 = (List.range 8).foldl (fun s n => s.returnQueue f n) s2 := rfl
  have hforget : s4 = forgetCtxs cs s3 := rfl
  clear_value s2 s3
  rw [← hrel, ← hqueues, ← hforget]
  rfl

/-- What a reset leaves where no reduction window is on: the queues are returned, and where none had a launch to return, memory is
that of the release. -/
theorem resetFn_eq {s : State} (f : Nat) (hlqs : twf {} s.lqs = true) (hoff : ∀ w, (s.rwin w).on = false) :
    ∃ m l, s.resetFn f = resetDone f (forgetCtxs (s.ctxsOf f) { releasedState s f with mem := m, lqs := l }) ∧
      (∀ n, n < 8 → tget {} l (8 * f + n) = returned (s.lq f n)) ∧
      ((∀ n, n < 8 → (s.lq f n).prod = (s.lq f n).head) → m = (releasedState s f).mem) := by
  obtain ⟨hrellqs, hrelsys⟩ : (releasedState s f).lqs = s.lqs ∧ (releasedState s f).sys = s.sys := releaseParts_frame _ _
  have hlq (n : Nat) : (releasedState s f).lq f n = s.lq f n := by rw [State.lq, hrellqs, State.lq]
  obtain ⟨m, l, hfold, -, hread, hempty⟩ := returnQueues_eq (s := releasedState s f) (hrellqs ▸ hlqs) f 8
  have hwins (w : Nat) : ((forgetCtxs (s.ctxsOf f) { releasedState s f with mem := m, lqs := l }).rwin w).on = false := by
    show ((releasedState s f).rwin w).on = false
    rw [State.rwin, hrelsys]
    exact hoff w
  refine ⟨m, l, ?_, fun n hn => ?_, fun h => hempty (fun n hn => ?_)⟩
  · rw [resetFn_steps, hfold, abortPeers_of_off hwins]
  · rw [hread, if_pos hn, hlq]
  · rw [hlq]
    exact h n hn

/-- A reset of a function where no reduction window is on (R280). -/
theorem vfResetClearsTheFunction : VfResetClearsTheFunction := by
  intro s f
  refine ⟨fun hdeaf => congrArg Host.Outcome.next (hosted_of_deaf hdeaf _), fun hlive hparts hlqs hoff => ?_⟩
  obtain ⟨m, l, hreset, hqueues, hquiet⟩ := resetFn_eq f hlqs hoff
  refine ⟨s.resetFn f, congrArg Host.Outcome.next (hosted_of_not_deaf hlive _), ?_⟩
  rw [hreset]
  refine ⟨?done, fun p hen hfn => ?parts, fun n hn => ?queues, fun hnone hlines => ?hbm, fun c hc => ?contexts⟩
  case done => exact tget_tput_of_ne_default _ _ (by decide)
  case parts => exact released_foldl (partsOf s f) _ (by exact hparts) (.inl (mem_partsOf hen hfn))
  case queues =>
    have hq : (resetDone f (forgetCtxs (s.ctxsOf f) { releasedState s f with mem := m, lqs := l })).lq f n = returned (s.lq f n) :=
      hqueues n hn
    rw [hq]
    exact ⟨rfl, rfl, rfl⟩
  case hbm =>
    have hrel := releaseParts_hbm (partsOf s f) { s with mem := dropCtxs (s.ctxsOf f) s.mem } (dropCtxs_l1_nil hlines)
    calc (dropCtxs (s.ctxsOf f) m).hbm = m.hbm := (dropCtxs_frame _ _).1
      _ = (releasedState s f).mem.hbm := by rw [hquiet hnone]
      _ = (dropCtxs (s.ctxsOf f) s.mem).hbm := hrel
      _ = s.mem.hbm := (dropCtxs_frame _ _).1
  case contexts =>
    obtain ⟨hl1, hl2, hmt, hdie⟩ := ctxFree_dropCtxs (s.ctxsOf f) m (.inl hc)
    refine ⟨hl1, hl2, fun x hx => ?_, fun u e he => ?_, fun d e he => ?_⟩
    · have hkeep := (List.mem_filter.mp hx).2
      rintro rfl
      simp [hc] at hkeep
    · obtain ⟨p, hp, hep⟩ := mem_tlb he
      exact hmt p hp e hep
    · obtain ⟨p, hp, hep⟩ := mem_tlb he
      exact hdie p hp e hep

/-- Settles O53, from a function's reset and from the errors of a unit. -/
theorem resetsAndUnitErrors : Obligations.ResetsAndUnitErrors := ⟨vfResetClearsTheFunction, unitErrorsFence⟩

end Sys2Proof.Faults
end
